-- ==== Sys2Proof/Word.lean ====
section
/-!
DEFINITION. The word types of the device and their plainest arithmetic (spec 00 R12, R13, 01 R52).
-/

namespace Sys2Proof

/-- A word is 32 bits (R12). -/
abbrev Word := BitVec 32
/-- A byte of memory. -/
abbrev Byte := BitVec 8
/-- A lane mask: bit l stands for lane l. -/
abbrev Mask := BitVec 32
/-- A 56-bit virtual address, or a 64-bit register pair. -/
abbrev Dword := BitVec 64

/-- All lanes. -/
def allLanes : Mask := 0xFFFFFFFF#32

end Sys2Proof
end

