-- ==== Sys2Proof/Syntax.lean ====
section
/-!
DEFINITION. The instructions and events of the device as data (spec 03 R78 to R86, opcode_table.json).
Register fields are decoded into constructors once (R18); immediates stay the raw field of the word, because what
they mean depends on the XP word before them (R81).
-/

namespace Sys2Proof

/-- A 7-bit register field as a source (R18). -/
inductive Src where
  | win (n : Nat)  -- 0 to 111: window register
  | bp (k : Nat)   -- 112 to 115: bypass latch
  | z | ln | wid | tid
  deriving DecidableEq, Repr

/-- A 7-bit register field as a destination (R18): a window register, or z, which discards the result. -/
inductive Dst where
  | win (n : Nat)
  | z
  deriving DecidableEq, Repr

/-- Access widths of format M, W codes 000 to 110 (R63, R168). -/
inductive MemWidth where
  | n8 | s8 | n16 | s16 | w32 | w64 | w128
  deriving DecidableEq, Repr

/-- The D field of a load: one register for widths to 32 bits, a pair or group of four beyond (R168). -/
inductive LdReg where
  | one (d : Dst)
  | group (n : Nat)
  deriving DecidableEq, Repr

/-- The D field of a store (R168). -/
inductive StReg where
  | one (d : Src)
  | group (n : Nat)
  deriving DecidableEq, Repr

/-- The read-modify-write operations of R176. -/
inductive AtomOp where
  | add | inc | dec | xchg | andOp | orOp | xorOp | cas | minS | minN | maxS | maxN
  | faddF32 | faddBf16x2 | fminF32 | fmaxF32
  deriving DecidableEq, Repr

/-- What a peer device of the domain does to this one (R263, PEER_ACCESS). -/
inductive PeerKind where
  | load (bytes : Nat) | store (bytes : Nat) | atomic (op : AtomOp) | fence
  deriving DecidableEq, Repr

/-- An entry of the administrative ring (R385): its index in the ring, and the context it names. -/
structure Adm where
  slot : Nat
  ctx : Nat
  deriving DecidableEq, Repr

/-- One constructor per row of spec/opcode_table.json, in the table's order: the instruction words first with
their decoded fields, the XP word, then the events of the table, which have no encoding and carry what the event names. -/
inductive Instr where
  /-- ADD (R119). Adds A and B mod 2^32 into D, giving A when an affine source meets U or A. -/
  | add (nw : Bool) (d : Dst) (a : Src) (b : Src)
  /-- SUB (R119). Subtracts B from A mod 2^32 into D. -/
  | sub (nw : Bool) (d : Dst) (a : Src) (b : Src)
  /-- MUL (R119). Writes the low 32 bits of A times B to D. -/
  | mul (nw : Bool) (d : Dst) (a : Src) (b : Src)
  /-- MULH_S (R119). Writes bits 63:32 of the signed product of A and B to D. -/
  | mulhS (nw : Bool) (d : Dst) (a : Src) (b : Src)
  /-- MULH_N (R119). Writes bits 63:32 of the natural product of A and B to D. -/
  | mulhN (nw : Bool) (d : Dst) (a : Src) (b : Src)
  /-- MAD (R119). Writes D plus A times B, low 32 bits, to D. -/
  | mad (nw : Bool) (d : Dst) (a : Src) (b : Src)
  /-- DIV_S (R120). Signed division truncated towards zero, with fixed results for zero and overflow and no trap. -/
  | divS (nw : Bool) (d : Dst) (a : Src) (b : Src)
  /-- DIV_N (R120). Natural division, giving 0xFFFF_FFFF for a zero divisor. -/
  | divN (nw : Bool) (d : Dst) (a : Src) (b : Src)
  /-- REM_S (R120). Signed remainder taking the sign of the dividend. -/
  | remS (nw : Bool) (d : Dst) (a : Src) (b : Src)
  /-- REM_N (R120). Natural remainder, giving A for a zero divisor. -/
  | remN (nw : Bool) (d : Dst) (a : Src) (b : Src)
  /-- MIN_S (R119). Writes the smaller of A and B as s32. -/
  | minS (nw : Bool) (d : Dst) (a : Src) (b : Src)
  /-- MIN_N (R119). Writes the smaller of A and B as n32. -/
  | minN (nw : Bool) (d : Dst) (a : Src) (b : Src)
  /-- MAX_S (R119). Writes the larger of A and B as s32. -/
  | maxS (nw : Bool) (d : Dst) (a : Src) (b : Src)
  /-- MAX_N (R119). Writes the larger of A and B as n32. -/
  | maxN (nw : Bool) (d : Dst) (a : Src) (b : Src)
  /-- ADDS_S (R119). Signed addition saturated to the s32 range. -/
  | addsS (nw : Bool) (d : Dst) (a : Src) (b : Src)
  /-- SUBS_S (R119). Signed subtraction saturated to the s32 range. -/
  | subsS (nw : Bool) (d : Dst) (a : Src) (b : Src)
  /-- AND (R121). Bitwise AND of A and B. -/
  | andR (nw : Bool) (d : Dst) (a : Src) (b : Src)
  /-- OR (R121). Bitwise OR of A and B. -/
  | orR (nw : Bool) (d : Dst) (a : Src) (b : Src)
  /-- XOR (R121). Bitwise XOR of A and B. -/
  | xorR (nw : Bool) (d : Dst) (a : Src) (b : Src)
  /-- ANDN (R121). A AND NOT B. -/
  | andn (nw : Bool) (d : Dst) (a : Src) (b : Src)
  /-- ORN (R121). A OR NOT B. -/
  | orn (nw : Bool) (d : Dst) (a : Src) (b : Src)
  /-- XNOR (R121). NOT (A XOR B). -/
  | xnor (nw : Bool) (d : Dst) (a : Src) (b : Src)
  /-- SHL (R121). Shifts A left by B AND 31, keeping A shape for an affine source and U amount. -/
  | shl (nw : Bool) (d : Dst) (a : Src) (b : Src)
  /-- SHR (R121). Logical right shift of A by B AND 31. -/
  | shr (nw : Bool) (d : Dst) (a : Src) (b : Src)
  /-- SAR (R121). Arithmetic right shift of A by B AND 31. -/
  | sar (nw : Bool) (d : Dst) (a : Src) (b : Src)
  /-- ROTL (R121). Rotates A left by B AND 31. -/
  | rotl (nw : Bool) (d : Dst) (a : Src) (b : Src)
  /-- CLZ (R121). Counts the leading zero bits of A. -/
  | clz (nw : Bool) (d : Dst) (a : Src)
  /-- POPC (R121). Counts the set bits of A. -/
  | popc (nw : Bool) (d : Dst) (a : Src)
  /-- BREV (R121). Reverses the bits of A. -/
  | brev (nw : Bool) (d : Dst) (a : Src)
  /-- BFX_N (R122). Extracts a zero-extended bit field of A under control word B. -/
  | bfxN (nw : Bool) (d : Dst) (a : Src) (b : Src)
  /-- BFX_S (R122). Extracts a sign-extended bit field of A under control word B. -/
  | bfxS (nw : Bool) (d : Dst) (a : Src) (b : Src)
  /-- BFI (R122). Inserts the low bits of A into a field of D under control word B. -/
  | bfi (nw : Bool) (d : Dst) (a : Src) (b : Src)
  /-- ADDI (R123). Adds a signed or prefix-extended immediate to A. -/
  | addi (nw : Bool) (d : Dst) (a : Src) (imm : Nat)
  /-- MULI (R123). Multiplies A by an immediate, low 32 bits. -/
  | muli (nw : Bool) (d : Dst) (a : Src) (imm : Nat)
  /-- ANDI (R123). ANDs A with an immediate. -/
  | andi (nw : Bool) (d : Dst) (a : Src) (imm : Nat)
  /-- ORI (R123). ORs A with an immediate. -/
  | ori (nw : Bool) (d : Dst) (a : Src) (imm : Nat)
  /-- XORI (R123). XORs A with an immediate. -/
  | xori (nw : Bool) (d : Dst) (a : Src) (imm : Nat)
  /-- SHI_SHL (R123). Shifts A left by an immediate amount. -/
  | shiShl (nw : Bool) (d : Dst) (a : Src) (amt : Nat)
  /-- SHI_SHR (R123). Logical right shift of A by an immediate amount. -/
  | shiShr (nw : Bool) (d : Dst) (a : Src) (amt : Nat)
  /-- SHI_SAR (R123). Arithmetic right shift of A by an immediate amount. -/
  | shiSar (nw : Bool) (d : Dst) (a : Src) (amt : Nat)
  /-- SHI_ROTL (R123). Rotates A left by an immediate amount. -/
  | shiRotl (nw : Bool) (d : Dst) (a : Src) (amt : Nat)
  /-- LI (R124). Writes an 18-bit or prefix-extended 32-bit immediate to D as U. -/
  | li (nw : Bool) (d : Dst) (imm : Nat)
  /-- MOVS (R125). Writes the numbered user special register to D as U. -/
  | movs (nw : Bool) (d : Dst) (imm : Nat)
  /-- CMP (R126). Compares A with B per lane under a condition and sets or combines predicate PD. -/
  | cmp (cond : Nat) (pd : Nat) (a : Src) (b : Src) (pc : Nat) (cmb : Nat)
  /-- CMPI (R126). Compares A with an immediate per lane and sets predicate PD. -/
  | cmpi (cond : Nat) (pd : Nat) (a : Src) (imm : Nat)
  /-- FADD (R128). FP32 addition rounded to nearest even. -/
  | fadd (nw : Bool) (d : Dst) (a : Src) (b : Src)
  /-- FSUB (R128). FP32 subtraction. -/
  | fsub (nw : Bool) (d : Dst) (a : Src) (b : Src)
  /-- FMUL (R128). FP32 multiplication. -/
  | fmul (nw : Bool) (d : Dst) (a : Src) (b : Src)
  /-- FMA (R128). A times B plus D, rounded once. -/
  | fma (nw : Bool) (d : Dst) (a : Src) (b : Src)
  /-- FMS (R128). A times B minus D, rounded once. -/
  | fms (nw : Bool) (d : Dst) (a : Src) (b : Src)
  /-- FMIN (R128). minimumNumber of A and B. -/
  | fmin (nw : Bool) (d : Dst) (a : Src) (b : Src)
  /-- FMAX (R128). maximumNumber of A and B. -/
  | fmax (nw : Bool) (d : Dst) (a : Src) (b : Src)
  /-- FNEG (R128). Inverts the sign bit of A, canonicalising NaN. -/
  | fneg (nw : Bool) (d : Dst) (a : Src)
  /-- FABS (R128). Clears the sign bit of A, canonicalising NaN. -/
  | fabs (nw : Bool) (d : Dst) (a : Src)
  /-- FRCP (R107). Correctly rounded reciprocal of A. -/
  | frcp (nw : Bool) (d : Dst) (a : Src)
  /-- FRSQ (R107). Correctly rounded reciprocal square root of A. -/
  | frsq (nw : Bool) (d : Dst) (a : Src)
  /-- FSQRT (R107). Correctly rounded square root of A. -/
  | fsqrt (nw : Bool) (d : Dst) (a : Src)
  /-- FEXP2 (R107). Correctly rounded 2 to the power A. -/
  | fexp2 (nw : Bool) (d : Dst) (a : Src)
  /-- FLOG2 (R107). Correctly rounded base-2 logarithm of A. -/
  | flog2 (nw : Bool) (d : Dst) (a : Src)
  /-- FSIN (R107). Correctly rounded sin of pi times A. -/
  | fsin (nw : Bool) (d : Dst) (a : Src)
  /-- FTANH (R107). Correctly rounded tanh of A. -/
  | ftanh (nw : Bool) (d : Dst) (a : Src)
  /-- FCMP (R127). Compares A and B as f32 per lane under an IEEE condition and sets predicate PD. -/
  | fcmp (cond : Nat) (pd : Nat) (a : Src) (b : Src) (pc : Nat) (cmb : Nat)
  /-- HADD2_BF16 (R129). Adds two packed bf16 elements each. -/
  | hadd2Bf16 (nw : Bool) (d : Dst) (a : Src) (b : Src)
  /-- HMUL2_BF16 (R129). Multiplies two packed bf16 elements each. -/
  | hmul2Bf16 (nw : Bool) (d : Dst) (a : Src) (b : Src)
  /-- HFMA2_BF16 (R129). Packed bf16 fused multiply-add into D. -/
  | hfma2Bf16 (nw : Bool) (d : Dst) (a : Src) (b : Src)
  /-- HMIN2_BF16 (R129). Packed bf16 minimumNumber. -/
  | hmin2Bf16 (nw : Bool) (d : Dst) (a : Src) (b : Src)
  /-- HMAX2_BF16 (R129). Packed bf16 maximumNumber. -/
  | hmax2Bf16 (nw : Bool) (d : Dst) (a : Src) (b : Src)
  /-- HADD2_F16 (R129). Adds two packed f16 elements each. -/
  | hadd2F16 (nw : Bool) (d : Dst) (a : Src) (b : Src)
  /-- HMUL2_F16 (R129). Multiplies two packed f16 elements each. -/
  | hmul2F16 (nw : Bool) (d : Dst) (a : Src) (b : Src)
  /-- HFMA2_F16 (R129). Packed f16 fused multiply-add into D. -/
  | hfma2F16 (nw : Bool) (d : Dst) (a : Src) (b : Src)
  /-- HMIN2_F16 (R129). Packed f16 minimumNumber. -/
  | hmin2F16 (nw : Bool) (d : Dst) (a : Src) (b : Src)
  /-- HMAX2_F16 (R129). Packed f16 maximumNumber. -/
  | hmax2F16 (nw : Bool) (d : Dst) (a : Src) (b : Src)
  /-- PACK2 (R129). Packs the low halves of A and B into one word. -/
  | pack2 (nw : Bool) (d : Dst) (a : Src) (b : Src)
  /-- UNPK_LO (R129). Zero-extends the low half of A. -/
  | unpkLo (nw : Bool) (d : Dst) (a : Src)
  /-- UNPK_HI (R129). Zero-extends the high half of A. -/
  | unpkHi (nw : Bool) (d : Dst) (a : Src)
  /-- CVT (R130). Converts A from one format to another under a rounding code, stepping the generator under stochastic rounding. -/
  | cvt (nw : Bool) (d : Dst) (a : Src) (rnd : Nat) (src : Nat) (dst : Nat)
  /-- SEL (R132). Selects A or B per lane by a possibly inverted predicate. -/
  | sel (nw : Bool) (d : Dst) (a : Src) (b : Src) (p : Nat) (inv : Bool)
  /-- SHQ (R133). Writes the shape code of A to D as U. -/
  | shq (nw : Bool) (d : Dst) (a : Src)
  /-- SHA_U (R134). Asserts that A is U, else trap 0x06. -/
  | shaU (a : Src)
  /-- SHA_A (R134). Asserts that A is affine, else trap 0x06. -/
  | shaA (a : Src)
  /-- SHA_C (R134). Asserts that A is compact, else trap 0x06. -/
  | shaC (a : Src)
  /-- SHF_U (R135). Makes D uniform with lane lowest(em) of A as a full write. -/
  | shfU (nw : Bool) (d : Dst) (a : Src)
  /-- SHF_A (R136). Fits a base and stride to A over em and writes D as affine, or traps 0x06. -/
  | shfA (nw : Bool) (d : Dst) (a : Src)
  /-- SHW (R137). Widens n consecutive registers to V, all or nothing. -/
  | shw (d : Nat) (n : Nat)
  /-- SHN (R138). Re-compacts a V register against the live mask where its lanes allow. -/
  | shn (nw : Bool) (d : Dst)
  /-- WBASE (R139). Sets the window base to the U value of A. -/
  | wbase (a : Src)
  /-- WBASEI (R139). Moves the window base by an immediate multiple of 8. -/
  | wbasei (delta : Nat)
  /-- WQRY (R141). Writes the window base and allotment to D. -/
  | wqry (nw : Bool) (d : Dst)
  /-- IXSET (R141). Sets index register x[k] to the U value of A. -/
  | ixset (a : Src) (k : Nat)
  /-- IXGET (R141). Writes index register x[k] to D. -/
  | ixget (nw : Bool) (d : Dst) (k : Nat)
  /-- RGIVE (R143). Moves n free vector slots from the warp to the core's pool. -/
  | rgive (a : Src) (imm : Nat)
  /-- RCLAIM (R144). Queues a claim of n pool slots by age, parking the split, or traps 0x19. -/
  | rclaim (a : Src) (imm : Nat)
  /-- RQUOTA (R145). Writes the warp's quota and free count to D. -/
  | rquota (nw : Bool) (d : Dst)
  /-- ALLOTQ (R145). Writes the core's pool and claim-queue length to D. -/
  | allotq (nw : Bool) (d : Dst)
  /-- SHFL_IDX (R150). Each lane reads A from the lane indexed by B. -/
  | shflIdx (nw : Bool) (d : Dst) (a : Src) (b : Src)
  /-- SHFL_UP (R150). Each lane reads A from lane l minus B. -/
  | shflUp (nw : Bool) (d : Dst) (a : Src) (b : Src)
  /-- SHFL_DN (R150). Each lane reads A from lane l plus B. -/
  | shflDn (nw : Bool) (d : Dst) (a : Src) (b : Src)
  /-- SHFL_XOR (R150). Each lane reads A from lane l XOR B. -/
  | shflXor (nw : Bool) (d : Dst) (a : Src) (b : Src)
  /-- VOTE_BAL (R151). Writes the mask of em lanes whose predicate holds, as U. -/
  | voteBal (nw : Bool) (d : Dst) (p : Nat) (inv : Bool)
  /-- VOTE_ANY (R151). Sets a predicate in em lanes when any em lane's predicate holds. -/
  | voteAny (pd : Nat) (p : Nat) (inv : Bool)
  /-- VOTE_ALL (R151). Sets a predicate in em lanes when every em lane's predicate holds. -/
  | voteAll (pd : Nat) (p : Nat) (inv : Bool)
  /-- REDUX_ADD (R152). Sums A over em mod 2^32 into a U result. -/
  | reduxAdd (nw : Bool) (d : Dst) (a : Src)
  /-- REDUX_MIN (R152). Minimum of A over em, signed or natural. -/
  | reduxMin (nw : Bool) (d : Dst) (a : Src) (nat : Bool)
  /-- REDUX_MAX (R152). Maximum of A over em, signed or natural. -/
  | reduxMax (nw : Bool) (d : Dst) (a : Src) (nat : Bool)
  /-- REDUX_FADD (R152). Sums A over em as f32 in a fixed tree. -/
  | reduxFadd (nw : Bool) (d : Dst) (a : Src)
  /-- PFX_INC (R152). Inclusive prefix sum of A over em. -/
  | pfxInc (nw : Bool) (d : Dst) (a : Src)
  /-- PFX_EXC (R152). Exclusive prefix sum of A over em. -/
  | pfxExc (nw : Bool) (d : Dst) (a : Src)
  /-- RBAL (R153). Finds the owning lane and offset of work item B among the lanes' runs of A. -/
  | rbal (d : Nat) (a : Src) (b : Src)
  /-- MATCH (R154). Writes to each em lane the mask of em lanes with equal A. -/
  | matchLanes (nw : Bool) (d : Dst) (a : Src)
  /-- FIRST (R154). Writes A of lane lowest(em) as U. -/
  | firstLane (nw : Bool) (d : Dst) (a : Src)
  /-- PAND (R155). ANDs two predicates on all 32 bits. -/
  | pand (pd : Nat) (pa : Nat) (pb : Nat)
  /-- POR (R155). ORs two predicates. -/
  | por (pd : Nat) (pa : Nat) (pb : Nat)
  /-- PXOR (R155). XORs two predicates. -/
  | pxor (pd : Nat) (pa : Nat) (pb : Nat)
  /-- PANDN (R155). ANDs a predicate with the complement of another. -/
  | pandn (pd : Nat) (pa : Nat) (pb : Nat)
  /-- PNOT (R155). Complements a predicate. -/
  | pnot (pd : Nat) (pa : Nat)
  /-- PMOV (R155). Copies a predicate. -/
  | pmov (pd : Nat) (pa : Nat)
  /-- EMSET (R155). Narrows em by a possibly inverted predicate. -/
  | emset (p : Nat) (inv : Bool)
  /-- EMGET (R155). Copies em into a predicate. -/
  | emget (pd : Nat)
  /-- PFROMW (R155). Sets a predicate from a register, per lane or as a bit pattern. -/
  | pfromw (pd : Nat) (a : Src) (bitsForm : Bool)
  /-- PTOW (R155). Writes a predicate into a register, per lane or as a bit pattern. -/
  | ptow (nw : Bool) (d : Dst) (p : Nat) (bitsForm : Bool)
  /-- PPOPC (R155). Counts the predicate's bits within em. -/
  | ppopc (nw : Bool) (d : Dst) (p : Nat)
  /-- LIVEGET (R155). Copies the live mask into a predicate. -/
  | liveget (pd : Nat)
  /-- EMREST (R155). Restores em to the split's entry mask. -/
  | emrest
  /-- MFS (R228). Reads a numbered system register word into D in supervisor mode. -/
  | mfs (nw : Bool) (d : Dst) (num : Nat)
  /-- MTS (R228). Writes D into a writable numbered system register in supervisor mode. -/
  | mts (d : Src) (num : Nat)
  /-- RTE (R229). Ends the handler, restoring masks and mode and resuming by retry or skip. -/
  | rte (skip : Nat)
  /-- PKSET (R230). Sets sy.pkr to a U pair, privileged. -/
  | pkset (a : Nat)
  /-- PKDROP (R230). Removes key rights from sy.pkr. -/
  | pkdrop (a : Nat)
  /-- PMAP (R231). Maps a page from the first-touch pool and writes a status. -/
  | pmap (d : Dst) (a : Nat)
  /-- WAITF (R232). Posts a fault to the memory processor and parks until the reply. -/
  | waitf (d : Dst) (a : Nat) (access : Nat)
  /-- HALTW (R233). Halts the warp with a code in the error record. -/
  | haltw (a : Src)
  /-- SCPQ (R234). Describes a scope table entry without latching it. -/
  | scpq (nw : Bool) (d : Dst) (n : Nat)
  /-- TIMERD (R235). Reads the device time in nanoseconds into a pair. -/
  | timerd (d : Nat)
  /-- BMODE (R236). Requests a change of a cluster bank's mode and writes a status. -/
  | bmode (d : Dst) (a : Src) (b : Src)
  /-- BRA (R156). Branches the split by a signed word offset without dividing. -/
  | bra (off : Nat)
  /-- BRD (R157). Divergent branch that branches, falls through or divides the split with a join record. -/
  | brd (p : Nat) (n : Bool) (tgt : Nat) (rcv : Nat)
  /-- CALL (R158). Writes the return address to a pair and branches. -/
  | call (d : Nat) (imm : Nat)
  /-- BRX (R159). Branches to the address held in a U pair. -/
  | brx (a : Nat)
  /-- CALLX (R159). Calls the address held in a U pair, writing the link. -/
  | callx (d : Nat) (a : Nat)
  /-- RET (R159). Returns to the address held in a U pair. -/
  | ret (a : Nat)
  /-- NOP (R160). Does nothing but empty a latch slot. -/
  | nop
  /-- EXIT (R161). Removes em's lanes from the live mask, ending the warp when none remain. -/
  | exit
  /-- YIELD (R160). Causes a group switch. -/
  | yield
  /-- BRK (R160). Holds the warp when the debug flag is set and posts a KIND 9 record. -/
  | brk
  /-- SLEEP (R160). Parks the split for a number of cycles. -/
  | sleep (a : Src)
  /-- TRAP (R160). Raises trap 0x20 plus a user code. -/
  | trap (code : Nat)
  /-- BAR (R162). Parks the split at a team hardware barrier until the team arrives. -/
  | bar (pd : Nat) (idx : Nat)
  /-- WSYNC (R160). Stops the split until the warp's older accesses are performed and results written. -/
  | wsync
  /-- CBRUN (R165). Starts the core's Cobbler from a descriptor and writes a status. -/
  | cbrun (nw : Bool) (d : Dst) (a : Nat) (b : Src)
  /-- CBEND (R166). Ends the Cobbler and returns its slots and quota. -/
  | cbend
  /-- CBSTAT (R166). Writes the state of the core's Cobbler. -/
  | cbstat (nw : Bool) (d : Dst)
  /-- PROG (R160). Adds to the warp's saturating progress counter. -/
  | prog (a : Src)
  /-- LDG (R167). Loads global memory per lane after the access checks. -/
  | ldg (nw : Bool) (w : MemWidth) (d : LdReg) (a : Nat) (b : Src) (h : Nat)
  /-- STG (R167). Stores to global memory per lane after the access checks. -/
  | stg (w : MemWidth) (d : StReg) (a : Nat) (b : Src) (h : Nat)
  /-- LDS (R171). Loads from the crew's scratchpad. -/
  | lds (nw : Bool) (w : MemWidth) (d : LdReg) (a : Nat) (b : Src)
  /-- STS (R171). Stores to the crew's scratchpad. -/
  | sts (w : MemWidth) (d : StReg) (a : Nat) (b : Src)
  /-- LDP (R170). Loads per-lane private memory. -/
  | ldp (nw : Bool) (w : MemWidth) (d : LdReg) (a : Nat) (b : Src) (h : Nat)
  /-- STP (R170). Stores per-lane private memory. -/
  | stp (w : MemWidth) (d : StReg) (a : Nat) (b : Src) (h : Nat)
  /-- PREF (R174). Prefetches the named line into L1 or L2 with a hint. -/
  | pref (a : Nat) (b : Src) (h : Nat)
  /-- DEMOTE (R174). Clears the line's evict-last mark. -/
  | demote (a : Nat) (b : Src) (h : Nat)
  /-- CLEANL (R174). Writes the line back if dirty in the cluster L1 and keeps it. -/
  | cleanl (a : Nat) (b : Src) (h : Nat)
  /-- INVL (R174). Writes the line back if dirty and invalidates it in the cluster L1. -/
  | invl (a : Nat) (b : Src) (h : Nat)
  /-- ATOMI_ADD (R176). Atomic add on a global word at a scope. -/
  | atomiAdd (d : Dst) (a : Nat) (b : Src) (sc : Nat)
  /-- ATOMI_INC (R176). Atomic wrapping increment. -/
  | atomiInc (d : Dst) (a : Nat) (b : Src) (sc : Nat)
  /-- ATOMI_DEC (R176). Atomic wrapping decrement. -/
  | atomiDec (d : Dst) (a : Nat) (b : Src) (sc : Nat)
  /-- ATOMI_XCHG (R176). Atomic exchange. -/
  | atomiXchg (d : Dst) (a : Nat) (b : Src) (sc : Nat)
  /-- ATOML_AND (R176). Atomic AND. -/
  | atomlAnd (d : Dst) (a : Nat) (b : Src) (sc : Nat)
  /-- ATOML_OR (R176). Atomic OR. -/
  | atomlOr (d : Dst) (a : Nat) (b : Src) (sc : Nat)
  /-- ATOML_XOR (R176). Atomic XOR. -/
  | atomlXor (d : Dst) (a : Nat) (b : Src) (sc : Nat)
  /-- ATOML_CAS (R176). Atomic compare-and-swap with a data pair. -/
  | atomlCas (d : Dst) (a : Nat) (b : Nat) (sc : Nat)
  /-- ATOMM_MIN_S (R176). Atomic signed minimum. -/
  | atommMinS (d : Dst) (a : Nat) (b : Src) (sc : Nat)
  /-- ATOMM_MIN_N (R176). Atomic natural minimum. -/
  | atommMinN (d : Dst) (a : Nat) (b : Src) (sc : Nat)
  /-- ATOMM_MAX_S (R176). Atomic signed maximum. -/
  | atommMaxS (d : Dst) (a : Nat) (b : Src) (sc : Nat)
  /-- ATOMM_MAX_N (R176). Atomic natural maximum. -/
  | atommMaxN (d : Dst) (a : Nat) (b : Src) (sc : Nat)
  /-- ATOMF_FADD_F32 (R176). Atomic f32 add. -/
  | atomfFaddF32 (d : Dst) (a : Nat) (b : Src) (sc : Nat)
  /-- ATOMF_FADD_BF16X2 (R176). Atomic packed bf16 add. -/
  | atomfFaddBf16x2 (d : Dst) (a : Nat) (b : Src) (sc : Nat)
  /-- ATOMF_FMIN_F32 (R176). Atomic f32 minimumNumber. -/
  | atomfFminF32 (d : Dst) (a : Nat) (b : Src) (sc : Nat)
  /-- ATOMF_FMAX_F32 (R176). Atomic f32 maximumNumber. -/
  | atomfFmaxF32 (d : Dst) (a : Nat) (b : Src) (sc : Nat)
  /-- ATOMS_ADD (R179). Scratchpad atomic add. -/
  | atomsAdd (nw : Bool) (d : Dst) (a : Src) (b : Src)
  /-- ATOMS_INC (R179). Scratchpad atomic increment. -/
  | atomsInc (nw : Bool) (d : Dst) (a : Src) (b : Src)
  /-- ATOMS_DEC (R179). Scratchpad atomic decrement. -/
  | atomsDec (nw : Bool) (d : Dst) (a : Src) (b : Src)
  /-- ATOMS_XCHG (R179). Scratchpad atomic exchange. -/
  | atomsXchg (nw : Bool) (d : Dst) (a : Src) (b : Src)
  /-- ATOMS_AND (R179). Scratchpad atomic AND. -/
  | atomsAnd (nw : Bool) (d : Dst) (a : Src) (b : Src)
  /-- ATOMS_OR (R179). Scratchpad atomic OR. -/
  | atomsOr (nw : Bool) (d : Dst) (a : Src) (b : Src)
  /-- ATOMS_XOR (R179). Scratchpad atomic XOR. -/
  | atomsXor (nw : Bool) (d : Dst) (a : Src) (b : Src)
  /-- ATOMS_CAS (R179). Scratchpad atomic compare-and-swap. -/
  | atomsCas (nw : Bool) (d : Dst) (a : Src) (b : Nat)
  /-- ATOMS_MIN_S (R179). Scratchpad atomic signed minimum. -/
  | atomsMinS (nw : Bool) (d : Dst) (a : Src) (b : Src)
  /-- ATOMS_MIN_N (R179). Scratchpad atomic natural minimum. -/
  | atomsMinN (nw : Bool) (d : Dst) (a : Src) (b : Src)
  /-- ATOMS_MAX_S (R179). Scratchpad atomic signed maximum. -/
  | atomsMaxS (nw : Bool) (d : Dst) (a : Src) (b : Src)
  /-- ATOMS_MAX_N (R179). Scratchpad atomic natural maximum. -/
  | atomsMaxN (nw : Bool) (d : Dst) (a : Src) (b : Src)
  /-- ATOMS_FADD_F32 (R179). Scratchpad atomic f32 add. -/
  | atomsFaddF32 (nw : Bool) (d : Dst) (a : Src) (b : Src)
  /-- ATOMS_FADD_BF16X2 (R179). Scratchpad atomic packed bf16 add. -/
  | atomsFaddBf16x2 (nw : Bool) (d : Dst) (a : Src) (b : Src)
  /-- PHREL (R180). Release boundary at a scope, writing back the cluster L1's dirty lines. -/
  | phrel (sc : Nat)
  /-- PHACQ (R180). Acquire boundary at a scope, invalidating clean L1, Sieve and instruction cache lines. -/
  | phacq (sc : Nat)
  /-- PHAR (R180). Release followed by acquire as one instruction. -/
  | phar (sc : Nat)
  /-- BOINIT (R187). Initialises a barrier object with its expected arrivals. -/
  | boinit (a : Src) (b : Src)
  /-- BOARR (R188). Arrives at a barrier object with a count. -/
  | boarr (pd : Nat) (a : Src) (b : Src)
  /-- BOEXP (R188). Adds expected transaction bytes without arriving. -/
  | boexp (a : Src) (b : Src)
  /-- BOARX (R188). Adds expected bytes and arrives once as one step. -/
  | boarx (pd : Nat) (a : Src) (b : Src)
  /-- BOWAIT (R190). Waits for a barrier object's phase to flip, with a timeout. -/
  | bowait (pd : Nat) (a : Src) (b : Src)
  /-- BOTEST (R190). Tests whether a barrier object's phase has flipped. -/
  | botest (pd : Nat) (a : Src) (b : Src)
  /-- BOSTAT (R191). Reads a barrier object's closed status, phase, flags and left count. -/
  | bostat (d : Nat) (a : Src)
  /-- QPUSH (R196). Pushes an entry to a queue, parking without allowance or room. -/
  | qpush (a : Src) (q : Nat)
  /-- QPOP (R196). Pops the head entry of a queue, parking while empty. -/
  | qpop (nw : Bool) (d : Dst) (q : Nat)
  /-- QPUSHN (R196). Tries to push without parking and reports success. -/
  | qpushn (d : Nat) (a : Src) (q : Nat)
  /-- QPOPN (R196). Tries to pop without parking and reports success. -/
  | qpopn (d : Nat) (q : Nat)
  /-- QALLOW (R196). Adds send allowance to a queue. -/
  | qallow (a : Src) (q : Nat)
  /-- QCFG (R194). Configures, opens or closes a queue and releases its parked splits. -/
  | qcfg (a : Nat) (q : Nat)
  /-- QSTAT (R197). Reads a queue's count, state and allowance. -/
  | qstat (nw : Bool) (d : Dst) (q : Nat)
  /-- QBREAK (R197). Marks a queue broken. -/
  | qbreak (q : Nat)
  /-- CPY (R200). Checks and issues an 8-word copy descriptor to the copy engine. -/
  | cpy (a : Nat)
  /-- CPYX (R200). Checks and issues a 12-word copy descriptor with valid extent and follow-on. -/
  | cpyx (a : Nat)
  /-- WTANY (R204). Parks until any tag of the mask is set. -/
  | wtany (a : Nat)
  /-- WTALL (R204). Parks until every tag of the mask is set. -/
  | wtall (a : Nat)
  /-- WTFF (R204). Writes the lowest set tag of the mask. -/
  | wtff (nw : Bool) (d : Dst) (a : Nat)
  /-- TAGCLR (R204). Clears idle tags in sy.tagmap and the error map. -/
  | tagclr (a : Nat)
  /-- TAGRD (R204). Reads a word of sy.tagmap or the error map. -/
  | tagrd (nw : Bool) (d : Dst) (k : Nat)
  /-- CPYQ (R204). Reads the copy engine's free slots and the core's copies in flight. -/
  | cpyq (nw : Bool) (d : Dst)
  /-- SVLD_PLAIN (R206). Sieve gather of plain elements by coordinates. -/
  | svldPlain (nw : Bool) (d : Dst) (a : Nat) (b : Nat)
  /-- SVLD_N48 (R206). Sieve gather expanding N:48 compressed rows. -/
  | svldN48 (nw : Bool) (d : Dst) (a : Nat) (b : Nat)
  /-- SVLD_Q4 (R206). Sieve gather expanding q4 weights to bf16. -/
  | svldQ4 (nw : Bool) (d : Dst) (a : Nat) (b : Nat)
  /-- SVLD_MX (R206). Sieve gather expanding MX-scaled elements to f32. -/
  | svldMx (nw : Bool) (d : Dst) (a : Nat) (b : Nat)
  /-- TSHAPE (R210). Sets a tile's rows and row bytes. -/
  | tshape (t : Nat) (a : Src)
  /-- TFMT (R210). Sets a tile's format, attached tiles and NKEEP. -/
  | tfmt (t : Nat) (a : Src)
  /-- TSCALE (R210). Sets a tile's scale exponent. -/
  | tscale (t : Nat) (a : Src)
  /-- TQRY (R210). Reads a tile's two control words. -/
  | tqry (d : Nat) (t : Nat)
  /-- TZERO (R210). Zeroes a tile's 16 KiB. -/
  | tzero (t : Nat)
  /-- TTRN (R210). Transposes one tile into another. -/
  | ttrn (t : Nat) (u : Nat)
  /-- TCVT (R210). Converts one tile into another with rounding, Hadamard and scale. -/
  | tcvt (t : Nat) (a : Src) (u : Nat)
  /-- TROWR (R210). Reads half a tile row into a register. -/
  | trowr (d : Dst) (a : Src) (t : Nat)
  /-- TROWW (R210). Writes half a tile row from a register. -/
  | troww (t : Nat) (a : Src) (b : Src)
  /-- TLD (R211). Loads a tile from memory or scratchpad by rows. -/
  | tld (t : Nat) (a : Nat) (b : Src)
  /-- TST (R211). Stores a tile to memory or scratchpad by rows. -/
  | tst (t : Nat) (a : Nat) (b : Src)
  /-- MMA_BF16 (R213). bf16 matrix multiply-accumulate of two tiles into an accumulator. -/
  | mmaBf16 (acc : Nat) (clr : Bool) (ta : Nat) (tb : Nat)
  /-- MMA_F16 (R213). f16 matrix multiply-accumulate. -/
  | mmaF16 (acc : Nat) (clr : Bool) (ta : Nat) (tb : Nat)
  /-- MMA_E4M3 (R213). e4m3 matrix multiply-accumulate. -/
  | mmaE4m3 (acc : Nat) (clr : Bool) (ta : Nat) (tb : Nat)
  /-- MMA_E5M2 (R213). e5m2 matrix multiply-accumulate. -/
  | mmaE5m2 (acc : Nat) (clr : Bool) (ta : Nat) (tb : Nat)
  /-- MMA_DE8 (R213). de8 matrix multiply-accumulate. -/
  | mmaDe8 (acc : Nat) (clr : Bool) (ta : Nat) (tb : Nat)
  /-- MMA_S8 (R213). s8 matrix multiply-accumulate into s32. -/
  | mmaS8 (acc : Nat) (clr : Bool) (ta : Nat) (tb : Nat)
  /-- MMA_E2M1 (R213). e2m1 matrix multiply-accumulate. -/
  | mmaE2m1 (acc : Nat) (clr : Bool) (ta : Nat) (tb : Nat)
  /-- MMA_S4 (R213). s4 matrix multiply-accumulate into s32. -/
  | mmaS4 (acc : Nat) (clr : Bool) (ta : Nat) (tb : Nat)
  /-- MMA_Q4 (R213). bf16 by q4-expanded weights multiply-accumulate. -/
  | mmaQ4 (acc : Nat) (clr : Bool) (ta : Nat) (tb : Nat)
  /-- MMA_SP_BF16 (R213). N:48 sparse bf16 multiply-accumulate. -/
  | mmaSpBf16 (acc : Nat) (clr : Bool) (ta : Nat) (tb : Nat)
  /-- MMA_SP_E4M3 (R213). N:48 sparse e4m3 multiply-accumulate. -/
  | mmaSpE4m3 (acc : Nat) (clr : Bool) (ta : Nat) (tb : Nat)
  /-- MMA_MX_E4M3 (R213). MX-scaled e4m3 multiply-accumulate. -/
  | mmaMxE4m3 (acc : Nat) (clr : Bool) (ta : Nat) (tb : Nat)
  /-- MMA_MX_E2M1 (R213). MX-scaled e2m1 multiply-accumulate. -/
  | mmaMxE2m1 (acc : Nat) (clr : Bool) (ta : Nat) (tb : Nat)
  /-- TSEQ_BF16 (R215). Sequence of n bf16 MMAs over consecutive tiles into one accumulator. -/
  | tseqBf16 (acc : Nat) (clr : Bool) (ta : Nat) (tb : Nat)
  /-- TSEQ_F16 (R215). Sequence of f16 MMAs. -/
  | tseqF16 (acc : Nat) (clr : Bool) (ta : Nat) (tb : Nat)
  /-- TSEQ_E4M3 (R215). Sequence of e4m3 MMAs. -/
  | tseqE4m3 (acc : Nat) (clr : Bool) (ta : Nat) (tb : Nat)
  /-- TSEQ_E5M2 (R215). Sequence of e5m2 MMAs. -/
  | tseqE5m2 (acc : Nat) (clr : Bool) (ta : Nat) (tb : Nat)
  /-- TSEQ_DE8 (R215). Sequence of de8 MMAs. -/
  | tseqDe8 (acc : Nat) (clr : Bool) (ta : Nat) (tb : Nat)
  /-- TSEQ_S8 (R215). Sequence of s8 MMAs. -/
  | tseqS8 (acc : Nat) (clr : Bool) (ta : Nat) (tb : Nat)
  /-- TSEQ_E2M1 (R215). Sequence of e2m1 MMAs. -/
  | tseqE2m1 (acc : Nat) (clr : Bool) (ta : Nat) (tb : Nat)
  /-- TSEQ_S4 (R215). Sequence of s4 MMAs. -/
  | tseqS4 (acc : Nat) (clr : Bool) (ta : Nat) (tb : Nat)
  /-- TSEQ_Q4 (R215). Sequence of q4 MMAs. -/
  | tseqQ4 (acc : Nat) (clr : Bool) (ta : Nat) (tb : Nat)
  /-- TSEQ_SP_BF16 (R215). Sequence of sparse bf16 MMAs. -/
  | tseqSpBf16 (acc : Nat) (clr : Bool) (ta : Nat) (tb : Nat)
  /-- TSEQ_SP_E4M3 (R215). Sequence of sparse e4m3 MMAs. -/
  | tseqSpE4m3 (acc : Nat) (clr : Bool) (ta : Nat) (tb : Nat)
  /-- TSEQ_MX_E4M3 (R215). Sequence of MX e4m3 MMAs. -/
  | tseqMxE4m3 (acc : Nat) (clr : Bool) (ta : Nat) (tb : Nat)
  /-- TSEQ_MX_E2M1 (R215). Sequence of MX e2m1 MMAs. -/
  | tseqMxE2m1 (acc : Nat) (clr : Bool) (ta : Nat) (tb : Nat)
  /-- ACCZ (R217). Configures an accumulator's shape and type and zeroes it. -/
  | accz (acc : Nat) (a : Src)
  /-- ACCLD (R217). Loads an accumulator from memory. -/
  | accld (acc : Nat) (a : Nat) (c : Src)
  /-- ACCST (R217). Stores an accumulator rounded to a format. -/
  | accst (acc : Nat) (a : Nat) (c : Src)
  /-- ACCADD (R220). Adds an accumulator into memory as one indivisible tile update. -/
  | accadd (acc : Nat) (a : Nat) (c : Src)
  /-- ACCSTSP (R218). Stores an accumulator pruned to N:48 with masks. -/
  | accstsp (acc : Nat) (a : Nat) (c : Src)
  /-- ACCRMAX (R219). Folds each row's scaled maximum into a register pair. -/
  | accrmax (d : Nat) (acc : Nat) (a : Src)
  /-- ACCRSCL (R219). Scales each accumulator row by a register lane. -/
  | accrscl (acc : Nat) (d : Nat)
  /-- ACCROWR (R217). Reads an accumulator row into a register pair. -/
  | accrowr (d : Nat) (acc : Nat) (a : Src)
  /-- ACCROWW (R217). Writes an accumulator row from a register pair. -/
  | accroww (acc : Nat) (a : Src) (d : Nat)
  /-- ACCEXP (R219). Replaces accumulator elements by exp2 of the scaled, shifted value. -/
  | accexp (acc : Nat) (d : Nat) (a : Src)
  /-- ACCRSUM (R219). Adds each row's sum into a register pair. -/
  | accrsum (d : Nat) (acc : Nat)
  /-- ACCTOT (R217). Writes an accumulator into a tile rounded to its format. -/
  | acctot (t : Nat) (acc : Nat) (c : Src)
  /-- VLD (R240). Loads a sparse volume element by coordinates through a walk. -/
  | vld (d : Dst) (a : Src) (b : Nat)
  /-- VST (R240). Stores a volume element, allocating absent tiles when allowed. -/
  | vst (a : Src) (b : Nat) (d : Src)
  /-- VPROBE (R240). Reports whether the element's tile is present. -/
  | vprobe (d : Dst) (a : Src) (b : Nat)
  /-- VADD (R240). Atomically adds to a volume element at its home L2. -/
  | vadd (a : Src) (b : Nat) (d : Src)
  /-- VSHOOT (R244). Releases, increments a volume's generation and invalidates its CLB entries. -/
  | vshoot (a : Src)
  /-- VQRY (R244). Reads a volume's tile pool NEXT and CAP. -/
  | vqry (d : Nat) (a : Src)
  /-- SNAP (R245). Releases and starts a device-wide snapshot cut, parking for its status. -/
  | snap (d : Nat) (sc : Nat)
  /-- SNAPQ (R248). Reads the last snapshot generation and drain state. -/
  | snapq (d : Nat)
  /-- LAUNCH (R249). Releases and copies a launch record into a device launch queue. -/
  | launch (d : Nat) (a : Nat) (b : Src)
  /-- LAUNCHG (R249). As LAUNCH, marking the launch grouped. -/
  | launchg (d : Nat) (a : Nat) (b : Src)
  /-- LWAIT (R250). Parks until a launch ends or a timeout, writing a code. -/
  | lwait (d : Dst) (a : Src) (b : Src)
  /-- LQRY (R250). Returns a launch's code at once. -/
  | lqry (d : Dst) (a : Src)
  /-- XP (R80). Prefix supplying indirection and extension bits to the next word. -/
  | xp (ind : Nat) (xs : Nat) (ext : Nat)
  /-- WELT_ROTATION (R40). After 1,024 instructions with a suspended split, the oldest occupant and oldest suspended split swap. -/
  | weltRotation (w : Nat)
  /-- LOAD_DATA_RETURN (R169). Data of a performed load or returning atomic arrives and is written under the scoreboard. -/
  | loadDataReturn (w : Nat) (sp : Nat)
  /-- STOCKPOT_STALL_RESUME (R247). A write stalled for Stockpot space lands once the drain frees entries. -/
  | stockpotStallResume (w : Nat) (sp : Nat)
  /-- PAGE_WALK (R360). A home controller's walk completes, filling the TLB or reporting a fault. -/
  | pageWalk (ctx : Nat) (va : Nat)
  /-- PHASE_BOUNDARY_DONE (R180). A boundary's write-backs are acknowledged and its split resumes, trapping 0x14 if lines were refused. -/
  | phaseBoundaryDone (w : Nat) (sp : Nat)
  /-- WSYNC_DONE (R160). The warp's older accesses are performed and the WSYNC split resumes. -/
  | wsyncDone (w : Nat) (sp : Nat)
  /-- BAR_COMPLETE (R162). With every warp arrived and accesses performed, the barrier releases its parked splits. -/
  | barComplete (team : Nat) (idx : Nat)
  /-- SLEEP_EXPIRE (R160). A sleeping split's cycle count elapses and it resumes. -/
  | sleepExpire (w : Nat) (sp : Nat)
  /-- RCLAIM_GRANT (R144). The head claim is granted once the pool holds its count. -/
  | rclaimGrant (core : Nat)
  /-- QPUSH_GRANT (R196). A parked push is granted once allowance and room exist. -/
  | qpushGrant (crew : Nat) (q : Nat)
  /-- QPOP_GRANT (R196). A parked pop takes an entry once one is pushed. -/
  | qpopGrant (crew : Nat) (q : Nat)
  /-- BOWAIT_TIMEOUT (R190). A parked BOWAIT's timeout elapses and it returns 0. -/
  | bowaitTimeout (w : Nat) (sp : Nat)
  /-- COPY_UNPARK (R200). A copy parked for engine room, tag count or tile issues once room exists. -/
  | copyUnpark (w : Nat) (sp : Nat)
  /-- COPY_COMPLETE (R203). All elements land or the copy stops; tag count, object and follow-on are updated in order. -/
  | copyComplete (cluster : Nat) (k : Nat)
  /-- TILE_LANDED (R212). A tile's last byte lands and its scoreboard releases waiting readers and writers. -/
  | tileLanded (team : Nat) (t : Nat)
  /-- ARRAY_OP_COMPLETE (R94). The matrix array finishes an operation and releases accumulator readers. -/
  | arrayOpComplete (core : Nat)
  /-- BMODE_SWITCH (R236). After in-flight scratchpad work is performed, the bank changes mode and BMODE completes. -/
  | bmodeSwitch (w : Nat) (sp : Nat)
  /-- WALK_PENDING_RETRY (R241). After 64 cycles a walker rereads a pending tree entry. -/
  | walkPendingRetry (w : Nat) (sp : Nat)
  /-- VSHOOT_DONE (R244). Every cluster has acknowledged the VSHOOT and the split resumes. -/
  | vshootDone (w : Nat) (sp : Nat)
  /-- CUT_HOLD (R246). After SNAP's release is acknowledged, writes leaving L1s are held and the quiesce begins. -/
  | cutHold
  /-- CUT_SWITCH (R246). Once no writes remain in flight, all homes switch generation, writes are released and SNAP returns 0. -/
  | cutSwitch
  /-- CUT_QUIESCE_TIMEOUT (R246). A quiesce exceeding 3.5 µs abandons the cut and SNAP returns 3. -/
  | cutQuiesceTimeout
  /-- DRAIN_CHUNK (R350). The drain engine reads, hashes and emits a dirty chunk and frees its Stockpot copies. -/
  | drainChunk
  /-- DRAIN_RING_TIMEOUT (R398). The target ring lacks room for TFULL ms and the generation's drain fails. -/
  | drainRingTimeout (unreachable : Bool)
  /-- LAUNCH_DISPATCH (R288). The Lapstone firmware takes a queued launch record, validates it and rejects it or schedules its teams. -/
  | launchDispatch (ctx : Nat) (q : Nat)
  /-- TEAM_BIND (R292). A crew's teams bind to their cores once every need fits, creating or restoring warps. -/
  | teamBind (launch : Nat) (crew : Nat) (area : Nat)
  /-- LAUNCH_END (R250). After every team ends and the end releases are acknowledged, the launch's code is set and waiters resume. -/
  | launchEnd (launch : Nat)
  /-- LWAIT_TIMEOUT (R250). A parked LWAIT's timeout elapses and it returns 4. -/
  | lwaitTimeout (w : Nat) (sp : Nat)
  /-- QUANTUM_EXPIRE (R295). A resident team completes its quantum and becomes a pre-emption candidate. -/
  | quantumExpire (team : Nat)
  /-- AGE_TIMER_EXPIRE (R383). A queue's wait timer reaches AGE[EFF] and its effective level rises. -/
  | ageTimerExpire (ctx : Nat) (q : Nat)
  /-- PREEMPT_REQUEST (R383). A waiting team that does not fit triggers pre-emption of chosen resident teams. -/
  | preemptRequest (team : Nat)
  /-- SAVE_COMPLETE (R382). After copies and array work complete, the image is written and the quota returns to the pool. -/
  | saveComplete (team : Nat)
  /-- DRAIN_DEADLINE_EXPIRE (R384). A drained team still running at its deadline is decided again without drain. -/
  | drainDeadlineExpire (team : Nat)
  /-- ADMIN_RING_POLL (R385). The firmware polls the administrative ring's TAIL at least every 2 µs. -/
  | adminRingPoll
  /-- BIND (R385). Validates a CCB, invalidates its ASID's lines, increments CTXGEN and binds the context. -/
  | bind (e : Adm) (ccb : Nat) (ckpt : Nat)
  /-- KILL (R385). Drops every team of a context at once and ends its pending launches with code 2. -/
  | kill (e : Adm)
  /-- SUSPEND (R385). Decides every resident team of the context under a deadline. -/
  | suspend (e : Adm) (deadline : Nat)
  /-- SUSPEND_COMPLETE (R385). No team of the context remains resident and SUSPEND completes with STATE 2. -/
  | suspendComplete (ctx : Nat)
  /-- RESUME (R385). Sets STATE 1, invalidates the context's caches and restarts scheduling. -/
  | resume (e : Adm)
  /-- QCONF (R385). Rereads a queue descriptor and clears ERR. -/
  | qconf (e : Adm) (q : Nat)
  /-- QUANT (R385). Rereads the context's quantum and ageing periods. -/
  | quant (e : Adm)
  /-- UNBIND (R385). Writes back and invalidates the context's lines, scrubs secure clusters and frees the slot. -/
  | unbind (e : Adm)
  /-- SCOPE (R388). Reloads a scope table entry into every granted cluster, optionally waiting for old latches. -/
  | scope (e : Adm) (n : Nat) (wait : Bool)
  /-- VOLSHOOT (R386). Increments a volume's generation and invalidates its CLB entries for the driver. -/
  | volshoot (e : Adm) (h : Nat)
  /-- REGION (R393). Writes a controller's region table entry, scrubbing any range leaving the secure world. -/
  | region (e : Adm) (sel : Nat) (w0 : Nat) (w1 : Nat)
  /-- STOCK (R396). Sets the Stockpot size. -/
  | stock (e : Adm) (units : Nat)
  /-- RESTORE (R401). Writes drained chunks from host entries back into a suspended context. -/
  | restore (e : Adm) (addr : Nat) (bytes : Nat)
  /-- CHRET (R410). Retires an HBM channel with no valid leaf mapping into it. -/
  | chret (e : Adm) (sel : Nat)
  /-- WDOG (R410). Sets the watchdog period for the context's warps. -/
  | wdog (e : Adm) (ms : Nat)
  /-- RETIRE (R410). Marks a physical core for retirement. -/
  | retire (e : Adm) (core : Nat)
  /-- FWCOMMIT (R414). Advances the anti-rollback fuse counter. -/
  | fwcommit (e : Adm) (ver : Nat)
  /-- WREAD (R413). Writes a held or halted warp's state to a host buffer. -/
  | wread (e : Adm) (handle : Nat) (tid : Nat) (wid : Nat) (addr : Nat) (bytes : Nat)
  /-- WRELEASE (R413). Resumes a held warp or releases a halted one so its team may end. -/
  | wrelease (e : Adm) (handle : Nat) (tid : Nat) (wid : Nat)
  /-- SHOOT (R370). Memory processor shoot-down of a range's TLBs, cached lines and host answers. -/
  | shoot (ctx : Nat) (start : Nat) (pages : Nat)
  /-- POOLADD (R353). Raises TOP of a first-touch list by a count. -/
  | pooladd (ctx : Nat) (desc : Nat) (list : Nat) (n : Nat)
  /-- HAACK_WRITE (R370). The host acknowledges invalidations, letting a waiting SHOOT complete. -/
  | haackWrite (v : Nat)
  /-- FAULT_POST (R367). The memory processor takes a WAITF post, assigns a token, rechecks and replies or writes a kind 1 record. -/
  | faultPost (w : Nat)
  /-- FAULT_RING_RESUME (R365). Room appears in a fault ring and the held record group is written. -/
  | faultRingResume (ctx : Nat)
  /-- FAULT_REPLY (R367). A FREPLY2 write sends a reply to a resident warp's WAITF or into the fault-token bitmap. -/
  | faultReply (v : Nat)
  /-- QTAIL_WRITE (R378). A host tail write to a launch queue is accepted or sets ERR. -/
  | qtailWrite (ctx : Nat) (q : Nat) (v : Nat)
  /-- ARDY_WRITE (R406). Starts the firmware's polling of the administrative ring. -/
  | ardyWrite (v : Nat)
  /-- REGISTER_WRITE (R352). A host write to a window register with no behaviour of its own stores the value. -/
  | registerWrite (off : Nat) (v : Nat)
  /-- HOST_LOAD (R362). A host load of device memory is performed at the home L2 or refused. -/
  | hostLoad (ctx : Nat) (va : Nat) (size : Nat)
  /-- HOST_STORE (R362). A host store to device memory is performed at its home or dropped. -/
  | hostStore (ctx : Nat) (va : Nat) (size : Nat) (v : Nat)
  /-- HOST_ATOMIC (R362). A host atomic is performed at the home, or at the controller on SYSA pages. -/
  | hostAtomic (ctx : Nat) (va : Nat) (op : AtomOp) (v : Nat)
  /-- APERTURE_LOAD (R356). A host load at a device physical address through the aperture. -/
  | apertureLoad (off : Nat) (size : Nat)
  /-- APERTURE_STORE (R356). A host store at a device physical address through the aperture. -/
  | apertureStore (off : Nat) (size : Nat) (v : Nat)
  /-- TRANSLATION_QUERY (R361). The memory processor answers a host translation query for a unified range. -/
  | translationQuery (ctx : Nat) (va : Nat) (acc : Nat)
  /-- GET_MEASUREMENTS (R415). The device answers an SPDM measurement request with signed blocks. -/
  | getMeasurements
  /-- DIE_TEARDOWN (R404). An unpinnable error fences a die, poisons its lines elsewhere and kills contexts spanning it. -/
  | dieTeardown (die : Nat)
  /-- LINK_RETRAIN (R402). A link error beyond replay retrains the Kloak or Cyhild link. -/
  | linkRetrain (port : Nat)
  /-- LANE_SPARE (R409). A failing link lane is replaced by a spare or the link narrows. -/
  | laneSpare (port : Nat) (lane : Nat)
  /-- MEMORY_SCRUB (R402). A controller scrubs its stack, writing back corrected words. -/
  | memoryScrub (stack : Nat)
  /-- CORE_SELF_TEST (R408). The firmware self-tests ungranted cores every 24 hours. -/
  | coreSelfTest (core : Nat) (pass : Bool)
  /-- CORE_RETIREMENT (R408). A marked core whose cluster no context grants is fused out and a spare brought in. -/
  | coreRetirement (core : Nat)
  /-- BANK_SPARE (R409). A spare SRAM bank replaces a failing bank when no crew is resident. -/
  | bankSpare (cluster : Nat) (bank : Nat)
  /-- WATCHDOG_EXPIRE (R411). A warp's no-retire or BAR count reaches the period and it halts with 0x1B. -/
  | watchdogExpire (w : Nat)
  /-- FABRIC_KEEPALIVE (R411). A fabric keep-alive freezes the watchdog of warps waiting on that peer. -/
  | fabricKeepalive (peer : Nat)
  /-- KEEPALIVE_LAPSE (R411). 20 ms pass without keep-alive and the watchdog counts run again. -/
  | keepaliveLapse (peer : Nat)
  /-- DOMAIN_ACCESS_TIMEOUT (R411). A domain access unanswered 30 s after its first keep-alive fails with trap 0x1C. -/
  | domainAccessTimeout (w : Nat) (sp : Nat)
  /-- CLOCK_STEP (R417). The firmware lowers or raises the clock by 100 MHz to hold the power limit. -/
  | clockStep (up : Bool)
  /-- CLUSTER_CLOCK_GATE (R417). An idle cluster is clock-gated after 10 µs. -/
  | clusterClockGate (cluster : Nat)
  /-- CLUSTER_WAKE (R417). A gated cluster wakes within 1 µs when work arrives. -/
  | clusterWake (cluster : Nat)
  /-- DEVICE_RESET (R417). Reset marks memory all zero and boots the firmware. -/
  | deviceReset
  /-- POWER_LOSS (R417). Loss of package power discards all state but fuses. -/
  | powerLoss
  /-- PEER_ACCESS (R263). A load, store, atomic or fence from a peer device of the domain arrives over the Cyhild fabric at this device and is performed at its home. -/
  | peerAccess (peer : Nat) (kind : PeerKind) (ctx : Nat) (va : Nat) (v : Nat)
  /-- DRAIN_RING_RESUME (R397). Room appears in the drain target ring below RIDX + 2^LOG, and the drain engine writes the entry it was holding. -/
  | drainRingResume
  /-- AGEING_MONITOR_REPORT (R408). A core's ageing monitors report a path slack below the fused guard band, and the firmware marks the core for retirement. -/
  | ageingMonitorReport (core : Nat)
  deriving DecidableEq, Repr

end Sys2Proof
end

