-- ==== Sys2Proof/WellFormed.lean ====
section
/-!
DEFINITION. The instructions the encodings admit: every field inside its range (R18, R79, R86 to R88), and for the
events of the table every index inside the machine (R1 to R5, R51, R374).
-/

namespace Sys2Proof

def Src.wf : Src → Bool
  | .win n => decide (n < 112)
  | .bp k => decide (k < 4)
  | _ => true

def Dst.wf : Dst → Bool
  | .win n => decide (n < 112)
  | .z => true

/-- Widths to 32 bits name one register (R168). -/
def MemWidth.narrow : MemWidth → Bool
  | .w64 => false
  | .w128 => false
  | _ => true

def LdReg.wf (d : LdReg) (w : MemWidth) : Bool :=
  match d with
  | .one d => w.narrow && d.wf
  | .group n => !w.narrow && decide (n < 112)

def StReg.wf (d : StReg) (w : MemWidth) : Bool :=
  match d with
  | .one d => w.narrow && d.wf
  | .group n => !w.narrow && decide (n < 112)

/-- NW is legal on ATOMS only when it returns a value (R179, log 24). -/
def nwAllowed (nw : Bool) (d : Dst) : Bool := !nw || d != .z

/-- Every field of the instruction is one its encoding can hold. -/
def Instr.wf (i : Instr) : Bool :=
  match i with
  | .add _ d a b => d.wf && a.wf && b.wf
  | .sub _ d a b => d.wf && a.wf && b.wf
  | .mul _ d a b => d.wf && a.wf && b.wf
  | .mulhS _ d a b => d.wf && a.wf && b.wf
  | .mulhN _ d a b => d.wf && a.wf && b.wf
  | .mad _ d a b => d.wf && a.wf && b.wf
  | .divS _ d a b => d.wf && a.wf && b.wf
  | .divN _ d a b => d.wf && a.wf && b.wf
  | .remS _ d a b => d.wf && a.wf && b.wf
  | .remN _ d a b => d.wf && a.wf && b.wf
  | .minS _ d a b => d.wf && a.wf && b.wf
  | .minN _ d a b => d.wf && a.wf && b.wf
  | .maxS _ d a b => d.wf && a.wf && b.wf
  | .maxN _ d a b => d.wf && a.wf && b.wf
  | .addsS _ d a b => d.wf && a.wf && b.wf
  | .subsS _ d a b => d.wf && a.wf && b.wf
  | .andR _ d a b => d.wf && a.wf && b.wf
  | .orR _ d a b => d.wf && a.wf && b.wf
  | .xorR _ d a b => d.wf && a.wf && b.wf
  | .andn _ d a b => d.wf && a.wf && b.wf
  | .orn _ d a b => d.wf && a.wf && b.wf
  | .xnor _ d a b => d.wf && a.wf && b.wf
  | .shl _ d a b => d.wf && a.wf && b.wf
  | .shr _ d a b => d.wf && a.wf && b.wf
  | .sar _ d a b => d.wf && a.wf && b.wf
  | .rotl _ d a b => d.wf && a.wf && b.wf
  | .clz _ d a => d.wf && a.wf
  | .popc _ d a => d.wf && a.wf
  | .brev _ d a => d.wf && a.wf
  | .bfxN _ d a b => d.wf && a.wf && b.wf
  | .bfxS _ d a b => d.wf && a.wf && b.wf
  | .bfi _ d a b => d.wf && a.wf && b.wf
  | .addi _ d a imm => d.wf && a.wf && decide (imm < 2048)
  | .muli _ d a imm => d.wf && a.wf && decide (imm < 2048)
  | .andi _ d a imm => d.wf && a.wf && decide (imm < 2048)
  | .ori _ d a imm => d.wf && a.wf && decide (imm < 2048)
  | .xori _ d a imm => d.wf && a.wf && decide (imm < 2048)
  | .shiShl _ d a amt => d.wf && a.wf && decide (amt < 32)
  | .shiShr _ d a amt => d.wf && a.wf && decide (amt < 32)
  | .shiSar _ d a amt => d.wf && a.wf && decide (amt < 32)
  | .shiRotl _ d a amt => d.wf && a.wf && decide (amt < 32)
  | .li _ d imm => d.wf && decide (imm < 262144)
  | .movs _ d imm => d.wf && decide (imm < 262144)
  | .cmp cond pd a b pc cmb => decide (cond < 12) && decide (pd < 8) && a.wf && b.wf && decide (pc < 8) && decide (cmb < 3) && (cmb != 0 || pc == 0)
  | .cmpi cond pd a imm => decide (cond < 12) && decide (pd < 8) && a.wf && decide (imm < 4096)
  | .fadd _ d a b => d.wf && a.wf && b.wf
  | .fsub _ d a b => d.wf && a.wf && b.wf
  | .fmul _ d a b => d.wf && a.wf && b.wf
  | .fma _ d a b => d.wf && a.wf && b.wf
  | .fms _ d a b => d.wf && a.wf && b.wf
  | .fmin _ d a b => d.wf && a.wf && b.wf
  | .fmax _ d a b => d.wf && a.wf && b.wf
  | .fneg _ d a => d.wf && a.wf
  | .fabs _ d a => d.wf && a.wf
  | .frcp _ d a => d.wf && a.wf
  | .frsq _ d a => d.wf && a.wf
  | .fsqrt _ d a => d.wf && a.wf
  | .fexp2 _ d a => d.wf && a.wf
  | .flog2 _ d a => d.wf && a.wf
  | .fsin _ d a => d.wf && a.wf
  | .ftanh _ d a => d.wf && a.wf
  | .fcmp cond pd a b pc cmb => decide (cond < 8) && decide (pd < 8) && a.wf && b.wf && decide (pc < 8) && decide (cmb < 3) && (cmb != 0 || pc == 0)
  | .hadd2Bf16 _ d a b => d.wf && a.wf && b.wf
  | .hmul2Bf16 _ d a b => d.wf && a.wf && b.wf
  | .hfma2Bf16 _ d a b => d.wf && a.wf && b.wf
  | .hmin2Bf16 _ d a b => d.wf && a.wf && b.wf
  | .hmax2Bf16 _ d a b => d.wf && a.wf && b.wf
  | .hadd2F16 _ d a b => d.wf && a.wf && b.wf
  | .hmul2F16 _ d a b => d.wf && a.wf && b.wf
  | .hfma2F16 _ d a b => d.wf && a.wf && b.wf
  | .hmin2F16 _ d a b => d.wf && a.wf && b.wf
  | .hmax2F16 _ d a b => d.wf && a.wf && b.wf
  | .pack2 _ d a b => d.wf && a.wf && b.wf
  | .unpkLo _ d a => d.wf && a.wf
  | .unpkHi _ d a => d.wf && a.wf
  | .cvt _ d a rnd src dst => d.wf && a.wf && decide (rnd < 6) && decide (src < 15) && decide (dst < 15)
  | .sel _ d a b p _ => d.wf && a.wf && b.wf && decide (p < 8)
  | .shq _ d a => d.wf && a.wf
  | .shaU a => a.wf
  | .shaA a => a.wf
  | .shaC a => a.wf
  | .shfU _ d a => d.wf && a.wf
  | .shfA _ d a => d.wf && a.wf
  | .shw d n => decide (d < 112) && decide (1 ≤ n) && decide (n ≤ 16)
  | .shn _ d => d.wf
  | .wbase a => a.wf
  | .wbasei delta => decide (delta < 128)
  | .wqry _ d => d.wf
  | .ixset a k => a.wf && decide (k < 4)
  | .ixget _ d k => d.wf && decide (k < 4)
  | .rgive a imm => a.wf && decide (imm < 128)
  | .rclaim a imm => a.wf && decide (imm < 128)
  | .rquota _ d => d.wf
  | .allotq _ d => d.wf
  | .shflIdx _ d a b => d.wf && a.wf && b.wf
  | .shflUp _ d a b => d.wf && a.wf && b.wf
  | .shflDn _ d a b => d.wf && a.wf && b.wf
  | .shflXor _ d a b => d.wf && a.wf && b.wf
  | .voteBal _ d p _ => d.wf && decide (p < 8)
  | .voteAny pd p _ => decide (pd < 8) && decide (p < 8)
  | .voteAll pd p _ => decide (pd < 8) && decide (p < 8)
  | .reduxAdd _ d a => d.wf && a.wf
  | .reduxMin _ d a _ => d.wf && a.wf
  | .reduxMax _ d a _ => d.wf && a.wf
  | .reduxFadd _ d a => d.wf && a.wf
  | .pfxInc _ d a => d.wf && a.wf
  | .pfxExc _ d a => d.wf && a.wf
  | .rbal d a b => decide (d < 112) && a.wf && b.wf
  | .matchLanes _ d a => d.wf && a.wf
  | .firstLane _ d a => d.wf && a.wf
  | .pand pd pa pb => decide (pd < 8) && decide (pa < 8) && decide (pb < 8)
  | .por pd pa pb => decide (pd < 8) && decide (pa < 8) && decide (pb < 8)
  | .pxor pd pa pb => decide (pd < 8) && decide (pa < 8) && decide (pb < 8)
  | .pandn pd pa pb => decide (pd < 8) && decide (pa < 8) && decide (pb < 8)
  | .pnot pd pa => decide (pd < 8) && decide (pa < 8)
  | .pmov pd pa => decide (pd < 8) && decide (pa < 8)
  | .emset p _ => decide (p < 8)
  | .emget pd => decide (pd < 8)
  | .pfromw pd a _ => decide (pd < 8) && a.wf
  | .ptow _ d p _ => d.wf && decide (p < 8)
  | .ppopc _ d p => d.wf && decide (p < 8)
  | .liveget pd => decide (pd < 8)
  | .emrest => true
  | .mfs _ d num => d.wf && decide (num < 16384)
  | .mts d num => d.wf && decide (num < 16384)
  | .rte skip => decide (skip < 2)
  | .pkset a => decide (a < 112)
  | .pkdrop a => decide (a < 112)
  | .pmap d a => d.wf && decide (a < 112)
  | .waitf d a access => d.wf && decide (a < 112) && decide (access < 3)
  | .haltw a => a.wf
  | .scpq _ d n => d.wf && decide (n < 16)
  | .timerd d => decide (d < 112)
  | .bmode d a b => d.wf && a.wf && b.wf
  | .bra off => decide (off < 67108864)
  | .brd p _ tgt rcv => decide (p < 8) && decide (tgt < 2048) && decide (rcv < 2048)
  | .call d imm => decide (d < 112) && decide (imm < 262144)
  | .brx a => decide (a < 112)
  | .callx d a => decide (d < 112) && decide (a < 112)
  | .ret a => decide (a < 112)
  | .nop => true
  | .exit => true
  | .yield => true
  | .brk => true
  | .sleep a => a.wf
  | .trap code => decide (code < 32)
  | .bar pd idx => decide (pd < 8) && decide (idx < 16)
  | .wsync => true
  | .cbrun _ d a b => d.wf && decide (a < 112) && b.wf
  | .cbend => true
  | .cbstat _ d => d.wf
  | .prog a => a.wf
  | .ldg nw w d a b h => d.wf w && (!nw || w.narrow) && decide (a < 56) && b.wf && decide (h < 4)
  | .stg w d a b h => d.wf w && decide (a < 56) && b.wf && decide (h < 4)
  | .lds nw w d a b => d.wf w && (!nw || w.narrow) && decide (a < 56) && b.wf
  | .sts w d a b => d.wf w && decide (a < 56) && b.wf
  | .ldp nw w d a b h => d.wf w && (!nw || w.narrow) && decide (a < 56) && b.wf && decide (h < 4)
  | .stp w d a b h => d.wf w && decide (a < 56) && b.wf && decide (h < 4)
  | .pref a b h => decide (a < 56) && b.wf && decide (h < 4)
  | .demote a b h => decide (a < 56) && b.wf && decide (h < 4)
  | .cleanl a b h => decide (a < 56) && b.wf && decide (h < 4)
  | .invl a b h => decide (a < 56) && b.wf && decide (h < 4)
  | .atomiAdd d a b sc => d.wf && decide (a < 56) && b.wf && decide (sc < 16)
  | .atomiInc d a b sc => d.wf && decide (a < 56) && b.wf && decide (sc < 16)
  | .atomiDec d a b sc => d.wf && decide (a < 56) && b.wf && decide (sc < 16)
  | .atomiXchg d a b sc => d.wf && decide (a < 56) && b.wf && decide (sc < 16)
  | .atomlAnd d a b sc => d.wf && decide (a < 56) && b.wf && decide (sc < 16)
  | .atomlOr d a b sc => d.wf && decide (a < 56) && b.wf && decide (sc < 16)
  | .atomlXor d a b sc => d.wf && decide (a < 56) && b.wf && decide (sc < 16)
  | .atomlCas d a b sc => d.wf && decide (a < 56) && decide (b < 112) && decide (sc < 16)
  | .atommMinS d a b sc => d.wf && decide (a < 56) && b.wf && decide (sc < 16)
  | .atommMinN d a b sc => d.wf && decide (a < 56) && b.wf && decide (sc < 16)
  | .atommMaxS d a b sc => d.wf && decide (a < 56) && b.wf && decide (sc < 16)
  | .atommMaxN d a b sc => d.wf && decide (a < 56) && b.wf && decide (sc < 16)
  | .atomfFaddF32 d a b sc => d.wf && decide (a < 56) && b.wf && decide (sc < 16)
  | .atomfFaddBf16x2 d a b sc => d.wf && decide (a < 56) && b.wf && decide (sc < 16)
  | .atomfFminF32 d a b sc => d.wf && decide (a < 56) && b.wf && decide (sc < 16)
  | .atomfFmaxF32 d a b sc => d.wf && decide (a < 56) && b.wf && decide (sc < 16)
  | .atomsAdd n d a b => nwAllowed n d && d.wf && a.wf && b.wf
  | .atomsInc n d a b => nwAllowed n d && d.wf && a.wf && b.wf
  | .atomsDec n d a b => nwAllowed n d && d.wf && a.wf && b.wf
  | .atomsXchg n d a b => nwAllowed n d && d.wf && a.wf && b.wf
  | .atomsAnd n d a b => nwAllowed n d && d.wf && a.wf && b.wf
  | .atomsOr n d a b => nwAllowed n d && d.wf && a.wf && b.wf
  | .atomsXor n d a b => nwAllowed n d && d.wf && a.wf && b.wf
  | .atomsCas n d a b => nwAllowed n d && d.wf && a.wf && decide (b < 112)
  | .atomsMinS n d a b => nwAllowed n d && d.wf && a.wf && b.wf
  | .atomsMinN n d a b => nwAllowed n d && d.wf && a.wf && b.wf
  | .atomsMaxS n d a b => nwAllowed n d && d.wf && a.wf && b.wf
  | .atomsMaxN n d a b => nwAllowed n d && d.wf && a.wf && b.wf
  | .atomsFaddF32 n d a b => nwAllowed n d && d.wf && a.wf && b.wf
  | .atomsFaddBf16x2 n d a b => nwAllowed n d && d.wf && a.wf && b.wf
  | .phrel sc => decide (sc < 16)
  | .phacq sc => decide (sc < 16)
  | .phar sc => decide (sc < 16)
  | .boinit a b => a.wf && b.wf
  | .boarr pd a b => decide (pd < 8) && a.wf && b.wf
  | .boexp a b => a.wf && b.wf
  | .boarx pd a b => decide (pd < 8) && a.wf && b.wf
  | .bowait pd a b => decide (pd < 8) && a.wf && b.wf
  | .botest pd a b => decide (pd < 8) && a.wf && b.wf
  | .bostat d a => decide (d < 112) && a.wf
  | .qpush a q => a.wf && decide (q < 16)
  | .qpop _ d q => d.wf && decide (q < 16)
  | .qpushn d a q => decide (d < 112) && a.wf && decide (q < 16)
  | .qpopn d q => decide (d < 112) && decide (q < 16)
  | .qallow a q => a.wf && decide (q < 16)
  | .qcfg a q => decide (a < 112) && decide (q < 16)
  | .qstat _ d q => d.wf && decide (q < 16)
  | .qbreak q => decide (q < 16)
  | .cpy a => decide (a < 112)
  | .cpyx a => decide (a < 112)
  | .wtany a => decide (a < 112)
  | .wtall a => decide (a < 112)
  | .wtff _ d a => d.wf && decide (a < 112)
  | .tagclr a => decide (a < 112)
  | .tagrd _ d k => d.wf && decide (k < 4)
  | .cpyq _ d => d.wf
  | .svldPlain _ d a b => d.wf && decide (a < 112) && decide (b < 112)
  | .svldN48 _ d a b => d.wf && decide (a < 112) && decide (b < 112)
  | .svldQ4 _ d a b => d.wf && decide (a < 112) && decide (b < 112)
  | .svldMx _ d a b => d.wf && decide (a < 112) && decide (b < 112)
  | .tshape t a => decide (t < 16) && a.wf
  | .tfmt t a => decide (t < 16) && a.wf
  | .tscale t a => decide (t < 16) && a.wf
  | .tqry d t => decide (d < 112) && decide (t < 16)
  | .tzero t => decide (t < 16)
  | .ttrn t u => decide (t < 16) && decide (u < 16)
  | .tcvt t a u => decide (t < 16) && a.wf && decide (u < 16)
  | .trowr d a t => d.wf && a.wf && decide (t < 16)
  | .troww t a b => decide (t < 16) && a.wf && b.wf
  | .tld t a b => decide (t < 16) && decide (a < 112) && b.wf
  | .tst t a b => decide (t < 16) && decide (a < 112) && b.wf
  | .mmaBf16 acc _ ta tb => decide (acc < 4) && decide (ta < 16) && decide (tb < 16)
  | .mmaF16 acc _ ta tb => decide (acc < 4) && decide (ta < 16) && decide (tb < 16)
  | .mmaE4m3 acc _ ta tb => decide (acc < 4) && decide (ta < 16) && decide (tb < 16)
  | .mmaE5m2 acc _ ta tb => decide (acc < 4) && decide (ta < 16) && decide (tb < 16)
  | .mmaDe8 acc _ ta tb => decide (acc < 4) && decide (ta < 16) && decide (tb < 16)
  | .mmaS8 acc _ ta tb => decide (acc < 4) && decide (ta < 16) && decide (tb < 16)
  | .mmaE2m1 acc _ ta tb => decide (acc < 4) && decide (ta < 16) && decide (tb < 16)
  | .mmaS4 acc _ ta tb => decide (acc < 4) && decide (ta < 16) && decide (tb < 16)
  | .mmaQ4 acc _ ta tb => decide (acc < 4) && decide (ta < 16) && decide (tb < 16)
  | .mmaSpBf16 acc _ ta tb => decide (acc < 4) && decide (ta < 16) && decide (tb < 16)
  | .mmaSpE4m3 acc _ ta tb => decide (acc < 4) && decide (ta < 16) && decide (tb < 16)
  | .mmaMxE4m3 acc _ ta tb => decide (acc < 4) && decide (ta < 16) && decide (tb < 16)
  | .mmaMxE2m1 acc _ ta tb => decide (acc < 4) && decide (ta < 16) && decide (tb < 16)
  | .tseqBf16 acc _ ta tb => decide (acc < 4) && decide (ta < 16) && decide (tb < 16)
  | .tseqF16 acc _ ta tb => decide (acc < 4) && decide (ta < 16) && decide (tb < 16)
  | .tseqE4m3 acc _ ta tb => decide (acc < 4) && decide (ta < 16) && decide (tb < 16)
  | .tseqE5m2 acc _ ta tb => decide (acc < 4) && decide (ta < 16) && decide (tb < 16)
  | .tseqDe8 acc _ ta tb => decide (acc < 4) && decide (ta < 16) && decide (tb < 16)
  | .tseqS8 acc _ ta tb => decide (acc < 4) && decide (ta < 16) && decide (tb < 16)
  | .tseqE2m1 acc _ ta tb => decide (acc < 4) && decide (ta < 16) && decide (tb < 16)
  | .tseqS4 acc _ ta tb => decide (acc < 4) && decide (ta < 16) && decide (tb < 16)
  | .tseqQ4 acc _ ta tb => decide (acc < 4) && decide (ta < 16) && decide (tb < 16)
  | .tseqSpBf16 acc _ ta tb => decide (acc < 4) && decide (ta < 16) && decide (tb < 16)
  | .tseqSpE4m3 acc _ ta tb => decide (acc < 4) && decide (ta < 16) && decide (tb < 16)
  | .tseqMxE4m3 acc _ ta tb => decide (acc < 4) && decide (ta < 16) && decide (tb < 16)
  | .tseqMxE2m1 acc _ ta tb => decide (acc < 4) && decide (ta < 16) && decide (tb < 16)
  | .accz acc a => decide (acc < 4) && a.wf
  | .accld acc a c => decide (acc < 4) && decide (a < 112) && c.wf
  | .accst acc a c => decide (acc < 4) && decide (a < 112) && c.wf
  | .accadd acc a c => decide (acc < 4) && decide (a < 112) && c.wf
  | .accstsp acc a c => decide (acc < 4) && decide (a < 112) && c.wf
  | .accrmax d acc a => decide (d < 112) && decide (acc < 4) && a.wf
  | .accrscl acc d => decide (acc < 4) && decide (d < 112)
  | .accrowr d acc a => decide (d < 112) && decide (acc < 4) && a.wf
  | .accroww acc a d => decide (acc < 4) && a.wf && decide (d < 112)
  | .accexp acc d a => decide (acc < 4) && decide (d < 112) && a.wf
  | .accrsum d acc => decide (d < 112) && decide (acc < 4)
  | .acctot t acc c => decide (t < 16) && decide (acc < 4) && c.wf
  | .vld d a b => d.wf && a.wf && decide (b < 112)
  | .vst a b d => a.wf && decide (b < 112) && d.wf
  | .vprobe d a b => d.wf && a.wf && decide (b < 112)
  | .vadd a b d => a.wf && decide (b < 112) && d.wf
  | .vshoot a => a.wf
  | .vqry d a => decide (d < 112) && a.wf
  | .snap d sc => decide (d < 112) && decide (sc < 16)
  | .snapq d => decide (d < 112)
  | .launch d a b => decide (d < 112) && decide (a < 112) && b.wf
  | .launchg d a b => decide (d < 112) && decide (a < 112) && b.wf
  | .lwait d a b => d.wf && a.wf && b.wf
  | .lqry d a => d.wf && a.wf
  | .xp ind xs ext => decide (ind < 8) && decide (xs < 4) && decide (ext < 2097152)
  | .weltRotation _ => true
  | .loadDataReturn _ sp => decide (sp < 2 + 65536)
  | .stockpotStallResume _ sp => decide (sp < 2 + 65536)
  | .pageWalk ctx _ => decide (ctx < 64)
  | .phaseBoundaryDone _ sp => decide (sp < 2 + 65536)
  | .wsyncDone _ sp => decide (sp < 2 + 65536)
  | .barComplete _ idx => decide (idx < 16)
  | .sleepExpire _ sp => decide (sp < 2 + 65536)
  | .rclaimGrant core => decide (core < 768)
  | .qpushGrant _ q => decide (q < 16)
  | .qpopGrant _ q => decide (q < 16)
  | .bowaitTimeout _ sp => decide (sp < 2 + 65536)
  | .copyUnpark _ sp => decide (sp < 2 + 65536)
  | .copyComplete cluster k => decide (cluster < 192) && decide (k < 32)
  | .tileLanded _ _ => true
  | .arrayOpComplete core => decide (core < 768)
  | .bmodeSwitch _ sp => decide (sp < 2 + 65536)
  | .walkPendingRetry _ sp => decide (sp < 2 + 65536)
  | .vshootDone _ sp => decide (sp < 2 + 65536)
  | .cutHold => true
  | .cutSwitch => true
  | .cutQuiesceTimeout => true
  | .drainChunk => true
  | .drainRingTimeout _ => true
  | .launchDispatch ctx q => decide (ctx < 64) && decide (q < 64)
  | .teamBind _ _ _ => true
  | .launchEnd _ => true
  | .lwaitTimeout _ sp => decide (sp < 2 + 65536)
  | .quantumExpire _ => true
  | .ageTimerExpire ctx q => decide (ctx < 64) && decide (q < 64)
  | .preemptRequest _ => true
  | .saveComplete _ => true
  | .drainDeadlineExpire _ => true
  | .adminRingPoll => true
  | .bind e _ _ => decide (e.ctx < 64)
  | .kill e => decide (e.ctx < 64)
  | .suspend e _ => decide (e.ctx < 64)
  | .suspendComplete ctx => decide (ctx < 64)
  | .resume e => decide (e.ctx < 64)
  | .qconf e q => decide (e.ctx < 64) && decide (q < 64)
  | .quant e => decide (e.ctx < 64)
  | .unbind e => decide (e.ctx < 64)
  | .scope e _ _ => decide (e.ctx < 64)
  | .volshoot e _ => decide (e.ctx < 64)
  | .region e _ _ _ => decide (e.ctx < 64)
  | .stock e _ => decide (e.ctx < 64)
  | .restore e _ _ => decide (e.ctx < 64)
  | .chret e _ => decide (e.ctx < 64)
  | .wdog e _ => decide (e.ctx < 64)
  | .retire e core => decide (e.ctx < 64) && decide (core < 768)
  | .fwcommit e _ => decide (e.ctx < 64)
  | .wread e _ _ _ _ _ => decide (e.ctx < 64)
  | .wrelease e _ _ _ => decide (e.ctx < 64)
  | .shoot ctx _ _ => decide (ctx < 64)
  | .pooladd ctx _ _ _ => decide (ctx < 64)
  | .haackWrite _ => true
  | .faultPost _ => true
  | .faultRingResume ctx => decide (ctx < 64)
  | .faultReply _ => true
  | .qtailWrite ctx q _ => decide (ctx < 64) && decide (q < 64)
  | .ardyWrite _ => true
  | .registerWrite _ _ => true
  | .hostLoad ctx _ size => decide (ctx < 64) && (size == 1 || size == 2 || size == 4 || size == 8)
  | .hostStore ctx _ size _ => decide (ctx < 64) && (size == 1 || size == 2 || size == 4 || size == 8)
  | .hostAtomic ctx _ _ _ => decide (ctx < 64)
  | .apertureLoad _ size => (size == 1 || size == 2 || size == 4 || size == 8)
  | .apertureStore _ size _ => (size == 1 || size == 2 || size == 4 || size == 8)
  | .translationQuery ctx _ _ => decide (ctx < 64)
  | .getMeasurements => true
  | .dieTeardown die => decide (die < 4)
  | .linkRetrain _ => true
  | .laneSpare _ lane => decide (lane < 72)
  | .memoryScrub stack => decide (stack < 12)
  | .coreSelfTest core _ => decide (core < 768)
  | .coreRetirement core => decide (core < 768)
  | .bankSpare cluster bank => decide (cluster < 192) && decide (bank < 32)
  | .watchdogExpire _ => true
  | .fabricKeepalive _ => true
  | .keepaliveLapse _ => true
  | .domainAccessTimeout _ sp => decide (sp < 2 + 65536)
  | .clockStep _ => true
  | .clusterClockGate cluster => decide (cluster < 192)
  | .clusterWake cluster => decide (cluster < 192)
  | .deviceReset => true
  | .powerLoss => true
  | .peerAccess _ _ ctx _ _ => decide (ctx < 64)
  | .drainRingResume => true
  | .ageingMonitorReport core => decide (core < 768)

/-- A well-formed instruction. -/
abbrev WellFormed (i : Instr) : Prop := i.wf = true

/-- The instruction has an encoding: it is no event of the table. -/
def Instr.isWord (i : Instr) : Bool :=
  match i with
  | .add _ _ _ _ => true
  | .sub _ _ _ _ => true
  | .mul _ _ _ _ => true
  | .mulhS _ _ _ _ => true
  | .mulhN _ _ _ _ => true
  | .mad _ _ _ _ => true
  | .divS _ _ _ _ => true
  | .divN _ _ _ _ => true
  | .remS _ _ _ _ => true
  | .remN _ _ _ _ => true
  | .minS _ _ _ _ => true
  | .minN _ _ _ _ => true
  | .maxS _ _ _ _ => true
  | .maxN _ _ _ _ => true
  | .addsS _ _ _ _ => true
  | .subsS _ _ _ _ => true
  | .andR _ _ _ _ => true
  | .orR _ _ _ _ => true
  | .xorR _ _ _ _ => true
  | .andn _ _ _ _ => true
  | .orn _ _ _ _ => true
  | .xnor _ _ _ _ => true
  | .shl _ _ _ _ => true
  | .shr _ _ _ _ => true
  | .sar _ _ _ _ => true
  | .rotl _ _ _ _ => true
  | .clz _ _ _ => true
  | .popc _ _ _ => true
  | .brev _ _ _ => true
  | .bfxN _ _ _ _ => true
  | .bfxS _ _ _ _ => true
  | .bfi _ _ _ _ => true
  | .addi _ _ _ _ => true
  | .muli _ _ _ _ => true
  | .andi _ _ _ _ => true
  | .ori _ _ _ _ => true
  | .xori _ _ _ _ => true
  | .shiShl _ _ _ _ => true
  | .shiShr _ _ _ _ => true
  | .shiSar _ _ _ _ => true
  | .shiRotl _ _ _ _ => true
  | .li _ _ _ => true
  | .movs _ _ _ => true
  | .cmp _ _ _ _ _ _ => true
  | .cmpi _ _ _ _ => true
  | .fadd _ _ _ _ => true
  | .fsub _ _ _ _ => true
  | .fmul _ _ _ _ => true
  | .fma _ _ _ _ => true
  | .fms _ _ _ _ => true
  | .fmin _ _ _ _ => true
  | .fmax _ _ _ _ => true
  | .fneg _ _ _ => true
  | .fabs _ _ _ => true
  | .frcp _ _ _ => true
  | .frsq _ _ _ => true
  | .fsqrt _ _ _ => true
  | .fexp2 _ _ _ => true
  | .flog2 _ _ _ => true
  | .fsin _ _ _ => true
  | .ftanh _ _ _ => true
  | .fcmp _ _ _ _ _ _ => true
  | .hadd2Bf16 _ _ _ _ => true
  | .hmul2Bf16 _ _ _ _ => true
  | .hfma2Bf16 _ _ _ _ => true
  | .hmin2Bf16 _ _ _ _ => true
  | .hmax2Bf16 _ _ _ _ => true
  | .hadd2F16 _ _ _ _ => true
  | .hmul2F16 _ _ _ _ => true
  | .hfma2F16 _ _ _ _ => true
  | .hmin2F16 _ _ _ _ => true
  | .hmax2F16 _ _ _ _ => true
  | .pack2 _ _ _ _ => true
  | .unpkLo _ _ _ => true
  | .unpkHi _ _ _ => true
  | .cvt _ _ _ _ _ _ => true
  | .sel _ _ _ _ _ _ => true
  | .shq _ _ _ => true
  | .shaU _ => true
  | .shaA _ => true
  | .shaC _ => true
  | .shfU _ _ _ => true
  | .shfA _ _ _ => true
  | .shw _ _ => true
  | .shn _ _ => true
  | .wbase _ => true
  | .wbasei _ => true
  | .wqry _ _ => true
  | .ixset _ _ => true
  | .ixget _ _ _ => true
  | .rgive _ _ => true
  | .rclaim _ _ => true
  | .rquota _ _ => true
  | .allotq _ _ => true
  | .shflIdx _ _ _ _ => true
  | .shflUp _ _ _ _ => true
  | .shflDn _ _ _ _ => true
  | .shflXor _ _ _ _ => true
  | .voteBal _ _ _ _ => true
  | .voteAny _ _ _ => true
  | .voteAll _ _ _ => true
  | .reduxAdd _ _ _ => true
  | .reduxMin _ _ _ _ => true
  | .reduxMax _ _ _ _ => true
  | .reduxFadd _ _ _ => true
  | .pfxInc _ _ _ => true
  | .pfxExc _ _ _ => true
  | .rbal _ _ _ => true
  | .matchLanes _ _ _ => true
  | .firstLane _ _ _ => true
  | .pand _ _ _ => true
  | .por _ _ _ => true
  | .pxor _ _ _ => true
  | .pandn _ _ _ => true
  | .pnot _ _ => true
  | .pmov _ _ => true
  | .emset _ _ => true
  | .emget _ => true
  | .pfromw _ _ _ => true
  | .ptow _ _ _ _ => true
  | .ppopc _ _ _ => true
  | .liveget _ => true
  | .emrest => true
  | .mfs _ _ _ => true
  | .mts _ _ => true
  | .rte _ => true
  | .pkset _ => true
  | .pkdrop _ => true
  | .pmap _ _ => true
  | .waitf _ _ _ => true
  | .haltw _ => true
  | .scpq _ _ _ => true
  | .timerd _ => true
  | .bmode _ _ _ => true
  | .bra _ => true
  | .brd _ _ _ _ => true
  | .call _ _ => true
  | .brx _ => true
  | .callx _ _ => true
  | .ret _ => true
  | .nop => true
  | .exit => true
  | .yield => true
  | .brk => true
  | .sleep _ => true
  | .trap _ => true
  | .bar _ _ => true
  | .wsync => true
  | .cbrun _ _ _ _ => true
  | .cbend => true
  | .cbstat _ _ => true
  | .prog _ => true
  | .ldg _ _ _ _ _ _ => true
  | .stg _ _ _ _ _ => true
  | .lds _ _ _ _ _ => true
  | .sts _ _ _ _ => true
  | .ldp _ _ _ _ _ _ => true
  | .stp _ _ _ _ _ => true
  | .pref _ _ _ => true
  | .demote _ _ _ => true
  | .cleanl _ _ _ => true
  | .invl _ _ _ => true
  | .atomiAdd _ _ _ _ => true
  | .atomiInc _ _ _ _ => true
  | .atomiDec _ _ _ _ => true
  | .atomiXchg _ _ _ _ => true
  | .atomlAnd _ _ _ _ => true
  | .atomlOr _ _ _ _ => true
  | .atomlXor _ _ _ _ => true
  | .atomlCas _ _ _ _ => true
  | .atommMinS _ _ _ _ => true
  | .atommMinN _ _ _ _ => true
  | .atommMaxS _ _ _ _ => true
  | .atommMaxN _ _ _ _ => true
  | .atomfFaddF32 _ _ _ _ => true
  | .atomfFaddBf16x2 _ _ _ _ => true
  | .atomfFminF32 _ _ _ _ => true
  | .atomfFmaxF32 _ _ _ _ => true
  | .atomsAdd _ _ _ _ => true
  | .atomsInc _ _ _ _ => true
  | .atomsDec _ _ _ _ => true
  | .atomsXchg _ _ _ _ => true
  | .atomsAnd _ _ _ _ => true
  | .atomsOr _ _ _ _ => true
  | .atomsXor _ _ _ _ => true
  | .atomsCas _ _ _ _ => true
  | .atomsMinS _ _ _ _ => true
  | .atomsMinN _ _ _ _ => true
  | .atomsMaxS _ _ _ _ => true
  | .atomsMaxN _ _ _ _ => true
  | .atomsFaddF32 _ _ _ _ => true
  | .atomsFaddBf16x2 _ _ _ _ => true
  | .phrel _ => true
  | .phacq _ => true
  | .phar _ => true
  | .boinit _ _ => true
  | .boarr _ _ _ => true
  | .boexp _ _ => true
  | .boarx _ _ _ => true
  | .bowait _ _ _ => true
  | .botest _ _ _ => true
  | .bostat _ _ => true
  | .qpush _ _ => true
  | .qpop _ _ _ => true
  | .qpushn _ _ _ => true
  | .qpopn _ _ => true
  | .qallow _ _ => true
  | .qcfg _ _ => true
  | .qstat _ _ _ => true
  | .qbreak _ => true
  | .cpy _ => true
  | .cpyx _ => true
  | .wtany _ => true
  | .wtall _ => true
  | .wtff _ _ _ => true
  | .tagclr _ => true
  | .tagrd _ _ _ => true
  | .cpyq _ _ => true
  | .svldPlain _ _ _ _ => true
  | .svldN48 _ _ _ _ => true
  | .svldQ4 _ _ _ _ => true
  | .svldMx _ _ _ _ => true
  | .tshape _ _ => true
  | .tfmt _ _ => true
  | .tscale _ _ => true
  | .tqry _ _ => true
  | .tzero _ => true
  | .ttrn _ _ => true
  | .tcvt _ _ _ => true
  | .trowr _ _ _ => true
  | .troww _ _ _ => true
  | .tld _ _ _ => true
  | .tst _ _ _ => true
  | .mmaBf16 _ _ _ _ => true
  | .mmaF16 _ _ _ _ => true
  | .mmaE4m3 _ _ _ _ => true
  | .mmaE5m2 _ _ _ _ => true
  | .mmaDe8 _ _ _ _ => true
  | .mmaS8 _ _ _ _ => true
  | .mmaE2m1 _ _ _ _ => true
  | .mmaS4 _ _ _ _ => true
  | .mmaQ4 _ _ _ _ => true
  | .mmaSpBf16 _ _ _ _ => true
  | .mmaSpE4m3 _ _ _ _ => true
  | .mmaMxE4m3 _ _ _ _ => true
  | .mmaMxE2m1 _ _ _ _ => true
  | .tseqBf16 _ _ _ _ => true
  | .tseqF16 _ _ _ _ => true
  | .tseqE4m3 _ _ _ _ => true
  | .tseqE5m2 _ _ _ _ => true
  | .tseqDe8 _ _ _ _ => true
  | .tseqS8 _ _ _ _ => true
  | .tseqE2m1 _ _ _ _ => true
  | .tseqS4 _ _ _ _ => true
  | .tseqQ4 _ _ _ _ => true
  | .tseqSpBf16 _ _ _ _ => true
  | .tseqSpE4m3 _ _ _ _ => true
  | .tseqMxE4m3 _ _ _ _ => true
  | .tseqMxE2m1 _ _ _ _ => true
  | .accz _ _ => true
  | .accld _ _ _ => true
  | .accst _ _ _ => true
  | .accadd _ _ _ => true
  | .accstsp _ _ _ => true
  | .accrmax _ _ _ => true
  | .accrscl _ _ => true
  | .accrowr _ _ _ => true
  | .accroww _ _ _ => true
  | .accexp _ _ _ => true
  | .accrsum _ _ => true
  | .acctot _ _ _ => true
  | .vld _ _ _ => true
  | .vst _ _ _ => true
  | .vprobe _ _ _ => true
  | .vadd _ _ _ => true
  | .vshoot _ => true
  | .vqry _ _ => true
  | .snap _ _ => true
  | .snapq _ => true
  | .launch _ _ _ => true
  | .launchg _ _ _ => true
  | .lwait _ _ _ => true
  | .lqry _ _ => true
  | .xp _ _ _ => true
  | .weltRotation _ => false
  | .loadDataReturn _ _ => false
  | .stockpotStallResume _ _ => false
  | .pageWalk _ _ => false
  | .phaseBoundaryDone _ _ => false
  | .wsyncDone _ _ => false
  | .barComplete _ _ => false
  | .sleepExpire _ _ => false
  | .rclaimGrant _ => false
  | .qpushGrant _ _ => false
  | .qpopGrant _ _ => false
  | .bowaitTimeout _ _ => false
  | .copyUnpark _ _ => false
  | .copyComplete _ _ => false
  | .tileLanded _ _ => false
  | .arrayOpComplete _ => false
  | .bmodeSwitch _ _ => false
  | .walkPendingRetry _ _ => false
  | .vshootDone _ _ => false
  | .cutHold => false
  | .cutSwitch => false
  | .cutQuiesceTimeout => false
  | .drainChunk => false
  | .drainRingTimeout _ => false
  | .launchDispatch _ _ => false
  | .teamBind _ _ _ => false
  | .launchEnd _ => false
  | .lwaitTimeout _ _ => false
  | .quantumExpire _ => false
  | .ageTimerExpire _ _ => false
  | .preemptRequest _ => false
  | .saveComplete _ => false
  | .drainDeadlineExpire _ => false
  | .adminRingPoll => false
  | .bind _ _ _ => false
  | .kill _ => false
  | .suspend _ _ => false
  | .suspendComplete _ => false
  | .resume _ => false
  | .qconf _ _ => false
  | .quant _ => false
  | .unbind _ => false
  | .scope _ _ _ => false
  | .volshoot _ _ => false
  | .region _ _ _ _ => false
  | .stock _ _ => false
  | .restore _ _ _ => false
  | .chret _ _ => false
  | .wdog _ _ => false
  | .retire _ _ => false
  | .fwcommit _ _ => false
  | .wread _ _ _ _ _ _ => false
  | .wrelease _ _ _ _ => false
  | .shoot _ _ _ => false
  | .pooladd _ _ _ _ => false
  | .haackWrite _ => false
  | .faultPost _ => false
  | .faultRingResume _ => false
  | .faultReply _ => false
  | .qtailWrite _ _ _ => false
  | .ardyWrite _ => false
  | .registerWrite _ _ => false
  | .hostLoad _ _ _ => false
  | .hostStore _ _ _ _ => false
  | .hostAtomic _ _ _ _ => false
  | .apertureLoad _ _ => false
  | .apertureStore _ _ _ => false
  | .translationQuery _ _ _ => false
  | .getMeasurements => false
  | .dieTeardown _ => false
  | .linkRetrain _ => false
  | .laneSpare _ _ => false
  | .memoryScrub _ => false
  | .coreSelfTest _ _ => false
  | .coreRetirement _ => false
  | .bankSpare _ _ => false
  | .watchdogExpire _ => false
  | .fabricKeepalive _ => false
  | .keepaliveLapse _ => false
  | .domainAccessTimeout _ _ => false
  | .clockStep _ => false
  | .clusterClockGate _ => false
  | .clusterWake _ => false
  | .deviceReset => false
  | .powerLoss => false
  | .peerAccess _ _ _ _ _ => false
  | .drainRingResume => false
  | .ageingMonitorReport _ => false

end Sys2Proof
end

