-- ==== Sys2Proof/Decode.lean ====
section
/-!
DEFINITION. The decoder and the encoder of the 32-bit words (spec 03 R78 to R90, the encoding tables R118, R149, R184,
R225, and opcode_table.json). Decoding is total: a word is an instruction, a word that raises trap 0x01, or one that
raises trap 0x02. The checks that need the prefix or the warp (R81, R82, R311, R48) are the machine's.

The decoder is marked noncomputable because Lean's runtime has no room for constructor tags past 244; the kernel
evaluates it like any other definition.
-/

namespace Sys2Proof

/-- What a word is (R90). -/
inductive Dec where
  | ok (i : Instr)
  | illegal    -- trap 0x01: reserved opcode or unassigned function code
  | reserved   -- trap 0x02: a zero field, a reserved code or an illegal register field
  deriving DecidableEq, Repr

/-- The field of `n` bits whose lowest bit is `lo`. -/
def fld (w lo n : Nat) : Nat := w / 2 ^ lo % 2 ^ n

/-- A word of a listed function: an instruction when its fields are legal, else trap 0x02. -/
def Dec.need (ok : Bool) (o : Option Instr) : Dec :=
  if ok then (match o with | some i => .ok i | none => .reserved) else .reserved

/-! ## Register fields (R18, R79, R168) -/

def Src.ofCode (n : Nat) : Option Src :=
  if n < 112 then some (.win n)
  else if n < 116 then some (.bp (n - 112))
  else if n = 116 then some .z
  else if n = 117 then some .ln
  else if n = 118 then some .wid
  else if n = 119 then some .tid
  else none

def Dst.ofCode (n : Nat) : Option Dst :=
  if n < 112 then some (.win n) else if n = 116 then some .z else none

def MemWidth.ofCode (n : Nat) : Option MemWidth :=
  match n with
  | 0 => some .n8
  | 1 => some .s8
  | 2 => some .n16
  | 3 => some .s16
  | 4 => some .w32
  | 5 => some .w64
  | 6 => some .w128
  | _ => none

/-- The D field of a load whose W field is `wc`. -/
def LdReg.ofCode (wc n : Nat) : Option LdReg :=
  if wc < 5 then (Dst.ofCode n).map .one else if n < 112 then some (.group n) else none

/-- The D field of a store whose W field is `wc`. -/
def StReg.ofCode (wc n : Nat) : Option StReg :=
  if wc < 5 then (Src.ofCode n).map .one else if n < 112 then some (.group n) else none

def Src.code : Src → Nat
  | .win n => n
  | .bp k => 112 + k
  | .z => 116
  | .ln => 117
  | .wid => 118
  | .tid => 119

def Dst.code : Dst → Nat
  | .win n => n
  | .z => 116

def MemWidth.code : MemWidth → Nat
  | .n8 => 0
  | .s8 => 1
  | .n16 => 2
  | .s16 => 3
  | .w32 => 4
  | .w64 => 5
  | .w128 => 6

def LdReg.code : LdReg → Nat
  | .one d => d.code
  | .group n => n

def StReg.code : StReg → Nat
  | .one d => d.code
  | .group n => n

def b2n (b : Bool) : Nat := if b then 1 else 0

/-! ## Decoding, one function for each layout of fields -/

/-- The words laid out as ADD (SUB, MUL, MULH_S, MULH_N, MAD and so on). -/
def likeAdd (k : Bool → Dst → Src → Src → Instr) (w : Nat) : Dec :=
  Dec.need (true) <| do
    let d ← Dst.ofCode (fld w 18 7)
    let a ← Src.ofCode (fld w 11 7)
    let b ← Src.ofCode (fld w 4 7)
    some (k (fld w 25 1 == 1) d a b)

/-- NW is legal on ATOMS only when it returns a value (R179). -/
def atomsNw (w : Nat) : Bool := fld w 25 1 == 0 || fld w 18 7 != 116

/-- The words laid out as ATOMS_ADD (ATOMS_INC, ATOMS_DEC, ATOMS_XCHG and so on). -/
def likeAtoms (k : Bool → Dst → Src → Src → Instr) (w : Nat) : Dec :=
  Dec.need (atomsNw w) <| do
    let d ← Dst.ofCode (fld w 18 7)
    let a ← Src.ofCode (fld w 11 7)
    let b ← Src.ofCode (fld w 4 7)
    some (k (fld w 25 1 == 1) d a b)

/-- The words laid out as CLZ (POPC, BREV, FNEG, FABS, FRCP and so on). -/
def likeClz (k : Bool → Dst → Src → Instr) (w : Nat) : Dec :=
  Dec.need (fld w 4 7 == 116) <| do
    let d ← Dst.ofCode (fld w 18 7)
    let a ← Src.ofCode (fld w 11 7)
    some (k (fld w 25 1 == 1) d a)

/-- The words laid out as ADDI (MULI, ANDI, ORI, XORI). -/
def likeAddi (k : Bool → Dst → Src → Nat → Instr) (w : Nat) : Dec :=
  Dec.need (true) <| do
    let d ← Dst.ofCode (fld w 18 7)
    let a ← Src.ofCode (fld w 11 7)
    some (k (fld w 25 1 == 1) d a (fld w 0 11))

/-- The words laid out as SHI_SHL (SHI_SHR, SHI_SAR, SHI_ROTL). -/
def likeShiShl (k : Bool → Dst → Src → Nat → Instr) (w : Nat) : Dec :=
  Dec.need (fld w 5 4 == 0) <| do
    let d ← Dst.ofCode (fld w 18 7)
    let a ← Src.ofCode (fld w 11 7)
    some (k (fld w 25 1 == 1) d a (fld w 0 5))

/-- The words laid out as LI (MOVS). -/
def likeLi (k : Bool → Dst → Nat → Instr) (w : Nat) : Dec :=
  Dec.need (true) <| do
    let d ← Dst.ofCode (fld w 18 7)
    some (k (fld w 25 1 == 1) d (fld w 0 18))

/-- The words laid out as CMP (alone). -/
def likeCmp (k : Nat → Nat → Src → Src → Nat → Nat → Instr) (w : Nat) : Dec :=
  Dec.need (decide ((fld w 22 4) < 12) && decide ((fld w 0 2) < 3) && (fld w 0 2 != 0 || fld w 2 3 == 0)) <| do
    let a ← Src.ofCode (fld w 12 7)
    let b ← Src.ofCode (fld w 5 7)
    some (k (fld w 22 4) (fld w 19 3) a b (fld w 2 3) (fld w 0 2))

/-- The words laid out as CMPI (alone). -/
def likeCmpi (k : Nat → Nat → Src → Nat → Instr) (w : Nat) : Dec :=
  Dec.need (decide ((fld w 22 4) < 12)) <| do
    let a ← Src.ofCode (fld w 12 7)
    some (k (fld w 22 4) (fld w 19 3) a (fld w 0 12))

/-- The words laid out as FCMP (alone). -/
def likeFcmp (k : Nat → Nat → Src → Src → Nat → Nat → Instr) (w : Nat) : Dec :=
  Dec.need (decide ((fld w 22 4) < 8) && decide ((fld w 0 2) < 3) && (fld w 0 2 != 0 || fld w 2 3 == 0)) <| do
    let a ← Src.ofCode (fld w 12 7)
    let b ← Src.ofCode (fld w 5 7)
    some (k (fld w 22 4) (fld w 19 3) a b (fld w 2 3) (fld w 0 2))

/-- The words laid out as CVT (alone). -/
def likeCvt (k : Bool → Dst → Src → Nat → Nat → Nat → Instr) (w : Nat) : Dec :=
  Dec.need (decide ((fld w 8 3) < 6) && decide ((fld w 4 4) < 15) && decide ((fld w 0 4) < 15)) <| do
    let d ← Dst.ofCode (fld w 18 7)
    let a ← Src.ofCode (fld w 11 7)
    some (k (fld w 25 1 == 1) d a (fld w 8 3) (fld w 4 4) (fld w 0 4))

/-- The words laid out as SEL (alone). -/
def likeSel (k : Bool → Dst → Src → Src → Nat → Bool → Instr) (w : Nat) : Dec :=
  Dec.need (true) <| do
    let d ← Dst.ofCode (fld w 18 7)
    let a ← Src.ofCode (fld w 11 7)
    let b ← Src.ofCode (fld w 4 7)
    some (k (fld w 25 1 == 1) d a b (fld w 0 3) (fld w 3 1 == 1))

/-- The words laid out as SHA_U (SHA_A, SHA_C, WBASE, HALTW, SLEEP and so on). -/
def likeShaU (k : Src → Instr) (w : Nat) : Dec :=
  Dec.need (fld w 4 7 == 116 && fld w 18 8 == 116) <| do
    let a ← Src.ofCode (fld w 11 7)
    some (k a)

/-- The words laid out as SHW (alone). -/
def likeShw (k : Nat → Nat → Instr) (w : Nat) : Dec :=
  Dec.need (fld w 11 7 == 116 && fld w 25 1 == 0 && decide ((fld w 18 7) < 112) && decide (1 ≤ (fld w 4 7)) && decide ((fld w 4 7) ≤ 16)) <| some (k (fld w 18 7) (fld w 4 7))

/-- The words laid out as SHN (WQRY, RQUOTA, ALLOTQ, CBSTAT, CPYQ). -/
def likeShn (k : Bool → Dst → Instr) (w : Nat) : Dec :=
  Dec.need (fld w 4 14 == 14964) <| do
    let d ← Dst.ofCode (fld w 18 7)
    some (k (fld w 25 1 == 1) d)

/-- The words laid out as WBASEI (alone). -/
def likeWbasei (k : Nat → Instr) (w : Nat) : Dec :=
  Dec.need (fld w 11 15 == 14964) <| some (k (fld w 4 7))

/-- The words laid out as IXSET (alone). -/
def likeIxset (k : Src → Nat → Instr) (w : Nat) : Dec :=
  Dec.need (fld w 6 5 == 0 && fld w 18 8 == 116) <| do
    let a ← Src.ofCode (fld w 11 7)
    some (k a (fld w 4 2))

/-- The words laid out as IXGET (TAGRD). -/
def likeIxget (k : Bool → Dst → Nat → Instr) (w : Nat) : Dec :=
  Dec.need (fld w 6 12 == 3712) <| do
    let d ← Dst.ofCode (fld w 18 7)
    some (k (fld w 25 1 == 1) d (fld w 4 2))

/-- The words laid out as RGIVE (RCLAIM). -/
def likeRgive (k : Src → Nat → Instr) (w : Nat) : Dec :=
  Dec.need (fld w 18 8 == 116) <| do
    let a ← Src.ofCode (fld w 11 7)
    some (k a (fld w 4 7))

/-- The words laid out as VOTE_BAL (alone). -/
def likeVoteBal (k : Bool → Dst → Nat → Bool → Instr) (w : Nat) : Dec :=
  Dec.need (fld w 8 10 == 928) <| do
    let d ← Dst.ofCode (fld w 18 7)
    some (k (fld w 25 1 == 1) d (fld w 4 3) (fld w 7 1 == 1))

/-- The words laid out as VOTE_ANY (VOTE_ALL). -/
def likeVoteAny (k : Nat → Nat → Bool → Instr) (w : Nat) : Dec :=
  Dec.need (fld w 8 10 == 928 && fld w 21 5 == 0) <| some (k (fld w 18 3) (fld w 4 3) (fld w 7 1 == 1))

/-- The words laid out as REDUX_MIN (REDUX_MAX). -/
def likeReduxMin (k : Bool → Dst → Src → Bool → Instr) (w : Nat) : Dec :=
  Dec.need (fld w 5 6 == 0) <| do
    let d ← Dst.ofCode (fld w 18 7)
    let a ← Src.ofCode (fld w 11 7)
    some (k (fld w 25 1 == 1) d a (fld w 4 1 == 1))

/-- The words laid out as RBAL (alone). -/
def likeRbal (k : Nat → Src → Src → Instr) (w : Nat) : Dec :=
  Dec.need (fld w 25 1 == 0 && decide ((fld w 18 7) < 112)) <| do
    let a ← Src.ofCode (fld w 11 7)
    let b ← Src.ofCode (fld w 4 7)
    some (k (fld w 18 7) a b)

/-- The words laid out as PAND (POR, PXOR, PANDN). -/
def likePand (k : Nat → Nat → Nat → Instr) (w : Nat) : Dec :=
  Dec.need (fld w 7 4 == 0 && fld w 14 4 == 0 && fld w 21 5 == 0) <| some (k (fld w 18 3) (fld w 11 3) (fld w 4 3))

/-- The words laid out as PNOT (PMOV). -/
def likePnot (k : Nat → Nat → Instr) (w : Nat) : Dec :=
  Dec.need (fld w 4 7 == 116 && fld w 14 4 == 0 && fld w 21 5 == 0) <| some (k (fld w 18 3) (fld w 11 3))

/-- The words laid out as EMSET (alone). -/
def likeEmset (k : Nat → Bool → Instr) (w : Nat) : Dec :=
  Dec.need (fld w 4 7 == 116 && fld w 15 11 == 928) <| some (k (fld w 11 3) (fld w 14 1 == 1))

/-- The words laid out as EMGET (LIVEGET). -/
def likeEmget (k : Nat → Instr) (w : Nat) : Dec :=
  Dec.need (fld w 4 14 == 14964 && fld w 21 5 == 0) <| some (k (fld w 18 3))

/-- The words laid out as PFROMW (alone). -/
def likePfromw (k : Nat → Src → Bool → Instr) (w : Nat) : Dec :=
  Dec.need (fld w 5 6 == 0 && fld w 21 5 == 0) <| do
    let a ← Src.ofCode (fld w 11 7)
    some (k (fld w 18 3) a (fld w 4 1 == 1))

/-- The words laid out as PTOW (alone). -/
def likePtow (k : Bool → Dst → Nat → Bool → Instr) (w : Nat) : Dec :=
  Dec.need (fld w 5 6 == 0 && fld w 14 4 == 0) <| do
    let d ← Dst.ofCode (fld w 18 7)
    some (k (fld w 25 1 == 1) d (fld w 11 3) (fld w 4 1 == 1))

/-- The words laid out as PPOPC (alone). -/
def likePpopc (k : Bool → Dst → Nat → Instr) (w : Nat) : Dec :=
  Dec.need (fld w 4 7 == 116 && fld w 14 4 == 0) <| do
    let d ← Dst.ofCode (fld w 18 7)
    some (k (fld w 25 1 == 1) d (fld w 11 3))

/-- The words laid out as EMREST (NOP, EXIT, YIELD, BRK, WSYNC and so on). -/
def likeEmrest (k : Instr) (w : Nat) : Dec :=
  Dec.need (fld w 4 22 == 1915508) <| some k

/-- The words laid out as MFS (alone). -/
def likeMfs (k : Bool → Dst → Nat → Instr) (w : Nat) : Dec :=
  Dec.need (true) <| do
    let d ← Dst.ofCode (fld w 18 7)
    some (k (fld w 25 1 == 1) d (fld w 4 14))

/-- The words laid out as MTS (alone). -/
def likeMts (k : Src → Nat → Instr) (w : Nat) : Dec :=
  Dec.need (fld w 25 1 == 0) <| do
    let d ← Src.ofCode (fld w 18 7)
    some (k d (fld w 4 14))

/-- The words laid out as RTE (alone). -/
def likeRte (k : Nat → Instr) (w : Nat) : Dec :=
  Dec.need (fld w 5 21 == 957696) <| some (k (fld w 4 1))

/-- The words laid out as PKSET (PKDROP, BRX, RET, CPY, CPYX and so on). -/
def likePkset (k : Nat → Instr) (w : Nat) : Dec :=
  Dec.need (fld w 4 7 == 116 && fld w 18 8 == 116 && decide ((fld w 11 7) < 112)) <| some (k (fld w 11 7))

/-- The words laid out as PMAP (alone). -/
def likePmap (k : Dst → Nat → Instr) (w : Nat) : Dec :=
  Dec.need (fld w 4 7 == 116 && fld w 25 1 == 0 && decide ((fld w 11 7) < 112)) <| do
    let d ← Dst.ofCode (fld w 18 7)
    some (k d (fld w 11 7))

/-- The words laid out as WAITF (alone). -/
def likeWaitf (k : Dst → Nat → Nat → Instr) (w : Nat) : Dec :=
  Dec.need (fld w 6 5 == 0 && fld w 25 1 == 0 && decide ((fld w 11 7) < 112) && decide ((fld w 4 2) < 3)) <| do
    let d ← Dst.ofCode (fld w 18 7)
    some (k d (fld w 11 7) (fld w 4 2))

/-- The words laid out as SCPQ (QPOP, QSTAT). -/
def likeScpq (k : Bool → Dst → Nat → Instr) (w : Nat) : Dec :=
  Dec.need (fld w 8 10 == 928) <| do
    let d ← Dst.ofCode (fld w 18 7)
    some (k (fld w 25 1 == 1) d (fld w 4 4))

/-- The words laid out as TIMERD (SNAPQ). -/
def likeTimerd (k : Nat → Instr) (w : Nat) : Dec :=
  Dec.need (fld w 4 14 == 14964 && fld w 25 1 == 0 && decide ((fld w 18 7) < 112)) <| some (k (fld w 18 7))

/-- The words laid out as BMODE (LWAIT). -/
def likeBmode (k : Dst → Src → Src → Instr) (w : Nat) : Dec :=
  Dec.need (fld w 25 1 == 0) <| do
    let d ← Dst.ofCode (fld w 18 7)
    let a ← Src.ofCode (fld w 11 7)
    let b ← Src.ofCode (fld w 4 7)
    some (k d a b)

/-- The words laid out as BRA (alone). -/
def likeBra (k : Nat → Instr) (w : Nat) : Dec :=
  Dec.need (true) <| some (k (fld w 0 26))

/-- The words laid out as BRD (alone). -/
def likeBrd (k : Nat → Bool → Nat → Nat → Instr) (w : Nat) : Dec :=
  Dec.need (true) <| some (k (fld w 23 3) (fld w 22 1 == 1) (fld w 11 11) (fld w 0 11))

/-- The words laid out as CALL (alone). -/
def likeCall (k : Nat → Nat → Instr) (w : Nat) : Dec :=
  Dec.need (fld w 25 1 == 0 && decide ((fld w 18 7) < 112)) <| some (k (fld w 18 7) (fld w 0 18))

/-- The words laid out as CALLX (alone). -/
def likeCallx (k : Nat → Nat → Instr) (w : Nat) : Dec :=
  Dec.need (fld w 4 7 == 116 && fld w 25 1 == 0 && decide ((fld w 18 7) < 112) && decide ((fld w 11 7) < 112)) <| some (k (fld w 18 7) (fld w 11 7))

/-- The words laid out as TRAP (alone). -/
def likeTrap (k : Nat → Instr) (w : Nat) : Dec :=
  Dec.need (fld w 9 17 == 59856) <| some (k (fld w 4 5))

/-- The words laid out as BAR (alone). -/
def likeBar (k : Nat → Nat → Instr) (w : Nat) : Dec :=
  Dec.need (fld w 8 10 == 928 && fld w 21 5 == 0) <| some (k (fld w 18 3) (fld w 4 4))

/-- The words laid out as CBRUN (alone). -/
def likeCbrun (k : Bool → Dst → Nat → Src → Instr) (w : Nat) : Dec :=
  Dec.need (decide ((fld w 11 7) < 112)) <| do
    let d ← Dst.ofCode (fld w 18 7)
    let b ← Src.ofCode (fld w 4 7)
    some (k (fld w 25 1 == 1) d (fld w 11 7) b)

/-- The words laid out as LDG (LDP). -/
def likeLdg (k : Bool → MemWidth → LdReg → Nat → Src → Nat → Instr) (w : Nat) : Dec :=
  Dec.need (decide ((fld w 12 6) < 56) && (fld w 25 1 == 0 || decide (fld w 2 3 < 5))) <| do
    let mw ← MemWidth.ofCode (fld w 2 3)
    let d ← LdReg.ofCode (fld w 2 3) (fld w 18 7)
    let b ← Src.ofCode (fld w 5 7)
    some (k (fld w 25 1 == 1) mw d (fld w 12 6) b (fld w 0 2))

/-- The words laid out as STG (STP). -/
def likeStg (k : MemWidth → StReg → Nat → Src → Nat → Instr) (w : Nat) : Dec :=
  Dec.need (fld w 25 1 == 0 && decide ((fld w 12 6) < 56)) <| do
    let mw ← MemWidth.ofCode (fld w 2 3)
    let d ← StReg.ofCode (fld w 2 3) (fld w 18 7)
    let b ← Src.ofCode (fld w 5 7)
    some (k mw d (fld w 12 6) b (fld w 0 2))

/-- The words laid out as LDS (alone). -/
def likeLds (k : Bool → MemWidth → LdReg → Nat → Src → Instr) (w : Nat) : Dec :=
  Dec.need (fld w 0 2 == 0 && decide ((fld w 12 6) < 56) && (fld w 25 1 == 0 || decide (fld w 2 3 < 5))) <| do
    let mw ← MemWidth.ofCode (fld w 2 3)
    let d ← LdReg.ofCode (fld w 2 3) (fld w 18 7)
    let b ← Src.ofCode (fld w 5 7)
    some (k (fld w 25 1 == 1) mw d (fld w 12 6) b)

/-- The words laid out as STS (alone). -/
def likeSts (k : MemWidth → StReg → Nat → Src → Instr) (w : Nat) : Dec :=
  Dec.need (fld w 0 2 == 0 && fld w 25 1 == 0 && decide ((fld w 12 6) < 56)) <| do
    let mw ← MemWidth.ofCode (fld w 2 3)
    let d ← StReg.ofCode (fld w 2 3) (fld w 18 7)
    let b ← Src.ofCode (fld w 5 7)
    some (k mw d (fld w 12 6) b)

/-- The words laid out as PREF (DEMOTE, CLEANL, INVL). -/
def likePref (k : Nat → Src → Nat → Instr) (w : Nat) : Dec :=
  Dec.need (fld w 18 8 == 116 && decide ((fld w 12 6) < 56)) <| do
    let b ← Src.ofCode (fld w 5 7)
    some (k (fld w 12 6) b (fld w 0 2))

/-- The words laid out as ATOMI_ADD (ATOMI_INC, ATOMI_DEC, ATOMI_XCHG, ATOML_AND, ATOML_OR and so on). -/
def likeAtomiAdd (k : Dst → Nat → Src → Nat → Instr) (w : Nat) : Dec :=
  Dec.need (decide ((fld w 13 6) < 56)) <| do
    let d ← Dst.ofCode (fld w 19 7)
    let b ← Src.ofCode (fld w 6 7)
    some (k d (fld w 13 6) b (fld w 2 4))

/-- The words laid out as ATOML_CAS (alone). -/
def likeAtomlCas (k : Dst → Nat → Nat → Nat → Instr) (w : Nat) : Dec :=
  Dec.need (decide ((fld w 13 6) < 56) && decide ((fld w 6 7) < 112)) <| do
    let d ← Dst.ofCode (fld w 19 7)
    some (k d (fld w 13 6) (fld w 6 7) (fld w 2 4))

/-- The words laid out as ATOMS_CAS (alone). -/
def likeAtomsCas (k : Bool → Dst → Src → Nat → Instr) (w : Nat) : Dec :=
  Dec.need (atomsNw w && decide ((fld w 4 7) < 112)) <| do
    let d ← Dst.ofCode (fld w 18 7)
    let a ← Src.ofCode (fld w 11 7)
    some (k (fld w 25 1 == 1) d a (fld w 4 7))

/-- The words laid out as PHREL (PHACQ, PHAR). -/
def likePhrel (k : Nat → Instr) (w : Nat) : Dec :=
  Dec.need (fld w 4 19 == 0) <| some (k (fld w 0 4))

/-- The words laid out as BOINIT (BOEXP). -/
def likeBoinit (k : Src → Src → Instr) (w : Nat) : Dec :=
  Dec.need (fld w 18 8 == 116) <| do
    let a ← Src.ofCode (fld w 11 7)
    let b ← Src.ofCode (fld w 4 7)
    some (k a b)

/-- The words laid out as BOARR (BOARX, BOWAIT, BOTEST). -/
def likeBoarr (k : Nat → Src → Src → Instr) (w : Nat) : Dec :=
  Dec.need (fld w 21 5 == 0) <| do
    let a ← Src.ofCode (fld w 11 7)
    let b ← Src.ofCode (fld w 4 7)
    some (k (fld w 18 3) a b)

/-- The words laid out as BOSTAT (VQRY). -/
def likeBostat (k : Nat → Src → Instr) (w : Nat) : Dec :=
  Dec.need (fld w 4 7 == 116 && fld w 25 1 == 0 && decide ((fld w 18 7) < 112)) <| do
    let a ← Src.ofCode (fld w 11 7)
    some (k (fld w 18 7) a)

/-- The words laid out as QPUSH (QALLOW). -/
def likeQpush (k : Src → Nat → Instr) (w : Nat) : Dec :=
  Dec.need (fld w 8 3 == 0 && fld w 18 8 == 116) <| do
    let a ← Src.ofCode (fld w 11 7)
    some (k a (fld w 4 4))

/-- The words laid out as QPUSHN (alone). -/
def likeQpushn (k : Nat → Src → Nat → Instr) (w : Nat) : Dec :=
  Dec.need (fld w 8 3 == 0 && fld w 25 1 == 0 && decide ((fld w 18 7) < 112)) <| do
    let a ← Src.ofCode (fld w 11 7)
    some (k (fld w 18 7) a (fld w 4 4))

/-- The words laid out as QPOPN (TQRY, SNAP). -/
def likeQpopn (k : Nat → Nat → Instr) (w : Nat) : Dec :=
  Dec.need (fld w 8 10 == 928 && fld w 25 1 == 0 && decide ((fld w 18 7) < 112)) <| some (k (fld w 18 7) (fld w 4 4))

/-- The words laid out as QCFG (alone). -/
def likeQcfg (k : Nat → Nat → Instr) (w : Nat) : Dec :=
  Dec.need (fld w 8 3 == 0 && fld w 18 8 == 116 && decide ((fld w 11 7) < 112)) <| some (k (fld w 11 7) (fld w 4 4))

/-- The words laid out as QBREAK (alone). -/
def likeQbreak (k : Nat → Instr) (w : Nat) : Dec :=
  Dec.need (fld w 8 18 == 119712) <| some (k (fld w 4 4))

/-- The words laid out as WTFF (alone). -/
def likeWtff (k : Bool → Dst → Nat → Instr) (w : Nat) : Dec :=
  Dec.need (fld w 4 7 == 116 && decide ((fld w 11 7) < 112)) <| do
    let d ← Dst.ofCode (fld w 18 7)
    some (k (fld w 25 1 == 1) d (fld w 11 7))

/-- The words laid out as SVLD_PLAIN (SVLD_N48, SVLD_Q4, SVLD_MX). -/
def likeSvldPlain (k : Bool → Dst → Nat → Nat → Instr) (w : Nat) : Dec :=
  Dec.need (decide ((fld w 11 7) < 112) && decide ((fld w 4 7) < 112)) <| do
    let d ← Dst.ofCode (fld w 18 7)
    some (k (fld w 25 1 == 1) d (fld w 11 7) (fld w 4 7))

/-- The words laid out as TSHAPE (TFMT, TSCALE). -/
def likeTshape (k : Nat → Src → Instr) (w : Nat) : Dec :=
  Dec.need (fld w 4 7 == 116 && fld w 22 4 == 0) <| do
    let a ← Src.ofCode (fld w 11 7)
    some (k (fld w 18 4) a)

/-- The words laid out as TZERO (alone). -/
def likeTzero (k : Nat → Instr) (w : Nat) : Dec :=
  Dec.need (fld w 4 14 == 14964 && fld w 22 4 == 0) <| some (k (fld w 18 4))

/-- The words laid out as TTRN (alone). -/
def likeTtrn (k : Nat → Nat → Instr) (w : Nat) : Dec :=
  Dec.need (fld w 8 10 == 928 && fld w 22 4 == 0) <| some (k (fld w 18 4) (fld w 4 4))

/-- The words laid out as TCVT (alone). -/
def likeTcvt (k : Nat → Src → Nat → Instr) (w : Nat) : Dec :=
  Dec.need (fld w 8 3 == 0 && fld w 22 4 == 0) <| do
    let a ← Src.ofCode (fld w 11 7)
    some (k (fld w 18 4) a (fld w 4 4))

/-- The words laid out as TROWR (alone). -/
def likeTrowr (k : Dst → Src → Nat → Instr) (w : Nat) : Dec :=
  Dec.need (fld w 8 3 == 0 && fld w 25 1 == 0) <| do
    let d ← Dst.ofCode (fld w 18 7)
    let a ← Src.ofCode (fld w 11 7)
    some (k d a (fld w 4 4))

/-- The words laid out as TROWW (alone). -/
def likeTroww (k : Nat → Src → Src → Instr) (w : Nat) : Dec :=
  Dec.need (fld w 22 4 == 0) <| do
    let a ← Src.ofCode (fld w 11 7)
    let b ← Src.ofCode (fld w 4 7)
    some (k (fld w 18 4) a b)

/-- The words laid out as TLD (TST). -/
def likeTld (k : Nat → Nat → Src → Instr) (w : Nat) : Dec :=
  Dec.need (fld w 22 4 == 0 && decide ((fld w 11 7) < 112)) <| do
    let b ← Src.ofCode (fld w 4 7)
    some (k (fld w 18 4) (fld w 11 7) b)

/-- The words laid out as MMA_BF16 (MMA_F16, MMA_E4M3, MMA_E5M2, MMA_DE8, MMA_S8 and so on). -/
def likeMmaBf16 (k : Nat → Bool → Nat → Nat → Instr) (w : Nat) : Dec :=
  Dec.need (fld w 8 3 == 0 && fld w 15 7 == 0 && fld w 25 1 == 0) <| some (k (fld w 23 2) (fld w 22 1 == 1) (fld w 11 4) (fld w 4 4))

/-- The words laid out as ACCZ (alone). -/
def likeAccz (k : Nat → Src → Instr) (w : Nat) : Dec :=
  Dec.need (fld w 6 5 == 0 && fld w 18 8 == 116) <| do
    let a ← Src.ofCode (fld w 11 7)
    some (k (fld w 4 2) a)

/-- The words laid out as ACCLD (ACCST, ACCADD, ACCSTSP). -/
def likeAccld (k : Nat → Nat → Src → Instr) (w : Nat) : Dec :=
  Dec.need (fld w 6 5 == 0 && fld w 25 1 == 0 && decide ((fld w 11 7) < 112)) <| do
    let c ← Src.ofCode (fld w 18 7)
    some (k (fld w 4 2) (fld w 11 7) c)

/-- The words laid out as ACCRMAX (ACCROWR). -/
def likeAccrmax (k : Nat → Nat → Src → Instr) (w : Nat) : Dec :=
  Dec.need (fld w 6 5 == 0 && fld w 25 1 == 0 && decide ((fld w 18 7) < 112)) <| do
    let a ← Src.ofCode (fld w 11 7)
    some (k (fld w 18 7) (fld w 4 2) a)

/-- The words laid out as ACCRSCL (alone). -/
def likeAccrscl (k : Nat → Nat → Instr) (w : Nat) : Dec :=
  Dec.need (fld w 6 12 == 3712 && fld w 25 1 == 0 && decide ((fld w 18 7) < 112)) <| some (k (fld w 4 2) (fld w 18 7))

/-- The words laid out as ACCROWW (alone). -/
def likeAccroww (k : Nat → Src → Nat → Instr) (w : Nat) : Dec :=
  Dec.need (fld w 6 5 == 0 && fld w 25 1 == 0 && decide ((fld w 18 7) < 112)) <| do
    let a ← Src.ofCode (fld w 11 7)
    some (k (fld w 4 2) a (fld w 18 7))

/-- The words laid out as ACCEXP (alone). -/
def likeAccexp (k : Nat → Nat → Src → Instr) (w : Nat) : Dec :=
  Dec.need (fld w 6 5 == 0 && fld w 25 1 == 0 && decide ((fld w 18 7) < 112)) <| do
    let a ← Src.ofCode (fld w 11 7)
    some (k (fld w 4 2) (fld w 18 7) a)

/-- The words laid out as ACCRSUM (alone). -/
def likeAccrsum (k : Nat → Nat → Instr) (w : Nat) : Dec :=
  Dec.need (fld w 6 12 == 3712 && fld w 25 1 == 0 && decide ((fld w 18 7) < 112)) <| some (k (fld w 18 7) (fld w 4 2))

/-- The words laid out as ACCTOT (alone). -/
def likeAcctot (k : Nat → Nat → Src → Instr) (w : Nat) : Dec :=
  Dec.need (fld w 6 5 == 0 && fld w 15 3 == 0 && fld w 25 1 == 0) <| do
    let c ← Src.ofCode (fld w 18 7)
    some (k (fld w 11 4) (fld w 4 2) c)

/-- The words laid out as VLD (VPROBE). -/
def likeVld (k : Dst → Src → Nat → Instr) (w : Nat) : Dec :=
  Dec.need (fld w 25 1 == 0 && decide ((fld w 4 7) < 112)) <| do
    let d ← Dst.ofCode (fld w 18 7)
    let a ← Src.ofCode (fld w 11 7)
    some (k d a (fld w 4 7))

/-- The words laid out as VST (VADD). -/
def likeVst (k : Src → Nat → Src → Instr) (w : Nat) : Dec :=
  Dec.need (fld w 25 1 == 0 && decide ((fld w 4 7) < 112)) <| do
    let d ← Src.ofCode (fld w 18 7)
    let a ← Src.ofCode (fld w 11 7)
    some (k a (fld w 4 7) d)

/-- The words laid out as LAUNCH (LAUNCHG). -/
def likeLaunch (k : Nat → Nat → Src → Instr) (w : Nat) : Dec :=
  Dec.need (fld w 25 1 == 0 && decide ((fld w 18 7) < 112) && decide ((fld w 11 7) < 112)) <| do
    let b ← Src.ofCode (fld w 4 7)
    some (k (fld w 18 7) (fld w 11 7) b)

/-- The words laid out as LQRY (alone). -/
def likeLqry (k : Dst → Src → Instr) (w : Nat) : Dec :=
  Dec.need (fld w 4 7 == 116 && fld w 25 1 == 0) <| do
    let d ← Dst.ofCode (fld w 18 7)
    let a ← Src.ofCode (fld w 11 7)
    some (k d a)

/-- The words laid out as XP (alone). -/
def likeXp (k : Nat → Nat → Nat → Instr) (w : Nat) : Dec :=
  Dec.need (true) <| some (k (fld w 23 3) (fld w 21 2) (fld w 0 21))

/-! ## Decoding by opcode and function code (R84) -/

/-- Opcode 0x00 (R84): the function code selects. -/
def decIntr (w : Nat) : Dec :=
  match fld w 0 4 with
  | 0 => likeAdd .add w
  | 1 => likeAdd .sub w
  | 2 => likeAdd .mul w
  | 3 => likeAdd .mulhS w
  | 4 => likeAdd .mulhN w
  | 5 => likeAdd .mad w
  | 6 => likeAdd .divS w
  | 7 => likeAdd .divN w
  | 8 => likeAdd .remS w
  | 9 => likeAdd .remN w
  | 10 => likeAdd .minS w
  | 11 => likeAdd .minN w
  | 12 => likeAdd .maxS w
  | 13 => likeAdd .maxN w
  | 14 => likeAdd .addsS w
  | 15 => likeAdd .subsS w
  | _ => .illegal

/-- Opcode 0x01 (R84): the function code selects. -/
def decLogr (w : Nat) : Dec :=
  match fld w 0 4 with
  | 0 => likeAdd .andR w
  | 1 => likeAdd .orR w
  | 2 => likeAdd .xorR w
  | 3 => likeAdd .andn w
  | 4 => likeAdd .orn w
  | 5 => likeAdd .xnor w
  | 6 => likeAdd .shl w
  | 7 => likeAdd .shr w
  | 8 => likeAdd .sar w
  | 9 => likeAdd .rotl w
  | 10 => likeClz .clz w
  | 11 => likeClz .popc w
  | 12 => likeClz .brev w
  | 13 => likeAdd .bfxN w
  | 14 => likeAdd .bfxS w
  | 15 => likeAdd .bfi w
  | _ => .illegal

/-- Opcode 0x07 (R84): the function code selects. -/
def decShi (w : Nat) : Dec :=
  match fld w 9 2 with
  | 0 => likeShiShl .shiShl w
  | 1 => likeShiShl .shiShr w
  | 2 => likeShiShl .shiSar w
  | 3 => likeShiShl .shiRotl w
  | _ => .illegal

/-- Opcode 0x0C (R84): the function code selects. -/
def decFpr (w : Nat) : Dec :=
  match fld w 0 4 with
  | 0 => likeAdd .fadd w
  | 1 => likeAdd .fsub w
  | 2 => likeAdd .fmul w
  | 3 => likeAdd .fma w
  | 4 => likeAdd .fms w
  | 5 => likeAdd .fmin w
  | 6 => likeAdd .fmax w
  | 7 => likeClz .fneg w
  | 8 => likeClz .fabs w
  | 9 => likeClz .frcp w
  | 10 => likeClz .frsq w
  | 11 => likeClz .fsqrt w
  | 12 => likeClz .fexp2 w
  | 13 => likeClz .flog2 w
  | 14 => likeClz .fsin w
  | 15 => likeClz .ftanh w
  | _ => .illegal

/-- Opcode 0x0E (R84): the function code selects. -/
def decPk16 (w : Nat) : Dec :=
  match fld w 0 4 with
  | 0 => likeAdd .hadd2Bf16 w
  | 1 => likeAdd .hmul2Bf16 w
  | 2 => likeAdd .hfma2Bf16 w
  | 3 => likeAdd .hmin2Bf16 w
  | 4 => likeAdd .hmax2Bf16 w
  | 8 => likeAdd .hadd2F16 w
  | 9 => likeAdd .hmul2F16 w
  | 10 => likeAdd .hfma2F16 w
  | 11 => likeAdd .hmin2F16 w
  | 12 => likeAdd .hmax2F16 w
  | 13 => likeAdd .pack2 w
  | 14 => likeClz .unpkLo w
  | 15 => likeClz .unpkHi w
  | _ => .illegal

/-- Opcode 0x10 (R84): the function code selects. -/
def decShape (w : Nat) : Dec :=
  match fld w 0 4 with
  | 0 => likeClz .shq w
  | 1 => likeShaU .shaU w
  | 2 => likeShaU .shaA w
  | 3 => likeShaU .shaC w
  | 4 => likeClz .shfU w
  | 5 => likeClz .shfA w
  | 6 => likeShw .shw w
  | 7 => likeShn .shn w
  | _ => .illegal

/-- Opcode 0x11 (R84): the function code selects. -/
def decWin (w : Nat) : Dec :=
  match fld w 0 4 with
  | 0 => likeShaU .wbase w
  | 1 => likeWbasei .wbasei w
  | 2 => likeShn .wqry w
  | 3 => likeIxset .ixset w
  | 4 => likeIxget .ixget w
  | 5 => likeRgive .rgive w
  | 6 => likeRgive .rclaim w
  | 7 => likeShn .rquota w
  | 8 => likeShn .allotq w
  | _ => .illegal

/-- Opcode 0x12 (R84): the function code selects. -/
def decLanex (w : Nat) : Dec :=
  match fld w 0 4 with
  | 0 => likeAdd .shflIdx w
  | 1 => likeAdd .shflUp w
  | 2 => likeAdd .shflDn w
  | 3 => likeAdd .shflXor w
  | 4 => likeVoteBal .voteBal w
  | 5 => likeVoteAny .voteAny w
  | 6 => likeVoteAny .voteAll w
  | 7 => likeClz .reduxAdd w
  | 8 => likeReduxMin .reduxMin w
  | 9 => likeReduxMin .reduxMax w
  | 10 => likeClz .reduxFadd w
  | 11 => likeClz .pfxInc w
  | 12 => likeClz .pfxExc w
  | 13 => likeRbal .rbal w
  | 14 => likeClz .matchLanes w
  | 15 => likeClz .firstLane w
  | _ => .illegal

/-- Opcode 0x13 (R84): the function code selects. -/
def decPred (w : Nat) : Dec :=
  match fld w 0 4 with
  | 0 => likePand .pand w
  | 1 => likePand .por w
  | 2 => likePand .pxor w
  | 3 => likePand .pandn w
  | 4 => likePnot .pnot w
  | 5 => likePnot .pmov w
  | 6 => likeEmset .emset w
  | 7 => likeEmget .emget w
  | 8 => likePfromw .pfromw w
  | 9 => likePtow .ptow w
  | 10 => likePpopc .ppopc w
  | 11 => likeEmget .liveget w
  | 12 => likeEmrest .emrest w
  | _ => .illegal

/-- Opcode 0x15 (R84): the function code selects. -/
def decSys (w : Nat) : Dec :=
  match fld w 0 4 with
  | 0 => likeMfs .mfs w
  | 1 => likeMts .mts w
  | 2 => likeRte .rte w
  | 3 => likePkset .pkset w
  | 4 => likePkset .pkdrop w
  | 5 => likePmap .pmap w
  | 6 => likeWaitf .waitf w
  | 7 => likeShaU .haltw w
  | 8 => likeScpq .scpq w
  | 9 => likeTimerd .timerd w
  | 10 => likeBmode .bmode w
  | _ => .illegal

/-- Opcode 0x19 (R84): the function code selects. -/
def decJmpx (w : Nat) : Dec :=
  match fld w 0 4 with
  | 0 => likePkset .brx w
  | 1 => likeCallx .callx w
  | 2 => likePkset .ret w
  | _ => .illegal

/-- Opcode 0x1A (R84): the function code selects. -/
def decCtrl (w : Nat) : Dec :=
  match fld w 0 4 with
  | 0 => likeEmrest .nop w
  | 1 => likeEmrest .exit w
  | 2 => likeEmrest .yield w
  | 3 => likeEmrest .brk w
  | 4 => likeShaU .sleep w
  | 5 => likeTrap .trap w
  | 6 => likeBar .bar w
  | 7 => likeEmrest .wsync w
  | 8 => likeCbrun .cbrun w
  | 9 => likeEmrest .cbend w
  | 10 => likeShn .cbstat w
  | 11 => likeShaU .prog w
  | _ => .illegal

/-- Opcode 0x21 (R84): the function code selects. -/
def decCache (w : Nat) : Dec :=
  match fld w 2 3 with
  | 0 => likePref .pref w
  | 1 => likePref .demote w
  | 2 => likePref .cleanl w
  | 3 => likePref .invl w
  | _ => .illegal

/-- Opcode 0x22 (R84): the function code selects. -/
def decAtomi (w : Nat) : Dec :=
  match fld w 0 2 with
  | 0 => likeAtomiAdd .atomiAdd w
  | 1 => likeAtomiAdd .atomiInc w
  | 2 => likeAtomiAdd .atomiDec w
  | 3 => likeAtomiAdd .atomiXchg w
  | _ => .illegal

/-- Opcode 0x23 (R84): the function code selects. -/
def decAtoml (w : Nat) : Dec :=
  match fld w 0 2 with
  | 0 => likeAtomiAdd .atomlAnd w
  | 1 => likeAtomiAdd .atomlOr w
  | 2 => likeAtomiAdd .atomlXor w
  | 3 => likeAtomlCas .atomlCas w
  | _ => .illegal

/-- Opcode 0x24 (R84): the function code selects. -/
def decAtomm (w : Nat) : Dec :=
  match fld w 0 2 with
  | 0 => likeAtomiAdd .atommMinS w
  | 1 => likeAtomiAdd .atommMinN w
  | 2 => likeAtomiAdd .atommMaxS w
  | 3 => likeAtomiAdd .atommMaxN w
  | _ => .illegal

/-- Opcode 0x25 (R84): the function code selects. -/
def decAtomf (w : Nat) : Dec :=
  match fld w 0 2 with
  | 0 => likeAtomiAdd .atomfFaddF32 w
  | 1 => likeAtomiAdd .atomfFaddBf16x2 w
  | 2 => likeAtomiAdd .atomfFminF32 w
  | 3 => likeAtomiAdd .atomfFmaxF32 w
  | _ => .illegal

/-- Opcode 0x26 (R84): the function code selects. -/
def decAtoms (w : Nat) : Dec :=
  match fld w 0 4 with
  | 0 => likeAtoms .atomsAdd w
  | 1 => likeAtoms .atomsInc w
  | 2 => likeAtoms .atomsDec w
  | 3 => likeAtoms .atomsXchg w
  | 4 => likeAtoms .atomsAnd w
  | 5 => likeAtoms .atomsOr w
  | 6 => likeAtoms .atomsXor w
  | 7 => likeAtomsCas .atomsCas w
  | 8 => likeAtoms .atomsMinS w
  | 9 => likeAtoms .atomsMinN w
  | 10 => likeAtoms .atomsMaxS w
  | 11 => likeAtoms .atomsMaxN w
  | 12 => likeAtoms .atomsFaddF32 w
  | 13 => likeAtoms .atomsFaddBf16x2 w
  | _ => .illegal

/-- Opcode 0x27 (R84): the function code selects. -/
def decPhase (w : Nat) : Dec :=
  match fld w 23 3 with
  | 0 => likePhrel .phrel w
  | 1 => likePhrel .phacq w
  | 2 => likePhrel .phar w
  | _ => .illegal

/-- Opcode 0x28 (R84): the function code selects. -/
def decBobj (w : Nat) : Dec :=
  match fld w 0 4 with
  | 0 => likeBoinit .boinit w
  | 1 => likeBoarr .boarr w
  | 2 => likeBoinit .boexp w
  | 3 => likeBoarr .boarx w
  | 4 => likeBoarr .bowait w
  | 5 => likeBoarr .botest w
  | 6 => likeBostat .bostat w
  | _ => .illegal

/-- Opcode 0x29 (R84): the function code selects. -/
def decQueue (w : Nat) : Dec :=
  match fld w 0 4 with
  | 0 => likeQpush .qpush w
  | 1 => likeScpq .qpop w
  | 2 => likeQpushn .qpushn w
  | 3 => likeQpopn .qpopn w
  | 4 => likeQpush .qallow w
  | 5 => likeQcfg .qcfg w
  | 6 => likeScpq .qstat w
  | 7 => likeQbreak .qbreak w
  | _ => .illegal

/-- Opcode 0x2A (R84): the function code selects. -/
def decCopy (w : Nat) : Dec :=
  match fld w 0 4 with
  | 0 => likePkset .cpy w
  | 1 => likePkset .cpyx w
  | 2 => likePkset .wtany w
  | 3 => likePkset .wtall w
  | 4 => likeWtff .wtff w
  | 5 => likePkset .tagclr w
  | 6 => likeIxget .tagrd w
  | 7 => likeShn .cpyq w
  | _ => .illegal

/-- Opcode 0x2B (R84): the function code selects. -/
def decSvld (w : Nat) : Dec :=
  match fld w 0 4 with
  | 0 => likeSvldPlain .svldPlain w
  | 1 => likeSvldPlain .svldN48 w
  | 2 => likeSvldPlain .svldQ4 w
  | 3 => likeSvldPlain .svldMx w
  | _ => .illegal

/-- Opcode 0x2C (R84): the function code selects. -/
def decTcfg (w : Nat) : Dec :=
  match fld w 0 4 with
  | 0 => likeTshape .tshape w
  | 1 => likeTshape .tfmt w
  | 2 => likeTshape .tscale w
  | 3 => likeQpopn .tqry w
  | 4 => likeTzero .tzero w
  | 5 => likeTtrn .ttrn w
  | 6 => likeTcvt .tcvt w
  | 7 => likeTrowr .trowr w
  | 8 => likeTroww .troww w
  | _ => .illegal

/-- Opcode 0x2D (R84): the function code selects. -/
def decTld (w : Nat) : Dec :=
  match fld w 0 4 with
  | 0 => likeTld .tld w
  | _ => .illegal

/-- Opcode 0x2E (R84): the function code selects. -/
def decTst (w : Nat) : Dec :=
  match fld w 0 4 with
  | 0 => likeTld .tst w
  | _ => .illegal

/-- Opcode 0x2F (R84): the function code selects. -/
noncomputable def decMma (w : Nat) : Dec :=
  match fld w 0 4 with
  | 0 => likeMmaBf16 .mmaBf16 w
  | 1 => likeMmaBf16 .mmaF16 w
  | 2 => likeMmaBf16 .mmaE4m3 w
  | 3 => likeMmaBf16 .mmaE5m2 w
  | 4 => likeMmaBf16 .mmaDe8 w
  | 5 => likeMmaBf16 .mmaS8 w
  | 6 => likeMmaBf16 .mmaE2m1 w
  | 7 => likeMmaBf16 .mmaS4 w
  | 8 => likeMmaBf16 .mmaQ4 w
  | 9 => likeMmaBf16 .mmaSpBf16 w
  | 10 => likeMmaBf16 .mmaSpE4m3 w
  | 11 => likeMmaBf16 .mmaMxE4m3 w
  | 12 => likeMmaBf16 .mmaMxE2m1 w
  | _ => .illegal

/-- Opcode 0x30 (R84): the function code selects. -/
noncomputable def decAcc (w : Nat) : Dec :=
  match fld w 0 4 with
  | 0 => likeAccz .accz w
  | 1 => likeAccld .accld w
  | 2 => likeAccld .accst w
  | 3 => likeAccld .accadd w
  | 4 => likeAccld .accstsp w
  | 5 => likeAccrmax .accrmax w
  | 6 => likeAccrscl .accrscl w
  | 7 => likeAccrmax .accrowr w
  | 8 => likeAccroww .accroww w
  | 9 => likeAccexp .accexp w
  | 10 => likeAccrsum .accrsum w
  | 11 => likeAcctot .acctot w
  | _ => .illegal

/-- Opcode 0x31 (R84): the function code selects. -/
noncomputable def decTseq (w : Nat) : Dec :=
  match fld w 0 4 with
  | 0 => likeMmaBf16 .tseqBf16 w
  | 1 => likeMmaBf16 .tseqF16 w
  | 2 => likeMmaBf16 .tseqE4m3 w
  | 3 => likeMmaBf16 .tseqE5m2 w
  | 4 => likeMmaBf16 .tseqDe8 w
  | 5 => likeMmaBf16 .tseqS8 w
  | 6 => likeMmaBf16 .tseqE2m1 w
  | 7 => likeMmaBf16 .tseqS4 w
  | 8 => likeMmaBf16 .tseqQ4 w
  | 9 => likeMmaBf16 .tseqSpBf16 w
  | 10 => likeMmaBf16 .tseqSpE4m3 w
  | 11 => likeMmaBf16 .tseqMxE4m3 w
  | 12 => likeMmaBf16 .tseqMxE2m1 w
  | _ => .illegal

/-- Opcode 0x32 (R84): the function code selects. -/
noncomputable def decVol (w : Nat) : Dec :=
  match fld w 0 4 with
  | 0 => likeVld .vld w
  | 1 => likeVst .vst w
  | 2 => likeVld .vprobe w
  | 3 => likeVst .vadd w
  | 4 => likeShaU .vshoot w
  | 5 => likeBostat .vqry w
  | _ => .illegal

/-- Opcode 0x33 (R84): the function code selects. -/
noncomputable def decSnap (w : Nat) : Dec :=
  match fld w 0 4 with
  | 0 => likeQpopn .snap w
  | 1 => likeTimerd .snapq w
  | _ => .illegal

/-- Opcode 0x34 (R84): the function code selects. -/
noncomputable def decLaunch (w : Nat) : Dec :=
  match fld w 0 4 with
  | 0 => likeLaunch .launch w
  | 1 => likeLaunch .launchg w
  | 2 => likeBmode .lwait w
  | 3 => likeLqry .lqry w
  | _ => .illegal

/-- The instruction of a word, or the trap it raises (R84, R90). -/
noncomputable def decodeWord (w : Nat) : Dec :=
  match fld w 26 6 with
  | 0 => decIntr w
  | 1 => decLogr w
  | 2 => likeAddi .addi w
  | 3 => likeAddi .muli w
  | 4 => likeAddi .andi w
  | 5 => likeAddi .ori w
  | 6 => likeAddi .xori w
  | 7 => decShi w
  | 8 => likeLi .li w
  | 9 => likeLi .movs w
  | 10 => likeCmp .cmp w
  | 11 => likeCmpi .cmpi w
  | 12 => decFpr w
  | 13 => likeFcmp .fcmp w
  | 14 => decPk16 w
  | 15 => likeCvt .cvt w
  | 16 => decShape w
  | 17 => decWin w
  | 18 => decLanex w
  | 19 => decPred w
  | 20 => likeSel .sel w
  | 21 => decSys w
  | 22 => likeBra .bra w
  | 23 => likeBrd .brd w
  | 24 => likeCall .call w
  | 25 => decJmpx w
  | 26 => decCtrl w
  | 27 => likeLdg .ldg w
  | 28 => likeStg .stg w
  | 29 => likeLds .lds w
  | 30 => likeSts .sts w
  | 31 => likeLdg .ldp w
  | 32 => likeStg .stp w
  | 33 => decCache w
  | 34 => decAtomi w
  | 35 => decAtoml w
  | 36 => decAtomm w
  | 37 => decAtomf w
  | 38 => decAtoms w
  | 39 => decPhase w
  | 40 => decBobj w
  | 41 => decQueue w
  | 42 => decCopy w
  | 43 => decSvld w
  | 44 => decTcfg w
  | 45 => decTld w
  | 46 => decTst w
  | 47 => decMma w
  | 48 => decAcc w
  | 49 => decTseq w
  | 50 => decVol w
  | 51 => decSnap w
  | 52 => decLaunch w
  | 63 => likeXp .xp w
  | _ => .illegal

/-! ## Encoding, from the same tables -/

/-- The word of an instruction laid out as ADD; base holds its fixed bits. -/
def encAdd (base : Nat) (nw : Bool) (d : Dst) (a : Src) (b : Src) : Nat :=
  base + b2n nw * 33554432 + d.code * 262144 + a.code * 2048 + b.code * 16

/-- The word of an instruction laid out as CLZ; base holds its fixed bits. -/
def encClz (base : Nat) (nw : Bool) (d : Dst) (a : Src) : Nat :=
  base + b2n nw * 33554432 + d.code * 262144 + a.code * 2048

/-- The word of an instruction laid out as ADDI; base holds its fixed bits. -/
def encAddi (base : Nat) (nw : Bool) (d : Dst) (a : Src) (imm : Nat) : Nat :=
  base + b2n nw * 33554432 + d.code * 262144 + a.code * 2048 + imm * 1

/-- The word of an instruction laid out as SHI_SHL; base holds its fixed bits. -/
def encShiShl (base : Nat) (nw : Bool) (d : Dst) (a : Src) (amt : Nat) : Nat :=
  base + b2n nw * 33554432 + d.code * 262144 + a.code * 2048 + amt * 1

/-- The word of an instruction laid out as LI; base holds its fixed bits. -/
def encLi (base : Nat) (nw : Bool) (d : Dst) (imm : Nat) : Nat :=
  base + b2n nw * 33554432 + d.code * 262144 + imm * 1

/-- The word of an instruction laid out as CMP; base holds its fixed bits. -/
def encCmp (base : Nat) (cond : Nat) (pd : Nat) (a : Src) (b : Src) (pc : Nat) (cmb : Nat) : Nat :=
  base + cond * 4194304 + pd * 524288 + a.code * 4096 + b.code * 32 + pc * 4 + cmb * 1

/-- The word of an instruction laid out as CMPI; base holds its fixed bits. -/
def encCmpi (base : Nat) (cond : Nat) (pd : Nat) (a : Src) (imm : Nat) : Nat :=
  base + cond * 4194304 + pd * 524288 + a.code * 4096 + imm * 1

/-- The word of an instruction laid out as FCMP; base holds its fixed bits. -/
def encFcmp (base : Nat) (cond : Nat) (pd : Nat) (a : Src) (b : Src) (pc : Nat) (cmb : Nat) : Nat :=
  base + cond * 4194304 + pd * 524288 + a.code * 4096 + b.code * 32 + pc * 4 + cmb * 1

/-- The word of an instruction laid out as CVT; base holds its fixed bits. -/
def encCvt (base : Nat) (nw : Bool) (d : Dst) (a : Src) (rnd : Nat) (src : Nat) (dst : Nat) : Nat :=
  base + b2n nw * 33554432 + d.code * 262144 + a.code * 2048 + rnd * 256 + src * 16 + dst * 1

/-- The word of an instruction laid out as SEL; base holds its fixed bits. -/
def encSel (base : Nat) (nw : Bool) (d : Dst) (a : Src) (b : Src) (p : Nat) (inv : Bool) : Nat :=
  base + b2n nw * 33554432 + d.code * 262144 + a.code * 2048 + b.code * 16 + p * 1 + b2n inv * 8

/-- The word of an instruction laid out as SHA_U; base holds its fixed bits. -/
def encShaU (base : Nat) (a : Src) : Nat :=
  base + a.code * 2048

/-- The word of an instruction laid out as SHW; base holds its fixed bits. -/
def encShw (base : Nat) (d : Nat) (n : Nat) : Nat :=
  base + d * 262144 + n * 16

/-- The word of an instruction laid out as SHN; base holds its fixed bits. -/
def encShn (base : Nat) (nw : Bool) (d : Dst) : Nat :=
  base + b2n nw * 33554432 + d.code * 262144

/-- The word of an instruction laid out as WBASEI; base holds its fixed bits. -/
def encWbasei (base : Nat) (delta : Nat) : Nat :=
  base + delta * 16

/-- The word of an instruction laid out as IXSET; base holds its fixed bits. -/
def encIxset (base : Nat) (a : Src) (k : Nat) : Nat :=
  base + a.code * 2048 + k * 16

/-- The word of an instruction laid out as IXGET; base holds its fixed bits. -/
def encIxget (base : Nat) (nw : Bool) (d : Dst) (k : Nat) : Nat :=
  base + b2n nw * 33554432 + d.code * 262144 + k * 16

/-- The word of an instruction laid out as RGIVE; base holds its fixed bits. -/
def encRgive (base : Nat) (a : Src) (imm : Nat) : Nat :=
  base + a.code * 2048 + imm * 16

/-- The word of an instruction laid out as VOTE_BAL; base holds its fixed bits. -/
def encVoteBal (base : Nat) (nw : Bool) (d : Dst) (p : Nat) (inv : Bool) : Nat :=
  base + b2n nw * 33554432 + d.code * 262144 + p * 16 + b2n inv * 128

/-- The word of an instruction laid out as VOTE_ANY; base holds its fixed bits. -/
def encVoteAny (base : Nat) (pd : Nat) (p : Nat) (inv : Bool) : Nat :=
  base + pd * 262144 + p * 16 + b2n inv * 128

/-- The word of an instruction laid out as REDUX_MIN; base holds its fixed bits. -/
def encReduxMin (base : Nat) (nw : Bool) (d : Dst) (a : Src) (nat : Bool) : Nat :=
  base + b2n nw * 33554432 + d.code * 262144 + a.code * 2048 + b2n nat * 16

/-- The word of an instruction laid out as RBAL; base holds its fixed bits. -/
def encRbal (base : Nat) (d : Nat) (a : Src) (b : Src) : Nat :=
  base + d * 262144 + a.code * 2048 + b.code * 16

/-- The word of an instruction laid out as PAND; base holds its fixed bits. -/
def encPand (base : Nat) (pd : Nat) (pa : Nat) (pb : Nat) : Nat :=
  base + pd * 262144 + pa * 2048 + pb * 16

/-- The word of an instruction laid out as PNOT; base holds its fixed bits. -/
def encPnot (base : Nat) (pd : Nat) (pa : Nat) : Nat :=
  base + pd * 262144 + pa * 2048

/-- The word of an instruction laid out as EMSET; base holds its fixed bits. -/
def encEmset (base : Nat) (p : Nat) (inv : Bool) : Nat :=
  base + p * 2048 + b2n inv * 16384

/-- The word of an instruction laid out as EMGET; base holds its fixed bits. -/
def encEmget (base : Nat) (pd : Nat) : Nat :=
  base + pd * 262144

/-- The word of an instruction laid out as PFROMW; base holds its fixed bits. -/
def encPfromw (base : Nat) (pd : Nat) (a : Src) (bitsForm : Bool) : Nat :=
  base + pd * 262144 + a.code * 2048 + b2n bitsForm * 16

/-- The word of an instruction laid out as PTOW; base holds its fixed bits. -/
def encPtow (base : Nat) (nw : Bool) (d : Dst) (p : Nat) (bitsForm : Bool) : Nat :=
  base + b2n nw * 33554432 + d.code * 262144 + p * 2048 + b2n bitsForm * 16

/-- The word of an instruction laid out as PPOPC; base holds its fixed bits. -/
def encPpopc (base : Nat) (nw : Bool) (d : Dst) (p : Nat) : Nat :=
  base + b2n nw * 33554432 + d.code * 262144 + p * 2048

/-- The word of an instruction laid out as MFS; base holds its fixed bits. -/
def encMfs (base : Nat) (nw : Bool) (d : Dst) (num : Nat) : Nat :=
  base + b2n nw * 33554432 + d.code * 262144 + num * 16

/-- The word of an instruction laid out as MTS; base holds its fixed bits. -/
def encMts (base : Nat) (d : Src) (num : Nat) : Nat :=
  base + d.code * 262144 + num * 16

/-- The word of an instruction laid out as RTE; base holds its fixed bits. -/
def encRte (base : Nat) (skip : Nat) : Nat :=
  base + skip * 16

/-- The word of an instruction laid out as PKSET; base holds its fixed bits. -/
def encPkset (base : Nat) (a : Nat) : Nat :=
  base + a * 2048

/-- The word of an instruction laid out as PMAP; base holds its fixed bits. -/
def encPmap (base : Nat) (d : Dst) (a : Nat) : Nat :=
  base + d.code * 262144 + a * 2048

/-- The word of an instruction laid out as WAITF; base holds its fixed bits. -/
def encWaitf (base : Nat) (d : Dst) (a : Nat) (access : Nat) : Nat :=
  base + d.code * 262144 + a * 2048 + access * 16

/-- The word of an instruction laid out as SCPQ; base holds its fixed bits. -/
def encScpq (base : Nat) (nw : Bool) (d : Dst) (n : Nat) : Nat :=
  base + b2n nw * 33554432 + d.code * 262144 + n * 16

/-- The word of an instruction laid out as TIMERD; base holds its fixed bits. -/
def encTimerd (base : Nat) (d : Nat) : Nat :=
  base + d * 262144

/-- The word of an instruction laid out as BMODE; base holds its fixed bits. -/
def encBmode (base : Nat) (d : Dst) (a : Src) (b : Src) : Nat :=
  base + d.code * 262144 + a.code * 2048 + b.code * 16

/-- The word of an instruction laid out as BRA; base holds its fixed bits. -/
def encBra (base : Nat) (off : Nat) : Nat :=
  base + off * 1

/-- The word of an instruction laid out as BRD; base holds its fixed bits. -/
def encBrd (base : Nat) (p : Nat) (n : Bool) (tgt : Nat) (rcv : Nat) : Nat :=
  base + p * 8388608 + b2n n * 4194304 + tgt * 2048 + rcv * 1

/-- The word of an instruction laid out as CALL; base holds its fixed bits. -/
def encCall (base : Nat) (d : Nat) (imm : Nat) : Nat :=
  base + d * 262144 + imm * 1

/-- The word of an instruction laid out as CALLX; base holds its fixed bits. -/
def encCallx (base : Nat) (d : Nat) (a : Nat) : Nat :=
  base + d * 262144 + a * 2048

/-- The word of an instruction laid out as TRAP; base holds its fixed bits. -/
def encTrap (base : Nat) (code : Nat) : Nat :=
  base + code * 16

/-- The word of an instruction laid out as BAR; base holds its fixed bits. -/
def encBar (base : Nat) (pd : Nat) (idx : Nat) : Nat :=
  base + pd * 262144 + idx * 16

/-- The word of an instruction laid out as CBRUN; base holds its fixed bits. -/
def encCbrun (base : Nat) (nw : Bool) (d : Dst) (a : Nat) (b : Src) : Nat :=
  base + b2n nw * 33554432 + d.code * 262144 + a * 2048 + b.code * 16

/-- The word of an instruction laid out as LDG; base holds its fixed bits. -/
def encLdg (base : Nat) (nw : Bool) (w : MemWidth) (d : LdReg) (a : Nat) (b : Src) (h : Nat) : Nat :=
  base + b2n nw * 33554432 + w.code * 4 + d.code * 262144 + a * 4096 + b.code * 32 + h * 1

/-- The word of an instruction laid out as STG; base holds its fixed bits. -/
def encStg (base : Nat) (w : MemWidth) (d : StReg) (a : Nat) (b : Src) (h : Nat) : Nat :=
  base + w.code * 4 + d.code * 262144 + a * 4096 + b.code * 32 + h * 1

/-- The word of an instruction laid out as LDS; base holds its fixed bits. -/
def encLds (base : Nat) (nw : Bool) (w : MemWidth) (d : LdReg) (a : Nat) (b : Src) : Nat :=
  base + b2n nw * 33554432 + w.code * 4 + d.code * 262144 + a * 4096 + b.code * 32

/-- The word of an instruction laid out as STS; base holds its fixed bits. -/
def encSts (base : Nat) (w : MemWidth) (d : StReg) (a : Nat) (b : Src) : Nat :=
  base + w.code * 4 + d.code * 262144 + a * 4096 + b.code * 32

/-- The word of an instruction laid out as PREF; base holds its fixed bits. -/
def encPref (base : Nat) (a : Nat) (b : Src) (h : Nat) : Nat :=
  base + a * 4096 + b.code * 32 + h * 1

/-- The word of an instruction laid out as ATOMI_ADD; base holds its fixed bits. -/
def encAtomiAdd (base : Nat) (d : Dst) (a : Nat) (b : Src) (sc : Nat) : Nat :=
  base + d.code * 524288 + a * 8192 + b.code * 64 + sc * 4

/-- The word of an instruction laid out as ATOML_CAS; base holds its fixed bits. -/
def encAtomlCas (base : Nat) (d : Dst) (a : Nat) (b : Nat) (sc : Nat) : Nat :=
  base + d.code * 524288 + a * 8192 + b * 64 + sc * 4

/-- The word of an instruction laid out as ATOMS_CAS; base holds its fixed bits. -/
def encAtomsCas (base : Nat) (nw : Bool) (d : Dst) (a : Src) (b : Nat) : Nat :=
  base + b2n nw * 33554432 + d.code * 262144 + a.code * 2048 + b * 16

/-- The word of an instruction laid out as PHREL; base holds its fixed bits. -/
def encPhrel (base : Nat) (sc : Nat) : Nat :=
  base + sc * 1

/-- The word of an instruction laid out as BOINIT; base holds its fixed bits. -/
def encBoinit (base : Nat) (a : Src) (b : Src) : Nat :=
  base + a.code * 2048 + b.code * 16

/-- The word of an instruction laid out as BOARR; base holds its fixed bits. -/
def encBoarr (base : Nat) (pd : Nat) (a : Src) (b : Src) : Nat :=
  base + pd * 262144 + a.code * 2048 + b.code * 16

/-- The word of an instruction laid out as BOSTAT; base holds its fixed bits. -/
def encBostat (base : Nat) (d : Nat) (a : Src) : Nat :=
  base + d * 262144 + a.code * 2048

/-- The word of an instruction laid out as QPUSH; base holds its fixed bits. -/
def encQpush (base : Nat) (a : Src) (q : Nat) : Nat :=
  base + a.code * 2048 + q * 16

/-- The word of an instruction laid out as QPUSHN; base holds its fixed bits. -/
def encQpushn (base : Nat) (d : Nat) (a : Src) (q : Nat) : Nat :=
  base + d * 262144 + a.code * 2048 + q * 16

/-- The word of an instruction laid out as QPOPN; base holds its fixed bits. -/
def encQpopn (base : Nat) (d : Nat) (q : Nat) : Nat :=
  base + d * 262144 + q * 16

/-- The word of an instruction laid out as QCFG; base holds its fixed bits. -/
def encQcfg (base : Nat) (a : Nat) (q : Nat) : Nat :=
  base + a * 2048 + q * 16

/-- The word of an instruction laid out as QBREAK; base holds its fixed bits. -/
def encQbreak (base : Nat) (q : Nat) : Nat :=
  base + q * 16

/-- The word of an instruction laid out as WTFF; base holds its fixed bits. -/
def encWtff (base : Nat) (nw : Bool) (d : Dst) (a : Nat) : Nat :=
  base + b2n nw * 33554432 + d.code * 262144 + a * 2048

/-- The word of an instruction laid out as SVLD_PLAIN; base holds its fixed bits. -/
def encSvldPlain (base : Nat) (nw : Bool) (d : Dst) (a : Nat) (b : Nat) : Nat :=
  base + b2n nw * 33554432 + d.code * 262144 + a * 2048 + b * 16

/-- The word of an instruction laid out as TSHAPE; base holds its fixed bits. -/
def encTshape (base : Nat) (t : Nat) (a : Src) : Nat :=
  base + t * 262144 + a.code * 2048

/-- The word of an instruction laid out as TZERO; base holds its fixed bits. -/
def encTzero (base : Nat) (t : Nat) : Nat :=
  base + t * 262144

/-- The word of an instruction laid out as TTRN; base holds its fixed bits. -/
def encTtrn (base : Nat) (t : Nat) (u : Nat) : Nat :=
  base + t * 262144 + u * 16

/-- The word of an instruction laid out as TCVT; base holds its fixed bits. -/
def encTcvt (base : Nat) (t : Nat) (a : Src) (u : Nat) : Nat :=
  base + t * 262144 + a.code * 2048 + u * 16

/-- The word of an instruction laid out as TROWR; base holds its fixed bits. -/
def encTrowr (base : Nat) (d : Dst) (a : Src) (t : Nat) : Nat :=
  base + d.code * 262144 + a.code * 2048 + t * 16

/-- The word of an instruction laid out as TROWW; base holds its fixed bits. -/
def encTroww (base : Nat) (t : Nat) (a : Src) (b : Src) : Nat :=
  base + t * 262144 + a.code * 2048 + b.code * 16

/-- The word of an instruction laid out as TLD; base holds its fixed bits. -/
def encTld (base : Nat) (t : Nat) (a : Nat) (b : Src) : Nat :=
  base + t * 262144 + a * 2048 + b.code * 16

/-- The word of an instruction laid out as MMA_BF16; base holds its fixed bits. -/
def encMmaBf16 (base : Nat) (acc : Nat) (clr : Bool) (ta : Nat) (tb : Nat) : Nat :=
  base + acc * 8388608 + b2n clr * 4194304 + ta * 2048 + tb * 16

/-- The word of an instruction laid out as ACCZ; base holds its fixed bits. -/
def encAccz (base : Nat) (acc : Nat) (a : Src) : Nat :=
  base + acc * 16 + a.code * 2048

/-- The word of an instruction laid out as ACCLD; base holds its fixed bits. -/
def encAccld (base : Nat) (acc : Nat) (a : Nat) (c : Src) : Nat :=
  base + acc * 16 + a * 2048 + c.code * 262144

/-- The word of an instruction laid out as ACCRMAX; base holds its fixed bits. -/
def encAccrmax (base : Nat) (d : Nat) (acc : Nat) (a : Src) : Nat :=
  base + d * 262144 + acc * 16 + a.code * 2048

/-- The word of an instruction laid out as ACCRSCL; base holds its fixed bits. -/
def encAccrscl (base : Nat) (acc : Nat) (d : Nat) : Nat :=
  base + acc * 16 + d * 262144

/-- The word of an instruction laid out as ACCROWW; base holds its fixed bits. -/
def encAccroww (base : Nat) (acc : Nat) (a : Src) (d : Nat) : Nat :=
  base + acc * 16 + a.code * 2048 + d * 262144

/-- The word of an instruction laid out as ACCEXP; base holds its fixed bits. -/
def encAccexp (base : Nat) (acc : Nat) (d : Nat) (a : Src) : Nat :=
  base + acc * 16 + d * 262144 + a.code * 2048

/-- The word of an instruction laid out as ACCRSUM; base holds its fixed bits. -/
def encAccrsum (base : Nat) (d : Nat) (acc : Nat) : Nat :=
  base + d * 262144 + acc * 16

/-- The word of an instruction laid out as ACCTOT; base holds its fixed bits. -/
def encAcctot (base : Nat) (t : Nat) (acc : Nat) (c : Src) : Nat :=
  base + t * 2048 + acc * 16 + c.code * 262144

/-- The word of an instruction laid out as VLD; base holds its fixed bits. -/
def encVld (base : Nat) (d : Dst) (a : Src) (b : Nat) : Nat :=
  base + d.code * 262144 + a.code * 2048 + b * 16

/-- The word of an instruction laid out as VST; base holds its fixed bits. -/
def encVst (base : Nat) (a : Src) (b : Nat) (d : Src) : Nat :=
  base + a.code * 2048 + b * 16 + d.code * 262144

/-- The word of an instruction laid out as LAUNCH; base holds its fixed bits. -/
def encLaunch (base : Nat) (d : Nat) (a : Nat) (b : Src) : Nat :=
  base + d * 262144 + a * 2048 + b.code * 16

/-- The word of an instruction laid out as LQRY; base holds its fixed bits. -/
def encLqry (base : Nat) (d : Dst) (a : Src) : Nat :=
  base + d.code * 262144 + a.code * 2048

/-- The word of an instruction laid out as XP; base holds its fixed bits. -/
def encXp (base : Nat) (ind : Nat) (xs : Nat) (ext : Nat) : Nat :=
  base + ind * 8388608 + xs * 2097152 + ext * 1

/-- The word of an instruction; an event of the table has no encoding (0). -/
def encode (i : Instr) : Nat :=
  match i with
  | .add nw d a b => encAdd 0x00000000 nw d a b
  | .sub nw d a b => encAdd 0x00000001 nw d a b
  | .mul nw d a b => encAdd 0x00000002 nw d a b
  | .mulhS nw d a b => encAdd 0x00000003 nw d a b
  | .mulhN nw d a b => encAdd 0x00000004 nw d a b
  | .mad nw d a b => encAdd 0x00000005 nw d a b
  | .divS nw d a b => encAdd 0x00000006 nw d a b
  | .divN nw d a b => encAdd 0x00000007 nw d a b
  | .remS nw d a b => encAdd 0x00000008 nw d a b
  | .remN nw d a b => encAdd 0x00000009 nw d a b
  | .minS nw d a b => encAdd 0x0000000A nw d a b
  | .minN nw d a b => encAdd 0x0000000B nw d a b
  | .maxS nw d a b => encAdd 0x0000000C nw d a b
  | .maxN nw d a b => encAdd 0x0000000D nw d a b
  | .addsS nw d a b => encAdd 0x0000000E nw d a b
  | .subsS nw d a b => encAdd 0x0000000F nw d a b
  | .andR nw d a b => encAdd 0x04000000 nw d a b
  | .orR nw d a b => encAdd 0x04000001 nw d a b
  | .xorR nw d a b => encAdd 0x04000002 nw d a b
  | .andn nw d a b => encAdd 0x04000003 nw d a b
  | .orn nw d a b => encAdd 0x04000004 nw d a b
  | .xnor nw d a b => encAdd 0x04000005 nw d a b
  | .shl nw d a b => encAdd 0x04000006 nw d a b
  | .shr nw d a b => encAdd 0x04000007 nw d a b
  | .sar nw d a b => encAdd 0x04000008 nw d a b
  | .rotl nw d a b => encAdd 0x04000009 nw d a b
  | .clz nw d a => encClz 0x0400074A nw d a
  | .popc nw d a => encClz 0x0400074B nw d a
  | .brev nw d a => encClz 0x0400074C nw d a
  | .bfxN nw d a b => encAdd 0x0400000D nw d a b
  | .bfxS nw d a b => encAdd 0x0400000E nw d a b
  | .bfi nw d a b => encAdd 0x0400000F nw d a b
  | .addi nw d a imm => encAddi 0x08000000 nw d a imm
  | .muli nw d a imm => encAddi 0x0C000000 nw d a imm
  | .andi nw d a imm => encAddi 0x10000000 nw d a imm
  | .ori nw d a imm => encAddi 0x14000000 nw d a imm
  | .xori nw d a imm => encAddi 0x18000000 nw d a imm
  | .shiShl nw d a amt => encShiShl 0x1C000000 nw d a amt
  | .shiShr nw d a amt => encShiShl 0x1C000200 nw d a amt
  | .shiSar nw d a amt => encShiShl 0x1C000400 nw d a amt
  | .shiRotl nw d a amt => encShiShl 0x1C000600 nw d a amt
  | .li nw d imm => encLi 0x20000000 nw d imm
  | .movs nw d imm => encLi 0x24000000 nw d imm
  | .cmp cond pd a b pc cmb => encCmp 0x28000000 cond pd a b pc cmb
  | .cmpi cond pd a imm => encCmpi 0x2C000000 cond pd a imm
  | .fadd nw d a b => encAdd 0x30000000 nw d a b
  | .fsub nw d a b => encAdd 0x30000001 nw d a b
  | .fmul nw d a b => encAdd 0x30000002 nw d a b
  | .fma nw d a b => encAdd 0x30000003 nw d a b
  | .fms nw d a b => encAdd 0x30000004 nw d a b
  | .fmin nw d a b => encAdd 0x30000005 nw d a b
  | .fmax nw d a b => encAdd 0x30000006 nw d a b
  | .fneg nw d a => encClz 0x30000747 nw d a
  | .fabs nw d a => encClz 0x30000748 nw d a
  | .frcp nw d a => encClz 0x30000749 nw d a
  | .frsq nw d a => encClz 0x3000074A nw d a
  | .fsqrt nw d a => encClz 0x3000074B nw d a
  | .fexp2 nw d a => encClz 0x3000074C nw d a
  | .flog2 nw d a => encClz 0x3000074D nw d a
  | .fsin nw d a => encClz 0x3000074E nw d a
  | .ftanh nw d a => encClz 0x3000074F nw d a
  | .fcmp cond pd a b pc cmb => encFcmp 0x34000000 cond pd a b pc cmb
  | .hadd2Bf16 nw d a b => encAdd 0x38000000 nw d a b
  | .hmul2Bf16 nw d a b => encAdd 0x38000001 nw d a b
  | .hfma2Bf16 nw d a b => encAdd 0x38000002 nw d a b
  | .hmin2Bf16 nw d a b => encAdd 0x38000003 nw d a b
  | .hmax2Bf16 nw d a b => encAdd 0x38000004 nw d a b
  | .hadd2F16 nw d a b => encAdd 0x38000008 nw d a b
  | .hmul2F16 nw d a b => encAdd 0x38000009 nw d a b
  | .hfma2F16 nw d a b => encAdd 0x3800000A nw d a b
  | .hmin2F16 nw d a b => encAdd 0x3800000B nw d a b
  | .hmax2F16 nw d a b => encAdd 0x3800000C nw d a b
  | .pack2 nw d a b => encAdd 0x3800000D nw d a b
  | .unpkLo nw d a => encClz 0x3800074E nw d a
  | .unpkHi nw d a => encClz 0x3800074F nw d a
  | .cvt nw d a rnd src dst => encCvt 0x3C000000 nw d a rnd src dst
  | .sel nw d a b p inv => encSel 0x50000000 nw d a b p inv
  | .shq nw d a => encClz 0x40000740 nw d a
  | .shaU a => encShaU 0x41D00741 a
  | .shaA a => encShaU 0x41D00742 a
  | .shaC a => encShaU 0x41D00743 a
  | .shfU nw d a => encClz 0x40000744 nw d a
  | .shfA nw d a => encClz 0x40000745 nw d a
  | .shw d n => encShw 0x4003A006 d n
  | .shn nw d => encShn 0x4003A747 nw d
  | .wbase a => encShaU 0x45D00740 a
  | .wbasei delta => encWbasei 0x45D3A001 delta
  | .wqry nw d => encShn 0x4403A742 nw d
  | .ixset a k => encIxset 0x45D00003 a k
  | .ixget nw d k => encIxget 0x4403A004 nw d k
  | .rgive a imm => encRgive 0x45D00005 a imm
  | .rclaim a imm => encRgive 0x45D00006 a imm
  | .rquota nw d => encShn 0x4403A747 nw d
  | .allotq nw d => encShn 0x4403A748 nw d
  | .shflIdx nw d a b => encAdd 0x48000000 nw d a b
  | .shflUp nw d a b => encAdd 0x48000001 nw d a b
  | .shflDn nw d a b => encAdd 0x48000002 nw d a b
  | .shflXor nw d a b => encAdd 0x48000003 nw d a b
  | .voteBal nw d p inv => encVoteBal 0x4803A004 nw d p inv
  | .voteAny pd p inv => encVoteAny 0x4803A005 pd p inv
  | .voteAll pd p inv => encVoteAny 0x4803A006 pd p inv
  | .reduxAdd nw d a => encClz 0x48000747 nw d a
  | .reduxMin nw d a nat => encReduxMin 0x48000008 nw d a nat
  | .reduxMax nw d a nat => encReduxMin 0x48000009 nw d a nat
  | .reduxFadd nw d a => encClz 0x4800074A nw d a
  | .pfxInc nw d a => encClz 0x4800074B nw d a
  | .pfxExc nw d a => encClz 0x4800074C nw d a
  | .rbal d a b => encRbal 0x4800000D d a b
  | .matchLanes nw d a => encClz 0x4800074E nw d a
  | .firstLane nw d a => encClz 0x4800074F nw d a
  | .pand pd pa pb => encPand 0x4C000000 pd pa pb
  | .por pd pa pb => encPand 0x4C000001 pd pa pb
  | .pxor pd pa pb => encPand 0x4C000002 pd pa pb
  | .pandn pd pa pb => encPand 0x4C000003 pd pa pb
  | .pnot pd pa => encPnot 0x4C000744 pd pa
  | .pmov pd pa => encPnot 0x4C000745 pd pa
  | .emset p inv => encEmset 0x4DD00746 p inv
  | .emget pd => encEmget 0x4C03A747 pd
  | .pfromw pd a bitsForm => encPfromw 0x4C000008 pd a bitsForm
  | .ptow nw d p bitsForm => encPtow 0x4C000009 nw d p bitsForm
  | .ppopc nw d p => encPpopc 0x4C00074A nw d p
  | .liveget pd => encEmget 0x4C03A74B pd
  | .emrest => 0x4DD3A74C
  | .mfs nw d num => encMfs 0x54000000 nw d num
  | .mts d num => encMts 0x54000001 d num
  | .rte skip => encRte 0x55D3A002 skip
  | .pkset a => encPkset 0x55D00743 a
  | .pkdrop a => encPkset 0x55D00744 a
  | .pmap d a => encPmap 0x54000745 d a
  | .waitf d a access => encWaitf 0x54000006 d a access
  | .haltw a => encShaU 0x55D00747 a
  | .scpq nw d n => encScpq 0x5403A008 nw d n
  | .timerd d => encTimerd 0x5403A749 d
  | .bmode d a b => encBmode 0x5400000A d a b
  | .bra off => encBra 0x58000000 off
  | .brd p n tgt rcv => encBrd 0x5C000000 p n tgt rcv
  | .call d imm => encCall 0x60000000 d imm
  | .brx a => encPkset 0x65D00740 a
  | .callx d a => encCallx 0x64000741 d a
  | .ret a => encPkset 0x65D00742 a
  | .nop => 0x69D3A740
  | .exit => 0x69D3A741
  | .yield => 0x69D3A742
  | .brk => 0x69D3A743
  | .sleep a => encShaU 0x69D00744 a
  | .trap code => encTrap 0x69D3A005 code
  | .bar pd idx => encBar 0x6803A006 pd idx
  | .wsync => 0x69D3A747
  | .cbrun nw d a b => encCbrun 0x68000008 nw d a b
  | .cbend => 0x69D3A749
  | .cbstat nw d => encShn 0x6803A74A nw d
  | .prog a => encShaU 0x69D0074B a
  | .ldg nw w d a b h => encLdg 0x6C000000 nw w d a b h
  | .stg w d a b h => encStg 0x70000000 w d a b h
  | .lds nw w d a b => encLds 0x74000000 nw w d a b
  | .sts w d a b => encSts 0x78000000 w d a b
  | .ldp nw w d a b h => encLdg 0x7C000000 nw w d a b h
  | .stp w d a b h => encStg 0x80000000 w d a b h
  | .pref a b h => encPref 0x85D00000 a b h
  | .demote a b h => encPref 0x85D00004 a b h
  | .cleanl a b h => encPref 0x85D00008 a b h
  | .invl a b h => encPref 0x85D0000C a b h
  | .atomiAdd d a b sc => encAtomiAdd 0x88000000 d a b sc
  | .atomiInc d a b sc => encAtomiAdd 0x88000001 d a b sc
  | .atomiDec d a b sc => encAtomiAdd 0x88000002 d a b sc
  | .atomiXchg d a b sc => encAtomiAdd 0x88000003 d a b sc
  | .atomlAnd d a b sc => encAtomiAdd 0x8C000000 d a b sc
  | .atomlOr d a b sc => encAtomiAdd 0x8C000001 d a b sc
  | .atomlXor d a b sc => encAtomiAdd 0x8C000002 d a b sc
  | .atomlCas d a b sc => encAtomlCas 0x8C000003 d a b sc
  | .atommMinS d a b sc => encAtomiAdd 0x90000000 d a b sc
  | .atommMinN d a b sc => encAtomiAdd 0x90000001 d a b sc
  | .atommMaxS d a b sc => encAtomiAdd 0x90000002 d a b sc
  | .atommMaxN d a b sc => encAtomiAdd 0x90000003 d a b sc
  | .atomfFaddF32 d a b sc => encAtomiAdd 0x94000000 d a b sc
  | .atomfFaddBf16x2 d a b sc => encAtomiAdd 0x94000001 d a b sc
  | .atomfFminF32 d a b sc => encAtomiAdd 0x94000002 d a b sc
  | .atomfFmaxF32 d a b sc => encAtomiAdd 0x94000003 d a b sc
  | .atomsAdd nw d a b => encAdd 0x98000000 nw d a b
  | .atomsInc nw d a b => encAdd 0x98000001 nw d a b
  | .atomsDec nw d a b => encAdd 0x98000002 nw d a b
  | .atomsXchg nw d a b => encAdd 0x98000003 nw d a b
  | .atomsAnd nw d a b => encAdd 0x98000004 nw d a b
  | .atomsOr nw d a b => encAdd 0x98000005 nw d a b
  | .atomsXor nw d a b => encAdd 0x98000006 nw d a b
  | .atomsCas nw d a b => encAtomsCas 0x98000007 nw d a b
  | .atomsMinS nw d a b => encAdd 0x98000008 nw d a b
  | .atomsMinN nw d a b => encAdd 0x98000009 nw d a b
  | .atomsMaxS nw d a b => encAdd 0x9800000A nw d a b
  | .atomsMaxN nw d a b => encAdd 0x9800000B nw d a b
  | .atomsFaddF32 nw d a b => encAdd 0x9800000C nw d a b
  | .atomsFaddBf16x2 nw d a b => encAdd 0x9800000D nw d a b
  | .phrel sc => encPhrel 0x9C000000 sc
  | .phacq sc => encPhrel 0x9C800000 sc
  | .phar sc => encPhrel 0x9D000000 sc
  | .boinit a b => encBoinit 0xA1D00000 a b
  | .boarr pd a b => encBoarr 0xA0000001 pd a b
  | .boexp a b => encBoinit 0xA1D00002 a b
  | .boarx pd a b => encBoarr 0xA0000003 pd a b
  | .bowait pd a b => encBoarr 0xA0000004 pd a b
  | .botest pd a b => encBoarr 0xA0000005 pd a b
  | .bostat d a => encBostat 0xA0000746 d a
  | .qpush a q => encQpush 0xA5D00000 a q
  | .qpop nw d q => encScpq 0xA403A001 nw d q
  | .qpushn d a q => encQpushn 0xA4000002 d a q
  | .qpopn d q => encQpopn 0xA403A003 d q
  | .qallow a q => encQpush 0xA5D00004 a q
  | .qcfg a q => encQcfg 0xA5D00005 a q
  | .qstat nw d q => encScpq 0xA403A006 nw d q
  | .qbreak q => encQbreak 0xA5D3A007 q
  | .cpy a => encPkset 0xA9D00740 a
  | .cpyx a => encPkset 0xA9D00741 a
  | .wtany a => encPkset 0xA9D00742 a
  | .wtall a => encPkset 0xA9D00743 a
  | .wtff nw d a => encWtff 0xA8000744 nw d a
  | .tagclr a => encPkset 0xA9D00745 a
  | .tagrd nw d k => encIxget 0xA803A006 nw d k
  | .cpyq nw d => encShn 0xA803A747 nw d
  | .svldPlain nw d a b => encSvldPlain 0xAC000000 nw d a b
  | .svldN48 nw d a b => encSvldPlain 0xAC000001 nw d a b
  | .svldQ4 nw d a b => encSvldPlain 0xAC000002 nw d a b
  | .svldMx nw d a b => encSvldPlain 0xAC000003 nw d a b
  | .tshape t a => encTshape 0xB0000740 t a
  | .tfmt t a => encTshape 0xB0000741 t a
  | .tscale t a => encTshape 0xB0000742 t a
  | .tqry d t => encQpopn 0xB003A003 d t
  | .tzero t => encTzero 0xB003A744 t
  | .ttrn t u => encTtrn 0xB003A005 t u
  | .tcvt t a u => encTcvt 0xB0000006 t a u
  | .trowr d a t => encTrowr 0xB0000007 d a t
  | .troww t a b => encTroww 0xB0000008 t a b
  | .tld t a b => encTld 0xB4000000 t a b
  | .tst t a b => encTld 0xB8000000 t a b
  | .mmaBf16 acc clr ta tb => encMmaBf16 0xBC000000 acc clr ta tb
  | .mmaF16 acc clr ta tb => encMmaBf16 0xBC000001 acc clr ta tb
  | .mmaE4m3 acc clr ta tb => encMmaBf16 0xBC000002 acc clr ta tb
  | .mmaE5m2 acc clr ta tb => encMmaBf16 0xBC000003 acc clr ta tb
  | .mmaDe8 acc clr ta tb => encMmaBf16 0xBC000004 acc clr ta tb
  | .mmaS8 acc clr ta tb => encMmaBf16 0xBC000005 acc clr ta tb
  | .mmaE2m1 acc clr ta tb => encMmaBf16 0xBC000006 acc clr ta tb
  | .mmaS4 acc clr ta tb => encMmaBf16 0xBC000007 acc clr ta tb
  | .mmaQ4 acc clr ta tb => encMmaBf16 0xBC000008 acc clr ta tb
  | .mmaSpBf16 acc clr ta tb => encMmaBf16 0xBC000009 acc clr ta tb
  | .mmaSpE4m3 acc clr ta tb => encMmaBf16 0xBC00000A acc clr ta tb
  | .mmaMxE4m3 acc clr ta tb => encMmaBf16 0xBC00000B acc clr ta tb
  | .mmaMxE2m1 acc clr ta tb => encMmaBf16 0xBC00000C acc clr ta tb
  | .tseqBf16 acc clr ta tb => encMmaBf16 0xC4000000 acc clr ta tb
  | .tseqF16 acc clr ta tb => encMmaBf16 0xC4000001 acc clr ta tb
  | .tseqE4m3 acc clr ta tb => encMmaBf16 0xC4000002 acc clr ta tb
  | .tseqE5m2 acc clr ta tb => encMmaBf16 0xC4000003 acc clr ta tb
  | .tseqDe8 acc clr ta tb => encMmaBf16 0xC4000004 acc clr ta tb
  | .tseqS8 acc clr ta tb => encMmaBf16 0xC4000005 acc clr ta tb
  | .tseqE2m1 acc clr ta tb => encMmaBf16 0xC4000006 acc clr ta tb
  | .tseqS4 acc clr ta tb => encMmaBf16 0xC4000007 acc clr ta tb
  | .tseqQ4 acc clr ta tb => encMmaBf16 0xC4000008 acc clr ta tb
  | .tseqSpBf16 acc clr ta tb => encMmaBf16 0xC4000009 acc clr ta tb
  | .tseqSpE4m3 acc clr ta tb => encMmaBf16 0xC400000A acc clr ta tb
  | .tseqMxE4m3 acc clr ta tb => encMmaBf16 0xC400000B acc clr ta tb
  | .tseqMxE2m1 acc clr ta tb => encMmaBf16 0xC400000C acc clr ta tb
  | .accz acc a => encAccz 0xC1D00000 acc a
  | .accld acc a c => encAccld 0xC0000001 acc a c
  | .accst acc a c => encAccld 0xC0000002 acc a c
  | .accadd acc a c => encAccld 0xC0000003 acc a c
  | .accstsp acc a c => encAccld 0xC0000004 acc a c
  | .accrmax d acc a => encAccrmax 0xC0000005 d acc a
  | .accrscl acc d => encAccrscl 0xC003A006 acc d
  | .accrowr d acc a => encAccrmax 0xC0000007 d acc a
  | .accroww acc a d => encAccroww 0xC0000008 acc a d
  | .accexp acc d a => encAccexp 0xC0000009 acc d a
  | .accrsum d acc => encAccrsum 0xC003A00A d acc
  | .acctot t acc c => encAcctot 0xC000000B t acc c
  | .vld d a b => encVld 0xC8000000 d a b
  | .vst a b d => encVst 0xC8000001 a b d
  | .vprobe d a b => encVld 0xC8000002 d a b
  | .vadd a b d => encVst 0xC8000003 a b d
  | .vshoot a => encShaU 0xC9D00744 a
  | .vqry d a => encBostat 0xC8000745 d a
  | .snap d sc => encQpopn 0xCC03A000 d sc
  | .snapq d => encTimerd 0xCC03A741 d
  | .launch d a b => encLaunch 0xD0000000 d a b
  | .launchg d a b => encLaunch 0xD0000001 d a b
  | .lwait d a b => encBmode 0xD0000002 d a b
  | .lqry d a => encLqry 0xD0000743 d a
  | .xp ind xs ext => encXp 0xFC000000 ind xs ext
  | .weltRotation _ => 0
  | .loadDataReturn _ _ => 0
  | .stockpotStallResume _ _ => 0
  | .pageWalk _ _ => 0
  | .phaseBoundaryDone _ _ => 0
  | .wsyncDone _ _ => 0
  | .barComplete _ _ => 0
  | .sleepExpire _ _ => 0
  | .rclaimGrant _ => 0
  | .qpushGrant _ _ => 0
  | .qpopGrant _ _ => 0
  | .bowaitTimeout _ _ => 0
  | .copyUnpark _ _ => 0
  | .copyComplete _ _ => 0
  | .tileLanded _ _ => 0
  | .arrayOpComplete _ => 0
  | .bmodeSwitch _ _ => 0
  | .walkPendingRetry _ _ => 0
  | .vshootDone _ _ => 0
  | .cutHold => 0
  | .cutSwitch => 0
  | .cutQuiesceTimeout => 0
  | .drainChunk => 0
  | .drainRingTimeout _ => 0
  | .launchDispatch _ _ => 0
  | .teamBind _ _ _ => 0
  | .launchEnd _ => 0
  | .lwaitTimeout _ _ => 0
  | .quantumExpire _ => 0
  | .ageTimerExpire _ _ => 0
  | .preemptRequest _ => 0
  | .saveComplete _ => 0
  | .drainDeadlineExpire _ => 0
  | .adminRingPoll => 0
  | .bind _ _ _ => 0
  | .kill _ => 0
  | .suspend _ _ => 0
  | .suspendComplete _ => 0
  | .resume _ => 0
  | .qconf _ _ => 0
  | .quant _ => 0
  | .unbind _ => 0
  | .scope _ _ _ => 0
  | .volshoot _ _ => 0
  | .region _ _ _ _ => 0
  | .stock _ _ => 0
  | .restore _ _ _ => 0
  | .chret _ _ => 0
  | .wdog _ _ => 0
  | .retire _ _ => 0
  | .fwcommit _ _ => 0
  | .wread _ _ _ _ _ _ => 0
  | .wrelease _ _ _ _ => 0
  | .shoot _ _ _ => 0
  | .pooladd _ _ _ _ => 0
  | .haackWrite _ => 0
  | .faultPost _ => 0
  | .faultRingResume _ => 0
  | .faultReply _ => 0
  | .qtailWrite _ _ _ => 0
  | .ardyWrite _ => 0
  | .registerWrite _ _ => 0
  | .hostLoad _ _ _ => 0
  | .hostStore _ _ _ _ => 0
  | .hostAtomic _ _ _ _ => 0
  | .apertureLoad _ _ => 0
  | .apertureStore _ _ _ => 0
  | .translationQuery _ _ _ => 0
  | .getMeasurements => 0
  | .dieTeardown _ => 0
  | .linkRetrain _ => 0
  | .laneSpare _ _ => 0
  | .memoryScrub _ => 0
  | .coreSelfTest _ _ => 0
  | .coreRetirement _ => 0
  | .bankSpare _ _ => 0
  | .watchdogExpire _ => 0
  | .fabricKeepalive _ => 0
  | .keepaliveLapse _ => 0
  | .domainAccessTimeout _ _ => 0
  | .clockStep _ => 0
  | .clusterClockGate _ => 0
  | .clusterWake _ => 0
  | .deviceReset => 0
  | .powerLoss => 0
  | .peerAccess _ _ _ _ _ => 0
  | .drainRingResume => 0
  | .ageingMonitorReport _ => 0

/-- The instruction read from a word given in the opcode table's numbering (the host's question): one 32-bit word, laid
out in memory little-endian as the hardware stores it and read back by the decoder. -/
def wordBytes (w : Nat) : List Nat := [w % 256, w / 256 % 256, w / 65536 % 256, w / 16777216 % 256]

/-- A little-endian word of four bytes (R76). -/
def bytesWord (bs : List Nat) : Nat := bs.foldr (fun b acc => b + 256 * acc) 0

/-- Decoding any bytes: the word of the first four. -/
noncomputable def decodeBytes (bs : List Nat) : Dec := decodeWord (bytesWord (bs.take 4))

/-- The host's fixed name. -/
noncomputable def decodeTableWord (nbits w : Nat) : Option Instr :=
  if nbits = 32 then
    match decodeBytes (wordBytes w) with
    | .ok i => some i
    | _ => none
  else none

/-- The opcode and function of a word are in the Cobbler's subset (R311). -/
def cobblerWord (w : Nat) : Bool :=
  let op := fld w 26 6
  let f := fld w 0 4
  if op ≤ 8 || op == 0x0A || op == 0x0B || op == 0x0F || op == 0x14 || op == 0x16 || op == 0x17 then true
  else if op == 0x1A then f == 0 || f == 9 || f == 11
  else if op == 0x1B || op == 0x1D || op == 0x2B then true
  else if op == 0x29 then f == 0 || f == 2 || f == 4
  else false

end Sys2Proof
end

