-- ==== Sys2Proof/Machine/Num.lean ====
section
/-!
DEFINITION. The number formats and exact arithmetic of the device (spec 04, R95 to R109): exact values as
sign and magnitude fractions, one rounding function for every destination format, and the FP32, packed and special
functions built on it.
-/

namespace Sys2Proof.Machine

/-! ## Exact values -/

/-- An exact value: NaN, an infinity, or a signed magnitude `num / den` with `den` positive (a zero keeps its sign). -/
inductive Ex where
  | nan
  | inf (neg : Bool)
  | fin (neg : Bool) (num den : Nat)
  deriving DecidableEq, Repr

/-- A finite value in lowest terms. -/
def Ex.mk (neg : Bool) (num den : Nat) : Ex :=
  let g := Nat.gcd num den
  if g ≤ 1 then .fin neg num den else .fin neg (num / g) (den / g)

/-- The number 2^k times a magnitude. -/
def Ex.scale2 (x : Ex) (k : Int) : Ex :=
  match x with
  | .fin s n d => if 0 ≤ k then .mk s (n * 2 ^ k.toNat) d else .mk s n (d * 2 ^ (-k).toNat)
  | y => y

def Ex.neg : Ex → Ex
  | .nan => .nan
  | .inf s => .inf (!s)
  | .fin s n d => .fin (!s) n d

def Ex.isNeg : Ex → Bool
  | .nan => false
  | .inf s => s
  | .fin s _ _ => s

def Ex.isNan : Ex → Bool
  | .nan => true
  | _ => false

def Ex.isZero : Ex → Bool
  | .fin _ n _ => n == 0
  | _ => false

def Ex.ofInt (i : Int) : Ex := .fin (decide (i < 0)) i.natAbs 1

/-- Exact sum; an exact zero sum is +0 unless both terms are −0 (R106, R108, R112 under rne). -/
def Ex.add (x y : Ex) : Ex :=
  match x, y with
  | .nan, _ => .nan
  | _, .nan => .nan
  | .inf s, .inf t => if s == t then .inf s else .nan
  | .inf s, _ => .inf s
  | _, .inf t => .inf t
  | .fin s n d, .fin t m e =>
    if s == t then .mk s (n * e + m * d) (d * e)
    else if n * e = m * d then .fin false 0 1
    else if m * d < n * e then .mk s (n * e - m * d) (d * e)
    else .mk t (m * d - n * e) (d * e)

/-- Exact product; ∞ × 0 is NaN. -/
def Ex.mul (x y : Ex) : Ex :=
  match x, y with
  | .nan, _ => .nan
  | _, .nan => .nan
  | .inf s, .inf t => .inf (s != t)
  | .inf s, .fin t m _ => if m = 0 then .nan else .inf (s != t)
  | .fin s n _, .inf t => if n = 0 then .nan else .inf (s != t)
  | .fin s n d, .fin t m e => .mk (s != t) (n * m) (d * e)

/-- The numeric order of two values that are not NaN; −0 equals +0. -/
def Ex.lt (x y : Ex) : Bool :=
  match x, y with
  | .nan, _ => false
  | _, .nan => false
  | .inf s, .inf t => s && !t
  | .inf s, .fin _ _ _ => s
  | .fin _ _ _, .inf t => !t
  | .fin s n d, .fin t m e =>
    let a : Int := if s then - ((n * e : Nat) : Int) else ((n * e : Nat) : Int)
    let b : Int := if t then - ((m * d : Nat) : Int) else ((m * d : Nat) : Int)
    decide (a < b)

def Ex.eqv (x y : Ex) : Bool := !x.isNan && !y.isNan && !x.lt y && !y.lt x

/-! ## Formats (R88, R95 to R97, R101) -/

/-- A binary floating-point format: fraction bits, exponent bits, bias, the code of the largest finite magnitude,
whether it has infinities, and its canonical NaN if it has NaN (R97). -/
structure BinFmt where
  frac : Nat
  expBits : Nat
  bias : Nat
  maxCode : Nat
  hasInf : Bool
  nan : Option Nat
  deriving DecidableEq, Repr

/-- The exponent of the smallest normal. -/
def BinFmt.emin (f : BinFmt) : Int := 1 - (f.bias : Int)
def BinFmt.width (f : BinFmt) : Nat := 1 + f.expBits + f.frac

/-- The format codes of R88. -/
inductive Fmt where
  | int (signed : Bool) (bits : Nat)
  | bin (f : BinFmt)
  | de8
  deriving DecidableEq, Repr

def fF32 : BinFmt := ⟨23, 8, 127, 0x7F7FFFFF, true, some 0x7FC00000⟩
def fF16 : BinFmt := ⟨10, 5, 15, 0x7BFF, true, some 0x7E00⟩
def fBf16 : BinFmt := ⟨7, 8, 127, 0x7F7F, true, some 0x7FC0⟩
def fE5m2 : BinFmt := ⟨2, 5, 15, 0x7B, true, some 0x7E⟩
def fE4m3 : BinFmt := ⟨3, 4, 7, 0x7E, false, some 0x7F⟩
def fE2m1 : BinFmt := ⟨1, 2, 1, 0x7, false, none⟩

/-- The format a code names (R88); code F is reserved. -/
def fmtOf (code : Nat) : Option Fmt :=
  match code with
  | 0 => some (.int true 32)
  | 1 => some (.int false 32)
  | 2 => some (.bin fF32)
  | 3 => some (.bin fBf16)
  | 4 => some (.bin fF16)
  | 5 => some (.bin fE4m3)
  | 6 => some (.bin fE5m2)
  | 7 => some (.bin fE2m1)
  | 8 => some .de8
  | 9 => some (.int true 8)
  | 10 => some (.int false 8)
  | 11 => some (.int true 4)
  | 12 => some (.int false 4)
  | 13 => some (.int true 16)
  | 14 => some (.int false 16)
  | _ => none

def Fmt.width : Fmt → Nat
  | .int _ b => b
  | .bin f => f.width
  | .de8 => 8

/-- The value of a binary floating-point code (R97). -/
def BinFmt.value (f : BinFmt) (c : Nat) : Ex :=
  let s := (c / 2 ^ (f.width - 1)) % 2 == 1
  let m := c % 2 ^ (f.width - 1)
  let e := m / 2 ^ f.frac
  let q := m % 2 ^ f.frac
  if m ≤ f.maxCode then
    let x : Ex := if e = 0 then .mk s q 1 else .mk s (2 ^ f.frac + q) 1
    x.scale2 ((f.emin - f.frac) + (if e = 0 then 0 else (e : Int) - 1))
  else if f.hasInf && q == 0 then .inf s
  else .nan

/-- The length of the run of bits equal to bit 6, from bit 6 down (R101). -/
def de8Run (c : Nat) : Nat → Nat
  | 0 => 0
  | k + 1 => if (c / 2 ^ k) % 2 = (c / 64) % 2 then 1 + de8Run c k else 0

/-- The value of a DE8 code (R101). -/
def de8Value (c : Nat) : Ex :=
  if c = 0 then .fin false 0 1
  else if c = 0x80 then .nan
  else
    let s := (c / 128) % 2 == 1
    let run := de8Run c 7
    let w := 6 - run
    let f := c % 2 ^ w
    let num := 2 ^ w + 9 * f
    if (c / 64) % 2 = 1 then .mk s (num * 10 ^ (run - 1)) (2 ^ w) else .mk s num (2 ^ w * 10 ^ run)

/-- The value of the low bits of a pattern under a format (R95 to R101). -/
def Fmt.value (f : Fmt) (p : Nat) : Ex :=
  match f with
  | .int signed b =>
    let v := p % 2 ^ b
    if signed && 2 ^ (b - 1) ≤ v then .fin true (2 ^ b - v) 1 else .fin false v 1
  | .bin g => g.value (p % 2 ^ g.width)
  | .de8 => de8Value (p % 256)

/-! ## Rounding (R102 to R104) -/

/-- Rounding codes of R87; `sr` carries the draw and the exponent of the source's grid (R104; none: no grid). -/
inductive Rnd where
  | rne | rz | rd | ru | rna
  | sr (draw : Nat) (grid : Option Int)
  deriving DecidableEq, Repr

/-- The binary exponent of a positive magnitude: the greatest e with 2^e at most n/d. -/
def flog2 (n d : Nat) : Int :=
  let e : Int := (n.log2 : Int) - (d.log2 : Int)
  if 0 ≤ e then (if n < d * 2 ^ e.toNat then e - 1 else e)
  else (if n * 2 ^ (-e).toNat < d then e - 1 else e)

/-- m / 2^e as a fraction. -/
def divPow2 (n d : Nat) (e : Int) : Nat × Nat :=
  if 0 ≤ e then (n, d * 2 ^ e.toNat) else (n * 2 ^ (-e).toNat, d)

/-- Whether n/d, whose integer part is k, rounds up to k + 1 (R102), and for code 5 the result of R104 step 3. -/
def roundInt (neg : Bool) (n d : Nat) (qexp : Int) (r : Rnd) : Nat :=
  let k := n / d
  let rem := n % d
  match r with
  | .rne => if d < 2 * rem ∨ (2 * rem = d ∧ k % 2 = 1) then k + 1 else k
  | .rna => if d ≤ 2 * rem then k + 1 else k
  | .rz => k
  | .rd => if neg ∧ rem ≠ 0 then k + 1 else k
  | .ru => if ¬ neg ∧ rem ≠ 0 then k + 1 else k
  | .sr draw grid =>
    let dd : Nat := match grid with
      | none => 32
      | some g => min 32 (qexp - g).toNat
    (n * 2 ^ dd / d + draw % 2 ^ dd) / 2 ^ dd

/-- The exponent of the spacing of a binary format at a magnitude. -/
def BinFmt.spacing (f : BinFmt) (n d : Nat) : Int := max (flog2 n d) f.emin - f.frac

/-- A finite magnitude rounded to a binary format: the magnitude's code, which may pass the largest finite one. -/
def BinFmt.roundMag (f : BinFmt) (neg : Bool) (n d : Nat) (r : Rnd) : Nat :=
  if n = 0 then 0 else
  let e := max (flog2 n d) f.emin
  let q := e - f.frac
  let (a, b) := divPow2 n d q
  (e - f.emin).toNat * 2 ^ f.frac + roundInt neg a b q r

/-- The sign bit of a code. -/
def BinFmt.withSign (f : BinFmt) (neg : Bool) (c : Nat) : Nat := if neg then c + 2 ^ (f.width - 1) else c

/-- What an overflow or an infinity becomes (R103). -/
def BinFmt.overflow (f : BinFmt) (neg : Bool) (r : Rnd) (satfinite infinite : Bool) : Nat :=
  let big := f.withSign neg f.maxCode
  if ¬ f.hasInf ∨ satfinite then big
  else
    let infc := f.withSign neg ((2 ^ f.expBits - 1) * 2 ^ f.frac)
    if infinite then infc
    else if f.frac = 2 then big        -- e5m2 saturates (R103)
    else match r with
      | .rz => big
      | .rd => if neg then infc else big
      | .ru => if neg then big else infc
      | _ => infc

/-- The positive DE8 code at or below a magnitude, searching downwards from `k`. -/
def de8Below (n d : Nat) : Nat → Nat
  | 0 => 0
  | k + 1 => match de8Value (k + 1) with
    | .fin _ a b => if a * d ≤ n * b then k + 1 else de8Below n d k
    | _ => de8Below n d k

/-- A magnitude rounded to DE8: the positive code (R102, R104). -/
def de8Round (neg : Bool) (n d : Nat) (r : Rnd) : Nat :=
  let lo := de8Below n d 127
  if lo = 127 then 127 else
  match de8Value lo, de8Value (lo + 1) with
  | .fin _ a b, .fin _ a' b' =>
    -- below = m - lo, gap = hi - lo, over the common denominator d * b * b'
    let below := n * b * b' - a * d * b'
    let gap := a' * d * b - a * d * b'
    if below = 0 then lo else
    match r with
    | .rne => if gap < 2 * below ∨ (2 * below = gap ∧ lo % 2 = 1) then lo + 1 else lo
    | .rna => if gap ≤ 2 * below then lo + 1 else lo
    | .rz => lo
    | .rd => if neg then lo + 1 else lo
    | .ru => if neg then lo else lo + 1
    | .sr draw _ => if draw < below * 2 ^ 32 / gap then lo + 1 else lo
  | _, _ => lo

/-- An exact value rounded once into a format: the pattern in the format's low bits (R102, R103). -/
def Fmt.round (f : Fmt) (x : Ex) (r : Rnd) (satfinite : Bool := false) : Nat :=
  match f with
  | .int signed b =>
    let top := if signed then 2 ^ (b - 1) - 1 else 2 ^ b - 1
    let bot := if signed then 2 ^ (b - 1) else 0          -- magnitude of the least value
    let pat := fun (neg : Bool) (m : Nat) => if neg then (2 ^ b - min m bot) % 2 ^ b else min m top
    match x with
    | .nan => 0
    | .inf s => if s then pat true bot else pat false top
    | .fin s n d => pat s (roundInt s n d 0 r)
  | .bin g =>
    match x with
    | .nan => match g.nan with
      | some c => c
      | none => g.maxCode
    | .inf s => g.overflow s r satfinite true
    | .fin s n d =>
      let c := g.roundMag s n d r
      if c ≤ g.maxCode then g.withSign s c else g.overflow s r satfinite false
  | .de8 =>
    match x with
    | .nan => 0x80
    | .inf s => if s then 0xFF else 0x7F
    | .fin s n d =>
      let c := de8Round s n d r
      if c = 0 then 0 else if s then c + 128 else c

/-- The exponent of the source grid at a value read from a format (R104 step 2); none for DE8. -/
def Fmt.grid (f : Fmt) (x : Ex) : Option Int :=
  match f with
  | .int _ _ => some 0
  | .bin g => match x with
    | .fin _ n d => some (if n = 0 then g.emin - g.frac else g.spacing n d)
    | _ => some 0
  | .de8 => none

/-- The generator of R104. -/
def srngStep (x : Word) : Word :=
  let x := if x = 0#32 then 1#32 else x
  let x := x ^^^ (x <<< 13)
  let x := x ^^^ (x >>> 17)
  x ^^^ (x <<< 5)

/-- The deterministic rounding codes 0 to 4 of R87. -/
def rndOf (code : Nat) : Rnd :=
  match code with
  | 1 => .rz
  | 2 => .rd
  | 3 => .ru
  | 4 => .rna
  | _ => .rne

/-- One conversion (R102 to R104); `sr` is the draw when the code is 5. -/
def convert (src dst : Fmt) (rnd : Nat) (draw : Word) (p : Nat) (scale : Int) (satfinite : Bool) : Nat :=
  let x := (src.value p)
  let g := (src.grid x).map (· + scale)
  let r := if rnd = 5 then Rnd.sr draw.toNat g else rndOf rnd
  dst.round (x.scale2 scale) r satfinite

/-- The pattern of a format as a 32-bit register value: sign copies for s4, s8 and s16 (R130). -/
def Fmt.extend (f : Fmt) (p : Nat) : Word :=
  match f with
  | .int true b => if 2 ^ (b - 1) ≤ p then BitVec.ofNat 32 (p + (2 ^ 32 - 2 ^ b)) else BitVec.ofNat 32 p
  | _ => BitVec.ofNat 32 p

/-! ## FP32 and packed halves (R106, R127, R128, R129) -/

def f32 (w : Word) : Ex := fF32.value w.toNat
def toF32 (x : Ex) : Word := BitVec.ofNat 32 ((Fmt.bin fF32).round x .rne)

/-- minimumNumber and maximumNumber: a NaN gives the other operand, and −0 is below +0 (R106). -/
def Ex.minmax (mx : Bool) (x y : Ex) : Ex :=
  if x.isNan then y
  else if y.isNan then x
  else if x.lt y then (if mx then y else x)
  else if y.lt x then (if mx then x else y)
  else if x.isNeg then (if mx then y else x)
  else (if mx then x else y)

def fadd32 (a b : Word) : Word := toF32 ((f32 a).add (f32 b))
def fsub32 (a b : Word) : Word := toF32 ((f32 a).add (f32 b).neg)
def fmul32 (a b : Word) : Word := toF32 ((f32 a).mul (f32 b))
def fma32 (a b d : Word) : Word := toF32 (((f32 a).mul (f32 b)).add (f32 d))
def fms32 (a b d : Word) : Word := toF32 (((f32 a).mul (f32 b)).add (f32 d).neg)
def fmin32 (a b : Word) : Word := toF32 (Ex.minmax false (f32 a) (f32 b))
def fmax32 (a b : Word) : Word := toF32 (Ex.minmax true (f32 a) (f32 b))
def fneg32 (a : Word) : Word := if (f32 a).isNan then 0x7FC00000#32 else a ^^^ 0x80000000#32
def fabs32 (a : Word) : Word := if (f32 a).isNan then 0x7FC00000#32 else a &&& 0x7FFFFFFF#32

/-- The conditions of FCMP (R127). -/
def fcmpCond (c : Nat) (a b : Word) : Bool :=
  let x := f32 a
  let y := f32 b
  let un := x.isNan || y.isNan
  match c with
  | 0 => x.eqv y
  | 1 => !x.eqv y
  | 2 => x.lt y
  | 3 => !un && !y.lt x
  | 4 => y.lt x
  | 5 => !un && !x.lt y
  | 6 => un
  | _ => !un

/-- A function of 16-bit elements applied to the two elements of packed registers (R129). -/
def packed (f : Nat → Nat → Nat → Nat) (a b d : Word) : Word :=
  let lo := f (a.toNat % 65536) (b.toNat % 65536) (d.toNat % 65536) % 65536
  let hi := f (a.toNat / 65536) (b.toNat / 65536) (d.toNat / 65536) % 65536
  BitVec.ofNat 32 (lo + 65536 * hi)

def hadd (f : BinFmt) (a b _d : Nat) : Nat := (Fmt.bin f).round ((f.value a).add (f.value b)) .rne
def hmul (f : BinFmt) (a b _d : Nat) : Nat := (Fmt.bin f).round ((f.value a).mul (f.value b)) .rne
def hfma (f : BinFmt) (a b d : Nat) : Nat :=
  (Fmt.bin f).round (((f.value a).mul (f.value b)).add (f.value d)) .rne
def hminmax (f : BinFmt) (mx : Bool) (a b _d : Nat) : Nat :=
  (Fmt.bin f).round (Ex.minmax mx (f.value a) (f.value b)) .rne

/-! ## The special functions (R107): each the exact result rounded once by rne

Irrational results are computed in fixed point with 320 fraction bits; no f32 argument has a result nearer to a
rounding midpoint than the error of that computation (log 12). -/

/-- Fraction bits of the fixed-point computation. -/
def fxP : Nat := 320
def fxOne : Nat := 2 ^ 320

/-- The greatest r with r * r at most n, by bits from 2^k down. -/
def isqrtBits (n : Nat) : Nat → Nat → Nat
  | 0, r => r
  | k + 1, r => if (r + 2 ^ k) * (r + 2 ^ k) ≤ n then isqrtBits n k (r + 2 ^ k) else isqrtBits n k r

def isqrt (n : Nat) : Nat := isqrtBits n (n.log2 / 2 + 1) 0

/-- √(n/d) to 320 fraction bits, with a half step added when it is not exact, so that rounding sees the remainder. -/
def sqrtFx (n d : Nat) : Ex :=
  let r := isqrt (n * 2 ^ 640 / d)
  if r * r * d = n * 2 ^ 640 then .mk false r fxOne else .mk false (2 * r + 1) (2 * fxOne)

/-- ln 2 and π in fixed point. -/
def fxLn2 : Nat := 1480553391661173448385607439722553250922680800745876974795605978609098082859138712941075737848984
def fxPi : Nat := 6710401180212168915155840974220003240804194089427148950727106424351713218671805380099500388914039

/-- The exponential series of a fixed-point argument, `k` terms from term `i`. -/
def fxExpTerms (t : Nat) : Nat → Nat → Nat → Nat → Nat
  | 0, _, _, acc => acc
  | k + 1, i, term, acc => fxExpTerms t k (i + 1) (term * t / fxOne / i) (acc + term)

/-- e^t for 0 ≤ t < 1. -/
def fxExp (t : Nat) : Nat := fxExpTerms t 90 1 fxOne 0

/-- The sine series of a fixed-point argument: the sums of positive and negative terms. -/
def fxSinTerms (t2 : Nat) : Nat → Nat → Nat → Nat → Nat → Nat
  | 0, _, _, pos, neg => pos - neg
  | k + 1, i, term, pos, neg =>
    fxSinTerms t2 k (i + 1) (term * t2 / fxOne / ((2 * i) * (2 * i + 1)))
      (if i % 2 = 1 then pos + term else pos) (if i % 2 = 1 then neg else neg + term)

/-- sin(π n/d) for 0 < n/d ≤ 1/2. -/
def fxSinPi (n d : Nat) : Nat :=
  let t := fxPi * n / d
  fxSinTerms (t * t / fxOne) 50 1 t 0 0

/-- atanh(y) for 0 ≤ y ≤ 1/3. -/
def fxAtanhTerms (y2 : Nat) : Nat → Nat → Nat → Nat → Nat
  | 0, _, _, acc => acc
  | k + 1, i, pow, acc => fxAtanhTerms y2 k (i + 1) (pow * y2 / fxOne) (acc + pow / (2 * i + 1))

def fxAtanh (y : Nat) : Nat := fxAtanhTerms (y * y / fxOne) 110 0 y 0

/-- 2^(n/d) for 0 ≤ n/d < 1. -/
def fxExp2 (n d : Nat) : Nat := fxExp (fxLn2 * n / d)

def frcp32 (a : Word) : Word :=
  match f32 a with
  | .nan => toF32 .nan
  | .inf s => toF32 (.fin s 0 1)
  | .fin s n d => if n = 0 then toF32 (.inf s) else toF32 (.fin s d n)

def fsqrt32 (a : Word) : Word :=
  match f32 a with
  | .nan => toF32 .nan
  | .inf s => if s then toF32 .nan else toF32 (.inf false)
  | .fin s n d => if n = 0 then a else if s then toF32 .nan else toF32 (sqrtFx n d)

def frsq32 (a : Word) : Word :=
  match f32 a with
  | .nan => toF32 .nan
  | .inf s => if s then toF32 .nan else toF32 (.fin false 0 1)
  | .fin s n d => if n = 0 then toF32 (.inf s) else if s then toF32 .nan else toF32 (sqrtFx d n)

/-- 2^x: the integer part of x gives the binary exponent and the rest the fixed-point series. -/
def exp2Ex (s : Bool) (n d : Nat) : Ex :=
  let i := n / d
  let r := n % d
  if s then
    if 200 ≤ i then .fin false 1 (2 ^ 200)
    else if r = 0 then .fin false 1 (2 ^ i) else (Ex.mk false (fxExp2 (d - r) d) fxOne).scale2 (- (i : Int) - 1)
  else if 128 ≤ i then .inf false
  else (Ex.mk false (fxExp2 r d) fxOne).scale2 i

def fexp232 (a : Word) : Word :=
  match f32 a with
  | .nan => toF32 .nan
  | .inf s => if s then toF32 (.fin false 0 1) else toF32 (.inf false)
  | .fin s n d => toF32 (exp2Ex s n d)

/-- log₂ of a positive fraction: its exponent and the atanh series of its significand. -/
def log2Ex (n d : Nat) : Ex :=
  let e := flog2 n d
  let (a, b) := divPow2 n d e
  if a = b then .ofInt e
  else
    let l := 2 * fxAtanh ((a - b) * fxOne / (a + b)) * fxOne / fxLn2
    (Ex.ofInt e).add (.mk false l fxOne)

def flog232 (a : Word) : Word :=
  match f32 a with
  | .nan => toF32 .nan
  | .inf s => if s then toF32 .nan else toF32 (.inf false)
  | .fin s n d => if n = 0 then toF32 (.inf true) else if s then toF32 .nan else toF32 (log2Ex n d)

def fsin32 (a : Word) : Word :=
  match f32 a with
  | .nan => toF32 .nan
  | .inf _ => toF32 .nan
  | .fin s n d =>
    if n % d = 0 then toF32 (.fin s 0 1)
    else
      let r := n % (2 * d)                       -- the argument mod 2, as r/d
      let flip := decide (d < r)                 -- the second half turn is negative
      let q := if d < r then r - d else r        -- 0 < q/d < 1
      let q := if d < 2 * q then d - q else q    -- reflected to at most 1/2
      toF32 (.mk (s != flip) (fxSinPi q d) fxOne)

/-- tanh of a positive fraction: (1 − u)/(1 + u) with u = e^(−2x), or near zero the ratio of the sinh and cosh series
through e^(2x) − 1. -/
def tanhEx (s : Bool) (n d : Nat) : Ex :=
  if 64 * d ≤ n then .fin s (2 ^ 100 - 1) (2 ^ 100)
  else if n * 2 ^ 40 < d then
    -- x - x^3/3 < tanh x < x: below 2^-40 the nearest f32 value is x itself
    .fin s n d
  else
    -- 2x / ln 2 = k + t; e^(2x) = 2^k e^(t ln 2)
    let x2 := 2 * n * fxOne / d
    let k := x2 / fxLn2
    let e := fxExp (x2 % fxLn2) * 2 ^ k
    .mk s (e - fxOne) (e + fxOne)

def ftanh32 (a : Word) : Word :=
  match f32 a with
  | .nan => toF32 .nan
  | .inf s => toF32 (.fin s 1 1)
  | .fin s n d => if n = 0 then a else toF32 (tanhEx s n d)

end Sys2Proof.Machine
end

