-- ==== Sys2Proof/Machine/Mem.lean ====
section
/-!
DEFINITION. Byte memories in canonical form: pairs of address and byte, addresses strictly rising, no zero byte listed;
what is not listed reads as zero (R417: reset marks every block all zero; log 5). Values are little-endian (R12).
-/

namespace Sys2Proof.Machine

/-- A byte memory. -/
abbrev ByteMem := List (Nat × Byte)

/-- The byte at an address. -/
def memGet (m : ByteMem) (a : Nat) : Byte :=
  match m with
  | [] => 0#8
  | (k, v) :: t => if k = a then v else memGet t a

/-- A write of one byte keeps the canonical form: a zero removes the entry. -/
def memSet (m : ByteMem) (a : Nat) (b : Byte) : ByteMem :=
  match m with
  | [] => if b = 0#8 then [] else [(a, b)]
  | (k, v) :: t =>
    if a < k then (if b = 0#8 then (k, v) :: t else (a, b) :: (k, v) :: t)
    else if a = k then (if b = 0#8 then t else (a, b) :: t)
    else (k, v) :: memSet t a b

/-- Every listed address is above `lo`, rising, with a byte that is not zero. -/
def ByteMem.above (lo : Option Nat) : ByteMem → Bool
  | [] => true
  | (k, v) :: t => (match lo with | none => true | some l => decide (l < k)) && v != 0#8 && ByteMem.above (some k) t

/-- The canonical form. -/
def ByteMem.wf (m : ByteMem) : Bool := ByteMem.above none m

/-- `n` bytes from an address. -/
def memBytes (m : ByteMem) (a n : Nat) : List Byte := (List.range n).map fun i => memGet m (a + i)

/-- Writes of single bytes, in order. -/
def memPut (m : ByteMem) (ws : List (Nat × Byte)) : ByteMem := ws.foldl (fun m w => memSet m w.1 w.2) m

/-- Bytes written from an address upwards. -/
def memWrite (m : ByteMem) (a : Nat) : List Byte → ByteMem
  | [] => m
  | b :: bs => memWrite (memSet m a b) (a + 1) bs

/-- A little-endian value. -/
def leNat : List Byte → Nat
  | [] => 0
  | b :: bs => b.toNat + 256 * leNat bs

/-- The `n` little-endian bytes of a value. -/
def leBytes (v : Nat) : Nat → List Byte
  | 0 => []
  | n + 1 => BitVec.ofNat 8 v :: leBytes (v / 256) n

def memNat (m : ByteMem) (a n : Nat) : Nat := leNat (memBytes m a n)

/-- The field of `n` bits at `lo` of a number. -/
def bitsN (v lo n : Nat) : Nat := v / 2 ^ lo % 2 ^ n

/-- The value of the low `n` bits as a signed number. -/
def sextN (v n : Nat) : Int :=
  let x := v % 2 ^ n
  if 2 * x < 2 ^ n then (x : Int) else (x : Int) - (2 ^ n : Nat)

/-- An integer as a word, mod 2^32. -/
def wordOfInt (i : Int) : Word := BitVec.ofInt 32 i

/-- An integer as a natural number mod 2^n. -/
def modPow (i : Int) (n : Nat) : Nat := (i % ((2 ^ n : Nat) : Int)).toNat

/-- The list with one element replaced by its image. -/
def updAt {α : Type} (xs : List α) (i : Nat) (f : α → α) : List α :=
  match xs, i with
  | [], _ => []
  | x :: t, 0 => f x :: t
  | x :: t, n + 1 => x :: updAt t n f

end Sys2Proof.Machine
end

