-- ==== Sys2Proof/Config.lean ====
section
/-!
DEFINITION. What the spec leaves to the implementation or leaves open: constants of the part, and the free values, which
have no body. A free value is indexed by a counter of State (`tick`) and a second index, so each use is a fresh one.
-/

namespace Sys2Proof.Config

/-! ## The part's sizes (spec 00 R1 to R6, 01 R15) -/

def clusters : Nat := 192
def cores : Nat := 768
def contexts : Nat := 64
def stackCount : Nat := 12
def slotsPerCore : Nat := 4096
def vslotsPerCore : Nat := 2048
def banks : Nat := 32
def bankBytes : Nat := 65536
def l1Sets : Nat := 512
/-- Bytes of one stack's local address space (R355: local addresses are below 2^36). -/
def stackBytes : Nat := 2 ^ 36
/-- The end of a stack's memory (R1, R409: 32 channels of 2 GiB; log 4). -/
def stackEnd : Nat := 2 ^ 36

/-- Lines of 128 bytes in the L2 slice of a sector (R2, R8: 24 MiB). -/
def l2Lines : Nat := 24 * 2 ^ 20 / 128
/-- Lines in a cluster's Sieve cache (R6: 128 KiB). -/
def sieveLines : Nat := 131072 / 128

/-! ## Free values: no body, nothing can be proved of them -/

/-- The value of an exited lane of a V register, of a fresh private byte or of any other byte the spec leaves undefined
(log 6, log 7). -/
opaque freeByte : Nat → Nat → Byte
/-- The lanes of a V register that have exited (log 6). -/
opaque freeWord : Nat → Nat → Word
/-- Cycles that pass in a step (log 3). -/
opaque elapsed : Nat → Nat
/-- Nanoseconds that pass in a step (log 3). -/
opaque elapsedNs : Nat → Nat
/-- The victim of a fill where R308 does not decide it (log 9). -/
opaque victim : Nat → Nat
/-- What a peer device of the domain returns (log 8). -/
opaque peerByte : Nat → Nat → Byte
/-- Which elements of a failed copy had landed (log 10). -/
opaque landed : Nat → Nat → Bool
/-- Which of several outcomes the spec allows is taken (log 10). -/
opaque choice : Nat → Nat → Nat
/-- Byte `i` of the device key (R400, log 11). -/
opaque deviceKey : Nat → Byte
/-- Byte `i` of the measurement of the ROM (R415, log 13). -/
opaque romDigest : Nat → Byte
/-- Byte `i` of the unique secret fused into the device (R415, log 13). -/
opaque uniqueSecret : Nat → Byte
/-- The identifier of a layer, from that of the layer before and the layer's measurement (R415, log 13). -/
opaque derive : List Byte → List Byte → List Byte
/-- Byte `i` of the signature under a scheme (0 RSA, 1 SLH-DSA) and key, of a message (R415, log 13). -/
opaque signature : Nat → List Byte → List Byte → Nat → Byte

end Sys2Proof.Config
end

