-- ==== Sys2Proof/Machine/State.lean ====
section
/-!
DEFINITION. The state of the device as plain data: everything the spec gives the machine (INVENTORY.md, State), and the
state after reset. The model's own fields are `sched` and the free-value counter `clk.tick` (log 1, log 3).
-/

namespace Sys2Proof.Machine

/-! ## Registers and splits (spec 01) -/

/-- A register's shape and content (R25): uniform, affine (base, stride), or one value a lane. -/
inductive Reg where
  | u (w : Word)
  | a (base stride : Word)
  | v (lanes : List Word)
  deriving DecidableEq, Repr

/-- Where a register field leads (R16, R46): a descriptor slot, or a register of the supervisor bank (0 to 15). -/
inductive Place where
  | slot (k : Nat)
  | bank (k : Nat)
  deriving DecidableEq, Repr

/-- An entry of a split's latch chain (R21 to R24). `dst` none: an empty entry. -/
structure Latch where
  res : Reg             -- the producer's result
  val : Reg             -- what its destination holds after the write of R29
  dst : Option Place
  nw : Bool             -- the write-back of R23 is pending
  em : Mask             -- the em of the producer
  full : Bool           -- its write-back is a full write whatever em is (R135, R136)
  lost : Bool           -- a group switch has lost it (R24)
  deriving DecidableEq, Repr

/-- The XP word that precedes the split's next word (R80). -/
structure Xp where
  ind : Nat
  xs : Nat
  ext : Nat
  deriving DecidableEq, Repr

/-- How a lane's walk of a volume ends (R241). -/
inductive WalkEnd where
  | tile (a : Nat)
  | absent
  | fail (cause v : Nat)        -- v: the address, or for 0x0F the value
  | remote (a : Nat)            -- waits for a peer in recovery (R411)
  deriving DecidableEq, Repr

/-- A volume instruction: its field D and where its coordinates stand (R240). -/
inductive VolOp where
  | load (d : Dst) (b : Nat)
  | store (b : Nat) (d : Src)
  | probe (d : Dst) (b : Nat)
  | add (b : Nat) (d : Src)
  deriving DecidableEq, Repr

/-- A volume instruction whose walks are under way (R241, R348): what it has read of the descriptor, the tiles it has resolved,
and where the walk of the next one stands. -/
structure VolWalk where
  insn : VolOp
  handle : Nat
  words : List Nat
  ends : List ((Nat × Nat × Nat) × WalkEnd)
  tile : Nat × Nat × Nat
  entry : Nat           -- the address of the entry it stands at
  below : Nat           -- the levels below it
  step : Nat            -- next: 0 to read a pending entry again, 1 to mark, 2 to take, 3 to fill, 4 to publish, 5 to return to 0
  obj : Nat             -- the object taken
  bad : WalkEnd         -- for step 5: how the walk fails
  shot : Bool           -- a VSHOOT of the volume has reached the cluster since the walk began
  wait : List (Nat × Option Nat)   -- the peers its next access waits for, and the ns of the first keep-alive since (R411)
  till : Nat            -- for step 0: the cycle
  deriving DecidableEq, Repr

/-- What sy.tval receives (R45): a word; a value the spec does not define for the cause, which is free; or 96, with one
address a lane in w96 and w97. -/
inductive TVal where
  | word (v : Nat)
  | undef
  | addrs (as : List Nat)
  deriving DecidableEq, Repr

/-- A trap that a parked instruction has raised and its split has still to take: cause, value, lanes (none: em), sy.twb. -/
structure Fail where
  cause : Nat
  val : TVal
  lanes : Option Mask
  twb : Nat
  deriving DecidableEq, Repr

/-- A peer in recovery that a split waits for (R411): the ns of the first keep-alive since, the lanes whose access goes there, and by
lane the address of what waits first. -/
structure PeerWait where
  peer : Nat
  since : Option Nat
  lanes : Mask
  addrs : List Nat
  deriving DecidableEq, Repr

/-- Why a split is parked, with what its wake-up needs. -/
inductive Park where
  | no
  | sleep (tillCycle : Nat)                                       -- R160
  | wsync                                                       -- R160
  | bar (pc idx pd since : Nat)                                 -- R162
  | claim (n age : Nat)                                         -- R144
  | push (e : List Word) (q age : Nat)                          -- R196: the entry, read at issue (R140)
  | pop (nw : Bool) (d : Option Place) (q age : Nat)            -- R196; D as it stood at issue (R140)
  | copyIssue                                                   -- R200
  | tags (all : Bool) (mask : Nat)                              -- R204
  | bowait (off pd : Nat) (till : Option Nat)                   -- R190
  | boundary (release acquire : Bool) (refused twb : Nat)       -- R180, R181
  | waitf (d : Option Place)                                    -- R232
  | bmode (d : Option Place) (bank mode age : Nat)              -- R236
  | walk (k : VolWalk)                                          -- R241
  | vshoot (h : Nat)                                            -- R244
  | snap (d : List Place)                                       -- R245
  | lwait (d : Option Place) (handle : Nat) (till : Option Nat) -- R250
  | stockpot                                                    -- R247
  | cutHold                                                     -- R246
  | domain (peers : List PeerWait)                              -- R411
  | array                                                       -- R212, R94: waits for the matrix array or a landing tile
  | data                                                        -- R169: data of an issued load is late
  | older                                                       -- R160, R180: accesses of the warp's other splits
  | fail (f : Fail)                                             -- R40, R48: waits for its slot, or for user mode, to take the trap
  deriving DecidableEq, Repr

/-- A load whose data arrives later (R169): the destinations and the values it fixed. -/
structure Late where
  writes : List (Place × Reg)
  nw : Bool
  slots : Nat           -- vector slots taken at issue (R28)
  deriving DecidableEq, Repr

/-- What an instruction that has parked decoded its fields under when it issued (R140): the window base, the mode and the index
registers; and the words of the driver's scope entry that it latched then (R255). -/
structure Held where
  base : Nat
  sup : Bool
  xs : List Word
  scope : Option (Nat × List Word)
  deriving DecidableEq, Repr

/-- A split (R36). -/
structure Split where
  pc : Nat
  entry : Mask
  em : Mask
  rcv : Option Nat      -- reconvergence PC
  join : Option Nat     -- join record
  depth : Nat
  latches : List Latch  -- bp0 first
  xp : Option Xp
  park : Park
  held : Option Held    -- of the instruction it stands at, once that has parked
  late : Option Late
  since : Nat           -- when it took its slot (R40)
  deriving DecidableEq, Repr

/-- A Welt entry (R41), kept on the core (R39, log 14). -/
inductive Welt where
  | free
  | split (s : Split)
  | join (rcvPc : Nat) (rcv join : Option Nat) (depth : Nat) (arrived : Bool) (mask : Mask)
  deriving DecidableEq, Repr

/-- The trap record (R45), with the saved entry mask and which split trapped. -/
structure TrapRec where
  tcause : Word
  tpc : Nat
  tval : Word
  tlanes : Mask
  tem : Mask
  twb : Nat
  savedEntry : Mask
  split : Nat
  deriving DecidableEq, Repr

/-- What a warp is doing: running, held at BRK (R160), halted (R49) and whether the driver released it (R413), ended. -/
inductive WarpSt where
  | running
  | held
  | halted (released : Bool)
  | ended
  deriving DecidableEq, Repr

/-- A warp (R15). -/
structure Warp where
  team : Nat
  wid : Nat
  core : Nat            -- physical core
  cobbler : Bool
  prot : Bool
  st : WarpSt
  allot : Nat
  regs : List Reg
  bad : List Place      -- poisoned registers (R402, R403)
  winBase : Nat
  xs : List Word        -- x0 to x3
  preds : List Mask     -- p0 to p7
  live : Mask
  split0 : Option Split
  split1 : Option Split
  welt : List Welt
  weltOrder : List Nat  -- entries of suspended splits, longest suspended first
  issued : Nat          -- instructions since the last return (R40)
  floor : Nat           -- the launch's vector quota floor
  q : Nat
  free : Nat
  sup : Bool
  bank : List Reg
  trap : TrapRec
  srng : List Word
  pkr : Nat
  ftokPend : Bool
  ftokSeq : Nat
  ftokReply : Option Nat     -- the reply the core has taken for a WAITF that is to be replayed (R232)
  progress : Nat
  retired : Nat
  lastRetire : Nat      -- the watchdog's first count began here (R411)
  wdog : Nat            -- its period in ms (R410)
  stopAt : Nat          -- ns at which BRK held it, or a save stopped it (R411)
  frozenTo : Nat        -- ns up to which its waits for peers have been taken off the watchdog's counts (R411)
  privBase : Nat
  weltBase : Nat
  target : Option Nat   -- the Cobbler's target queue (R313)
  pushed : List Nat     -- queues the Cobbler has pushed to (R197)
  deriving DecidableEq, Repr

/-! ## Teams, crews, cores and clusters (spec 07, 11, 12) -/

/-- A tile (R209): its two control words and its data, and whether it is landing. -/
structure Tile where
  rows : Nat
  rowb : Nat
  fmt : Nat
  sct : Nat             -- five bits: the attached scale tile, and bit 4 valid
  mdt : Nat             -- as sct, the metadata tile
  scale : Int
  nkeep : Nat
  land : Bool
  data : List Byte      -- 16 KiB; bytes beyond the list are zero
  poison : Bool         -- poisoned data has landed in it (R403)
  deriving DecidableEq, Repr

/-- An accumulator (R214); elements beyond the list are +0. -/
structure Acc where
  rows : Nat
  cols : Nat
  isInt : Bool
  elems : List Word     -- row-major, 64 columns a row
  poison : Bool         -- R403
  deriving DecidableEq, Repr

/-- One matrix operation (R213). -/
structure MatOp where
  kind : Nat            -- F of R213
  acc : Nat
  clr : Bool
  ta : Nat
  tb : Nat
  later : Bool          -- a step of a TSEQ after its first (R215)
  deriving DecidableEq, Repr

/-- A team's residence (R379): not yet bound, or one of the slot table's states, or its saved image waits, or it ended. -/
inductive Residence where
  | waiting
  | running
  | saving
  | saved
  | ended
  deriving DecidableEq, Repr

/-- An entry of a core's slot table (R379): its state, its eight words, and the team it stands for. -/
structure SlotEntry where
  st : Nat                   -- 0 free, 1 loaded, 2 running, 3 saving, 4 ended
  words : List Word
  team : Nat
  deriving DecidableEq, Repr

structure Team where
  launch : Nat
  tid : Nat
  crew : Nat
  core : Nat
  warps : Nat
  res : Residence
  fresh : Bool               -- to be dispatched afresh (R297)
  gidx : Nat
  grow0 : Nat
  grows : Nat
  area : Nat
  pendAt : Nat               -- ns since when it waits for residency (R295)
  image : Nat                -- the save image's address, 0 without one (R380)
  room : Nat                 -- the bytes allocated for it (R381)
  withCrew : Bool            -- with the section of its crew
  tiles : List Tile
  accs : List Acc
  ops : List MatOp           -- accepted by the array, oldest first (R213, R215)
  ext : Bool                 -- external effect (R298)
  since : Nat                -- ns at which it last became resident
  runNs : Nat            -- resident time before that
  quantumUsed : Bool
  drainBy : Option Nat       -- ns by which a chosen drain must end (R384)
  replay : Bool
  deriving DecidableEq, Repr

/-- A queue of a crew (R194 to R197). -/
structure Queue where
  bank : Nat
  esz : Nat
  depth : Nat
  off : Nat
  entries : List (List Word)
  allow : Nat
  st : Nat                   -- 0 closed, 1 open, 2 broken
  bad : List Nat             -- its poisoned entries, by their places from the head (R402)
  deriving DecidableEq, Repr

structure Crew where
  launch : Nat
  index : Nat
  cluster : Nat              -- physical cluster
  teams : List Nat
  begun : Bool               -- it has been resident
  resident : Bool
  queues : List Queue
  savedBanks : List (Nat × Nat × List (Nat × Byte))   -- banks of a saved crew: number, mode, contents
  savedBad : List Nat        -- the poisoned sectors of those banks
  image : Nat                -- where the image of its last team holds them (R381); 0: nowhere
  deriving DecidableEq, Repr

/-- A bank of a cluster (R303). -/
structure Bank where
  mode : Nat                 -- 0 L1, 1 scratchpad, 2 FIFO
  owner : Option Nat         -- crew
  deriving DecidableEq, Repr

/-- The leaf a line or a TLB entry carries (R358, R373). -/
structure Leaf where
  world : Bool
  rd : Bool
  wr : Bool
  ex : Bool
  sysa : Bool
  cmpr : Bool
  snx : Bool
  cls : Nat
  home : Nat
  key : Nat
  frame : Nat
  big : Bool                 -- 1 GiB leaf
  deriving DecidableEq, Repr

/-- A cached 128-byte line of an address space. -/
structure Line where
  asid : Nat
  ctx : Nat
  va : Nat                   -- 128-byte aligned
  leaf : Leaf
  bytes : List Byte
  dirty : List Bool          -- which bytes the cluster has written (L1), or all one bit (L2)
  poison : List Bool         -- its four 32-byte sectors
  mark : Nat                 -- 0 none, 1 evict-first, 2 evict-last (R173)
  form : Nat                 -- in L2: 0 stored, 1 zero, 2 constant (R307)
  deriving DecidableEq, Repr

/-- A CLB entry (R241). -/
structure Clb where
  ctx : Nat
  handle : Nat
  gen : Word
  tile : Nat × Nat × Nat
  addr : Nat
  deriving DecidableEq, Repr

/-- A follow-on captured at issue (R200). -/
inductive Follow where
  | none
  | mma (op : MatOp)
  | tld (t addr pitch pkr : Nat)
  deriving DecidableEq, Repr

/-- A copy in flight (R199, R200): the descriptor's words and what issue captured. -/
structure Copy where
  team : Nat
  core : Nat
  crew : Nat
  ctx : Nat
  warp : Nat
  words : List Word
  x : Bool
  pkr : Nat
  seed : Word
  tag : Nat
  bobj : Option Nat
  follow : Follow
  rowb : Nat            -- ROWB of a tile destination, as it was at issue (R202)
  queue : Option Nat    -- its destination queue
  broken : Bool         -- that queue has broken since the copy issued (R203)
  kept : List (Nat × Nat)   -- peers it waits for, with the ns of the first keep-alive since (R411)
  sent : Nat            -- entries already pushed to a queue destination
  age : Option Nat      -- when it began to wait for room there (R202)
  stage : Nat           -- the steps of R203 taken: 0 in flight, 1 the tag, 2 the object, 3 the follow-on
  code : Nat            -- its error code, once it has landed or stopped
  count : Nat           -- its byte count (R202), from then on
  deriving DecidableEq, Repr

structure Cluster where
  banks : List Bank
  sram : List (Nat × Byte)       -- bank * 65536 + offset; what is not listed is zero
  badSram : List Nat             -- its poisoned 32-byte sectors (R403)
  l1 : List Line                 -- most recently used first
  sieve : List Line
  icache : List Line
  clb : List Clb
  copies : List Copy             -- oldest first
  gated : Bool
  scopes : List (Nat × List Word)   -- per context: its entries 5 to 15 as loaded (R387)
  deriving DecidableEq, Repr

structure Core where
  slotsFree : Nat
  pool : Nat
  claims : Nat                   -- claims ever queued: the age of the next one
  tagmap : List Bool
  errmap : List Bool
  tagCount : List Nat
  table : List SlotEntry         -- eight entries (R379)
  cobSt : Nat                    -- 0 never, 1 running, 2 ended, 3 stopped
  cobCause : Nat
  cobTeam : Option Nat
  cobWarp : Option Nat
  warpsFree : Nat                -- of slots 0 to 30
  tilesFree : Nat
  retireMark : Bool
  corrected : Nat                -- SRAM errors corrected since `correctedAt` (R408)
  correctedAt : Nat
  deriving DecidableEq, Repr

/-! ## Launches and contexts (spec 08, 11, 20, 21) -/

inductive LaunchSt where
  | queued
  | dispatched
  | ended (code : Nat)
  deriving DecidableEq, Repr

structure Launch where
  ctx : Nat
  queue : Nat
  seq : Nat
  record : List Word
  grp : Bool
  st : LaunchSt
  teams : Nat
  halted : Bool
  dispatchAt : Nat
  kept : List (Nat × Nat)   -- peers its dispatch waits for, with the ns of the first keep-alive since (R411)
  deriving DecidableEq, Repr

/-- A launch queue's descriptor as the firmware holds it (R377) and its ageing state (R383). -/
structure LQueue where
  ring : Nat
  logsz : Nat
  prio : Nat
  en : Bool
  dev : Bool
  err : Bool
  head : Nat
  tail : Nat
  wrapped : Bool          -- TAIL has passed 2^32 - 1, so that every sequence number of a handle has been given (R250)
  deadline : Nat
  eff : Nat
  timer : Nat             -- ns at which the timer was last set to 0
  nonEmptyAt : Option Nat
  deriving DecidableEq, Repr

structure Context where
  st : Nat                -- 0 free, 1 bound, 2 suspended, 3 killed
  asid : Nat
  gen : Nat
  ccb : Nat
  flags : Nat             -- bit 0 snapshot right, 1 debug, 2 secure
  root : Nat
  tvec : Nat
  scopetab : Nat
  voltab : Nat
  pkr : Nat
  quant : Nat
  age : List Nat
  lqbase : Nat
  pmap : List Word        -- 64 placement words (R354)
  fring : Nat
  frlog : Nat
  fvec : Nat
  ftbmap : Nat
  ftdesc : Nat
  urange : List (Nat × Nat)
  spool : Nat
  spoolsz : Nat
  grant : List Nat        -- 48-bit cluster map of each die
  harvest : List Nat      -- sy.harvest and sy.spare as they were when it was bound (R4, R285)
  spare : List Nat
  queues : List LQueue
  wdogMs : Nat
  ckpt : Nat
  widx : Nat              -- the fault ring's WIDX (R365)
  heldRecs : List (List (List Word))   -- record groups that wait for room, oldest first
  suspendBy : Option (Nat × Nat)       -- a SUSPEND in progress: its deadline in µs, the ring entry
  allDirty : Bool         -- the next drain covers every chunk (R349, R401)
  deriving DecidableEq, Repr

/-! ## Device-wide state -/

/-- Home memory and what belongs to it. -/
structure Memory where
  home : List (Nat × Byte)       -- by device physical address; unlisted bytes are zero (R417)
  host : List (Nat × Byte)       -- host memory as the link shows it; unlisted bytes are zero (log 5)
  poison : List Nat              -- poisoned sectors: physical address / 32
  blocks : List (Nat × Nat)      -- compression state of 256-byte blocks; unlisted: 1, all zero (R307, R417)
  l2 : List Line
  blocked : Nat                  -- the model's own: a write of this step must wait (1: the hold of R246, 2: the Stockpot)
  deriving DecidableEq, Repr

/-- An entry of a home controller's TLB or the hub's (R360). -/
structure TlbEntry where
  ctl : Nat                -- the stack, or 12: the hub
  asid : Nat
  page : Nat
  leaf : Leaf
  deriving DecidableEq, Repr

/-- A walk under way (R360): its controller, the address, and the sequence it recorded. -/
structure WalkState where
  ctl : Nat
  ctx : Nat
  va : Nat
  seq : Nat
  deriving DecidableEq, Repr

/-- A fault token (R367). -/
structure Token where
  ctx : Nat
  gen : Nat
  warp : Nat
  seq : Nat
  addr : Nat
  acc : Nat
  reply : Option Nat       -- held for a saved team (the bitmap of R367 is in memory)
  deriving DecidableEq, Repr

/-- The memory processor and the controllers (spec 19). -/
structure Mp where
  tlb : List TlbEntry
  walks : List WalkState
  shootSeq : List (Nat × Nat × Nat)    -- per controller and ASID
  regions : List (Nat × Word × Word)   -- stack * 64 + index (R393); unlisted: zero
  busy : Bool
  result : Nat
  shootWait : Option Nat         -- the invalidation sequence a SHOOT waits for (R370)
  invSeq : Nat
  answers : List (Nat × Nat)     -- context and page of each answer given (R361)
  posts : List (Nat × Nat × Nat × Nat)   -- WAITF posts that wait: warp, address, access, sequence (R367)
  tokens : List (Nat × Token)
  deriving DecidableEq, Repr

/-- A leaf as a translation query sees it (R361): RD, WR and EX in bits 0 to 2, KEY, CLASS, SYSA. -/
structure Answer where
  rights : Nat
  key : Nat
  cls : Nat
  sysa : Bool
  deriving DecidableEq, Repr

/-- A response of GET_MEASUREMENTS (R415): the blocks by index, and the two signatures. -/
structure Measurements where
  blocks : List (Nat × List Nat)
  rsa : List Byte
  slh : List Byte
  deriving DecidableEq, Repr

/-- The register window (R352, R406), and what the link has last carried to the host or a peer. -/
structure Window where
  kstat : Nat
  mpcmd : List Word              -- MPCMD0 to MPCMD7
  freply : List Word
  haack : Word
  papbase : Nat
  msiaddr : List Nat
  msidata : List Word
  admbase : Nat
  admlog : Nat
  telbase : Nat
  tellog : Nat
  ardy : Bool
  pstate : Nat
  plimit : Nat
  revision : Nat
  msi : List Nat                 -- vectors raised, oldest first
  rdata : Option Nat             -- what the last load or atomic from outside returned; none: a peer's access refused
  answer : Option Answer         -- the answer to the last translation query; none: absent
  measured : Option Measurements
  deriving DecidableEq, Repr

/-- A firmware image (R414): its SHA-384 hash, its security version, the hashes of its two keys, and whether each signature
verifies. -/
structure Image where
  digest : List Byte
  version : Nat
  rsaKey : List Byte
  slhKey : List Byte
  rsaOk : Bool
  slhOk : Bool
  deriving DecidableEq, Repr

/-- Fuses and what wear changes (R3, R408 to R414). -/
structure Fuses where
  harvest : List Nat             -- 192-bit map of each die
  spare : List Nat
  rollback : Nat
  keys : List (List Byte)        -- SHA-384 hashes of the keys that may sign an image (R414)
  images : List Image            -- secure, Lapstone and memory processor firmware (R414)
  channels : List (Nat × Nat)    -- retired (stack, channel)
  spareBanks : List (Nat × Nat)  -- cluster, bank replaced
  fenced : List Nat              -- dies torn down
  kloakLanes : Nat               -- lanes lost
  cyhildLanes : List (Nat × Nat) -- port, lane lost
  portsRetired : List Nat
  repairs : List Nat             -- stacks with a pending row repair
  warned : List (Nat × Nat)      -- channels KIND 20 has warned of (R409)
  bankErrors : List (Nat × Nat × Nat)    -- errors corrected in a bank: cluster, bank, count (R409)
  threshold : Nat                -- of corrected SRAM errors in 24 hours (R408)
  deriving DecidableEq, Repr

/-- A Stockpot copy (R247). -/
structure Stock where
  pa : Nat                       -- block address / 256
  va : Nat
  state : Nat
  bytes : List Byte
  deriving DecidableEq, Repr

/-- What the hub keeps of the access from outside that has just reached it: nothing, the access, which waits, or the write of a
host atomic that has read (R246, R262). -/
inductive HubNext where
  | done
  | held
  | write (ctx va v : Nat)
  deriving DecidableEq, Repr

/-- The snapshot hub and the drain engine (R245 to R248, R349, R350, R395 to R399). -/
structure Snap where
  gen : Nat
  st : Nat                       -- 0 idle, 2 draining, 3 failed; 1, cutting, is `cut` not 0
  result : Nat
  cut : Nat                      -- 0 none, 1 release done and waiting to hold, 2 hold
  holdAt : Nat                   -- ns at which the hold began (R246)
  dirty : List Nat               -- chunks written since the last switch (VA / 16384)
  drain : List Nat               -- chunks still to drain, in increasing order
  taken : List Nat               -- chunks of this generation already read
  hashes : List (Nat × Nat × List Byte)  -- context, chunk, hash
  stock : List Stock
  units : Nat                    -- Stockpot size in units of 768 MiB (R396)
  emitted : Nat
  started : Bool                 -- the KIND 2 entry has been formed
  held : Option (List Byte × Option (Nat × Nat × List Byte))   -- an entry that waits for room, and its chunk's hash (R397)
  heldAt : Nat                   -- ns since when it waits
  widx : Nat                     -- the engine's WIDX (R397)
  stalled : Bool                 -- the model's own: an event has found a write that must wait for Stockpot space (R350)
  hub : List Instr               -- writes from outside that the hub or a home holds, oldest first (R246, R247)
  hubGoes : Bool                 -- the model's own: the access that runs in this step is the oldest of them
  hubNext : HubNext              -- the model's own: what becomes of it
  deriving DecidableEq, Repr

/-- A peer of the domain that the fabric reports in recovery (R411), in ns: the first and the last of the keep-alives that go on
now; `last` 0: none does. -/
structure Recovery where
  peer : Nat
  run : Nat
  last : Nat
  deriving DecidableEq, Repr

/-- A write-back that a peer in recovery has not answered (R411): the cluster that sent it, the line, and the ns of the first keep-alive
since. -/
structure RemoteWb where
  peer : Nat
  cluster : Nat
  ctx : Nat
  va : Nat
  since : Option Nat
  deriving DecidableEq, Repr

/-- The firmware (R385, R407, R408). -/
structure Firmware where
  admHead : Nat         -- entries the polls have found
  admDone : Nat         -- HEAD
  admFin : List Nat     -- entries answered beyond HEAD
  telW : Nat
  telLost : Nat
  scopeWait : List (Nat × Nat × Nat)   -- SCOPEs that wait (R388): ring entry, context, index
  inRecovery : List Recovery
  remoteWb : List RemoteWb
  errors : List (Nat × Nat × Nat)      -- per unit: corrected errors not yet reported, ns of its last KIND 16 record (R407)
  deriving DecidableEq, Repr

/-- Time, and the counter the free values are applied to (log 3). -/
structure Clock where
  tick : Nat
  cycle : Nat
  ns : Nat
  deriving DecidableEq, Repr

/-- An error in an SRAM (R402): corrected, in a core's or in a bank; or uncorrectable, in the named word, tile, accumulator, line
or queue entry. -/
inductive Upset where
  | corrected (core : Nat)
  | bank (cluster b : Nat)
  | register (w : Nat) (p : Place)
  | tile (team t : Nat)
  | acc (team n : Nat)
  | l1 (cluster asid va : Nat)
  | sieve (cluster asid va : Nat)
  | scratch (cluster addr : Nat)
  | fifo (crew q n : Nat)
  | l2 (asid va : Nat)
  deriving DecidableEq, Repr

/-- One choice of the issue logic (log 1): which split issues next, whether that is a group switch for the split that
issued last, lines evicted and SRAM errors met in between, whether the next load's data is late, and whether a protected
warp's copies differ. -/
structure Turn where
  warp : Nat
  split : Nat
  switch : Bool
  evictL1 : List (Nat × Nat × Nat)     -- cluster, ASID, line address
  evictL2 : List (Nat × Nat)           -- ASID, line address
  late : Bool
  differ : Bool                        -- the two copies in a protected warp differ at its next instruction (R302)
  upsets : List Upset
  deriving DecidableEq, Repr

/-- The model's own fields (log 1). -/
structure Sched where
  issue : Option (Nat × Nat)           -- the warp and split whose instruction runs
  tape : List Turn
  agenda : List (Nat × Instr)          -- events to come, each after a number of other steps
  quiet : Nat                          -- steps since one last looked at the events that wait
  turn : Nat                           -- how often one has
  late : Bool
  differ : Bool
  deriving DecidableEq, Repr

structure State where
  warps : List Warp
  teams : List Team
  crews : List Crew
  launches : List Launch
  ctxs : List Context
  cores : List Core
  clusters : List Cluster
  mem : Memory
  mp : Mp
  win : Window
  fuses : Fuses
  snap : Snap
  fw : Firmware
  clk : Clock
  sched : Sched
  deriving DecidableEq, Repr

/-! ## How a step can stop -/

/-- Why the machine stops. -/
inductive Fault where
  /-- Raised by a warp instruction when no split of a running warp is chosen to issue: no such step exists on the device.
  Safe: the machine of the spec never takes it. -/
  | noIssuingSplit
  deriving DecidableEq, Repr

/-- What the model does not run. -/
inductive Refusal where
  /-- Raised by `exec` for an instruction without a meaning in this model. Safe: no claim about it can be proved. -/
  | notModelled (mnemonic : String)
  deriving DecidableEq, Repr

/-! ## Reset -/

def SlotEntry.free : SlotEntry := { st := 0, words := List.replicate 8 0#32, team := 0 }

def Core.reset : Core :=
  { slotsFree := Config.slotsPerCore, pool := Config.vslotsPerCore, claims := 0
    tagmap := List.replicate 64 true, errmap := List.replicate 64 false, tagCount := List.replicate 64 0
    table := List.replicate 8 SlotEntry.free, cobSt := 0, cobCause := 0, cobTeam := none, cobWarp := none
    warpsFree := 31, tilesFree := 16, retireMark := false, corrected := 0, correctedAt := 0 }

def Cluster.reset : Cluster :=
  { banks := List.replicate 32 ⟨0, none⟩, sram := [], badSram := [], l1 := [], sieve := [], icache := [], clb := [], copies := []
    gated := false, scopes := [] }

def LQueue.reset : LQueue :=
  { ring := 0, logsz := 0, prio := 0, en := false, dev := false, err := false, head := 0, tail := 0, wrapped := false, deadline := 0
    eff := 0, timer := 0, nonEmptyAt := none }

def Context.reset : Context :=
  { st := 0, asid := 0, gen := 0, ccb := 0, flags := 0, root := 0, tvec := 0, scopetab := 0, voltab := 0, pkr := 0
    quant := 1000, age := List.replicate 8 1000, lqbase := 0, pmap := List.replicate 64 0#32, fring := 0, frlog := 6
    fvec := 0, ftbmap := 0, ftdesc := 0, urange := [], spool := 0, spoolsz := 0, grant := [0, 0, 0, 0], harvest := [0, 0, 0, 0]
    spare := [0, 0, 0, 0]
    queues := List.replicate 64 LQueue.reset, wdogMs := 2000, ckpt := 0, widx := 0, heldRecs := [], suspendBy := none
    allDirty := false }

def TrapRec.reset : TrapRec :=
  { tcause := 0#32, tpc := 0, tval := 0#32, tlanes := 0#32, tem := 0#32, twb := 0, savedEntry := 0#32, split := 0 }

def Window.reset : Window :=
  { kstat := 0, mpcmd := List.replicate 8 0#32, freply := [0#32, 0#32, 0#32], haack := 0#32, papbase := 0
    msiaddr := List.replicate 16 0, msidata := List.replicate 16 0#32, admbase := 0, admlog := 0, telbase := 0
    tellog := 0, ardy := false, pstate := 1800, plimit := 2400, revision := 0, msi := [], rdata := none
    answer := none, measured := none }

/-- The spare map of a die: clusters 40 to 47 (log 4). -/
def spareDefault : Nat := 2 ^ 192 - 2 ^ 160

/-- The images a device comes with, which verify (R414; log 4). -/
def Image.reset : Image :=
  { digest := List.replicate 48 0#8, version := 0, rsaKey := List.replicate 48 0#8, slhKey := List.replicate 48 0#8, rsaOk := true
    slhOk := true }

/-- The machine right after reset (R15, R204, R352, R396, R417; what the spec does not give is in log 4 and log 5). -/
def State.reset : State :=
  { warps := [], teams := [], crews := [], launches := []
    ctxs := List.replicate 64 Context.reset
    cores := List.replicate 768 Core.reset
    clusters := List.replicate 192 Cluster.reset
    mem := { home := [], host := [], poison := [], blocks := [], l2 := [], blocked := 0 }
    mp := { tlb := [], walks := [], shootSeq := [], regions := [], busy := false, result := 0, shootWait := none, invSeq := 0
            answers := [], posts := [], tokens := [] }
    win := Window.reset
    fuses := { harvest := [0, 0, 0, 0], spare := [spareDefault, spareDefault, spareDefault, spareDefault], rollback := 0
               keys := [List.replicate 48 0#8], images := List.replicate 3 Image.reset, channels := [], spareBanks := [], fenced := [], kloakLanes := 0
               cyhildLanes := [], portsRetired := [], repairs := [], warned := [], bankErrors := [], threshold := 64 }
    snap := { gen := 0, st := 0, result := 0, cut := 0, holdAt := 0, dirty := [], drain := [], taken := []
              hashes := [], stock := [], units := 64, emitted := 0, started := false, held := none, heldAt := 0, widx := 0, stalled := false, hub := []
              hubGoes := false, hubNext := .done }
    fw := { admHead := 0, admDone := 0, admFin := [], telW := 0, telLost := 0, scopeWait := [], inRecovery := [], remoteWb := [], errors := [] }
    clk := { tick := 0, cycle := 0, ns := 0 }
    sched := { issue := none, tape := [], agenda := [], quiet := 0, turn := 0, late := false, differ := false } }

end Sys2Proof.Machine
end

