-- ==== Sys2Proof/Machine/Trans.lean ====
section
/-!
DEFINITION. Homes, page tables, walks and the access checks on a leaf (spec 19 R354 to R360, R373; 21 R393, R394, R396).
-/

namespace Sys2Proof.Machine

def State.ctx (s : State) (c : Nat) : Context := s.ctxs.getD c Context.reset

/-- The home of a virtual address (R354). -/
inductive Home where
  | stack (k : Nat)
  | hub
  | peer (p : Nat)
  | reserved
  deriving DecidableEq, Repr

/-- The placement word of an address (R354). -/
def Context.placement (c : Context) (va : Nat) : Nat := (c.pmap.getD (bitsN va 50 6) 0#32).toNat

def homeOf (pl va : Nat) : Home :=
  let gi := bitsN va 12 44
  let home := bitsN pl 4 4
  match bitsN pl 0 4 with
  | 0 => .stack (gi % 12)
  | 1 => .stack (3 * home + gi % 3)
  | 2 => .stack home
  | 3 => .hub
  | 4 => .peer (bitsN pl 8 11)
  | _ => .reserved

/-- The TLB that translates an address (R360): that of its home controller, 0 to 11, or the hub's. -/
def ctlOf (pl va : Nat) : Nat :=
  match homeOf pl va with
  | .stack k => k
  | _ => Config.stackCount

/-- A stack lies on a fenced die, which no request enters or leaves (R404). -/
def fencedStack (s : State) (k : Nat) : Bool := s.fuses.fenced.contains (k / 3)

/-- N of R354: the stacks that share a class's granules. -/
def classN (cls : Nat) : Nat :=
  match cls with
  | 0 => 12
  | 1 => 3
  | _ => 1

/-- The leaf held by an entry (R358); `page` is added to the frame of a 1 GiB leaf. -/
def leafOf (e : Nat) (big : Bool) (page : Nat) : Leaf :=
  { world := bitsN e 2 1 == 1, rd := bitsN e 3 1 == 1, wr := bitsN e 4 1 == 1, ex := bitsN e 5 1 == 1
    sysa := bitsN e 6 1 == 1, cmpr := bitsN e 7 1 == 1, snx := bitsN e 8 1 == 1
    cls := bitsN e 10 4, home := bitsN e 14 4, key := bitsN e 18 5
    frame := bitsN e 28 24 + (if big then page else 0), big := big }

/-- Device physical address of an address under its leaf (R355). -/
def physAddr (pl : Nat) (l : Leaf) (va : Nat) : Nat :=
  let cg := 16 * l.frame + bitsN va 12 4
  let loc := 4096 * (cg / classN l.cls) + va % 4096
  match homeOf pl va with
  | .stack k => k * 2 ^ 36 + loc
  | _ => loc

/-- Host physical address of a class 3 page (R358). -/
def hostAddr (l : Leaf) (va : Nat) : Nat := l.frame * 65536 + va % 65536

/-- Whether the frames from `first` to `last` of a leaf of class 0 to 2, of which `f` serves the page, break R355, or reach into the
Stockpot (R396) or a retired channel (R409). -/
def badFrames (s : State) (pl cls first last f va : Nat) : Bool :=
  let n := classN cls
  let lo := 4096 * (16 * first / n)
  let hi := 4096 * ((16 * last + 15) / n) + 4096
  let stock := Config.stackEnd - s.snap.units * 2 ^ 26
  decide (n * 2 ^ 20 - 1 < last) ||
  (decide (cls ≤ 1) && f % 3 != bitsN va 16 40 % 3) ||
  decide (stock < hi) ||
  (List.range 16).any fun j =>
    match homeOf pl (va / 65536 * 65536 + j * 4096) with
    | .stack k => s.fuses.channels.any fun c => c.1 == k && decide (c.2 * 2 ^ 31 < hi) && decide (lo < (c.2 + 1) * 2 ^ 31)
    | _ => false

/-- `badFrames` for the one frame of a page. -/
def badFrame (s : State) (pl cls f va : Nat) : Bool := badFrames s pl cls f f f va

/-- What a walk finds (R360); a malformed entry with its physical address, level and content (R366). -/
inductive Walk where
  | leaf (l : Leaf)
  | absent
  | malformed (pa level entry : Nat)
  deriving DecidableEq, Repr

/-- A leaf entry is malformed (R358, R359), a 1 GiB leaf at every page when one of its 16,384 frames is bad. -/
def badLeaf (s : State) (pl : Nat) (e : Nat) (big : Bool) (va : Nat) : Bool :=
  let cls := bitsN e 10 4
  let l := leafOf e big (bitsN va 16 14)
  bitsN e 23 5 != 0 || bitsN e 52 12 != 0 || cls != bitsN pl 0 4 || bitsN e 14 4 != bitsN pl 4 4 ||
  decide (4 ≤ cls) || (big && bitsN e 9 1 == 1) ||
  (big && bitsN e 28 24 % 16384 != 0) ||
  (decide (cls ≤ 2) && badFrames s pl cls (bitsN e 28 24) (bitsN e 28 24 + if big then 16383 else 0) l.frame va)

/-- A table pointer is malformed: bits 15:2 or 63:40 are not zero (R358). -/
def badPointer (e : Nat) : Bool := bitsN e 2 14 != 0 || bitsN e 40 24 != 0

/-- The CONT run of a third-level entry is inconsistent (R358). -/
def badRun (m : ByteMem) (ea e : Nat) : Bool :=
  if bitsN e 9 1 = 0 then false
  else
    let base := ea / 256 * 256
    let e0 := memNat m base 8
    bitsN e0 28 24 % 32 != 0 || (List.range 32).any fun i => memNat m (base + 8 * i) 8 != e0 + i * 2 ^ 28

/-- The 8 bytes of a table entry at its controller; behind a fence nothing is found (R404, log 53). -/
def tableEntry (s : State) (a : Nat) : Nat := if fencedStack s (a / 2 ^ 36) then 0 else memNat s.mem.home a 8

/-- The walk of an address through the tables at `root`, read at their controllers (R357 to R360). The levels of a malformed entry are
numbered 0 for the root, 1 and 2 for the second and the third table (log 55). -/
def walkTables (s : State) (root pl va : Nat) : Walk :=
  let m := s.mem.home
  let a0 := root + 8 * bitsN va 43 13
  let e0 := tableEntry s a0
  if bitsN e0 0 1 = 0 then .absent
  else if bitsN e0 1 1 = 1 || badPointer e0 then .malformed a0 0 e0
  else
    let a1 := bitsN e0 16 24 * 65536 + 8 * bitsN va 30 13
    let e1 := tableEntry s a1
    if bitsN e1 0 1 = 0 then .absent
    else if bitsN e1 1 1 = 1 then
      if badLeaf s pl e1 true va then .malformed a1 1 e1 else .leaf (leafOf e1 true (bitsN va 16 14))
    else if badPointer e1 then .malformed a1 1 e1
    else
      let a2 := bitsN e1 16 24 * 65536 + 8 * bitsN va 16 14
      let e2 := tableEntry s a2
      if bitsN e2 0 1 = 0 then .absent
      else if bitsN e2 1 1 = 0 || badLeaf s pl e2 false va || badRun m a2 e2 then .malformed a2 2 e2
      else .leaf (leafOf e2 false 0)

/-- The third-level entry's address, when its tables exist (R364). -/
def leafEntryAddr (s : State) (root va : Nat) : Option Nat :=
  let e0 := tableEntry s (root + 8 * bitsN va 43 13)
  if bitsN e0 0 1 = 0 || bitsN e0 1 1 = 1 || badPointer e0 then none
  else
    let e1 := tableEntry s (bitsN e0 16 24 * 65536 + 8 * bitsN va 30 13)
    if bitsN e1 0 1 = 0 || bitsN e1 1 1 = 1 || badPointer e1 then none
    else some (bitsN e1 16 24 * 65536 + 8 * bitsN va 16 14)

/-- A leaf for a class 4 address, which the peer translates (R355): every check of the page is the peer's. -/
def peerLeaf (pl : Nat) : Leaf :=
  { world := false, rd := true, wr := true, ex := false, sysa := false, cmpr := false, snx := true
    cls := 4, home := bitsN pl 4 4, key := 0, frame := 0, big := false }

/-- Translation of an address in a context: an entry of its controller's TLB, else a walk; a reserved placement class is absent (R354). -/
def translate (s : State) (c va : Nat) : Walk :=
  let x := s.ctx c
  let pl := x.placement va
  match homeOf pl va with
  | .reserved => .absent
  | .peer _ => .leaf (peerLeaf pl)
  | _ =>
    match s.mp.tlb.find? fun t => t.ctl == ctlOf pl va && t.asid == x.asid && t.page == va / 65536 with
    | some t => .leaf t.leaf
    | none => walkTables s x.root pl va

/-- A controller's shoot-down sequence of an ASID (R360, R370); 0 until the first. -/
def shootSeqOf (s : State) (ctl asid : Nat) : Nat :=
  match s.mp.shootSeq.find? fun e => e.1 == ctl && e.2.1 == asid with
  | some e => e.2.2
  | none => 0

/-- The current leaf at the controller, for a write-back (R372). -/
def currentLeaf (s : State) (c va : Nat) : Walk :=
  let x := s.ctx c
  let pl := x.placement va
  match homeOf pl va with
  | .reserved => .absent
  | .peer _ => .leaf (peerLeaf pl)
  | _ => walkTables s x.root pl va

/-! ## Worlds (R393, R394) -/

/-- A local address of a stack is secure. -/
def secureAddr (s : State) (stack loc : Nat) : Bool :=
  s.mp.regions.any fun r =>
    let w0 := r.2.1.toNat
    let w1 := r.2.2.toNat
    r.1 / 64 == stack && bitsN w0 31 1 == 1 && bitsN w1 31 1 == 1 &&
    decide (bitsN w0 0 20 ≤ loc / 65536) && decide (loc / 65536 < bitsN w1 0 20)

/-- The table of R394 for an agent that is secure or not, under a placement word. -/
def worldFits (s : State) (secure : Bool) (pl : Nat) (l : Leaf) (va : Nat) : Bool :=
  let region := match homeOf pl va with
    | .stack k => secureAddr s k (physAddr pl l va % 2 ^ 36)
    | _ => false
  if secure then l.world == region else !l.world && !region

/-- Check 7 of R169. -/
def worldOk (s : State) (c : Nat) (l : Leaf) (va : Nat) : Bool :=
  worldFits s (bitsN (s.ctx c).flags 2 1 == 1) ((s.ctx c).placement va) l va

/-! ## The checks of R169 on an address -/

/-- What an access asks of the page. -/
inductive Access where
  | read
  | write
  | both
  | execute
  deriving DecidableEq, Repr

def Leaf.allows (l : Leaf) (k : Access) : Bool :=
  match k with
  | .read => l.rd
  | .write => l.wr
  | .both => l.rd && l.wr
  | .execute => l.ex

/-- Check 6: the key against sy.pkr (R230); a fetch is tested against no key. -/
def keyOk (pkr key : Nat) (k : Access) : Bool :=
  match k with
  | .read => bitsN pkr (2 * key) 1 == 1
  | .write => bitsN pkr (2 * key + 1) 1 == 1
  | .both => bitsN pkr (2 * key) 1 == 1 && bitsN pkr (2 * key + 1) 1 == 1
  | .execute => true

/-- The cause a failed check of R169 raises. -/
def checkCause (n : Nat) : Nat :=
  match n with
  | 1 => 0x1A
  | 2 => 0x09
  | 3 => 0x0B
  | 4 => 0x0A
  | 5 => 0x0B
  | 6 => 0x0C
  | 7 => 0x0D
  | _ => 0x1C

/-- Checks 4 to 7 of one address on a leaf: the first that fails. Those of a class 4 page are the peer's, and the model takes it that
the peer's translation never refuses the access (log 55). -/
def leafCheck (s : State) (c pkr : Nat) (k : Access) (va : Nat) (w : Walk) : Option Nat :=
  match w with
  | .absent => some 4
  | .malformed _ _ _ => some 4
  | .leaf l =>
    if l.cls = 4 then none
    else if !l.allows k then some 5
    else if !keyOk pkr l.key k then some 6
    else if !worldOk s c l va then some 7
    else none

end Sys2Proof.Machine
end

