-- ==== Sys2Proof/Machine/Topo.lean ====
section
/-!
DEFINITION. Who stands where: the enabled cores, the logical clusters and cores of a context, a warp's team, crew and
launch, and the scope entries (spec 00 R2 to R4, 09 R254, R255, 11 R285, 21 R387).
-/

namespace Sys2Proof.Machine

def State.warp? (s : State) (w : Nat) : Option Warp := s.warps[w]?
def State.team? (s : State) (t : Nat) : Option Team := s.teams[t]?
def State.launch? (s : State) (l : Nat) : Option Launch := s.launches[l]?
def State.crew? (s : State) (c : Nat) : Option Crew := s.crews[c]?
def State.cluster (s : State) (k : Nat) : Cluster := s.clusters.getD k Cluster.reset
def State.core (s : State) (k : Nat) : Core := s.cores.getD k Core.reset

def State.mapWarp (s : State) (w : Nat) (f : Warp → Warp) : State := { s with warps := updAt s.warps w f }
def State.mapTeam (s : State) (t : Nat) (f : Team → Team) : State := { s with teams := updAt s.teams t f }
def State.mapCrew (s : State) (c : Nat) (f : Crew → Crew) : State := { s with crews := updAt s.crews c f }
def State.mapLaunch (s : State) (l : Nat) (f : Launch → Launch) : State := { s with launches := updAt s.launches l f }
def State.mapCluster (s : State) (k : Nat) (f : Cluster → Cluster) : State := { s with clusters := updAt s.clusters k f }
def State.mapCore (s : State) (k : Nat) (f : Core → Core) : State := { s with cores := updAt s.cores k f }
def State.mapCtx (s : State) (c : Nat) (f : Context → Context) : State := { s with ctxs := updAt s.ctxs c f }

/-- Home and host memory are in their canonical form. -/
def Memory.wf (m : Memory) : Bool := ByteMem.wf m.home && ByteMem.wf m.host

/-! ## Cores and clusters -/

/-- A physical core is enabled: neither fused out nor spare (R3). -/
def coreEnabled (s : State) (p : Nat) : Bool :=
  bitsN (s.fuses.harvest.getD (p / 192) 0) (p % 192) 1 == 0 && bitsN (s.fuses.spare.getD (p / 192) 0) (p % 192) 1 == 0

/-- The context's granted clusters, in logical order (R285); a physical cluster is die * 48 + cluster. -/
def granted (x : Context) : List Nat := (List.range 192).filter fun k => bitsN (x.grant.getD (k / 48) 0) (k % 48) 1 == 1

/-- A physical core is enabled as the maps stood when the context was bound (R4, R331). -/
def Context.coreOn (x : Context) (p : Nat) : Bool :=
  bitsN (x.harvest.getD (p / 192) 0) (p % 192) 1 == 0 && bitsN (x.spare.getD (p / 192) 0) (p % 192) 1 == 0

/-- The physical cores behind the context's logical cores: they keep while it is bound (R4, R285). -/
def logicalCores (x : Context) : List Nat :=
  (List.range 768).filter fun p => bitsN (x.grant.getD (p / 192) 0) (p % 192 / 4) 1 == 1 && x.coreOn p

/-- The index of an element, or the length when it is absent. -/
def indexOf (xs : List Nat) (a : Nat) : Nat := (xs.takeWhile fun x => x != a).length

def clusterOf (core : Nat) : Nat := core / 4

/-! ## A warp's surroundings -/

def Team.none0 : Team :=
  { launch := 0, tid := 0, crew := 0, core := 0, warps := 0, res := .ended, fresh := true, gidx := 0, grow0 := 0, grows := 0
    area := 0, pendAt := 0, image := 0, room := 0, withCrew := false, tiles := [], accs := [], ops := [], ext := false, since := 0, runNs := 0
    quantumUsed := false, drainBy := none, replay := false }

def Launch.none0 : Launch :=
  { ctx := 0, queue := 0, seq := 0, record := List.replicate 32 0#32, grp := false, st := .ended 3, teams := 0
    halted := false, dispatchAt := 0, kept := [] }

def Crew.none0 : Crew :=
  { launch := 0, index := 0, cluster := 0, teams := [], begun := false, resident := false, queues := [], savedBanks := [], savedBad := [], image := 0 }

def State.team (s : State) (t : Nat) : Team := s.teams.getD t Team.none0
def State.launch (s : State) (l : Nat) : Launch := s.launches.getD l Launch.none0
def State.crew (s : State) (c : Nat) : Crew := s.crews.getD c Crew.none0

def State.launchOf (s : State) (w : Warp) : Launch := s.launch (s.team w.team).launch
/-- The context a warp belongs to. -/
def State.ctxOf (s : State) (w : Warp) : Nat := (s.launchOf w).ctx
def State.crewOf (s : State) (w : Warp) : Crew := s.crew (s.team w.team).crew

/-- A field of a launch record (R286). -/
def Launch.word (l : Launch) (i : Nat) : Nat := (l.record.getD i 0#32).toNat
def Launch.warps (l : Launch) : Nat := bitsN (l.word 2) 0 5
def Launch.tpc (l : Launch) : Nat := bitsN (l.word 2) 5 3
def Launch.prot (l : Launch) : Bool := bitsN (l.word 2) 8 1 == 1
def Launch.restart (l : Launch) : Bool := bitsN (l.word 2) 9 1 == 1
def Launch.entry (l : Launch) : Nat := l.word 0 + 2 ^ 32 * bitsN (l.word 1) 0 24
def Launch.regs (l : Launch) : Nat := bitsN (l.word 4) 0 11
def Launch.vfloor (l : Launch) : Nat := bitsN (l.word 5) 0 12
def Launch.tiles (l : Launch) : Nat := bitsN (l.word 6) 0 5
def Launch.queues (l : Launch) : Nat := bitsN (l.word 6) 8 5
def Launch.fifob (l : Launch) : Nat := bitsN (l.word 6) 16 6
def Launch.scratch (l : Launch) : Nat := bitsN (l.word 7) 0 22
def Launch.bobjs (l : Launch) : Nat := bitsN (l.word 8) 0 12
def Launch.welt (l : Launch) : Nat := bitsN (l.word 9) 0 16
def Launch.private_ (l : Launch) : Nat := bitsN (l.word 10) 0 17
def Launch.param (l : Launch) : Nat := l.word 13 + 2 ^ 32 * bitsN (l.word 14) 0 24
def Launch.done (l : Launch) : Nat := l.word 22 + 2 ^ 32 * bitsN (l.word 23) 0 24
/-- The launch's handle (R249, R378): the queue, and the record's count mod 2^26. -/
def Launch.handle (l : Launch) : Nat := l.queue % 64 + 64 * (l.seq % 2 ^ 26)

/-! ## Scratchpad and FIFO banks (R303, R304, R171) -/

/-- The banks of a mode a crew holds, in increasing number. -/
def crewBanks (s : State) (crew mode : Nat) : List Nat :=
  (List.range 32).filter fun b =>
    let k := (s.cluster (s.crew crew).cluster).banks.getD b ⟨0, none⟩
    k.mode == mode && k.owner == some crew

/-- The crew's scratchpad bytes (R304). -/
def crewScratch (s : State) (crew : Nat) : Nat := (crewBanks s crew 1).length * Config.bankBytes

/-- The address in cluster SRAM of a scratchpad offset of a crew. -/
def scratchAddr (s : State) (crew o : Nat) : Nat :=
  (crewBanks s crew 1).getD (o / Config.bankBytes) 0 * Config.bankBytes + o % Config.bankBytes

def scratchByte (s : State) (crew o : Nat) : Byte :=
  memGet (s.cluster (s.crew crew).cluster).sram (scratchAddr s crew o)

def scratchBytes (s : State) (crew o n : Nat) : List Byte := (List.range n).map fun i => scratchByte s crew (o + i)

def scratchNat (s : State) (crew o n : Nat) : Nat := leNat (scratchBytes s crew o n)

/-- Bytes written to a crew's scratchpad, at (offset, byte) in order. -/
def scratchPut (s : State) (crew : Nat) (ws : List (Nat × Byte)) : State :=
  s.mapCluster (s.crew crew).cluster fun x =>
    let as := ws.map fun w => scratchAddr s crew w.1
    { x with sram := memPut x.sram (ws.map fun w => (scratchAddr s crew w.1, w.2))
             badSram := x.badSram.filter fun k => !((List.range 32).all fun i => as.contains (32 * k + i)) }

/-- A byte of a crew's scratchpad lies in a poisoned sector (R403). -/
def scratchBad (s : State) (crew o : Nat) : Bool :=
  (s.cluster (s.crew crew).cluster).badSram.contains (scratchAddr s crew o / 32)

def scratchPutNat (s : State) (crew o v n : Nat) : State :=
  scratchPut s crew ((List.range n).map fun i => (o + i, (leBytes v n).getD i 0#8))

/-! ## Scopes (R254, R255) -/

/-- What a scope index names: physical clusters, flags, generation. -/
structure Scope where
  clusters : List Nat
  host : Bool
  dom : Bool
  gen : Nat
  valid : Bool
  ret : Bool
  deriving DecidableEq, Repr

/-- Entry words 0 to 7 of a driver entry (R387). -/
def scopeOfWords (x : Context) (ws : List Word) : Scope :=
  let g := granted x
  let w := fun i => (ws.getD i 0#32).toNat
  { clusters := ((List.range g.length).filter fun i => bitsN (w (i / 32)) (i % 32) 1 == 1).map fun i => g.getD i 0
    valid := bitsN (w 6) 0 1 == 1, ret := bitsN (w 6) 1 1 == 1, host := bitsN (w 6) 2 1 == 1
    dom := bitsN (w 6) 3 1 == 1, gen := bitsN (w 6) 8 8 }

/-- The words of entries 5 to 15 as a cluster holds them for a context. -/
def heldScope (s : State) (cluster c n : Nat) : List Word :=
  match (s.cluster cluster).scopes.find? fun e => e.1 == c with
  | some e => (List.range 8).map fun i => e.2.getD (8 * (n - 5) + i) 0#32
  | none => List.replicate 8 0#32

/-- The scope an index names, for an agent of a cluster and context (R254). -/
def scopeOf (s : State) (cluster c n : Nat) : Scope :=
  let x := s.ctx c
  let fixed := fun (cl : List Nat) (h d : Bool) =>
    ({ clusters := cl, host := h, dom := d, gen := 0, valid := true, ret := false } : Scope)
  match n with
  | 0 => fixed [cluster] false false
  | 1 => fixed ((granted x).filter fun k => k / 48 == cluster / 48) false false
  | 2 => fixed (granted x) false false
  | 3 => fixed (granted x) true false
  | 4 => fixed (granted x) true true
  | _ => scopeOfWords x (heldScope s cluster c n)

/-- The check of R255. -/
def Scope.usable (sc : Scope) : Bool := sc.valid && !sc.ret

/-- The scope names only the issuing cluster (R254). -/
def Scope.onlyHome (sc : Scope) (cluster : Nat) : Bool := sc.clusters == [cluster] && !sc.host && !sc.dom

end Sys2Proof.Machine
end

