-- ==== Sys2Proof/Machine/Home.lean ====
section
/-!
DEFINITION. The homes: L2 slices and controllers, blocks and poison, the Stockpot, the fault and telemetry rings and
interrupts (spec 00 R2; 08 R247; 12 R307; 18 R349; 19 R351, R355, R365, R366, R372; 22 R403, R405, R407).
-/

namespace Sys2Proof.Machine


def lineOf (va : Nat) : Nat := va / 128 * 128

/-! ## Reads at the home -/

/-- The home of an address lies on a fenced die, which no request enters or leaves (R404). -/
def fencedHome (s : State) (c va : Nat) : Bool :=
  match homeOf ((s.ctx c).placement va) va with
  | .stack k => fencedStack s k
  | _ => false

/-- A byte below L2: at its controller, in host memory, or on the peer (R355); all ones behind a fence (log 53). -/
def byteBelow (s : State) (c : Nat) (l : Leaf) (va : Nat) : Byte :=
  let pl := (s.ctx c).placement va
  match homeOf pl va with
  | .stack k => if fencedStack s k then 0xFF#8 else memGet s.mem.home (physAddr pl l va)
  | .hub => memGet s.mem.host (hostAddr l va)
  | _ => Config.peerByte s.clk.tick va

/-- The 128 bytes of a line below L2. -/
def belowL2 (s : State) (c : Nat) (l : Leaf) (va : Nat) : List Byte := (List.range 128).map fun i => byteBelow s c l (va + i)

/-- The poison marks of a line's four sectors below L2 (R403). -/
def poisonBelow (s : State) (c : Nat) (l : Leaf) (va : Nat) : List Bool :=
  let pl := (s.ctx c).placement va
  match homeOf pl va with
  | .stack k => (List.range 4).map fun i => !fencedStack s k && s.mem.poison.contains (physAddr pl l va / 32 + i)
  | _ => List.replicate 4 false

def State.l2Line? (s : State) (asid va : Nat) : Option Line := s.mem.l2.find? fun l => l.asid == asid && l.va == va

/-- The home of an address is an L2 slice: it lies on a stack that can be reached, and its page is not marked for system-wide
atomics, whose home is the controller (R258, R355, R362, R404). -/
def homeInL2 (s : State) (c : Nat) (l : Leaf) (va : Nat) : Bool :=
  match homeOf ((s.ctx c).placement va) va with
  | .stack k => !l.sysa && !fencedStack s k
  | _ => false

/-- The line of an address in its L2 slice, when the slice is its home. -/
def heldL2 (s : State) (c : Nat) (l : Leaf) (va : Nat) : Option Line :=
  if l.sysa || fencedHome s c va then none else s.l2Line? (s.ctx c).asid va

/-- A line as its home holds it (R258): bytes and poison marks. -/
def homeLine (s : State) (c : Nat) (l : Leaf) (va : Nat) : List Byte × List Bool :=
  match heldL2 s c l va with
  | some x => (x.bytes, x.poison)
  | none => (belowL2 s c l va, poisonBelow s c l va)

/-- One byte at its home. -/
def homeByte (s : State) (c : Nat) (l : Leaf) (va : Nat) : Byte :=
  match heldL2 s c l (lineOf va) with
  | some x => x.bytes.getD (va % 128) 0#8
  | none => byteBelow s c l va

def homeBytes (s : State) (c : Nat) (l : Leaf) (va n : Nat) : List Byte :=
  (List.range n).map fun i => homeByte s c l (va + i)

/-! ## Compact states (R307) -/

/-- The compression state of a block (R307); poisoned blocks have state 3. -/
def blockState (s : State) (pa : Nat) : Nat :=
  if (List.range 8).any fun i => s.mem.poison.contains (pa / 256 * 8 + i) then 3
  else match s.mem.blocks.find? fun b => b.1 == pa / 256 with
    | some b => b.2
    | none => 1

/-- One word all over a line. -/
def constLine (bs : List Byte) : Bool := (List.range bs.length).all fun i => bs.getD i 0#8 == bs.getD (i % 4) 0#8

/-- The form that a write-back, engine write or atomic leaves a line in: 1 zero, 2 constant, 0 stored. -/
def packForm (cmpr : Bool) (bs : List Byte) : Nat :=
  if !cmpr then 0 else if bs.all (· == 0#8) then 1 else if constLine bs then 2 else 0

/-- The form a line takes when it is filled from its block. -/
def fillForm (s : State) (cmpr : Bool) (pa : Nat) : Nat := if cmpr && decide (blockState s pa ≤ 2) then blockState s pa else 0

/-- The form and first word of a line of a block: in L2, else as memory holds it. -/
def lineForm (s : State) (mine : List Line) (cmpr : Bool) (va pa : Nat) : Nat × Nat :=
  match mine.find? fun x => x.va == va with
  | some x => (x.form, leNat (x.bytes.take 4))
  | none => (fillForm s cmpr pa, memNat s.mem.home pa 4)

/-- The state of a block with two lines. -/
def pairState (x y : Nat × Nat) : Nat :=
  if x.1 = 1 ∧ y.1 = 1 then 1 else if x.1 = 2 ∧ y.1 = 2 ∧ x.2 = y.2 then 2 else 0

/-- The compression state of what a block holds now: of its lines in L2 when a written one is there, else of the memory's
block. -/
def heldState (s : State) (c : Nat) (l : Leaf) (b pa : Nat) (marks : List Bool) : Nat :=
  let mine := s.mem.l2.filter fun x => x.asid == (s.ctx c).asid && x.va / 256 * 256 == b
  if marks.any id then 3
  else if mine.any fun x => x.dirty == [true] then
    pairState (lineForm s mine l.cmpr b pa) (lineForm s mine l.cmpr (b + 128) (pa + 128))
  else blockState s pa

/-! ## The L2 slices -/

/-- Bytes (offset, byte) reach a line at its controller: a sector written whole is clean, unless the write carries poison, and
the block is written in full (R307, R403). -/
def putPoison (ps : List Bool) (ws : List (Nat × Byte)) (carried : List Bool) : List Bool :=
  (List.range 4).map fun i =>
    (ps.getD i false && !((List.range 32).all fun j => ws.any fun w => w.1 == 32 * i + j)) ||
      (carried.getD i false && ws.any fun w => w.1 / 32 == i)

/-- The poisoned sectors with those of a line replaced. -/
def setPoison (ps : List Nat) (pa : Nat) (marks : List Bool) : List Nat :=
  (ps.filter fun p => p / 4 != pa / 128) ++ (((List.range 4).filter fun i => marks.getD i false).map fun i => pa / 32 + i)

/-- The block states with one replaced; state 1 is not listed. -/
def setBlock (bs : List (Nat × Nat)) (pa st : Nat) : List (Nat × Nat) :=
  (bs.filter fun k => k.1 != pa / 256) ++ (if st = 1 then [] else [(pa / 256, st)])

/-- An L2 eviction of the 256-byte block that holds a line (R307): dirty lines are written at the controller, the
block takes its state, and the lines leave L2. -/
def evictL2 (s : State) (asid va : Nat) : State :=
  let b := va / 256 * 256
  let mine := s.mem.l2.filter fun x => x.asid == asid && x.va / 256 * 256 == b
  let wr : State → Line → State := fun t x =>
    let pl := (s.ctx x.ctx).placement x.va
    let pa := physAddr pl x.leaf x.va
    if x.dirty == [true] && !fencedStack s (pa / 2 ^ 36) then
      let st := pairState (lineForm s mine x.leaf.cmpr b (pa / 256 * 256))
        (lineForm s mine x.leaf.cmpr (b + 128) (pa / 256 * 256 + 128))
      { t with mem := { t.mem with home := memWrite t.mem.home pa x.bytes, poison := setPoison t.mem.poison pa x.poison
                                   blocks := setBlock t.mem.blocks pa st } }
    else t
  let s := mine.foldl wr s
  { s with mem := { s.mem with l2 := s.mem.l2.filter fun x => !(x.asid == asid && x.va / 256 * 256 == b) } }

/-- Every L2 line that satisfies a condition is written back and invalidated. -/
def purgeL2 (s : State) (p : Line → Bool) : State := (s.mem.l2.filter p).foldl (fun s x => evictL2 s x.asid x.va) s

/-- The mark of a line after an access with hint `h` (R173). -/
def markBy (old h : Nat) : Nat := if old = 2 then 2 else if h = 1 then 1 else if h = 2 then 2 else old

/-- The victim of a fill with hint `h` among lines, most recently used first (R308): never an evict-last line while another is
there, nor for an evict-first fill; where the spec leaves the choice open it is a free value (log 9). -/
def victimOf (tick h : Nat) (ls : List Line) : Option Line :=
  let keep := ls.filter fun x => x.mark != 2
  let first := keep.filter fun x => x.mark == 1
  if keep.isEmpty then (if h = 1 then none else ls.getLast?)
  else if first.isEmpty then keep[Config.victim tick % keep.length]?
  else first[Config.victim tick % first.length]?

/-- The stack of a line in L2. -/
def lineStack (s : State) (x : Line) : Nat := ctlOf ((s.ctx x.ctx).placement x.va) x.va

/-- The mark a victim is chosen by: its 256-byte block leaves whole (R307), so that of an evict-last partner counts (R308). -/
def blockMark (s : State) (x : Line) : Nat :=
  if s.mem.l2.any fun y => y.asid == x.asid && y.va / 256 == x.va / 256 && y.mark == 2 then 2 else x.mark

/-- Room for one line in the slice of a stack; zero and constant lines hold no data way (R307). -/
def makeRoomL2 (s : State) (k h : Nat) : State :=
  let ls := s.mem.l2.filter fun x => x.form == 0 && lineStack s x == k
  if ls.length < Config.l2Lines then s
  else match victimOf s.clk.tick h (ls.map fun x => { x with mark := blockMark s x }) with
    | none => s
    | some x => evictL2 s x.asid x.va

/-- The slice of a stack can take a line. -/
def l2Room (s : State) (k : Nat) : Bool :=
  decide ((s.mem.l2.filter fun x => x.form == 0 && lineStack s x == k).length < Config.l2Lines)

/-- An access with hint `h` brings the line into its L2 slice and makes it the most recently used there; lines of class 3 and 4
and of pages marked SYSA are not held there (R173, R308, R355, R362). -/
def touchL2By (s : State) (c : Nat) (l : Leaf) (va h : Nat) : State :=
  if !homeInL2 s c l va then s
  else match s.l2Line? (s.ctx c).asid va with
    | some x =>
      let rest := s.mem.l2.filter fun y => !(y.asid == (s.ctx c).asid && y.va == va)
      { s with mem := { s.mem with l2 := { x with mark := markBy x.mark h } :: rest } }
    | none =>
      let pl := (s.ctx c).placement va
      let s := makeRoomL2 s (ctlOf pl va) h
      if l2Room s (ctlOf pl va) then
        let x := homeLine s c l va
        let ln : Line := { asid := (s.ctx c).asid, ctx := c, va := va, leaf := l, bytes := x.1, dirty := [false]
                           poison := x.2, mark := markBy 0 h, form := fillForm s l.cmpr (physAddr pl l va) }
        { s with mem := { s.mem with l2 := ln :: s.mem.l2 } }
      else s

def touchL2 (s : State) (c : Nat) (l : Leaf) (va : Nat) : State := touchL2By s c l va 0

/-! ## Writes at the home -/

/-- The block of R247 is of a page that snapshots preserve, in a context with the snapshot right (R395). -/
def preserved (s : State) (c : Nat) (l : Leaf) : Bool := bitsN (s.ctx c).flags 0 1 == 1 && !l.snx && decide (l.cls ≤ 2)

/-- The write to the block at `va` must first copy it to the Stockpot (R247, R349, R350). -/
def needsCopy (s : State) (c : Nat) (l : Leaf) (va : Nat) : Bool :=
  s.snap.st == 2 && preserved s c l && s.snap.drain.contains (va / 16384) && !s.snap.taken.contains (va / 16384) &&
  !s.snap.stock.any fun k => k.va == va / 256 * 256

/-- The Stockpot holds every block it can (R396). -/
def stockFull (s : State) : Bool := decide (s.snap.units * 768 * 1048576 / 272 ≤ s.snap.stock.length)

/-- A write to one of these lines would stall for Stockpot space (R247). -/
def stalls (s : State) (c : Nat) (ls : List (Nat × Leaf)) : Bool := stockFull s && ls.any fun x => needsCopy s c x.2 x.1

/-- The Stockpot copy of the block before the write lands; while the Stockpot is full, the write stalls (R247, R396). -/
def copyBlock (s : State) (c : Nat) (l : Leaf) (va : Nat) : State :=
  if needsCopy s c l va then
    if stockFull s then { s with mem := { s.mem with blocked := 2 } } else
    let b := va / 256 * 256
    let pa := physAddr ((s.ctx c).placement va) l b
    let x := homeLine s c l b
    let y := homeLine s c l (b + 128)
    let lines := (x.1 ++ y.1, x.2 ++ y.2)
    let k : Stock := { pa := pa / 256, va := b, state := heldState s c l b pa lines.2, bytes := lines.1 }
    { s with snap := { s.snap with stock := s.snap.stock ++ [k] } }
  else s

/-- The chunk of a write joins the next generation's drain (R349). -/
def markChunk (s : State) (c : Nat) (l : Leaf) (va : Nat) : State :=
  if preserved s c l && !s.snap.dirty.contains (va / 16384) then
    { s with snap := { s.snap with dirty := va / 16384 :: s.snap.dirty } }
  else s

/-- A line's bytes with writes (offset, byte) applied. -/
def putBytes (bs : List Byte) (ws : List (Nat × Byte)) : List Byte := ws.foldl (fun b w => b.set w.1 w.2) bs

/-- How a write arrives at a home: whether it is a write-back, engine write or atomic (R307), the poison marks it carries by
sector (R403), and its hint. -/
structure Arrival where
  compact : Bool := true
  carried : List Bool := []
  hint : Nat := 0
  deriving DecidableEq, Repr

/-- Bytes written to a line at its controller, below L2. -/
def ctlWrite (s : State) (pa : Nat) (ws : List (Nat × Byte)) (carried : List Bool) : State :=
  let marks := putPoison ((List.range 4).map fun i => s.mem.poison.contains (pa / 32 + i)) ws carried
  { s with mem := { s.mem with home := memPut s.mem.home (ws.map fun w => (pa + w.1, w.2))
                               poison := setPoison s.mem.poison pa marks, blocks := setBlock s.mem.blocks pa 0 } }

/-- Bytes written to a line in L2. -/
def l2Write (x : Line) (ws : List (Nat × Byte)) (k : Arrival) : Line :=
  let bs := putBytes x.bytes ws
  { x with bytes := bs, dirty := [true], poison := putPoison x.poison ws k.carried
           form := if k.compact then packForm x.leaf.cmpr bs else 0 }

/-- A held line without a data way takes one when a write leaves it stored (R307): room is made, or its block leaves the slice. -/
def dataWay (k : Arrival) (s : State) (c : Nat) (l : Leaf) (va : Nat) (ws : List (Nat × Byte)) (n : Nat) : State :=
  match heldL2 s c l va with
  | none => s
  | some x =>
    if x.form != 0 && (l2Write x ws k).form == 0 then
      let s := makeRoomL2 s n k.hint
      if l2Room s n then s else evictL2 s x.asid va
    else s

/-- Bytes written at the home of one line (R169, R258): offsets in the line, in order. -/
def homeWriteBy (k : Arrival) (s : State) (c : Nat) (l : Leaf) (va : Nat) (ws : List (Nat × Byte)) : State :=
  let pl := (s.ctx c).placement va
  match homeOf pl va with
  | .stack n =>
    if fencedStack s n then s
    else
      let s := touchL2By (markChunk (copyBlock s c l va) c l va) c l va k.hint
      let s := dataWay k s c l va ws n
      if (heldL2 s c l va).isSome then
        let f : Line → Line := fun x => if x.asid == (s.ctx c).asid && x.va == va then l2Write x ws k else x
        { s with mem := { s.mem with l2 := s.mem.l2.map f } }
      else ctlWrite s (physAddr pl l va) ws k.carried
  | .hub => { s with mem := { s.mem with host := memPut s.mem.host (ws.map fun w => (hostAddr l va + w.1, w.2)) } }
  | _ => s

/-- A write-back, engine write or atomic at the home. -/
def homeWrite (s : State) (c : Nat) (l : Leaf) (va : Nat) (ws : List (Nat × Byte)) : State := homeWriteBy {} s c l va ws

/-- A write that leaves an L1, or comes from the host or a peer, waits at the hold of a cut (R246), and like every write while the
Stockpot is full (R247): the step then has no effect, and whoever made it waits. -/
def gate (s : State) (c : Nat) (l : Leaf) (va : Nat) : State :=
  if s.snap.cut = 2 then { s with mem := { s.mem with blocked := 1 } }
  else if stalls s c [(va, l)] then { s with mem := { s.mem with blocked := 2 } }
  else s

/-- `homeWriteBy` by an agent outside the hub. -/
def agentWriteBy (k : Arrival) (s : State) (c : Nat) (l : Leaf) (va : Nat) (ws : List (Nat × Byte)) : State :=
  homeWriteBy k (gate s c l va) c l va ws

def agentWrite (s : State) (c : Nat) (l : Leaf) (va : Nat) (ws : List (Nat × Byte)) : State := agentWriteBy {} s c l va ws

/-- A run of bytes written at their homes, line by line; `bs` starts at `va` and the leaf covers the run. -/
def homeStoreBy (f : State → Nat → Leaf → Nat → List (Nat × Byte) → State) (s : State) (c : Nat) (l : Leaf) (va : Nat)
    (bs : List Byte) : State :=
  let ws := (List.range bs.length).map fun i => (va + i, bs.getD i 0#8)
  let lines := ((List.range ((va % 128 + bs.length + 127) / 128)).map fun i => lineOf va + 128 * i)
  lines.foldl (fun s ln => f s c l ln ((ws.filter fun w => lineOf w.1 == ln).map fun w => (w.1 % 128, w.2))) s

/-- A run of bytes written at their homes, as no write-back, engine write or atomic. -/
def homeStore (s : State) (c : Nat) (l : Leaf) (va : Nat) (bs : List Byte) : State :=
  homeStoreBy (homeWriteBy { compact := false }) s c l va bs

/-- `homeStore` by an agent outside the hub. -/
def agentStore (s : State) (c : Nat) (l : Leaf) (va : Nat) (bs : List Byte) : State :=
  homeStoreBy (agentWriteBy { compact := false }) s c l va bs

/-! ## Interrupts and rings -/

/-- A message-signalled interrupt (R351): a write of MSIDATA[v] to MSIADDR[v]. -/
def raiseMsi (s : State) (v : Nat) : State :=
  let a := s.win.msiaddr.getD v 0
  let host := memWrite s.mem.host a (leBytes (s.win.msidata.getD v 0#32).toNat 4)
  { s with win := { s.win with msi := s.win.msi ++ [v] }, mem := { s.mem with host := host } }

/-- Words as bytes. -/
def wordsBytes (ws : List Word) : List Byte := ws.flatMap fun w => leBytes w.toNat 4

/-- The leaf under which the memory processor or the firmware reaches an address for a context, in that context's world
(R394). -/
def firmLeaf (s : State) (c va : Nat) : Option Leaf :=
  match translate s c va with
  | .leaf l => if worldOk s c l va then some l else none
  | _ => none

/-- A run of words read at the home by the memory processor or the firmware in a context's tables; none when a page of
it has no valid leaf, or one of the wrong world. -/
def ctxWords (s : State) (c va n : Nat) : Option (List Word) :=
  match firmLeaf s c va, firmLeaf s c (va + 4 * n - 1) with
  | some l, some l' =>
    some ((List.range n).map fun i =>
      let a := va + 4 * i
      BitVec.ofNat 32 (leNat (homeBytes s c (if a / 65536 == va / 65536 then l else l') a 4)))
  | _, _ => none

/-- A run of bytes written at the home in a context's space, line by line; nothing is written to a page without a valid leaf of
its world. -/
def firmStore (s : State) (c a : Nat) (bs : List Byte) : State :=
  (List.range ((a % 128 + bs.length + 127) / 128)).foldl (fun s i =>
    let lo := max a (lineOf a + 128 * i)
    let hi := min (a + bs.length) (lineOf a + 128 * i + 128)
    match firmLeaf s c lo with
    | some l => homeStore s c l lo ((bs.drop (lo - a)).take (hi - lo))
    | none => s) s

/-- A byte read there; `b` where it cannot be. -/
def firmByte (s : State) (c a : Nat) (b : Byte) : Byte :=
  match firmLeaf s c a with
  | some l => homeByte s c l a
  | none => b

/-- A run of words written there. -/
def ringPut (s : State) (c va : Nat) (ws : List Word) : State := firmStore s c va (ws.flatMap fun w => leBytes w.toNat 4)

/-- Padding records before a group, so that it does not wrap (R365). -/
def ringPad (size w len : Nat) : Nat := if w % size + len ≤ size then 0 else size - w % size

/-- The record index at which a group lands after the groups already held. -/
def ringPlace (size : Nat) : Nat → List (List (List Word)) → Nat → Nat
  | w, [], len => w + ringPad size w len
  | w, g :: gs, len => ringPlace size (w + ringPad size w g.length + g.length) gs len

/-- The address of the record with an index (R365). -/
def ringAddr (x : Context) (i : Nat) : Nat := x.fring + 64 * (1 + i % 2 ^ x.frlog)

/-- Writes one group if the ring has room for it and its padding (R365); otherwise none. A header that cannot be read holds the group, and
a record whose own page has no leaf is left out while WIDX advances (log 55). -/
def writeGroup (s : State) (c : Nat) (g : List (List Word)) : Option State :=
  let x := s.ctx c
  let size := 2 ^ x.frlog
  match ctxWords s c x.fring 2 with
  | none => none
  | some h =>
    let ridx := (h.getD 1 0#32).toNat
    let used := (x.widx + 2 ^ 32 - ridx) % 2 ^ 32
    let pad := ringPad size x.widx g.length
    if size < used + pad + g.length then none
    else
      let s1 := (List.range pad).foldl (fun s i => ringPut s c (ringAddr x (x.widx + i)) (List.replicate 16 0#32)) s
      let s2 := (List.range g.length).foldl
        (fun s i => ringPut s c (ringAddr x (x.widx + pad + i)) (g.getD i [])) s1
      let w := (x.widx + pad + g.length) % 2 ^ 32
      let s3 := ringPut s2 c x.fring [BitVec.ofNat 32 w]
      let s4 := s3.mapCtx c fun x => { x with widx := w }
      some (if used = 0 then raiseMsi s4 x.fvec else s4)

/-- A record group is written, or waits in order for room (R365). -/
def postGroup (s : State) (c : Nat) (g : List (List Word)) : State :=
  let hold := s.mapCtx c fun x => { x with heldRecs := x.heldRecs ++ [g] }
  if (s.ctx c).heldRecs.isEmpty then (writeGroup s c g).getD hold else hold

/-- Held groups are written while the ring has room for the next one (R365); `n` bounds the groups tried. -/
def resumeRing (s : State) (c : Nat) : Nat → State
  | 0 => s
  | n + 1 =>
    match (s.ctx c).heldRecs with
    | [] => s
    | g :: gs =>
      match writeGroup s c g with
      | none => s
      | some s' => resumeRing (s'.mapCtx c fun x => { x with heldRecs := gs }) c n

/-- A 16-word record with the given words (R366, R405). -/
def mkRecord (fields : List (Nat × Nat)) : List Word :=
  (List.range 16).map fun i => BitVec.ofNat 32 ((fields.filter fun f => f.1 == i).foldl (fun n f => n + f.2) 0)

/-- Who met what a record reports: ACC, and the warp, where there is one (R366). -/
structure Who where
  acc : Nat := 0
  lcore : Nat := 0
  wid : Nat := 0
  tid : Nat := 0
  deriving DecidableEq, Repr

/-- Words 3 and 4 of a record. -/
def Who.words (w : Who) : List (Nat × Nat) := [(3, w.lcore + 1024 * w.wid), (4, w.tid)]

/-- A warp, as a record names it. -/
def whoIs (s : State) (x : Warp) (acc : Nat) : Who :=
  { acc := acc, lcore := indexOf (logicalCores (s.ctx (s.ctxOf x))) x.core, wid := x.wid, tid := (s.team x.team).tid }

/-- Words 0 and 1 of a record of a context. -/
def recHead (s : State) (c kind acc seq : Nat) : List (Nat × Nat) :=
  [(0, kind + 256 * c + 16384 * acc + 65536 * seq), (1, (s.ctx c).gen)]

/-- The record of kind 4 for a malformed entry (R359, R366). -/
def malformedRec (s : State) (c pa level entry : Nat) (w : Who := {}) : List (List Word) :=
  [mkRecord (recHead s c 4 w.acc 0 ++ w.words ++ [(5, pa % 2 ^ 32), (6, pa / 2 ^ 32), (7, level), (8, entry % 2 ^ 32), (9, entry / 2 ^ 32)])]

/-- The state with a record of kind 4 for each malformed entry that some addresses meet (R359). -/
def postMalformed (s : State) (cx : Nat) (vas : List Nat) (w : Who := {}) : State :=
  let es := (vas.filterMap fun va =>
    match translate s cx va with
    | .malformed pa lev e => some (pa, lev, e)
    | _ => none).eraseDups
  es.foldl (fun s e => postGroup s cx (malformedRec s cx e.1 e.2.1 e.2.2 w)) s

/-- The addresses at which a run of `n` bytes enters a page. -/
def pagesOf (va n : Nat) : List Nat := va :: (List.range ((va % 65536 + n - 1) / 65536)).map fun i => (va / 65536 + 1 + i) * 65536

/-- A word at a device physical address; all ones behind a fence (R404, log 53). -/
def physWord (s : State) (a : Nat) : Nat := if fencedStack s (a / 2 ^ 36) then 2 ^ 32 - 1 else memNat s.mem.home a 4

/-- Malformed entries that the firmware's or the memory processor's reads of some runs of bytes meet are reported (R359). -/
def reportRead (s : State) (c : Nat) (rs : List (Nat × Nat)) : State := postMalformed s c (rs.flatMap fun r => pagesOf r.1 r.2)

/-- A run of words written in a context's tables by the memory processor or the firmware; a malformed entry that the walk meets is
reported. -/
def ctxPut (s : State) (c va : Nat) (ws : List Word) : State :=
  ringPut (postMalformed s c (pagesOf va (4 * ws.length)) { acc := 1 }) c va ws

/-- The group of three records for a refused line (R366, R372); with INSTR 1 it names the warp. -/
def refusalGroup (s : State) (x : Line) (instr : Option Who) : List (List Word) :=
  let d := (List.range 128).foldl (fun n i => if x.dirty.getD i false then n + 2 ^ i else n) 0
  let words := fun (o : Nat) => (List.range 16).map fun i =>
    (BitVec.ofNat 32 (leNat ((List.range 4).map fun j => x.bytes.getD (o + 4 * i + j) 0#8)) : Word)
  [mkRecord (recHead s x.ctx 2 1 0 ++ (instr.getD {}).words ++ [(5, x.va % 2 ^ 32), (6, x.va / 2 ^ 32), (10, d % 2 ^ 32), (11, d / 2 ^ 32 % 2 ^ 32),
      (12, d / 2 ^ 64 % 2 ^ 32), (13, d / 2 ^ 96), (14, if instr.isSome then 1 else 0)]), words 0, words 64]

/-- A telemetry record (R407): lossy, with the count of dropped records in word 4 of the header. -/
def telemetry (s : State) (kind unit count : Nat) (detail : List (Nat × Nat)) : State :=
  let size := 2 ^ s.win.tellog
  let base := s.win.telbase
  let ridx := memNat s.mem.host (base + 4) 4
  let used := (s.fw.telW + 2 ^ 32 - ridx) % 2 ^ 32
  if size ≤ used then
    { s with fw := { s.fw with telLost := s.fw.telLost + 1 }
             mem := { s.mem with host := memWrite s.mem.host (base + 16) (leBytes (s.fw.telLost + 1) 4) } }
  else
    let r := mkRecord ([(0, kind), (1, s.clk.ns % 2 ^ 32), (2, s.clk.ns / 2 ^ 32), (3, unit), (4, count)] ++ detail)
    let host := memWrite s.mem.host (base + 64 * (1 + s.fw.telW % size)) (wordsBytes r)
    let w := (s.fw.telW + 1) % 2 ^ 32
    { s with fw := { s.fw with telW := w }, mem := { s.mem with host := memWrite host base (leBytes w 4) } }

end Sys2Proof.Machine
end

