-- ==== Sys2Proof/Machine/Cache.lean ====
section
/-!
DEFINITION. The cluster L1, the instruction cache and the Sieve cache: fills, evictions, loads and stores of lines,
write-backs and their refusals, release and acquire (spec 03 R76, R77; 06 R169 to R181; 07 R208; 09 R256 to R258; 12 R303,
R307, R308; 19 R372).
-/

namespace Sys2Proof.Machine

/-! ## Lines -/

/-- The ways of a cluster's L1 (R303). -/
def l1Ways (x : Cluster) : Nat := (x.banks.filter fun b => b.mode == 0).length

/-- The set of a line (R303; log 9). -/
def setOf (va : Nat) : Nat := va / 128 % Config.l1Sets

def isLine (asid va : Nat) (x : Line) : Bool := x.asid == asid && x.va == va

def State.asid (s : State) (c : Nat) : Nat := (s.ctx c).asid

def l1Line? (s : State) (k c va : Nat) : Option Line := (s.cluster k).l1.find? (isLine (s.asid c) va)

def Line.isDirty (x : Line) : Bool := x.dirty.any id

/-- The bytes the cluster has written in a line. -/
def Line.writes (x : Line) : List (Nat × Byte) :=
  (List.range 128).filterMap fun i => if x.dirty.getD i false then some (i, x.bytes.getD i 0#8) else none

def State.mapL1 (s : State) (k : Nat) (f : List Line → List Line) : State := s.mapCluster k fun x => { x with l1 := f x.l1 }

/-- A line leaves the L1 without a write-back. -/
def l1Drop (s : State) (k asid va : Nat) : State := s.mapL1 k fun ls => ls.filter fun x => !isLine asid va x

/-- A line takes its place as the most recently used, with what a hint says of it (R173). -/
def l1Put (s : State) (k : Nat) (x : Line) : State :=
  s.mapL1 k fun ls => x :: ls.filter fun y => !isLine x.asid x.va y

/-! ## Write-backs (R258, R372) -/

/-- The home refuses a write-back: the page's current leaf lacks V or WR. -/
def refusedNow (s : State) (x : Line) : Bool :=
  match currentLeaf s x.ctx x.va with
  | .leaf l => !l.wr
  | _ => true

/-- The leaf a write-back is performed under. -/
def wbLeaf (s : State) (x : Line) : Leaf :=
  match currentLeaf s x.ctx x.va with
  | .leaf l => l
  | _ => x.leaf

/-- A dropped write-back is reported (R405, R411). -/
def reportLost (s : State) (c va : Nat) : State :=
  postGroup s c [mkRecord (recHead s c 8 1 0 ++ [(5, va % 2 ^ 32), (6, va / 2 ^ 32)])]

/-- A write-back of a cluster has left for its home; one to a peer in recovery waits for its answer (R411). -/
def awaitPeer (s : State) (k : Nat) (x : Line) : State :=
  match homeOf ((s.ctx x.ctx).placement x.va) x.va with
  | .peer p =>
    if s.fw.inRecovery.any fun r => r.peer == p then
      { s with fw := { s.fw with remoteWb := s.fw.remoteWb ++ [{ peer := p, cluster := k, ctx := x.ctx, va := x.va, since := none }] } }
    else s
  | _ => s

/-- A write-back of a cluster waits for its answer. -/
def wbOpen (s : State) (k : Nat) : Bool := s.fw.remoteWb.any fun e => e.cluster == k

/-- A malformed entry that the walk for a write-back meets is reported (R359). -/
def reportCurrent (s : State) (x : Line) : State :=
  match currentLeaf s x.ctx x.va with
  | .malformed pa lev e => postGroup s x.ctx (malformedRec s x.ctx pa lev e { acc := 1 })
  | _ => s

/-- A dirty line of a cluster is offered to its home, with the poison of its sectors (R403): the state after it and whether the home
refused it. -/
def offer (s : State) (k : Nat) (x : Line) : State × Bool :=
  if !x.isDirty then (s, false)
  else if refusedNow s x then (reportCurrent s x, true)
  else (awaitPeer (agentWriteBy { carried := x.poison } s x.ctx (wbLeaf s x) x.va x.writes) k x, false)

/-- A refusal outside PHREL, PHAR and SNAP is reported against the context alone (R372). -/
def reportRefused (s : State) (x : Line) : State := postGroup s x.ctx (refusalGroup s x none)

/-- A line is written back and leaves the L1: eviction, INVL, engine writes (R203, R257). -/
def evictL1 (s : State) (k : Nat) (x : Line) : State :=
  let r := offer s k x
  l1Drop (if r.2 then reportRefused r.1 x else r.1) k x.asid x.va

/-- A line is written back and kept, clean; a refused one leaves (CLEANL: R174, R372). -/
def cleanL1 (s : State) (k : Nat) (x : Line) : State :=
  let r := offer s k x
  if r.2 then l1Drop (reportRefused r.1 x) k x.asid x.va
  else r.1.mapL1 k fun ls => ls.map fun y => if isLine x.asid x.va y then { y with dirty := List.replicate 128 false } else y

/-- The issuing cluster's copy of a line is written back and invalidated (R178, R203, R316). -/
def flushLine (s : State) (k c va : Nat) : State :=
  match l1Line? s k c (lineOf va) with
  | none => s
  | some x => evictL1 s k x

/-- `flushLine` for every line of a byte range. -/
def flushRange (s : State) (k c va n : Nat) : State :=
  (List.range ((va % 128 + n + 127) / 128)).foldl (fun s i => flushLine s k c (lineOf va + 128 * i)) s

/-! ## Fills (R173, R258, R308) -/

/-- The lines of the set of an address. -/
def setLines (s : State) (k va : Nat) : List Line := (s.cluster k).l1.filter fun x => setOf x.va == setOf va

/-- The write-back of a line would have to wait (R246, R247). -/
def wbWaits (s : State) (x : Line) : Bool :=
  x.isDirty && (s.snap.cut == 2 || stalls s x.ctx [(x.va, wbLeaf s x)])

/-- The lines of a set that a fill may replace: those whose write-back would wait stay, so that loads run (R246), unless only
evict-last lines are left beside them (R308). -/
def replaceable (s : State) (ls : List Line) : List Line :=
  let free := ls.filter fun x => !wbWaits s x
  if ls.all (fun x => x.mark == 2) || free.any (fun x => x.mark != 2) then free else []

/-- Room in its set for one line that hint `h` brings in. -/
def makeRoom (s : State) (k va h : Nat) : State :=
  if (setLines s k va).length < l1Ways (s.cluster k) then s
  else match victimOf s.clk.tick h (replaceable s (setLines s k va)) with
    | none => s
    | some x => evictL1 s k x

/-- The hint of an access as it counts: without an L1 bank every access is a no-allocate one (R303). -/
def hintAt (s : State) (k h : Nat) : Nat := if l1Ways (s.cluster k) = 0 then 3 else h

/-- A line filled from its home. -/
def freshLine (s : State) (c : Nat) (l : Leaf) (va : Nat) : Line :=
  let x := homeLine s c l va
  { asid := s.asid c, ctx := c, va := va, leaf := l, bytes := x.1, dirty := List.replicate 128 false, poison := x.2
    mark := 0, form := 0 }

/-- The line of an address in the L1, filled if it is not there; none when the access does not go through the L1: no bank
is in L1 mode, or no-allocate on a miss (R173, R303), or a miss in a set none of whose lines can leave, because they are evict-last
or their write-backs wait: that is taken to be the pressure of R169 (R246, R308, log 9). The line becomes the most recently used, with its hint's mark. -/
def l1Get (s : State) (k c : Nat) (l : Leaf) (va h : Nat) : State × Option Line :=
  match l1Line? s k c va with
  | some x =>
    let x := { x with mark := markBy x.mark h }
    (l1Put s k x, some x)
  | none =>
    if hintAt s k h = 3 then (touchL2By s c l va 3, none)
    else
      let s := touchL2By (makeRoom s k va h) c l va h
      if (setLines s k va).length < l1Ways (s.cluster k) then
        let x := { freshLine s c l va with mark := markBy 0 h }
        (l1Put s k x, some x)
      else (s, none)

/-- The bytes and poison marks a load of a line sees (R169, R173). -/
def loadLine (s : State) (k c : Nat) (l : Leaf) (va h : Nat) : State × List Byte × List Bool :=
  match l1Get s k c l va h with
  | (s, some x) => (s, x.bytes, x.poison)
  | (s, none) => (s, homeLine s c l va)

/-- Writes to one line: in the L1, or at the home L2 (R169). -/
def storeLine (s : State) (k c : Nat) (l : Leaf) (va h : Nat) (ws : List (Nat × Byte)) : State :=
  match l1Get s k c l va h with
  | (s, some x) =>
    l1Put s k { x with bytes := putBytes x.bytes ws, poison := putPoison x.poison ws []
                       dirty := ws.foldl (fun d w => d.set w.1 true) x.dirty }
  | (s, none) => agentWriteBy { compact := false, hint := hintAt s k h } s c l va ws

/-- The lines some addresses lie in, each once, in order. -/
def linesOf (vas : List Nat) : List Nat := (vas.map lineOf).eraseDups

/-- Loads of single bytes (address, leaf) through the L1: the state after them, the bytes in order, and whether a byte
is poisoned. -/
def loadBytes (s : State) (k c h : Nat) (as : List (Nat × Leaf)) : State × List (Byte × Bool) :=
  let step := fun (acc : State × List (Nat × List Byte × List Bool)) (va : Nat) =>
    match as.find? fun a => lineOf a.1 == va with
    | none => acc
    | some a => let r := loadLine acc.1 k c a.2 va h; (r.1, (va, r.2) :: acc.2)
  let r := (linesOf (as.map Prod.fst)).foldl step (s, [])
  (r.1, as.map fun a =>
    match r.2.find? fun x => x.1 == lineOf a.1 with
    | some x => (x.2.1.getD (a.1 % 128) 0#8, x.2.2.getD (a.1 % 128 / 32) false)
    | none => (0#8, false))

/-- Stores of single bytes (address, leaf, byte), in order: the last write of a byte remains (R172). -/
def storeBytes (s : State) (k c h : Nat) (as : List (Nat × Leaf × Byte)) : State :=
  (linesOf (as.map Prod.fst)).foldl (fun s va =>
    let mine := as.filter fun a => lineOf a.1 == va
    match mine with
    | [] => s
    | a :: _ => storeLine s k c a.2.1 va h (mine.map fun a => (a.1 % 128, a.2.2))) s

/-- The leaf of a run's bytes: the run's pages are translated one by one. -/
def leafAt (s : State) (c va : Nat) : Leaf :=
  match translate s c va with
  | .leaf l => l
  | _ => peerLeaf 0

/-- A run of bytes loaded through the L1 by the warp or an engine that reads as it does. -/
def loadRun (s : State) (k c va n : Nat) : State × List (Byte × Bool) :=
  loadBytes s k c 0 ((List.range n).map fun i => (va + i, leafAt s c (va + i)))

/-- A run of bytes stored through the L1. -/
def storeRun (s : State) (k c va : Nat) (bs : List Byte) : State :=
  storeBytes s k c 0 ((List.range bs.length).map fun i => (va + i, leafAt s c (va + i), bs.getD i 0#8))

/-- A run of bytes written at the home by an engine: the issuing cluster's copies are written back and invalidated
first (R203, R316). -/
def landRun (s : State) (k c va : Nat) (bs : List Byte) : State :=
  let s := flushRange s k c va bs.length
  (List.range bs.length).foldl (fun s i =>
    let a := va + i
    -- one write for each part of a line that the run covers
    if i = 0 ∨ a % 128 = 0 then
      let n := min (128 - a % 128) (bs.length - i)
      agentWrite s c (leafAt s c a) (lineOf a) ((List.range n).map fun j => (a % 128 + j, bs.getD (i + j) 0#8))
    else s) s

/-! ## Boundaries (R180, R181, R256) -/

/-- The release writes back this line: host-placed ones only with the host flag, domain-remote ones only with the domain
flag (R256). -/
def releases (sc : Scope) (x : Line) : Bool :=
  x.isDirty && (x.leaf.cls != 3 || sc.host) && (x.leaf.cls != 4 || sc.dom)

/-- One line of a release: acknowledged lines become clean, refused ones leave the L1 into a record group (R181). The
result counts the refusals and keeps the address of the first group's header. -/
def releaseLine (instr : Option Who) (k : Nat) (acc : State × Nat × Nat) (x : Line) : State × Nat × Nat :=
  let (s, n, twb) := acc
  let r := offer s k x
  if r.2 then
    let cx := r.1.ctx x.ctx
    let at_ := ringAddr cx (ringPlace (2 ^ cx.frlog) cx.widx cx.heldRecs 3)
    (l1Drop (postGroup r.1 x.ctx (refusalGroup r.1 x instr)) k x.asid x.va, n + 1, if n = 0 then at_ else twb)
  else
    (r.1.mapL1 k fun ls => ls.map fun y => if isLine x.asid x.va y then { y with dirty := List.replicate 128 false } else y,
      n, twb)

/-- Every line that a scope's release covers is written back. -/
def releaseLines (s : State) (k : Nat) (sc : Scope) (instr : Option Who) : State × Nat × Nat :=
  ((s.cluster k).l1.filter (releases sc)).foldl (releaseLine instr k) (s, 0, 0)

/-- The release part of a boundary at a cluster (R180, R256): nothing when the scope names only the cluster. -/
def release (s : State) (k : Nat) (sc : Scope) (instr : Option Who) : State × Nat × Nat :=
  if sc.onlyHome k then (s, 0, 0) else releaseLines s k sc instr

/-- Device scope, index 2 of a context (R254). -/
def deviceScope (s : State) (c : Nat) : Scope := scopeOf s 0 c 2

/-- The release at index 2 that the walker, LAUNCH and VSHOOT make and that ends a launch; refusals are reported against
the context (R241, R256, R372). The firmware and the walker read at the homes, so it writes back also where the index names the one
cluster of the context (R318, R327; log 55). -/
def releaseDevice (s : State) (k c n : Nat) : State := (releaseLines s k (scopeOf s k c n) none).1

/-- A dirty line after an acquire: bytes the cluster has not written are read again from the home (R180), and a sector of which it has
written none is as sound as its home has it (R403). -/
def refresh (s : State) (x : Line) : Line :=
  let h := homeLine s x.ctx x.leaf x.va
  { x with bytes := (List.range 128).map fun i => if x.dirty.getD i false then x.bytes.getD i 0#8 else h.1.getD i 0#8
           poison := (List.range 4).map fun i =>
             h.2.getD i false || (x.poison.getD i false && (List.range 32).any fun j => x.dirty.getD (32 * i + j) false) }

/-- An acquire at a cluster (R180, R256), at a scope that does not name that cluster alone. -/
def acquireAll (s : State) (k : Nat) : State :=
  s.mapCluster k fun x =>
    { x with l1 := (x.l1.filter Line.isDirty).map (refresh s), sieve := [], icache := [] }

/-- The acquire at a scope. -/
def acquire (s : State) (k : Nat) (sc : Scope) : State := if sc.onlyHome k then s else acquireAll s k

/-! ## Fetching an instruction (R76, R77) -/

/-- The word at an address through the instruction cache: the state with the line in the cache, the word, and whether
its sector is poisoned. Which word a fetch that is not ordered after a write returns is open (R77): the model gives the old one
while the line is in the instruction cache, which drops lines at an acquire or a binding only, and else the new one (log 52). -/
def fetchWord (s : State) (k c : Nat) (l : Leaf) (va : Nat) : State × Nat × Bool :=
  match (s.cluster k).icache.find? (isLine (s.asid c) (lineOf va)) with
  | some x => (s, leNat ((x.bytes.drop (va % 128)).take 4), x.poison.getD (va % 128 / 32) false)
  | none =>
    let s := touchL2 s c l (lineOf va)
    let x := freshLine s c l (lineOf va)
    (s.mapCluster k fun y => { y with icache := x :: y.icache }, leNat ((x.bytes.drop (va % 128)).take 4),
      x.poison.getD (va % 128 / 32) false)

/-! ## The Sieve's cache (R208) -/

/-- Room for one line in a Sieve cache of 128 KiB (R6): which line leaves is open (log 9). -/
def sieveRoom (tick : Nat) (ls : List Line) : List Line :=
  if ls.length < Config.sieveLines then ls else ls.eraseIdx (Config.victim tick % ls.length)

/-- A line through the Sieve. -/
def sieveLine (s : State) (k c : Nat) (l : Leaf) (va : Nat) : State × Line :=
  match (s.cluster k).sieve.find? (isLine (s.asid c) va) with
  | some x => (s, x)
  | none =>
    let s := touchL2 s c l va
    let x := freshLine s c l va
    (s.mapCluster k fun y => { y with sieve := x :: sieveRoom s.clk.tick y.sieve }, x)

end Sys2Proof.Machine
end

