-- ==== Sys2Proof/Machine/Reg.lean ====
section
/-!
DEFINITION. Registers, shapes, the register write, latches and group switches (spec 01 R15 to R30).
-/

namespace Sys2Proof.Machine

/-! ## Lanes and masks (R52) -/

/-- The lanes of a mask, in increasing order. -/
def lanesOf (m : Mask) : List Nat := (List.range 32).filter fun l => m.getLsbD l

def popc (m : Mask) : Nat := (lanesOf m).length

/-- The lowest set lane, 32 when there is none (R52). -/
def lowestLane (m : Mask) : Nat := (lanesOf m).headD 32

/-- The mask of the lanes that satisfy a condition. -/
def maskWhere (f : Nat → Bool) : Mask := BitVec.ofNat 32 ((List.range 32).foldl (fun n l => if f l then n + 2 ^ l else n) 0)

/-- The mask that takes `x` in the lanes of `em` and keeps `old` elsewhere (R32). -/
def maskMerge (em old x : Mask) : Mask := (old &&& ~~~em) ||| (x &&& em)

/-! ## Shapes (R25) -/

/-- The value lane `l` reads. -/
def Reg.lane (r : Reg) (l : Nat) : Word :=
  match r with
  | .u w => w
  | .a b s => b + s * BitVec.ofNat 32 l
  | .v ls => ls.getD l 0#32

def Reg.isV : Reg → Bool
  | .v _ => true
  | _ => false

def Reg.isU : Reg → Bool
  | .u _ => true
  | _ => false

/-- The shape code of R25. -/
def Reg.shape : Reg → Nat
  | .u _ => 0
  | .a _ _ => 1
  | .v _ => 2

/-- A V result of 32 lane values (R52). -/
def vec (f : Nat → Word) : Reg := .v ((List.range 32).map f)

/-- The V form of a register's content. -/
def Reg.expand (r : Reg) : Reg := vec r.lane

/-! ## The register write (R27 to R29) -/

/-- Whether the write of `res` turns compact `d` into V (R29). -/
def widens (em live : Mask) (d res : Reg) : Bool :=
  !d.isV && ((em == live && res.isV) ||
    (em != live && (lanesOf em).any fun l => res.lane l != d.lane l))

/-- The content after the write (R29, R35); `unif`: the instruction ran on the uniform path. -/
def commitVal (em live : Mask) (unif : Bool) (d res : Reg) : Reg :=
  if em = 0#32 then (if unif && d.isU then res else d)
  else if em = live then res
  else if d.isV || widens em live d res then vec fun l => if em.getLsbD l then res.lane l else d.lane l
  else d

/-- The widening count of a write (R28); under em zero nothing widens (R35). -/
def widenCount (em live : Mask) (d res : Reg) : Nat := if em ≠ 0#32 && widens em live d res then 1 else 0

def Warp.getReg (w : Warp) (p : Place) : Reg :=
  match p with
  | .slot k => w.regs.getD k (.u 0#32)
  | .bank k => w.bank.getD k (.u 0#32)

/-- Store a content in a place. A descriptor slot that becomes V takes a vector slot and one that leaves V returns it
(R27); the supervisor bank has storage of its own (R46). -/
def Warp.setReg (w : Warp) (p : Place) (r : Reg) : Warp :=
  match p with
  | .slot k =>
    let old := w.regs.getD k (.u 0#32)
    let fr := if w.regs.length ≤ k then w.free else if old.isV && !r.isV then w.free + 1
      else if !old.isV && r.isV then w.free - 1 else w.free
    { w with regs := w.regs.set k r, free := fr }
  | .bank k => { w with bank := w.bank.set k r }

/-- A place written whole carries no poison any more (R403). -/
def Warp.clean (w : Warp) (p : Place) : Warp := if w.bad.contains p then { w with bad := w.bad.filter fun q => q != p } else w

/-- The slots a write to a place widens (R28: a bank register counts 0). -/
def Warp.needs (w : Warp) (em : Mask) (p : Place) (res : Reg) : Nat :=
  match p with
  | .slot k => widenCount em w.live (w.regs.getD k (.u 0#32)) res
  | .bank _ => 0

/-- A full write, whatever em is (R134 to R138, R158). -/
def Warp.fullWrite (w : Warp) (p : Place) (r : Reg) : Warp := (w.setReg p r).clean p

def Warp.commit (w : Warp) (em : Mask) (unif : Bool) (p : Place) (res : Reg) : Warp :=
  let x := w.setReg p (commitVal em w.live unif (w.getReg p) res)
  if em = w.live then x.clean p else x

/-! ## Splits of a warp -/

def Warp.split? (w : Warp) (sp : Nat) : Option Split := if sp = 0 then w.split0 else if sp = 1 then w.split1 else none

def Warp.setSplit (w : Warp) (sp : Nat) (s : Option Split) : Warp :=
  if sp = 0 then { w with split0 := s } else if sp = 1 then { w with split1 := s } else w

/-- The warp can still change: it runs, or BRK holds it and what it has issued completes (R49, R160). -/
def Warp.lives (w : Warp) : Bool := w.st == .running || w.st == .held

def Warp.mapSplit (w : Warp) (sp : Nat) (f : Split → Split) : Warp := w.setSplit sp ((w.split? sp).map f)

/-! ## Latches (R21 to R24) -/

def Latch.empty : Latch := { res := .u 0#32, val := .u 0#32, dst := none, nw := false, em := 0#32, full := false, lost := false }

/-- A result enters bp0 and the entry of bp3 leaves. -/
def pushLatch (ls : List Latch) (l : Latch) : List Latch := (l :: ls).take 4

/-- A write to a place cancels the pending write-back of older latches of the split for it (R23). -/
def supersede (ls : List Latch) (p : Place) : List Latch :=
  ls.map fun l => if l.dst = some p then { l with nw := false } else l

/-- The write-back of one pending latch at a group switch (R23): omitted when it would widen with no free slot. That of a
full write is a full write (R135, R136). -/
def Warp.writeBack (w : Warp) (l : Latch) : Warp :=
  match l.dst with
  | none => w
  | some p =>
    if !l.nw then w
    else if l.full then w.fullWrite p l.res
    else if w.needs l.em p l.res ≤ w.free then w.commit l.em true p l.res
    else w

/-- A group switch of a split (R22): pending latches are written back, oldest first, and every latch is lost. -/
def Warp.groupSwitch (w : Warp) (sp : Nat) : Warp :=
  match w.split? sp with
  | none => w
  | some s =>
    let w' := s.latches.reverse.foldl Warp.writeBack w
    w'.mapSplit sp fun s => { s with latches := s.latches.map fun l => { l with nw := false, lost := true } }

/-- What a read of bp`k` gives (R24). -/
def Warp.readLatch (w : Warp) (s : Split) (k : Nat) : Reg :=
  match s.latches[k]? with
  | none => .u 0#32
  | some l =>
    match l.dst with
    | none => .u 0#32
    | some p => if l.lost then w.getReg p else l.val

/-! ## Results by shape (R26, R116) -/

/-- A function of one source: U once on the uniform path, else per lane. -/
def map1 (f : Word → Word) (a : Reg) : Reg :=
  match a with
  | .u x => .u (f x)
  | _ => vec fun l => f (a.lane l)

/-- A function of two sources. -/
def map2 (f : Word → Word → Word) (a b : Reg) : Reg :=
  match a, b with
  | .u x, .u y => .u (f x y)
  | _, _ => vec fun l => f (a.lane l) (b.lane l)

/-- A function of three sources. -/
def map3 (f : Word → Word → Word → Word) (a b c : Reg) : Reg :=
  match a, b, c with
  | .u x, .u y, .u z => .u (f x y z)
  | _, _, _ => vec fun l => f (a.lane l) (b.lane l) (c.lane l)

end Sys2Proof.Machine
end

