-- ==== Sys2Proof/Machine/Operands.lean ====
section
/-!
DEFINITION. Operands: the instruction that issues, its register fields, the prefix's indirect fields and extension bits,
and the checks of R90 that need the prefix or the mode (spec 01 R18 to R20, R46; 03 R79 to R82, R90).
-/

namespace Sys2Proof.Machine

/-- The instruction that issues: its warp and split as they stand. -/
structure Iss where
  w : Nat
  sp : Nat
  warp : Warp
  split : Split
  tid : Nat            -- the team's index within the launch (R18)
  deriving DecidableEq, Repr

def Iss.em (c : Iss) : Mask := c.split.em
def Iss.live (c : Iss) : Mask := c.warp.live

/-- Lanes a warp presents: 16 in protected mode (R301). -/
def Warp.lanes (x : Warp) : Nat := if x.prot then 16 else 32
/-- The mask of those lanes: other mask bits read 0 and ignore writes (R301). -/
def Warp.laneMask (x : Warp) : Mask := if x.prot then 0xFFFF#32 else allLanes

/-- A trap an instruction raises: cause, value, lanes (none: em), sy.twb, and the state it is taken in when the boundary or
the walk has left work behind (R43). -/
structure Trap where
  cause : Nat
  val : TVal := .undef
  lanes : Option Mask := none
  twb : Nat := 0
  base : Option State := none
  deriving DecidableEq, Repr

/-- What is kept of a trap that is taken later. -/
def Trap.fail (t : Trap) : Fail := { cause := t.cause, val := t.val, lanes := t.lanes, twb := t.twb }

/-- The trap that was kept. -/
def Fail.trap (f : Fail) : Trap := { cause := f.cause, val := f.val, lanes := f.lanes, twb := f.twb }

/-- What an instruction's body comes to. -/
abbrev Res := Except Trap State

def trapW (cause v : Nat) : Except Trap α := .error { cause := cause, val := .word v }
def trapU (cause : Nat) : Except Trap α := .error { cause := cause }

/-! ## The warp that issues -/

/-- A split of a warp, as the instruction it stands at sees it. -/
def issOf (s : State) (w sp : Nat) : Option Iss :=
  match s.warps[w]? with
  | none => none
  | some x =>
    match x.split? sp with
    | none => none
    | some t => some { w := w, sp := sp, warp := x, split := t, tid := (s.team x.team).tid }

/-- The other splits of the warp, in its other slot and in the Welt. -/
def Iss.others (c : Iss) : List Split :=
  (c.warp.split? (1 - c.sp)).toList ++ c.warp.welt.filterMap fun e => match e with | .split t => some t | _ => none

/-- No other split of the warp has a load whose registers are still to be written: the scoreboard holds back whatever could
read or write them (R92, log 3). -/
def Iss.scoreboard (c : Iss) : Bool := c.others.all fun t => t.late.isNone

/-- A parked boundary, or SNAP's release, orders what its warp does later (R180, R246); so does one that still waits for older
accesses of the warp. -/
def Park.orders (p : Park) (cut : Nat) : Bool :=
  match p with
  | .boundary _ _ _ _ => true
  | .snap _ => cut == 1
  | .older => true
  | _ => false

/-- No boundary of another split holds the next instruction back: that one is later, unless it has issued before the boundary and
issues again (R180). -/
def Iss.unordered (c : Iss) (s : State) : Bool := c.split.held.isSome || c.others.all fun t => !t.park.orders s.snap.cut

/-- The split can issue: its warp runs, its team is resident, it is not parked, no data is outstanding, in supervisor mode it is the
handler's split (R44, R92), and no boundary of its warp is under way (R180). -/
def Iss.ready (s : State) (c : Iss) : Bool :=
  c.warp.st == .running && (s.team c.warp.team).res == .running && c.split.park == .no && c.split.late.isNone &&
    (!c.warp.sup || c.warp.trap.split == c.sp) && c.scoreboard && c.unordered s

/-- The split chosen to issue, when it can. -/
def issuing (s : State) : Option Iss :=
  match s.sched.issue with
  | none => none
  | some (w, sp) =>
    match issOf s w sp with
    | none => none
    | some c => if c.ready s then some c else none

/-! ## Fields and their checks -/

/-- A register field of a word as the prefix rules see it: not a window register, one of which is a latch and one the lane number;
or window registers `n` to `n + cnt - 1` that must start at a multiple of `al` (named directly), or of `ial` (named indirectly,
R20). -/
inductive Opnd where
  | fixed
  | bp (k : Nat)
  | lane
  | win (n cnt al ial : Nat)
  deriving DecidableEq, Repr

def srcOp : Src → Opnd
  | .win n => .win n 1 1 1
  | .bp k => .bp k
  | .ln => .lane
  | _ => .fixed

def dstOp : Dst → Opnd
  | .win n => .win n 1 1 1
  | .z => .fixed

/-- An even pair. -/
def pairOp (n : Nat) : Opnd := .win n 2 2 2
/-- The pair of a 6-bit field. -/
def pair6 (v : Nat) : Opnd := .win (2 * v) 2 2 2

def regsOf (w : MemWidth) : Nat :=
  match w with
  | .w64 => 2
  | .w128 => 4
  | _ => 1

def ldOp (d : LdReg) (w : MemWidth) : Opnd :=
  match d with
  | .one d => dstOp d
  | .group n => .win n (regsOf w) (regsOf w) (regsOf w)

def stOp (d : StReg) (w : MemWidth) : Opnd :=
  match d with
  | .one d => srcOp d
  | .group n => .win n (regsOf w) (regsOf w) (regsOf w)

/-- What EXT may carry before a word (R81): no prefix at all; EXT zero, so the prefix must mark a field; or `n` low bits,
and then a prefix that marks no field is legal, unless `bare` is false. -/
inductive ExtUse where
  | none
  | zero
  | bits (n : Nat)
  deriving DecidableEq, Repr

/-- Whether an instruction reads its registers under em zero (R35): it has no effect then, or its trap 0x08; or it has its effect
where its sources and its destination are U; or it takes effect. -/
inductive EmZero where
  | skips
  | uniform
  | always
  deriving DecidableEq, Repr

/-- An instruction's form: its register fields, its use of EXT, whether it is privileged (R85) or a word of the Cobbler's subset
(R311), and whether its operands are compared in a protected warp, and whether its traps depend on a value it reads (R302). -/
structure Form where
  d : Opnd := .fixed
  a : Opnd := .fixed
  b : Opnd := .fixed
  ext : ExtUse := .zero
  dread : Bool := false        -- the instruction reads D's registers
  priv : Bool := false
  cob : Bool := false
  em0 : EmZero := .skips
  compared : Bool := false
  valued : Bool := false
  deriving DecidableEq, Repr

/-- The three register fields. -/
inductive Fld where
  | d | a | b
  deriving DecidableEq, Repr

/-- The prefix marks a field (R80). -/
def Xp.marks (x : Xp) (f : Fld) : Bool :=
  match f with
  | .d => bitsN x.ind 2 1 == 1
  | .a => bitsN x.ind 1 1 == 1
  | .b => bitsN x.ind 0 1 == 1

def Iss.ind (c : Iss) (f : Fld) : Bool :=
  match c.split.xp with
  | none => false
  | some x => x.marks f

/-- EXT of the prefix, 0 without one. -/
def Iss.ext (c : Iss) : Nat :=
  match c.split.xp with
  | none => 0
  | some x => x.ext

def Iss.hasXp (c : Iss) : Bool := c.split.xp.isSome

/-- The value of the index register that serves the marked fields. -/
def Iss.index (c : Iss) : Int :=
  match c.split.xp with
  | none => 0
  | some x => ((match c.split.held with | some h => h.xs | none => c.warp.xs).getD x.xs 0#32).toInt

/-- The window base under which the instruction decodes its fields: that of its issue (R140). -/
def Iss.base (c : Iss) : Nat :=
  match c.split.held with
  | some h => h.base
  | none => c.warp.winBase

/-- Fields 96 to 111 name the supervisor bank (R46, R140). -/
def Iss.banked (c : Iss) : Bool :=
  match c.split.held with
  | some h => h.sup
  | none => c.warp.sup

/-- The slot an indirect field names (R20): a signed sum. -/
def Iss.islot (c : Iss) (n : Nat) : Int := (c.base : Int) + n + c.index

/-- A field the prefix marks must be a window register; named directly, a group keeps its alignment and stays in the
window (R18, R79, R82). -/
def fieldOk (c : Iss) (f : Fld) (o : Opnd) : Bool :=
  match o with
  | .fixed | .bp _ | .lane => !c.ind f
  | .win n cnt al _ => c.ind f || (decide (n % al = 0) && decide (n + cnt ≤ 112))

/-- The prefix is legal before the word (R81, R82). -/
def prefixOk (c : Iss) (f : Form) : Bool :=
  match c.split.xp with
  | none => true
  | some x =>
    match f.ext with
    | .none => false
    | .zero => x.ext == 0 && x.ind != 0
    | .bits n => decide (x.ext < 2 ^ n)

/-- The indirect slot check of one field (R20): none when it passes, else the slot. -/
def indirectBad (c : Iss) (f : Fld) (o : Opnd) : Option Int :=
  match o with
  | .fixed | .bp _ | .lane => none
  | .win n cnt _ ial =>
    if c.ind f then
      let k := c.islot n
      if decide (0 ≤ k) && decide (k + cnt ≤ c.warp.allot) && decide (k % ial = 0) then none else some k
    else none

/-- The checks of R90 after decoding, in order: the Cobbler's subset (0x01), the prefix and the register fields (0x02),
privilege (0x03), indirect slots (0x05). None when all pass. -/
def checkForm (c : Iss) (f : Form) : Option Trap :=
  if c.warp.cobbler && !f.cob then some { cause := 0x01 }
  else if !(prefixOk c f && fieldOk c .d f.d && fieldOk c .a f.a && fieldOk c .b f.b) then some { cause := 0x02 }
  else if f.priv && !c.warp.sup then some { cause := 0x03 }
  else match (indirectBad c .d f.d).orElse fun _ => (indirectBad c .a f.a).orElse fun _ => indirectBad c .b f.b with
    | some k => some { cause := 0x05, val := .word (modPow k 32) }
    | none => none

/-! ## Where a field leads, and reading it -/

/-- The place of register `n + j` of a field's group (R16, R20, R46). -/
def Iss.place (c : Iss) (f : Fld) (n j : Nat) : Place :=
  if c.ind f then .slot (c.islot n + j).toNat
  else if c.banked && decide (96 ≤ n + j) then .bank (n + j - 96)
  else .slot (c.base + n + j)

def Iss.dst (c : Iss) (d : Dst) : Option Place :=
  match d with
  | .win n => some (c.place .d n 0)
  | .z => none

/-- The slot that a read of bp`k` reads in the place of a latch a group switch has lost (R24). -/
def Split.lostPlace (t : Split) (k : Nat) : Option Place :=
  match t.latches[k]? with
  | some l => if l.lost then l.dst else none
  | none => none

/-- A field reads a poisoned register (R403). -/
def Iss.readsPoison (c : Iss) (f : Fld) (o : Opnd) : Bool :=
  match o with
  | .fixed | .lane => false
  | .bp k => match c.split.lostPlace k with | some p => c.warp.bad.contains p | none => false
  | .win n k _ _ => (List.range k).any fun j => c.warp.bad.contains (c.place f n j)

/-- What a field reads is U. -/
def Iss.readsU (c : Iss) (f : Fld) (o : Opnd) : Bool :=
  match o with
  | .fixed => true
  | .lane => false
  | .bp k => (c.warp.readLatch c.split k).isU
  | .win n k _ _ => (List.range k).all fun j => (c.warp.getReg (c.place f n j)).isU

/-- The instruction reads its registers: not under em zero, unless it takes effect there (R35). -/
def Iss.reads (c : Iss) (f : Form) : Bool :=
  c.em != 0#32 ||
    match f.em0 with
    | .skips => false
    | .uniform => f.d != .fixed && c.readsU .d f.d && c.readsU .a f.a && c.readsU .b f.b
    | .always => true

/-- A source of the instruction is poisoned: the warp halts (R49, R403). -/
def Iss.poisonedSource (c : Iss) (f : Form) : Bool :=
  !c.warp.bad.isEmpty && (c.readsPoison .a f.a || c.readsPoison .b f.b || (f.dread && c.readsPoison .d f.d)) && c.reads f

/-- The two copies of a protected warp differ where R302 compares them (log 47). -/
def Warp.differs (x : Warp) (s : State) : Bool := x.prot && s.sched.differ

/-- What the two copies of a protected warp compare at an instruction (R302): its operands, or whether each copy traps, which a value
it reads can decide, or an index register that a prefix names. -/
def Iss.compares (c : Iss) (f : Form) : Bool :=
  (f.compared && c.em != 0#32) || (f.valued && c.reads f) || c.ind .d || c.ind .a || c.ind .b

/-- What stops an instruction before it has any effect: the two copies of a protected warp differ (R302), a check of R90, or the
poison of a source (R403). -/
def Iss.preTrap (c : Iss) (s : State) (f : Form) : Option Trap :=
  if c.compares f && c.warp.differs s then some { cause := 0x16 }
  else match checkForm c f with
    | some t => some t
    | none => if c.poisonedSource f then some { cause := 0x15 } else none

/-- A group of a field, register `j`. -/
def Iss.regAt (c : Iss) (f : Fld) (n j : Nat) : Reg := c.warp.getReg (c.place f n j)

/-- Reading a source field (R18). -/
def Iss.read (c : Iss) (f : Fld) (x : Src) : Reg :=
  match x with
  | .win n => c.regAt f n 0
  | .bp k => c.warp.readLatch c.split k
  | .z => .u 0#32
  | .ln => .a 0#32 1#32
  | .wid => .u (BitVec.ofNat 32 c.warp.wid)
  | .tid => .u (BitVec.ofNat 32 c.tid)

/-- The lowest lane of em, or 0. -/
def Iss.first (c : Iss) : Nat := if c.em = 0#32 then 0 else lowestLane c.em

/-- The value of a register that must be U (trap 0x06 with the shape code: R134, R183). -/
def needU (r : Reg) : Except Trap Nat :=
  match r with
  | .u w => .ok w.toNat
  | r => trapW 0x06 r.shape

/-- Both registers of a pair must be U: the 64-bit value. -/
def needPair (lo hi : Reg) : Except Trap Nat := do
  let l ← needU lo
  let h ← needU hi
  return l + 2 ^ 32 * h

/-- The value of a U pair of a field. -/
def Iss.pairU (c : Iss) (f : Fld) (n : Nat) : Except Trap Nat := needPair (c.regAt f n 0) (c.regAt f n 1)

/-- A 32-bit immediate of a word of `n` bits: sign-extended alone, joined to EXT under a prefix (R81). -/
def Iss.imm (c : Iss) (imm n : Nat) : Word :=
  if c.hasXp then BitVec.ofNat 32 (c.ext * 2 ^ n + imm) else BitVec.ofInt 32 (sextN imm n)

end Sys2Proof.Machine
end

