-- ==== Sys2Proof/Machine/Sync.lean ====
section
/-!
DEFINITION. Barrier objects as 128-bit values (spec 07 R185 to R193), and who is parked on what.
-/

namespace Sys2Proof.Machine

/-- A number with the field of `n` bits at `lo` replaced. -/
def setBits (v lo n x : Nat) : Nat := v - bitsN v lo n * 2 ^ lo + x % 2 ^ n * 2 ^ lo

/-- A list of bits as a number. -/
def bitsNat : List Bool → Nat
  | [] => 0
  | b :: t => (if b then 1 else 0) + 2 * bitsNat t

/-! ## Fields of an object (R185) -/

def oPend (o : Nat) : Nat := bitsN o 0 28
def oLeft (o : Nat) : Nat := bitsN o 28 12
def oExp (o : Nat) : Nat := bitsN o 40 12
def oPhase (o : Nat) : Nat := bitsN o 52 4
def oInit (o : Nat) : Bool := bitsN o 56 1 == 1
def oOvr (o : Nat) : Bool := bitsN o 57 1 == 1
def oAband (o : Nat) : Bool := bitsN o 58 1 == 1
def oClosed (o : Nat) : Nat := bitsN o 64 32
def oOpen (o : Nat) : Nat := bitsN o 96 32

/-- record of R188 (and R186): the first error's code and kind, and a saturating count, in the open status. -/
def oRecord (o code kind : Nat) : Nat :=
  let st := oOpen o
  let st := if bitsN st 0 16 = 0 then setBits (setBits st 16 8 code) 24 8 kind else st
  setBits o 96 32 (setBits st 0 16 (min (bitsN st 0 16 + 1) 0xFFFF))

/-- add_pend of R188. -/
def oAddPend (o n : Nat) : Nat :=
  if 0x0FFFFFFF < oPend o + n then oRecord (setBits (setBits o 0 28 0x0FFFFFFF) 59 1 1) 0x42 0
  else setBits o 0 28 (oPend o + n)

/-- flip of R188, but for the waiters. -/
def oFlip (o : Nat) : Nat :=
  let o1 := setBits (setBits o 52 4 (oPhase o + 1)) 28 12 (oExp o)
  let o2 := setBits (setBits o1 64 32 (oOpen o)) 96 32 0
  if oOvr o2 then oRecord (setBits o2 57 1 0) 0x40 0 else o2

/-- A flip when nothing is left to arrive: the object, and whether it flipped. -/
def oTryFlip (o : Nat) : Nat × Bool := if oLeft o = 0 ∧ oPend o = 0 then (oFlip o, true) else (o, false)

/-- arrive of R188: the object, whether it flipped, and the result. -/
def oArrive (o c bytes : Nat) : Nat × Bool × Bool :=
  if !oInit o then (o, false, false)
  else
    let o1 := oAddPend o bytes
    let fits := decide (c ≤ oLeft o1)
    let o2 := if fits then setBits o1 28 12 (oLeft o1 - c) else setBits (setBits o1 28 12 0) 57 1 1
    let r := oTryFlip o2
    (r.1, r.2, fits && !oAband r.1)

/-- engine_bytes of R189. -/
def oEngine (o n e : Nat) : Nat × Bool :=
  if !oInit o then (o, false)
  else
    let o1 := if oPend o < n then oRecord (setBits (setBits o 0 28 0) 60 1 1) 0x41 1 else setBits o 0 28 (oPend o - n)
    let o2 := if e ≠ 0 then oRecord (setBits o1 59 1 1) e 1 else o1
    oTryFlip o2

/-- The object BOINIT writes (R187). -/
def oInitial (exp : Nat) : Nat := setBits (setBits (setBits 0 28 12 exp) 40 12 exp) 56 1 1

/-! ## Objects in the scratchpad -/

def objGet (s : State) (crew off : Nat) : Nat := scratchNat s crew off 16
def objPut (s : State) (crew off o : Nat) : State := scratchPutNat s crew off o 16

/-! ## Parked splits -/

/-- The split's reason to be parked, in slot or Welt. -/
def slotPark (x : Warp) (sp : Nat) : Park :=
  match x.split? sp with
  | some t => t.park
  | none => .no

/-- Splits in slots that are parked for a reason, as (warp, slot), in increasing order. -/
def parkedBy (s : State) (p : Warp → Park → Bool) : List (Nat × Nat) :=
  (List.range s.warps.length).flatMap fun w =>
    match s.warps[w]? with
    | none => []
    | some x => (List.range 2).filterMap fun sp => if p x (slotPark x sp) then some (w, sp) else none

/-- Where a split of a warp is: a slot, or an entry of the Welt. -/
inductive Seat where
  | slot (sp : Nat)
  | welt (i : Nat)
  deriving DecidableEq, Repr

/-- The split in a seat. -/
def seated (x : Warp) (k : Seat) : Option Split :=
  match k with
  | .slot sp => x.split? sp
  | .welt i =>
    match x.welt.getD i .free with
    | .split t => some t
    | _ => none

/-- The seat an event names: 0 and 1 are the slots, `i + 2` is entry `i` of the Welt. -/
def seatOf (sp : Nat) : Seat := if sp < 2 then .slot sp else .welt (sp - 2)

/-- The number of a seat. -/
def Seat.number (k : Seat) : Nat :=
  match k with
  | .slot sp => sp
  | .welt i => i + 2

/-- The seats of a warp: its slots, then its suspended splits, longest suspended first. -/
def seats (x : Warp) : List Seat := [.slot 0, .slot 1] ++ x.weltOrder.map Seat.welt

def seatPark (x : Warp) (k : Seat) : Park :=
  match seated x k with
  | some t => t.park
  | none => .no

/-- A team is on its core: it runs, or its save is not over. -/
def Team.here (t : Team) : Bool := t.res == .running || t.res == .saving

/-- Splits of resident warps that are parked for a reason, wherever they are. What a held warp has issued completes (R160), and so
does what a save waits for (R382). A halted warp's do not: what it waited for, a queued claim among it, is given up (log 52). -/
def parkedSeats (s : State) (p : Warp → Park → Bool) : List (Nat × Seat) :=
  (List.range s.warps.length).flatMap fun w =>
    match s.warps[w]? with
    | none => []
    | some x =>
      if x.lives && (s.team x.team).here then
        ((seats x).filter fun k => p x (seatPark x k)).map fun k => (w, k)
      else []

/-- Crew number of a warp. -/
def State.crewNo (s : State) (x : Warp) : Nat := (s.team x.team).crew

end Sys2Proof.Machine
end

