-- ==== Sys2Proof/Machine/Ops.lean ====
section
/-!
DEFINITION. What instructions share: completing, register results, parking, divergence and the Welt, taking a trap and
returning from it, halting, and the ends of warps and teams (spec 01 R15 to R50, 06 R161 to R163, 07 R193, 11 R294, R299,
22 R405).
-/

namespace Sys2Proof.Machine

/-! ## Completing an instruction -/

/-- Pending write-backs that younger writes cancel (R23). -/
def supersedeAll (ls : List Latch) (ps : List Place) : List Latch := ps.foldl supersede ls

/-- The split after its instruction: at `pc`, with the instruction's latch entry (R21). -/
def Split.done (t : Split) (pc : Nat) (l : Latch) (written : List Place) : Split :=
  { t with pc := pc % 2 ^ 64, xp := none, park := .no, held := none, late := none
           latches := pushLatch (supersedeAll t.latches written) l }

/-- The split's instruction has parked since it issued. -/
def Warp.hasParked (x : Warp) (sp : Nat) : Bool :=
  match x.split? sp with
  | some t => t.held.isSome
  | none => false

/-- The split's instruction has been counted when it issued (R40): it has parked since, or its data was late. -/
def Warp.counted (x : Warp) (sp : Nat) : Bool :=
  match x.split? sp with
  | some t => t.held.isSome || t.late.isSome
  | none => false

/-- The warp after an instruction of a split (R21, R51). One that had parked is followed by a group switch (R22), and has been
counted when it issued (R40). -/
def Warp.retire (x : Warp) (sp pc : Nat) (l : Latch) (written : List Place) (ns : Nat) : Warp :=
  let y := x.mapSplit sp fun t => t.done pc l written
  let z := if x.hasParked sp then y.groupSwitch sp else y
  { z with retired := x.retired + 1, issued := if x.sup || x.counted sp then x.issued else x.issued + 1, lastRetire := ns }

/-- The address of the word, or of its prefix (R45, R83). -/
def Split.insnPc (t : Split) : Nat := if t.xp.isSome then t.pc - 4 else t.pc

/-- The instruction has issued, and its effect or its completion waits. One that waits for the array has not issued yet (R94), and
a load whose data is late has fixed its destinations (log 3). -/
def Park.issued (p : Park) : Bool :=
  match p with
  | .array | .data => false
  | _ => true

/-- A parked split: parking is a group switch (R22), the instruction keeps what it decodes its fields under (R140), and it counts
as issued the first time it parks (R40). -/
def Warp.park (x : Warp) (sp : Nat) (p : Park) : Warp :=
  let h : Held := { base := x.winBase, sup := x.sup, xs := x.xs, scope := none }
  let y := (x.groupSwitch sp).mapSplit sp fun t =>
    { t with park := p, held := if p.issued && t.held.isNone then some h else t.held }
  { y with issued := if p.issued && !x.hasParked sp && !x.sup then x.issued + 1 else x.issued }

/-! ## The Welt (R39, R41) -/

def noPc : Nat := 2 ^ 56 - 1

def pcWords (a : Nat) : List Word := [BitVec.ofNat 32 a, BitVec.ofNat 32 (a % 2 ^ 56 / 2 ^ 32)]

/-- An entry's eight words (R41). -/
def weltWords (e : Welt) : List Word :=
  match e with
  | .free => [0#32, 0xFFFF#32, 0#32, 0#32, 0#32, 0#32, 0#32, 0#32]
  | .split t =>
    [BitVec.ofNat 32 (1 + 4 * t.depth), BitVec.ofNat 32 (t.join.getD 0xFFFF)] ++ pcWords t.insnPc ++ pcWords (t.rcv.getD noPc) ++
      [t.entry, t.em]
  | .join rp rcv j d arr m =>
    [BitVec.ofNat 32 (2 + 4 * d + if arr then 1024 else 0), BitVec.ofNat 32 (j.getD 0xFFFF)] ++ pcWords rp ++
      pcWords (rcv.getD noPc) ++ [m, 0#32]

def optPc (a : Nat) : Option Nat := if a = noPc then none else some a
def optIdx (i : Nat) : Option Nat := if i = 0xFFFF then none else some i

/-- The entry the core finds when it reads an entry back: the values in memory, or none when KIND is not the one
expected (R41). Bits 63:56 of an address are zero fields, which are ignored (R14), and so are the bits of a mask beyond the lanes
`m` that the warp presents (R301). A split whose data is on its way keeps its PC
(log 14). -/
def weltRead (m : Mask) (e : Welt) (ws : List Nat) : Option Welt :=
  let w := fun i => ws.getD i 0
  let mask := fun (n : Nat) => BitVec.ofNat 32 n &&& m
  let kind := bitsN (w 0) 0 2
  let pcA := w 2 + 2 ^ 32 * bitsN (w 3) 0 24
  let pcB := w 4 + 2 ^ 32 * bitsN (w 5) 0 24
  match e with
  | .free => if kind = 0 then some .free else none
  | .split t =>
    if kind = 1 then
      let t := if pcA = t.insnPc ∨ t.late.isSome then t else { t with pc := pcA, xp := none, park := .no, held := none }
      some (.split { t with depth := bitsN (w 0) 2 8, join := optIdx (bitsN (w 1) 0 16), rcv := optPc pcB
                            entry := mask (w 6), em := mask (w 7) })
    else none
  | .join _ _ _ _ _ _ =>
    if kind = 2 then
      some (.join pcA (optPc pcB) (optIdx (bitsN (w 1) 0 16)) (bitsN (w 0) 2 8) (bitsN (w 0) 10 1 == 1)
        (mask (w 6)))
    else none

/-- The address of entry `i`. -/
def weltAddr (x : Warp) (i : Nat) : Nat := x.weltBase + 32 * i

/-- The entry's memory is mapped and writable, so that it can be written as private memory (log 14). -/
def weltMapped (s : State) (x : Warp) (i : Nat) : Bool :=
  match firmLeaf s (s.ctxOf x) (weltAddr x i) with
  | some l => l.wr && l.rd
  | none => false

/-- An entry takes a value, on the core and in the team's private space (R39, R41). -/
def weltPut (s : State) (w i : Nat) (e : Welt) : State :=
  match s.warps[w]? with
  | none => s
  | some x =>
    let s := s.mapWarp w fun x => { x with welt := x.welt.set i e }
    if weltMapped s x i then storeRun s (clusterOf x.core) (s.ctxOf x) (weltAddr x i) (wordsBytes (weltWords e))
    else postMalformed s (s.ctxOf x) [weltAddr x i] (whoIs s x 1)

/-- An entry is read back (R41): none when its KIND does not match. -/
def weltGet (s : State) (w i : Nat) : State × Option Welt :=
  match s.warps[w]? with
  | none => (s, none)
  | some x =>
    let e := x.welt.getD i .free
    if weltMapped s x i then
      let r := loadRun s (clusterOf x.core) (s.ctxOf x) (weltAddr x i) 32
      let bs := r.2.map Prod.fst
      (r.1, weltRead x.laneMask e ((List.range 8).map fun k => leNat ((bs.drop (4 * k)).take 4)))
    else (postMalformed s (s.ctxOf x) [weltAddr x i] (whoIs s x 0), some e)

/-- The free entries of a warp's Welt. -/
def weltFree (x : Warp) : List Nat := (List.range x.welt.length).filter fun i => x.welt.getD i .free == .free

/-! ## Consequences

A step's consequences reach beyond its own split: an arrival can end a warp, a halt abandons barriers, a released split
may stand at its reconvergence PC. They are a list of tasks, run in order until none is left. -/

/-- Why a warp halts (R49, R405). -/
structure HaltInfo where
  cause : Nat
  prior : Nat
  code : Nat
  pc : Nat
  addr : Nat
  deriving DecidableEq, Repr

inductive Task where
  | settle (w sp : Nat)                -- the split may have reached its reconvergence PC (R38)
  | fill (w : Nat)                     -- a slot is free: the longest suspended split returns (R40)
  | trap (w sp : Nat) (t : Trap)       -- a parked split's instruction raises a trap
  | halt (w : Nat) (h : HaltInfo)
  | bars (t : Nat)                     -- the team's barriers are abandoned (R163)
  | warpEnd (w : Nat)                  -- the live mask is zero (R161)
  | teamEnd (t : Nat)                  -- the team may have ended (R299)
  deriving DecidableEq, Repr

/-- The split has reached its reconvergence PC, or its entry mask is empty, in user mode (R38); no load of it is on its way. What a
warp that BRK holds has issued completes, and its split can arrive. -/
def reached (x : Warp) (t : Split) : Bool :=
  x.lives && !x.sup && t.late.isNone && (t.rcv == some t.pc || t.entry == 0#32)

/-- A split that stands for one that is not there. -/
def Split.none0 : Split :=
  { pc := 0, entry := 0#32, em := 0#32, rcv := none, join := none, depth := 0, latches := [], xp := none, park := .no
    held := none, late := none, since := 0 }

/-! ### Parked splits released -/

/-- A warp that stands for an index outside the list. -/
def Warp.blank : Warp :=
  { team := 0, wid := 0, core := 0, cobbler := false, prot := false, st := .ended, allot := 0, regs := [], bad := [], winBase := 0
    xs := [], preds := [], live := 0#32, split0 := none, split1 := none, welt := [], weltOrder := [], issued := 0, floor := 0
    q := 0, free := 0, sup := false, bank := [], trap := TrapRec.reset, srng := [], pkr := 0, ftokPend := false, ftokSeq := 0, ftokReply := none
    progress := 0, retired := 0, lastRetire := 0, wdog := 0, stopAt := 0, frozenTo := 0, privBase := 0, weltBase := 0, target := none, pushed := [] }

/-- A parked split's predicate in the lanes of its em (R32). -/
def Warp.setPred (x : Warp) (em : Mask) (pd : Nat) (bits : Mask) : Warp :=
  { x with preds := x.preds.set pd (maskMerge em (x.preds.getD pd 0#32) bits &&& x.laneMask) }

/-- A split parked with a status predicate completes with it (R162, R163, R190). -/
def releasePred (s : State) (w sp pd : Nat) (ok : Bool) : State :=
  s.mapWarp w fun x =>
    match x.split? sp with
    | none => x
    | some t => (x.setPred t.em pd (if ok then allLanes else 0#32)).retire sp (t.pc + 4) Latch.empty [] s.clk.ns

/-- A suspended split parked with a status predicate completes with it, in its Welt entry. -/
def releaseWelt (s : State) (w i pd : Nat) (t : Split) (ok : Bool) : State :=
  let s := s.mapWarp w fun x =>
    { x.setPred t.em pd (if ok then allLanes else 0#32) with retired := x.retired + 1 }
  weltPut s w i (.split (t.done (t.pc + 4) Latch.empty []))

/-- A warp's parked splits whose reason `p` names a status predicate and its value are released with it, in slots and in the
Welt. -/
def releaseParked (s : State) (w : Nat) (p : Park → Option (Nat × Bool)) : State × List Task :=
  match s.warps[w]? with
  | none => (s, [])
  | some x =>
    if !x.lives then (s, []) else
    let slots := (List.range 2).filterMap fun sp => (p (slotPark x sp)).map fun r => (sp, r)
    let s1 := slots.foldl (fun s e => releasePred s w e.1 e.2.1 e.2.2) s
    let s2 := x.weltOrder.foldl (fun s i =>
      match x.welt.getD i .free with
      | .split t =>
        match p t.park with
        | some r => releaseWelt s w i r.1 t r.2
        | none => s
      | _ => s) s1
    (s2, slots.map fun e => .settle w e.1)

/-- A warp's splits parked at a BAR whose index satisfies `p` (R162, R163). -/
def releaseBars (s : State) (w : Nat) (p : Nat → Bool) (ok : Bool) : State × List Task :=
  releaseParked s w (fun k =>
    match k with
    | .bar _ idx pd _ => if p idx then some (pd, ok) else none
    | _ => none)

/-- A BOWAIT's timeout has elapsed in a cycle that is over (R190, R337). -/
def waitOver (s : State) (till : Option Nat) : Bool :=
  match till with
  | some t => decide (t < s.clk.cycle)
  | none => false

/-- Splits parked in BOWAIT on an object of a crew, or on any of its objects, wake (R187 to R193): with 0 where the timeout came
first. -/
def releaseWaiters (s : State) (crew : Nat) (off : Option Nat) (ok : Bool) : State × List Task :=
  (List.range s.warps.length).foldl (fun acc w =>
    match acc.1.warps[w]? with
    | none => acc
    | some x =>
      if s.crewNo x == crew then
        let r := releaseParked acc.1 w (fun k =>
          match k with
          | .bowait o pd till => if off == none || off == some o then some (pd, ok && !waitOver s till) else none
          | _ => none)
        (r.1, acc.2 ++ r.2)
      else acc) (s, [])

/-- A parked split of a warp that lives, wherever it is, is woken to issue its instruction again. -/
def wakeAt (s : State) (w : Nat) (k : Seat) : State :=
  match k with
  | .slot sp => s.mapWarp w fun x => if x.lives then x.mapSplit sp fun t => { t with park := .no } else x
  | .welt i =>
    let x := s.warps.getD w Warp.blank
    match x.welt.getD i .free with
    | .split t => if x.lives then weltPut s w i (.split { t with park := .no }) else s
    | _ => s

/-- The splits parked on a queue of a crew. -/
def queueWaiters (s : State) (crew q : Nat) : List (Nat × Seat) :=
  parkedSeats s fun x p =>
    match p with
    | .push _ n _ => s.crewNo x == crew && n == q
    | .pop _ _ n _ => s.crewNo x == crew && n == q
    | _ => false

/-! ### Instructions that fail -/

/-- The causes that halt (R49). -/
def haltCause (c : Nat) : Bool := c == 0x15 || c == 0x16 || c == 0x1B

/-- The address a halt of cause 0x15 records (R405). -/
def firstAddr (t : Trap) (em : Mask) : Nat :=
  match t.val with
  | .addrs as => as.getD (lowestLane (t.lanes.getD em)) 0
  | _ => 0

/-- The halt a trap leads to. -/
def haltOf (x : Warp) (q : Split) (t : Trap) : HaltInfo :=
  { cause := t.cause, prior := if x.sup then bitsN x.trap.tcause.toNat 0 8 else 0, code := 0, pc := q.insnPc
    addr := if t.cause = 0x15 then firstAddr t q.em else 0 }

/-- The trap that an instruction of a warp raises: the copies of a protected warp agree on it, or the warp halts before the
instruction has any effect (R302). -/
def agreed (s : State) (x : Warp) (t : Trap) : Trap := if x.differs s then { cause := 0x16 } else t

/-- A suspended split's instruction fails: the trap waits until the split has its slot again (R40). The slots that its load has
taken return. -/
def failWelt (s : State) (w i : Nat) (t : Split) (tr : Trap) : State :=
  let slots := match t.late with | some d => d.slots | none => 0
  weltPut (s.mapWarp w fun y => { y with free := y.free + slots }) w i (.split { t with park := .fail tr.fail, late := none })

/-- A parked split's instruction fails, wherever the split is. -/
def failAt (s : State) (w : Nat) (k : Seat) (tr : Trap) : State × List Task :=
  let x := s.warps.getD w Warp.blank
  let tr := agreed s x tr
  match k with
  | .slot sp => (s, [.trap w sp tr])
  | .welt i =>
    match x.welt.getD i .free with
    | .split t => if haltCause tr.cause then (s, [.halt w (haltOf x t tr)]) else (failWelt s w i t tr, [])
    | _ => (s, [])

/-- A parked instruction is discarded without effect, and issues again (R48). -/
def discardAt (s : State) (w sp : Nat) : State :=
  s.mapWarp w fun x => x.mapSplit sp fun t => { t with park := .no, held := none }

/-- `failAt` for several splits. Of two failures of a warp's splits in user mode that of slot 0 is its trap, and the instruction of
slot 1 is discarded (R48). -/
def failAll (s : State) (es : List (Nat × Seat × Trap)) : State × List Task :=
  es.foldl (fun acc e =>
    if e.2.1 == .slot 1 && !(s.warps.getD e.1 Warp.blank).sup && es.any (fun f => f.1 == e.1 && f.2.1 == .slot 0) then
      (discardAt acc.1 e.1 1, acc.2)
    else
      let r := failAt acc.1 e.1 e.2.1 e.2.2
      (r.1, acc.2 ++ r.2)) (s, [])

/-- A copy in flight whose destination is a queue that breaks ends with code 0x12 (R203). -/
def Copy.breaks (crew q : Nat) (x : Copy) : Copy := if x.crew == crew && x.queue == some q then { x with broken := true } else x

/-- A queue breaks: splits parked on it raise trap 0x12 (R196, R197), and copies to it fail. -/
def breakQueue (s : State) (crew q : Nat) : State × List Task :=
  let s0 := s.mapCrew crew fun k => { k with queues := updAt k.queues q fun x => { x with st := 2 } }
  let s1 := s0.mapCluster (s0.crew crew).cluster fun k => { k with copies := k.copies.map (Copy.breaks crew q) }
  failAll s1 ((queueWaiters s1 crew q).map fun e => (e.1, e.2, { cause := 0x12, val := .word q }))

/-! ### Suspension, return and arrival (R38 to R40) -/

/-- The occupant of a slot is suspended to the first free entry of the Welt. -/
def suspendSplit (s : State) (w sp : Nat) : State :=
  match s.warps[w]? with
  | none => s
  | some x =>
    let x1 := x.groupSwitch sp
    match x1.split? sp, weltFree x1 with
    | some t, i :: _ =>
      let s1 := s.mapWarp w fun _ => { x1.setSplit sp none with weltOrder := x1.weltOrder ++ [i] }
      weltPut s1 w i (.split t)
    | _, _ => s

/-- The halt of R41. -/
def weltHalt (t : Split) : HaltInfo := { cause := 0x13, prior := 0, code := 0, pc := t.insnPc, addr := 0 }

/-- The split that the core has suspended to an entry. -/
def weltSplit (x : Warp) (i : Nat) : Split :=
  match x.welt.getD i .free with
  | .split t => t
  | _ => Split.none0

/-- A free slot takes the split suspended longest (R40). -/
def doFill (s : State) (w : Nat) : State × List Task :=
  match s.warps[w]? with
  | none => (s, [])
  | some x =>
    let slot := if x.split0.isNone then some 0 else if x.split1.isNone then some 1 else none
    match slot, x.weltOrder with
    | some sp, i :: rest =>
      if x.sup || !x.lives then (s, [])
      else
        let r := weltGet s w i
        match r.2 with
        | some (.split t) =>
          let s1 := r.1.mapWarp w fun x =>
            { x.setSplit sp (some { t with since := s.clk.ns }) with weltOrder := rest, issued := 0 }
          (weltPut s1 w i .free, [.settle w sp, .fill w])
        | _ => (r.1, [.halt w (weltHalt (weltSplit x i))])
    | _, _ => (s, [])

/-- A split arrives at its join record (R38). -/
def doArrive (s : State) (w sp : Nat) (x : Warp) (t : Split) : State × List Task :=
  let x1 := x.groupSwitch sp
  let leave := fun (s : State) => s.mapWarp w fun x => x.setSplit sp none
  let s0 := s.mapWarp w fun _ => x1
  match t.join with
  | none => (leave s0, [.fill w])
  | some j =>
    let r := weltGet s0 w j
    match r.2 with
    | some (.join rp rcv up d arr m) =>
      if !arr then
        (weltPut (leave r.1) w j (.join rp rcv up d true (m ||| t.entry)), [.fill w])
      else
        let mask := m ||| t.entry
        let s1 := r.1.mapWarp w fun x => x.mapSplit sp fun t =>
          { t with pc := rp, entry := mask, em := mask, rcv := rcv, join := up, depth := d, xp := none, park := .no, held := none }
        (weltPut s1 w j .free, [.settle w sp])
    | _ => (r.1, [.halt w (weltHalt t)])

/-- A split takes the trap that waits for it, or arrives. -/
def doSettle (s : State) (w sp : Nat) : State × List Task :=
  match s.warps[w]? with
  | none => (s, [])
  | some x =>
    match x.split? sp with
    | none => (s, [])
    | some t =>
      match t.park with
      | .fail f => (s, if x.lives && !x.sup then [.trap w sp f.trap] else [])
      | _ => if reached x t then doArrive s w sp x t else (s, [])

/-! ### Ends -/

/-- What is left of a line when the bytes from `a` to `b` are dropped without write-back: a line that holds other bytes the
cluster has written stays for them. -/
def dropBytes (a b : Nat) (x : Line) : Option Line :=
  let dirty := x.dirty.zipIdx.map fun e => e.1 && !(decide (a ≤ x.va + e.2) && decide (x.va + e.2 < b))
  if b ≤ x.va ∨ x.va + 128 ≤ a then some x else if dirty.any id then some { x with dirty := dirty } else none

/-- A region of a context leaves the L1 of a cluster without write-back (R161, R306). -/
def dropRegion (s : State) (k c a n : Nat) : State :=
  s.mapL1 k fun ls => ls.filterMap fun x => if x.ctx == c then dropBytes a (a + n) x else some x

/-- The Cobbler of a core ends: its descriptor slots and quota return (R166). -/
def cobblerOff (s : State) (core st cause : Nat) : State :=
  match (s.core core).cobWarp with
  | none => s
  | some w =>
    match s.warps[w]? with
    | none => s
    | some x =>
      let s1 := s.mapWarp w fun x => { x with st := .ended, split0 := none, q := 0, free := 0 }
      s1.mapCore core fun k =>
        { k with slotsFree := k.slotsFree + x.allot, pool := k.pool + x.q, cobSt := st, cobCause := cause, cobWarp := none }

/-- A warp whose live mask is zero ends (R161). -/
def doWarpEnd (s : State) (w : Nat) : State × List Task :=
  match s.warps[w]? with
  | none => (s, [])
  | some x =>
    let c := s.ctxOf x
    let k := clusterOf x.core
    let l := s.launchOf x
    let s1 := dropRegion (dropRegion s k c x.privBase (l.private_ * 32)) k c x.weltBase (x.welt.length * 32)
    let s2 := s1.mapWarp w fun x =>
      { x with st := .ended, split0 := none, split1 := none, welt := x.welt.map fun _ => .free, weltOrder := []
               q := 0, free := 0 }
    (s2.mapCore x.core fun k => { k with pool := k.pool + x.q }, [.teamEnd x.team])

/-- Nothing of the warp keeps its team from ending (R299, R412). -/
def warpOver (debug : Bool) (x : Warp) : Bool :=
  match x.st with
  | .ended => true
  | .halted rel => rel || !debug
  | _ => false

/-- The warps of a team, by index. -/
def teamWarps (s : State) (t : Nat) : List Nat :=
  (List.range s.warps.length).filter fun w =>
    match s.warps[w]? with
    | some x => x.team == t && !x.cobbler
    | none => false

/-- A crew's banks return to L1 mode (R294). -/
def releaseBanks (s : State) (crew : Nat) : State :=
  let k := s.crew crew
  let banks := (List.range 32).filter fun b => ((s.cluster k.cluster).banks.getD b ⟨0, none⟩).owner == some crew
  s.mapCluster k.cluster fun x =>
    { x with banks := x.banks.map fun b => if b.owner == some crew then ⟨0, none⟩ else b
             sram := x.sram.filter fun e => !banks.contains (e.1 / Config.bankBytes)
             badSram := x.badSram.filter fun n => !banks.contains (n * 32 / Config.bankBytes) }

/-- A crew's banks as its last team's image keeps them (R381). -/
def bankImages (s : State) (crew : Nat) : List (Nat × Nat × List (Nat × Byte)) :=
  let x := s.cluster (s.crew crew).cluster
  (List.range 32).filterMap fun b =>
    let k := x.banks.getD b ⟨0, none⟩
    if k.owner == some crew then some (b, k.mode, x.sram.filter fun e => e.1 / Config.bankBytes == b) else none

/-- The poisoned sectors of a crew's banks. -/
def bankMarks (s : State) (crew : Nat) : List Nat :=
  let x := s.cluster (s.crew crew).cluster
  x.badSram.filter fun n => (x.banks.getD (n * 32 / Config.bankBytes) ⟨0, none⟩).owner == some crew

/-- A crew none of whose teams is on its core any more gives its banks back: their contents are discarded when every team
has ended (R294), and otherwise saved (R296). Where the last team to leave is not saved but ends or is discarded, State keeps them, with no
room in the save pool (log 22). -/
def crewEnd (s : State) (crew : Nat) : State :=
  let k := s.crew crew
  if k.teams.all fun t => (s.team t).res == .ended then
    (releaseBanks s crew).mapCrew crew fun k => { k with resident := false, queues := [], savedBanks := [], savedBad := [], image := 0 }
  else if k.resident && !(k.teams.any fun t => (s.team t).here) then
    (releaseBanks s crew).mapCrew crew fun k =>
      { k with resident := false, savedBanks := bankImages s crew, savedBad := bankMarks s crew }
  else s

/-- The slot-table entry that a team has in one state moves to another (R379). -/
def entryState (es : List SlotEntry) (t old new : Nat) : List SlotEntry :=
  es.map fun e => if e.st == old && e.team == t then (if new = 0 then SlotEntry.free else { e with st := new }) else e

/-- A resident team leaves its core: slots, tiles and quotas return, and the Cobbler it started ends (R165, R292, R294). -/
def freeTeam (s : State) (t : Nat) : State :=
  let x := s.team t
  let l := s.launch x.launch
  let q := ((teamWarps s t).map fun w => match s.warps[w]? with | some y => y.q | none => 0).foldl (· + ·) 0
  let s0 := if (s.core x.core).cobTeam == some t && (s.core x.core).cobSt == 1 then cobblerOff s x.core 2 0 else s
  let s1 := (teamWarps s0 t).foldl (fun s w => s.mapWarp w fun y => { y with q := 0, free := 0 }) s0
  s1.mapCore x.core fun k =>
    { k with slotsFree := k.slotsFree + x.warps * l.regs, pool := k.pool + q, warpsFree := k.warpsFree + x.warps
             tilesFree := k.tilesFree + l.tiles, table := entryState k.table t 2 4 }

/-- A team ends when each of its warps has exited or halted (R299). -/
def doTeamEnd (s : State) (t : Nat) : State × List Task :=
  let x := s.team t
  let debug := bitsN (s.ctx (s.launch x.launch).ctx).flags 1 1 == 1
  let quiet := (teamWarps s t).all fun w => match s.warps[w]? with | some y => warpOver debug y | none => true
  if x.res != .running || !quiet then (s, [])
  else
    let s1 := freeTeam s t
    let s2 := s1.mapTeam t fun x => { x with res := .ended, tiles := [], accs := [], ops := [] }
    (crewEnd s2 x.crew, [])

/-! ### Halts and traps (R44 to R50) -/

/-- Words 0 to 4 and 9 to 11 of a record that names a warp (R366, R405, R412). -/
def warpRec (s : State) (x : Warp) (kind pc : Nat) : List (Nat × Nat) :=
  let c := s.ctxOf x
  let t := s.team x.team
  recHead s c kind 0 0 ++
    [(3, indexOf (logicalCores (s.ctx c)) x.core + 1024 * x.wid), (4, t.tid), (9, pc % 2 ^ 32), (10, pc / 2 ^ 32),
      (11, (s.launchOf x).handle)]

/-- Every object of a crew that is initialised becomes abandoned (R193). -/
def abandonObjects (s : State) (crew : Nat) : State :=
  (List.range (s.launch (s.crew crew).launch).bobjs).foldl (fun s i =>
    let o := objGet s crew (16 * i)
    if oInit o then objPut s crew (16 * i) (setBits o 58 1 1) else s) s

/-- A warp halts (R49, R299, R405): latches are written back, slot 0's before slot 1's (log 52), its record is posted, and
its team's barriers and its crew's objects are abandoned. In user mode a halting cause gives sy.tcause its number alone, without the bit of
a prefixed pair, and the rest of the trap record stays (R41, R83; log 55). -/
def doHalt (s : State) (w : Nat) (h : HaltInfo) : State × List Task :=
  match s.warps[w]? with
  | none => (s, [])
  | some x =>
    if !x.lives then (s, [])
    else
      let y := (x.groupSwitch 0).groupSwitch 1
      let tc := if h.cause ≠ 0 && !x.sup then { y.trap with tcause := BitVec.ofNat 32 h.cause } else y.trap
      let s1 := s.mapWarp w fun _ => { y with st := .halted false, trap := tc }
      let r := mkRecord (warpRec s x 6 h.pc ++
        [(5, h.addr % 2 ^ 32), (6, h.addr / 2 ^ 32), (7, h.cause + 256 * h.prior), (8, h.code)])
      let s2 := (postGroup s1 (s.ctxOf x) [r]).mapLaunch (s.team x.team).launch fun l => { l with halted := true }
      let s3 := abandonObjects s2 (s.crewNo x)
      let r4 := releaseWaiters s3 (s.crewNo x) none false
      (r4.1, r4.2 ++ [.bars x.team, .teamEnd x.team])

def doBars (s : State) (t : Nat) : State × List Task :=
  (teamWarps s t).foldl (fun acc w =>
    let r := releaseBars acc.1 w (fun _ => true) false
    (r.1, acc.2 ++ r.2)) (s, [])

/-- What sy.tval receives. -/
def tvalWord (s : State) (v : TVal) : Word :=
  match v with
  | .word n => BitVec.ofNat 32 n
  | .undef => Config.freeWord s.clk.tick 45
  | .addrs _ => 96#32

/-- w96 and w97 of the bank when a trap has per-lane addresses (R45, R46): only the lanes of sy.tlanes change. -/
def trapBank (bank : List Reg) (v : TVal) (lanes : Mask) : List Reg :=
  match v with
  | .addrs as =>
    let put := fun (r : Reg) (f : Nat → Nat) =>
      vec fun l => if lanes.getLsbD l then BitVec.ofNat 32 (f (as.getD l 0)) else r.lane l
    (bank.set 0 (put (bank.getD 0 (.u 0#32)) fun a => a)).set 1 (put (bank.getD 1 (.u 0#32)) fun a => a / 2 ^ 32)
  | _ => bank

/-- The slots that a load's data waits with (R28) return when its split gives it up. -/
def Warp.dropLate (x : Warp) (sp : Nat) : Warp :=
  match x.split? sp with
  | some { late := some d, .. } => { x.mapSplit sp (fun t => { t with late := none }) with free := x.free + d.slots }
  | _ => x

/-- Trap entry in user mode (R44, R45). Where the slots do not suffice for every pending latch, those of slot 0 are written
back before those of slot 1 (R23; log 52). -/
def Warp.enterTrap (x : Warp) (s : State) (sp : Nat) (t : Trap) (tvec : Nat) : Warp :=
  match x.split? sp with
  | none => x
  | some q =>
    let lanes := (t.lanes.getD q.em) &&& x.laneMask
    let y := ((x.dropLate sp).groupSwitch 0).groupSwitch 1
    let rec_ : TrapRec :=
      { tcause := BitVec.ofNat 32 (t.cause + if q.xp.isSome then 256 else 0), tpc := q.insnPc, tval := tvalWord s t.val
        tlanes := lanes, tem := q.em, twb := t.twb, savedEntry := q.entry, split := sp }
    let z := y.mapSplit sp fun q => { q with pc := tvec, entry := lanes, em := lanes, xp := none, park := .no, held := none }
    { z with sup := true, trap := rec_, bank := trapBank x.bank t.val lanes }

/-- A trap is taken: the handler is entered, or the warp halts (R48, R49), or the Cobbler stops (R50, R197). That of a split
which is not the handler's is taken after RTE (R48). -/
def doTrap (s : State) (w sp : Nat) (t : Trap) : State × List Task :=
  match s.warps[w]? with
  | none => (s, [])
  | some x =>
    match x.split? sp with
    | none => (s, [])
    | some q =>
      if !x.lives then (s, [])
      else if x.sup && x.trap.split != sp && !haltCause t.cause then
        (s.mapWarp w fun x => (x.dropLate sp).mapSplit sp fun q => { q with park := .fail t.fail }, [])
      else if x.cobbler then
        let crew := s.crewNo x
        x.pushed.foldl (fun acc n =>
          let r := breakQueue acc.1 crew n
          (r.1, acc.2 ++ r.2)) (cobblerOff s x.core 3 t.cause, [])
      else if x.sup || haltCause t.cause then
        (s, [.halt w (haltOf x q t)])
      else (s.mapWarp w fun x => x.enterTrap s sp t (s.ctx (s.ctxOf x)).tvec, [])

/-! ### Running the tasks -/

def doTask (s : State) (t : Task) : State × List Task :=
  match t with
  | .settle w sp => doSettle s w sp
  | .fill w => doFill s w
  | .trap w sp t => doTrap s w sp t
  | .halt w h => doHalt s w h
  | .bars t => doBars s t
  | .warpEnd w => doWarpEnd s w
  | .teamEnd t => doTeamEnd s t

/-- Runs tasks until none is left; `fuel` bounds them, far above what a step can cause. -/
def runTasks (s : State) (ts : List Task) : Nat → State
  | 0 => s
  | n + 1 =>
    match ts with
    | [] => s
    | t :: rest => let r := doTask s t; runTasks r.1 (rest ++ r.2) n

def taskFuel : Nat := 65536

def State.run (s : State) (ts : List Task) : State := runTasks s ts taskFuel

/-- After an instruction of a split: an arrival, when the split has reached its reconvergence PC. -/
def settle (s : State) (w sp : Nat) : State :=
  match issOf s w sp with
  | none => s
  | some c => if reached c.warp c.split then s.run [.settle w sp] else s

/-! ## What an instruction's body uses -/

/-- The instruction completes: the warp's contents after it, the next PC, the latch entry, the places it wrote. -/
def Iss.retireTo (c : Iss) (s : State) (x : Warp) (pc : Nat) (l : Latch) (written : List Place) : State :=
  settle (s.mapWarp c.w fun _ => x.retire c.sp pc l written s.clk.ns) c.w c.sp

/-- The instruction completes with no register result. -/
def Iss.complete (c : Iss) (s : State) (x : Warp) : State := c.retireTo s x (c.split.pc + 4) Latch.empty []

/-- The split parks at its instruction, which has no effect yet (R22). -/
def Iss.park (c : Iss) (s : State) (p : Park) : State := s.mapWarp c.w fun x => x.park c.sp p

/-- The slots a list of results widens (R28). A result to z counts as one to a register that stays U (R18). -/
def Iss.needs (c : Iss) (ws : List (Option Place × Reg)) : Nat :=
  (ws.map fun e =>
    match e.1 with
    | some p => c.warp.needs c.em p e.2
    | none => widenCount c.em c.live (.u 0#32) e.2).foldl (· + ·) 0

/-- The check of R28. -/
def Iss.afford (c : Iss) (ws : List (Option Place × Reg)) : Except Trap Unit :=
  if c.needs ws ≤ c.warp.free then .ok () else trapW 0x07 (c.needs ws - c.warp.free)

/-- A write to a destination has an effect under em (R35). -/
def Iss.acts (c : Iss) (unif : Bool) (p : Option Place) : Bool :=
  c.em != 0#32 || (unif && match p with | some p => (c.warp.getReg p).isU | none => false)

/-- The warp after the results of an instruction (R29). -/
def Iss.commits (c : Iss) (unif : Bool) (ws : List (Place × Reg)) : Warp :=
  ws.foldl (fun x e => x.commit c.em unif e.1 e.2) c.warp

/-- The latch entry of a result (R21). -/
def Iss.latch (c : Iss) (unif nw : Bool) (p : Place) (res : Reg) : Latch :=
  { res := res, val := commitVal c.em c.live unif (c.warp.getReg p) res, dst := some p, nw := nw, em := c.em, full := false
    lost := false }

/-- One register result for a place, or for z (R21, R23, R28, R29, R35): the check, the write or the latch alone under NW,
and completion. `x0` is what else the instruction changes in its warp. -/
def Iss.resultAt (c : Iss) (s : State) (x0 : Warp → Warp) (nw : Bool) (p : Option Place) (unif : Bool) (res : Reg) : Res := do
  c.afford [(p, res)]
  match p with
  | none => return c.complete s (x0 c.warp)
  | some q =>
    if !c.acts unif p then return c.complete s (x0 c.warp)
    else if nw then return c.retireTo s (x0 c.warp) (c.split.pc + 4) (c.latch unif true q res) []
    else return c.retireTo s (x0 (c.commits unif [(q, res)])) (c.split.pc + 4) (c.latch unif false q res) [q]

/-- `resultAt` for a destination field. -/
def Iss.resultW (c : Iss) (s : State) (x0 : Warp → Warp) (nw : Bool) (d : Dst) (unif : Bool) (res : Reg) : Res :=
  c.resultAt s x0 nw (c.dst d) unif res

def Iss.result (c : Iss) (s : State) (nw : Bool) (d : Dst) (unif : Bool) (res : Reg) : Res :=
  c.resultW s id nw d unif res

/-- Several register results, the first of which enters the latch (R21, R28, R29). -/
def Iss.results (c : Iss) (s : State) (unif : Bool) (ws : List (Place × Reg)) : Res := do
  c.afford (ws.map fun e => (some e.1, e.2))
  match ws with
  | [] => return c.complete s c.warp
  | e :: _ =>
    let l := if c.acts unif (some e.1) then c.latch unif false e.1 e.2 else Latch.empty
    return c.retireTo s (c.commits unif ws) (c.split.pc + 4) l
      ((ws.filter fun e => c.acts unif (some e.1)).map Prod.fst)

/-- The places of registers `n` to `n + k - 1` of a field. -/
def Iss.places (c : Iss) (f : Fld) (n k : Nat) : List Place := (List.range k).map fun j => c.place f n j

/-- Full writes, which never widen. -/
def Warp.fullWrites (x : Warp) (ws : List (Place × Reg)) : Warp := ws.foldl (fun x e => x.fullWrite e.1 e.2) x

/-- A pair of U results written to an even pair of D. -/
def Iss.pairResult (c : Iss) (s : State) (d : Nat) (lo hi : Word) : Res :=
  c.results s true [(c.place .d d 0, .u lo), (c.place .d d 1, .u hi)]

/-- A predicate written in the lanes of em, and completion (R32). -/
def Iss.predResult (c : Iss) (s : State) (pd : Nat) (bits : Mask) : State := c.complete s (c.warp.setPred c.em pd bits)

/-- All 32 bits of a predicate written (R155). -/
def Iss.predAll (c : Iss) (s : State) (pd : Nat) (bits : Mask) : State :=
  c.complete s { c.warp with preds := c.warp.preds.set pd (bits &&& c.warp.laneMask) }

/-- The selecting predicate of a field, after its inversion. -/
def Iss.pred (c : Iss) (p : Nat) (inv : Bool) : Mask :=
  if inv then ~~~(c.warp.preds.getD p 0#32) &&& c.warp.laneMask else c.warp.preds.getD p 0#32

/-- The team has performed an external effect (R298). -/
def Iss.external (c : Iss) (s : State) : State := s.mapTeam c.warp.team fun t => { t with ext := true }

/-! ## Running one instruction -/

/-- A step of which a part, `r`, must wait (R246, R247) is refused: the event that would take it has no effect. -/
def refuse (s r : State) : State := { s with mem := { s.mem with blocked := r.mem.blocked } }

/-- A step whose writes must wait (R246, R247) has no effect: the split parks and issues the instruction again; for a parked one the
whole event is refused. -/
def unlessBlocked (s : State) (c : Iss) (r : State) : State :=
  if r.mem.blocked = s.mem.blocked then r
  else if c.split.park != .no then refuse s r
  else c.park s (if r.mem.blocked = 1 then .cutHold else .stockpot)

/-- A trap of the instruction at issue, or of a parked one. -/
def raise (s : State) (c : Iss) (t : Trap) : State :=
  let t := agreed s c.warp t
  unlessBlocked s c ((t.base.getD s).run [.trap c.w c.sp t])

/-- One instruction of the split chosen to issue: what stops it at once, else its body. -/
def execute (s : State) (f : Form) (body : Iss → Res) : Host.Outcome State Fault Refusal :=
  match issuing s with
  | none => .fault .noIssuingSplit
  | some c =>
    match c.preTrap s f with
    | some t => .next (raise s c t)
    | none =>
      match body c with
      | .ok r => .next (unlessBlocked s c r)
      | .error t => .next (raise s c t)

/-- An event of the table: it happens when its condition holds, and otherwise has no effect. -/
def event (s : State) (enabled : Bool) (effect : State) : Host.Outcome State Fault Refusal :=
  .next (if enabled && effect.mem.blocked == s.mem.blocked then effect else s)

/-- A parked instruction of a warp that lives is carried out: `body` sees it as it stands, and its trap is taken. -/
def carry (s : State) (w sp : Nat) (body : State → Iss → Res) : State :=
  match issOf s w sp with
  | none => s
  | some c =>
    if !c.warp.lives then s else
    match body s c with
    | .ok r => unlessBlocked s c r
    | .error t => raise s c t

/-- What a suspended split's instruction comes to in the lent slot: a halt, or the trap it takes in its slot. -/
def failLent (s : State) (w i : Nat) (x : Warp) (t : Split) (tr : Trap) : State :=
  let tr := agreed s x tr
  let base := (tr.base.getD s).mapWarp w fun y => { y with split0 := x.split0 }
  if base.mem.blocked ≠ s.mem.blocked then refuse s base
  else if haltCause tr.cause then base.run [.halt w (haltOf x t tr)]
  else failWelt base w i t tr

/-- `carry` for a split wherever it is. A suspended one is carried out with the warp's slot 0 lent to it, and a trap of it waits
until it returns to a slot. -/
def carryAt (s : State) (w : Nat) (k : Seat) (body : State → Iss → Res) : State :=
  match k with
  | .slot sp => carry s w sp body
  | .welt i =>
    match s.warps[w]? with
    | none => s
    | some x =>
      match x.welt.getD i .free with
      | .split t =>
        if !x.lives then s else
        let lent := s.mapWarp w fun x => x.setSplit 0 (some { t with rcv := none, join := none })
        match issOf lent w 0 with
        | none => s
        | some c =>
          match body lent c with
          | .error tr => failLent s w i x t tr
          | .ok r =>
            match (r.warps.getD w x).split0, r.mem.blocked == s.mem.blocked with
            | some u, true =>
              weltPut (r.mapWarp w fun y => { y with split0 := x.split0 }) w i (.split { u with rcv := t.rcv, join := t.join })
            | _, false => refuse s r
            | none, true => s
      | _ => s

/-! ## Older accesses of a warp (R160, R180) -/

/-- The split is parked at an instruction that still has a register to write (R160). -/
def Park.result (p : Park) : Bool :=
  match p with
  | .pop _ _ _ _ | .waitf _ | .bmode _ _ _ _ | .snap _ | .lwait _ _ _ | .older => true
  | _ => false

/-- The split is parked at an access to memory that is not performed yet. -/
def Park.access (p : Park) : Bool :=
  match p with
  | .stockpot => true
  | .cutHold => true
  | .domain _ => true
  | .walk _ => true
  | _ => false

/-- The split in a slot has been woken to issue its instruction again, and can (log 23). -/
def Warp.againDue (x : Warp) (k : Seat) (t : Split) : Bool :=
  match k with
  | .slot _ => t.park == .no && t.held.isSome && !x.sup
  | .welt _ => false

/-- Another split of the warp has an access that is not performed yet. -/
def Warp.accessOpen (x : Warp) (me : Seat) : Bool :=
  (seats x).any fun k => k != me &&
    match seated x k with
    | some t => t.park.access || t.late.isSome || x.againDue k t
    | none => false

/-- Another split of the warp has an access or a register result that is still to come (R160). -/
def Warp.resultOpen (x : Warp) (me : Seat) : Bool :=
  x.accessOpen me || (seats x).any fun k => k != me && (seatPark x k).result

/-- A parked split in a slot is woken to issue its instruction again. -/
def wake (s : State) (w sp : Nat) : State := wakeAt s w (.slot sp)

end Sys2Proof.Machine
end

