-- ==== Sys2Proof/Machine/Bind.lean ====
section
/-!
DEFINITION. How a crew becomes resident: what it needs, the warps dispatch creates, and the team area (spec 01 R15, 11
R292 to R294, 20 R379, R380).
-/

namespace Sys2Proof.Machine

def Tile.blank : Tile :=
  { rows := 0, rowb := 0, fmt := 0, sct := 0, mdt := 0, scale := 0, nkeep := 0, land := false, data := []
    poison := false }

def Acc.blank : Acc := { rows := 0, cols := 0, isInt := false, elems := [], poison := false }

def Queue.closed : Queue := { bank := 0, esz := 0, depth := 0, off := 0, entries := [], allow := 0, st := 0, bad := [] }

/-- The bytes of a team area (R380). -/
def areaBytes (l : Launch) : Nat := 64 + l.warps * (l.private_ * 32 + l.welt * 32)

/-- The team area of the k-th team of a crew, when the firmware allocates them from `area` on, each at a 128-byte step. -/
def areaOf (l : Launch) (area k : Nat) : Nat := area + k * ((areaBytes l + 127) / 128 * 128)

def privOf (l : Launch) (area wid : Nat) : Nat := area + 64 + wid * l.private_ * 32
def weltOf (l : Launch) (area wid : Nat) : Nat := area + 64 + l.warps * l.private_ * 32 + wid * l.welt * 32

/-- A warp as dispatch creates it (R15, R293, R301). -/
def freshWarp (s : State) (l : Launch) (team core area wid : Nat) : Warp :=
  let live := if l.prot then 0xFFFF#32 else allLanes
  let split : Split :=
    { pc := l.entry, entry := live, em := live, rcv := none, join := none, depth := 0, latches := [], xp := none, park := .no
      held := none, late := none, since := s.clk.ns }
  { team := team, wid := wid, core := core, cobbler := false, prot := l.prot, st := .running, allot := l.regs
    regs := List.replicate l.regs (.u 0#32), bad := [], winBase := 0, xs := List.replicate 4 0#32, preds := List.replicate 8 0#32
    live := live, split0 := some split, split1 := none, welt := List.replicate l.welt .free, weltOrder := [], issued := 0
    floor := l.vfloor, q := l.vfloor, free := l.vfloor, sup := false, bank := List.replicate 16 (.u 0#32)
    trap := TrapRec.reset, srng := (List.range 32).map fun i => BitVec.ofNat 32 (i + 1), pkr := (s.ctx l.ctx).pkr
    ftokPend := false, ftokSeq := 0, ftokReply := none, progress := 0, retired := 0, lastRetire := s.clk.ns, wdog := (s.ctx l.ctx).wdogMs, stopAt := 0, frozenTo := 0
    privBase := privOf l area wid, weltBase := weltOf l area wid, target := none, pushed := [] }

/-! ## Needs of R292 -/

/-- The claims queued on a core, wherever their splits are (R144); a warp that BRK holds keeps its claim, one that halts gives
it up (log 52). -/
def claimsOn (s : State) (core : Nat) : List (Nat × Seat) :=
  parkedSeats s fun x p =>
    match p with
    | .claim _ _ => x.core == core
    | _ => false

/-- Vector slots that the claims queued on a core wait for (R144, R292). -/
def claimSum (s : State) (core : Nat) : Nat :=
  ((claimsOn s core).map fun e =>
    match seatPark (s.warps.getD e.1 Warp.blank) e.2 with
    | .claim n _ => n
    | _ => 0).foldl (· + ·) 0

/-- A warp occupies its core: it has not ended and its team is resident. -/
def onCore (s : State) (core : Nat) (x : Warp) : Bool :=
  let r := (s.team x.team).res
  x.core == core && x.st != .ended && (r == .running || r == .saving)

/-- The sum of the launch floors of the core's other resident warps (R144); a Cobbler counts with the VFLOOR it was started
with (log 52). -/
def otherFloors (s : State) (w core : Nat) : Nat :=
  ((List.range s.warps.length).map fun i =>
    match s.warps[i]? with
    | some x => if i != w && onCore s core x then x.floor else 0
    | none => 0).foldl (· + ·) 0

/-- The claim can never be granted (R144): what could be, at most. -/
def claimLimit (s : State) (w : Nat) (x : Warp) (n : Nat) : Option Nat :=
  let f := otherFloors s w x.core
  if Config.vslotsPerCore < x.q + n + f then some (Config.vslotsPerCore - f - x.q) else none

/-- The claims queued on a core, oldest first: where, and how many slots. -/
def claimQueue (s : State) (core : Nat) : List (Nat × Seat × Nat) :=
  let cs := (claimsOn s core).filterMap fun e =>
    match seatPark (s.warps.getD e.1 Warp.blank) e.2 with
    | .claim n age => some (age, e.1, e.2, n)
    | _ => none
  (cs.foldl (fun acc c => (acc.takeWhile fun b => decide (b.1 < c.1)) ++ [c] ++ acc.dropWhile fun b => decide (b.1 < c.1)) []).map
    Prod.snd

/-- The claims on some cores that can never be granted any more leave the queue with trap 0x19 (R144). -/
def lateClaims (s : State) (cores : List Nat) : State :=
  let dead := cores.eraseDups.flatMap fun core => (claimQueue s core).filterMap fun e =>
    (claimLimit s e.1 (s.warps.getD e.1 Warp.blank) e.2.2).map fun m => (e.1, e.2.1, ({ cause := 0x19, val := .word m } : Trap))
  let r := failAll s dead
  r.1.run r.2

/-- The bind record of a team (R379). -/
def bindWords (l : Launch) (tid area : Nat) (restore : Bool) : List Word :=
  [l.entry % 2 ^ 32, l.entry / 2 ^ 32 + 2 ^ 24 * (l.ctx % 64) + (if l.prot then 2 ^ 30 else 0) + (if restore then 2 ^ 31 else 0),
    l.warps + 2 ^ 5 * l.regs + 2 ^ 16 * l.vfloor, tid + 2 ^ 24 * l.tiles, area % 2 ^ 32, area / 2 ^ 32, l.private_,
    l.welt].map (BitVec.ofNat 32)

/-- A team's record goes into the first free entry: Loaded (R379). -/
def SlotEntry.load (es : List SlotEntry) (words : List Word) (t : Nat) : List SlotEntry :=
  es.set (es.takeWhile fun e => e.st != 0).length { st := 1, words := words, team := t }

/-- The firmware collects the first ended entry (R379). -/
def SlotEntry.collect (es : List SlotEntry) : List SlotEntry := es.set (es.takeWhile fun e => e.st != 4).length SlotEntry.free

/-- A team's record is loaded. -/
def loadedFor (s : State) (core t : Nat) : Bool := (s.core core).table.any fun e => e.st == 1 && e.team == t

/-- A team fits its core now; `slots` and `q` are the descriptor slots and the quota it needs. -/
def coreFits (s : State) (l : Launch) (core slots q : Nat) : Bool :=
  let k := s.core core
  decide (l.warps ≤ k.warpsFree) && decide (slots ≤ k.slotsFree) && decide (q + claimSum s core ≤ k.pool) &&
    decide (l.tiles ≤ k.tilesFree)

/-- Scratchpad banks a crew needs. -/
def scratchBanks (l : Launch) : Nat := (l.scratch + Config.bankBytes - 1) / Config.bankBytes

/-- The lowest-numbered banks that no crew holds (R304). -/
def freeBanks (s : State) (cluster : Nat) : List Nat :=
  (List.range 32).filter fun b => ((s.cluster cluster).banks.getD b ⟨0, none⟩).owner.isNone

/-- Another resident crew of the cluster holds FIFO banks (R304). -/
def fifoTaken (s : State) (cluster : Nat) : Bool :=
  s.crews.any fun k => k.cluster == cluster && k.resident && decide (0 < (s.launch k.launch).fifob)

/-- The banks for a crew: FIFO banks from the top, scratchpad banks from the bottom; none when they do not fit (R292,
R304). -/
def banksFor (s : State) (l : Launch) (cluster : Nat) : Option (List Nat × List Nat) :=
  let free := freeBanks s cluster
  let fifo := (List.range l.fifob).map fun i => 32 - l.fifob + i
  let scr := (free.filter fun b => !fifo.contains b).take (scratchBanks l)
  if fifo.all free.contains && scr.length == scratchBanks l && !(decide (0 < l.fifob) && fifoTaken s cluster) then some (scr, fifo)
  else none

/-! ## Banks and lines -/

/-- A bank leaves L1 mode: its way is written back and invalidated (R304). Which lines stand in the way is open: in each
set the lines past the ways that remain are taken to be the least recently used (log 9). -/
def shrinkL1 (s : State) (k : Nat) : State :=
  let ways := l1Ways (s.cluster k) - 1
  let gone := (s.cluster k).l1.filter fun x =>
    let set := (s.cluster k).l1.filter fun y => setOf y.va == setOf x.va
    decide (ways ≤ (set.takeWhile fun y => !isLine x.asid x.va y).length)
  gone.foldl (fun s x => evictL1 s k x) s

/-- A bank takes a mode and an owner; its contents read zero (R292, R304). -/
def setBank (s : State) (k b mode : Nat) (owner : Option Nat) : State :=
  let old := ((s.cluster k).banks.getD b ⟨0, none⟩).mode
  let s1 := if old = 0 ∧ mode ≠ 0 then shrinkL1 s k else s
  s1.mapCluster k fun x =>
    { x with banks := x.banks.set b ⟨mode, owner⟩
             sram := x.sram.filter fun e => e.1 / Config.bankBytes != b
             badSram := x.badSram.filter fun n => n * 32 / Config.bankBytes != b }

/-! ## Binding -/

/-- The header of a team area (R380). -/
def areaHeader (l : Launch) (t : Team) (crewIndex teams : Nat) : List Word :=
  [BitVec.ofNat 32 l.param, BitVec.ofNat 32 (l.param / 2 ^ 32), BitVec.ofNat 32 t.gidx, BitVec.ofNat 32 t.grow0,
    BitVec.ofNat 32 t.grows, BitVec.ofNat 32 teams, BitVec.ofNat 32 (l.tpc + 256 * crewIndex),
    BitVec.ofNat 32 (if l.restart then 1 else 0), BitVec.ofNat 32 (l.word 11), BitVec.ofNat 32 (l.word 12), BitVec.ofNat 32 t.image,
    BitVec.ofNat 32 (t.image / 2 ^ 32)] ++ List.replicate 4 0#32

/-- A fresh Welt holds the Reset values of R41. -/
def freshWelts (s : State) (l : Launch) (area : Nat) : State :=
  let a := weltOf l area 0
  firmStore (postMalformed s l.ctx (pagesOf a (l.warps * l.welt * 32)) { acc := 1 }) l.ctx a
    ((List.range (l.warps * l.welt * 32)).map fun i => if i % 32 = 4 ∨ i % 32 = 5 then 0xFF#8 else 0#8)

/-- A fresh private region holds undefined values (R293, log 7). -/
def freshPrivate (s : State) (l : Launch) (area : Nat) : State :=
  firmStore (postMalformed s l.ctx (pagesOf (area + 64) (l.warps * l.private_ * 32)) { acc := 1 }) l.ctx (area + 64)
    ((List.range (l.warps * l.private_ * 32)).map fun i => Config.freeByte s.clk.tick (area + 64 + i))

/-- One team binds afresh (R293). Each resident team has four accumulators of its own, whatever other teams are resident on
its core (log 52). -/
def bindTeam (s : State) (l : Launch) (li t crewIndex area : Nat) : State :=
  let x := s.team t
  let s1 := freshWelts (freshPrivate (ctxPut s l.ctx area (areaHeader l x crewIndex l.teams)) l area) l area
  let warps := (List.range l.warps).map fun wid => freshWarp s l t x.core area wid
  let s2 := { s1 with warps := s1.warps ++ warps }
  let s3 := s2.mapTeam t fun x =>
    { x with launch := li, warps := l.warps, res := .running, fresh := false, area := area, image := 0, room := 0, withCrew := false
             tiles := List.replicate l.tiles Tile.blank, accs := List.replicate 4 Acc.blank, ops := [], ext := false
             since := s.clk.ns, runNs := 0, quantumUsed := false, drainBy := none, replay := false }
  s3.mapCore x.core fun k =>
    { k with slotsFree := k.slotsFree - l.warps * l.regs, pool := k.pool - l.warps * l.vfloor
             warpsFree := k.warpsFree - l.warps, tilesFree := k.tilesFree - l.tiles
             table := entryState k.table t 1 2 }

/-- A crew's banks are set up, and its queues closed (R292, R304). -/
def bindCrewBanks (s : State) (l : Launch) (crew : Nat) (scr fifo : List Nat) : State :=
  let k := (s.crew crew).cluster
  let s1 := scr.foldl (fun s b => setBank s k b 1 (some crew)) s
  let s2 := fifo.foldl (fun s b => setBank s k b 2 (some crew)) s1
  s2.mapCrew crew fun x => { x with begun := true, resident := true, queues := List.replicate l.queues Queue.closed }

end Sys2Proof.Machine
end

