-- ==== Sys2Proof/Machine/Upset.lean ====
section
/-!
DEFINITION. Errors in SRAM and L2, what is counted and reported of corrected ones, and what becomes of data that cannot be
corrected (spec 22 R402, R403, R407 to R409).
-/

namespace Sys2Proof.Machine

/-! ## Units (R407) -/

def coreUnit (p : Nat) : Nat := p / 192 + p % 192 / 4 * 2 ^ 4 + p % 4 * 2 ^ 10
def bankUnit (cluster bank : Nat) : Nat := cluster / 48 + cluster % 48 * 2 ^ 4 + bank * 2 ^ 16 + 2 ^ 28
/-- Stack `k` of the device lies on die `k / 3` (R2). -/
def stackUnit (stack : Nat) : Nat := stack / 3 + stack * 2 ^ 12 + 2 * 2 ^ 28
def channelUnit (stack channel : Nat) : Nat := stackUnit stack + channel * 2 ^ 16

/-- The Kloak link is port 0, Cyhild port k is port k + 1. -/
def linkUnit (port lane : Nat) : Nat :=
  if port = 0 then lane * 2 ^ 16 + 3 * 2 ^ 28 else lane * 2 ^ 16 + (port - 1) * 2 ^ 22 + 4 * 2 ^ 28

/-! ## Corrected errors -/

/-- `n` errors corrected in a unit: a record of KIND 16 with the count since the last one, at most one a second (R407). -/
def noteErrors (s : State) (unit n : Nat) : State :=
  let e := s.fw.errors.find? fun e => e.1 == unit
  let count := n + match e with | some e => e.2.1 | none => 0
  let due := match e with | some e => decide (e.2.2 + 1000000000 ≤ s.clk.ns) | none => true
  let mine := match e, due with
    | some e, false => (unit, count, e.2.2)
    | _, _ => (unit, 0, s.clk.ns)
  let s1 := { s with fw := { s.fw with errors := mine :: s.fw.errors.filter fun e => e.1 != unit } }
  if due then telemetry s1 16 unit count [] else s1

def markCore (s : State) (core : Nat) : State := s.mapCore core fun k => { k with retireMark := true }

/-- The 24 hours of R408, in ns. -/
def errorWindow : Nat := 24 * 3600 * 1000000000

/-- An error corrected in a core's SRAM: more than the threshold in 24 hours mark the core for retirement (R408). The 24 hours
are taken to begin with the first error counted (log 50). -/
def correctedCore (s : State) (core : Nat) : State :=
  let s1 := noteErrors s (coreUnit core) 1
  let s2 := s1.mapCore core fun k =>
    if k.correctedAt + errorWindow ≤ s.clk.ns ∨ k.corrected = 0 then { k with corrected := 1, correctedAt := s.clk.ns }
    else { k with corrected := k.corrected + 1 }
  if s.fuses.threshold < (s2.core core).corrected then markCore s2 core else s2

/-- The errors corrected in a bank so far. -/
def bankErrors (s : State) (cluster bank : Nat) : Nat :=
  match s.fuses.bankErrors.find? fun e => e.1 == cluster && e.2.1 == bank with
  | some e => e.2.2
  | none => 0

/-- An error corrected in a bank of a cluster. -/
def correctedBank (s : State) (cluster bank : Nat) : State :=
  let s1 := noteErrors s (bankUnit cluster bank) 1
  { s1 with fuses := { s1.fuses with
      bankErrors := (cluster, bank, bankErrors s cluster bank + 1) ::
        s1.fuses.bankErrors.filter fun e => !(e.1 == cluster && e.2.1 == bank) } }

/-! ## Errors beyond correction (R402) -/

/-- A line whose sector at `va` is poisoned. -/
def Line.spoil (x : Line) (va : Nat) : Line := { x with poison := x.poison.set (va % 128 / 32) true }

/-- A record of KIND 17 (R407). A word of a core or a bank has no device physical address, and its record holds 0 (log 55). -/
def reportUpset (s : State) (unit pa : Nat) : State := telemetry s 17 unit 0 [(5, pa % 2 ^ 32), (6, pa / 2 ^ 32)]

/-- The device physical address of a line, when its home is a stack, with the stack. -/
def linePlace (s : State) (x : Line) : Option (Nat × Nat) :=
  let pl := (s.ctx x.ctx).placement x.va
  match homeOf pl x.va with
  | .stack k => some (k, physAddr pl x.leaf x.va)
  | _ => none

/-- The unit of a bank of a cluster whose L1 holds a line; which bank that is stays open (log 9). -/
def l1Unit (s : State) (cluster : Nat) : Nat := bankUnit cluster (Config.choice s.clk.tick 402 % Config.banks)

/-- An error is met. A clean line of an L1 or a Sieve cache is dropped, and is read again from its home. -/
def upset (s : State) (u : Upset) : State :=
  match u with
  | .corrected core => if core < Config.cores then correctedCore s core else s
  | .bank cluster b => if cluster < Config.clusters ∧ b < Config.banks then correctedBank s cluster b else s
  | .register w p =>
    match s.warps[w]? with
    | none => s
    | some x =>
      reportUpset (s.mapWarp w fun x => { x with bad := if x.bad.contains p then x.bad else p :: x.bad }) (coreUnit x.core) 0
  | .tile team t =>
    if (s.team team).tiles.length ≤ t then s
    else reportUpset (s.mapTeam team fun x => { x with tiles := updAt x.tiles t fun y => { y with poison := true } })
      (coreUnit (s.team team).core) 0
  | .acc team n =>
    if (s.team team).accs.length ≤ n then s
    else reportUpset (s.mapTeam team fun x => { x with accs := updAt x.accs n fun y => { y with poison := true } })
      (coreUnit (s.team team).core) 0
  | .l1 cluster asid va =>
    match (s.cluster cluster).l1.find? (isLine asid (lineOf va)) with
    | none => s
    | some x =>
      if x.isDirty then
        reportUpset (s.mapL1 cluster fun ls => ls.map fun y => if isLine asid (lineOf va) y then y.spoil va else y)
          (l1Unit s cluster) (match linePlace s x with | some e => e.2 | none => 0)
      else l1Drop s cluster asid (lineOf va)
  | .sieve cluster asid va =>
    s.mapCluster cluster fun k => { k with sieve := k.sieve.filter fun x => !isLine asid (lineOf va) x }
  | .scratch cluster addr =>
    reportUpset (s.mapCluster cluster fun k =>
      { k with badSram := if k.badSram.contains (addr / 32) then k.badSram else addr / 32 :: k.badSram })
      (bankUnit cluster (addr / Config.bankBytes)) 0
  | .fifo crew q n =>
    match (s.crew crew).queues[q]? with
    | none => s
    | some x =>
      if x.entries.length ≤ n then s
      else reportUpset (s.mapCrew crew fun k => { k with queues := updAt k.queues q fun x =>
          { x with bad := if x.bad.contains n then x.bad else n :: x.bad } })
        (bankUnit (s.crew crew).cluster x.bank) 0
  | .l2 asid va =>
    match s.l2Line? asid (lineOf va) with
    | none => s
    | some x =>
      let f : Line → Line := fun y => if isLine asid (lineOf va) y then { y with poison := List.replicate 4 true } else y
      let s1 := { s with mem := { s.mem with l2 := s.mem.l2.map f } }
      match linePlace s x with
      | some e => reportUpset s1 (stackUnit e.1) e.2
      | none => s1

end Sys2Proof.Machine
end

