-- ==== Sys2Proof/Machine/Issue.lean ====
section
/-!
DEFINITION. What a step does around an instruction or event: the splits that can issue, fetching, what an illegal word raises, and
the passing of time (spec 03 R76, R83, R90; 01 R22, R40; log 1, log 3).
-/

namespace Sys2Proof.Machine

/-! ## Fetching (R76) -/

/-- The word at an address a split stands at, and the state with its line in the instruction cache. The right to a class 4 page is its
peer's to check (R355; log 55). -/
def fetch (s : State) (c : Iss) : Except Trap (State × Nat) :=
  let pc := c.split.pc
  let cx := s.ctxOf c.warp
  if 2 ^ 56 ≤ pc then trapU 0x1A
  else match translate s cx pc with
    | .absent => trapU 0x0A
    | .malformed pa lev e => .error { cause := 0x0A, base := some (postGroup s cx (malformedRec s cx pa lev e (whoIs s c.warp 2))) }
    | .leaf l =>
      if !l.ex && l.cls != 4 then trapU 0x0B
      else
        let r := fetchWord s (clusterOf c.warp.core) cx l pc
        if r.2.2 then .error { cause := 0x15, val := .addrs (List.replicate 32 pc) } else .ok (r.1, r.2.1)

/-- The cause a word raises that is no instruction (R90): outside the Cobbler's subset a reserved encoding is illegal
too. -/
def badWord (c : Iss) (w : Nat) (d : Dec) : Nat :=
  match d with
  | .reserved => if c.warp.cobbler && !cobblerWord w then 0x01 else 0x02
  | _ => 0x01

/-! ## What comes next (log 1) -/

/-- The split between a prefix and its word: nothing falls between them (R83). -/
def midPair (s : State) : Option Iss :=
  match issuing s with
  | some c => if c.hasXp then some c else none
  | none => none

/-- A rotation is due (R40). -/
def rotationDue (x : Warp) : Bool :=
  x.st == .running && !x.sup && !x.weltOrder.isEmpty && decide (1024 ≤ x.issued)

/-- The splits that can issue, as (warp, slot). -/
def readySplits (s : State) : List (Nat × Nat) :=
  ((List.range s.warps.length).flatMap fun w => [(w, 0), (w, 1)]).filter fun e =>
    match issOf s e.1 e.2 with
    | some c => c.ready s
    | none => false

/-! ## Time and the issue order -/

/-- One step of the agenda's delay has passed. -/
def tickAgenda (a : List (Nat × Instr)) : List (Nat × Instr) :=
  match a with
  | (n + 1, i) :: rest => (n, i) :: rest
  | a => a

/-- The split that issued last has a group switch, when it is still there (R22). -/
def switchLast (s : State) : State :=
  match s.sched.issue with
  | none => s
  | some (w, sp) => s.mapWarp w fun x => x.groupSwitch sp

/-- The lines of an L1 and of L2 that leave between two steps (R257). -/
def evictions (s : State) (t : Turn) : State :=
  let s1 := t.evictL1.foldl (fun s e =>
    match (s.cluster e.1).l1.find? (isLine e.2.1 e.2.2) with
    | none => s
    | some x =>
      let r := evictL1 s e.1 x
      if r.mem.blocked = s.mem.blocked then r else s) s
  t.evictL2.foldl (fun s e => evictL2 s e.1 e.2) s1

/-- The ready split after the one that issued last, in a fixed order. -/
def nextReady (s : State) : Option (Nat × Nat) :=
  let es := readySplits s
  match s.sched.issue with
  | none => es.head?
  | some (w, sp) => (es.find? fun e => decide (w < e.1) || (e.1 == w && decide (sp < e.2))).orElse fun _ => es.head?

/-- The next turn of the tape; without one, the split that issued goes on, and the next ready one takes over when it cannot, and every
seventh step, so that no resident team waits for ever (R295; log 1). -/
def takeTurn (s : State) : State :=
  match s.sched.tape with
  | t :: rest =>
    let s1 := t.upsets.foldl upset (evictions (if t.switch then switchLast s else s) t)
    { s1 with sched := { s1.sched with issue := some (t.warp, t.split), tape := rest, late := t.late, differ := t.differ } }
  | [] =>
    let on := { s with sched := { s.sched with late := false, differ := false } }
    if (issuing s).isSome && s.clk.tick % 7 != 0 then on
    else match nextReady s with
      | some e =>
        if s.sched.issue = some e then on
        else
          let s1 := switchLast s
          { s1 with sched := { s1.sched with issue := some e, late := false, differ := false } }
      | none => s

/-- Time passes (R51, R235, log 3). -/
def passTime (s : State) : State :=
  { s with clk := { tick := s.clk.tick + 1, cycle := s.clk.cycle + Config.elapsed s.clk.tick
                    ns := s.clk.ns + Config.elapsedNs s.clk.tick } }

/-- What follows an instruction: time, the agenda's delay, and the next turn, unless a prefix waits for its word (R83). -/
def finish (s : State) : State :=
  let s1 := passTime { s with sched := { s.sched with agenda := tickAgenda s.sched.agenda, quiet := s.sched.quiet + 1 } }
  if (midPair s1).isSome then s1 else takeTurn s1

/-- What follows an event. -/
def finishEvent (s : State) : State := if (issuing s).isSome then passTime s else takeTurn (passTime s)

end Sys2Proof.Machine
end

