-- ==== Sys2Proof/Machine/Flags.lean ====
section
/-!
DEFINITION. The predicates comparisons write (spec 03 R87, 05 R126, R127). The device has no flags: a predicate is a lane
mask, and every comparison writes one.
-/

namespace Sys2Proof.Machine

/-- The conditions of CMP and CMPI (R87). -/
def cmpCond (cond : Nat) (a b : Word) : Bool :=
  match cond with
  | 0 => a == b
  | 1 => a != b
  | 2 => a.slt b
  | 3 => a.sle b
  | 4 => b.slt a
  | 5 => b.sle a
  | 6 => a.ult b
  | 7 => a.ule b
  | 8 => b.ult a
  | 9 => b.ule a
  | 10 => a &&& b != 0#32
  | _ => a &&& b == 0#32

/-- The combine codes of format C (R87): set, AND with p[PC], OR with p[PC]. -/
def combine (cmb : Nat) (c old : Bool) : Bool :=
  match cmb with
  | 0 => c
  | 1 => c && old
  | _ => c || old

/-- The lane results of a comparison (R126). -/
def cmpLanes (f : Word → Word → Bool) (cmb : Nat) (pc : Mask) (a b : Reg) : Mask :=
  maskWhere fun l => combine cmb (f (a.lane l) (b.lane l)) (pc.getLsbD l)

/-- The lanes whose value is not zero (R155). -/
def nonzeroLanes (a : Reg) : Mask := maskWhere fun l => a.lane l != 0#32

/-- A comparison of two registers into a predicate (R126, R127). -/
def compareTo (s : State) (c : Iss) (f : Word → Word → Bool) (pd pc cmb : Nat) (a b : Reg) : State :=
  c.predResult s pd (cmpLanes f cmb (c.warp.preds.getD pc 0#32) a b)

end Sys2Proof.Machine
end

