-- ==== Sys2Proof/Machine/Alu.lean ====
section
/-!
DEFINITION. Integer arithmetic, logic, immediates and comparisons: INTR, LOGR, ADDI to XORI, SHI, LI, CMP, CMPI, FCMP, SEL
(spec 05 R115 to R127, R132).
-/

namespace Sys2Proof.Machine

/-! ## The procedure of R116 -/

/-- What D held, as a source (z reads zero: R18). -/
def Iss.oldD (c : Iss) (d : Dst) : Reg :=
  match c.dst d with
  | some p => c.warp.getReg p
  | none => .u 0#32

/-- An instruction of two sources; `cob`: a word of the Cobbler's subset (R311). -/
def binary (cob : Bool) (s : State) (nw : Bool) (d : Dst) (a b : Src) (f : Reg → Reg → Reg) :
    Host.Outcome State Fault Refusal :=
  execute s { d := dstOp d, a := srcOp a, b := srcOp b, cob := cob, em0 := .uniform } fun c =>
    let x := c.read .a a
    let y := c.read .b b
    c.result s nw d (x.isU && y.isU) (f x y)

/-- An instruction of one source. -/
def unary (cob : Bool) (s : State) (nw : Bool) (d : Dst) (a : Src) (f : Reg → Reg) : Host.Outcome State Fault Refusal :=
  execute s { d := dstOp d, a := srcOp a, cob := cob, em0 := .uniform } fun c =>
    let x := c.read .a a
    c.result s nw d x.isU (f x)

/-- An instruction that reads D too: `f a b d`. -/
def ternary (cob : Bool) (s : State) (nw : Bool) (d : Dst) (a b : Src) (f : Word → Word → Word → Word) :
    Host.Outcome State Fault Refusal :=
  execute s { d := dstOp d, a := srcOp a, b := srcOp b, dread := true, cob := cob, em0 := .uniform } fun c =>
    let x := c.read .a a
    let y := c.read .b b
    let z := c.oldD d
    c.result s nw d (x.isU && y.isU && z.isU) (map3 f x y z)

/-- An instruction of a source and a 32-bit immediate of an I word. -/
def immediate (s : State) (nw : Bool) (d : Dst) (a : Src) (imm : Nat) (f : Reg → Word → Reg) :
    Host.Outcome State Fault Refusal :=
  execute s { d := dstOp d, a := srcOp a, ext := .bits 21, cob := true, em0 := .uniform } fun c =>
    let x := c.read .a a
    c.result s nw d x.isU (f x (c.imm imm 11))

/-- SHI: no prefix without a marked field (R82). -/
def shiftImm (s : State) (nw : Bool) (d : Dst) (a : Src) (amt : Nat) (f : Reg → Word → Reg) :
    Host.Outcome State Fault Refusal :=
  execute s { d := dstOp d, a := srcOp a, cob := true, em0 := .uniform } fun c =>
    let x := c.read .a a
    c.result s nw d x.isU (f x (BitVec.ofNat 32 amt))

/-! ## Results with a shape rule of their own (R26) -/

def addReg (x y : Reg) : Reg :=
  match x, y with
  | .a b s, .u v => .a (b + v) s
  | .u v, .a b s => .a (v + b) s
  | .a b s, .a b' s' => .a (b + b') (s + s')
  | x, y => map2 (fun a b => a + b) x y

def subReg (x y : Reg) : Reg :=
  match x, y with
  | .a b s, .u v => .a (b - v) s
  | .u v, .a b s => .a (v - b) (0#32 - s)
  | .a b s, .a b' s' => .a (b - b') (s - s')
  | x, y => map2 (fun a b => a - b) x y

def mulReg (x y : Reg) : Reg :=
  match x, y with
  | .a b s, .u v => .a (b * v) (s * v)
  | .u v, .a b s => .a (v * b) (v * s)
  | x, y => map2 (fun a b => a * b) x y

def shlW (a b : Word) : Word := a <<< (b.toNat % 32)

def shlReg (x y : Reg) : Reg :=
  match x, y with
  | .a b s, .u v => .a (shlW b v) (shlW s v)
  | x, y => map2 shlW x y

/-! ## Word operations (R119 to R122) -/

/-- Bits 63:32 of the signed product. -/
def mulhsW (a b : Word) : Word := BitVec.ofInt 32 (a.toInt * b.toInt / 2 ^ 32)
/-- Bits 63:32 of the natural product. -/
def mulhnW (a b : Word) : Word := BitVec.ofNat 32 (a.toNat * b.toNat / 2 ^ 32)
def divsW (a b : Word) : Word := if b = 0#32 then 0xFFFFFFFF#32 else BitVec.ofInt 32 (a.toInt.tdiv b.toInt)
def divnW (a b : Word) : Word := if b = 0#32 then 0xFFFFFFFF#32 else BitVec.ofNat 32 (a.toNat / b.toNat)
def remsW (a b : Word) : Word := if b = 0#32 then a else BitVec.ofInt 32 (a.toInt.tmod b.toInt)
def remnW (a b : Word) : Word := if b = 0#32 then a else BitVec.ofNat 32 (a.toNat % b.toNat)
def minsW (a b : Word) : Word := if a.toInt ≤ b.toInt then a else b
def minnW (a b : Word) : Word := if a.toNat ≤ b.toNat then a else b
def maxsW (a b : Word) : Word := if b.toInt ≤ a.toInt then a else b
def maxnW (a b : Word) : Word := if b.toNat ≤ a.toNat then a else b
/-- sat of R52. -/
def satS (i : Int) : Word := BitVec.ofInt 32 (max (-2147483648) (min i 2147483647))
def addssW (a b : Word) : Word := satS (a.toInt + b.toInt)
def subssW (a b : Word) : Word := satS (a.toInt - b.toInt)
def shrW (a b : Word) : Word := a >>> (b.toNat % 32)
def sarW (a b : Word) : Word := a.sshiftRight (b.toNat % 32)
def rotlW (a b : Word) : Word := a.rotateLeft (b.toNat % 32)
def clzW (a : Word) : Word := BitVec.ofNat 32 (if a = 0#32 then 32 else 31 - a.toNat.log2)
def popcW (a : Word) : Word := BitVec.ofNat 32 (popc a)
def brevW (a : Word) : Word := maskWhere fun i => a.getLsbD (31 - i)
/-- pos and len of a control word (R122). -/
def fieldPos (c : Word) : Nat := bitsN c.toNat 0 5
def fieldLen (c : Word) : Nat := min (bitsN c.toNat 8 6) (32 - fieldPos c)
def bfxnW (a c : Word) : Word := BitVec.ofNat 32 (bitsN a.toNat (fieldPos c) (fieldLen c))
def bfxsW (a c : Word) : Word :=
  if fieldLen c = 0 then 0#32 else BitVec.ofInt 32 (sextN (a.toNat / 2 ^ fieldPos c) (fieldLen c))
/-- BFI: the low bits of `a` into the field of `d`. -/
def bfiW (a c d : Word) : Word :=
  let m : Word := BitVec.ofNat 32 ((2 ^ fieldLen c - 1) * 2 ^ fieldPos c)
  (d &&& ~~~m) ||| ((a <<< fieldPos c) &&& m)

/-! ## INTR -/

/-- ADD (R119). -/
def execAdd (nw : Bool) (d : Dst) (a b : Src) (s : State) : Host.Outcome State Fault Refusal :=
  binary true s nw d a b addReg

/-- SUB (R119). -/
def execSub (nw : Bool) (d : Dst) (a b : Src) (s : State) : Host.Outcome State Fault Refusal :=
  binary true s nw d a b subReg

/-- MUL (R119). -/
def execMul (nw : Bool) (d : Dst) (a b : Src) (s : State) : Host.Outcome State Fault Refusal :=
  binary true s nw d a b mulReg

/-- MULH.s (R119). -/
def execMulhS (nw : Bool) (d : Dst) (a b : Src) (s : State) : Host.Outcome State Fault Refusal :=
  binary true s nw d a b (map2 mulhsW)

/-- MULH.n (R119). -/
def execMulhN (nw : Bool) (d : Dst) (a b : Src) (s : State) : Host.Outcome State Fault Refusal :=
  binary true s nw d a b (map2 mulhnW)

/-- MAD (R119). -/
def execMad (nw : Bool) (d : Dst) (a b : Src) (s : State) : Host.Outcome State Fault Refusal :=
  ternary true s nw d a b (fun x y z => z + x * y)

/-- DIV.s (R119, R120). -/
def execDivS (nw : Bool) (d : Dst) (a b : Src) (s : State) : Host.Outcome State Fault Refusal :=
  binary true s nw d a b (map2 divsW)

/-- DIV.n (R119, R120). -/
def execDivN (nw : Bool) (d : Dst) (a b : Src) (s : State) : Host.Outcome State Fault Refusal :=
  binary true s nw d a b (map2 divnW)

/-- REM.s (R119, R120). -/
def execRemS (nw : Bool) (d : Dst) (a b : Src) (s : State) : Host.Outcome State Fault Refusal :=
  binary true s nw d a b (map2 remsW)

/-- REM.n (R119, R120). -/
def execRemN (nw : Bool) (d : Dst) (a b : Src) (s : State) : Host.Outcome State Fault Refusal :=
  binary true s nw d a b (map2 remnW)

/-- MIN.s (R119). -/
def execMinS (nw : Bool) (d : Dst) (a b : Src) (s : State) : Host.Outcome State Fault Refusal :=
  binary true s nw d a b (map2 minsW)

/-- MIN.n (R119). -/
def execMinN (nw : Bool) (d : Dst) (a b : Src) (s : State) : Host.Outcome State Fault Refusal :=
  binary true s nw d a b (map2 minnW)

/-- MAX.s (R119). -/
def execMaxS (nw : Bool) (d : Dst) (a b : Src) (s : State) : Host.Outcome State Fault Refusal :=
  binary true s nw d a b (map2 maxsW)

/-- MAX.n (R119). -/
def execMaxN (nw : Bool) (d : Dst) (a b : Src) (s : State) : Host.Outcome State Fault Refusal :=
  binary true s nw d a b (map2 maxnW)

/-- ADDS.s (R119). -/
def execAddsS (nw : Bool) (d : Dst) (a b : Src) (s : State) : Host.Outcome State Fault Refusal :=
  binary true s nw d a b (map2 addssW)

/-- SUBS.s (R119). -/
def execSubsS (nw : Bool) (d : Dst) (a b : Src) (s : State) : Host.Outcome State Fault Refusal :=
  binary true s nw d a b (map2 subssW)

/-! ## LOGR -/

/-- AND (R121). -/
def execAndR (nw : Bool) (d : Dst) (a b : Src) (s : State) : Host.Outcome State Fault Refusal :=
  binary true s nw d a b (map2 fun x y => x &&& y)

/-- OR (R121). -/
def execOrR (nw : Bool) (d : Dst) (a b : Src) (s : State) : Host.Outcome State Fault Refusal :=
  binary true s nw d a b (map2 fun x y => x ||| y)

/-- XOR (R121). -/
def execXorR (nw : Bool) (d : Dst) (a b : Src) (s : State) : Host.Outcome State Fault Refusal :=
  binary true s nw d a b (map2 fun x y => x ^^^ y)

/-- ANDN (R121). -/
def execAndn (nw : Bool) (d : Dst) (a b : Src) (s : State) : Host.Outcome State Fault Refusal :=
  binary true s nw d a b (map2 fun x y => x &&& ~~~y)

/-- ORN (R121). -/
def execOrn (nw : Bool) (d : Dst) (a b : Src) (s : State) : Host.Outcome State Fault Refusal :=
  binary true s nw d a b (map2 fun x y => x ||| ~~~y)

/-- XNOR (R121). -/
def execXnor (nw : Bool) (d : Dst) (a b : Src) (s : State) : Host.Outcome State Fault Refusal :=
  binary true s nw d a b (map2 fun x y => ~~~(x ^^^ y))

/-- SHL (R121, R26). -/
def execShl (nw : Bool) (d : Dst) (a b : Src) (s : State) : Host.Outcome State Fault Refusal :=
  binary true s nw d a b shlReg

/-- SHR (R121). -/
def execShr (nw : Bool) (d : Dst) (a b : Src) (s : State) : Host.Outcome State Fault Refusal :=
  binary true s nw d a b (map2 shrW)

/-- SAR (R121). -/
def execSar (nw : Bool) (d : Dst) (a b : Src) (s : State) : Host.Outcome State Fault Refusal :=
  binary true s nw d a b (map2 sarW)

/-- ROTL (R121). -/
def execRotl (nw : Bool) (d : Dst) (a b : Src) (s : State) : Host.Outcome State Fault Refusal :=
  binary true s nw d a b (map2 rotlW)

/-- CLZ (R121). -/
def execClz (nw : Bool) (d : Dst) (a : Src) (s : State) : Host.Outcome State Fault Refusal :=
  unary true s nw d a (map1 clzW)

/-- POPC (R121). -/
def execPopc (nw : Bool) (d : Dst) (a : Src) (s : State) : Host.Outcome State Fault Refusal :=
  unary true s nw d a (map1 popcW)

/-- BREV (R121). -/
def execBrev (nw : Bool) (d : Dst) (a : Src) (s : State) : Host.Outcome State Fault Refusal :=
  unary true s nw d a (map1 brevW)

/-- BFX.n (R122). -/
def execBfxN (nw : Bool) (d : Dst) (a b : Src) (s : State) : Host.Outcome State Fault Refusal :=
  binary true s nw d a b (map2 bfxnW)

/-- BFX.s (R122). -/
def execBfxS (nw : Bool) (d : Dst) (a b : Src) (s : State) : Host.Outcome State Fault Refusal :=
  binary true s nw d a b (map2 bfxsW)

/-- BFI (R122). -/
def execBfi (nw : Bool) (d : Dst) (a b : Src) (s : State) : Host.Outcome State Fault Refusal :=
  ternary true s nw d a b bfiW

/-! ## Immediates (R123, R124) -/

/-- ADDI (R123). -/
def execAddi (nw : Bool) (d : Dst) (a : Src) (imm : Nat) (s : State) : Host.Outcome State Fault Refusal :=
  immediate s nw d a imm (fun x i => addReg x (.u i))

/-- MULI (R123). -/
def execMuli (nw : Bool) (d : Dst) (a : Src) (imm : Nat) (s : State) : Host.Outcome State Fault Refusal :=
  immediate s nw d a imm (fun x i => mulReg x (.u i))

/-- ANDI (R123). -/
def execAndi (nw : Bool) (d : Dst) (a : Src) (imm : Nat) (s : State) : Host.Outcome State Fault Refusal :=
  immediate s nw d a imm (fun x i => map1 (fun a => a &&& i) x)

/-- ORI (R123). -/
def execOri (nw : Bool) (d : Dst) (a : Src) (imm : Nat) (s : State) : Host.Outcome State Fault Refusal :=
  immediate s nw d a imm (fun x i => map1 (fun a => a ||| i) x)

/-- XORI (R123). -/
def execXori (nw : Bool) (d : Dst) (a : Src) (imm : Nat) (s : State) : Host.Outcome State Fault Refusal :=
  immediate s nw d a imm (fun x i => map1 (fun a => a ^^^ i) x)

/-- SHI.SHL (R123). -/
def execShiShl (nw : Bool) (d : Dst) (a : Src) (amt : Nat) (s : State) : Host.Outcome State Fault Refusal :=
  shiftImm s nw d a amt (fun x i => shlReg x (.u i))

/-- SHI.SHR (R123). -/
def execShiShr (nw : Bool) (d : Dst) (a : Src) (amt : Nat) (s : State) : Host.Outcome State Fault Refusal :=
  shiftImm s nw d a amt (fun x i => map1 (fun a => shrW a i) x)

/-- SHI.SAR (R123). -/
def execShiSar (nw : Bool) (d : Dst) (a : Src) (amt : Nat) (s : State) : Host.Outcome State Fault Refusal :=
  shiftImm s nw d a amt (fun x i => map1 (fun a => sarW a i) x)

/-- SHI.ROTL (R123). -/
def execShiRotl (nw : Bool) (d : Dst) (a : Src) (amt : Nat) (s : State) : Host.Outcome State Fault Refusal :=
  shiftImm s nw d a amt (fun x i => map1 (fun a => rotlW a i) x)

/-- LI (R124): no register source, so it runs on the uniform path. -/
def execLi (nw : Bool) (d : Dst) (imm : Nat) (s : State) : Host.Outcome State Fault Refusal :=
  execute s { d := dstOp d, ext := .bits 14, cob := true } fun c => c.result s nw d true (.u (c.imm imm 18))

/-! ## Comparisons and selection -/

/-- CMP (R126). -/
def execCmp (cond pd : Nat) (a b : Src) (pc cmb : Nat) (s : State) : Host.Outcome State Fault Refusal :=
  execute s { a := srcOp a, b := srcOp b, cob := true } fun c =>
    .ok (compareTo s c (cmpCond cond) pd pc cmb (c.read .a a) (c.read .b b))

/-- CMPI (R126): it always sets PD. -/
def execCmpi (cond pd : Nat) (a : Src) (imm : Nat) (s : State) : Host.Outcome State Fault Refusal :=
  execute s { a := srcOp a, ext := .bits 20, cob := true } fun c =>
    .ok (compareTo s c (cmpCond cond) pd 0 0 (c.read .a a) (.u (c.imm imm 12)))

/-- FCMP (R127). -/
def execFcmp (cond pd : Nat) (a b : Src) (pc cmb : Nat) (s : State) : Host.Outcome State Fault Refusal :=
  execute s { a := srcOp a, b := srcOp b } fun c =>
    .ok (compareTo s c (fcmpCond cond) pd pc cmb (c.read .a a) (c.read .b b))

/-- The result of SEL under em: the chosen source with its own shape when the selector is equal in every lane of em, V
otherwise (R26, R132). -/
def selReg (em sel : Mask) (x y : Reg) : Reg :=
  if sel &&& em = em then x
  else if sel &&& em = 0#32 then y
  else vec fun l => if sel.getLsbD l then x.lane l else y.lane l

/-- SEL (R132): no effect under em zero, because no lane supplies the selector. -/
def execSel (nw : Bool) (d : Dst) (a b : Src) (p : Nat) (inv : Bool) (s : State) : Host.Outcome State Fault Refusal :=
  execute s { d := dstOp d, a := srcOp a, b := srcOp b, cob := true } fun c =>
    c.result s nw d false (selReg c.em (c.pred p inv) (c.read .a a) (c.read .b b))

end Sys2Proof.Machine
end

