-- ==== Sys2Proof/Machine/Boot.lean ====
section
/-!
DEFINITION. A program loaded from outside: the device runs nothing after reset until a host binds a context and places a
launch (log 2). `boot` is the state those events leave for the smallest launch: one context, one team of one warp, one
mapped page; `placeWord` puts a word where a split fetches next.
-/

namespace Sys2Proof.Machine

/-- The page of the boot context: readable, writable, executable, on stack 0. -/
def bootVa : Nat := 0x400000

/-- The launch record of the boot launch (R286). -/
def bootRecord : List Word :=
  ([bootVa, 0, 1 + 32, 1, 112, 64, 16 + 16 * 256 + 65536, 65536, 16, 8, 4].map fun n => BitVec.ofNat 32 n) ++
    List.replicate 21 0#32

/-- The boot context's page tables in home memory (R357, R358). -/
def bootTables (m : ByteMem) : ByteMem :=
  let w := fun (m : ByteMem) (a v : Nat) => memWrite m a (leBytes v 8)
  w (w (w m 0x10000 (1 + 2 * 65536)) 0x20000 (1 + 3 * 65536)) (0x30000 + 8 * 0x40)
    (1 + 2 + 8 + 16 + 32 + 2 * 1024 + 0x40 * 2 ^ 28)

/-- A context, launch, crew, team and warp beside what the state holds, with context number 0. -/
def boot (s : State) : State :=
  let x : Context :=
    { Context.reset with st := 1, asid := 0xFFFF, gen := 1, root := 0x10000, tvec := bootVa + 0x1000, pkr := 2 ^ 64 - 1
                         pmap := List.replicate 64 2#32, fring := bootVa + 0x2000, frlog := 6, grant := [1, 0, 0, 0]
                         harvest := s.fuses.harvest, spare := s.fuses.spare
                         scopetab := bootVa + 0x4000, voltab := bootVa + 0x5000, ftdesc := bootVa + 0x7000
                         ftbmap := bootVa + 0x7800 }
  let li := s.launches.length
  let ti := s.teams.length
  let ci := s.crews.length
  let l : Launch :=
    { ctx := 0, queue := 0, seq := 0, record := bootRecord, grp := false, st := .dispatched, teams := 1, halted := false
      dispatchAt := s.clk.ns, kept := [] }
  let s1 := { s with
    ctxs := s.ctxs.set 0 x
    mem := { s.mem with home := bootTables s.mem.home }
    launches := s.launches ++ [l]
    crews := s.crews ++ [{ launch := li, index := 0, cluster := 0, teams := [ti], begun := false, resident := false, queues := [], savedBanks := [], savedBad := [], image := 0 }]
    teams := s.teams ++ [{ Team.none0 with launch := li, tid := 0, crew := ci, core := 0, warps := 1, res := .waiting }] }
  let wi := s1.warps.length
  let s2 := bindTeam (bindCrewBanks s1 l ci [0] [31]) l li ti 0 (bootVa + 0x8040)
  { s2 with sched := { issue := some (wi, 0), tape := [], agenda := [], quiet := 0, turn := 0, late := false, differ := false } }

/-- The split chosen to issue can fetch where it stands. -/
def canFetch (s : State) : Bool :=
  match issuing s with
  | none => false
  | some c =>
    !c.hasXp && !rotationDue c.warp && decide (c.split.pc < 2 ^ 56) && s.sched.agenda.isEmpty && s.snap.hub.isEmpty && decide (s.sched.quiet < 15) &&
      match translate s (s.ctxOf c.warp) c.split.pc with
      | .leaf l => l.ex && decide (l.cls ≤ 2)
      | _ => false

/-- A word placed where the split chosen to issue fetches next. -/
def placeWord (s : State) (w : Nat) : State :=
  match issuing s with
  | none => s
  | some c =>
    let cx := s.ctxOf c.warp
    let s1 := homeStore s cx (leafAt s cx c.split.pc) c.split.pc (leBytes w 4)
    s1.mapCluster (clusterOf c.warp.core) fun k => { k with icache := [] }

end Sys2Proof.Machine
end

