-- ==== Sys2Proof/Machine/Control.lean ====
section
/-!
DEFINITION. Branches, divergence, exits, parking and barriers: BRA, BRD, CALL, JMPX, CTRL (spec 01 R37 to R40, 06 R156 to
R164).
-/

namespace Sys2Proof.Machine

/-! ## Where a branch leads -/

/-- An address `n` words from another. -/
def wordsFrom (pc : Nat) (n : Int) : Nat := modPow ((pc : Int) + 4 * n) 64

/-- The split moves to an address, with no register result. -/
def Iss.jump (c : Iss) (s : State) (pc : Nat) : State := c.retireTo s c.warp pc Latch.empty []

/-- The split moves on with a group switch (R22). -/
def Iss.switchTo (c : Iss) (s : State) (x : Warp) (pc : Nat) : State :=
  settle (s.mapWarp c.w fun _ => (x.retire c.sp pc Latch.empty [] s.clk.ns).groupSwitch c.sp) c.w c.sp

/-- BRA (R156). -/
def execBra (off : Nat) (s : State) : Host.Outcome State Fault Refusal :=
  execute s { ext := .none, cob := true } fun c => .ok (c.jump s (wordsFrom c.split.pc (sextN off 26)))

/-! ## BRD (R37, R39, R157) -/

/-- The taken lanes. -/
def Iss.taken (c : Iss) (p : Nat) (n : Bool) : Mask := c.em &&& c.pred p n

/-- The predicate divides em. -/
def Iss.divides (c : Iss) (p : Nat) (n : Bool) : Bool := c.taken p n != 0#32 && c.taken p n != c.em

/-- The target and the reconvergence address (R81). -/
def Iss.brdTarget (c : Iss) (tgt : Nat) : Nat :=
  wordsFrom c.split.pc (if c.hasXp then sextN (bitsN c.ext 10 11 * 2048 + tgt) 22 else sextN tgt 11)

/-- The reconvergence distance (R81). -/
def Iss.rcvDist (c : Iss) (rcv : Nat) : Nat := if c.hasXp then bitsN c.ext 0 10 * 2048 + rcv else rcv

/-- The other slot of a warp. -/
def otherSlot (sp : Nat) : Nat := 1 - sp

/-- Entries a division needs (R39). -/
def Iss.weltNeed (c : Iss) : Nat := if (c.warp.split? (otherSlot c.sp)).isSome then 2 else 1

/-- The division of a split (R37, R39): the join record, the two children, and what is suspended. Join record and suspended split
take the lowest free entries (log 52). -/
def Iss.divide (c : Iss) (s : State) (target reconv : Nat) (t : Mask) : State :=
  let q := c.split
  let o := otherSlot c.sp
  let j := (weltFree c.warp).headD 0
  let x1 := (c.warp.retire c.sp target Latch.empty [] s.clk.ns).groupSwitch c.sp
  match x1.split? c.sp with
  | none => s
  | some u =>
    let child : Split := { u with rcv := some reconv, join := some j, depth := q.depth + 1, since := s.clk.ns }
    let tk : Split := { child with entry := t, em := t }
    let ft : Split :=
      { child with pc := (q.pc + 4) % 2 ^ 64, entry := q.entry &&& ~~~t, em := q.em &&& ~~~t }
    let s1 := weltPut (s.mapWarp c.w fun _ => x1.setSplit c.sp (some tk)) c.w j
      (.join reconv q.rcv q.join q.depth false 0#32)
    let s2 :=
      match c.warp.split? o with
      | none => s1.mapWarp c.w fun x => x.setSplit o (some ft)
      | some other =>
        if other.depth ≤ q.depth + 1 then (suspendSplit s1 c.w o).mapWarp c.w fun x => x.setSplit o (some ft)
        else
          let i := (weltFree (s1.warps.getD c.w Warp.blank)).headD 0
          weltPut (s1.mapWarp c.w fun x => { x with weltOrder := x.weltOrder ++ [i] }) c.w i (.split ft)
    s2.run [.settle c.w c.sp, .settle c.w o]

/-- BRD (R37, R157): in supervisor mode and in the Cobbler a dividing BRD raises 0x01, before the checks of the prefix
(R90, R48, R312). -/
def execBrd (p : Nat) (n : Bool) (tgt rcv : Nat) (s : State) : Host.Outcome State Fault Refusal :=
  match issuing s with
  | none => .fault .noIssuingSplit
  | some c =>
    if c.divides p n && (c.warp.sup || c.warp.cobbler) then .next (raise s c { cause := 0x01 })
    else execute s { ext := .bits 21, cob := true, valued := true } fun c =>
      let reconv := wordsFrom c.split.pc (c.rcvDist rcv)
      if c.rcvDist rcv = 0 then trapU 0x02
      else if c.em = 0#32 then .ok (c.jump s reconv)
      else if c.taken p n = c.em then .ok (c.jump s (c.brdTarget tgt))
      else if c.taken p n = 0#32 then .ok (c.jump s (c.split.pc + 4))
      else if c.split.depth = 255 ∨ (weltFree c.warp).length < c.weltNeed then trapU 0x13
      else .ok (c.divide s (c.brdTarget tgt) reconv (c.taken p n))

/-! ## The prefix (R80, R82, R83) -/

/-- XP: its fields wait for the split's next word; after another XP it raises trap 0x02. -/
def execXp (ind xs ext : Nat) (s : State) : Host.Outcome State Fault Refusal :=
  execute s { ext := .none, cob := true } fun c =>
    .ok (s.mapWarp c.w fun x => x.mapSplit c.sp fun t =>
      { t with xp := some { ind := ind, xs := xs, ext := ext }, pc := (t.pc + 4) % 2 ^ 64 })

/-! ## Calls and jumps (R158, R159) -/

/-- A link written in full to the pair D, and a jump (R158). -/
def Iss.link (c : Iss) (s : State) (d pc : Nat) : State :=
  let r := (c.split.pc + 4) % 2 ^ 64
  let lo : Reg := .u (BitVec.ofNat 32 r)
  let hi : Reg := .u (BitVec.ofNat 32 (r / 2 ^ 32 % 2 ^ 24))
  let p0 := c.place .d d 0
  let p1 := c.place .d d 1
  let l : Latch := { res := lo, val := lo, dst := some p0, nw := false, em := c.em, full := true, lost := false }
  c.retireTo s (c.warp.fullWrites [(p0, lo), (p1, hi)]) pc l [p0, p1]

/-- CALL (R158). -/
def execCall (d imm : Nat) (s : State) : Host.Outcome State Fault Refusal :=
  execute s { d := pairOp d, ext := .bits 14 } fun c =>
    .ok (c.link s d (wordsFrom c.split.pc (if c.hasXp then sextN (c.ext * 2 ^ 18 + imm) 32 else sextN imm 18)))

/-- The target of a JMPX word (R159); one that breaks both conditions raises 0x09 (log 52). -/
def Iss.target (c : Iss) (a : Nat) : Except Trap Nat := do
  let t ← c.pairU .a a
  if t % 4 ≠ 0 then .error { cause := 0x09, val := .addrs (List.replicate 32 t) }
  else if 2 ^ 56 ≤ t then .error { cause := 0x1A, val := .addrs (List.replicate 32 t) }
  else return t

/-- BRX (R159). -/
def execBrx (a : Nat) (s : State) : Host.Outcome State Fault Refusal :=
  execute s { a := pairOp a, em0 := .always, valued := true } fun c => do
    let t ← c.target a
    return c.jump s t

/-- CALLX (R159): A is read before the link is written. -/
def execCallx (d a : Nat) (s : State) : Host.Outcome State Fault Refusal :=
  execute s { d := pairOp d, a := pairOp a, em0 := .always, valued := true } fun c => do
    let t ← c.target a
    return c.link s d t

/-- RET (R159). -/
def execRet (a : Nat) (s : State) : Host.Outcome State Fault Refusal :=
  execute s { a := pairOp a, em0 := .always, valued := true } fun c => do
    let t ← c.target a
    return c.jump s t

/-! ## Simple functions (R160) -/

/-- NOP (R160). -/
def execNop (s : State) : Host.Outcome State Fault Refusal :=
  execute s { cob := true } fun c => .ok (c.complete s c.warp)

/-- YIELD (R160): a group switch. -/
def execYield (s : State) : Host.Outcome State Fault Refusal :=
  execute s {} fun c => .ok (c.switchTo s c.warp (c.split.pc + 4))

/-- SLEEP (R160). -/
def execSleep (a : Src) (s : State) : Host.Outcome State Fault Refusal :=
  execute s { a := srcOp a, em0 := .always } fun c => do
    let v ← needU (c.read .a a)
    if v = 0 then return c.switchTo s c.warp (c.split.pc + 4)
    else return c.park s (.sleep (s.clk.cycle + v))

/-- WSYNC (R160): the split parks until WSYNC_DONE. -/
def execWsync (s : State) : Host.Outcome State Fault Refusal := execute s {} fun c => .ok (c.park s .wsync)

/-- PROG (R160). -/
def execProg (a : Src) (s : State) : Host.Outcome State Fault Refusal :=
  execute s { a := srcOp a, cob := true, em0 := .always } fun c => do
    let v ← needU (c.read .a a)
    return c.complete s { c.warp with progress := min (c.warp.progress + v) (2 ^ 32 - 1) }

/-- The context's debug flag. -/
def Iss.debug (c : Iss) (s : State) : Bool := bitsN (s.ctx (s.ctxOf c.warp)).flags 1 1 == 1

/-- BRK (R160, R412): the warp is held, and a record of kind 9 is posted. -/
def execBrk (s : State) : Host.Outcome State Fault Refusal :=
  execute s {} fun c =>
    if !c.debug s then .ok (c.complete s c.warp)
    else
      let s1 := postGroup s (s.ctxOf c.warp) [mkRecord (warpRec s c.warp 9 c.split.insnPc)]
      .ok ((c.switchTo s1 c.warp (c.split.pc + 4)).mapWarp c.w fun x =>
        { x with st := if x.st == .running then .held else x.st, stopAt := s.clk.ns })

/-- TRAP (R160). -/
def execTrap (code : Nat) (s : State) : Host.Outcome State Fault Refusal :=
  execute s {} fun _ => trapW (0x20 + code) code

/-! ## EXIT and BAR (R161 to R164) -/

/-- The barrier that another split of the warp is parked at: its BAR word's address and its index. -/
def Iss.siblingBar (c : Iss) : Option (Nat × Nat) :=
  ((seats c.warp).filterMap fun k =>
    if k == .slot c.sp then none
    else match seatPark c.warp k with
      | .bar pc idx _ _ => some (pc, idx)
      | _ => none).head?

/-- The warp without the lanes of em (R33, R161). -/
def Iss.leave (c : Iss) : Warp :=
  let y := c.warp.mapSplit c.sp fun t => { t with entry := t.entry &&& ~~~c.em, em := 0#32 }
  { y with live := y.live &&& ~~~c.em
           trap := if y.sup then { y.trap with savedEntry := y.trap.savedEntry &&& ~~~c.em } else y.trap }

/-- EXIT (R161): trap 0x11 while another split is parked at a BAR (R164). A split whose entry mask it empties has a group
switch, in a handler too (R22). -/
def execExit (s : State) : Host.Outcome State Fault Refusal :=
  execute s {} fun c =>
    match c.em == 0#32, c.siblingBar with
    | false, some b => trapW 0x11 b.2
    | _, _ =>
      let x := c.leave
      if x.live = 0#32 then
        .ok ((s.mapWarp c.w fun _ => x.retire c.sp (c.split.pc + 4) Latch.empty [] s.clk.ns).run [.warpEnd c.w])
      else if x.sup && c.split.entry &&& ~~~c.em == 0#32 then .ok (c.switchTo s x (c.split.pc + 4))
      else .ok (c.complete s x)

/-- A warp of the team is halted: its barriers are abandoned (R163). -/
def abandoned (s : State) (t : Nat) : Bool :=
  (teamWarps s t).any fun w =>
    match (s.warps.getD w Warp.blank).st with
    | .halted _ => true
    | _ => false

/-- Another warp of the team waits at the barrier (R298). -/
def Iss.companions (c : Iss) (s : State) (idx : Nat) : Bool :=
  (parkedSeats s fun x p =>
    match p with
    | .bar _ i _ _ => x.team == c.warp.team && x.wid != c.warp.wid && i == idx
    | _ => false) != []

/-- The split has reached a barrier: it parks, or is released at once when the barrier is abandoned (R162, R163). -/
def Iss.reachBar (c : Iss) (s : State) (pd idx : Nat) : State :=
  let s1 := if c.companions s idx then c.external s else s
  if abandoned s c.warp.team then c.switchTo s1 (c.warp.setPred c.em pd 0#32) (c.split.pc + 4)
  else c.park s1 (.bar c.split.pc idx pd s.clk.ns)

/-- BAR (R162 to R164): the split parks until BAR_COMPLETE. -/
def execBar (pd idx : Nat) (s : State) : Host.Outcome State Fault Refusal :=
  execute s {} fun c =>
    match c.siblingBar with
    | some b => if b.1 ≠ c.split.pc then trapW 0x11 b.2 else .ok (c.reachBar s pd idx)
    | none => .ok (c.reachBar s pd idx)

end Sys2Proof.Machine
end

