-- ==== Sys2Proof/Machine/Access.lean ====
section
/-!
DEFINITION. Memory accesses of lanes: addresses, the checks of R169 and their traps, and reading and writing bytes in
global, private and scratchpad space (spec 06 R167 to R173).
-/

namespace Sys2Proof.Machine

/-! ## Widths and values (R168) -/

def widthBytes (w : MemWidth) : Nat :=
  match w with
  | .n8 | .s8 => 1
  | .n16 | .s16 => 2
  | .w32 => 4
  | .w64 => 8
  | .w128 => 16

/-- Register `j` of a load of these bytes. -/
def loadWord (w : MemWidth) (bs : List Byte) (j : Nat) : Word :=
  match w with
  | .n8 | .n16 | .w32 => BitVec.ofNat 32 (leNat bs)
  | .s8 => BitVec.ofInt 32 (sextN (leNat bs) 8)
  | .s16 => BitVec.ofInt 32 (sextN (leNat bs) 16)
  | _ => BitVec.ofNat 32 (leNat ((bs.drop (4 * j)).take 4))

/-- The bytes lane `l` stores. -/
def Iss.storeData (c : Iss) (w : MemWidth) (d : StReg) (l : Nat) : List Byte :=
  match d with
  | .one x => leBytes ((c.read .d x).lane l).toNat (widthBytes w)
  | .group n => (List.range (regsOf w)).flatMap fun j => leBytes ((c.regAt .d n j).lane l).toNat 4

/-! ## Addresses (R167) -/

/-- Lane `l`'s value of the pair at a 6-bit field. -/
def Iss.pairLane (c : Iss) (a l : Nat) : Nat :=
  ((c.regAt .a (2 * a) 0).lane l).toNat + 2 ^ 32 * ((c.regAt .a (2 * a) 1).lane l).toNat

/-- The memory offset EXT carries. -/
def Iss.memOffset (c : Iss) : Int := sextN c.ext 21

/-- The address of a load or store in lane `l`. -/
def Iss.address (c : Iss) (a : Nat) (b : Src) (l : Nat) : Nat :=
  modPow ((c.pairLane a l : Int) + sextN ((c.read .b b).lane l).toNat 32 + c.memOffset) 64

/-- Address and offset are the same in every lane (R168). -/
def Iss.uniformAddress (c : Iss) (a : Nat) (b : Src) : Bool :=
  (c.regAt .a (2 * a) 0).isU && (c.regAt .a (2 * a) 1).isU && (c.read .b b).isU

/-- Where lane `l`'s private byte `o` lies (R170). -/
def privateAddr (x : Warp) (l o : Nat) : Nat := x.privBase + o / 4 * 128 + l * 4 + o % 4

/-- The memory a lane reaches through translation. -/
inductive Space where
  | global
  | priv
  deriving DecidableEq, Repr

/-- The addresses of the bytes of an access. -/
def Iss.byteAddrs (c : Iss) (k : Space) (width l a : Nat) : List Nat :=
  (List.range width).map fun i =>
    match k with
    | .global => a + i
    | .priv => privateAddr c.warp l (a + i)

/-! ## The checks (R169) -/

def Iss.cluster (c : Iss) : Nat := clusterOf c.warp.core

/-- The rights an access is checked against: those a line of L1 or L2 carries, else those of the translation. -/
def accessLeaf (s : State) (k cx va : Nat) : Walk :=
  match l1Line? s k cx (lineOf va) with
  | some x => .leaf x.leaf
  | none =>
    match s.l2Line? (s.asid cx) (lineOf va) with
    | some x => .leaf x.leaf
    | none => translate s cx va

/-- The leaf under which an access that passed its checks is performed. -/
def grantedLeaf (s : State) (k cx va : Nat) : Leaf :=
  match accessLeaf s k cx va with
  | .leaf l => l
  | _ => peerLeaf 0

/-- The earliest of two failed checks. -/
def earlier (a b : Option Nat) : Option Nat :=
  match a, b with
  | some x, some y => some (min x y)
  | none, y => y
  | x, none => x

/-- The first check that an access of a lane fails. -/
def Iss.firstFailure (c : Iss) (s : State) (k : Space) (kind : Access) (width : Nat) (l a : Nat) : Option Nat :=
  let cx := s.ctxOf c.warp
  if 2 ^ 56 ≤ (match k with | .global => a | .priv => privateAddr c.warp l a) then some 1
  else if a % width ≠ 0 then some 2
  else if k = .priv ∧ (s.launchOf c.warp).private_ < a + width then some 3
  else (c.byteAddrs k width l a).foldl (fun r va =>
    earlier r (leafCheck s cx c.warp.pkr kind va (accessLeaf s c.cluster cx va))) none

/-- The trap of an access: the first cause in the order of R169 that any lane raises, with the lanes that raise it and
their addresses. `post` is the state with the records of malformed entries (R359). -/
def Iss.laneTrap (c : Iss) (bad : Nat → Option Nat) (addr : Nat → Nat) (post : Nat → Mask → Option State) :
    Except Trap Unit :=
  match (lanesOf c.em).foldl (fun r l => earlier r (bad l)) none with
  | none => .ok ()
  | some n =>
    let lanes := maskWhere fun l => c.em.getLsbD l && bad l == some n
    .error { cause := checkCause n, val := .addrs ((List.range 32).map addr), lanes := some lanes, base := post n lanes }

/-- ACC of a record (R366); that of an atomic, which reads and writes at once, is 1 (log 55). -/
def Access.code (k : Access) : Nat :=
  match k with
  | .read => 0
  | .write => 1
  | .both => 1
  | .execute => 2

/-- What w96 and w97 hold of an address: an offset of private or scratchpad space is its low word, with 0 above (R169). -/
def Space.shown (k : Space) (a : Nat) : Nat :=
  match k with
  | .global => a
  | .priv => a % 2 ^ 32

/-- The checks of an access in every lane of em. -/
def Iss.checkAccess (c : Iss) (s : State) (k : Space) (kind : Access) (width : Nat) (addr : Nat → Nat) :
    Except Trap Unit :=
  c.laneTrap (fun l => c.firstFailure s k kind width l (addr l)) (fun l => k.shown (addr l)) fun n lanes =>
    if n = 4 then
      some (postMalformed s (s.ctxOf c.warp) ((lanesOf lanes).flatMap fun l => c.byteAddrs k width l (addr l))
        (whoIs s c.warp kind.code))
    else none

/-- The checks of a scratchpad access: alignment and bounds (R171). -/
def Iss.checkScratch (c : Iss) (s : State) (width : Nat) (addr : Nat → Nat) : Except Trap Unit :=
  let size := crewScratch s (s.crewNo c.warp)
  c.laneTrap (fun l => if addr l % width ≠ 0 then some 2 else if size < addr l + width then some 3 else none)
    (fun l => addr l % 2 ^ 32)
    fun _ _ => none

/-- The peer in recovery that an access waits for (check 8, R411); an L1 hit does not leave the cluster. -/
def remoteWait (s : State) (k cx va : Nat) : Option Nat :=
  match l1Line? s k cx (lineOf va), homeOf ((s.ctx cx).placement va) va with
  | none, .peer p => if s.fw.inRecovery.any fun r => r.peer == p then some p else none
  | _, _ => none

/-- Of the peers an access has waited for, with the first keep-alive of each: 30 s have passed since that of a peer (R411). -/
def lapsed (s : State) (kept : List (Nat × Nat)) (p : Nat) : Bool :=
  kept.any fun e => e.1 == p && decide (e.2 + 30000000000 ≤ s.clk.ns)

/-- The peers that accesses wait for, given as (lane, peer, address). -/
def peerWaits (es : List (Nat × Nat × Nat)) : List PeerWait :=
  (es.map fun e => e.2.1).eraseDups.map fun p =>
    let at_ := fun (l : Nat) => (es.find? fun e => e.1 == l && e.2.1 == p).map fun e => e.2.2
    { peer := p, since := none, lanes := maskWhere fun l => (at_ l).isSome, addrs := (List.range 32).map fun l => (at_ l).getD 0 }

/-- The split parks for the peers that its accesses wait for, each with its own count of keep-alives (R411); none when none waits. -/
def Iss.awaitPeers (c : Iss) (s : State) (es : List (Nat × Nat × Nat)) : Option State :=
  if es.isEmpty then none else some (c.park s (.domain (peerWaits es)))

/-- An access that waits for peers parks its split (R411). -/
def Iss.waitRemote (c : Iss) (s : State) (addr : Nat → Nat) (vas : Nat → List Nat) : Option State :=
  c.awaitPeers s ((lanesOf c.em).flatMap fun l =>
    (vas l).filterMap fun va => (remoteWait s c.cluster (s.ctxOf c.warp) va).map fun p => (l, p, addr l))

/-! ## Scopes (R255) -/

/-- The words of a driver entry that an operation latches. -/
def latchScope (s : State) (cluster cx n : Nat) : List Word := if n < 5 then [] else heldScope s cluster cx n

/-- The words that the instruction latched when it issued, if it has parked since. -/
def Iss.latched (c : Iss) : Option (List Word) := (c.split.held.bind Held.scope).map Prod.snd

/-- The scope that the instruction's index names: as it latched it, else as the cluster holds it. -/
def Iss.scopeAt (c : Iss) (s : State) (sc : Nat) : Scope :=
  match c.latched with
  | some ws => if sc < 5 then scopeOf s c.cluster (s.ctxOf c.warp) sc else scopeOfWords (s.ctx (s.ctxOf c.warp)) ws
  | none => scopeOf s c.cluster (s.ctxOf c.warp) sc

/-- The check of R255, made when the instruction issues. -/
def Iss.scopeOk (c : Iss) (s : State) (sc : Nat) : Bool := c.latched.isSome || (c.scopeAt s sc).usable

/-- The instruction's split with its latched entry, when it has parked where it stood. -/
def Split.latch (t : Split) (pc sc : Nat) (ws : List Word) : Split :=
  if t.pc == pc && t.park != .no then
    { t with held := t.held.map fun h => { h with scope := h.scope.orElse fun _ => some (sc, ws) } }
  else t

/-- What an instruction with a scope index comes to: one that parks keeps what it latched until it completes, whatever the driver
rewrites (R255, R389). -/
def latching (s : State) (sc : Nat) (o : Host.Outcome State Fault Refusal) : Host.Outcome State Fault Refusal :=
  match issuing s, o with
  | some c, .next t => .next (t.mapWarp c.w fun x => x.mapSplit c.sp fun q =>
      q.latch c.split.pc sc (latchScope s c.cluster (s.ctxOf c.warp) sc))
  | _, o => o

/-! ## Performing an access -/

/-- A list cut into pieces of `n`. -/
def pieces {α : Type} (n : Nat) (xs : List α) (k : Nat) : List (List α) :=
  (List.range k).map fun i => (xs.drop (n * i)).take n

/-- The bytes each lane of em loads, with their poison marks. -/
def Iss.loadLanes (c : Iss) (s : State) (h width : Nat) (vas : Nat → List Nat) : State × List (Nat × List (Byte × Bool)) :=
  let cx := s.ctxOf c.warp
  let ls := lanesOf c.em
  let r := loadBytes s c.cluster cx h (ls.flatMap fun l => (vas l).map fun va => (va, grantedLeaf s c.cluster cx va))
  (r.1, ls.zip (pieces width r.2 ls.length))

/-- The lanes store their bytes, in increasing lane order (R172). -/
def Iss.storeLanes (c : Iss) (s : State) (h : Nat) (vas : Nat → List Nat) (data : Nat → List Byte) : State :=
  let cx := s.ctxOf c.warp
  storeBytes s c.cluster cx h ((lanesOf c.em).flatMap fun l =>
    ((vas l).zip (data l)).map fun e => (e.1, grantedLeaf s c.cluster cx e.1, e.2))

/-- Lane `l`'s part of a list of lane results. -/
def laneOf {α : Type} (xs : List (Nat × α)) (l : Nat) (dflt : α) : α :=
  match xs.find? fun x => x.1 == l with
  | some x => x.2
  | none => dflt

/-- Poisoned lanes of a load: they halt the warp (R403). -/
def Iss.poisonTrap (_c : Iss) (addr : Nat → Nat) (bad : List Nat) : Except Trap Unit :=
  if bad.isEmpty then .ok ()
  else .error { cause := 0x15, val := .addrs ((List.range 32).map addr), lanes := some (maskWhere bad.contains) }

/-- The results of a load: register `j` of the destination. -/
def loadReg (w : MemWidth) (uniform : Bool) (vals : List (Nat × List Byte)) (j : Nat) : Reg :=
  if uniform then .u (loadWord w ((vals.headD (0, [])).2) j) else vec fun l => loadWord w (laneOf vals l []) j

/-- A load's results are written, or, when its data is late, remembered until LOAD_DATA_RETURN (R169). -/
def Iss.finishLoad (c : Iss) (s : State) (nw : Bool) (d : LdReg) (w : MemWidth) (f : Nat → Reg) : Res :=
  let ws : List (Option Place × Reg) :=
    match d with
    | .one d => [(c.dst d, f 0)]
    | .group n => (List.range (regsOf w)).map fun j => (some (c.place .d n j), f j)
  let kept := ws.filterMap fun e => e.1.map fun p => (p, e.2)
  if s.sched.late then do
    c.afford ws
    let slots := c.needs ws
    return (c.park s .data).mapWarp c.w fun x =>
      { x.mapSplit c.sp fun t => { t with late := some { writes := kept, nw := nw, slots := slots } } with
        free := x.free - slots, issued := if x.sup || x.counted c.sp then x.issued else x.issued + 1 }
  else
    match d with
    | .one d => c.result s nw d false (f 0)
    | .group _ => c.results s false kept

end Sys2Proof.Machine
end

