-- ==== Sys2Proof/Machine/Elem.lean ====
section
/-!
DEFINITION. Packed elements and the conversions engines perform (spec 04 R96, R102 to R105, R108, R110; 07 R201, R202).
-/

namespace Sys2Proof.Machine

/-! ## Elements in bytes (R96) -/

/-- The pattern of element `i` of a run whose byte `k` is `byte k`. -/
def elemAt (byte : Nat → Byte) (f : Fmt) (i : Nat) : Nat :=
  let w := f.width
  if w < 8 then (byte (i * w / 8)).toNat / 2 ^ (i * w % 8) % 2 ^ w
  else leNat ((List.range (w / 8)).map fun k => byte (i * w / 8 + k))

/-- The bytes from the first that element `i` lies in. -/
def elemSpan (f : Fmt) (i : Nat) : Nat × Nat := (i * f.width / 8, (f.width + 7) / 8)

/-- A write of some bits of a byte: its offset, the bits, their value. -/
structure BitWrite where
  off : Nat
  mask : Nat
  val : Nat
  deriving DecidableEq, Repr

/-- The writes of a pattern as element `i`. -/
def elemWrite (f : Fmt) (i p : Nat) : List BitWrite :=
  let w := f.width
  if w < 8 then [⟨i * w / 8, (2 ^ w - 1) * 2 ^ (i * w % 8), p % 2 ^ w * 2 ^ (i * w % 8)⟩]
  else (List.range (w / 8)).map fun k => ⟨i * w / 8 + k, 255, p / 256 ^ k % 256⟩

/-- The byte after the writes to it, in order. -/
def mergeByte (old : Byte) (ws : List BitWrite) : Byte :=
  BitVec.ofNat 8 (ws.foldl (fun b w => (b &&& (255 - w.mask)) ||| w.val) old.toNat)

/-- The offsets some writes touch, each once. -/
def touched (ws : List BitWrite) : List Nat := (ws.map BitWrite.off).eraseDups

/-- The bytes some writes leave, given what stood there. -/
def mergeBytes (old : Nat → Byte) (ws : List BitWrite) : List (Nat × Byte) :=
  (touched ws).map fun o => (o, mergeByte (old o) (ws.filter fun w => w.off == o))

/-- The bytes that `n` elements fill. -/
def runBytes (f : Fmt) (n : Nat) : Nat := (n * f.width + 7) / 8

/-! ## Sums and the Hadamard transform (R108) -/

def exSum (xs : List Ex) : Ex :=
  match xs with
  | [] => .fin false 0 1
  | x :: t => t.foldl Ex.add x

/-- The parity of the set bits of a number below 32. -/
def oddBits (n : Nat) : Bool := (bitsN n 0 1 + bitsN n 1 1 + bitsN n 2 1 + bitsN n 3 1 + bitsN n 4 1) % 2 == 1

/-- Element `i` of the transform of a block; an element that is not there is zero-filled, and so a +0 term. -/
def hadamardAt (n : Nat) (x : Nat → Option Ex) (i : Nat) : Ex :=
  exSum ((List.range n).map fun j =>
    match x j with
    | some v => if oddBits (i &&& j) then v.neg else v
    | none => .fin false 0 1)

/-- H16 or H32 of a HAD field; 0 for none. -/
def hadSize (h : Nat) : Nat := if h = 1 then 16 else if h = 2 then 32 else 0

/-! ## Engine conversions (R104, R105) -/

/-- The generator after `n` steps. -/
def srngAfter (seed : Word) : Nat → Word
  | 0 => seed
  | n + 1 => srngStep (srngAfter seed n)

/-- A value scaled and rounded once; `grid` is the source grid of the unscaled value, `pos` the element's place in the
order in which the generator steps. -/
def engineRound (dst : Fmt) (rnd : Nat) (seed : Word) (pos : Nat) (x : Ex) (scale : Int) (grid : Option Int)
    (satf : Bool) : Nat :=
  let r := if rnd = 5 then Rnd.sr (srngAfter seed (pos + 1)).toNat (grid.map (· + scale)) else rndOf rnd
  dst.round (x.scale2 scale) r satf

/-- A conversion of a box as R201 describes it: the source values (none: outside the valid extent), whether those outside are
zero-filled, and how the values become patterns. -/
structure Box where
  rows : Nat
  cols : Nat
  x : Nat → Nat → Option Ex
  zf : Bool
  src : Fmt
  dst : Fmt
  rnd : Nat
  had : Nat
  scale : Int
  trn : Bool
  satf : Bool
  seed : Word

/-- The value at (r, c) after the Hadamard option, and its source grid. -/
def Box.value (b : Box) (r c : Nat) : Option (Ex × Option Int) :=
  let n := hadSize b.had
  if n ≠ 0 then some (hadamardAt n (fun j => b.x r (c / n * n + j)) (c % n), none)
  else match b.x r c with
    | some x => some (x, b.src.grid x)
    | none => if b.zf then some (.fin false 0 1, b.src.grid (.fin false 0 1)) else none

/-- Rows and columns of the destination. -/
def Box.dRows (b : Box) : Nat := if b.trn then b.cols else b.rows
def Box.dCols (b : Box) : Nat := if b.trn then b.rows else b.cols

/-- The destination elements that are not absent, in row-major order. -/
def Box.places (b : Box) : List (Nat × Nat) :=
  (List.range b.dRows).flatMap fun dr => (List.range b.dCols).filterMap fun dc =>
    let v := if b.trn then b.value dc dr else b.value dr dc
    if v.isSome then some (dr, dc) else none

/-- The destination elements and their patterns. -/
def Box.results (b : Box) : List (Nat × Nat × Nat) :=
  b.places.zipIdx.filterMap fun e =>
    let dr := e.1.1
    let dc := e.1.2
    (if b.trn then b.value dc dr else b.value dr dc).map fun v =>
      (dr, dc, engineRound b.dst b.rnd b.seed e.2 v.1 b.scale v.2 b.satf)

/-! ## N:48 masks (R110) -/

def maskAt (byte : Nat → Byte) (off : Nat) : Nat := leNat ((List.range 6).map fun k => byte (off + k))

/-- Set bits of a mask below bit `n`. -/
def rankBelow (m n : Nat) : Nat := ((List.range n).filter fun j => bitsN m j 1 == 1).length

end Sys2Proof.Machine
end

