-- ==== Sys2Proof/Machine/Engine.lean ====
section
/-!
DEFINITION. The checks that engine instructions share (spec 07 R183).
-/

namespace Sys2Proof.Machine

/-- em must equal the live mask (trap 0x08). -/
def Iss.whole (c : Iss) : Except Trap Unit := if c.em = c.live then .ok () else trapW 0x08 c.live.toNat

/-- A source that must be U. -/
def Iss.needSrc (c : Iss) (f : Fld) (x : Src) : Except Trap Nat := needU (c.read f x)

/-- An operand value outside its range (trap 0x02). -/
def inRange (ok : Bool) (v : Nat) : Except Trap Unit := if ok then .ok () else trapW 0x02 v

/-- A launch resource the team or crew does not have (trap 0x0B). -/
def hasResource (n bound v : Nat) : Except Trap Unit := if n < bound then .ok () else trapW 0x0B v

end Sys2Proof.Machine
end

