-- ==== Sys2Proof/Machine/Rows.lean ====
section
/-!
DEFINITION. Rows of bytes that engines read and write in global memory and in the scratchpad, their checks and traps, and
tiles as bytes (spec 07 R202, R203, R209, R211, R212, R221; 12 R316).
-/

namespace Sys2Proof.Machine

/-! ## Who accesses -/

/-- What an access of an engine is made for: the team's core, its crew and context, and the sy.pkr it is checked under. -/
structure Agent where
  core : Nat
  crew : Nat
  ctx : Nat
  pkr : Nat
  deriving DecidableEq, Repr

def Agent.cluster (g : Agent) : Nat := clusterOf g.core

def Iss.agent (c : Iss) (s : State) : Agent :=
  { core := c.warp.core, crew := s.crewNo c.warp, ctx := s.ctxOf c.warp, pkr := c.warp.pkr }

/-- The word of sy.srng that seeds an engine (R105). -/
def Iss.seed (c : Iss) : Word := c.warp.srng.getD c.first 0#32

/-! ## Checks (R211) -/

/-- The first address of each part of a run that lies in one line. -/
def lineParts (a n : Nat) : List Nat :=
  if n = 0 then []
  else a :: (((List.range ((a % 128 + n + 127) / 128)).map fun i => lineOf a + 128 * i).filter fun x => decide (a < x))

/-- The first check of R169 that a run fails; `spad`: a scratchpad offset. -/
def Agent.failure (g : Agent) (s : State) (spad : Bool) (kind : Access) (a n : Nat) : Option Nat :=
  if n = 0 then none
  else if spad then (if crewScratch s g.crew < a + n then some 3 else none)
  else if 2 ^ 56 < a + n then some 1
  else (lineParts a n).foldl (fun r va =>
    earlier r (leafCheck s g.ctx g.pkr kind va (accessLeaf s g.cluster g.ctx va))) none

/-- Of some rows, the earliest check that any fails, with the address of the first row that fails it. -/
def worstRow (rows : List (Nat × Option Nat)) : Option (Nat × Nat) :=
  match rows.foldl (fun r e => earlier r e.2) none with
  | none => none
  | some n => (rows.find? fun e => e.2 == some n).map fun e => (n, e.1)

/-- A trap with one address for every lane of em. -/
def addrTrap (cause a : Nat) (base : Option State) : Trap :=
  { cause := cause, val := .addrs (List.replicate 32 a), base := base }

/-- Every row passes its checks (R211, R221). -/
def Iss.checkRows (c : Iss) (s : State) (spad : Bool) (kind : Access) (rows : List (Nat × Nat)) : Except Trap Unit :=
  let g := c.agent s
  match worstRow (rows.map fun r => (r.1, g.failure s spad kind r.1 r.2)) with
  | none => .ok ()
  | some (n, a) =>
    .error (addrTrap (checkCause n) a
      (if n = 4 then some (postMalformed s g.ctx (rows.flatMap fun r => lineParts r.1 r.2)
        (whoIs s c.warp kind.code)) else none))

/-- An engine access of the warp that waits for peers in recovery parks the split, with the address of the first row that waits
for each (R211, R411). -/
def Iss.waitRows (c : Iss) (s : State) (spad : Bool) (rows : List (Nat × Nat)) : Option State :=
  if spad then none
  else
    c.awaitPeers s (rows.flatMap fun r => (lineParts r.1 r.2).flatMap fun va =>
      match remoteWait s c.cluster (s.ctxOf c.warp) va with
      | some p => (lanesOf c.em).map fun l => (l, p, r.1)
      | none => [])

/-! ## Reading and writing -/

/-- Bytes read through the cluster L1, or from the scratchpad, with their poison marks. -/
def Agent.read (g : Agent) (s : State) (spad : Bool) (as : List Nat) : State × List (Byte × Bool) :=
  if spad then (s, as.map fun a => (scratchByte s g.crew a, scratchBad s g.crew a))
  else loadBytes s g.cluster g.ctx 0 (as.map fun a => (a, grantedLeaf s g.cluster g.ctx a))

/-- Bytes stored through the cluster L1, or to the scratchpad. -/
def Agent.store (g : Agent) (s : State) (spad : Bool) (ws : List (Nat × Byte)) : State :=
  if spad then scratchPut s g.crew ws
  else storeBytes s g.cluster g.ctx 0 (ws.map fun w => (w.1, grantedLeaf s g.cluster g.ctx w.1, w.2))

/-- Writes of bits stored as bytes: a byte that is not owned whole is read first (R202). -/
def Agent.storeBits (g : Agent) (s : State) (spad : Bool) (ws : List BitWrite) : State :=
  let r := g.read s spad (touched ws)
  let old := fun a => laneOf ((touched ws).zip (r.2.map Prod.fst)) a 0#8
  g.store r.1 spad (mergeBytes old ws)

/-- Writes at the home of one line, after the issuing cluster's copy of the line has gone home (R203, R316). -/
def Agent.landLine (g : Agent) (ws : List BitWrite) (s : State) (line : Nat) : State :=
  let l := grantedLeaf s g.cluster g.ctx line
  let s1 := flushLine s g.cluster g.ctx line
  let x := (homeLine s1 g.ctx l line).1
  let mine := mergeBytes (fun a => x.getD (a % 128) 0#8) (ws.filter fun w => lineOf w.off == line)
  agentWrite s1 g.ctx l line (mine.map fun w => (w.1 % 128, w.2))

/-- Writes of bits at their homes, or in the scratchpad. -/
def Agent.land (g : Agent) (s : State) (spad : Bool) (ws : List BitWrite) : State :=
  if spad then scratchPut s g.crew (mergeBytes (scratchByte s g.crew) ws)
  else (linesOf (ws.map BitWrite.off)).foldl (g.landLine ws) s

/-! ## Tiles as bytes (R209) -/

def Tile.byte (t : Tile) (i : Nat) : Byte := t.data.getD i 0#8

/-- A list of bytes, zeros beyond it, with a run of bytes put at an offset. -/
def putRun (xs : List Byte) (a : Nat) (bs : List Byte) : List Byte :=
  (xs ++ List.replicate (a - xs.length) 0#8).take a ++ bs ++ xs.drop (a + bs.length)

def Tile.put (t : Tile) (ws : List (Nat × Byte)) : Tile :=
  { t with data := ws.foldl (fun xs w => putRun xs w.1 [w.2]) t.data }

/-- Some bits written, element by element. -/
def Tile.putBits (t : Tile) (ws : List BitWrite) : Tile := t.put (mergeBytes t.byte ws)

/-- Some writes cover every byte of the tile's rows. -/
def Tile.covered (t : Tile) (ws : List BitWrite) : Bool :=
  (List.range (t.rows * t.rowb)).all fun o => (ws.filter fun w => w.off == o).foldl (fun m w => m ||| w.mask) 0 == 255

/-- Some bits written; the tile is whole again when every byte of it was (R403). -/
def Tile.overwrite (t : Tile) (ws : List BitWrite) : Tile := { t.putBits ws with poison := t.poison && !t.covered ws }

def Tile.configured (t : Tile) : Bool := t.rows != 0

/-- The format of a tile or a control word; code F names none. -/
def fmtCode (n : Nat) : Fmt := (fmtOf n).getD (.int true 32)

/-- Logical K of a dense tile, and of an N:48 one (R209). -/
def Tile.k (t : Tile) : Nat :=
  let n := t.rowb * 8 / (fmtCode t.fmt).width
  if t.nkeep = 0 then n else n * 48 / t.nkeep

/-- Element `i` as stored in row `r`. -/
def Tile.stored (t : Tile) (r i : Nat) : Nat := elemAt (fun b => t.byte (r * t.rowb + b)) (fmtCode t.fmt) i

/-- A tile attached by a five-bit field. -/
def attached (f : Nat) : Option Nat := if bitsN f 4 1 = 1 then some (bitsN f 0 4) else none

/-! ## The team's tiles and array (R212) -/

def Iss.team (c : Iss) (s : State) : Team := s.team c.warp.team
def Team.tile (t : Team) (n : Nat) : Tile := t.tiles.getD n Tile.blank
def Team.acc (t : Team) (n : Nat) : Acc := t.accs.getD n Acc.blank

def State.mapTile (s : State) (team n : Nat) (f : Tile → Tile) : State :=
  s.mapTeam team fun t => { t with tiles := updAt t.tiles n f }

def State.mapAcc (s : State) (team n : Nat) (f : Acc → Acc) : State :=
  s.mapTeam team fun t => { t with accs := updAt t.accs n f }

/-- The tiles an operation reads: its operands and what is attached to them. -/
def Team.opTiles (t : Team) (o : MatOp) : List Nat :=
  [o.ta, o.tb] ++ ([(t.tile o.ta).sct, (t.tile o.ta).mdt, (t.tile o.tb).sct, (t.tile o.tb).mdt].filterMap attached)

/-- The array has still to read a tile. -/
def Team.arrayReads (t : Team) (n : Nat) : Bool := t.ops.any fun o => (t.opTiles o).contains n

/-- An operation of the array waits while an operand is landing. -/
def Team.landWait (t : Team) (n : Nat) : Bool := (t.tile n).land

/-- Another instruction that reads a tile's data waits also until the array has read it (R94). -/
def Team.readWait (t : Team) (n : Nat) : Bool := (t.tile n).land || t.arrayReads n

/-- An instruction that writes a tile's data or control waits also for the array. -/
def Team.writeWait (t : Team) (n : Nat) : Bool := (t.tile n).land || t.arrayReads n

/-- An instruction of an accumulator waits for the operations already accepted on it (R92). -/
def Team.accWait (t : Team) (n : Nat) : Bool := t.ops.any fun o => o.acc == n

/-- The team's splits that wait for tiles or the array issue again. -/
def wakeArray (s : State) (team : Nat) : State :=
  (parkedSeats s fun x p => x.team == team && p == .array).foldl (fun s e => wakeAt s e.1 e.2) s

/-- A tile field: one of the team's tiles. -/
def Iss.tileField (c : Iss) (s : State) (n : Nat) : Except Trap Unit := hasResource n (c.team s).tiles.length n

/-- Poisoned data read from a tile or accumulator halts the warp (R403). -/
def noPoison (b : Bool) : Except Trap Unit := if b then .error { cause := 0x15 } else .ok ()

/-- A tile that is not configured, or in a state that does not fit (trap 0x17). -/
def tileFits (ok : Bool) (n : Nat) : Except Trap Unit := if ok then .ok () else trapW 0x17 n

/-- Tiles that do not fit: trap 0x17 names one of them, and which is open (log 25). -/
def tilesFit (s : State) (bad : List Nat) : Except Trap Unit :=
  match bad with
  | [] => .ok ()
  | n :: _ => trapW 0x17 (bad.getD (Config.choice s.clk.tick 210 % bad.length) n)

/-- The tiles of a pair that lack a property, or both when a relation of the two fails. -/
def unfit (x y : Nat) (okX okY both : Bool) : List Nat :=
  if okX && okY then (if both then [] else [x, y]) else (if okX then [] else [x]) ++ (if okY then [] else [y])

/-- Body of an engine instruction that waits for tiles or accumulators first. -/
def Iss.after (c : Iss) (s : State) (wait : Bool) (body : Res) : Res := if wait then .ok (c.park s .array) else body

end Sys2Proof.Machine
end

