-- ==== Sys2Proof/Machine/Launch.lean ====
section
/-!
DEFINITION. Launches from the device: LAUNCH, LAUNCHG, LWAIT, LQRY (spec 08 R249, R250; 20 R376 to R378).
-/

namespace Sys2Proof.Machine

def Context.queue (x : Context) (q : Nat) : LQueue := x.queues.getD q LQueue.reset

def State.mapLQueue (s : State) (c q : Nat) (f : LQueue → LQueue) : State :=
  s.mapCtx c fun x => { x with queues := updAt x.queues q f }

/-- The address of a queue's descriptor, and of record `n` of its ring (R376, R377). -/
def queueDesc (x : Context) (q : Nat) : Nat := x.lqbase + 32 * q
def LQueue.slot (k : LQueue) (n : Nat) : Nat := k.ring + 128 * (n % 2 ^ k.logsz)

/-- The queue is full: TAIL − HEAD = 2^LOGSZ (R378). -/
def LQueue.full (k : LQueue) : Bool := (k.tail + 2 ^ 32 - k.head) % 2 ^ 32 == 2 ^ k.logsz

/-- A queue becomes non-empty: its ageing starts (R383). -/
def LQueue.begin_ (k : LQueue) (ns : Nat) : LQueue :=
  if k.nonEmptyAt.isSome then k else { k with eff := k.prio, timer := ns, nonEmptyAt := some ns }

/-- A record joins a queue: TAIL, in the firmware and in the descriptor, and the launch that waits (R377, R378). -/
def enqueue (s : State) (c q : Nat) : State :=
  let k := (s.ctx c).queue q
  let tail := (k.tail + 1) % 2 ^ 32
  let l : Launch :=
    { ctx := c, queue := q, seq := k.tail, record := List.replicate 32 0#32, grp := false, st := .queued, teams := 0
      halted := false, dispatchAt := 0, kept := [] }
  let still := (s.ctx c).st == 2 || (s.ctx c).suspendBy.isSome
  let s1 := s.mapLQueue c q fun k => { (if still then k else k.begin_ s.clk.ns) with tail := tail, wrapped := k.wrapped || tail == 0 }
  let s2 := ctxPut s1 c (queueDesc (s.ctx c) q + 16) [BitVec.ofNat 32 tail]
  { s2 with launches := s2.launches ++ [l] }

/-- LAUNCH and LAUNCHG (R249). -/
def launch (s : State) (d a : Nat) (b : Src) (grp : Bool) : Host.Outcome State Fault Refusal :=
  execute s { d := pairOp d, a := pairOp a, b := srcOp b, compared := true } fun c => do
    c.whole
    let addr ← c.pairU .a a
    let q ← c.needSrc .b b
    inRange (decide (q < 64)) q
    let cx := s.ctxOf c.warp
    let k := (s.ctx cx).queue q
    if !(k.en && k.dev) then trapW 0x0B q
    else do
      if addr % 128 ≠ 0 then .error (addrTrap 0x09 addr none) else .ok ()
      c.checkRows s false .read [(addr, 128)]
      match c.waitRows s false [(addr, 128)] with
      | some t => return t
      | none =>
        if c.warp.accessOpen (.slot c.sp) then return c.park s .older
        else
          let s1 := releaseDevice s c.cluster cx 2
          let r := loadBytes s1 c.cluster cx 0 ((List.range 128).map fun i => (addr + i, grantedLeaf s1 c.cluster cx (addr + i)))
          c.poisonTrap (fun _ => addr) (if r.2.any Prod.snd then lanesOf c.em else [])
          if k.full then c.pairResult (c.external r.1) d 1#32 0#32
          else
            let word := fun i => leNat (((r.2.map Prod.fst).drop (4 * i)).take 4)
            let rec_ : List Word := (List.range 32).map fun i =>
              BitVec.ofNat 32 (if i = 2 then setBits (word 2) 10 1 (if grp then 1 else 0) else word i)
            let s2 := enqueue (ctxPut r.1 cx (k.slot k.tail) rec_) cx q
            c.pairResult (c.external s2) d 0#32 (BitVec.ofNat 32 (q + 64 * (k.tail % 2 ^ 26)))

/-- LAUNCH. -/
def execLaunch (d a : Nat) (b : Src) (s : State) : Host.Outcome State Fault Refusal := launch s d a b false

/-- LAUNCHG: the copy is marked as grouped. -/
def execLaunchg (d a : Nat) (b : Src) (s : State) : Host.Outcome State Fault Refusal := launch s d a b true

/-! ## Waiting for a launch (R250) -/

/-- The newest launch of a context with a handle. -/
def launchBy (s : State) (c handle : Nat) : Option Nat :=
  ((List.range s.launches.length).filter fun i => (s.launch i).ctx == c && (s.launch i).handle == handle).getLast?

/-- The code of a handle, whose 26-bit sequence is that of a launch `age` before the queue's next one. -/
def launchCode (s : State) (c handle : Nat) : Nat :=
  let n := handle / 64
  let k := (s.ctx c).queue (handle % 64)
  let age := (k.tail + 2 ^ 26 - n) % 2 ^ 26
  if !k.wrapped ∧ k.tail ≤ n then 6
  else if age = 0 ∨ 4096 < age then 5
  else match launchBy s c handle with
    | none => 6
    | some i =>
      match (s.launch i).st with
      | .ended code => code
      | _ => 4

/-- The code is written; codes 0 to 3 are an acquire at scope index 2. -/
def Iss.answerLaunch (c : Iss) (s : State) (d : Option Place) (code : Nat) : Res :=
  let s1 := if code ≤ 3 then acquire s c.cluster (scopeOf s c.cluster (s.ctxOf c.warp) 2) else s
  c.resultAt s1 id false d true (.u (BitVec.ofNat 32 code))

/-- LWAIT: it parks while the code is 4, for value(B) cycles. -/
def execLwait (d : Dst) (a b : Src) (s : State) : Host.Outcome State Fault Refusal :=
  execute s { d := dstOp d, a := srcOp a, b := srcOp b } fun c => do
    c.whole
    let h ← c.needSrc .a a
    let t ← c.needSrc .b b
    let code := launchCode s (s.ctxOf c.warp) h
    if code ≠ 4 ∨ t = 0 then c.answerLaunch s (c.dst d) code
    else return c.park s (.lwait (c.dst d) h (if t = 0xFFFFFFFF then none else some (s.clk.cycle + t)))

/-- LQRY. -/
def execLqry (d : Dst) (a : Src) (s : State) : Host.Outcome State Fault Refusal :=
  execute s { d := dstOp d, a := srcOp a } fun c => do
    c.whole
    let h ← c.needSrc .a a
    c.answerLaunch s (c.dst d) (launchCode s (s.ctxOf c.warp) h)

/-- LWAIT_TIMEOUT: a parked LWAIT returns 4. -/
def execLwaitTimeout (w sp : Nat) (s : State) : Host.Outcome State Fault Refusal :=
  match seatPark (s.warps.getD w Warp.blank) (seatOf sp) with
  | .lwait d _ (some t) => event s (decide (t ≤ s.clk.cycle)) (carryAt s w (seatOf sp) fun s c => c.answerLaunch s d 4)
  | _ => event s false s

/-- Parked LWAITs whose launch has ended by now resume. -/
def wakeLwaits (s : State) : State :=
  (parkedSeats s fun x p =>
    match p with
    | .lwait _ h _ => launchCode s (s.ctxOf x) h != 4
    | _ => false).foldl (fun s e =>
      match seatPark (s.warps.getD e.1 Warp.blank) e.2 with
      | .lwait d h _ => carryAt s e.1 e.2 fun s c => c.answerLaunch s d (launchCode s (s.ctxOf c.warp) h)
      | _ => s) s

end Sys2Proof.Machine
end

