-- ==== Sys2Proof/Machine/Place.lean ====
section
/-!
DEFINITION. Taking a launch record: its validation, the teams it makes and where they go (spec 11 R285 to R291, R300; 14
R332; 20 R376 to R378, R383).
-/

namespace Sys2Proof.Machine

/-! ## The record (R286, R288) -/

def Launch.place (l : Launch) : Nat := bitsN (l.word 2) 11 3
def Launch.parg (l : Launch) : Nat := bitsN (l.word 2) 16 8
def Launch.gcnt (l : Launch) : Nat := bitsN (l.word 15) 0 16
def Launch.gtile (l : Launch) : Nat := bitsN (l.word 15) 16 16
def Launch.growsAt (l : Launch) : Nat := l.word 16 + 2 ^ 32 * bitsN (l.word 17) 0 24
def Launch.plist (l : Launch) : Nat := l.word 18 + 2 ^ 32 * bitsN (l.word 19) 0 24
def Launch.plen (l : Launch) : Nat := bitsN (l.word 20) 0 24
/-- The GRP bit of the record. -/
def Launch.grpBit (l : Launch) : Bool := bitsN (l.word 2) 10 1 == 1

/-- The zero fields of a record, as (word, lowest bit, bits). -/
def zeroFields : List (Nat × Nat × Nat) :=
  [(1, 24, 8), (2, 14, 2), (2, 24, 8), (3, 24, 8), (4, 11, 21), (5, 12, 20), (6, 5, 3), (6, 13, 3), (6, 22, 10), (7, 22, 10),
    (8, 12, 20), (9, 16, 16), (10, 17, 15), (14, 24, 8), (17, 24, 8), (19, 24, 8), (20, 24, 8), (21, 0, 32), (23, 24, 8)] ++
  (List.range 8).map fun i => (24 + i, 0, 32)

def between (lo n hi : Nat) : Bool := decide (lo ≤ n) && decide (n ≤ hi)

/-- The greatest PARG of a placement. -/
def pargMax (place : Nat) : Nat :=
  match place with
  | 1 => 11
  | 2 => 3
  | _ => 0

/-- Every field lies in its range (the first case of R288). GROWS and PLIST are held to their alignment only where the record uses
them (log 55). -/
def recordRanges (l : Launch) : Bool :=
  zeroFields.all (fun z => bitsN (l.word z.1) z.2.1 z.2.2 == 0) &&
  l.entry % 4 == 0 && between 1 l.warps 31 && between 1 l.tpc 4 && between 0 l.place 3 && between 0 l.parg (pargMax l.place) &&
  (l.grpBit || decide (1 ≤ bitsN (l.word 3) 0 24)) && between 112 l.regs 1024 && l.regs % 8 == 0 && between 0 l.vfloor 2048 &&
  between 0 l.tiles 16 && between 0 l.queues 16 && between 0 l.fifob 32 && between 0 l.scratch 2097152 && l.scratch % 16 == 0 &&
  between 0 l.bobjs 4095 && decide (8 ≤ l.welt) && between 0 l.private_ 65536 && l.private_ % 4 == 0 && l.done % 4 == 0 &&
  (!l.grpBit || decide (1 ≤ l.gcnt) && decide (1 ≤ l.gtile) && l.growsAt % 4 == 0) && (l.place != 3 || l.plist % 2 == 0)

/-- The relations between fields (the next three cases). -/
def recordSums (l : Launch) : Bool :=
  decide (l.warps * l.regs ≤ 4096) && decide (l.warps * l.vfloor ≤ 2048) &&
  decide (l.scratch ≤ (32 - l.fifob) * 65536) && decide (16 * l.bobjs ≤ l.scratch) && (l.queues == 0 || l.fifob != 0)

/-! ## What the firmware reads in the context (R288) -/

/-- The first address of each granule of 4 KiB of a run: each has a home of its own (R354). -/
def granules (a n : Nat) : List Nat :=
  if n = 0 then []
  else a :: (((List.range ((a % 4096 + n + 4095) / 4096)).map fun i => (a / 4096 + i) * 4096).filter fun x => decide (a < x))

/-- The peers in recovery that a run of the firmware has parts on. -/
def firmPeers (s : State) (c a n : Nat) : List Nat :=
  (granules a n).filterMap fun va =>
    match homeOf ((s.ctx c).placement va) va with
    | .peer p => if s.fw.inRecovery.any fun r => r.peer == p then some p else none
    | _ => none

/-- The firmware can read a run as a load by a warp of the context would; `kept`: of the peers it has waited for (check 8, R411). -/
def firmReadable (s : State) (c : Nat) (kept : List (Nat × Nat)) (a n : Nat) : Bool :=
  decide (a + n ≤ 2 ^ 56) && !((firmPeers s c a n).any (lapsed s kept)) &&
    (granules a n).all fun va => (leafCheck s c (s.ctx c).pkr .read va (translate s c va)).isNone

def firmBytes (s : State) (c a n : Nat) : List Byte :=
  (List.range n).map fun i => homeByte s c (leafAt s c (a + i)) (a + i)

/-- Values of `w` bytes, `n` of them, at an address. -/
def firmNats (s : State) (c a w n : Nat) : List Nat :=
  (List.range n).map fun i => leNat (firmBytes s c (a + w * i) w)

/-! ## Teams (R289, R291) -/

/-- The teams of a group: its number, the row it starts at, its rows. -/
def groupTeams (tile g start rows : Nat) : List (Nat × Nat × Nat) :=
  (List.range ((rows + tile - 1) / tile)).map fun j => (g, start + j * tile, min tile (rows - j * tile))

/-- sy.gidx, sy.grow0 and sy.grows of every team of a grouped launch. -/
def groupedTeams (tile : Nat) (counts : List Nat) : List (Nat × Nat × Nat) :=
  (List.range counts.length).flatMap fun g => groupTeams tile g ((counts.take g).foldl (· + ·) 0) (counts.getD g 0)

def teamCount (tile : Nat) (counts : List Nat) : Nat := (counts.map fun r => (r + tile - 1) / tile).foldl (· + ·) 0

/-! ## Placement (R289, R290) -/

/-- The enabled cores of a cluster, for a context (R4, R285). -/
def clusterCores (x : Context) (k : Nat) : List Nat := ((List.range 4).map fun i => 4 * k + i).filter x.coreOn

/-- The cluster lies in the set of PLACE 0, 1 or 2. -/
def inPlace (l : Launch) (k : Nat) : Bool :=
  match l.place with
  | 1 => k / 48 * 3 + k % 48 / 16 == l.parg
  | 2 => k / 48 == l.parg
  | _ => true

def eligible (s : State) (l : Launch) : List Nat :=
  (granted (s.ctx l.ctx)).filter fun k => decide (l.tpc ≤ (clusterCores (s.ctx l.ctx) k).length) && inPlace l k

/-- The default deal: each crew's cluster and cores. -/
def dealt (s : State) (l : Launch) (e : List Nat) (n : Nat) : List (Nat × List Nat) :=
  (List.range ((n + l.tpc - 1) / l.tpc)).map fun c =>
    let k := e.getD (c % e.length) 0
    (k, (clusterCores (s.ctx l.ctx) k).take (min l.tpc (n - c * l.tpc)))

/-- The cores of a crew are distinct and of one cluster. -/
def crewOk (cores : List Nat) : Bool :=
  cores.eraseDups.length == cores.length && cores.all fun p => clusterOf p == clusterOf (cores.headD 0)

/-- The placement by a list of logical cores; none when it breaks R290. -/
def listed (s : State) (l : Launch) (es : List Nat) : Option (List (Nat × List Nat)) :=
  let lc := logicalCores (s.ctx l.ctx)
  let cores := es.map fun e => lc.getD e 0
  let crews := pieces l.tpc cores ((es.length + l.tpc - 1) / l.tpc)
  if es.all (fun e => decide (e < lc.length)) && crews.all crewOk &&
      cores.any (fun p => decide (l.tpc ≤ (clusterCores (s.ctx l.ctx) (clusterOf p)).length)) then
    some (crews.map fun ps => (clusterOf (ps.headD 0), ps))
  else none

/-- The crews of `n` teams; none when the launch is rejected. -/
def placed (s : State) (l : Launch) (n : Nat) : Option (List (Nat × List Nat)) :=
  if l.place = 3 then
    if l.plen ≠ n ∨ !firmReadable s l.ctx l.kept l.plist (2 * n) then none else listed s l (firmNats s l.ctx l.plist 2 n)
  else
    let e := eligible s l
    if e.isEmpty then none else some (dealt s l e n)

/-! ## Ending a launch (R250, R300) -/

/-- The code is stored at DONE and parked LWAITs resume. -/
def endLaunch (s : State) (li code : Nat) : State :=
  let l := s.launch li
  let s1 := s.mapLaunch li fun l => { l with st := .ended code }
  wakeLwaits (if l.done ≠ 0 ∧ l.done % 4 = 0 then ctxPut s1 l.ctx l.done [BitVec.ofNat 32 code] else s1)

/-! ## The queue's state (R383) -/

/-- A team that waits to become resident. -/
def Team.pending (t : Team) : Bool := t.res == .waiting || t.res == .saved

/-- The queue has a record to take, or a team of its launches waits. -/
def queueWaits (s : State) (c q : Nat) : Bool :=
  let k := (s.ctx c).queue q
  k.head != k.tail || s.teams.any fun t =>
    t.pending && (s.launch t.launch).ctx == c && (s.launch t.launch).queue == q

/-- The context is suspended, or a SUSPEND of it is in progress: its timers stand still (R383). -/
def Context.still (x : Context) : Bool := x.st == 2 || x.suspendBy.isSome

/-- A queue with nothing left to bind, or of a suspended context, stops its timer; one that has something again starts it. -/
def settleQueue (s : State) (c q : Nat) : State :=
  if queueWaits s c q && !(s.ctx c).still then s.mapLQueue c q fun k => k.begin_ s.clk.ns
  else s.mapLQueue c q fun k => { k with eff := k.prio, nonEmptyAt := none }

/-! ## LAUNCH_DISPATCH -/

/-- The launch that waits under a queue's record `n`. -/
def queuedLaunch (s : State) (c q n : Nat) : Option Nat :=
  ((List.range s.launches.length).filter fun i =>
    let l := s.launch i
    l.ctx == c && l.queue == q && l.seq == n && l.st == .queued).getLast?

/-- The crews and teams of a launch, waiting to be bound; `gs` are the group values of a grouped launch. -/
def makeTeams (s : State) (li : Nat) (l : Launch) (crews : List (Nat × List Nat)) (gs : List (Nat × Nat × Nat)) : State :=
  (List.range crews.length).foldl (fun s c =>
    let k := crews.getD c (0, [])
    let ci := s.crews.length
    let t0 := s.teams.length
    let team := fun (i : Nat) =>
      let tid := c * l.tpc + i
      let g := gs.getD tid (0, 0, 0)
      { Team.none0 with launch := li, tid := tid, crew := ci, core := k.2.getD i 0, warps := l.warps, res := .waiting
                        fresh := true, pendAt := s.clk.ns, gidx := g.1, grow0 := g.2.1, grows := g.2.2 }
    { s with
      crews := s.crews ++ [{ Crew.none0 with launch := li, index := c, cluster := k.1
                                             teams := (List.range k.2.length).map fun i => t0 + i }]
      teams := s.teams ++ (List.range k.2.length).map team }) s

/-- A launch whose record is in range: its teams, or code 3, or code 0 for no rows at all (R291), which is tested before the
placement (log 55). -/
def scheduleLaunch (s : State) (li : Nat) (l : Launch) : State :=
  let readable := !l.grpBit || firmReadable s l.ctx l.kept l.growsAt (4 * l.gcnt)
  let counts := if l.grpBit && readable then firmNats s l.ctx l.growsAt 4 l.gcnt else []
  let n := if l.grpBit then teamCount l.gtile counts else bitsN (l.word 3) 0 24
  if !readable || decide (16777215 < n) then endLaunch s li 3
  else if n = 0 then endLaunch s li 0
  else match placed s l n with
    | none => endLaunch s li 3
    | some crews =>
      let s1 := s.mapLaunch li fun l => { l with st := .dispatched, teams := n }
      makeTeams s1 li l crews (if l.grpBit then groupedTeams l.gtile counts else [])

/-- The counts and the list that the firmware reads for a launch. -/
def Launch.lists (l : Launch) : List (Nat × Nat) :=
  (if l.grpBit then [(l.growsAt, 4 * l.gcnt)] else []) ++ if l.place = 3 then [(l.plist, 2 * l.plen)] else []

/-- Malformed entries that the firmware's reads meet are reported (R359). -/
def reportLists (s : State) (l : Launch) : State := postMalformed s l.ctx (l.lists.flatMap fun r => granules r.1 r.2)

/-- Where the record of a launch stands in its queue. -/
def Launch.slotAt (l : Launch) (s : State) : Nat := ((s.ctx l.ctx).queue l.queue).slot l.seq

/-- The record of a launch in its queue; zeros where it cannot be read, so that it is rejected. -/
def Launch.queued (l : Launch) (s : State) : List Word :=
  (ctxWords s l.ctx (l.slotAt s) 32).getD (List.replicate 32 0#32)

/-- The peers that the dispatch of a launch waits for, when it is its queue's next (R411). -/
def Launch.waits (l : Launch) (s : State) : List Nat :=
  let r := { l with record := l.queued s }
  if l.st == .queued && l.seq == ((s.ctx l.ctx).queue l.queue).head && recordRanges r && recordSums r then
    (r.lists.flatMap fun e => firmPeers s l.ctx e.1 e.2).filter fun p => !lapsed s l.kept p
  else []

/-- The firmware takes a queue's next record. -/
def dispatchLaunch (s0 : State) (c q li : Nat) (ws : List Word) : State :=
  let s := reportRead s0 c [((s0.launch li).slotAt s0, 128)]
  let k := (s.ctx c).queue q
  let head := (k.head + 1) % 2 ^ 32
  let s1 := ctxPut (s.mapLQueue c q fun k => { k with head := head }) c (queueDesc (s.ctx c) q + 12) [BitVec.ofNat 32 head]
  let l := { s.launch li with record := ws, grp := bitsN (ws.getD 2 0#32).toNat 10 1 == 1, dispatchAt := s.clk.ns }
  let s2 := s1.mapLaunch li fun _ => l
  let s3 := if recordRanges l && recordSums l then scheduleLaunch (reportLists s2 l) li l else endLaunch s2 li 3
  settleQueue s3 c q

/-- LAUNCH_DISPATCH. A record that cannot be read is rejected; the dispatch waits while a list of it lies on a peer in recovery. -/
def execLaunchDispatch (ctx q : Nat) (s : State) : Host.Outcome State Fault Refusal :=
  let x := s.ctx ctx
  let k := x.queue q
  match queuedLaunch s ctx q k.head with
  | none => event s false s
  | some li =>
    event s (x.st == 1 && x.suspendBy.isNone && k.en && !k.err && k.head != k.tail && ((s.launch li).waits s).isEmpty)
      (dispatchLaunch s ctx q li ((s.launch li).queued s))

end Sys2Proof.Machine
end

