-- ==== Sys2Proof/Machine/Bobj.lean ====
section
/-!
DEFINITION. Barrier object instructions: BOINIT to BOSTAT (spec 07 R185 to R193).
-/

namespace Sys2Proof.Machine

/-- The offset of the object an instruction names: within the crew's objects, and a multiple of 16 (R185). -/
def Iss.objectAt (c : Iss) (s : State) (off : Nat) : Except Trap Unit :=
  if 16 * (s.launchOf c.warp).bobjs ≤ off then trapW 0x0B off
  else if off % 16 ≠ 0 then trapW 0x09 off
  else .ok ()

/-- What an instruction of two operands checks: the mask, the shapes, the range of B, the object (R183). -/
def Iss.objectOperands (c : Iss) (s : State) (a b : Src) (ok : Nat → Bool) : Except Trap (Nat × Nat) := do
  c.whole
  let off ← c.needSrc .a a
  let v ← c.needSrc .b b
  inRange (ok v) v
  c.objectAt s off
  return (off, v)

/-- The form of a BOBJ instruction of two operands. -/
def objectForm (a b : Src) : Form := { a := srcOp a, b := srcOp b, valued := true }

/-- What acts on an object waits for the older accesses of its warp (R188). -/
def Iss.afterOlder (c : Iss) (s t : State) : State := if c.warp.accessOpen (.slot c.sp) then c.park s .older else t

/-- Waiters on an object are released after its flip (R188). -/
def afterFlip (s : State) (crew off : Nat) (flipped : Bool) : State :=
  if flipped then
    let r := releaseWaiters s crew (some off) true
    r.1.run r.2
  else s

/-- BOINIT (R187). -/
def execBoinit (a b : Src) (s : State) : Host.Outcome State Fault Refusal :=
  execute s (objectForm a b) fun c => do
    let v ← c.objectOperands s a b fun v => decide (1 ≤ v) && decide (v ≤ 4095)
    let crew := s.crewNo c.warp
    let s1 := c.complete (c.external (objPut s crew v.1 (oInitial v.2))) c.warp
    let r := releaseWaiters s1 crew (some v.1) false
    return r.1.run r.2

/-- An arrival with a count and bytes, and its status in PD (R188). -/
def Iss.arrive (c : Iss) (s : State) (pd off n bytes : Nat) : State :=
  let crew := s.crewNo c.warp
  let r := oArrive (objGet s crew off) n bytes
  afterFlip (c.predResult (c.external (objPut s crew off r.1)) pd (if r.2.2 then allLanes else 0#32)) crew off r.2.1

/-- BOARR (R188). -/
def execBoarr (pd : Nat) (a b : Src) (s : State) : Host.Outcome State Fault Refusal :=
  execute s (objectForm a b) fun c => do
    let v ← c.objectOperands s a b fun v => decide (1 ≤ v) && decide (v ≤ 4095)
    return c.afterOlder s (c.arrive s pd v.1 v.2 0)

/-- BOARX (R188). -/
def execBoarx (pd : Nat) (a b : Src) (s : State) : Host.Outcome State Fault Refusal :=
  execute s (objectForm a b) fun c => do
    let v ← c.objectOperands s a b fun v => decide (v ≤ 0x0FFFFFFF)
    return c.afterOlder s (c.arrive s pd v.1 1 v.2)

/-- BOEXP (R188): no effect on an object that is not initialised. -/
def execBoexp (a b : Src) (s : State) : Host.Outcome State Fault Refusal :=
  execute s (objectForm a b) fun c => do
    let v ← c.objectOperands s a b fun v => decide (v ≤ 0x0FFFFFFF)
    let crew := s.crewNo c.warp
    let o := objGet s crew v.1
    return c.afterOlder s (c.complete (c.external (if oInit o then objPut s crew v.1 (oAddPend o v.2) else s)) c.warp)

/-- The answer an object gives at once (R190): none when its phase is still `ph`. -/
def phaseTest (o ph : Nat) : Option Bool :=
  if !oInit o || oAband o then some false else if oPhase o ≠ ph then some true else none

/-- BOWAIT (R190): the split parks until a flip, a BOINIT, abandonment or BOWAIT_TIMEOUT. With a timeout of 0 it is no park: the
split waits for the end of the cycle, within which a flip still counts (R337). -/
def execBowait (pd : Nat) (a b : Src) (s : State) : Host.Outcome State Fault Refusal :=
  execute s (objectForm a b) fun c => do
    let v ← c.objectOperands s a b fun v => bitsN v 4 4 == 0
    let t := bitsN v.2 8 24
    match phaseTest (objGet s (s.crewNo c.warp) v.1) (bitsN v.2 0 4) with
    | some ok => return c.predResult (c.external s) pd (if ok then allLanes else 0#32)
    | none =>
      let k := Park.bowait v.1 pd (if t = 0xFFFFFF then none else some (s.clk.cycle + t))
      if t = 0 then return (c.external s).mapWarp c.w fun x => x.mapSplit c.sp fun t => { t with park := k }
      else return c.park (c.external s) k

/-- BOTEST (R190). -/
def execBotest (pd : Nat) (a b : Src) (s : State) : Host.Outcome State Fault Refusal :=
  execute s (objectForm a b) fun c => do
    let v ← c.objectOperands s a b fun v => decide (v < 16)
    let ok := phaseTest (objGet s (s.crewNo c.warp) v.1) v.2
    return c.predResult s pd (if ok == some true then allLanes else 0#32)

/-- BOSTAT (R191). -/
def execBostat (d : Nat) (a : Src) (s : State) : Host.Outcome State Fault Refusal :=
  execute s { d := pairOp d, a := srcOp a, valued := true } fun c => do
    c.whole
    let off ← c.needSrc .a a
    c.objectAt s off
    let o := objGet s (s.crewNo c.warp) off
    c.pairResult s d (BitVec.ofNat 32 (oClosed o)) (BitVec.ofNat 32 (oPhase o + 16 * bitsN o 56 5 + 4096 * oLeft o))

end Sys2Proof.Machine
end

