-- ==== Sys2Proof/Machine/Mma.lean ====
section
/-!
DEFINITION. Matrix operations: MMA, TSEQ, and what the array computes (spec 04 R99, R100, R110, R112, R113; 07 R213 to R215).
-/

namespace Sys2Proof.Machine

/-! ## The types of R213, by function code F -/

/-- Formats of the A and B tiles. -/
def mmaFmts (k : Nat) : Nat × Nat :=
  match k with
  | 0 => (3, 3)
  | 1 => (4, 4)
  | 2 => (5, 5)
  | 3 => (6, 6)
  | 4 => (8, 8)
  | 5 => (9, 9)
  | 6 => (7, 7)
  | 7 => (11, 11)
  | 8 => (3, 11)
  | 9 => (3, 3)
  | 10 => (5, 5)
  | 11 => (5, 5)
  | _ => (7, 7)

def mmaIsInt (k : Nat) : Bool := k == 5 || k == 7
def mmaIsQ4 (k : Nat) : Bool := k == 8
def mmaIsSp (k : Nat) : Bool := k == 9 || k == 10
def mmaIsMx (k : Nat) : Bool := k == 11 || k == 12
/-- What K must be a multiple of. -/
def mmaStep (k : Nat) : Nat := if mmaIsQ4 k || mmaIsMx k then 32 else if mmaIsSp k then 48 else 1

/-! ## The checks at issue (R213, R214) -/

/-- The tile to report when an attached tile is not valid, not configured or too small: the operand when it names none. -/
def Team.attachedBad (t : Team) (op f rows bytes : Nat) : List Nat :=
  match attached f with
  | none => [op]
  | some n =>
    let x := t.tile n
    if x.configured && decide (rows ≤ x.rows) && decide (bytes ≤ x.rowb) then [] else [n]

/-- The operands of one operation fit (R213): their formats, their K, NKEEP, and the attached tiles. -/
def Team.operandsFit (t : Team) (s : State) (o : MatOp) : Except Trap Unit := do
  let a := t.tile o.ta
  let b := t.tile o.tb
  let k := o.kind
  tilesFit s (unfit o.ta o.tb a.configured b.configured true)
  tilesFit s (unfit o.ta o.tb (a.fmt == (mmaFmts k).1 && (!mmaIsSp k || a.nkeep != 0)) (b.fmt == (mmaFmts k).2) true)
  tilesFit s (unfit o.ta o.tb true true (a.k == b.k && b.k % mmaStep k == 0))
  tilesFit s (unfit o.ta o.tb (mmaIsSp k || a.nkeep == 0) (b.nkeep == 0) true)
  tilesFit s
    ((if mmaIsQ4 k || mmaIsMx k then t.attachedBad o.tb b.sct b.rows (if mmaIsQ4 k then b.k / 32 * 4 else b.k / 32) else []) ++
      (if mmaIsSp k then t.attachedBad o.ta a.mdt a.rows (b.k / 48 * 6) else []) ++
      (if mmaIsMx k then t.attachedBad o.ta a.sct a.rows (b.k / 32) else []))

/-- The accumulator fits an operation without clear (R214). -/
def Team.accFits (t : Team) (o : MatOp) : Except Trap Unit :=
  let x := t.acc o.acc
  if o.clr || (x.rows == (t.tile o.ta).rows && x.cols == (t.tile o.tb).rows && x.isInt == mmaIsInt o.kind) then .ok ()
  else trapW 0x17 (0x10 + o.acc)

/-- The configuration an accepted operation leaves its accumulator. -/
def Team.accept (t : Team) (o : MatOp) : Team :=
  let cfg := fun x : Acc =>
    if o.clr then { x with rows := (t.tile o.ta).rows, cols := (t.tile o.tb).rows, isInt := mmaIsInt o.kind } else x
  { t with accs := updAt t.accs o.acc cfg, ops := t.ops ++ [o] }

/-- Operations checked in order and accepted by the array (R215). -/
def Team.acceptAll (s : State) (t : Team) : List MatOp → Except Trap Team
  | [] => .ok t
  | o :: os => do
    t.operandsFit s o
    t.accFits o
    acceptAll s (t.accept o) os

/-- The accumulators that stay poisoned past an operation: one that clears its own gives it new data (R403). -/
def MatOp.keeps (o : MatOp) (bad : List Nat) : List Nat := if o.clr then bad.filter fun n => n != o.acc else bad

/-- Of some operations, one without clear reads an accumulator that is poisoned, after those the array has accepted. -/
def readsBadAcc (bad : List Nat) : List MatOp → Bool
  | [] => false
  | o :: os => (!o.clr && bad.contains o.acc) || readsBadAcc (o.keeps bad) os

/-- A poisoned tile of some operations is landing: whether it stays poisoned shows when it has landed (R212, R403). -/
def Team.badLands (t : Team) (os : List MatOp) : Bool :=
  os.any fun o => (t.opTiles o).any fun n => (t.tile n).poison && (t.tile n).land

/-- The poison that operands and accumulators carry. -/
def Team.opPoison (t : Team) (os : List MatOp) : Bool :=
  (os.any fun o => (t.opTiles o).any fun n => (t.tile n).poison) ||
    readsBadAcc (t.ops.foldl (fun bad o => o.keeps bad) ((List.range t.accs.length).filter fun n => (t.acc n).poison)) os

/-- The body of MMA and TSEQ. A poisoned operand that is landing is waited for. -/
def Iss.matrix (c : Iss) (s : State) (os : List MatOp) : Res := do
  c.whole
  os.forM fun o => do
    c.tileField s o.ta
    c.tileField s o.tb
  let t ← Team.acceptAll s (c.team s) os
  c.after s ((c.team s).badLands os) do
    noPoison ((c.team s).opPoison os)
    return c.complete (s.mapTeam c.warp.team fun _ => t) c.warp

/-- MMA (R213). -/
def mma (s : State) (kind acc : Nat) (clr : Bool) (ta tb : Nat) : Host.Outcome State Fault Refusal :=
  execute s {} fun c => c.matrix s [{ kind := kind, acc := acc, clr := clr, ta := ta, tb := tb, later := false }]

/-- The steps of a TSEQ (R215). -/
def seqOps (kind acc : Nat) (clr : Bool) (ta tb n : Nat) : List MatOp :=
  (List.range n).map fun i => { kind := kind, acc := acc, clr := clr && i == 0, ta := ta + i, tb := tb + i, later := decide (0 < i) }

/-- TSEQ (R215): the count is EXT + 1, and a prefix is required. -/
def tseq (s : State) (kind acc : Nat) (clr : Bool) (ta tb : Nat) : Host.Outcome State Fault Refusal :=
  execute s { ext := .bits 4 } fun c =>
    let n := c.ext + 1
    if !c.hasXp || decide (15 < ta + n - 1) || decide (15 < tb + n - 1) then trapU 0x02
    else c.matrix s (seqOps kind acc clr ta tb n)

/-! ## What the array computes (R112, R113) -/

/-- The value of element `k` of row `r` of an N:48 operand, through its masks (R110); none when the mask has not N bits. -/
def spValue (x m : Tile) (r k : Nat) : Option Ex :=
  let mask := maskAt m.byte (r * m.rowb + 6 * (k / 48))
  if rankBelow mask 48 ≠ x.nkeep then none
  else if bitsN mask (k % 48) 1 = 0 then some (.fin false 0 1)
  else some ((fmtCode x.fmt).value (x.stored r (k / 48 * x.nkeep + rankBelow mask (k % 48))))

/-- An MX element (R99). -/
def mxValue (x sc : Tile) (r k : Nat) : Ex :=
  let v := (sc.byte (r * sc.rowb + k / 32)).toNat
  if v = 255 then .nan else ((fmtCode x.fmt).value (x.stored r k)).scale2 ((v : Int) - 127)

/-- A q4 weight (R100), as a bf16 pattern. -/
def q4Weight (q scale zp : Nat) : Nat :=
  let d : Int := sextN q 4 - zp
  (Fmt.bin fBf16).round ((Ex.ofInt d).mul (fBf16.value scale)) .rne

/-- A weight of a q4 operand. -/
def q4Value (x sc : Tile) (r k : Nat) : Ex :=
  let rec_ := fun i => (sc.byte (r * sc.rowb + 4 * (k / 32) + i)).toNat
  fBf16.value (q4Weight (x.stored r k) (rec_ 0 + 256 * rec_ 1) (rec_ 2 % 16))

/-- A value of a tile with the tile's scale exponent (R109, R209); integers have none (R113; log 18). -/
def Tile.scaled (x : Tile) (kind : Nat) (v : Ex) : Ex := if mmaIsInt kind then v else v.scale2 x.scale

/-- The operand values of an operation. -/
def Team.aValue (t : Team) (o : MatOp) (i k : Nat) : Ex :=
  let a := t.tile o.ta
  a.scaled o.kind <|
    if mmaIsSp o.kind then (spValue a (t.tile (bitsN a.mdt 0 4)) i k).getD .nan
    else if mmaIsMx o.kind then mxValue a (t.tile (bitsN a.sct 0 4)) i k
    else (fmtCode a.fmt).value (a.stored i k)

def Team.bValue (t : Team) (o : MatOp) (j k : Nat) : Ex :=
  let b := t.tile o.tb
  b.scaled o.kind <|
    if mmaIsQ4 o.kind then q4Value b (t.tile (bitsN b.sct 0 4)) j k
    else if mmaIsMx o.kind then mxValue b (t.tile (bitsN b.sct 0 4)) j k
    else (fmtCode b.fmt).value (b.stored j k)

/-- fp32_acc of R112: rne, then a result below 2^-126 becomes a zero of its sign. -/
def fp32Acc (x : Ex) : Word :=
  let w := toF32 x
  if bitsN w.toNat 23 8 = 0 then w &&& 0x80000000#32 else w

/-- The products of one chunk. -/
def Team.products (t : Team) (o : MatOp) (i j c kMax : Nat) : List Ex :=
  ((List.range 32).filter fun k => decide (32 * c + k < kMax)).map fun k =>
    (t.aValue o i (32 * c + k)).mul (t.bValue o j (32 * c + k))

/-- One chunk added to an element. -/
def chunkAdd (isInt : Bool) (acc : Word) (ps : List Ex) : Word :=
  if isInt then
    BitVec.ofNat 32 ((Fmt.int true 32).round (((Fmt.int true 32).value acc.toNat).add (exSum ps)) .rne)
  else fp32Acc ((f32 acc).add (exSum ps))

/-- A row of an sp operand has a mask that has not N bits (R214). -/
def Team.spBad (t : Team) (o : MatOp) (i kMax : Nat) : Bool :=
  let a := t.tile o.ta
  mmaIsSp o.kind &&
    (List.range (kMax / 48)).any fun g => (spValue a (t.tile (bitsN a.mdt 0 4)) i (48 * g)).isNone

/-- Element (i, j) after an operation. -/
def Team.element (t : Team) (o : MatOp) (i j : Nat) : Word :=
  let kMax := (t.tile o.tb).k
  let start := if o.clr then 0#32 else (t.acc o.acc).elems.getD (64 * i + j) 0#32
  if t.spBad o i kMax then 0x7FC00000#32
  else (List.range ((kMax + 31) / 32)).foldl (fun acc c => chunkAdd (mmaIsInt o.kind) acc (t.products o i j c kMax)) start

/-- The team after the array has finished its oldest operation. -/
def Team.perform (t : Team) (o : MatOp) : Team :=
  let m := (t.tile o.ta).rows
  let n := (t.tile o.tb).rows
  let old := t.acc o.acc
  let elems := (List.range (64 * 64)).map fun e =>
    if e / 64 < m ∧ e % 64 < n then t.element o (e / 64) (e % 64) else if o.clr then 0#32 else old.elems.getD e 0#32
  let bad := (t.opTiles o).any fun k => (t.tile k).poison
  { t with accs := updAt t.accs o.acc fun x => { x with elems := elems, poison := bad || (!o.clr && x.poison) }
           ops := t.ops.drop 1 }

/-! ## MMA -/

/-- MMA.bf16 (R213). -/
def execMmaBf16 (acc : Nat) (clr : Bool) (ta tb : Nat) (s : State) : Host.Outcome State Fault Refusal :=
  mma s 0 acc clr ta tb

/-- MMA.f16 (R213). -/
def execMmaF16 (acc : Nat) (clr : Bool) (ta tb : Nat) (s : State) : Host.Outcome State Fault Refusal :=
  mma s 1 acc clr ta tb

/-- MMA.e4m3 (R213). -/
def execMmaE4m3 (acc : Nat) (clr : Bool) (ta tb : Nat) (s : State) : Host.Outcome State Fault Refusal :=
  mma s 2 acc clr ta tb

/-- MMA.e5m2 (R213). -/
def execMmaE5m2 (acc : Nat) (clr : Bool) (ta tb : Nat) (s : State) : Host.Outcome State Fault Refusal :=
  mma s 3 acc clr ta tb

/-- MMA.de8 (R213). -/
def execMmaDe8 (acc : Nat) (clr : Bool) (ta tb : Nat) (s : State) : Host.Outcome State Fault Refusal :=
  mma s 4 acc clr ta tb

/-- MMA.s8 (R213). -/
def execMmaS8 (acc : Nat) (clr : Bool) (ta tb : Nat) (s : State) : Host.Outcome State Fault Refusal :=
  mma s 5 acc clr ta tb

/-- MMA.e2m1 (R213). -/
def execMmaE2m1 (acc : Nat) (clr : Bool) (ta tb : Nat) (s : State) : Host.Outcome State Fault Refusal :=
  mma s 6 acc clr ta tb

/-- MMA.s4 (R213). -/
def execMmaS4 (acc : Nat) (clr : Bool) (ta tb : Nat) (s : State) : Host.Outcome State Fault Refusal :=
  mma s 7 acc clr ta tb

/-- MMA.q4 (R213). -/
def execMmaQ4 (acc : Nat) (clr : Bool) (ta tb : Nat) (s : State) : Host.Outcome State Fault Refusal :=
  mma s 8 acc clr ta tb

/-- MMA.sp.bf16 (R213). -/
def execMmaSpBf16 (acc : Nat) (clr : Bool) (ta tb : Nat) (s : State) : Host.Outcome State Fault Refusal :=
  mma s 9 acc clr ta tb

/-- MMA.sp.e4m3 (R213). -/
def execMmaSpE4m3 (acc : Nat) (clr : Bool) (ta tb : Nat) (s : State) : Host.Outcome State Fault Refusal :=
  mma s 10 acc clr ta tb

/-- MMA.mx.e4m3 (R213). -/
def execMmaMxE4m3 (acc : Nat) (clr : Bool) (ta tb : Nat) (s : State) : Host.Outcome State Fault Refusal :=
  mma s 11 acc clr ta tb

/-- MMA.mx.e2m1 (R213). -/
def execMmaMxE2m1 (acc : Nat) (clr : Bool) (ta tb : Nat) (s : State) : Host.Outcome State Fault Refusal :=
  mma s 12 acc clr ta tb

/-! ## TSEQ -/

/-- TSEQ.bf16 (R215). -/
def execTseqBf16 (acc : Nat) (clr : Bool) (ta tb : Nat) (s : State) : Host.Outcome State Fault Refusal :=
  tseq s 0 acc clr ta tb

/-- TSEQ.f16 (R215). -/
def execTseqF16 (acc : Nat) (clr : Bool) (ta tb : Nat) (s : State) : Host.Outcome State Fault Refusal :=
  tseq s 1 acc clr ta tb

/-- TSEQ.e4m3 (R215). -/
def execTseqE4m3 (acc : Nat) (clr : Bool) (ta tb : Nat) (s : State) : Host.Outcome State Fault Refusal :=
  tseq s 2 acc clr ta tb

/-- TSEQ.e5m2 (R215). -/
def execTseqE5m2 (acc : Nat) (clr : Bool) (ta tb : Nat) (s : State) : Host.Outcome State Fault Refusal :=
  tseq s 3 acc clr ta tb

/-- TSEQ.de8 (R215). -/
def execTseqDe8 (acc : Nat) (clr : Bool) (ta tb : Nat) (s : State) : Host.Outcome State Fault Refusal :=
  tseq s 4 acc clr ta tb

/-- TSEQ.s8 (R215). -/
def execTseqS8 (acc : Nat) (clr : Bool) (ta tb : Nat) (s : State) : Host.Outcome State Fault Refusal :=
  tseq s 5 acc clr ta tb

/-- TSEQ.e2m1 (R215). -/
def execTseqE2m1 (acc : Nat) (clr : Bool) (ta tb : Nat) (s : State) : Host.Outcome State Fault Refusal :=
  tseq s 6 acc clr ta tb

/-- TSEQ.s4 (R215). -/
def execTseqS4 (acc : Nat) (clr : Bool) (ta tb : Nat) (s : State) : Host.Outcome State Fault Refusal :=
  tseq s 7 acc clr ta tb

/-- TSEQ.q4 (R215). -/
def execTseqQ4 (acc : Nat) (clr : Bool) (ta tb : Nat) (s : State) : Host.Outcome State Fault Refusal :=
  tseq s 8 acc clr ta tb

/-- TSEQ.sp.bf16 (R215). -/
def execTseqSpBf16 (acc : Nat) (clr : Bool) (ta tb : Nat) (s : State) : Host.Outcome State Fault Refusal :=
  tseq s 9 acc clr ta tb

/-- TSEQ.sp.e4m3 (R215). -/
def execTseqSpE4m3 (acc : Nat) (clr : Bool) (ta tb : Nat) (s : State) : Host.Outcome State Fault Refusal :=
  tseq s 10 acc clr ta tb

/-- TSEQ.mx.e4m3 (R215). -/
def execTseqMxE4m3 (acc : Nat) (clr : Bool) (ta tb : Nat) (s : State) : Host.Outcome State Fault Refusal :=
  tseq s 11 acc clr ta tb

/-- TSEQ.mx.e2m1 (R215). -/
def execTseqMxE2m1 (acc : Nat) (clr : Bool) (ta tb : Nat) (s : State) : Host.Outcome State Fault Refusal :=
  tseq s 12 acc clr ta tb

end Sys2Proof.Machine
end

