-- ==== Sys2Proof/Machine/Queue.lean ====
section
/-!
DEFINITION. Queue instructions: QPUSH to QBREAK (spec 07 R194 to R198, 12 R313).
-/

namespace Sys2Proof.Machine

def Iss.crew (c : Iss) (s : State) : Nat := s.crewNo c.warp

def queueOf (s : State) (crew q : Nat) : Queue := (s.crew crew).queues.getD q Queue.closed

def State.mapQueue (s : State) (crew q : Nat) (f : Queue → Queue) : State :=
  s.mapCrew crew fun k => { k with queues := updAt k.queues q f }

/-- The queue a field names: one of the crew's (0x0B), and open (0x12) unless `any`. -/
def Iss.queue (c : Iss) (s : State) (q : Nat) (any : Bool) : Except Trap Queue := do
  hasResource q (s.crew (c.crew s)).queues.length q
  let x := queueOf s (c.crew s) q
  if any || x.st == 1 then return x else trapW 0x12 q

/-- Words of an entry (R194). -/
def entryWords (esz : Nat) : Nat := 2 ^ esz

/-- The entry a push makes of a register: lanes that are not live give 0 (R195). -/
def entryOf (live : Mask) (n : Nat) (r : Reg) : List Word :=
  (List.range n).map fun i => if live.getLsbD i then r.lane i else 0#32

/-- The result of a pop (R195). -/
def entryReg (e : List Word) : Reg :=
  if e.length = 1 then .u (e.headD 0#32) else vec fun l => e.getD (l % max 1 e.length) 0#32

/-- A push is parked on a queue, or a pop. -/
def pushParked (s : State) (crew q : Nat) : List (Nat × Seat) :=
  parkedSeats s fun x p =>
    match p with
    | .push _ n _ => s.crewNo x == crew && n == q
    | _ => false

def popParked (s : State) (crew q : Nat) : List (Nat × Seat) :=
  parkedSeats s fun x p =>
    match p with
    | .pop _ _ n _ => s.crewNo x == crew && n == q
    | _ => false

/-- A copy waits for room in a queue since `age` (R202). -/
def copyWaits (s : State) (crew q : Nat) (p : Nat → Bool) : Bool :=
  s.clusters.any fun k => k.copies.any fun x =>
    x.crew == crew && x.stage == 0 && bitsN (x.words.getD 3 0#32).toNat 24 2 == 3 && (x.words.getD 2 0#32).toNat == q &&
      match x.age with | some n => p n | none => false

/-- A push waits on a queue: a parked one, or a copy's. -/
def pushWaits (s : State) (crew q : Nat) : Bool := !(pushParked s crew q).isEmpty || copyWaits s crew q fun _ => true

def Queue.canPush (x : Queue) : Bool := x.allow != 0 && decide (x.entries.length < x.depth)

/-- A push that has waited since `mine` stands behind an older one: a parked QPUSH, or a copy's (R196, R202). -/
def olderPush (s : State) (crew q mine : Nat) : Bool :=
  ((pushParked s crew q).any fun e =>
    match seatPark (s.warps.getD e.1 Warp.blank) e.2 with
    | .push _ _ age => decide (age < mine)
    | _ => false) || copyWaits s crew q fun n => decide (n < mine)

/-- The entry that a push of a register makes. -/
def Iss.entry (c : Iss) (s : State) (a : Src) (q : Nat) : List Word :=
  entryOf c.live (entryWords (queueOf s (c.crew s) q).esz) (c.read .a a)

/-- The queue with an entry appended. -/
def Iss.appended (c : Iss) (s : State) (e : List Word) (q : Nat) : State :=
  c.external (s.mapQueue (c.crew s) q fun x => { x with allow := x.allow - 1, entries := x.entries ++ [e] })

/-- The queue without its head entry. -/
def Iss.removed (c : Iss) (s : State) (q : Nat) : State :=
  c.external (s.mapQueue (c.crew s) q fun x => { x with entries := x.entries.drop 1, bad := (x.bad.filter fun n => n != 0).map fun n => n - 1 })

/-- A pop of a poisoned entry halts the warp (R402, R403). -/
def Iss.soundHead (c : Iss) (s : State) (q : Nat) : Except Trap Unit :=
  if (queueOf s (c.crew s) q).bad.contains 0 then .error { cause := 0x15 } else .ok ()

/-- The pushing warp, with what the Cobbler keeps of its pushes (R197, R313). -/
def Iss.pushing (c : Iss) (q : Nat) : Warp :=
  { c.warp with target := some q, pushed := if c.warp.pushed.contains q then c.warp.pushed else q :: c.warp.pushed }

/-- A QPUSH is performed. -/
def Iss.pushNow (c : Iss) (s : State) (e : List Word) (q : Nat) : State := c.complete (c.appended s e q) (c.pushing q)

/-- A QPOP is performed. -/
def Iss.popNow (c : Iss) (s : State) (nw : Bool) (d : Option Place) (q : Nat) : Res := do
  c.soundHead s q
  c.resultAt (c.removed s q) id nw d false (entryReg ((queueOf s (c.crew s) q).entries.headD []))

/-- QPUSH (R196): it parks without allowance or room, behind an older push that waits, and until the older accesses of its warp are
performed (R198). Its entry is read at issue, and so is where a parked QPOP's field D leads (R140). -/
def execQpush (a : Src) (q : Nat) (s : State) : Host.Outcome State Fault Refusal :=
  execute s { a := srcOp a, cob := true, compared := true } fun c => do
    c.whole
    let x ← c.queue s q false
    if x.canPush && !pushWaits s (c.crew s) q && !c.warp.accessOpen (.slot c.sp) then return c.pushNow s (c.entry s a q) q
    else return (c.park s (.push (c.entry s a q) q s.clk.tick)).mapWarp c.w fun y => { y with target := some q }

/-- QPOP (R196). -/
def execQpop (nw : Bool) (d : Dst) (q : Nat) (s : State) : Host.Outcome State Fault Refusal :=
  execute s { d := dstOp d } fun c => do
    c.whole
    let x ← c.queue s q false
    if !x.entries.isEmpty && (popParked s (c.crew s) q).isEmpty then c.popNow s nw (c.dst d) q
    else return c.park s (.pop nw (c.dst d) q s.clk.tick)

/-- QPUSHN (R196): D holds the allowance left and D + 1 whether it failed. A push waits for the older accesses of its warp (R198). -/
def execQpushn (d : Nat) (a : Src) (q : Nat) (s : State) : Host.Outcome State Fault Refusal :=
  execute s { d := pairOp d, a := srcOp a, cob := true, compared := true } fun c => do
    c.whole
    let x ← c.queue s q false
    let put := fun (allow fail : Nat) =>
      [(c.place .d d 0, Reg.u (BitVec.ofNat 32 allow)), (c.place .d d 1, Reg.u (BitVec.ofNat 32 fail))]
    if x.canPush && !pushWaits s (c.crew s) q then
      if c.warp.accessOpen (.slot c.sp) then return c.park s .older
      let c' : Iss := { c with warp := c.pushing q }
      c'.results (c.appended s (c.entry s a q) q) true (put (x.allow - 1) 0)
    else
      let c' : Iss := { c with warp := { c.warp with target := some q } }
      c'.results s true (put x.allow 1)

/-- A QPOPN that fails (R196): D + 1 is written, D is unchanged, and the latch holds what D holds (R21). -/
def Iss.popFailed (c : Iss) (s : State) (d : Nat) : Res := do
  let p := c.place .d d 0
  let q := c.place .d d 1
  c.afford [(some q, .u 1#32)]
  if !c.acts true (some q) then return c.complete s c.warp
  else return c.retireTo s (c.commits true [(q, .u 1#32)]) (c.split.pc + 4) (c.latch true false p (c.warp.getReg p)) [q]

/-- QPOPN (R196). -/
def execQpopn (d q : Nat) (s : State) : Host.Outcome State Fault Refusal :=
  execute s { d := pairOp d } fun c => do
    c.whole
    let x ← c.queue s q false
    if !x.entries.isEmpty && (popParked s (c.crew s) q).isEmpty then do
      c.soundHead s q
      c.results (c.removed s q) false [(c.place .d d 0, entryReg (x.entries.headD [])), (c.place .d d 1, .u 0#32)]
    else c.popFailed s d

/-- QALLOW (R196). -/
def execQallow (a : Src) (q : Nat) (s : State) : Host.Outcome State Fault Refusal :=
  execute s { a := srcOp a, cob := true, valued := true } fun c => do
    c.whole
    let v ← c.needSrc .a a
    inRange (decide (v ≤ 4095)) v
    let _ ← c.queue s q false
    return c.complete (c.external (s.mapQueue (c.crew s) q fun x => { x with allow := min (x.allow + v) 4095 })) c.warp

/-- Two regions of a bank overlap. -/
def Queue.overlaps (x : Queue) (bank lo hi : Nat) : Bool :=
  x.st == 1 && x.bank == bank && decide (128 * x.off < hi) &&
    decide (lo < 128 * x.off + x.depth * 4 * entryWords x.esz)

/-- QCFG (R194): trap 0x0B names the bank (log 52), and splits parked on the queue issue their instructions again. -/
def execQcfg (a q : Nat) (s : State) : Host.Outcome State Fault Refusal :=
  execute s { a := pairOp a, valued := true } fun c => do
    c.whole
    let cfg ← needU (c.regAt .a a 0)
    let allow ← needU (c.regAt .a a 1)
    let bank := bitsN cfg 0 5
    let esz := bitsN cfg 5 3
    let depth := bitsN cfg 8 10
    let off := bitsN cfg 18 9
    let hi := 128 * off + depth * 4 * entryWords esz
    inRange (bitsN cfg 27 5 == 0 && decide (esz ≤ 5) && decide (hi ≤ 65536)) cfg
    inRange (decide (allow ≤ 4095)) allow
    let _ ← c.queue s q true
    let crew := c.crew s
    let qs := (s.crew crew).queues
    let clash := (List.range qs.length).any fun i => i != q && (queueOf s crew i).overlaps bank (128 * off) hi
    if !(crewBanks s crew 2).contains bank || (depth != 0 && clash) then trapW 0x0B bank
    else
      let s1 := c.complete (c.external (s.mapQueue crew q fun _ =>
        { bank := bank, esz := esz, depth := depth, off := off, entries := [], allow := allow
          st := if depth = 0 then 0 else 1, bad := [] })) c.warp
      return (queueWaiters s1 crew q).foldl (fun s e => wakeAt s e.1 e.2) s1

/-- QSTAT (R197). -/
def execQstat (nw : Bool) (d : Dst) (q : Nat) (s : State) : Host.Outcome State Fault Refusal :=
  execute s { d := dstOp d } fun c => do
    c.whole
    let x ← c.queue s q true
    c.result s nw d true (.u (BitVec.ofNat 32 (x.entries.length + 1024 * x.st + 65536 * x.allow)))

/-- QBREAK (R197). -/
def execQbreak (q : Nat) (s : State) : Host.Outcome State Fault Refusal :=
  execute s {} fun c => do
    c.whole
    let _ ← c.queue s q true
    let r := breakQueue (c.complete (c.external s) c.warp) (c.crew s) q
    return r.1.run r.2

end Sys2Proof.Machine
end

