-- ==== Sys2Proof/Machine/Tiles.lean ====
section
/-!
DEFINITION. Tile instructions: TSHAPE to TROWW, TLD, TST (spec 07 R209 to R212).
-/

namespace Sys2Proof.Machine

/-! ## Control (R210) -/

/-- An instruction that writes a tile's control from a U operand; `ok` is the range of the operand. -/
def tileControl (s : State) (t : Nat) (a : Src) (ok : Nat → Bool) (res : Nat → List Nat) (f : Nat → Tile → Tile) :
    Host.Outcome State Fault Refusal :=
  execute s { a := srcOp a, valued := true } fun c => do
    c.whole
    let v ← c.needSrc .a a
    inRange (ok v) v
    c.tileField s t
    (res v).forM (c.tileField s)
    c.after s ((c.team s).writeWait t) (.ok (c.complete (s.mapTile c.warp.team t (f v)) c.warp))

/-- TSHAPE (R210): data bytes are kept. -/
def execTshape (t : Nat) (a : Src) (s : State) : Host.Outcome State Fault Refusal :=
  tileControl s t a
    (fun v =>
      let r := bitsN v 0 7
      let b := bitsN v 8 9
      decide (1 ≤ r) && decide (r ≤ 64) && decide (16 ≤ b) && decide (b ≤ 256) && b % 16 == 0 &&
        bitsN v 7 1 == 0 && bitsN v 17 15 == 0)
    (fun _ => []) fun v x => { x with rows := bitsN v 0 7, rowb := bitsN v 8 9 }

/-- TFMT (R210). -/
def execTfmt (t : Nat) (a : Src) (s : State) : Host.Outcome State Fault Refusal :=
  tileControl s t a
    (fun v => bitsN v 0 4 != 15 && decide (bitsN v 14 5 ≤ 24) && bitsN v 19 13 == 0)
    (fun v => [bitsN v 4 5, bitsN v 9 5].filterMap attached)
    fun v x => { x with fmt := bitsN v 0 4, sct := bitsN v 4 5, mdt := bitsN v 9 5, nkeep := bitsN v 14 5 }

/-- TSCALE (R210). -/
def execTscale (t : Nat) (a : Src) (s : State) : Host.Outcome State Fault Refusal :=
  tileControl s t a (fun v => decide (-128 ≤ sextN v 32) && decide (sextN v 32 ≤ 127)) (fun _ => [])
    fun v x => { x with scale := sextN v 32 }

/-- The control words of a tile (R209). -/
def Tile.word0 (t : Tile) : Nat :=
  t.rows + 128 * t.rowb + 2 ^ 16 * t.fmt + 2 ^ 20 * t.sct + 2 ^ 25 * t.mdt + if t.land then 2 ^ 30 else 0
def Tile.word1 (t : Tile) : Nat := modPow t.scale 8 + 256 * t.nkeep

/-- TQRY (R210). -/
def execTqry (d t : Nat) (s : State) : Host.Outcome State Fault Refusal :=
  execute s { d := pairOp d } fun c => do
    c.whole
    c.tileField s t
    let x := (c.team s).tile t
    c.pairResult s d (BitVec.ofNat 32 x.word0) (BitVec.ofNat 32 x.word1)

/-- TZERO (R210). -/
def execTzero (t : Nat) (s : State) : Host.Outcome State Fault Refusal :=
  execute s {} fun c => do
    c.whole
    c.tileField s t
    c.after s ((c.team s).writeWait t)
      (.ok (c.complete (s.mapTile c.warp.team t fun x => { x with data := [], poison := false }) c.warp))

/-! ## One tile into another -/

/-- The destination and source of TTRN and TCVT, once they may be used. -/
def Iss.tilePair (c : Iss) (s : State) (t u : Nat) (body : Tile → Tile → Res) : Res := do
  c.tileField s t
  c.tileField s u
  let x := (c.team s).tile t
  let y := (c.team s).tile u
  c.after s ((c.team s).writeWait t || (c.team s).readWait u) do
    tilesFit s (unfit t u x.configured y.configured true)
    body x y

/-- TTRN (R210): the elements move as patterns. -/
def execTtrn (t u : Nat) (s : State) : Host.Outcome State Fault Refusal :=
  execute s {} fun c => do
    c.whole
    c.tilePair s t u fun x y => do
      tilesFit s (unfit t u true true (x.fmt == y.fmt))
      tilesFit s (unfit t u (x.nkeep == 0) (y.nkeep == 0) (x.rows == y.k && x.k == y.rows && t != u))
      noPoison y.poison
      let f := fmtCode x.fmt
      let ws := (List.range x.rows).flatMap fun r => (List.range x.k).flatMap fun k =>
        (elemWrite f k (y.stored k r)).map fun w => { w with off := w.off + r * x.rowb }
      return c.complete (s.mapTile c.warp.team t fun x => x.overwrite ws) c.warp

/-- TCVT (R201, R210). -/
def execTcvt (t : Nat) (a : Src) (u : Nat) (s : State) : Host.Outcome State Fault Refusal :=
  execute s { a := srcOp a, valued := true } fun c => do
    c.whole
    let v ← c.needSrc .a a
    inRange (decide (bitsN v 0 3 ≤ 5) && bitsN v 3 2 != 3 && bitsN v 5 3 == 0 && bitsN v 16 16 == 0) v
    c.tilePair s t u fun x y => do
      let n := hadSize (bitsN v 3 2)
      tilesFit s (unfit t u true true (x.rows == y.rows && x.k == y.k))
      tilesFit s (unfit t u (x.nkeep == 0) (y.nkeep == 0) (t != u && (n == 0 || x.k % n == 0)))
      noPoison y.poison
      let f := fmtCode y.fmt
      let b : Box :=
        { rows := x.rows, cols := x.k, x := fun r k => some (f.value (y.stored r k)), zf := false, src := f
          dst := fmtCode x.fmt, rnd := bitsN v 0 3, had := bitsN v 3 2, scale := sextN (bitsN v 8 8) 8, trn := false, satf := false
          seed := c.seed }
      let ws := b.results.flatMap fun e =>
        (elemWrite b.dst e.2.1 e.2.2).map fun w => { w with off := w.off + e.1 * x.rowb }
      return c.complete (s.mapTile c.warp.team t fun x => x.overwrite ws) c.warp

/-! ## Rows of a tile in registers -/

/-- The row and half that an operand names (R210); in protected mode a row has at most 64 bytes (R301). -/
def Iss.tileRow (c : Iss) (s : State) (a : Src) (t : Nat) (wait : Team → Nat → Bool) (body : Tile → Nat → Nat → Res) :
    Res := do
  let v ← c.needSrc .a a
  inRange (bitsN v 6 2 == 0 && bitsN v 9 23 == 0) v
  c.tileField s t
  c.after s (wait (c.team s) t) do
    let x := (c.team s).tile t
    tileFits x.configured t
    tileFits (decide (bitsN v 0 6 < x.rows)) t
    tileFits (!c.warp.prot || decide (x.rowb ≤ 64)) t
    body x (bitsN v 0 6) (bitsN v 8 1)

/-- TROWR (R210). -/
def execTrowr (d : Dst) (a : Src) (t : Nat) (s : State) : Host.Outcome State Fault Refusal :=
  execute s { d := dstOp d, a := srcOp a, valued := true } fun c => do
    c.whole
    c.tileRow s a t Team.readWait fun x r h => do
      noPoison x.poison
      let byte := fun i => if i < x.rowb then x.byte (r * x.rowb + i) else 0#8
      c.result s false d false
        (vec fun l => BitVec.ofNat 32 (leNat ((List.range 4).map fun i => byte (128 * h + 4 * l + i))))

/-- TROWW (R210): words of lanes that are not live stay. -/
def execTroww (t : Nat) (a b : Src) (s : State) : Host.Outcome State Fault Refusal :=
  execute s { a := srcOp a, b := srcOp b, valued := true } fun c => do
    c.whole
    c.tileRow s a t Team.writeWait fun x r h =>
      let v := c.read .b b
      let ws := (lanesOf c.live).flatMap fun l => (List.range 4).filterMap fun i =>
        let o := 128 * h + 4 * l + i
        if o < x.rowb then some ⟨r * x.rowb + o, 255, ((leBytes (v.lane l).toNat 4).getD i 0#8).toNat⟩ else none
      .ok (c.complete (s.mapTile c.warp.team t fun x => x.overwrite ws) c.warp)

/-! ## TLD and TST (R211, R212) -/

/-- Address of row `r`. -/
def rowAddr (a pitch r : Nat) : Nat := (a + r * pitch) % 2 ^ 64

/-- The rows a tile's bytes come from or go to. -/
def Tile.rowsAt (x : Tile) (a pitch : Nat) : List (Nat × Nat) := (List.range x.rows).map fun r => (rowAddr a pitch r, x.rowb)

/-- What TLD and TST check of address and pitch. -/
def tileAlign (a pitch : Nat) : Except Trap Unit :=
  if a % 16 ≠ 0 then .error (addrTrap 0x09 a none)
  else if pitch % 16 ≠ 0 then .error (addrTrap 0x09 (a + pitch) none)
  else .ok ()

/-- The addresses of a tile's bytes, row by row. -/
def Tile.addrs (x : Tile) (a pitch : Nat) : List Nat :=
  (x.rowsAt a pitch).flatMap fun r => (List.range r.2).map fun i => r.1 + i

/-- A tile is loaded (R211): its data moves, and it is landing until TILE_LANDED. -/
def landTile (g : Agent) (s : State) (spad : Bool) (team t a pitch : Nat) : State :=
  let x := (s.team team).tile t
  let r := g.read s spad (x.addrs a pitch)
  r.1.mapTile team t fun x =>
    { x with data := putRun x.data 0 (r.2.map Prod.fst), land := true, poison := r.2.any Prod.snd }

/-- Address, pitch and space of TLD and TST. -/
def Iss.tileOperands (c : Iss) (s : State) (t a : Nat) (b : Src) : Except Trap (Nat × Nat × Bool) := do
  c.whole
  let lo ← needU (c.regAt .a a 0)
  let hi ← needU (c.regAt .a a 1)
  let pitch ← c.needSrc .b b
  c.tileField s t
  let spad := bitsN c.ext 0 1 == 1
  return (if spad then lo else lo + 2 ^ 32 * hi, pitch, spad)

/-- TLD (R211). -/
def execTld (t a : Nat) (b : Src) (s : State) : Host.Outcome State Fault Refusal :=
  execute s { a := pairOp a, b := srcOp b, ext := .bits 1, compared := true } fun c => do
    let o ← c.tileOperands s t a b
    let x := (c.team s).tile t
    c.after s ((c.team s).writeWait t) do
      tileFits x.configured t
      tileAlign o.1 o.2.1
      c.checkRows s o.2.2 .read (x.rowsAt o.1 o.2.1)
      match c.waitRows s o.2.2 (x.rowsAt o.1 o.2.1) with
      | some p => return p
      | none => return c.complete (landTile (c.agent s) s o.2.2 c.warp.team t o.1 o.2.1) c.warp

/-- TST (R211). -/
def execTst (t a : Nat) (b : Src) (s : State) : Host.Outcome State Fault Refusal :=
  execute s { a := pairOp a, b := srcOp b, ext := .bits 1, compared := true } fun c => do
    let o ← c.tileOperands s t a b
    let x := (c.team s).tile t
    c.after s ((c.team s).readWait t) do
      tileFits x.configured t
      tileAlign o.1 o.2.1
      c.checkRows s o.2.2 .write (x.rowsAt o.1 o.2.1)
      noPoison x.poison
      match c.waitRows s o.2.2 (x.rowsAt o.1 o.2.1) with
      | some p => return p
      | none =>
        let as := x.addrs o.1 o.2.1
        return c.complete (c.external ((c.agent s).store s o.2.2 (as.zipIdx.map fun e => (e.1, x.byte e.2)))) c.warp

end Sys2Proof.Machine
end

