-- ==== Sys2Proof/Machine/Copy.lean ====
section
/-!
DEFINITION. Copies: the descriptor, the checks at issue, CPY and CPYX, the tag instructions, and what the copy engine does
(spec 07 R199 to R204, 12 R309, 16 R340 to R344).
-/

namespace Sys2Proof.Machine

/-! ## The descriptor (R199) -/

structure CopyD where
  src : Nat
  skind : Nat
  tag : Nat
  dst : Nat
  dkind : Nat
  rows : Nat
  cols : Nat
  spitch : Nat
  sfmt : Nat
  dfmt : Nat
  trn : Bool
  satf : Bool
  rnd : Nat
  had : Nat
  zf : Bool
  scexp : Int
  dpitch : Nat
  bobj : Option Nat
  vrows : Nat           -- the valid extent, clamped to the box
  vcols : Nat
  deriving DecidableEq, Repr

/-- The fields of a descriptor's words; `x`: twelve of them. -/
def copyD (d : List Nat) (x : Bool) : CopyD :=
  let w := fun i => d.getD i 0
  let rows := bitsN (w 4) 0 16
  let cols := bitsN (w 4) 16 16
  { src := w 0 + 2 ^ 32 * bitsN (w 1) 0 24, skind := bitsN (w 1) 24 2, tag := bitsN (w 1) 26 6
    dst := w 2 + 2 ^ 32 * bitsN (w 3) 0 24, dkind := bitsN (w 3) 24 2, rows := rows, cols := cols, spitch := w 5
    sfmt := bitsN (w 6) 0 4, dfmt := bitsN (w 6) 4 4, trn := bitsN (w 6) 8 1 == 1, satf := bitsN (w 6) 9 1 == 1
    rnd := bitsN (w 6) 10 3, had := bitsN (w 6) 13 2, zf := bitsN (w 6) 15 1 == 1, scexp := sextN (bitsN (w 6) 16 8) 8
    dpitch := bitsN (w 7) 0 16, bobj := if bitsN (w 7) 16 16 = 0xFFFF then none else some (bitsN (w 7) 16 16)
    vrows := if x then min (bitsN (w 8) 0 16) rows else rows, vcols := if x then min (bitsN (w 8) 16 16) cols else cols }

/-- The first word at fault (R200 check 1). The condition on HAD spans words 4, 6 and 8; it is reported as word 6, which holds
HAD (log 52). -/
def copyBadWord (d : List Nat) (x : Bool) : Option Nat :=
  let k := copyD d x
  let w := fun i => d.getD i 0
  let n := hadSize k.had
  ([(1, k.skind == 3 || (k.skind == 1 && bitsN (w 1) 0 24 != 0)),
    (2, decide (2 ≤ k.dkind) && w 2 / 16 != 0),
    (3, bitsN (w 3) 26 6 != 0 || (k.dkind != 0 && bitsN (w 3) 0 24 != 0)),
    (4, k.rows == 0 || k.cols == 0),
    (6, k.sfmt == 15 || k.dfmt == 15 || decide (5 < k.rnd) || k.had == 3 || bitsN (w 6) 24 8 != 0 ||
      (n != 0 && (k.cols % n != 0 || !(k.zf || (k.vrows == k.rows && k.vcols == k.cols))))),
    (7, decide (2 ≤ k.dkind) && k.dpitch != 0),
    (10, x && w 10 != 0), (11, x && w 11 != 0)].find? fun e => e.2).map Prod.fst

/-- Rows and columns of the destination. -/
def CopyD.dRows (k : CopyD) : Nat := if k.trn then k.cols else k.rows
def CopyD.dCols (k : CopyD) : Nat := if k.trn then k.rows else k.cols

/-- The match of R202 for a tile destination. -/
def CopyD.fitsTile (k : CopyD) (t : Tile) : Bool :=
  t.configured && t.fmt == k.dfmt && t.nkeep == 0 && decide (k.dRows ≤ t.rows) &&
    decide (runBytes (fmtCode k.dfmt) k.dCols ≤ t.rowb)

/-- The bases are multiples of the element size (check 5). -/
def CopyD.aligned (k : CopyD) : Bool :=
  k.src % elemBytes k.sfmt == 0 && (decide (2 ≤ k.dkind) || k.dst % elemBytes k.dfmt == 0)
where
  /-- The size of an element of 8 bits or more, else 1. -/
  elemBytes (f : Nat) : Nat := max 1 ((fmtCode f).width / 8)

/-! ## The follow-on (R200) -/

/-- A FOLLOW word as an MMA. -/
def followMma (w : Nat) : Option MatOp :=
  if bitsN w 26 6 = 0x2F ∧ bitsN w 25 1 = 0 ∧ bitsN w 18 4 = 0 ∧ bitsN w 15 3 = 0 ∧ bitsN w 8 3 = 0 ∧ bitsN w 0 4 ≤ 12 then
    some { kind := bitsN w 0 4, acc := bitsN w 23 2, clr := bitsN w 22 1 == 1, ta := bitsN w 11 4, tb := bitsN w 4 4, later := false }
  else none

/-- A FOLLOW word as a TLD: its tile, its pair and its pitch register. -/
def followTld (w : Nat) : Option (Nat × Nat × Src) :=
  if bitsN w 26 6 = 0x2D ∧ bitsN w 22 4 = 0 ∧ bitsN w 0 4 = 0 ∧ bitsN w 11 7 ≤ 110 ∧ bitsN w 11 1 = 0 then
    (Src.ofCode (bitsN w 4 7)).map fun b => (bitsN w 18 4, bitsN w 11 7, b)
  else none

/-- The follow-on a CPYX captures; a TLD's registers are read without the prefix. -/
def Iss.follow (c : Iss) (w : Nat) : Except Trap Follow :=
  let c0 : Iss := { c with split := { c.split with xp := none } }
  if w = 0 then .ok .none
  else match followMma w, followTld w with
    | some o, _ => .ok (.mma o)
    | _, some (t, a, b) => do
      let addr ← c0.pairU .a a
      let pitch ← c0.needSrc .b b
      return .tld t addr pitch c.warp.pkr
    | _, _ => trapW 0x02 9

/-! ## Issue (R200) -/

/-- Commands the copy engine of a cluster holds: a copy whose object step is taken is one no more (log 27). -/
def copiesHeld (s : State) (k : Nat) : Nat := ((s.cluster k).copies.filter fun x => decide (x.stage < 2)).length

/-- A resource the descriptor names is there (check 2). -/
def Iss.copyResources (c : Iss) (s : State) (k : CopyD) : Except Trap Unit := do
  if k.dkind = 2 then c.tileField s k.dst
  else if k.dkind = 3 then hasResource k.dst (s.crew (s.crewNo c.warp)).queues.length k.dst
  else .ok ()
  match k.bobj with
  | none => .ok ()
  | some o => hasResource o (s.launchOf c.warp).bobjs o

/-- The split parks: no command slot, no count left for the tag, or the destination tile is not free. -/
def Iss.copyMustWait (c : Iss) (s : State) (k : CopyD) : Bool :=
  decide (32 ≤ copiesHeld s c.cluster) || decide (255 ≤ (s.core c.warp.core).tagCount.getD k.tag 0) ||
    (k.dkind == 2 && (c.team s).writeWait k.dst)

/-- The copy in flight: its tag counts it, and a tile destination is landing. -/
def Iss.issueCopy (c : Iss) (s : State) (k : CopyD) (x : Copy) : State :=
  let s1 := s.mapCore c.warp.core fun y =>
    { y with tagCount := updAt y.tagCount k.tag (· + 1), tagmap := y.tagmap.set k.tag false }
  let s2 := if k.dkind = 2 then s1.mapTile c.warp.team k.dst fun t => { t with land := true } else s1
  c.external (s2.mapCluster c.cluster fun y => { y with copies := y.copies ++ [x] })

/-- CPY and CPYX; they wait for the warp's older accesses. -/
def copy (s : State) (a n : Nat) (x : Bool) : Host.Outcome State Fault Refusal :=
  execute s { a := .win a n 4 4, compared := true } fun c => do
    c.whole
    let d ← (List.range n).mapM fun j => needU (c.regAt .a a j)
    let k := copyD d x
    match copyBadWord d x with
    | some i => trapW 0x02 i
    | none => .ok ()
    c.copyResources s k
    if k.dkind = 2 then tileFits (k.fitsTile ((c.team s).tile k.dst)) k.dst else .ok ()
    if k.aligned then .ok () else trapU 0x09
    let f ← c.follow (if x then d.getD 9 0 else 0)
    if c.warp.accessOpen (.slot c.sp) then return c.park s .older
    else if c.copyMustWait s k then return c.park s .copyIssue
    else
      return c.complete (c.issueCopy s k
        { team := c.warp.team, core := c.warp.core, crew := s.crewNo c.warp, ctx := s.ctxOf c.warp, warp := c.w
          words := d.map (BitVec.ofNat 32), x := x, pkr := c.warp.pkr, seed := c.seed, tag := k.tag, bobj := k.bobj
          follow := f, rowb := ((c.team s).tile k.dst).rowb
          queue := if k.dkind = 3 then some k.dst else none, broken := false, kept := [], sent := 0, age := none, stage := 0, code := 0, count := 0 }) c.warp

/-- CPY (R200). -/
def execCpy (a : Nat) (s : State) : Host.Outcome State Fault Refusal := copy s a 8 false

/-- CPYX (R200). -/
def execCpyx (a : Nat) (s : State) : Host.Outcome State Fault Refusal := copy s a 12 true

/-! ## Tags (R204) -/

def tagmapOf (s : State) (core : Nat) : Nat := bitsNat (s.core core).tagmap
def errmapOf (s : State) (core : Nat) : Nat := bitsNat (s.core core).errmap

/-- What a wait for tags waits for. -/
def tagsMet (all : Bool) (map mask : Nat) : Bool :=
  if all then map &&& mask == mask else mask == 0 || map &&& mask != 0

/-- WTANY and WTALL. -/
def waitTags (s : State) (a : Nat) (all : Bool) : Host.Outcome State Fault Refusal :=
  execute s { a := pairOp a } fun c => do
    c.whole
    let m ← c.pairU .a a
    if tagsMet all (tagmapOf s c.warp.core) m then return c.complete s c.warp else return c.park s (.tags all m)

/-- WTANY. -/
def execWtany (a : Nat) (s : State) : Host.Outcome State Fault Refusal := waitTags s a false

/-- WTALL. -/
def execWtall (a : Nat) (s : State) : Host.Outcome State Fault Refusal := waitTags s a true

/-- The lowest set bit of a 64-bit number, all ones when there is none. -/
def lowestBit (n : Nat) : Nat := (((List.range 64).filter fun i => bitsN n i 1 == 1).headD 0xFFFFFFFF)

/-- WTFF. -/
def execWtff (nw : Bool) (d : Dst) (a : Nat) (s : State) : Host.Outcome State Fault Refusal :=
  execute s { d := dstOp d, a := pairOp a } fun c => do
    c.whole
    let m ← c.pairU .a a
    c.result s nw d true (.u (BitVec.ofNat 32 (lowestBit (tagmapOf s c.warp.core &&& m))))

/-- TAGCLR. -/
def execTagclr (a : Nat) (s : State) : Host.Outcome State Fault Refusal :=
  execute s { a := pairOp a } fun c => do
    c.whole
    let m ← c.pairU .a a
    let clear := fun (y : Core) (xs : List Bool) => (List.range 64).map fun t =>
      xs.getD t false && !(bitsN m t 1 == 1 && y.tagCount.getD t 0 == 0)
    return c.complete (s.mapCore c.warp.core fun y => { y with tagmap := clear y y.tagmap, errmap := clear y y.errmap }) c.warp

/-- TAGRD. -/
def execTagrd (nw : Bool) (d : Dst) (k : Nat) (s : State) : Host.Outcome State Fault Refusal :=
  execute s { d := dstOp d } fun c => do
    c.whole
    let v := if k < 2 then tagmapOf s c.warp.core else errmapOf s c.warp.core
    c.result s nw d true (.u (BitVec.ofNat 32 (v / 2 ^ (32 * (k % 2)))))

/-- CPYQ: the count of the core's copies stops at 255. -/
def execCpyq (nw : Bool) (d : Dst) (s : State) : Host.Outcome State Fault Refusal :=
  execute s { d := dstOp d } fun c => do
    c.whole
    let mine := (s.core c.warp.core).tagCount.foldl (· + ·) 0
    c.result s nw d true (.u (BitVec.ofNat 32 (32 - copiesHeld s c.cluster + 256 * min mine 255)))

/-! ## The engine's accesses (R201, R202) -/

def Copy.d (x : Copy) : CopyD := copyD (x.words.map BitVec.toNat) x.x
def Copy.agent (x : Copy) : Agent := { core := x.core, crew := x.crew, ctx := x.ctx, pkr := x.pkr }

/-- Source element (r, c) is in the valid extent. -/
def CopyD.valid (k : CopyD) (r c : Nat) : Bool := decide (r < k.vrows) && decide (c < k.vcols)

/-- First byte and bytes of source element (r, c). -/
def CopyD.srcSpan (k : CopyD) (r c : Nat) : Nat × Nat :=
  let e := elemSpan (fmtCode k.sfmt) (r * k.spitch + c)
  (k.src + e.1, e.2)

/-- The same of destination element (dr, dc), in memory. -/
def CopyD.dstSpan (k : CopyD) (dr dc : Nat) : Nat × Nat :=
  let e := elemSpan (fmtCode k.dfmt) (dr * k.dpitch + dc)
  (k.dst + e.1, e.2)

/-- The source elements of the extent that a destination element depends on. -/
def CopyD.deps (k : CopyD) (dr dc : Nat) : List (Nat × Nat) :=
  let r := if k.trn then dc else dr
  let c := if k.trn then dr else dc
  let n := hadSize k.had
  (if n = 0 then [(r, c)] else (List.range n).map fun j => (r, c / n * n + j)).filter fun e => k.valid e.1 e.2

/-- The peers in recovery that a run has parts on. -/
def Agent.runPeers (g : Agent) (s : State) (spad : Bool) (a n : Nat) : List Nat :=
  if spad || decide (2 ^ 56 < a + n) then [] else (lineParts a n).filterMap fun va => remoteWait s g.cluster g.ctx va

/-- The first check that a run fails; `kept`: check 8 fails at the peers waited for 30 s (R411). -/
def Agent.runFailure (g : Agent) (s : State) (kept : List (Nat × Nat)) (spad : Bool) (kind : Access) (a n : Nat) : Option Nat :=
  earlier (g.failure s spad kind a n) (if (g.runPeers s spad a n).any (lapsed s kept) then some 8 else none)

/-- The peers that a run waits for. -/
def Agent.runWaits (g : Agent) (s : State) (kept : List (Nat × Nat)) (spad : Bool) (a n : Nat) : List Nat :=
  (g.runPeers s spad a n).filter fun p => !lapsed s kept p

/-- The trap causes of the failures that a destination element meets. -/
def Copy.elementCauses (x : Copy) (s : State) (dr dc : Nat) : List Nat :=
  let k := x.d
  let g := x.agent
  let src := (k.deps dr dc).filterMap fun e =>
    let p := k.srcSpan e.1 e.2
    (g.runFailure s x.kept (k.skind == 1) .read p.1 p.2).map checkCause
  let dst := if 2 ≤ k.dkind then []
    else
      let p := k.dstSpan dr dc
      ((g.runFailure s x.kept (k.dkind == 1) .write p.1 p.2).map checkCause).toList
  src ++ dst

/-- The peers that an element waits for. -/
def Copy.elementWaits (x : Copy) (s : State) (dr dc : Nat) : List Nat :=
  let k := x.d
  (k.deps dr dc).flatMap (fun e => x.agent.runWaits s x.kept (k.skind == 1) (k.srcSpan e.1 e.2).1 (k.srcSpan e.1 e.2).2) ++
    if 2 ≤ k.dkind then [] else x.agent.runWaits s x.kept (k.dkind == 1) (k.dstSpan dr dc).1 (k.dstSpan dr dc).2

/-- The destination elements that are written, in row-major order (R201, R340). -/
def CopyD.elements (k : CopyD) : List (Nat × Nat) :=
  (List.range k.dRows).flatMap fun dr => (List.range k.dCols).filterMap fun dc =>
    if k.zf || (if k.trn then k.valid dc dr else k.valid dr dc) then some (dr, dc) else none

/-- The records of the malformed entries that a copy's accesses meet (R359); they name its team's warp. -/
def Copy.postMalformed (x : Copy) (s : State) : State :=
  let k := x.d
  let who := whoIs s (s.warps.getD x.warp Warp.blank)
  let src := if k.skind = 1 then [] else
    k.elements.flatMap fun e => (k.deps e.1 e.2).flatMap fun d => lineParts (k.srcSpan d.1 d.2).1 (k.srcSpan d.1 d.2).2
  let dst := if k.dkind ≠ 0 then [] else
    k.elements.flatMap fun e => lineParts (k.dstSpan e.1 e.2).1 (k.dstSpan e.1 e.2).2
  Sys2Proof.Machine.postMalformed (Sys2Proof.Machine.postMalformed s x.ctx src (who 0)) x.ctx dst (who 1)

/-- The source bytes read, each with its poison mark, and the state after the reads. -/
def Copy.readSource (x : Copy) (s : State) (es : List (Nat × Nat)) : State × List (Nat × Byte × Bool) :=
  let k := x.d
  let as := (es.flatMap fun e => (k.deps e.1 e.2).flatMap fun d =>
    let p := k.srcSpan d.1 d.2
    (List.range p.2).map fun i => p.1 + i).eraseDups
  let r := x.agent.read s (k.skind == 1) as
  (r.1, as.zip r.2)

/-- The conversion (R201) over source bytes. -/
def Copy.box (x : Copy) (bytes : List (Nat × Byte × Bool)) : Box :=
  let k := x.d
  let f := fmtCode k.sfmt
  let byte := fun a => (laneOf bytes a (0#8, false)).1
  { rows := k.rows, cols := k.cols
    x := fun r c =>
      if k.valid r c then some (f.value (elemAt (fun b => byte (k.src + b)) f (r * k.spitch + c))) else none
    zf := k.zf, src := f, dst := fmtCode k.dfmt, rnd := k.rnd, had := k.had, scale := k.scexp, trn := k.trn, satf := k.satf
    seed := x.seed }

/-- A destination element depends on a poisoned byte. -/
def Copy.poisoned (x : Copy) (bytes : List (Nat × Byte × Bool)) (dr dc : Nat) : Bool :=
  let k := x.d
  (k.deps dr dc).any fun e =>
    let p := k.srcSpan e.1 e.2
    (List.range p.2).any fun i => (laneOf bytes (p.1 + i) (0#8, false)).2

/-! ## The byte count (R202) -/

/-- The elements written in a destination row. -/
def CopyD.rowCount (k : CopyD) (dr : Nat) : Nat := (k.elements.filter fun e => e.1 == dr).length

/-- Entries a destination row forms, of `n` words each. -/
def CopyD.rowEntries (k : CopyD) (n dr : Nat) : Nat := (runBytes (fmtCode k.dfmt) (k.rowCount dr) + 4 * n - 1) / (4 * n)

/-- The copy's byte count: the destination bytes with a written bit, or the entries' bytes. R340's product is the same number where
rows of the destination do not share or leave parts of bytes; where it is not, R202 holds (log 55). -/
def Copy.byteCount (x : Copy) (s : State) : Nat :=
  let k := x.d
  if k.dkind = 3 then
    let n := entryWords (queueOf s x.crew k.dst).esz
    ((List.range k.dRows).map fun dr => k.rowEntries n dr * 4 * n).foldl (· + ·) 0
  else
    let pitch := fun dr => if k.dkind = 2 then dr * 8 * x.rowb / (fmtCode k.dfmt).width else dr * k.dpitch
    (k.elements.flatMap fun e =>
      let p := elemSpan (fmtCode k.dfmt) (pitch e.1 + e.2)
      (List.range p.2).map fun i => p.1 + i).eraseDups.length

/-! ## Landing -/

/-- The writes of some results at the destination. -/
def Copy.writes (x : Copy) (rs : List (Nat × Nat × Nat)) : List BitWrite :=
  let k := x.d
  rs.flatMap fun e =>
    if k.dkind = 2 then (elemWrite (fmtCode k.dfmt) e.2.1 e.2.2).map fun w => { w with off := w.off + e.1 * x.rowb }
    else (elemWrite (fmtCode k.dfmt) (e.1 * k.dpitch + e.2.1) e.2.2).map fun w => { w with off := w.off + k.dst }

/-- Results land in memory, in the scratchpad or in a tile, which is whole again when every byte of it was written. -/
def Copy.land (x : Copy) (s : State) (rs : List (Nat × Nat × Nat)) : State :=
  let k := x.d
  let ws := x.writes rs
  if k.dkind = 2 then
    s.mapTile x.team k.dst fun t => t.overwrite ws
  else x.agent.land s (k.dkind == 1) ws

/-- The entries of a queue destination, in order (R202). -/
def Copy.queueEntries (x : Copy) (s : State) (rs : List (Nat × Nat × Nat)) : List (List Word) :=
  let k := x.d
  let n := entryWords (queueOf s x.crew k.dst).esz
  (List.range k.dRows).flatMap fun dr =>
    let ws := (rs.filter fun e => e.1 == dr).flatMap fun e => elemWrite (fmtCode k.dfmt) e.2.1 e.2.2
    let bs := mergeBytes (fun _ => 0#8) ws
    (List.range (k.rowEntries n dr)).map fun i => (List.range n).map fun j =>
      (BitVec.ofNat 32 (leNat ((List.range 4).map fun b => laneOf bs (4 * (n * i + j) + b) 0#8)) : Word)

/-- Entries pushed while the queue has allowance and room and no push that has waited longer than since `age`: the state, and
how many. -/
def pushEntries (s : State) (crew q age : Nat) : List (List Word) → Nat → State × Nat
  | [], n => (s, n)
  | e :: es, n =>
    if (queueOf s crew q).canPush && !olderPush s crew q age then
      pushEntries (s.mapQueue crew q fun y => { y with allow := y.allow - 1, entries := y.entries ++ [e] }) crew q age es (n + 1)
    else (s, n)

/-! ## Completion (R203) -/

/-- Whom the accesses of a follow-on TLD are made for. -/
def Copy.followAgent (x : Copy) : Agent :=
  match x.follow with
  | .tld _ _ _ pkr => { x.agent with pkr := pkr }
  | _ => x.agent

/-- The rows that a follow-on TLD reads. -/
def Copy.followRows (x : Copy) (s : State) : List (Nat × Nat) :=
  match x.follow with
  | .tld n addr pitch _ => if (s.team x.team).res == .ended then [] else ((s.team x.team).tile n).rowsAt addr pitch
  | _ => []

/-- The peers that a copy waits for, its follow-on's rows included (R411). -/
def Copy.waits (x : Copy) (s : State) : List Nat :=
  (x.d.elements.flatMap fun e => x.elementWaits s e.1 e.2) ++
    (x.followRows s).flatMap fun r => x.followAgent.runWaits s x.kept false r.1 r.2

/-- A follow-on is checked against tiles and accumulators as they stand: its trap cause when it fails. -/
def Copy.followCause (x : Copy) (s : State) : Nat :=
  let t := s.team x.team
  let check : Except Trap Unit :=
    match x.follow with
    | .none => .ok ()
    | .mma o => do
      hasResource o.ta t.tiles.length o.ta
      hasResource o.tb t.tiles.length o.tb
      t.operandsFit s o
      t.accFits o
    | .tld n addr pitch _ => do
      hasResource n t.tiles.length n
      tileFits (t.tile n).configured n
      tileAlign addr pitch
      match worstRow ((x.followRows s).map fun r => (r.1, x.followAgent.runFailure s x.kept false .read r.1 r.2)) with
      | none => .ok ()
      | some (i, a) => .error (addrTrap (checkCause i) a none)
  match check with
  | .ok _ => 0
  | .error e => e.cause

/-- The split parked for tags whose wait is over completes. -/
def tagWaiters (s : State) (core : Nat) : State :=
  (parkedSeats s fun y p =>
    match p with
    | .tags all m => y.core == core && tagsMet all (tagmapOf s core) m
    | _ => false).foldl (fun s e => carryAt s e.1 e.2 fun s c => .ok (c.complete s c.warp)) s

/-- Step 1: the tag. -/
def Copy.step1 (x : Copy) (s : State) (code : Nat) : State :=
  let s1 := s.mapCore x.core fun y =>
    let n := y.tagCount.getD x.tag 0 - 1
    { y with tagCount := y.tagCount.set x.tag n, tagmap := if n = 0 then y.tagmap.set x.tag true else y.tagmap
             errmap := if code ≠ 0 then y.errmap.set x.tag true else y.errmap }
  tagWaiters s1 x.core

/-- Step 2: the object. One that lies outside the scratchpad that the crew holds by now takes neither count nor code (log 55). -/
def Copy.step2 (x : Copy) (s : State) (n code : Nat) : State :=
  match x.bobj with
  | none => s
  | some o =>
    if crewScratch s x.crew < 16 * o + 16 then s
    else
      let r := oEngine (objGet s x.crew (16 * o)) n code
      afterFlip (objPut s x.crew (16 * o) r.1) x.crew (16 * o) r.2

/-- Step 3 must wait: a TLD whose tile is not free (log 27). -/
def Copy.followWaits (x : Copy) (s : State) : Bool :=
  match x.follow with
  | .tld n _ _ _ => x.code == 0 && (s.team x.team).res != .ended && (s.team x.team).writeWait n
  | _ => false

/-- Step 3: the follow-on of a copy without an error, unless the team has ended. -/
def Copy.step3 (x : Copy) (s : State) : State :=
  if x.code ≠ 0 ∨ (s.team x.team).res = .ended then s
  else match x.follow with
    | .none => s
    | .mma o => s.mapTeam x.team fun t => t.accept o
    | .tld n addr pitch _ => landTile x.followAgent s false x.team n addr pitch

/-- The record for a copy that met poison (R203). The spec lays no record out for it: its KIND is free, the code stands in the place
of CAUSE in word 7, and no warp, team or address is named (log 55). -/
def copyRecord (s : State) (x : Copy) : State :=
  postGroup s x.ctx [mkRecord (recHead s x.ctx (Config.choice s.clk.tick 203 % 256) 0 0 ++ [(7, 0x15)])]

/-- A change of the copy at a place of a cluster's list. -/
def State.mapCopy (s : State) (k i : Nat) (f : Copy → Copy) : State :=
  s.mapCluster k fun y => { y with copies := updAt y.copies i f }

/-- The copy has landed, or stopped with a code: the follow-on's check, the records, and step 1. The other steps follow one by
one (R342). -/
def Copy.finish (x : Copy) (s : State) (k i n code : Nat) : State :=
  let s1 := if x.d.dkind = 2 then wakeArray (s.mapTile x.team x.d.dst fun t => { t with land := false }) x.team else s
  let ended := (s1.team x.team).res == .ended
  let code1 := if code = 0 && !ended then x.followCause s1 else code
  let s2 := if code = 0x15 then copyRecord s1 x else if code = 0x0A then x.postMalformed s1
    else if code1 = 0x0A then
      Sys2Proof.Machine.postMalformed s1 x.ctx ((x.followRows s1).flatMap fun r => lineParts r.1 r.2)
        (whoIs s1 (s1.warps.getD x.warp Warp.blank) 0)
    else s1
  x.step1 (s2.mapCopy k i fun y => { y with stage := 1, age := none, code := code1, count := n }) code1

/-- The engine carries a copy out: everything lands, or it stops with a failure (R203). Which of the failing causes is met,
and what had landed, are open (log 10). Where QCFG gives the queue of a copy another entry size between two of its pushes, the entries are
formed anew, as many as were pushed are left out, and they are counted at the new size (R202 is silent; log 55). -/
def Copy.carryOut (x : Copy) (s : State) (k i : Nat) : State :=
  let es : List (Nat × Nat) := x.d.elements
  let clean := es.filter fun e => (x.elementCauses s e.1 e.2).isEmpty
  let r := x.readSource s clean
  let sound := clean.filter fun e => !x.poisoned r.2 e.1 e.2
  let causes : List Nat := ((es.flatMap fun (e : Nat × Nat) => x.elementCauses s e.1 e.2) ++
    (if sound.length = clean.length then [] else [0x15])).eraseDups
  let n := x.byteCount s
  let all : List (Nat × Nat × Nat) := (x.box r.2).results
  let q := queueOf s x.crew x.d.dst
  if x.d.dkind = 3 then
    if x.broken || q.st != 1 then x.finish s k i n 0x12
    else
      let entries := x.queueEntries s all
      let ok := (List.range entries.length).takeWhile fun j =>
        -- the entry's elements are all sound
        let per := (entryWords q.esz) * 32 / (fmtCode x.d.dfmt).width
        let first := fun dr => ((List.range dr).map fun i => x.d.rowEntries (entryWords q.esz) i).foldl (· + ·) 0
        es.all fun e => first e.1 + e.2 / max 1 per != j || sound.contains e
      let goal := if causes.isEmpty then entries.length
        else x.sent + Config.choice s.clk.tick 2 % (ok.length - x.sent + 1)
      let age := x.age.getD s.clk.tick
      let p := pushEntries r.1 x.crew x.d.dst age ((entries.take goal).drop x.sent) 0
      if !causes.isEmpty then x.finish p.1 k i n (causes.getD (Config.choice s.clk.tick 1 % causes.length) 0)
      else if x.sent + p.2 = entries.length then x.finish p.1 k i n 0
      else p.1.mapCopy k i fun z => { z with sent := x.sent + p.2, age := some (if p.2 = 0 then age else s.clk.tick) }
  else if causes.isEmpty then x.finish (x.land r.1 all) k i n 0
  else
    let kept := (all.zipIdx.filter fun e =>
      sound.contains (e.1.1, e.1.2.1) && Config.landed s.clk.tick e.2).map Prod.fst
    x.finish (x.land r.1 kept) k i n (causes.getD (Config.choice s.clk.tick 1 % causes.length) 0)

/-- COPY_COMPLETE: the engine carries out a copy of a cluster, or takes its next step (R203, R342). It waits while a peer of
an element or of the follow-on is in recovery. -/
def execCopyComplete (k i : Nat) (s : State) : Host.Outcome State Fault Refusal :=
  match (s.cluster k).copies[i]? with
  | none => event s false s
  | some x =>
    match x.stage with
    | 0 => event s (x.waits s).isEmpty (x.carryOut s k i)
    | 1 => event s true (x.step2 (s.mapCopy k i fun y => { y with stage := 2 }) x.count x.code)
    | _ => event s (!x.followWaits s) (x.step3 (s.mapCluster k fun y => { y with copies := y.copies.eraseIdx i }))

/-- COPY_UNPARK: a parked CPY or CPYX issues again (R200). -/
def execCopyUnpark (w sp : Nat) (s : State) : Host.Outcome State Fault Refusal :=
  event s (slotPark (s.warps.getD w Warp.blank) sp == .copyIssue) (wake s w sp)

end Sys2Proof.Machine
end

