-- ==== Sys2Proof/Machine/Memory.lean ====
section
/-!
DEFINITION. Loads, stores, CACHE and phase boundaries: LDG to STP, PREF to INVL, PHREL to PHAR (spec 06 R167 to R174, R180,
R181).
-/

namespace Sys2Proof.Machine

/-! ## Loads and stores -/

/-- The form of a load. -/
def loadForm (w : MemWidth) (d : LdReg) (a : Nat) (b : Src) (cob : Bool) : Form :=
  { d := ldOp d w, a := pair6 a, b := srcOp b, ext := .bits 21, cob := cob, compared := true }

/-- The form of a store. -/
def storeForm (w : MemWidth) (d : StReg) (a : Nat) (b : Src) : Form :=
  { d := stOp d w, a := pair6 a, b := srcOp b, ext := .bits 21, dread := true, compared := true }

/-- A load through translation (LDG, LDP); it has no effect under em zero (R35). -/
def Iss.load (c : Iss) (s : State) (k : Space) (nw : Bool) (w : MemWidth) (d : LdReg) (a : Nat) (b : Src) (h : Nat) : Res :=
  if c.em = 0#32 then .ok (c.complete s c.warp)
  else do
    let addr := c.address a b
    let vas := fun l => c.byteAddrs k (widthBytes w) l (addr l)
    c.checkAccess s k .read (widthBytes w) addr
    match c.waitRemote s addr vas with
    | some t => return t
    | none =>
      let r := c.loadLanes s h (widthBytes w) vas
      c.poisonTrap (fun l => (vas l).headD 0) ((r.2.filter fun e => e.2.any Prod.snd).map Prod.fst)
      c.finishLoad r.1 nw d w
        (loadReg w (k == .global && c.uniformAddress a b) (r.2.map fun e => (e.1, e.2.map Prod.fst)))

/-- A store through translation (STG, STP). -/
def Iss.store (c : Iss) (s : State) (k : Space) (w : MemWidth) (d : StReg) (a : Nat) (b : Src) (h : Nat) : Res :=
  if c.em = 0#32 then .ok (c.complete s c.warp)
  else do
    let addr := c.address a b
    let vas := fun l => c.byteAddrs k (widthBytes w) l (addr l)
    c.checkAccess s k .write (widthBytes w) addr
    match c.waitRemote s addr vas with
    | some t => return t
    | none =>
      let s1 := c.storeLanes s h vas (c.storeData w d)
      return c.complete (if k = .global then c.external s1 else s1) c.warp

/-- LDG (R167 to R169). -/
def execLdg (nw : Bool) (w : MemWidth) (d : LdReg) (a : Nat) (b : Src) (h : Nat) (s : State) :
    Host.Outcome State Fault Refusal :=
  execute s (loadForm w d a b true) fun c => c.load s .global nw w d a b h

/-- STG (R167 to R169). -/
def execStg (w : MemWidth) (d : StReg) (a : Nat) (b : Src) (h : Nat) (s : State) : Host.Outcome State Fault Refusal :=
  execute s (storeForm w d a b) fun c => c.store s .global w d a b h

/-- LDP (R170): always V. -/
def execLdp (nw : Bool) (w : MemWidth) (d : LdReg) (a : Nat) (b : Src) (h : Nat) (s : State) :
    Host.Outcome State Fault Refusal :=
  execute s (loadForm w d a b false) fun c => c.load s .priv nw w d a b h

/-- STP (R170). -/
def execStp (w : MemWidth) (d : StReg) (a : Nat) (b : Src) (h : Nat) (s : State) : Host.Outcome State Fault Refusal :=
  execute s (storeForm w d a b) fun c => c.store s .priv w d a b h

/-- LDS (R171). -/
def execLds (nw : Bool) (w : MemWidth) (d : LdReg) (a : Nat) (b : Src) (s : State) : Host.Outcome State Fault Refusal :=
  execute s (loadForm w d a b true) fun c =>
    if c.em = 0#32 then .ok (c.complete s c.warp)
    else do
      let addr := c.address a b
      let crew := s.crewNo c.warp
      c.checkScratch s (widthBytes w) addr
      c.poisonTrap addr ((lanesOf c.em).filter fun l => (List.range (widthBytes w)).any fun i => scratchBad s crew (addr l + i))
      c.finishLoad s nw d w (loadReg w (c.uniformAddress a b)
        ((lanesOf c.em).map fun l => (l, scratchBytes s crew (addr l) (widthBytes w))))

/-- STS (R171). -/
def execSts (w : MemWidth) (d : StReg) (a : Nat) (b : Src) (s : State) : Host.Outcome State Fault Refusal :=
  execute s (storeForm w d a b) fun c =>
    if c.em = 0#32 then .ok (c.complete s c.warp)
    else do
      let addr := c.address a b
      c.checkScratch s (widthBytes w) addr
      let ws := (lanesOf c.em).flatMap fun l =>
        (List.range (widthBytes w)).map fun i => (addr l + i, (c.storeData w d l).getD i 0#8)
      return c.complete (c.external (scratchPut s (s.crewNo c.warp) ws)) c.warp

/-! ## CACHE (R174) -/

/-- The lines that the lanes of em name; a non-canonical address is ignored. -/
def Iss.namedLines (c : Iss) (a : Nat) (b : Src) : List Nat :=
  linesOf (((lanesOf c.em).map (c.address a b)).filter fun va => decide (va < 2 ^ 56))

/-- A CACHE instruction: what it does to each line. -/
def cacheOp (s : State) (a : Nat) (b : Src) (f : Iss → State → Nat → State) : Host.Outcome State Fault Refusal :=
  execute s { a := pair6 a, b := srcOp b, ext := .bits 21 } fun c =>
    .ok (c.complete ((c.namedLines a b).foldl (f c) s) c.warp)

/-- A line is fetched into L1, or into L2 only; an access that would fault is dropped, and so is one to a peer in recovery, for which
a hint does not wait (log 55). -/
def Iss.prefetch (c : Iss) (h : Nat) (s : State) (va : Nat) : State :=
  let cx := s.ctxOf c.warp
  match leafCheck s cx c.warp.pkr .read va (accessLeaf s c.cluster cx va), remoteWait s c.cluster cx va with
  | none, none =>
    let l := grantedLeaf s c.cluster cx va
    if h = 3 then touchL2By s cx l va h else (l1Get s c.cluster cx l va h).1
  | _, _ => s

/-- A line loses its evict-last mark in L1 and L2. -/
def Iss.unmark (c : Iss) (s : State) (va : Nat) : State :=
  let asid := s.asid (s.ctxOf c.warp)
  let f : Line → Line := fun x => if isLine asid va x && x.mark == 2 then { x with mark := 0 } else x
  let s1 := s.mapL1 c.cluster fun ls => ls.map f
  { s1 with mem := { s1.mem with l2 := s1.mem.l2.map f } }

/-- A line of the issuing cluster's L1, if it holds it, is given to `f`. -/
def Iss.onLine (c : Iss) (f : State → Nat → Line → State) (s : State) (va : Nat) : State :=
  match l1Line? s c.cluster (s.ctxOf c.warp) va with
  | some x => f s c.cluster x
  | none => s

/-- PREF (R174). -/
def execPref (a : Nat) (b : Src) (h : Nat) (s : State) : Host.Outcome State Fault Refusal :=
  cacheOp s a b fun c s va => c.prefetch h s va

/-- DEMOTE (R174). -/
def execDemote (a : Nat) (b : Src) (_h : Nat) (s : State) : Host.Outcome State Fault Refusal :=
  cacheOp s a b fun c s va => c.unmark s va

/-- CLEANL (R174). -/
def execCleanl (a : Nat) (b : Src) (_h : Nat) (s : State) : Host.Outcome State Fault Refusal :=
  cacheOp s a b fun c s va => c.onLine cleanL1 s va

/-- INVL (R174). -/
def execInvl (a : Nat) (b : Src) (_h : Nat) (s : State) : Host.Outcome State Fault Refusal :=
  cacheOp s a b fun c s va => c.onLine evictL1 s va

/-! ## PHASE (R180, R181, R255) -/

/-- A boundary: it waits for the older accesses of the warp's other splits. At a scope that names only the issuing cluster it then
completes at once; else its release is made and the split parks until PHASE_BOUNDARY_DONE. -/
def boundary (s : State) (sc : Nat) (rel acq : Bool) : Host.Outcome State Fault Refusal :=
  latching s sc <| execute s { ext := .none } fun c =>
    let k := c.scopeAt s sc
    let s1 := if rel then c.external s else s
    if !c.scopeOk s sc then trapU 0x10
    else if c.warp.accessOpen (.slot c.sp) then .ok (c.park s .older)
    else if k.onlyHome c.cluster then .ok (c.switchTo s1 c.warp (c.split.pc + 4))
    else if rel then
      let r := release s1 c.cluster k (some (whoIs s c.warp 1))
      .ok (c.park r.1 (.boundary rel acq r.2.1 r.2.2))
    else .ok (c.park s1 (.boundary rel acq 0 0))

/-- PHREL (R180). -/
def execPhrel (sc : Nat) (s : State) : Host.Outcome State Fault Refusal := boundary s sc true false

/-- PHACQ (R180). -/
def execPhacq (sc : Nat) (s : State) : Host.Outcome State Fault Refusal := boundary s sc false true

/-- PHAR (R180). -/
def execPhar (sc : Nat) (s : State) : Host.Outcome State Fault Refusal := boundary s sc true true

end Sys2Proof.Machine
end

