-- ==== Sys2Proof/Machine/Shape.lean ====
section
/-!
DEFINITION. Shape instructions, the window and index registers, and the vector quota: SHAPE, WIN, RGIVE to ALLOTQ (spec 05
R133 to R145).
-/

namespace Sys2Proof.Machine

/-! ## Full writes (R135, R136) -/

/-- A result written in full whatever em is; under NW the latch alone, whose write-back is a full write too. Nothing happens
under em zero. -/
def Iss.fullResult (c : Iss) (s : State) (nw : Bool) (d : Dst) (res : Reg) : State :=
  match c.dst d with
  | none => c.complete s c.warp
  | some p =>
    if c.em = 0#32 then c.complete s c.warp
    else
      let l : Latch := { res := res, val := res, dst := some p, nw := nw, em := c.em, full := true, lost := false }
      if nw then c.retireTo s c.warp (c.split.pc + 4) l []
      else c.retireTo s (c.warp.fullWrite p res) (c.split.pc + 4) l [p]

/-! ## The fit of R136 -/

/-- The inverse of an odd number mod 2^32: each step doubles the bits that are right. -/
def oddInverse (o : Nat) : Nat :=
  let step := fun x : Nat => x * (2 + 2 ^ 32 - o * x % 2 ^ 32) % 2 ^ 32
  step (step (step (step o)))

def trailingZeros (n : Nat) : Nat := lowestLane (BitVec.ofNat 32 n)

/-- The stride that two lanes at distance `d` fix, when their difference `dv` allows one. -/
def strideOf (dv d : Nat) : Option Nat :=
  let t := trailingZeros d
  let m := 2 ^ (32 - t)
  if dv % 2 ^ t ≠ 0 then none else some (dv / 2 ^ t * (oddInverse (d / 2 ^ t) % m) % m)

/-- Base and stride over the lanes of a mask that is not empty, or the lanes that do not match. Where the low bits of the difference
forbid any stride there is no fit to compare with, and lane l1 alone is named (DESIGN CHOICE, log 55). -/
def fit (m : Mask) (a : Reg) : Except Mask Reg :=
  let l0 := lowestLane m
  let l1 := lowestLane (m &&& ~~~BitVec.ofNat 32 (2 ^ l0))
  let stride := if l1 = 32 then some 0 else strideOf ((a.lane l1 - a.lane l0).toNat) (l1 - l0)
  match stride with
  | none => .error (BitVec.ofNat 32 (2 ^ l1))
  | some n =>
    let r : Reg := .a (a.lane l0 - BitVec.ofNat 32 (n * l0)) (BitVec.ofNat 32 n)
    let bad := maskWhere fun l => m.getLsbD l && r.lane l != a.lane l
    if bad = 0#32 then .ok r else .error bad

/-! ## SHAPE -/

/-- SHQ (R133). -/
def execShq (nw : Bool) (d : Dst) (a : Src) (s : State) : Host.Outcome State Fault Refusal :=
  execute s { d := dstOp d, a := srcOp a, em0 := .uniform } fun c =>
    c.result s nw d true (.u (BitVec.ofNat 32 (c.read .a a).shape))

/-- The shape tests of R134. -/
def assertShape (s : State) (a : Src) (ok : Reg → Bool) : Host.Outcome State Fault Refusal :=
  execute s { a := srcOp a, em0 := .always } fun c =>
    let r := c.read .a a
    if ok r then .ok (c.complete s c.warp) else trapW 0x06 r.shape

/-- SHA.U (R134). -/
def execShaU (a : Src) (s : State) : Host.Outcome State Fault Refusal := assertShape s a Reg.isU

/-- SHA.A (R134). -/
def execShaA (a : Src) (s : State) : Host.Outcome State Fault Refusal := assertShape s a fun r => !r.isU && !r.isV

/-- SHA.C (R134). -/
def execShaC (a : Src) (s : State) : Host.Outcome State Fault Refusal := assertShape s a fun r => !r.isV

/-- SHF.U (R135). -/
def execShfU (nw : Bool) (d : Dst) (a : Src) (s : State) : Host.Outcome State Fault Refusal :=
  execute s { d := dstOp d, a := srcOp a } fun c => .ok (c.fullResult s nw d (.u ((c.read .a a).lane c.first)))

/-- SHF.A (R136). -/
def execShfA (nw : Bool) (d : Dst) (a : Src) (s : State) : Host.Outcome State Fault Refusal :=
  execute s { d := dstOp d, a := srcOp a, valued := true } fun c =>
    if c.em = 0#32 then .ok (c.complete s c.warp)
    else
      match fit c.em (c.read .a a) with
      | .ok r => .ok (c.fullResult s nw d r)
      | .error bad => .error { cause := 0x06, val := .word (0x100 + lowestLane bad), lanes := some bad }

/-- The places of a group that are compact. -/
def Iss.compactPlaces (c : Iss) (n k : Nat) : List Place :=
  (c.places .d n k).filter fun p => !(c.warp.getReg p).isV

/-- A place is a descriptor slot, which counts under R28. -/
def Place.counts (p : Place) : Bool :=
  match p with
  | .slot _ => true
  | .bank _ => false

/-- SHW (R137): storage changes and no lane value. -/
def execShw (d n : Nat) (s : State) : Host.Outcome State Fault Refusal :=
  execute s { d := .win d n 1 1 } fun c =>
    let ps := c.compactPlaces d n
    let k := (ps.filter Place.counts).length
    if c.warp.free < k then trapW 0x07 (k - c.warp.free)
    else .ok (c.retireTo s (ps.foldl (fun x p => x.setReg p (c.warp.getReg p).expand) c.warp) (c.split.pc + 4)
      Latch.empty ps)

/-- What SHN makes of a register: U, then A, where the live lanes allow it. -/
def compactForm (live : Mask) (r : Reg) : Reg :=
  let v := r.lane (lowestLane live)
  if !r.isV || live = 0#32 then r
  else if (lanesOf live).all fun l => r.lane l == v then .u v
  else match fit live r with
    | .ok x => x
    | .error _ => r

/-- SHN (R138): its latch entry is empty, so under NW it leaves the register alone (log 20). -/
def execShn (nw : Bool) (d : Dst) (s : State) : Host.Outcome State Fault Refusal :=
  execute s { d := dstOp d, dread := true, em0 := .always } fun c =>
    match c.dst d with
    | none => .ok (c.complete s c.warp)
    | some p =>
      let r := compactForm c.live (c.warp.getReg p)
      if nw || r == c.warp.getReg p then .ok (c.complete s c.warp)
      else .ok (c.retireTo s (c.warp.setReg p r) (c.split.pc + 4) Latch.empty [p])

/-! ## The window and index registers (R139 to R141) -/

/-- A new window base, or trap 0x04 with the base asked for (R17, R139). -/
def Iss.moveWindow (c : Iss) (s : State) (base : Int) : Res :=
  if 0 ≤ base ∧ base % 8 = 0 ∧ base + 112 ≤ c.warp.allot then
    .ok (c.complete s { c.warp with winBase := base.toNat })
  else trapW 0x04 (modPow base 32)

/-- WBASE (R139). -/
def execWbase (a : Src) (s : State) : Host.Outcome State Fault Refusal :=
  execute s { a := srcOp a, em0 := .always, valued := true } fun c => do
    let v ← needU (c.read .a a)
    c.moveWindow s (sextN v 32)

/-- WBASEI (R139): B holds the distance in units of 8. -/
def execWbasei (delta : Nat) (s : State) : Host.Outcome State Fault Refusal :=
  execute s {} fun c => c.moveWindow s ((c.warp.winBase : Int) + 8 * sextN delta 7)

/-- WQRY (R141). -/
def execWqry (nw : Bool) (d : Dst) (s : State) : Host.Outcome State Fault Refusal :=
  execute s { d := dstOp d } fun c =>
    c.result s nw d true (.u (BitVec.ofNat 32 (c.warp.winBase + 65536 * c.warp.allot)))

/-- IXSET (R141). -/
def execIxset (a : Src) (k : Nat) (s : State) : Host.Outcome State Fault Refusal :=
  execute s { a := srcOp a, em0 := .always } fun c => do
    let v ← needU (c.read .a a)
    return c.complete s { c.warp with xs := c.warp.xs.set k (BitVec.ofNat 32 v) }

/-- IXGET (R141). -/
def execIxget (nw : Bool) (d : Dst) (k : Nat) (s : State) : Host.Outcome State Fault Refusal :=
  execute s { d := dstOp d } fun c => c.result s nw d true (.u (c.warp.xs.getD k 0#32))

/-! ## The vector quota (R142 to R145) -/

/-- The count of RGIVE and RCLAIM (R142). -/
def Iss.count (c : Iss) (a : Src) (imm : Nat) : Except Trap Nat := do
  let v ← needU (c.read .a a)
  return v + imm

/-- RGIVE (R143). -/
def execRgive (a : Src) (imm : Nat) (s : State) : Host.Outcome State Fault Refusal :=
  execute s { a := srcOp a, em0 := .always, valued := true } fun c => do
    let n ← c.count a imm
    if c.warp.free < n ∨ c.warp.q < c.warp.floor + n then trapW 0x18 (min c.warp.free (c.warp.q - c.warp.floor))
    else
      return c.complete (s.mapCore c.warp.core fun k => { k with pool := k.pool + n })
        { c.warp with q := c.warp.q - n, free := c.warp.free - n }

/-- RCLAIM (R144): the claim joins the core's queue and the split parks; RCLAIM_GRANT grants it. -/
def execRclaim (a : Src) (imm : Nat) (s : State) : Host.Outcome State Fault Refusal :=
  execute s { a := srcOp a, em0 := .always, valued := true } fun c => do
    let n ← c.count a imm
    if n = 0 then return c.complete s c.warp
    else match claimLimit s c.w c.warp n with
      | some most => trapW 0x19 most
      | none =>
        let age := (s.core c.warp.core).claims
        return c.park (s.mapCore c.warp.core fun k => { k with claims := k.claims + 1 }) (.claim n age)

/-- RQUOTA (R145). -/
def execRquota (nw : Bool) (d : Dst) (s : State) : Host.Outcome State Fault Refusal :=
  execute s { d := dstOp d } fun c => c.result s nw d true (.u (BitVec.ofNat 32 (c.warp.q + 65536 * c.warp.free)))

/-- ALLOTQ (R145): a count that its six bits do not hold is taken to stop at 63 (log 52). -/
def execAllotq (nw : Bool) (d : Dst) (s : State) : Host.Outcome State Fault Refusal :=
  execute s { d := dstOp d } fun c =>
    let k := c.warp.core
    c.result s nw d true (.u (BitVec.ofNat 32 ((s.core k).pool + 65536 * min (claimsOn s k).length 63)))

end Sys2Proof.Machine
end

