-- ==== Sys2Proof/Machine/Wake.lean ====
section
/-!
DEFINITION. Events on a core: rotation, late data, walks, boundaries, barriers, sleeps, claims, queues, tiles and the array,
and the watchdog with the fabric's keep-alives (spec 01 R40; 03 R94; 05 R144; 06 R160, R162, R169, R180; 07 R190, R196,
R212; 19 R360; 22 R411).
-/

namespace Sys2Proof.Machine

/-- What the split an event names is parked for: in slot 0 or 1, or in entry `sp - 2` of the Welt. -/
def parkOf (s : State) (w sp : Nat) : Park := seatPark (s.warps.getD w Warp.blank) (seatOf sp)

/-- `carryAt` for the split an event names. -/
def carryOn (s : State) (w sp : Nat) (body : State → Iss → Res) : State := carryAt s w (seatOf sp) body

/-! ## Rotation (R40) -/

/-- No split of a warp stands between a prefix and its word (R83); a parked one has issued both. -/
def noPair (x : Warp) : Bool :=
  (List.range 2).all fun sp => match x.split? sp with | some t => t.xp.isNone || t.park != .no | none => true

/-- The slot whose occupant has held it longest; slot 0 of two that took theirs at the same moment (log 52). -/
def oldestSlot (x : Warp) : Nat :=
  match x.split0, x.split1 with
  | some a, some b => if b.since < a.since then 1 else 0
  | none, some _ => 1
  | _, _ => 0

/-- The oldest occupant and the oldest suspended split change places. -/
def rotate (s : State) (w : Nat) (x : Warp) : State :=
  let sp := oldestSlot x
  match x.weltOrder, (x.groupSwitch sp).split? sp with
  | i :: rest, some u =>
    match weltGet s w i with
    | (s1, some (.split t)) =>
      let s2 := s1.mapWarp w fun _ =>
        { (x.groupSwitch sp).setSplit sp (some { t with since := s.clk.ns }) with weltOrder := rest ++ [i], issued := 0 }
      (weltPut s2 w i (.split u)).run [.settle w sp]
    | (s1, _) => s1.run [.halt w (weltHalt (weltSplit x i))]
  | _, _ => s

/-- WELT_ROTATION. -/
def execWeltRotation (w : Nat) (s : State) : Host.Outcome State Fault Refusal :=
  let x := s.warps.getD w Warp.blank
  event s (rotationDue x && (s.team x.team).res == .running && noPair x) (rotate s w x)

/-! ## Late data and walks (R169, R360) -/

/-- The results of a load whose data has arrived. -/
def Iss.deliver (c : Iss) (s : State) (d : Late) : Res :=
  let c : Iss := { c with warp := { c.warp with free := c.warp.free + d.slots } }
  match d.writes, d.nw with
  | [], _ => .ok (c.complete s c.warp)
  | e :: _, true =>
    if c.em = 0#32 then .ok (c.complete s c.warp)
    else .ok (c.retireTo s c.warp (c.split.pc + 4) (c.latch false true e.1 e.2) [])
  | ws, false => c.results s false ws

/-- LOAD_DATA_RETURN. -/
def execLoadDataReturn (w sp : Nat) (s : State) : Host.Outcome State Fault Refusal :=
  match seated (s.warps.getD w Warp.blank) (seatOf sp) with
  | some { late := some d, .. } => event s (parkOf s w sp == .data) (carryOn s w sp fun s c => c.deliver s d)
  | _ => event s false s

/-- PAGE_WALK: a walk on a miss of a controller's TLB begins, recording the shoot-down sequence, or ends (R360). It ends by filling
the TLB, or by a record for a malformed entry (R359), and begins again when the sequence has moved on. -/
def execPageWalk (ctx va : Nat) (s : State) : Host.Outcome State Fault Refusal :=
  let x := s.ctx ctx
  let pl := x.placement va
  let here := match homeOf pl va with | .stack _ | .hub => true | _ => false
  let ctl := ctlOf pl va
  let seq := shootSeqOf s ctl x.asid
  let known := s.mp.tlb.any fun t => t.ctl == ctl && t.asid == x.asid && t.page == va / 65536
  let mine := fun (k : WalkState) => k.ctl == ctl && k.ctx == ctx && k.va == va
  let rest := s.mp.walks.filter fun k => !mine k
  let begun := { s with mp := { s.mp with walks := { ctl := ctl, ctx := ctx, va := va, seq := seq } :: rest } }
  let rested := { s with mp := { s.mp with walks := rest } }
  event s (x.st != 0 && decide (va < 2 ^ 56) && here && !known)
    (match s.mp.walks.find? mine with
    | none => begun
    | some k =>
      if k.seq ≠ seq then begun
      else match walkTables s x.root pl va with
        | .leaf l =>
          { rested with mp := { rested.mp with tlb := { ctl := ctl, asid := x.asid, page := va / 65536, leaf := l } :: s.mp.tlb } }
        | .malformed pa lev e => postGroup rested ctx (malformedRec s ctx pa lev e)
        | .absent => rested)

/-! ## Boundaries, WSYNC, sleeps (R160, R180, R181) -/

/-- The end of a boundary: trap 0x14 when lines were refused; else the acquire, and the split goes on. -/
def Iss.boundaryEnd (c : Iss) (s : State) (acq : Bool) (refused twb : Nat) : Res :=
  if refused ≠ 0 then .error { cause := 0x14, val := .word refused, twb := twb }
  else .ok (c.switchTo (if acq then acquireAll s c.cluster else s) c.warp (c.split.pc + 4))

/-- PHASE_BOUNDARY_DONE: a release is over when no write-back of the cluster waits for its answer (R180, R411). A split that waited for
older accesses of its warp issues its instruction again. -/
def execPhaseBoundaryDone (w sp : Nat) (s : State) : Host.Outcome State Fault Refusal :=
  match parkOf s w sp with
  | .older => event s (!(s.warps.getD w Warp.blank).accessOpen (seatOf sp)) (wakeAt s w (seatOf sp))
  | .boundary rel acq refused twb =>
    event s (!(rel && wbOpen s (clusterOf (s.warps.getD w Warp.blank).core))) (carryOn s w sp fun s c => c.boundaryEnd s acq refused twb)
  | _ => event s false s

/-- WSYNC_DONE: no other split of the warp has an access that is not performed, a load whose data is late, or another register
result to come. -/
def execWsyncDone (w sp : Nat) (s : State) : Host.Outcome State Fault Refusal :=
  event s (parkOf s w sp == .wsync && !(s.warps.getD w Warp.blank).resultOpen (seatOf sp))
    (carryOn s w sp fun s c => .ok (c.complete s c.warp))

/-- SLEEP_EXPIRE. -/
def execSleepExpire (w sp : Nat) (s : State) : Host.Outcome State Fault Refusal :=
  match parkOf s w sp with
  | .sleep t => event s (decide (t ≤ s.clk.cycle)) (carryOn s w sp fun s c => .ok (c.complete s c.warp))
  | _ => event s false s

/-! ## Barriers (R162) -/

/-- The BAR word and index at which a warp has arrived: every split whose entry mask is not empty is parked there. -/
def arrivedAt (x : Warp) : Option (Nat × Nat) :=
  let ts := ((seats x).filterMap (seated x)).filter fun t => t.entry != 0#32
  match ts with
  | [] => none
  | t :: _ =>
    match t.park with
    | .bar pc idx _ _ =>
      if ts.all fun u => match u.park with | .bar pc' idx' _ _ => pc' == pc && idx' == idx | _ => false then some (pc, idx)
      else none
    | _ => none

/-- The warps of a team that a barrier counts. -/
def countedWarps (s : State) (team : Nat) : List Nat :=
  (teamWarps s team).filter fun w => let x := s.warps.getD w Warp.blank; x.st != .ended && x.live != 0#32

/-- BAR_COMPLETE. -/
def execBarComplete (team idx : Nat) (s : State) : Host.Outcome State Fault Refusal :=
  let ws := countedWarps s team
  let all := ws.all fun w => match arrivedAt (s.warps.getD w Warp.blank) with | some b => b.2 == idx | none => false
  let r := ws.foldl (fun (acc : State × List Task) w =>
    let r := releaseBars acc.1 w (fun i => i == idx) true
    (r.1, acc.2 ++ r.2)) (s, [])
  event s ((s.team team).res == .running && !ws.isEmpty && all) (r.1.run r.2)

/-! ## Claims (R144) -/

/-- The first claim that can never be granted any more. -/
def deadClaim (s : State) (core : Nat) : Option (Nat × Seat × Nat) :=
  (claimQueue s core).findSome? fun e => (claimLimit s e.1 (s.warps.getD e.1 Warp.blank) e.2.2).map fun m => (e.1, e.2.1, m)

/-- RCLAIM_GRANT: a claim that has become impossible traps; else the head claim is granted, which can make another of the warp
impossible. -/
def execRclaimGrant (core : Nat) (s : State) : Host.Outcome State Fault Refusal :=
  match deadClaim s core, claimQueue s core with
  | some (w, k, m), _ => event s true (carryAt s w k fun _ _ => trapW 0x19 m)
  | none, (w, k, n) :: _ =>
    event s (decide (n ≤ (s.core core).pool))
      (lateClaims (carryAt s w k fun s c =>
        .ok (c.complete (s.mapCore core fun y => { y with pool := y.pool - n })
          { c.warp with q := c.warp.q + n, free := c.warp.free + n })) [core])
  | none, [] => event s false s

/-! ## Queues (R196) -/

/-- The oldest of some parked splits by the age their park holds. -/
def oldestParked (s : State) (es : List (Nat × Seat)) : Option (Nat × Seat) :=
  let age := fun (e : Nat × Seat) => match seatPark (s.warps.getD e.1 Warp.blank) e.2 with
    | .push _ _ a => a
    | .pop _ _ _ a => a
    | _ => 0
  es.foldl (fun r e => match r with
    | none => some e
    | some b => if age e < age b then some e else some b) none

/-- QPUSH_GRANT: the oldest parked push, unless a copy has waited longer, once the older accesses of its warp are performed (R196,
R198, R202). -/
def execQpushGrant (crew q : Nat) (s : State) : Host.Outcome State Fault Refusal :=
  match oldestParked s (pushParked s crew q) with
  | none => event s false s
  | some (w, k) =>
    match seatPark (s.warps.getD w Warp.blank) k with
    | .push a _ age =>
      event s ((queueOf s crew q).st == 1 && (queueOf s crew q).canPush && (!copyWaits s crew q fun n => decide (n < age)) &&
          !(s.warps.getD w Warp.blank).accessOpen k)
        (carryAt s w k fun s c => .ok (c.pushNow s a q))
    | _ => event s false s

/-- QPOP_GRANT. -/
def execQpopGrant (crew q : Nat) (s : State) : Host.Outcome State Fault Refusal :=
  match oldestParked s (popParked s crew q) with
  | none => event s false s
  | some (w, k) =>
    match seatPark (s.warps.getD w Warp.blank) k with
    | .pop nw d _ _ =>
      event s ((queueOf s crew q).st == 1 && !(queueOf s crew q).entries.isEmpty) (carryAt s w k fun s c => c.popNow s nw d q)
    | _ => event s false s

/-- BOWAIT_TIMEOUT (R190): once the cycle in which the time runs out is over, so that a flip in it has been seen (R337). -/
def execBowaitTimeout (w sp : Nat) (s : State) : Host.Outcome State Fault Refusal :=
  match parkOf s w sp with
  | .bowait _ pd (some t) => event s (decide (t < s.clk.cycle)) (carryOn s w sp fun s c => .ok (c.predResult s pd 0#32))
  | _ => event s false s

/-! ## Tiles and the array (R94, R212, R215) -/

/-- A copy is still landing in a tile. -/
def copyLanding (s : State) (team t : Nat) : Bool :=
  s.clusters.any fun k => k.copies.any fun x => x.stage == 0 && x.team == team && x.d.dkind == 2 && x.d.dst == t

/-- TILE_LANDED: the last byte of a TLD is in the tile file. -/
def execTileLanded (team t : Nat) (s : State) : Host.Outcome State Fault Refusal :=
  event s (((s.team team).tile t).land && !copyLanding s team t)
    (wakeArray (s.mapTile team t fun x => { x with land := false }) team)

/-- The array can start a team's next operation: no tile of it is landing. -/
def Team.arrayReady (t : Team) : Bool :=
  match t.ops with
  | [] => false
  | o :: _ => (t.opTiles o).all fun n => !(t.tile n).land

/-- ARRAY_OP_COMPLETE: the array of a core finishes the next operation or TSEQ step of a resident team. -/
def execArrayOpComplete (core : Nat) (s : State) : Host.Outcome State Fault Refusal :=
  let ready := fun i => let t := s.team i; t.core == core && (t.res == .running || t.res == .saving) && t.arrayReady
  match (List.range s.teams.length).find? ready with
  | none => event s false s
  | some i =>
    event s true (wakeArray (s.mapTeam i fun t => match t.ops with | o :: _ => t.perform o | [] => t) i)

/-! ## The watchdog and the fabric (R411) -/

/-- A span of time in its place in a list, by its start. -/
def insertSpan (e : Nat × Nat) : List (Nat × Nat) → List (Nat × Nat)
  | [] => [e]
  | x :: xs => if e.1 ≤ x.1 then e :: x :: xs else x :: insertSpan e xs

/-- A time moved on by the parts of some spans that follow it, each moment once. -/
def afterFreeze (spans : List (Nat × Nat)) (t : Nat) : Nat :=
  ((spans.foldr insertSpan []).foldl (fun acc e =>
    let a := max e.1 acc.1
    if a < e.2 then (e.2, acc.2 + (e.2 - a)) else acc) (t, t)).2

/-- All splits of a warp, in slots and in the Welt. -/
def Warp.mapSplits (x : Warp) (f : Split → Split) : Warp :=
  { x with split0 := x.split0.map f, split1 := x.split1.map f
           welt := x.welt.map fun e => match e with | .split t => .split (f t) | e => e }

/-- The watchdog's counts, without the times in which they stood still; `now` is where those times end. -/
def Warp.unfreeze (x : Warp) (spans : List (Nat × Nat)) (now : Nat) : Warp :=
  let y := x.mapSplits fun t => match t.park with
    | .bar pc idx pd since => { t with park := .bar pc idx pd (afterFreeze spans since) }
    | _ => t
  { y with lastRetire := afterFreeze spans x.lastRetire, frozenTo := now }

/-- Keep-alives are taken to go on for 20 ms. -/
def aliveUntil (r : Recovery) : Nat := if r.last = 0 then 0 else r.last + 20000000

/-- The peers that a parked split of a cluster waits for, with the ns of the first keep-alive since: that of an access, or of the
write-backs of a release. -/
def parkPeers (s : State) (k : Nat) (p : Park) : List (Nat × Option Nat) :=
  let wbs := (s.fw.remoteWb.filter fun e => e.cluster == k).map fun e => (e.peer, e.since)
  match p with
  | .domain ws => ws.map fun w => (w.peer, w.since)
  | .walk k => k.wait
  | .boundary true _ _ _ => wbs
  | .snap _ => if s.snap.cut = 1 then wbs else []
  | _ => []

/-- The times in which the counts of a warp stand still, to now: BRK holds it or its team is saved, or one of its splits waits for a
peer that sends keep-alives. What has been taken off already is no part of them. -/
def freezes (s : State) (x : Warp) : List (Nat × Nat) :=
  let still := if x.st == .held || (s.team x.team).res == .saved then [(x.stopAt, s.clk.ns)] else []
  let far := (seats x).flatMap fun k => (parkPeers s (clusterOf x.core) (seatPark x k)).filterMap fun e =>
    match e.2 with
    | some since => (s.fw.inRecovery.find? fun r => r.peer == e.1).map fun r => (max since r.run, min s.clk.ns (aliveUntil r))
    | none => none
  (still ++ far).map fun e => (max e.1 x.frozenTo, e.2)

/-- The warp with its watchdog's counts as they stand now. -/
def watched (s : State) (x : Warp) : Warp := x.unfreeze (freezes s x) s.clk.ns

/-- The BAR word at which a split has been parked longest, and since when. -/
def oldestBar (x : Warp) : Option (Nat × Nat) :=
  (seats x).foldl (fun r k =>
    match seatPark x k, r with
    | .bar pc _ _ since, none => some (pc, since)
    | .bar pc _ _ since, some b => if since < b.2 then some (pc, since) else some b
    | _, r => r) none

/-- The BAR word at which a split has stood for a period, when that count has come to it no later than the one of retirements. -/
def barExpired (x : Warp) (now period : Nat) : Option Nat :=
  match oldestBar x with
  | some (pc, since) => if since + period ≤ now ∧ since ≤ x.lastRetire then some pc else none
  | none => none

/-- The PC of the record for the count of retirements. -/
def idlePc (x : Warp) : Nat :=
  match x.split0, x.split1 with
  | some t, _ => t.insnPc
  | none, some t => t.insnPc
  | none, none => 0

/-- WATCHDOG_EXPIRE. -/
def execWatchdogExpire (w : Nat) (s : State) : Host.Outcome State Fault Refusal :=
  let x := s.warps.getD w Warp.blank
  let y := watched s x
  let period := 1000000 * x.wdog
  let halt := fun pc => s.run [.halt w { cause := 0x1B, prior := 0, code := 0, pc := pc, addr := 0 }]
  let on := x.st == .running && (s.team x.team).here && !x.cobbler
  match barExpired y s.clk.ns period with
  | some pc => event s on (halt pc)
  | none => event s (on && decide (y.lastRetire + period ≤ s.clk.ns)) (halt (idlePc x))

/-! ### Keep-alives -/

/-- The warps with a split that waits for a peer. -/
def waitingOn (s : State) (peer : Nat) : List Nat :=
  ((parkedSeats s fun x p => (parkPeers s (clusterOf x.core) p).any fun e => e.1 == peer).map Prod.fst).eraseDups

/-- Their counts as they stand now. -/
def watchWaiting (s : State) (peer : Nat) : State := (waitingOn s peer).foldl (fun s w => s.mapWarp w (watched s)) s

/-- The first keep-alive of a peer since a split waits for it; once it has recovered, an access waits for it no more. -/
def Split.keep (peer : Nat) (ns : Option Nat) (t : Split) : Split :=
  let time := fun (old : Option Nat) => if ns.isNone then none else old.orElse fun _ => ns
  match t.park with
  | .domain ws =>
    { t with park := .domain (if ns.isNone then ws.filter fun w => w.peer != peer
        else ws.map fun w => if w.peer = peer then { w with since := time w.since } else w) }
  | .walk k =>
    let wait := if ns.isNone then k.wait.filter fun e => e.1 != peer else k.wait.map fun e => if e.1 = peer then (e.1, time e.2) else e
    { t with park := .walk { k with wait := wait } }
  | _ => t

/-- The same in a list of peers, each with its first keep-alive. -/
def keepPeer (peer : Nat) (ns : Option Nat) (es : List (Nat × Nat)) : List (Nat × Nat) :=
  match ns with
  | none => es.filter fun e => e.1 != peer
  | some n => if es.any fun e => e.1 == peer then es else (peer, n) :: es

/-- A keep-alive of a peer reaches what waits for it, or the peer has recovered: splits, copies, launches to be dispatched and
write-backs (R411). -/
def keepAlive (s : State) (peer : Nat) (ns : Option Nat) : State :=
  let s1 : State := (waitingOn s peer).foldl (fun s w => s.mapWarp w fun x => x.mapSplits (Split.keep peer ns)) s
  let copy : Copy → Copy := fun x => if ns.isNone || (x.waits s).contains peer then { x with kept := keepPeer peer ns x.kept } else x
  let s2 := { s1 with clusters := s1.clusters.map fun (k : Cluster) => { k with copies := k.copies.map copy } }
  let launch : Launch → Launch := fun l => if ns.isNone || (l.waits s).contains peer then { l with kept := keepPeer peer ns l.kept } else l
  let wbs : List RemoteWb := match ns with
    | none => s.fw.remoteWb.filter fun e => e.peer != peer
    | some n => s.fw.remoteWb.map fun e => if e.peer == peer then { e with since := e.since.orElse fun _ => some n } else e
  { s2 with launches := s2.launches.map launch, fw := { s2.fw with remoteWb := wbs } }

/-- A write-back has had no answer for 30 s since the first keep-alive (R411). -/
def RemoteWb.late (e : RemoteWb) (ns : Nat) : Bool :=
  match e.since with
  | some t => decide (t + 30000000000 ≤ ns)
  | none => false

/-- Write-backs to a peer in recovery that have had no answer for 30 s are dropped and reported (R405, R411). -/
def expireWriteBacks (s : State) (peer : Nat) : State :=
  let late := fun (e : RemoteWb) => e.peer == peer && e.late s.clk.ns
  if s.fw.remoteWb.any late then
    let s1 := watchWaiting s peer
    (s.fw.remoteWb.filter late).foldl (fun s e => reportLost s e.ctx e.va)
      { s1 with fw := { s1.fw with remoteWb := s1.fw.remoteWb.filter fun e => !late e } }
  else s

/-- FABRIC_KEEPALIVE. After 20 ms without one the counts have run again, and stand still anew (R411). -/
def execFabricKeepalive (peer : Nat) (s : State) : Host.Outcome State Fault Refusal :=
  let ns := s.clk.ns
  let known := s.fw.inRecovery.any fun r => r.peer == peer
  let gap := fun (r : Recovery) => r.last == 0 || decide (aliveUntil r < ns)
  let f : Recovery → Recovery := fun r =>
    if r.peer == peer then { r with run := if gap r then ns else r.run, last := ns } else r
  let rs := if known then s.fw.inRecovery.map f else { peer := peer, run := ns, last := ns } :: s.fw.inRecovery
  let broken := s.fw.inRecovery.any fun r => r.peer == peer && gap r
  let s0 := if broken then watchWaiting s peer else s
  let s1 := expireWriteBacks (keepAlive { s0 with fw := { s0.fw with inRecovery := rs } } peer (some ns)) peer
  event s (decide (peer < 1536)) (if known then s1 else telemetry s1 22 (4 * 2 ^ 28) 0 [(5, peer)])

/-- KEEPALIVE_LAPSE: 20 ms have passed with no keep-alive, and the counts run again. Whether the peer has recovered is
open. Where the keep-alives go on, or have ended before, it drops the write-backs whose 30 s are over (log 42). -/
def execKeepaliveLapse (peer : Nat) (s : State) : Host.Outcome State Fault Refusal :=
  match s.fw.inRecovery.find? fun r => r.peer == peer with
  | none => event s false s
  | some r =>
    let s0 := expireWriteBacks s peer
    let s1 := watchWaiting s0 peer
    let lapse :=
      if Config.choice s.clk.tick 411 % 2 = 0 then
        let fw := { s1.fw with inRecovery := s1.fw.inRecovery.filter fun r => r.peer != peer }
        telemetry (keepAlive { s1 with fw := fw } peer none) 22 (4 * 2 ^ 28) 0 [(5, peer + 2 ^ 31)]
      else
        let rs := s1.fw.inRecovery.map fun r => if r.peer == peer then { r with last := 0 } else r
        { s1 with fw := { s1.fw with inRecovery := rs } }
    event s true (if r.last != 0 && decide (aliveUntil r ≤ s.clk.ns) then lapse else s0)

/-- 30 s have passed since the first keep-alive of a peer that is still in recovery. -/
def PeerWait.over (w : PeerWait) (s : State) : Bool :=
  (s.fw.inRecovery.any fun r => r.peer == w.peer) && match w.since with
    | some t => decide (t + 30000000000 ≤ s.clk.ns)
    | none => false

/-- The trap of an access that waits for peers: the lanes whose time has run out, with their addresses (R169, R411). -/
def peersTrap (s : State) (ws : List PeerWait) : Trap :=
  let gone := ws.filter fun w => w.over s
  let at_ := fun l => match gone.find? fun w => w.lanes.getLsbD l with
    | some w => w.addrs.getD l 0
    | none => 0
  { cause := 0x1C, val := .addrs ((List.range 32).map at_), lanes := some (gone.foldl (fun m w => m ||| w.lanes) 0#32) }

/-- DOMAIN_ACCESS_TIMEOUT: 30 s after the first keep-alive of a peer the access fails, that of a suspended split once it has its slot
again; once every peer has recovered it is tried again. -/
def execDomainAccessTimeout (w sp : Nat) (s : State) : Host.Outcome State Fault Refusal :=
  match parkOf s w sp with
  | .domain ws =>
    let s1 := if (s.warps.getD w Warp.blank).lives then s.mapWarp w (watched s) else s
    if ws.any fun p => p.over s then event s true (carryOn s1 w sp fun _ _ => .error (peersTrap s ws))
    else event s (!ws.any fun p => s.fw.inRecovery.any fun r => r.peer == p.peer) (wakeAt s1 w (seatOf sp))
  | _ => event s false s

end Sys2Proof.Machine
end

