-- ==== Sys2Proof/Machine/Sched.lean ====
section
/-!
DEFINITION. The Lapstone scheduler: binding, restoring, ends of launches, quanta, ageing, pre-emption and saving (spec 01
R31; 11 R292 to R300; 12 R315; 19 R367 to R369; 20 R379 to R384).
-/

namespace Sys2Proof.Machine

/-! ## What a team needs (R292) -/

/-- The Cobbler that belongs to a team (R315). -/
def cobblerOf (s : State) (t : Nat) : Option Nat :=
  let k := s.core (s.team t).core
  if k.cobTeam == some t && k.cobSt == 1 then k.cobWarp else none

/-- A team's warps, its Cobbler last. -/
def allWarps (s : State) (t : Nat) : List Nat := teamWarps s t ++ (cobblerOf s t).toList

/-- The quota the warps of a team hold, its Cobbler's included. -/
def teamQ (s : State) (t : Nat) : Nat := ((allWarps s t).map fun w => (s.warps.getD w Warp.blank).q).foldl (· + ·) 0

/-- The descriptor slots of a team, its Cobbler's included. -/
def teamSlots (s : State) (t : Nat) : Nat :=
  let l := s.launch (s.team t).launch
  l.warps * l.regs + match cobblerOf s t with
    | some w => (s.warps.getD w Warp.blank).allot
    | none => 0

/-- A team has its entry of the slot table, or one is free or to be collected (R292, R379). -/
def entryFits (s : State) (core t : Nat) : Bool := loadedFor s core t || (s.core core).table.any fun e => e.st == 0 || e.st == 4

/-- The needs of a waiting or saved team fit its core now. -/
def teamFits (s : State) (t : Nat) : Bool :=
  let x := s.team t
  let l := s.launch x.launch
  entryFits s x.core t &&
    if x.res = .saved then coreFits s l x.core (teamSlots s t) (teamQ s t)
    else coreFits s l x.core (l.warps * l.regs) (l.warps * l.vfloor)

/-- The banks a crew needs are free: those it was saved with, or those R304 gives a new one. -/
def crewBanksFit (s : State) (ci : Nat) : Bool :=
  let k := s.crew ci
  if k.begun then
    k.savedBanks.all (fun b => (freeBanks s k.cluster).contains b.1) &&
      !(decide (0 < (s.launch k.launch).fifob) && fifoTaken s k.cluster)
  else (banksFor s (s.launch k.launch) k.cluster).isSome

def crewPending (s : State) (ci : Nat) : List Nat := (s.crew ci).teams.filter fun t => (s.team t).pending

/-- What binds together: the whole crew, or one team when its crew is resident (R292, R296). -/
def bindUnits (s : State) (ci : Nat) : List (List Nat) :=
  if (s.crew ci).resident then (crewPending s ci).map fun t => [t]
  else if (crewPending s ci).isEmpty then []
  else [crewPending s ci]

/-- The unit a pending team binds with. -/
def unitOf (s : State) (t : Nat) : List Nat :=
  if (s.crew (s.team t).crew).resident then [t] else crewPending s (s.team t).crew

/-- The teams of a crew that could bind now. -/
def bindSet (s : State) (ci : Nat) : Option (List Nat) :=
  (bindUnits s ci).find? fun ts => ts.all (teamFits s) && ((s.crew ci).resident || crewBanksFit s ci)

/-- The records of a unit are loaded (R379). -/
def unitLoaded (s : State) (ts : List Nat) : Bool := ts.all fun t => loadedFor s (s.team t).core t

/-! ## Who binds first (R383, R333) -/

def lexLt : List Nat → List Nat → Bool
  | a :: as, b :: bs => if a = b then lexLt as bs else decide (a < b)
  | [], _ :: _ => true
  | _, [] => false

/-- A team's rank: EFF from the highest, the queue that waits longest, context, queue, tid (R383). -/
def bindRank (s : State) (t : Nat) : List Nat :=
  let x := s.team t
  let l := s.launch x.launch
  let k := (s.ctx l.ctx).queue l.queue
  [7 - k.eff, k.nonEmptyAt.getD s.clk.ns, l.ctx, l.queue, x.tid]

def coresOf (s : State) (ts : List Nat) : List Nat := ts.map fun t => (s.team t).core

def shareCore (s : State) (ts us : List Nat) : Bool := (coresOf s ts).any (coresOf s us).contains

/-- The context schedules. -/
def schedules (s : State) (c : Nat) : Bool := (s.ctx c).st == 1 && (s.ctx c).suspendBy.isNone

/-- A crew of the same launch with lower tids that has still to bind for the first time on one of the cores. -/
def mustWait (s : State) (ci : Nat) (ts : List Nat) : Bool :=
  let k := s.crew ci
  (List.range s.crews.length).any fun cj =>
    let x := s.crew cj
    x.launch == k.launch && decide (x.index < k.index) && !x.begun && shareCore s ts x.teams &&
      !(crewPending s cj).isEmpty

def effOf (s : State) (t : Nat) : Nat :=
  let l := s.launch (s.team t).launch
  ((s.ctx l.ctx).queue l.queue).eff

/-! ## The save pool (R380, R381) -/

/-- The vector slots of a warp, in increasing slot order. -/
def vectorSlots (x : Warp) : List (List Word) := x.regs.filterMap fun r => match r with | .v ls => some ls | _ => none

/-- The bytes of a team's save image before its warps' vector slots. -/
def imageHead (l : Launch) : Nat := 256 + l.tiles * 16392 + 4 * 16388 + 128 + l.warps * (4096 + l.regs * 8)

/-- Those of the vector slots. -/
def imageSlots (s : State) (t : Nat) : Nat :=
  128 * ((teamWarps s t).map fun w => (vectorSlots (s.warps.getD w Warp.blank)).length).foldl (· + ·) 0

/-- A park that a save waits for: a cut (R245), a boundary or VSHOOT that has done its part, late data, and the walks of a volume
instruction (R243; log 29). -/
def holdsSave (p : Park) : Bool :=
  match p with
  | .snap _ => true
  | .boundary _ _ _ _ => true
  | .vshoot _ => true
  | .data => true
  | .walk _ => true
  | _ => false

/-- A split whose instruction the save of its team waits for. -/
def Split.holdsSave (t : Split) : Bool := Sys2Proof.Machine.holdsSave t.park || t.late.isSome

/-- The vector slots that a warp takes in the image of a save that begins now: those it has once its NW latches are written back
(R382); its whole quota while an instruction that the save waits for can still take some (log 22). -/
def slotBound (x : Warp) : Nat :=
  if (seats x).any fun k => (seated x k).any Split.holdsSave then x.q
  else (vectorSlots ((x.groupSwitch 0).groupSwitch 1)).length

/-- The bytes that a team's save image is allocated; `last`: with the section of its crew (R381). -/
def imageBytes (s : State) (t : Nat) (last : Bool) : Nat :=
  imageHead (s.launch (s.team t).launch) + 128 * ((teamWarps s t).map fun w => slotBound (s.warps.getD w Warp.blank)).foldl (· + ·) 0 +
    if last then 65536 * (bankImages s (s.team t).crew).length + 4096 else 0

/-- No other team of the crew is on its core; `orSaves`: or is only being saved. -/
def leavesLast (s : State) (t : Nat) (orSaves : Bool) : Bool :=
  !((s.crew (s.team t).crew).teams.any fun u => u != t && ((s.team u).res == .running || (!orSaves && (s.team u).res == .saving)))

def areaStep (l : Launch) : Nat := (areaBytes l + 127) / 128 * 128

/-- The runs of a context's save pool in use: areas of teams that have one, loaded ones included, and the room of images. -/
def poolRuns (s : State) (c : Nat) : List (Nat × Nat) :=
  (List.range s.teams.length).flatMap fun t =>
    let x := s.team t
    let l := s.launch x.launch
    if l.ctx ≠ c then []
    else (if x.res != .ended && x.area != 0 then [(x.area, areaStep l)] else []) ++
      if x.image ≠ 0 then [(x.image, x.room)] else []

def poolSize (s : State) (c : Nat) : Nat := (s.ctx c).spoolsz * 65536

/-- A run lies in a context's save pool and meets no other there. -/
def poolFree (s : State) (c a n : Nat) : Bool :=
  decide ((s.ctx c).spool ≤ a) && decide (a + n ≤ (s.ctx c).spool + poolSize s c) &&
    (poolRuns s c).all fun r => decide (a + n ≤ r.1) || decide (r.1 + r.2 ≤ a)

/-- The first room of `n` bytes for a save image, at the start of the pool or after another run (log 22); 0 when there is none. -/
def imageRoom (s : State) (t n : Nat) : Nat :=
  let c := (s.launch (s.team t).launch).ctx
  let at_ := fun a => (a + 63) / 64 * 64
  ((((s.ctx c).spool :: (poolRuns s c).map fun r => r.1 + r.2).map at_).find? fun a => a != 0 && poolFree s c a n).getD 0

/-- The firmware can allocate the areas of the fresh teams from `area` on. Private regions start 64 bytes into an area, and
equal offsets of the lanes fill one line (R306). -/
def areaOk (s : State) (l : Launch) (area n : Nat) : Bool :=
  let size := n * areaStep l
  n == 0 || ((area + 64) % 128 == 0 && poolFree s l.ctx area size)

/-- The first area of a context's save pool that fits: 64 bytes after its start, or after a run in use. -/
def firstArea (s : State) (l : Launch) (n : Nat) : Nat :=
  let ends := (poolRuns s l.ctx).map fun r => (r.1 + r.2 + 127) / 128 * 128 + 64
  ((((s.ctx l.ctx).spool + 64) :: ends).find? fun a => areaOk s l a n).getD ((s.ctx l.ctx).spool + 64)

/-- The teams of a unit that still need an area. -/
def areaLess (s : State) (ts : List Nat) : List Nat := ts.filter fun t => (s.team t).area == 0

/-! ## The estimator (R384) -/

inductive Dealt where
  | wait
  | drain
  | discard
  | save
  deriving DecidableEq, Repr

/-- Total resident time. -/
def Team.resident (t : Team) (now : Nat) : Nat := t.runNs + (now - t.since)

/-- PROG of the team, its Cobbler's included, and its largest count of retired instructions. -/
def teamProg (s : State) (t : Nat) : Nat := ((allWarps s t).map fun w => (s.warps.getD w Warp.blank).progress).foldl (· + ·) 0
def teamRetired (s : State) (t : Nat) : Nat := ((teamWarps s t).map fun w => (s.warps.getD w Warp.blank).retired).foldl max 0

/-- The fraction done, as a numerator and a denominator. -/
def fractionDone (s : State) (t : Nat) : Option (Nat × Nat) :=
  let l := s.launch (s.team t).launch
  if l.word 12 ≠ 0 then some (teamProg s t, l.word 12)
  else if l.word 11 ≠ 0 then some (teamRetired s t, l.word 11)
  else none

/-- E ≤ deadline, the deadline in µs. -/
def endsInTime (s : State) (t deadline : Nat) : Bool :=
  match fractionDone s t with
  | none => false
  | some (p, h) => decide (h ≤ p) || (decide (0 < p) && decide ((s.team t).resident s.clk.ns * (h - p) ≤ deadline * 1000 * p))

/-- The bytes that a save which begins now allocates: with the crew's section when the other teams are gone or being saved. -/
def saveBytes (s : State) (t : Nat) : Nat := imageBytes s t (leavesLast s t true)

/-- An image can be allocated. -/
def imageFits (s : State) (t : Nat) : Bool := imageRoom s t (saveBytes s t) != 0

/-- The table of R384; `again`: drain is excluded. -/
def estimate (s : State) (t deadline : Nat) (again : Bool) : Dealt :=
  let x := s.team t
  if !x.quantumUsed then .wait
  else if !again && endsInTime s t deadline then .drain
  else if (s.launch x.launch).restart && !x.ext then .discard
  else if imageFits s t then .save
  else .drain

/-- A team that is saved gives up its core: Q returns to the pool (R382), and its crew's banks go with its last team. -/
def vacate (s : State) (t : Nat) : State :=
  let x := s.team t
  let l := s.launch x.launch
  let slots := teamSlots s t
  let q := teamQ s t
  let s1 := s.mapCore x.core fun k =>
    { k with slotsFree := k.slotsFree + slots, pool := k.pool + q, warpsFree := k.warpsFree + l.warps
             tilesFree := k.tilesFree + l.tiles, table := entryState (entryState k.table t 2 3) t 3 0 }
  crewEnd (s1.mapTeam t fun x => { x with res := .saved, pendAt := s.clk.ns }) x.crew

/-! ## Who is in the way (R383) -/

def unitFits (s : State) (t : Nat) : Bool :=
  (unitOf s t).all (teamFits s) && ((s.crew (s.team t).crew).resident || crewBanksFit s (s.team t).crew)

/-- The target cores: those of the unit, and the whole cluster when it is banks that the crew lacks. -/
def targetCores (s : State) (t : Nat) : List Nat :=
  let k := s.crew (s.team t).crew
  if k.resident || crewBanksFit s (s.team t).crew then coresOf s (unitOf s t) else clusterCores (s.ctx (s.launch k.launch).ctx) k.cluster

/-- A team's place among the candidates: the lowest EFF first, then the longest run. -/
def victimRank (s : State) (t : Nat) : List Nat := [effOf s t, 2 ^ 64 - (s.team t).resident s.clk.ns, t]

def candidates (s : State) (t : Nat) : List Nat :=
  let cs := (List.range s.teams.length).filter fun v =>
    let x := s.team v
    v != t && x.res == .running && x.quantumUsed && (targetCores s t).contains x.core &&
      decide (effOf s v ≤ effOf s t)
  cs.foldl (fun acc v =>
    (acc.takeWhile fun u => lexLt (victimRank s u) (victimRank s v)) ++ [v] ++
      acc.dropWhile fun u => lexLt (victimRank s u) (victimRank s v)) []

/-- The teams whose removal lets a team bind, beside those whose save has begun: the first candidates that suffice, without those
whose removal does not matter (R383). -/
def victims (s : State) (t : Nat) : Option (List Nat) :=
  let saving := (List.range s.teams.length).filter fun v => (s.team v).res == .saving
  let s1 := saving.foldl vacate s
  if unitFits s1 t then none
  else
    let enough := fun (vs : List Nat) => unitFits (vs.foldl vacate s1) t
    (((List.range (candidates s t).length).map fun n => (candidates s t).take (n + 1)).find? enough).map fun vs =>
      vs.foldl (fun kept v => if enough (kept.filter (· != v)) then kept.filter (· != v) else kept) vs

/-! ## Rotation (R292, R295, R383) -/

/-- A waiting team's context schedules, and its unit has room for its areas and its turn among the crews of its launch. -/
def bindable (s : State) (u : Nat) : Bool :=
  let x := s.team u
  let l := s.launch x.launch
  let n := (areaLess s (unitOf s u)).length
  x.pending && l.st == .dispatched && schedules s l.ctx && areaOk s l (firstArea s l n) n && !mustWait s x.crew (unitOf s u)

/-- A team can be made to leave its core, now or when its drain is over. -/
def canLeave (s : State) (t : Nat) : Bool :=
  match estimate s t 0 true with
  | .save => true
  | .discard => true
  | _ => false

/-- A waiting team binds once the saves under way are over, or once those it pre-empts have left. -/
def servable (s : State) (u : Nat) : Bool :=
  let saving := (List.range s.teams.length).filter fun v => (s.team v).res == .saving
  unitFits (saving.foldl vacate s) u || match victims s u with
    | some vs => vs.all (canLeave s)
    | none => false

/-- The team has been resident before. -/
def Team.wasHere (t : Team) : Bool := t.res == .saved || t.since != 0

/-- Two units compete: for a core, or for the banks of a cluster. -/
def competes (s : State) (ts us : List Nat) : Bool :=
  let cluster := fun (vs : List Nat) => (s.crew (s.team (vs.headD 0)).crew).cluster
  let banks := fun (vs : List Nat) => !(s.crew (s.team (vs.headD 0)).crew).resident
  shareCore s ts us || (banks ts && banks us && cluster ts == cluster us)

/-- A unit that has been switched out waits for a team that has waited longer, at no lower EFF, and that its leaving, with what is
saved or can be beside it, lets bind: a rotation goes on until the waiting team binds (R295, R334; log 53). -/
def yields (s : State) (ts : List Nat) : Bool :=
  (ts.any fun t => (s.team t).wasHere) && (List.range s.teams.length).any fun u =>
    !ts.contains u && (ts.all fun t => decide ((s.team u).pendAt < (s.team t).pendAt) && decide (effOf s t ≤ effOf s u)) &&
      bindable s u && competes s ts (unitOf s u) && servable s u

/-- A team that waits on one of the cores, and whose own needs fit it, comes first: the core is kept for its unit until that can
bind whole (R292, R383; log 53). -/
def outranked (s : State) (ts : List Nat) : Bool :=
  (List.range s.teams.length).any fun u =>
    let us := unitOf s u
    bindable s u && !ts.contains u && (coresOf s ts).contains (s.team u).core && teamFits s u && !yields s us &&
      lexLt (bindRank s (us.headD 0)) (bindRank s (ts.headD 0))

/-! ## Replies to WAITF (R232, R367, R368) -/

/-- The nibble of a token in the context's bitmap. -/
def bitmapAddr (x : Context) (token : Nat) : Nat := x.ftbmap + token / 2

/-- A token's entry is written. -/
def bitmapPut (s : State) (c token v : Nat) : State :=
  let a := bitmapAddr (s.ctx c) token
  firmStore (postMalformed s c [a] { acc := 1 }) c a
    [BitVec.ofNat 8 (setBits (firmByte s c a 0#8).toNat (token % 2 * 4) 4 v)]

/-- A token's entry as memory holds it; the status the memory processor wrote where it cannot be read. -/
def bitmapGet (s : State) (c token status : Nat) : Nat :=
  let a := bitmapAddr (s.ctx c) token
  match firmLeaf s c a with
  | some l => bitsN (homeByte s c l a).toNat (token % 2 * 4) 4
  | none => 1 + 2 * status

/-- A warp takes a reply: its parked WAITFs complete with the status; without one, it is held for the WAITF that is replayed. -/
def takeReply (s : State) (w status : Nat) : State :=
  let waits := fun k => match seatPark (s.warps.getD w Warp.blank) k with | .waitf _ => true | _ => false
  match (seats (s.warps.getD w Warp.blank)).filter waits with
  | [] => s.mapWarp w fun x => { x with ftokReply := some status }
  | ks =>
    ks.foldl (fun s k =>
      match seatPark (s.warps.getD w Warp.blank) k with
      | .waitf d => carryAt s w k fun s c => c.resultAt s id false d true (.u (BitVec.ofNat 32 status))
      | _ => s) (s.mapWarp w fun x => { x with ftokPend := false })

def freeToken (s : State) (n : Nat) : State :=
  { s with mp := { s.mp with tokens := s.mp.tokens.filter fun e => e.1 != n } }

/-- The bitmap entries of a restored team's warps are applied. -/
def applyBitmap (s : State) (t : Nat) : State :=
  let mine := s.mp.tokens.filter fun e => (s.warps.getD e.2.warp Warp.blank).team == t
  mine.foldl (fun s (e : Nat × Token) =>
    match e.2.reply with
    | none => s
    | some st =>
      let s := postMalformed s e.2.ctx [bitmapAddr (s.ctx e.2.ctx) e.1]
      let v := bitmapGet s e.2.ctx e.1 st
      if bitsN v 0 1 = 0 then s
      else takeReply (bitmapPut (freeToken s e.1) e.2.ctx e.1 0) e.2.warp (bitsN v 1 2)) s

/-! ## TEAM_BIND (R292, R293, R382) -/

/-- The contents of bank `i` of a saved crew: as its last team's image holds them (R382, log 22). -/
def bankBack (s : State) (ci i : Nat) (b : Nat × Nat × List (Nat × Byte)) : List (Nat × Byte) :=
  let k := s.crew ci
  if k.image = 0 then b.2.2
  else (List.range Config.bankBytes).map fun j =>
    let a := b.1 * Config.bankBytes + j
    (a, firmByte s (s.launch k.launch).ctx (k.image + i * Config.bankBytes + j) (laneOf b.2.2 a 0#8))

/-- A crew's banks, with their numbers and contents, come back (R296). -/
def restoreCrew (s : State) (ci : Nat) : State :=
  let k := s.crew ci
  let s := if k.image = 0 then s else reportRead s (s.launch k.launch).ctx [(k.image, Config.bankBytes * k.savedBanks.length)]
  let s1 := k.savedBanks.zipIdx.foldl (fun s (e : (Nat × Nat × List (Nat × Byte)) × Nat) =>
    (setBank s k.cluster e.1.1 e.1.2.1 (some ci)).mapCluster k.cluster fun x => { x with sram := memPut x.sram (bankBack s ci e.2 e.1) }) s
  (s1.mapCluster k.cluster fun x => { x with badSram := x.badSram ++ k.savedBad }).mapCrew ci fun x =>
    { x with resident := true, savedBanks := [], savedBad := [], image := 0 }

/-- A warp with the vector slots that its team's image holds from `a` on (R382, log 22). -/
def Warp.reload (x : Warp) (s : State) (c a : Nat) : Warp :=
  let word := fun (p : Nat) (w : Word) =>
    BitVec.ofNat 32 (leNat ((List.range 4).map fun j => firmByte s c (p + j) (BitVec.ofNat 8 (w.toNat / 256 ^ j))))
  { x with regs := x.regs.zipIdx.map fun (e : Reg × Nat) =>
      match e.1 with
      | .v ls =>
        let p := a + 128 * ((x.regs.take e.2).filter Reg.isV).length
        .v (ls.zipIdx.map fun l => word (p + 4 * l.2) l.1)
      | r => r }

/-- The warps of a team with the vector slots of its image. -/
def reloadTeam (s : State) (t : Nat) : State :=
  let x := s.team t
  let l := s.launch x.launch
  if x.image = 0 then s
  else ((teamWarps s t).foldl (fun (acc : State × Nat) w =>
    let n := (vectorSlots (acc.1.warps.getD w Warp.blank)).length
    (acc.1.mapWarp w fun y => y.reload acc.1 l.ctx acc.2, acc.2 + 128 * n))
    (reportRead s l.ctx [(x.image + imageHead l, imageSlots s t)], x.image + imageHead l)).1

/-- A saved warp runs again: time since the save does not count for its watchdog, nor while BRK holds it. -/
def restoreWarp (s : State) (wdog : Nat) (w : Nat) : State :=
  s.mapWarp w fun x =>
    { watched s x with wdog := wdog }

/-- The words of a team area's header that hold the address of its save image, 0 without one (R380). -/
def putImage (s : State) (t a room : Nat) : State :=
  let x := s.team t
  ctxPut (s.mapTeam t fun x => { x with image := a, room := room }) (s.launch x.launch).ctx (x.area + 40)
    [BitVec.ofNat 32 a, BitVec.ofNat 32 (a / 2 ^ 32)]

/-- A saved team is resident again, as its image and the core hold it (R382). -/
def restoreTeam (s : State) (t : Nat) : State :=
  let x := s.team t
  let l := s.launch x.launch
  let slots := teamSlots s t
  let q := teamQ s t
  let s1 := (allWarps s t).foldl (fun s w => restoreWarp s (s.ctx l.ctx).wdogMs w) (reloadTeam s t)
  let s2 := (putImage s1 t 0 0).mapTeam t fun x =>
    { x with res := .running, since := s.clk.ns, quantumUsed := false, drainBy := none, replay := true }
  s2.mapCore x.core fun k =>
    { k with slotsFree := k.slotsFree - slots, pool := k.pool - q, warpsFree := k.warpsFree - l.warps
             tilesFree := k.tilesFree - l.tiles
             table := entryState k.table t 1 2 }

/-- The crew's banks are set up or come back, and its cluster makes an acquire: what LAUNCH has released comes before every access of
the teams that bind (R77, R260, R261). -/
def enterCrew (s : State) (l : Launch) (ci : Nat) : State :=
  let k := s.crew ci
  let s1 := if k.resident then s
    else if k.begun then restoreCrew s ci
    else match banksFor s l k.cluster with
      | some b => bindCrewBanks s l ci b.1 b.2
      | none => s
  acquireAll s1 k.cluster

/-- The firmware collects an ended entry of each core whose table has none free (R379). -/
def collectFor (s : State) (ts : List Nat) : State :=
  (coresOf s ts).foldl (fun s p => s.mapCore p fun k =>
    if k.table.any fun e => e.st == 0 then k else { k with table := SlotEntry.collect k.table }) s

/-- The records of a unit are loaded, but for those that are (R379): teams without an area get theirs, from `area` on. -/
def loadTeams (s : State) (ts : List Nat) (area : Nat) : State :=
  let need := areaLess s ts
  (ts.filter fun t => !loadedFor s (s.team t).core t).foldl (fun s t =>
    let x := s.team t
    let l := s.launch x.launch
    let a := if x.area = 0 then areaOf l area (indexOf need t) else x.area
    (s.mapTeam t fun x => { x with area := a }).mapCore x.core fun k =>
      { k with table := SlotEntry.load k.table (bindWords l x.tid a (x.res == .saved)) t }) s

/-- The teams of a unit bind; then the bitmap is applied. -/
def bindTeams (s : State) (li ci : Nat) (ts : List Nat) : State :=
  let l := s.launch li
  let fresh := ts.filter fun t => (s.team t).res == .waiting
  let s1 := fresh.foldl (fun s t => bindTeam s l li t (s.crew ci).index (s.team t).area) (enterCrew s l ci)
  let saved := ts.filter fun t => (s.team t).res == .saved
  saved.foldl applyBitmap (saved.foldl restoreTeam s1)

/-- A team of the queue has bound: EFF and the timer start again (R383). -/
def boundQueue (s : State) (c q : Nat) : State :=
  settleQueue (s.mapLQueue c q fun k => { k with eff := k.prio, timer := s.clk.ns }) c q

/-- Every core of a unit has an entry for it: its own, or a free one. -/
def entriesFree (s : State) (ts : List Nat) : Bool :=
  ts.all fun t => loadedFor s (s.team t).core t || (s.core (s.team t).core).table.any fun e => e.st == 0

/-- TEAM_BIND: the firmware picks a unit that fits, collects an ended entry where none is free, and loads its records; once they are
loaded, dispatch creates or restores the warps (R379, R383). -/
def execTeamBind (launch crew area : Nat) (s : State) : Host.Outcome State Fault Refusal :=
  let l := s.launch launch
  match bindSet s crew with
  | none => event s false s
  | some ts =>
    let on := (s.crew crew).launch == launch && l.st == .dispatched && schedules s l.ctx
    if unitLoaded s ts then
      event s on ((lateClaims (boundQueue (bindTeams s launch crew ts) l.ctx l.queue) (coresOf s ts)).run (ts.map Task.teamEnd))
    else
      event s (on && areaOk s l area (areaLess s ts).length && !outranked s ts && !yields s ts && !mustWait s crew ts)
        (if entriesFree s ts then loadTeams s ts area else collectFor s ts)

/-! ## LAUNCH_END (R250, R299, R300) -/

def launchTeams (s : State) (li : Nat) : List Nat :=
  (List.range s.teams.length).filter fun t => (s.team t).launch == li

/-- The clusters that ran a team of a launch. -/
def launchClusters (s : State) (li : Nat) : List Nat := ((launchTeams s li).map fun t => clusterOf (s.team t).core).eraseDups

/-- The firmware collects the slot-table entries of ended teams of a launch (R379). -/
def collectEntries (s : State) (li : Nat) : State :=
  (launchTeams s li).foldl (fun s t => s.mapCore (s.team t).core fun k =>
    { k with table := k.table.map fun e => if e.st == 4 && e.team == t then SlotEntry.free else e }) s

/-- A launch ends: each cluster that ran a team of it makes its release, then the code is stored (R250, R300). The record of one that
is still queued is read where it stands, for its DONE. -/
def closeLaunch (s : State) (launch code : Nat) : State :=
  let s0 := if (s.launch launch).st == .queued then s.mapLaunch launch fun l => { l with record := l.queued s } else s
  let l := s0.launch launch
  let s1 := (launchClusters s0 launch).foldl (fun s k => releaseDevice s k l.ctx (if l.done = 0 then 2 else 3)) s0
  endLaunch s1 launch code

/-- LAUNCH_END. -/
def execLaunchEnd (launch : Nat) (s : State) : Host.Outcome State Fault Refusal :=
  let l := s.launch launch
  let quiet := (launchTeams s launch).all fun t => (s.team t).res == .ended
  event s (l.st == .dispatched && quiet) (closeLaunch (collectEntries s launch) launch (if l.halted then 1 else 0))

/-! ## Discarding and saving (R297, R382) -/

/-- A discarded team leaves its core and waits for a fresh dispatch; its entry is collected like that of an ended one (log 54). -/
def discardTeam (s : State) (t : Nat) : State :=
  let x := s.team t
  let l := s.launch x.launch
  let ws := teamWarps s t
  let s1 := freeTeam s t
  let s2 := ws.foldl (fun s w => s.mapWarp w fun y => { Warp.blank with wid := y.wid, team := s.teams.length + 2 ^ 32 }) s1
  let s3 := s2.mapTeam t fun x =>
    { x with res := .waiting, fresh := true, pendAt := s.clk.ns, area := 0, tiles := [], accs := [], ops := [], drainBy := none }
  settleQueue (crewEnd s3 x.crew) l.ctx l.queue

/-- A parked instruction is marked for replay: it issues again (R369, R382). A split at a BAR has arrived there and stays, and so
does one whose data is on its way, or that has a trap to take. -/
def replayPark (p : Park) : Park :=
  match p with
  | .bar _ _ _ _ => p
  | .data => p
  | .fail _ => p
  | _ => .no

/-- A split whose parked instruction is marked: it is decoded again when it issues again. -/
def Split.replay (t : Split) : Split :=
  let p := replayPark t.park
  { t with park := p, held := if p == .no then none else t.held }

/-- A team's save begins: issue stops, parked instructions are marked, queued claims are cancelled, and its image has its room
(R382). Whether that has the section of the crew is settled now (log 22). -/
def beginSave (s : State) (t : Nat) : State :=
  let mark : Split → Split := fun u => if u.holdsSave then u else u.replay
  let s1 := (allWarps s t).foldl (fun s w => s.mapWarp w fun x => (watched s x).mapSplits mark) s
  let n := saveBytes s t
  let s2 := s1.mapTeam t fun x =>
    { x with res := .saving, drainBy := none, image := imageRoom s t n, room := n, withCrew := leavesLast s t true }
  s2.mapCore (s.team t).core fun k => { k with table := entryState k.table t 2 3 }

/-- What the estimator chose is done; of two drains the earlier deadline holds. -/
def dealWith (s : State) (t deadline : Nat) (d : Dealt) : State :=
  match d with
  | .wait => s
  | .drain =>
    let by_ := s.clk.ns + deadline * 1000
    s.mapTeam t fun x => { x with drainBy := some (match x.drainBy with | some d => min d by_ | none => by_) }
  | .discard => discardTeam s t
  | .save => beginSave s t

/-- QUANTUM_EXPIRE: the team can be switched out; a SUSPEND that waits for it decides it. -/
def execQuantumExpire (team : Nat) (s : State) : Host.Outcome State Fault Refusal :=
  let x := s.team team
  let c := s.ctx (s.launch x.launch).ctx
  let s1 := s.mapTeam team fun x => { x with quantumUsed := true }
  event s (x.res == .running && !x.quantumUsed && decide (x.since + c.quant * 1000 ≤ s.clk.ns))
    (match c.suspendBy with
    | some (d, _) => dealWith s1 team d (estimate s1 team d false)
    | none => s1)

/-- AGE_TIMER_EXPIRE (R383). -/
def execAgeTimerExpire (ctx q : Nat) (s : State) : Host.Outcome State Fault Refusal :=
  let x := s.ctx ctx
  let k := x.queue q
  event s (schedules s ctx && k.en && k.nonEmptyAt.isSome && decide (k.eff < 7) &&
      decide (k.timer + x.age.getD k.eff 0 * 1000 ≤ s.clk.ns))
    (s.mapLQueue ctx q fun k => { k with eff := k.eff + 1, timer := s.clk.ns })

/-! ### Leaving a core -/

/-- A warp as a save leaves it: latches written back, parked instructions marked. -/
def Warp.saved (x : Warp) (ns : Nat) : Warp :=
  let y := ((x.groupSwitch 0).groupSwitch 1).mapSplits Split.replay
  { y with stopAt := if x.st == .held then x.stopAt else ns }

/-- A bank's contents as an image holds them. -/
def bankRun (b : Nat × Nat × List (Nat × Byte)) : List Byte :=
  (List.range Config.bankBytes).map fun j => laneOf b.2.2 (b.1 * Config.bankBytes + j) 0#8

/-- A team's image: vector slots as their lanes, banks as their bytes, and in the sections of which the spec gives no layout free
bytes (R381; log 22). -/
def imageOf (s : State) (t : Nat) : List Byte :=
  let x := s.team t
  let free := fun (o n : Nat) => (List.range n).map fun j => Config.freeByte s.clk.tick (x.image + o + j)
  let head := imageHead (s.launch x.launch)
  let banks := bankImages s x.crew
  free 0 head ++ (teamWarps s t).flatMap (fun w => (vectorSlots (s.warps.getD w Warp.blank)).flatMap wordsBytes) ++
    if x.withCrew && leavesLast s t false then banks.flatMap bankRun ++ free (head + imageSlots s t + 65536 * banks.length) 4096 else []

/-- The image is written in its room, and its crew knows where the last one holds its banks. Where the other teams of the crew have
ended since the save began, that has no room for them, and State keeps them (log 22). -/
def writeImage (s : State) (t : Nat) : State :=
  let x := s.team t
  let l := s.launch x.launch
  let at_ := x.image + imageHead l + imageSlots s t
  let s1 := firmStore (postMalformed (putImage s t x.image x.room) l.ctx (pagesOf x.image x.room) { acc := 1 }) l.ctx x.image ((imageOf s t).take x.room)
  if x.withCrew && leavesLast s t false then s1.mapCrew x.crew fun k => { k with image := at_ } else s1

/-- A team whose room holds the crew's section waits for those of the crew that are being saved without it (R381). -/
def savesBefore (s : State) (t : Nat) : Bool :=
  (s.team t).withCrew && (s.crew (s.team t).crew).teams.any fun u =>
    u != t && (s.team u).res == .saving && !(s.team u).withCrew

/-- Copies, array work but for later steps of a TSEQ, landing tiles and late data are over (R203, R215, R222). -/
def savable (s : State) (t : Nat) : Bool :=
  let x := s.team t
  x.ops.all MatOp.later && !savesBefore s t && !(x.tiles.any Tile.land) && !(s.clusters.any fun k => k.copies.any fun y => y.team == t) &&
    (allWarps s t).all fun w =>
      let y := s.warps.getD w Warp.blank
      (seats y).all fun k => !(seated y k).any Split.holdsSave

/-- A saving team that has ended meanwhile ends: the request lapses (R382). -/
def lapseSave (s : State) (t : Nat) : State :=
  let s1 := s.mapCore (s.team t).core fun k => { k with table := entryState k.table t 3 0 }
  (s1.mapTeam t fun x => { x with res := .running, image := 0, room := 0 }).run [.teamEnd t]

/-- SAVE_COMPLETE: the image is complete; a team that has ended meanwhile ends. -/
def execSaveComplete (team : Nat) (s : State) : Host.Outcome State Fault Refusal :=
  let x := s.team team
  let l := s.launch x.launch
  let debug := bitsN (s.ctx l.ctx).flags 1 1 == 1
  let quiet := (teamWarps s team).all fun w => warpOver debug (s.warps.getD w Warp.blank)
  let saved := (allWarps s team).foldl (fun s w => s.mapWarp w fun y => (watched s y).saved s.clk.ns) s
  let go := x.res == .saving && savable s team
  if quiet then event s go (lapseSave s team)
  else
    let s1 := (writeImage saved team).mapTeam team fun t => { t with runNs := t.resident s.clk.ns }
    event s go (settleQueue (vacate s1 team) l.ctx l.queue)

/-! ## Pre-emption (R383) -/

/-- A request with a deadline decides a team that has none, or one that drains until later (R383, R384). -/
def Team.undecided (x : Team) (now deadline : Nat) : Bool :=
  match x.drainBy with
  | none => true
  | some d => decide (now + deadline * 1000 < d)

/-- PREEMPT_REQUEST: the first team in the way that is not decided yet is decided under the deadline of the waiting team's queue. -/
def execPreemptRequest (team : Nat) (s : State) : Host.Outcome State Fault Refusal :=
  let x := s.team team
  let l := s.launch x.launch
  let d := ((s.ctx l.ctx).queue l.queue).deadline
  match ((victims s team).getD []).find? fun v => (s.team v).undecided s.clk.ns d with
  | some v => event s (x.pending && l.st == .dispatched && schedules s l.ctx) (dealWith s v d (estimate s v d false))
  | none => event s false s

/-- DRAIN_DEADLINE_EXPIRE: the team is decided again, with drain excluded. -/
def execDrainDeadlineExpire (team : Nat) (s : State) : Host.Outcome State Fault Refusal :=
  let x := s.team team
  match x.drainBy with
  | some d => event s (x.res == .running && decide (d ≤ s.clk.ns)) (dealWith s team 0 (estimate s team 0 true))
  | none => event s false s

end Sys2Proof.Machine
end

