-- ==== Sys2Proof/Machine/Aes.lean ====
section
/-!
DEFINITION. AES-256-GCM, under which chunks of secure pages are sealed (spec 21 R400: FIPS 197, SP 800-38D; log 11).
-/

namespace Sys2Proof.Machine

/-! ## AES-256 -/

/-- Multiplication by x modulo x^8 + x^4 + x^3 + x + 1. -/
def gfTwice (a : Byte) : Byte := if a.getLsbD 7 then (a <<< 1) ^^^ 0x1B#8 else a <<< 1

/-- The product of two field elements: `n` bits of `b` are left. -/
def gfMulBits (a b : Byte) : Nat → Byte
  | 0 => 0#8
  | n + 1 => (if b.getLsbD 0 then a else 0#8) ^^^ gfMulBits (gfTwice a) (b >>> 1) n

def gfMul (a b : Byte) : Byte := gfMulBits a b 8

/-- a to the power 254: the inverse, and 0 of 0. -/
def gfInv (a : Byte) : Byte :=
  let sq := fun x => gfMul x x
  let p2 := sq a
  let p4 := sq p2
  let p8 := sq p4
  let p16 := sq p8
  let p32 := sq p16
  let p64 := sq p32
  gfMul (sq p64) (gfMul p64 (gfMul p32 (gfMul p16 (gfMul p8 (gfMul p4 p2)))))

def aesSub (a : Byte) : Byte :=
  let b := gfInv a
  b ^^^ b.rotateLeft 1 ^^^ b.rotateLeft 2 ^^^ b.rotateLeft 3 ^^^ b.rotateLeft 4 ^^^ 0x63#8

def xorBytes (a b : List Byte) : List Byte := (List.range a.length).map fun i => a.getD i 0#8 ^^^ b.getD i 0#8

/-- The round constants: the powers of x. -/
def aesRcon : Nat → Byte
  | 0 => 1#8
  | n + 1 => gfTwice (aesRcon n)

/-- Words of the key schedule, newest first, from the eight of the key: `n` more, of which the next is word `i`. -/
def aesExpand (ws : List (List Byte)) (i : Nat) : Nat → List (List Byte)
  | 0 => ws
  | n + 1 =>
    let t := ws.getD 0 []
    let u := if i % 8 = 0 then
        let r := ((t.drop 1) ++ t.take 1).map aesSub
        xorBytes r [aesRcon (i / 8 - 1), 0#8, 0#8, 0#8]
      else if i % 8 = 4 then t.map aesSub else t
    aesExpand (xorBytes (ws.getD 7 []) u :: ws) (i + 1) n

/-- The 15 round keys of a key of 32 bytes, each of 16 bytes. -/
def aesKeys (key : List Byte) : List (List Byte) :=
  let ws := (aesExpand (((List.range 8).map fun i => (key.drop (4 * i)).take 4).reverse) 8 52).reverse
  (List.range 15).map fun r => ((ws.drop (4 * r)).take 4).flatten

/-- The rows of the state shifted: byte 4c + r comes from column c + r. -/
def aesShift (b : List Byte) : List Byte := (List.range 16).map fun i => b.getD ((i + 4 * (i % 4)) % 16) 0#8

def aesMix (b : List Byte) : List Byte :=
  (List.range 16).map fun i =>
    let g := fun k => b.getD (i / 4 * 4 + (i + k) % 4) 0#8
    gfTwice (g 0) ^^^ (gfTwice (g 1) ^^^ g 1) ^^^ g 2 ^^^ g 3

/-- One block under the round keys. -/
def aesBlock (ks : List (List Byte)) (b : List Byte) : List Byte :=
  let k := fun i => ks.getD i []
  let mid := (List.range 13).foldl (fun x i => xorBytes (aesMix (aesShift (x.map aesSub))) (k (i + 1))) (xorBytes b (k 0))
  xorBytes (aesShift (mid.map aesSub)) (k 14)

/-! ## GCM -/

/-- A block as a number, its first byte the highest. -/
def beNat (bs : List Byte) : Nat := leNat bs.reverse
def beBytes (v n : Nat) : List Byte := (leBytes v n).reverse

/-- The product in GF(2^128): `n` bits of `x`, the first the highest, are left; `v` is `y` times their power. -/
def ghashMul (x v : Nat) : Nat → Nat
  | 0 => 0
  | n + 1 =>
    (if x.testBit n then v else 0) ^^^ ghashMul x (if v % 2 = 1 then (v / 2) ^^^ (0xE1 * 2 ^ 120) else v / 2) n

/-- Bytes cut into blocks of 16, the last one filled with zero bytes. -/
def gcmBlocks (bs : List Byte) : List (List Byte) :=
  (List.range ((bs.length + 15) / 16)).map fun i =>
    let b := (bs.drop (16 * i)).take 16
    b ++ List.replicate (16 - b.length) 0#8

def ghash (h : Nat) (bs : List (List Byte)) : Nat := bs.foldl (fun y b => ghashMul (y ^^^ beNat b) h 128) 0

/-- The text xored with the key stream of a nonce of 12 bytes: sealing and opening are the same. -/
def gcmText (ks : List (List Byte)) (nonce text : List Byte) : List Byte :=
  (List.range ((text.length + 15) / 16)).flatMap fun i =>
    xorBytes ((text.drop (16 * i)).take 16) (aesBlock ks (nonce ++ beBytes (i + 2) 4))

/-- The tag of 16 bytes of additional data and ciphertext. -/
def gcmTag (ks : List (List Byte)) (nonce aad ct : List Byte) : List Byte :=
  let h := beNat (aesBlock ks (List.replicate 16 0#8))
  let y := ghash h (gcmBlocks aad ++ gcmBlocks ct ++ [beBytes (8 * aad.length) 8 ++ beBytes (8 * ct.length) 8])
  xorBytes (beBytes y 16) (aesBlock ks (nonce ++ beBytes 1 4))

end Sys2Proof.Machine
end

