-- ==== Sys2Proof/Machine/Sha.lean ====
section
/-!
DEFINITION. SHA-256, which the drain engine computes of a chunk (spec 21 R399: FIPS 180-4).
-/

namespace Sys2Proof.Machine

/-- The 64 round constants. -/
def shaK : List Word :=
  ([0x428a2f98, 0x71374491, 0xb5c0fbcf, 0xe9b5dba5, 0x3956c25b, 0x59f111f1, 0x923f82a4, 0xab1c5ed5] ++
    [0xd807aa98, 0x12835b01, 0x243185be, 0x550c7dc3, 0x72be5d74, 0x80deb1fe, 0x9bdc06a7, 0xc19bf174] ++
    [0xe49b69c1, 0xefbe4786, 0x0fc19dc6, 0x240ca1cc, 0x2de92c6f, 0x4a7484aa, 0x5cb0a9dc, 0x76f988da] ++
    [0x983e5152, 0xa831c66d, 0xb00327c8, 0xbf597fc7, 0xc6e00bf3, 0xd5a79147, 0x06ca6351, 0x14292967] ++
    [0x27b70a85, 0x2e1b2138, 0x4d2c6dfc, 0x53380d13, 0x650a7354, 0x766a0abb, 0x81c2c92e, 0x92722c85] ++
    [0xa2bfe8a1, 0xa81a664b, 0xc24b8b70, 0xc76c51a3, 0xd192e819, 0xd6990624, 0xf40e3585, 0x106aa070] ++
    [0x19a4c116, 0x1e376c08, 0x2748774c, 0x34b0bcb5, 0x391c0cb3, 0x4ed8aa4a, 0x5b9cca4f, 0x682e6ff3] ++
    [0x748f82ee, 0x78a5636f, 0x84c87814, 0x8cc70208, 0x90befffa, 0xa4506ceb, 0xbef9a3f7, 0xc67178f2] : List Nat).map
    fun n => BitVec.ofNat 32 n

/-- The initial hash. -/
def shaInit : List Word :=
  ([0x6a09e667, 0xbb67ae85, 0x3c6ef372, 0xa54ff53a, 0x510e527f, 0x9b05688c, 0x1f83d9ab, 0x5be0cd19] : List Nat).map
    fun n => BitVec.ofNat 32 n

/-- The message schedule, newest word first, extended by `n` words. -/
def shaExpand (w : List Word) : Nat → List Word
  | 0 => w
  | n + 1 =>
    let x := w.getD 14 0#32
    let y := w.getD 1 0#32
    let s0 := x.rotateRight 7 ^^^ x.rotateRight 18 ^^^ (x >>> 3)
    let s1 := y.rotateRight 17 ^^^ y.rotateRight 19 ^^^ (y >>> 10)
    shaExpand ((w.getD 15 0#32 + s0 + w.getD 6 0#32 + s1) :: w) n

/-- One round on the eight working words. -/
def shaRound (v : List Word) (kw : Word × Word) : List Word :=
  let g := fun i => v.getD i 0#32
  let e := g 4
  let a := g 0
  let t1 := g 7 + (e.rotateRight 6 ^^^ e.rotateRight 11 ^^^ e.rotateRight 25) + ((e &&& g 5) ^^^ (~~~e &&& g 6)) +
    kw.1 + kw.2
  let t2 := (a.rotateRight 2 ^^^ a.rotateRight 13 ^^^ a.rotateRight 22) +
    ((a &&& g 1) ^^^ (a &&& g 2) ^^^ (g 1 &&& g 2))
  [t1 + t2, a, g 1, g 2, g 3 + t1, e, g 5, g 6]

/-- One 64-byte block. -/
def shaBlock (h : List Word) (bs : List Byte) : List Word :=
  let w := (List.range 16).map fun i => (BitVec.ofNat 32 (leNat ((bs.drop (4 * i)).take 4).reverse) : Word)
  let ws := (shaExpand w.reverse 48).reverse
  let v := (shaK.zip ws).foldl shaRound h
  (List.range 8).map fun i => h.getD i 0#32 + v.getD i 0#32

/-- `n` blocks. -/
def shaBlocks (h : List Word) (bs : List Byte) : Nat → List Word
  | 0 => h
  | n + 1 => shaBlocks (shaBlock h (bs.take 64)) (bs.drop 64) n

/-- The 32 bytes of the hash. -/
def sha256 (bs : List Byte) : List Byte :=
  let pad := 0x80#8 :: List.replicate ((119 - bs.length % 64) % 64) 0#8
  let msg := bs ++ pad ++ (leBytes (8 * bs.length) 8).reverse
  (shaBlocks shaInit msg (msg.length / 64)).flatMap fun w => (leBytes w.toNat 4).reverse

end Sys2Proof.Machine
end

