-- ==== Sys2Proof/Machine/Atomics.lean ====
section
/-!
DEFINITION. Atomics on global memory and on the scratchpad: ATOMI, ATOML, ATOMM, ATOMF, ATOMS (spec 06 R175 to R179).
-/

namespace Sys2Proof.Machine

/-! ## The operations (R176) -/

/-- The new value of a word; `b2` is the second data word of cas. -/
def atomNew (op : AtomOp) (old b b2 : Word) : Word :=
  match op with
  | .add => old + b
  | .inc => if b.toNat ≤ old.toNat then 0#32 else old + 1#32
  | .dec => if old = 0#32 ∨ b.toNat < old.toNat then b else old - 1#32
  | .xchg => b
  | .andOp => old &&& b
  | .orOp => old ||| b
  | .xorOp => old ^^^ b
  | .cas => if old = b then b2 else old
  | .minS => minsW old b
  | .minN => minnW old b
  | .maxS => maxsW old b
  | .maxN => maxnW old b
  | .faddF32 => fadd32 old b
  | .faddBf16x2 => packed (hadd fBf16) old b 0#32
  | .fminF32 => fmin32 old b
  | .fmaxF32 => fmax32 old b

/-! ## Where an atomic is performed (R178) -/

/-- A word read and written at its home: the issuing cluster's copy of the line goes first. The old value, and whether it
is poisoned. `seen` is what an older lane of the instruction has left in the word on a peer, whose memory the model does not
hold (R177). -/
def atomHome (s : State) (k cx : Nat) (l : Leaf) (va : Nat) (f : Word → Word) (seen : Option Word) : State × Word × Bool :=
  let s1 := flushLine s k cx va
  let x := homeLine s1 cx l (lineOf va)
  let old : Word := seen.getD (BitVec.ofNat 32 (leNat ((x.1.drop (va % 128)).take 4)))
  let new := leBytes (f old).toNat 4
  (agentWrite s1 cx l (lineOf va) ((List.range 4).map fun i => (va % 128 + i, new.getD i 0#8)), old,
    x.2.getD (va % 128 / 32) false)

/-- A word read and written in the cluster's L1 atomic unit. -/
def atomL1 (s : State) (k cx : Nat) (l : Leaf) (va : Nat) (f : Word → Word) : State × Word × Bool :=
  let r := loadBytes s k cx 0 ((List.range 4).map fun i => (va + i, l))
  let old : Word := BitVec.ofNat 32 (leNat (r.2.map Prod.fst))
  let new := leBytes (f old).toNat 4
  (storeBytes r.1 k cx 0 ((List.range 4).map fun i => (va + i, l, new.getD i 0#8)), old, r.2.any Prod.snd)

/-- One lane's atomic at the first place of R178 that applies; a page for system-wide atomics is served at its home. -/
def atomAt (s : State) (k cx : Nat) (onlyHome : Bool) (va : Nat) (f : Word → Word) (seen : Option Word) : State × Word × Bool :=
  let l := grantedLeaf s k cx va
  if onlyHome && !l.sysa && l1Ways (s.cluster k) != 0 then atomL1 s k cx l va f else atomHome s k cx l va f seen

/-- The words that lanes have left on peers, after one lane's atomic. -/
def peerWords (s : State) (cx va : Nat) (new : Word) (ws : List (Nat × Word)) : List (Nat × Word) :=
  match homeOf ((s.ctx cx).placement va) va with
  | .peer _ => (va, new) :: ws
  | _ => ws

/-- The lanes' atomics in increasing lane order (R177): the old values, and the lanes that met poison. -/
def Iss.atomLanes (c : Iss) (s : State) (onlyHome : Bool) (addr : Nat → Nat) (f : Nat → Word → Word) :
    State × List (Nat × Word) × List Nat :=
  let cx := s.ctxOf c.warp
  let r := (lanesOf c.em).foldl (fun (acc : State × List (Nat × Word) × List Nat × List (Nat × Word)) l =>
    let seen := (acc.2.2.2.find? fun e => e.1 == addr l).map Prod.snd
    let r := atomAt acc.1 c.cluster cx onlyHome (addr l) (f l) seen
    (r.1, acc.2.1 ++ [(l, r.2.1)], if r.2.2 then l :: acc.2.2.1 else acc.2.2.1,
      peerWords s cx (addr l) (f l r.2.1) acc.2.2.2)) (s, [], [], [])
  (r.1, r.2.1, r.2.2.1)

/-- The data of a global atomic in a lane: B, and B + 1 for cas. -/
inductive AtomData where
  | one (b : Src)
  | pair (n : Nat)
  deriving DecidableEq, Repr

def AtomData.opnd (d : AtomData) : Opnd :=
  match d with
  | .one b => srcOp b
  | .pair n => pairOp n

def Iss.atomWords (c : Iss) (d : AtomData) (l : Nat) : Word × Word :=
  match d with
  | .one b => ((c.read .b b).lane l, 0#32)
  | .pair n => ((c.regAt .b n 0).lane l, (c.regAt .b n 1).lane l)

/-- The old values as a result. -/
def oldValues (vs : List (Nat × Word)) : Reg := vec fun l => laneOf vs l 0#32

/-- The body of a global atomic (R175 to R178). -/
def Iss.atom (c : Iss) (s : State) (op : AtomOp) (d : Dst) (a : Nat) (b : AtomData) (sc : Nat) : Res :=
  let k := c.scopeAt s sc
  if c.em = 0#32 then .ok (c.complete s c.warp)
  else if !c.scopeOk s sc then trapU 0x10
  else do
    let addr := c.address a .z
    let vas := fun l => c.byteAddrs .global 4 l (addr l)
    c.checkAccess s .global .both 4 addr
    match c.waitRemote s addr vas with
    | some t => return t
    | none =>
      let r := c.atomLanes s (k.onlyHome c.cluster) addr fun l old =>
        let w := c.atomWords b l
        atomNew op old w.1 w.2
      let s1 := c.external r.1
      match d with
      | .z => return c.complete s1 c.warp
      | .win _ => do
        c.poisonTrap addr r.2.2
        c.result s1 false d false (oldValues r.2.1)

/-- A global atomic. -/
def atomic (s : State) (op : AtomOp) (d : Dst) (a : Nat) (b : AtomData) (sc : Nat) : Host.Outcome State Fault Refusal :=
  latching s sc (execute s { d := dstOp d, a := pair6 a, b := b.opnd, ext := .bits 21, compared := true } fun c => c.atom s op d a b sc)

/-! ## The scratchpad (R179) -/

/-- The offset of a scratchpad atomic in a lane. -/
def Iss.scratchOffset (c : Iss) (a : Src) (l : Nat) : Nat := modPow (((c.read .a a).lane l).toNat + c.memOffset) 64

/-- The lanes' atomics on the crew's scratchpad. -/
def Iss.atomsLanes (c : Iss) (s : State) (addr : Nat → Nat) (f : Nat → Word → Word) : State × List (Nat × Word) :=
  let crew := s.crewNo c.warp
  (lanesOf c.em).foldl (fun acc l =>
    let old : Word := BitVec.ofNat 32 (scratchNat acc.1 crew (addr l) 4)
    (scratchPutNat acc.1 crew (addr l) (f l old).toNat 4, acc.2 ++ [(l, old)])) (s, [])

/-- A scratchpad atomic. -/
def scratchAtomic (s : State) (op : AtomOp) (nw : Bool) (d : Dst) (a : Src) (b : AtomData) :
    Host.Outcome State Fault Refusal :=
  execute s { d := dstOp d, a := srcOp a, b := b.opnd, ext := .bits 21, compared := true } fun c =>
    if c.em = 0#32 then .ok (c.complete s c.warp)
    else do
      let addr := c.scratchOffset a
      c.checkScratch s 4 addr
      let r := c.atomsLanes s addr fun l old =>
        let w := c.atomWords b l
        atomNew op old w.1 w.2
      match d with
      | .z => return c.complete (c.external r.1) c.warp
      | .win _ => do
        c.poisonTrap addr ((lanesOf c.em).filter fun l => scratchBad s (s.crewNo c.warp) (addr l))
        c.result (c.external r.1) nw d false (oldValues r.2)

/-! ## ATOMI, ATOML, ATOMM, ATOMF -/

/-- ATOMI.add (R176). -/
def execAtomiAdd (d : Dst) (a : Nat) (b : Src) (sc : Nat) (s : State) : Host.Outcome State Fault Refusal :=
  atomic s .add d a (.one b) sc

/-- ATOMI.inc (R176). -/
def execAtomiInc (d : Dst) (a : Nat) (b : Src) (sc : Nat) (s : State) : Host.Outcome State Fault Refusal :=
  atomic s .inc d a (.one b) sc

/-- ATOMI.dec (R176). -/
def execAtomiDec (d : Dst) (a : Nat) (b : Src) (sc : Nat) (s : State) : Host.Outcome State Fault Refusal :=
  atomic s .dec d a (.one b) sc

/-- ATOMI.xchg (R176). -/
def execAtomiXchg (d : Dst) (a : Nat) (b : Src) (sc : Nat) (s : State) : Host.Outcome State Fault Refusal :=
  atomic s .xchg d a (.one b) sc

/-- ATOML.and (R176). -/
def execAtomlAnd (d : Dst) (a : Nat) (b : Src) (sc : Nat) (s : State) : Host.Outcome State Fault Refusal :=
  atomic s .andOp d a (.one b) sc

/-- ATOML.or (R176). -/
def execAtomlOr (d : Dst) (a : Nat) (b : Src) (sc : Nat) (s : State) : Host.Outcome State Fault Refusal :=
  atomic s .orOp d a (.one b) sc

/-- ATOML.xor (R176). -/
def execAtomlXor (d : Dst) (a : Nat) (b : Src) (sc : Nat) (s : State) : Host.Outcome State Fault Refusal :=
  atomic s .xorOp d a (.one b) sc

/-- ATOML.cas (R176). -/
def execAtomlCas (d : Dst) (a : Nat) (b : Nat) (sc : Nat) (s : State) : Host.Outcome State Fault Refusal :=
  atomic s .cas d a (.pair b) sc

/-- ATOMM.min.s (R176). -/
def execAtommMinS (d : Dst) (a : Nat) (b : Src) (sc : Nat) (s : State) : Host.Outcome State Fault Refusal :=
  atomic s .minS d a (.one b) sc

/-- ATOMM.min.n (R176). -/
def execAtommMinN (d : Dst) (a : Nat) (b : Src) (sc : Nat) (s : State) : Host.Outcome State Fault Refusal :=
  atomic s .minN d a (.one b) sc

/-- ATOMM.max.s (R176). -/
def execAtommMaxS (d : Dst) (a : Nat) (b : Src) (sc : Nat) (s : State) : Host.Outcome State Fault Refusal :=
  atomic s .maxS d a (.one b) sc

/-- ATOMM.max.n (R176). -/
def execAtommMaxN (d : Dst) (a : Nat) (b : Src) (sc : Nat) (s : State) : Host.Outcome State Fault Refusal :=
  atomic s .maxN d a (.one b) sc

/-- ATOMF.fadd.f32 (R176). -/
def execAtomfFaddF32 (d : Dst) (a : Nat) (b : Src) (sc : Nat) (s : State) : Host.Outcome State Fault Refusal :=
  atomic s .faddF32 d a (.one b) sc

/-- ATOMF.fadd.bf16x2 (R176). -/
def execAtomfFaddBf16x2 (d : Dst) (a : Nat) (b : Src) (sc : Nat) (s : State) : Host.Outcome State Fault Refusal :=
  atomic s .faddBf16x2 d a (.one b) sc

/-- ATOMF.fmin.f32 (R176). -/
def execAtomfFminF32 (d : Dst) (a : Nat) (b : Src) (sc : Nat) (s : State) : Host.Outcome State Fault Refusal :=
  atomic s .fminF32 d a (.one b) sc

/-- ATOMF.fmax.f32 (R176). -/
def execAtomfFmaxF32 (d : Dst) (a : Nat) (b : Src) (sc : Nat) (s : State) : Host.Outcome State Fault Refusal :=
  atomic s .fmaxF32 d a (.one b) sc

/-! ## ATOMS -/

/-- ATOMS.add (R179). -/
def execAtomsAdd (nw : Bool) (d : Dst) (a : Src) (b : Src) (s : State) : Host.Outcome State Fault Refusal :=
  scratchAtomic s .add nw d a (.one b)

/-- ATOMS.inc (R179). -/
def execAtomsInc (nw : Bool) (d : Dst) (a : Src) (b : Src) (s : State) : Host.Outcome State Fault Refusal :=
  scratchAtomic s .inc nw d a (.one b)

/-- ATOMS.dec (R179). -/
def execAtomsDec (nw : Bool) (d : Dst) (a : Src) (b : Src) (s : State) : Host.Outcome State Fault Refusal :=
  scratchAtomic s .dec nw d a (.one b)

/-- ATOMS.xchg (R179). -/
def execAtomsXchg (nw : Bool) (d : Dst) (a : Src) (b : Src) (s : State) : Host.Outcome State Fault Refusal :=
  scratchAtomic s .xchg nw d a (.one b)

/-- ATOMS.and (R179). -/
def execAtomsAnd (nw : Bool) (d : Dst) (a : Src) (b : Src) (s : State) : Host.Outcome State Fault Refusal :=
  scratchAtomic s .andOp nw d a (.one b)

/-- ATOMS.or (R179). -/
def execAtomsOr (nw : Bool) (d : Dst) (a : Src) (b : Src) (s : State) : Host.Outcome State Fault Refusal :=
  scratchAtomic s .orOp nw d a (.one b)

/-- ATOMS.xor (R179). -/
def execAtomsXor (nw : Bool) (d : Dst) (a : Src) (b : Src) (s : State) : Host.Outcome State Fault Refusal :=
  scratchAtomic s .xorOp nw d a (.one b)

/-- ATOMS.cas (R179). -/
def execAtomsCas (nw : Bool) (d : Dst) (a : Src) (b : Nat) (s : State) : Host.Outcome State Fault Refusal :=
  scratchAtomic s .cas nw d a (.pair b)

/-- ATOMS.min.s (R179). -/
def execAtomsMinS (nw : Bool) (d : Dst) (a : Src) (b : Src) (s : State) : Host.Outcome State Fault Refusal :=
  scratchAtomic s .minS nw d a (.one b)

/-- ATOMS.min.n (R179). -/
def execAtomsMinN (nw : Bool) (d : Dst) (a : Src) (b : Src) (s : State) : Host.Outcome State Fault Refusal :=
  scratchAtomic s .minN nw d a (.one b)

/-- ATOMS.max.s (R179). -/
def execAtomsMaxS (nw : Bool) (d : Dst) (a : Src) (b : Src) (s : State) : Host.Outcome State Fault Refusal :=
  scratchAtomic s .maxS nw d a (.one b)

/-- ATOMS.max.n (R179). -/
def execAtomsMaxN (nw : Bool) (d : Dst) (a : Src) (b : Src) (s : State) : Host.Outcome State Fault Refusal :=
  scratchAtomic s .maxN nw d a (.one b)

/-- ATOMS.fadd.f32 (R179). -/
def execAtomsFaddF32 (nw : Bool) (d : Dst) (a : Src) (b : Src) (s : State) : Host.Outcome State Fault Refusal :=
  scratchAtomic s .faddF32 nw d a (.one b)

/-- ATOMS.fadd.bf16x2 (R179). -/
def execAtomsFaddBf16x2 (nw : Bool) (d : Dst) (a : Src) (b : Src) (s : State) : Host.Outcome State Fault Refusal :=
  scratchAtomic s .faddBf16x2 nw d a (.one b)

end Sys2Proof.Machine
end

