-- ==== Sys2Proof/Machine/Volume.lean ====
section
/-!
DEFINITION. Sparse volumes: VLD, VST, VPROBE, VADD, VSHOOT, VQRY, and the walker (spec 08 R237 to R244, 18 R347, R348).
-/

namespace Sys2Proof.Machine

/-! ## Descriptors (R237) -/

/-- A volume's descriptor: its 16 words. -/
structure Vol where
  words : List Nat
  deriving DecidableEq, Repr

def Vol.w (v : Vol) (i : Nat) : Nat := v.words.getD i 0
def Vol.root (v : Vol) : Nat := v.w 0 + 2 ^ 32 * bitsN (v.w 1) 0 24
/-- The largest coordinate of dimension `i`. -/
def Vol.top (v : Vol) (i : Nat) : Nat := bitsN (v.w (2 + i)) 0 24
/-- Log2 of the tile's size in dimension `i`. -/
def Vol.tl (v : Vol) (i : Nat) : Nat := bitsN (v.w (2 + i)) 24 4
/-- Bytes of an element. -/
def Vol.esz (v : Vol) : Nat := 2 ^ bitsN (v.w 5) 0 2
def Vol.levels (v : Vol) : Nat := bitsN (v.w 5) 2 3
def Vol.ro (v : Vol) : Bool := bitsN (v.w 5) 8 1 == 1
def Vol.aow (v : Vol) : Bool := bitsN (v.w 5) 9 1 == 1
def Vol.valid (v : Vol) : Bool := bitsN (v.w 5) 10 1 == 1
/-- The background element. -/
def Vol.bg (v : Vol) : Nat := (v.w 6 + 2 ^ 32 * v.w 7) % 256 ^ v.esz
def Vol.tpool (v : Vol) : Nat := v.w 8 + 2 ^ 32 * bitsN (v.w 9) 0 24
def Vol.npool (v : Vol) : Nat := v.w 10 + 2 ^ 32 * bitsN (v.w 11) 0 24
def Vol.gen (v : Vol) : Nat := v.w 12
def Vol.tileBytes (v : Vol) : Nat := 2 ^ (v.tl 0 + v.tl 1 + v.tl 2) * v.esz

/-- The zero fields are zero; the first word that holds one that is not, else the first failing condition's word. -/
def Vol.badWord (v : Vol) : Option Nat :=
  let zero : List (Nat × Bool) :=
    [(2, bitsN (v.w 2) 28 4 != 0), (3, bitsN (v.w 3) 28 4 != 0), (4, bitsN (v.w 4) 28 4 != 0),
      (5, bitsN (v.w 5) 5 3 != 0 || bitsN (v.w 5) 11 21 != 0), (13, v.w 13 != 0), (14, v.w 14 != 0), (15, v.w 15 != 0)]
  match zero.find? Prod.snd with
  | some e => some e.1
  | none =>
    if v.levels = 0 ∨ 5 < v.levels then some 5
    else if v.tileBytes < 512 ∨ 65536 < v.tileBytes then some 2
    else ((List.range 3).find? fun i => decide (8 ^ v.levels * 2 ^ v.tl i ≤ v.top i)).map (2 + ·)

/-! ## Access checks of the walker (R241) -/

/-- What stands against an access of the walker; `kept`: of the peer it has waited for. -/
def Iss.walkerCheck (c : Iss) (s : State) (kept : List (Nat × Nat)) (kind : Access) (a n : Nat) : Option WalkEnd :=
  let g := c.agent s
  match g.runFailure s kept false kind a n with
  | some i => some (.fail (checkCause i) a)
  | none => if (g.runWaits s kept false a n).isEmpty then none else some (.remote a)

/-- A value at its home. -/
def Iss.homeNat (c : Iss) (s : State) (a n : Nat) : Nat :=
  let cx := s.ctxOf c.warp
  leNat (homeBytes s cx (grantedLeaf s c.cluster cx a) a n)

/-- A run of bytes stored at its home, part by part of a page: an external effect of the team (R298). -/
def Iss.homePut (c : Iss) (s : State) (a : Nat) (bs : List Byte) : State :=
  let cx := s.ctxOf c.warp
  let lines := (List.range ((a % 128 + bs.length + 127) / 128)).map fun i => lineOf a + 128 * i
  c.external (lines.foldl (fun s ln =>
    let lo := max a ln
    let part := (bs.drop (lo - a)).take (min (ln + 128) (a + bs.length) - lo)
    homeStoreBy agentWrite s cx (grantedLeaf s c.cluster cx ln) lo part) s)

/-- Before an indivisible operation at a home, the cluster's lines of the bytes go there (R178). -/
def Iss.sent (c : Iss) (s : State) (a n : Nat) : State := flushRange s c.cluster (s.ctxOf c.warp) a n

/-- The release at scope index 2. -/
def Iss.release2 (c : Iss) (s : State) : State := releaseDevice s c.cluster (s.ctxOf c.warp) 2

/-! ## The walk (R238, R239, R241)

A walk reads entries until it ends, or must wait. Each write of it (the mark, the take, the fill, the publish) is a step of its
own, so that a cut may fall between any two; a write held at a cut leaves the walk where it stands (R348). -/

/-- VST and VADD, whose walks allocate. -/
def volWrites (i : VolOp) : Bool :=
  match i with
  | .store _ _ => true
  | .add _ _ => true
  | _ => false

/-- The index of a tile's entry in its node, with `n` levels below it. -/
def nodeIndex (t : Nat × Nat × Nat) (n : Nat) : Nat :=
  bitsN t.1 (3 * n) 3 + 8 * bitsN t.2.1 (3 * n) 3 + 64 * bitsN t.2.2 (3 * n) 3

/-- How far the walk of one tile comes by loads: it ends, or it stands at an entry with some levels below it, which is pending,
or which it is to mark. -/
inductive Reach where
  | ended (e : WalkEnd)
  | stands (a n : Nat) (pending : Bool)
  deriving DecidableEq, Repr

/-- A walk from a node with `n` levels left. -/
def Iss.walk (c : Iss) (v : Vol) (write : Bool) (t : Nat × Nat × Nat) : Nat → State → Nat → State × Reach
  | 0, s, node => (s, .ended (.tile node))
  | n + 1, s, node =>
    let a := node + 8 * nodeIndex t n
    match c.walkerCheck s [] .read a 8 with
    | some e => (s, .ended e)
    | none =>
      let cx := s.ctxOf c.warp
      let s1 := touchL2 s cx (grantedLeaf s c.cluster cx a) (lineOf a)
      let e := c.homeNat s1 a 8
      if e % 2 = 1 then (s1, .stands a n true)
      else if e ≠ 0 then Iss.walk c v write t n s1 e
      else if !write then (s1, .ended .absent)
      else if !v.aow then (s1, .ended (.fail 0x0F 2))
      else
        match c.walkerCheck s1 [] .both a 8 with
        | some e => (s1, .ended e)
        | none => (s1, .stands a n false)

/-- The tile of coordinates. -/
def Vol.tileOf (v : Vol) (p : Nat × Nat × Nat) : Nat × Nat × Nat :=
  (p.1 / 2 ^ v.tl 0, p.2.1 / 2 ^ v.tl 1, p.2.2 / 2 ^ v.tl 2)

/-- The byte offset of an element in its tile. -/
def Vol.offset (v : Vol) (p : Nat × Nat × Nat) : Nat :=
  v.esz * (p.1 % 2 ^ v.tl 0 + p.2.1 % 2 ^ v.tl 1 * 2 ^ v.tl 0 + p.2.2 % 2 ^ v.tl 2 * 2 ^ (v.tl 0 + v.tl 1))

/-- A walk begun: its instruction and descriptor, with no tile resolved. -/
def VolWalk.start (i : VolOp) (h : Nat) (v : Vol) : VolWalk :=
  { insn := i, handle := h, words := v.words, ends := [], tile := (0, 0, 0), entry := 0, below := 0, step := 0, obj := 0
    bad := .absent, shot := false, wait := [], till := 0 }

def VolWalk.vol (k : VolWalk) : Vol := { words := k.words }

/-- A tile that a walk has found enters the CLB, and the cluster's lines of it go home. -/
def Iss.clbInsert (c : Iss) (s : State) (k : VolWalk) (t : Nat × Nat × Nat) (e : WalkEnd) : State :=
  match e with
  | .tile a =>
    let cx := s.ctxOf c.warp
    let s1 := s.mapCluster c.cluster fun y =>
      { y with clb := { ctx := cx, handle := k.handle, gen := BitVec.ofNat 32 k.vol.gen, tile := t, addr := a } :: y.clb }
    flushRange s1 c.cluster cx a k.vol.tileBytes
  | _ => s

/-- What a walk of tile `t` has come to is noted; true: the tile is done with. After a VSHOOT nothing enters the CLB. -/
def Iss.noted (c : Iss) (k : VolWalk) (t : Nat × Nat × Nat) (r : State × Reach) : State × VolWalk × Bool :=
  match r.2 with
  | .ended e => (if k.shot then r.1 else c.clbInsert r.1 k t e, { k with ends := (t, e) :: k.ends }, true)
  | .stands a n pending =>
    (r.1, { k with tile := t, entry := a, below := n, step := if pending then 0 else 1, wait := [], till := r.1.clk.cycle + 64 }, false)

/-- The tiles of some coordinates, each resolved once, until a walk must wait; true: all are done with. -/
def Iss.resolveAll (c : Iss) : List (Nat × Nat × Nat) → State → VolWalk → State × VolWalk × Bool
  | [], s, k => (s, k, true)
  | t :: ts, s, k =>
    let hit := fun (e : Clb) => e.ctx == s.ctxOf c.warp && e.handle == k.handle && e.gen.toNat == k.vol.gen && e.tile == t
    match (s.cluster c.cluster).clb.find? hit with
    | some e => Iss.resolveAll c ts s { k with ends := (t, .tile e.addr) :: k.ends }
    | none =>
      match c.noted k t (c.walk k.vol (volWrites k.insn) t k.vol.levels s k.vol.root) with
      | (s1, k1, true) => Iss.resolveAll c ts s1 k1
      | r => r

/-- The walk goes on at the entry it stands at, which now holds `e`: it waits while that is pending; a VSHOOT in between ends it, for
the instruction's walks to restart (`Iss.volGoOn`). -/
def Iss.walkAt (c : Iss) (s : State) (k : VolWalk) (e : Nat) : State × VolWalk × Bool :=
  if e % 2 = 1 then (s, { k with step := 0, till := s.clk.cycle + 64 }, false)
  else if e ≠ 0 ∧ k.shot then (s, k, true)
  else c.noted k k.tile (c.walk k.vol (volWrites k.insn) k.tile (k.below + 1) s (k.entry - 8 * nodeIndex k.tile k.below))

/-- The walk goes on below the object that it has published, or ends after a VSHOOT as in `walkAt`. -/
def Iss.walkInto (c : Iss) (s : State) (k : VolWalk) : State × VolWalk × Bool :=
  if k.shot then (s, k, true) else c.noted k k.tile (c.walk k.vol (volWrites k.insn) k.tile k.below s k.obj)

/-- The pool of the object that a walk allocates. -/
def VolWalk.pool (k : VolWalk) : Nat := if k.below = 0 then k.vol.tpool else k.vol.npool

/-- Its bytes when it is filled: the background for a tile, zero for a node. -/
def VolWalk.fill (k : VolWalk) : List Byte :=
  if k.below = 0 then (List.range k.vol.tileBytes).map fun i => (leBytes k.vol.bg k.vol.esz).getD (i % k.vol.esz) 0#8
  else List.replicate 4096 0#8

/-- The peers that the walk has waited for, with the first keep-alive of each since (R411). -/
def VolWalk.kept (k : VolWalk) : List (Nat × Nat) := k.wait.filterMap fun e => e.2.map fun t => (e.1, t)

/-- The walk waits for some peers, for each from now on if it has not before. -/
def VolWalk.waitFor (k : VolWalk) (ps : List Nat) : VolWalk :=
  { k with wait := ps.eraseDups.map fun p => (p, ((k.wait.find? fun e => e.1 == p).map Prod.snd).getD none) }

/-- The next step of a walk under way, whose access waits for no peer (R411); true: its tile is done with. During the hold of a cut a
walk that is to mark, take, fill, publish or give back stays where it is (R348). -/
def Iss.walkStep (c : Iss) (s : State) (k : VolWalk) : State × VolWalk × Bool :=
  if s.snap.cut = 2 ∧ k.step ≠ 0 then (s, k, false) else
  let cluster := indexOf (granted (s.ctx (s.ctxOf c.warp))) c.cluster
  -- it waits for a peer where it stands
  let held := fun (a n : Nat) => (s, k.waitFor ((c.agent s).runWaits s k.kept false a n), false)
  -- an access of the walk, which fails by giving the entry back
  let onCheck := fun (kind : Access) (a n : Nat) (go : State × VolWalk × Bool) =>
    match c.walkerCheck s k.kept kind a n with
    | some (.remote _) => held a n
    | some e => (s, { k with step := 5, bad := e, wait := [] }, false)
    | none => go
  match k.step with
  | 0 => c.walkAt s k (c.homeNat s k.entry 8)
  | 1 =>
    match c.walkerCheck s k.kept .both k.entry 8 with
    | some (.remote _) => held k.entry 8
    | some e => c.noted k k.tile (s, .ended e)
    | none =>
      let s := c.sent s k.entry 8
      let e := c.homeNat s k.entry 8
      if e ≠ 0 then c.walkAt s k e
      else (c.homePut s k.entry (leBytes (1 + 2 * cluster) 8), { k with step := 2, wait := [] }, false)
  | 2 =>
    onCheck .both k.pool 32 <|
      let s := c.sent s k.pool 32
      let next := c.homeNat s (k.pool + 12) 4
      if c.homeNat s (k.pool + 8) 4 ≤ next then
        (s, { k with step := 5, bad := .fail 0x0F (if k.below = 0 then 0 else 1), wait := [] }, false)
      else
        (c.homePut s (k.pool + 12) (leBytes (next + 1) 4),
          { k with step := 3, obj := bitsN (c.homeNat s k.pool 8) 0 56 + next * c.homeNat s (k.pool + 16) 4, wait := [] }, false)
  | 3 => onCheck .write k.obj k.fill.length (c.release2 (c.homePut s k.obj k.fill), { k with step := 4, wait := [] }, false)
  | 4 => onCheck .both k.entry 8 (c.walkInto (c.homePut s k.entry (leBytes k.obj 8)) k)
  | _ => (c.release2 (c.homePut s k.entry (leBytes 0 8)), { k with ends := (k.tile, k.bad) :: k.ends }, true)

/-! ## What the volume instructions share (R240) -/

/-- A handle: U (0x06), and 0 to 255 (0x02). -/
def Iss.handle (c : Iss) (a : Src) : Except Trap Nat := do
  let h ← c.needSrc .a a
  inRange (decide (h ≤ 255)) h
  return h

/-- Words of a volume that an instruction cannot reach, in its descriptor or its pool: the entry is not valid for it, which is trap
0x0B (R252, log 55). -/
def Iss.reaches (c : Iss) (s : State) (h : Nat) (kind : Access) (a n : Nat) : Except Trap Unit :=
  match c.checkRows s false kind [(a, n)] with
  | .ok _ => .ok ()
  | .error t => .error { cause := 0x0B, val := .word h, base := t.base }

/-- The descriptor of a handle, read at its home: valid (0x0B) and well formed (0x02). -/
def Iss.volume (c : Iss) (s : State) (h : Nat) : Except Trap (Nat × Vol) := do
  let at_ := (s.ctx (s.ctxOf c.warp)).voltab + 64 * h
  c.reaches s h .read at_ 64
  let v : Vol := { words := (List.range 16).map fun i => c.homeNat s (at_ + 4 * i) 4 }
  if !v.valid then trapW 0x0B h
  else match v.badWord with
    | some i => trapW 0x02 i
    | none => return (at_, v)

/-- Registers of an element of 8 bytes: an even pair (0x02, or 0x05 when D is indirect). Field D of VPROBE is one register. -/
def Iss.elementPair (c : Iss) (i : VolOp) (v : Vol) : Except Trap Unit :=
  let pair := fun (d : Nat) =>
    if c.ind .d then
      match indirectBad c .d (pairOp d) with
      | some k => trapW 0x05 (modPow k 32)
      | none => .ok ()
    else if d % 2 = 0 ∧ d + 2 ≤ 112 then .ok ()
    else trapU 0x02
  if v.esz ≠ 8 then .ok ()
  else match i with
    | .load (.win d) _ => pair d
    | .store _ (.win d) => pair d
    | .add _ (.win d) => pair d
    | .probe _ _ => .ok ()
    | _ => trapU 0x02

/-- Lane `l`'s coordinates. -/
def Iss.coords (c : Iss) (b l : Nat) : Nat × Nat × Nat :=
  let x := fun j => ((c.regAt .b b j).lane l).toNat
  (x 0, x 1, x 2)

/-- The coordinates are U. -/
def Iss.uniformCoords (c : Iss) (b : Nat) : Bool := (List.range 3).all fun j => (c.regAt .b b j).isU

/-- The first dimension in which coordinates lie outside the extents. -/
def Vol.outside (v : Vol) (p : Nat × Nat × Nat) : Option Nat :=
  if v.top 0 < p.1 then some 0 else if v.top 1 < p.2.1 then some 1 else if v.top 2 < p.2.2 then some 2 else none

/-- Trap 0x0E. -/
def Iss.checkExtents (c : Iss) (v : Vol) (b : Nat) : Except Trap Unit :=
  let bad := fun l => v.outside (c.coords b l)
  match (lanesOf c.em).findSome? bad with
  | none => .ok ()
  | some i => .error { cause := 0x0E, val := .word i, lanes := some (maskWhere fun l => c.em.getLsbD l && (bad l).isSome) }

/-- The causes a walk can fail with, in the order they are reported (R241). -/
def walkCauses : List Nat := [0x1A, 0x0A, 0x0B, 0x0C, 0x0D, 0x1C, 0x0F]

/-- The trap of failed walks, of some causes. -/
def Iss.walkTrap (c : Iss) (s : State) (ends : Nat → WalkEnd) (causes : List Nat) : Except Trap Unit :=
  let fails := fun (cause l : Nat) => match ends l with | .fail k _ => k == cause | _ => false
  let value := fun l => match ends l with | .fail _ v => v | _ => 0
  match causes.find? fun k => (lanesOf c.em).any (fails k) with
  | none => .ok ()
  | some k =>
    let lanes := maskWhere fun l => c.em.getLsbD l && fails k l
    let base := if k = 0x0A then postMalformed s (s.ctxOf c.warp) ((lanesOf lanes).map value) (whoIs s c.warp 0) else s
    .error { cause := k, lanes := some lanes, base := some base
             val := if k = 0x0F then .word (value (lowestLane lanes)) else .addrs ((List.range 32).map value) }

/-- What the instruction has found when its walks are over: its volume, and the lanes' element addresses (none where the tile is
absent). -/
structure Found where
  vol : Vol
  state : State
  addr : Nat → Option Nat

/-- The coordinates' field. -/
def volCoords (i : VolOp) : Nat :=
  match i with
  | .load _ b => b
  | .store b _ => b
  | .probe _ b => b
  | .add b _ => b

/-- The kind of the access to the element. -/
def volAccess (i : VolOp) : Access :=
  match i with
  | .store _ _ => .write
  | .add _ _ => .both
  | _ => .read

/-- The checks of R240, steps 1 to 4. That of an 8-byte element's pair of registers stands after step 2, which reads the element's
size (log 55). -/
def Iss.volume? (c : Iss) (s : State) (i : VolOp) (h : Nat) : Except Trap Vol := do
  let (_, v) ← c.volume s h
  c.elementPair i v
  if volWrites i && v.ro then trapW 0x0B h
  else do
    c.checkExtents v (volCoords i)
    return v

/-- The end of each lane's walk. -/
def Iss.laneEnd (c : Iss) (k : VolWalk) (l : Nat) : WalkEnd :=
  match k.ends.find? fun e => e.1 == k.vol.tileOf (c.coords (volCoords k.insn) l) with
  | some e => e.2
  | none => .absent

/-- The checks of R240, step 6, when every walk is over. The result is the state to park in, or what was found. -/
def Iss.found (c : Iss) (s : State) (k : VolWalk) : Except Trap (State ⊕ Found) := do
  let cx := s.ctxOf c.warp
  let ends := c.laneEnd k
  let far := (lanesOf c.em).filterMap fun l => match ends l with | .remote va => some (l, va) | _ => none
  -- a walk that waits can still fail with 0x1C, which is reported before 0x0F
  c.walkTrap s ends (walkCauses.filter fun n => n != 0x0F || far.isEmpty)
  match c.awaitPeers s (far.map fun e => (e.1, (remoteWait s c.cluster cx e.2).getD 0, e.2)) with
  | some t => return .inl t
  | none =>
    let addr := fun l => match ends l with
      | .tile t => some (t + k.vol.offset (c.coords (volCoords k.insn) l))
      | _ => none
    let bad := fun l => match addr l with
      | none => none
      | some va => if 2 ^ 56 ≤ va then some 4
        else leafCheck s cx c.warp.pkr (volAccess k.insn) va (accessLeaf s c.cluster cx va)
    let at_ := fun l => (addr l).getD 0
    c.laneTrap bad at_ fun n lanes =>
      some (if n = 4 then postMalformed s cx ((lanesOf lanes).map at_) (whoIs s c.warp (volAccess k.insn).code) else s)
    let vas := fun l => match addr l with
      | none => []
      | some va => (List.range k.vol.esz).map fun i => va + i
    match c.waitRemote s at_ vas with
    | some t => return .inl t
    | none => return .inr { vol := k.vol, state := s, addr := addr }

/-- The lanes whose tile is present, with their element addresses. -/
def Iss.present (c : Iss) (f : Found) : List (Nat × Nat) := (lanesOf c.em).filterMap fun l => (f.addr l).map fun a => (l, a)

/-- A result per lane, U when the coordinates are U. -/
def Iss.perLane (c : Iss) (b : Nat) (f : Nat → Word) : Reg := if c.uniformCoords b then .u (f c.first) else vec f

/-- The form of a volume instruction; `rd`: field D is read. -/
def volForm (d : Opnd) (rd cmp : Bool) (a : Src) (b : Nat) : Form :=
  { d := d, a := srcOp a, b := .win b 3 1 1, dread := rd, compared := cmp, valued := true }

/-- The element that lane `l` stores or adds. -/
def Iss.element (c : Iss) (d : Src) (l : Nat) : Nat :=
  ((c.read .d d).lane l).toNat + match d with
    | .win n => 2 ^ 32 * ((c.regAt .d n 1).lane l).toNat
    | _ => 0

/-! ## The instructions -/

/-- VLD's effect. -/
def Iss.loadFound (c : Iss) (d : Dst) (b : Nat) (f : Found) : Res := do
  let ps := c.present f
  let n := f.vol.esz
  let cx := f.state.ctxOf c.warp
  let as := ps.flatMap fun (e : Nat × Nat) =>
    (List.range n).map fun i => (e.2 + i, grantedLeaf f.state c.cluster cx (e.2 + i))
  let r := loadBytes f.state c.cluster cx 0 as
  let vals : List (Nat × List (Byte × Bool)) := (ps.map Prod.fst).zip (pieces n r.2 ps.length)
  c.poisonTrap (fun l => (f.addr l).getD 0) ((vals.filter fun e => e.2.any Prod.snd).map Prod.fst)
  let value := fun l => match vals.find? fun e => e.1 == l with
    | some e => leNat (e.2.map Prod.fst)
    | none => f.vol.bg
  let reg := fun j => c.perLane b fun l => BitVec.ofNat 32 (value l / 2 ^ (32 * j))
  match d, n with
  | .win d, 8 => c.results r.1 false [(c.place .d d 0, reg 0), (c.place .d d 1, reg 1)]
  | d, _ => c.result r.1 false d false (reg 0)

/-- VST's effect. -/
def Iss.storeFound (c : Iss) (d : Src) (f : Found) : Res :=
  let cx := f.state.ctxOf c.warp
  let ws := (c.present f).flatMap fun (e : Nat × Nat) =>
    let bs := leBytes (c.element d e.1) f.vol.esz
    (List.range f.vol.esz).map fun i => (e.2 + i, grantedLeaf f.state c.cluster cx (e.2 + i), bs.getD i 0#8)
  .ok (c.complete (c.external (storeBytes f.state c.cluster cx 0 ws)) c.warp)

/-- VPROBE's effect. -/
def Iss.probeFound (c : Iss) (d : Dst) (b : Nat) (f : Found) : Res :=
  c.result f.state false d false (c.perLane b fun l => if (f.addr l).isSome then 1#32 else 0#32)

/-- An element added to at its home (R178). -/
def Iss.addElement (c : Iss) (n : Nat) (s : State) (va x : Nat) : State :=
  let s1 := flushRange s c.cluster (s.ctxOf c.warp) va n
  c.homePut s1 va (leBytes (c.homeNat s1 va n + x) n)

/-- VADD's effect: the lanes in increasing order (R177). -/
def Iss.addFound (c : Iss) (d : Src) (f : Found) : Res :=
  .ok (c.complete (c.external ((c.present f).foldl (fun s e => c.addElement f.vol.esz s e.2 (c.element d e.1)) f.state)) c.warp)

/-- The effect of a volume instruction whose walks are over. -/
def Iss.volEffect (c : Iss) (i : VolOp) (f : Found) : Res :=
  match i with
  | .load d b => c.loadFound d b f
  | .store _ d => c.storeFound d f
  | .probe d b => c.probeFound d b f
  | .add _ d => c.addFound d f

/-- The walk has failed. -/
def WalkEnd.failed (e : WalkEnd) : Bool :=
  match e with
  | .fail _ _ => true
  | _ => false

/-- After a VSHOOT of its volume an instruction starts again under the new generation: it checks the descriptor as it now stands, and
every tile it had resolved is resolved again; a walk that has failed stays failed (R241, R243, R320). -/
def Iss.restarted (c : Iss) (s : State) (k : VolWalk) : Except Trap VolWalk :=
  if k.shot then
    (c.volume? s k.insn k.handle).map fun v =>
      { VolWalk.start k.insn k.handle v with ends := k.ends.filter fun e => e.2.failed }
  else .ok k

/-- What follows the walks of an instruction. In a team whose save has begun it is marked for replay instead: the walks have completed
or failed, and no element is accessed (R243). -/
def Iss.afterWalks (c : Iss) (s : State) (r : Res) : Res :=
  if (s.team c.warp.team).res == .saving then .ok (discardAt s c.w c.sp) else r

/-- The walks that are left are made; then the effect, or the split waits where a walk stands. At issue that is a group switch
(R22). -/
def Iss.volGoOn (c : Iss) (issue : Bool) (r : State × VolWalk × Bool) : Res :=
  let left := fun (k : VolWalk) =>
    (((lanesOf c.em).map fun l => k.vol.tileOf (c.coords (volCoords k.insn) l)).eraseDups).filter fun t => !k.ends.any fun e => e.1 == t
  match (if r.2.2 then c.restarted r.1 r.2.1 else .ok r.2.1) with
  | .error t => c.afterWalks r.1 (.error t)
  | .ok k0 =>
    match (if r.2.2 then c.resolveAll (left k0) r.1 k0 else r) with
    | (s, k, false) =>
      .ok (if issue then c.park s (.walk k) else s.mapWarp c.w fun x => x.mapSplit c.sp fun t => { t with park := .walk k })
    | (s, k, true) => c.afterWalks s do
      match ← c.found s k with
      | .inl t => return t
      | .inr f => c.volEffect k.insn f

/-- A volume instruction issues. -/
def Iss.volIssue (c : Iss) (s : State) (i : VolOp) (a : Src) : Res := do
  c.whole
  let h ← c.handle a
  let v ← c.volume? s i h
  c.volGoOn true (s, VolWalk.start i h v, true)

/-- VLD (R240). -/
def execVld (d : Dst) (a : Src) (b : Nat) (s : State) : Host.Outcome State Fault Refusal :=
  execute s (volForm (dstOp d) false true a b) fun c => c.volIssue s (.load d b) a

/-- VST (R240). -/
def execVst (a : Src) (b : Nat) (d : Src) (s : State) : Host.Outcome State Fault Refusal :=
  execute s (volForm (srcOp d) true true a b) fun c => c.volIssue s (.store b d) a

/-- VPROBE (R240). -/
def execVprobe (d : Dst) (a : Src) (b : Nat) (s : State) : Host.Outcome State Fault Refusal :=
  execute s (volForm (dstOp d) false false a b) fun c => c.volIssue s (.probe d b) a

/-- VADD (R240). -/
def execVadd (a : Src) (b : Nat) (d : Src) (s : State) : Host.Outcome State Fault Refusal :=
  execute s (volForm (srcOp d) true true a b) fun c => c.volIssue s (.add b d) a

/-- WALK_PENDING_RETRY: after 64 cycles the walker reads a pending entry again; a walk that is to write takes its next step
(R241). -/
def execWalkPendingRetry (w sp : Nat) (s : State) : Host.Outcome State Fault Refusal :=
  match seatPark (s.warps.getD w Warp.blank) (seatOf sp) with
  | .walk k =>
    event s (k.step != 0 || decide (k.till ≤ s.clk.cycle)) (carryAt s w (seatOf sp) fun s c => c.volGoOn false (c.walkStep s k))
  | _ => event s false s

/-- The walks of a volume that are under way restart (R244). -/
def shootWalks (s : State) (cx h : Nat) : State :=
  let f : Split → Split := fun t => match t.park with
    | .walk k => if k.handle = h then { t with park := .walk { k with shot := true } } else t
    | _ => t
  { s with warps := s.warps.map fun x =>
      if s.ctxOf x == cx then
        { x with split0 := x.split0.map f, split1 := x.split1.map f
                 welt := x.welt.map fun e => match e with | .split t => .split (f t) | e => e }
      else x }

/-- VSHOOT (R244): the release, the new generation and the invalidation; the split parks until VSHOOT_DONE. -/
def execVshoot (a : Src) (s : State) : Host.Outcome State Fault Refusal :=
  execute s { a := srcOp a, valued := true } fun c => do
    c.whole
    let h ← c.handle a
    let (at_, _) ← c.volume s h
    c.reaches s h .both (at_ + 48) 4
    let cx := s.ctxOf c.warp
    let s0 := c.sent (c.release2 s) (at_ + 48) 4
    let s1 := c.homePut s0 (at_ + 48) (leBytes (c.homeNat s0 (at_ + 48) 4 + 1) 4)
    let s2 := (granted (s.ctx cx)).foldl (fun s k => s.mapCluster k fun x =>
      { x with clb := x.clb.filter fun e => !(e.ctx == cx && e.handle == h) }) s1
    if c.warp.accessOpen (.slot c.sp) then return c.park s .older
    else return c.park (shootWalks s2 cx h) (.vshoot h)

/-- VSHOOT_DONE: every cluster has acknowledged. No access under the old mapping is then under way: an element access is performed in
the step that finds its tile, and a walk that has found some waits only as a walk, which starts again (R320, R321). -/
def execVshootDone (w sp : Nat) (s : State) : Host.Outcome State Fault Refusal :=
  match seatPark (s.warps.getD w Warp.blank) (seatOf sp) with
  | .vshoot _ => event s true (carryAt s w (seatOf sp) fun s c => .ok (c.complete s c.warp))
  | _ => event s false s

/-- VQRY (R244): NEXT and CAP of the tile pool, read together. -/
def execVqry (d : Nat) (a : Src) (s : State) : Host.Outcome State Fault Refusal :=
  execute s { d := pairOp d, a := srcOp a, valued := true } fun c => do
    c.whole
    let h ← c.handle a
    let (_, v) ← c.volume s h
    c.reaches s h .read (v.tpool + 8) 8
    let s := c.sent s (v.tpool + 8) 8
    c.pairResult s d (BitVec.ofNat 32 (c.homeNat s (v.tpool + 12) 4)) (BitVec.ofNat 32 (c.homeNat s (v.tpool + 8) 4))

end Sys2Proof.Machine
end

