-- ==== Sys2Proof/Machine/Snapshot.lean ====
section
/-!
DEFINITION. Snapshots: SNAP, SNAPQ, the cut, and the drain engine with its target ring (spec 08 R245 to R248, 18 R347 to
R350, 21 R397 to R400, 22 R403).
-/

namespace Sys2Proof.Machine

/-! ## SNAP and SNAPQ (R245, R248) -/

/-- What SNAP writes: a status and a generation. -/
def Iss.snapResult (c : Iss) (s : State) (ds : List Place) (status : Nat) : Res :=
  c.results s true (ds.zip [.u (BitVec.ofNat 32 status), .u (BitVec.ofNat 32 s.snap.gen)])

/-- SNAP: statuses 2 and 1 at once; else, once the older accesses of its warp are performed (R180), the release of PHREL, with its
traps, and the split parks for the cut. The release writes the cluster's dirty lines back also where the index names that cluster
alone: the stores before SNAP are in the snapshot (R247, R328), and a write-back may come early (R257). -/
def execSnap (d sc : Nat) (s : State) : Host.Outcome State Fault Refusal :=
  latching s sc <| execute s { d := pairOp d, compared := true } fun c => do
    c.whole
    let cx := s.ctxOf c.warp
    let ds := c.places .d d 2
    if bitsN (s.ctx cx).flags 0 1 = 0 then c.snapResult (c.external s) ds 2
    else if s.snap.cut ≠ 0 ∨ s.snap.st = 2 then c.snapResult (c.external s) ds 1
    else
      if !c.scopeOk s sc then trapU 0x10
      else if c.warp.accessOpen (.slot c.sp) then return c.park s .older
      else
        let (s1, n, twb) := releaseLines (c.external s) c.cluster (c.scopeAt s sc) (some (whoIs s c.warp 1))
        if n ≠ 0 then .error { cause := 0x14, val := .word n, twb := twb, base := some s1 }
        else
          let s2 := c.park s1 (.snap ds)
          return { s2 with snap := { s2.snap with cut := 1 } }

/-- The state SNAPQ reports. -/
def snapState (x : Snap) : Nat := if x.cut ≠ 0 then 1 else x.st

/-- SNAPQ. -/
def execSnapq (d : Nat) (s : State) : Host.Outcome State Fault Refusal :=
  execute s { d := pairOp d } fun c => do
    c.whole
    let x := s.snap
    c.pairResult s d (BitVec.ofNat 32 x.gen)
      (BitVec.ofNat 32 (snapState x + 4 * (x.drain.length % 2 ^ 26) + 2 ^ 28 * x.result))

/-! ## The cut (R246, R247, R349) -/

/-- The context that holds the snapshot right (R395). -/
def snapCtx (s : State) : Option Nat :=
  (List.range s.ctxs.length).find? fun c => (s.ctx c).st != 0 && bitsN (s.ctx c).flags 0 1 == 1

/-- A number put in its place among increasing ones. -/
def insertAsc (n : Nat) : List Nat → List Nat
  | [] => [n]
  | m :: t => if n < m then n :: m :: t else if n = m then m :: t else m :: insertAsc n t

/-- The numbers in increasing order, each once. -/
def ascending (ns : List Nat) : List Nat := ns.foldl (fun acc n => insertAsc n acc) []

/-- The entries of a page table that are not zero bytes throughout: index and value. -/
def tableEntries (m : ByteMem) (base size : Nat) : List (Nat × Nat) :=
  (ascending ((m.filter fun e => decide (base ≤ e.1) && decide (e.1 < base + size)).map fun e => (e.1 - base) / 8)).map
    fun i => (i, memNat m (base + 8 * i) 8)

/-- The addresses and sizes of a context's pages, in its tables as they stand (R357, R358). -/
def ctxPages (s : State) (c : Nat) : List (Nat × Nat) :=
  let m := s.mem.home
  (tableEntries m (s.ctx c).root 65536).flatMap fun (e0 : Nat × Nat) =>
    if bitsN e0.2 0 2 != 1 then []
    else (tableEntries m (bitsN e0.2 16 24 * 65536) 65536).flatMap fun (e1 : Nat × Nat) =>
      let va := e0.1 * 2 ^ 43 + e1.1 * 2 ^ 30
      if bitsN e1.2 0 1 != 1 then []
      else if bitsN e1.2 1 1 = 1 then [(va, 2 ^ 30)]
      else (tableEntries m (bitsN e1.2 16 24 * 65536) 131072).filterMap fun (e2 : Nat × Nat) =>
        if bitsN e2.2 0 2 = 3 then some (va + e2.1 * 65536, 65536) else none

/-- A chunk's leaf, when the drain covers its page (R247, R395). -/
def chunkLeaf (s : State) (c chunk : Nat) : Option Leaf :=
  match translate s c (chunk * 16384) with
  | .leaf l => if preserved s c l then some l else none
  | _ => none

/-- Every chunk of the context's pages that are not snapshot-exempt (R349). -/
def allChunks (s : State) (c : Nat) : List Nat :=
  ((ctxPages s c).flatMap fun (p : Nat × Nat) =>
    (List.range (p.2 / 16384)).map fun i => p.1 / 16384 + i).filter fun n => (chunkLeaf s c n).isSome

/-- Every split that a hold has stopped goes on. -/
def releaseHeld (s : State) : State :=
  (parkedSeats s fun _ p => p == .cutHold).foldl (fun s e => wakeAt s e.1 e.2) s

/-- The parked SNAP completes with a status. -/
def answerSnap (s : State) (status : Nat) : State :=
  (parkedSeats s fun _ p => match p with | .snap _ => true | _ => false).foldl (fun s e =>
    match seatPark (s.warps.getD e.1 Warp.blank) e.2 with
    | .snap ds => carryAt s e.1 e.2 fun s c => c.snapResult s ds status
    | _ => s) s

/-- The release of the parked SNAP is acknowledged by every home. -/
def snapReleased (s : State) : Bool :=
  (parkedSeats s fun _ p => match p with | .snap _ => true | _ => false).all fun e =>
    !wbOpen s (clusterOf (s.warps.getD e.1 Warp.blank).core)

/-- CUT_HOLD: the release is acknowledged, and writes that leave an L1 are held (steps 2 and 3 of R246). -/
def execCutHold (s : State) : Host.Outcome State Fault Refusal :=
  event s (s.snap.cut == 1 && snapReleased s) { s with snap := { s.snap with cut := 2, holdAt := s.clk.ns } }

/-- The homes switch to the next generation: its drain takes every chunk written since the last switch, or every chunk
before a first snapshot (R247, R349). -/
def switchHomes (s : State) : State :=
  let all := match snapCtx s with
    | some c => if (s.ctx c).allDirty then allChunks s c else []
    | none => []
  let s1 := match snapCtx s with
    | some c => s.mapCtx c fun x => { x with allDirty := false }
    | none => s
  { s1 with snap := { s1.snap with
      gen := (s.snap.gen + 1) % 2 ^ 32, st := 2, cut := 0, drain := ascending (s.snap.dirty ++ all), dirty := [], taken := []
      stock := [], emitted := 0, started := false, held := none, stalled := false } }

/-- CUT_SWITCH: nothing is in flight beyond L1, so the homes switch, the hold ends and SNAP returns 0. -/
def execCutSwitch (s : State) : Host.Outcome State Fault Refusal :=
  event s (s.snap.cut == 2 && decide (s.clk.ns ≤ s.snap.holdAt + 3500)) (answerSnap (releaseHeld (switchHomes s)) 0)

/-- CUT_QUIESCE_TIMEOUT: the hold ends with no switch and SNAP returns 3. -/
def execCutQuiesceTimeout (s : State) : Host.Outcome State Fault Refusal :=
  event s (s.snap.cut == 2 && decide (s.snap.holdAt + 3500 < s.clk.ns))
    (answerSnap (releaseHeld { s with snap := { s.snap with cut := 0 } }) 3)

/-- STOCKPOT_STALL_RESUME: the drain has freed copies, and the stalled instruction issues again (R247). -/
def execStockpotStallResume (w sp : Nat) (s : State) : Host.Outcome State Fault Refusal :=
  event s (parkOf s w sp == .stockpot && !stockFull s) (wakeAt s w (seatOf sp))

/-! ## The drain target (R397 to R399) -/

/-- A checkpoint block (R398). -/
structure Ckpt where
  ring : Nat
  peer : Bool
  log : Nat
  tfull : Nat
  vec : Nat
  deriving DecidableEq, Repr

/-- The block at the address BIND read, at its controller (R356). -/
def ckptOf (s : State) (c : Nat) : Ckpt :=
  let w := fun i => physWord s ((s.ctx c).ckpt + 4 * i)
  { ring := w 0 + 2 ^ 32 * bitsN (w 1) 0 24, peer := bitsN (w 2) 0 1 == 1, log := bitsN (w 2) 8 6, tfull := bitsN (w 3) 0 16
    vec := bitsN (w 3) 16 4 }

/-- RIDX: in host memory, or on the peer, whose memory is its own (log 8). -/
def Ckpt.ridx (k : Ckpt) (s : State) : Nat :=
  if k.peer then leNat ((List.range 8).map fun i => Config.peerByte s.clk.tick (k.ring + 8 + i))
  else memNat s.mem.host (k.ring + 8) 8

/-- Bytes of padding before an entry, so that it does not wrap. -/
def Ckpt.pad (k : Ckpt) (s : State) (n : Nat) : Nat :=
  let at_ := s.snap.widx % 2 ^ k.log
  if at_ + n ≤ 2 ^ k.log then 0 else 2 ^ k.log - at_

def Ckpt.room (k : Ckpt) (s : State) (n : Nat) : Bool := decide (s.snap.widx + k.pad s n + n ≤ k.ridx s + 2 ^ k.log)

/-- Bytes reach the target at the engine's WIDX. -/
def Ckpt.put (k : Ckpt) (s : State) (bs : List Byte) : State :=
  let w := s.snap.widx + bs.length
  let s1 := if k.peer then s
    else
      let host := memWrite s.mem.host (k.ring + 64 + s.snap.widx % 2 ^ k.log) bs
      { s with mem := { s.mem with host := memWrite host k.ring (leBytes w 8) } }
  raiseMsi { s1 with snap := { s1.snap with widx := w } } k.vec

/-- An entry's header (R399). -/
def drainHeader (kind c gen va : Nat) (sealed : Bool) (hash : List Byte) (len seq iv : Nat) : List Byte :=
  leBytes (kind + 256 * c + if sealed then 65536 else 0) 4 ++ leBytes gen 4 ++ leBytes va 8 ++
    ((List.range 16).map fun i => hash.getD i 0#8) ++ leBytes len 4 ++ leBytes seq 4 ++ leBytes iv 12 ++ List.replicate 12 0#8

/-- The GCM nonce of a chunk (R400). -/
def drainNonce (gen va : Nat) : Nat := gen * 2 ^ 64 + bitsN va 14 42 * 2 ^ 22

/-- The round keys of the device key, whose bytes are open (log 11). -/
def deviceKeys : List (List Byte) := aesKeys ((List.range 32).map Config.deviceKey)

/-- A sealed payload: ciphertext, tag, and 48 zero bytes. The nonce's bytes are taken in the order the header holds them
(log 11). -/
def sealedPayload (nonce : Nat) (aad plain : List Byte) : List Byte :=
  let iv := leBytes nonce 12
  let ct := gcmText deviceKeys iv plain
  ct ++ gcmTag deviceKeys iv aad ct ++ List.replicate 48 0#8

/-- A KIND 1 entry of a chunk. -/
def chunkEntry (s : State) (c chunk : Nat) (l : Leaf) (bs hash : List Byte) : List Byte :=
  let gen := s.snap.gen
  let va := chunk * 16384
  let iv := drainNonce gen va
  if l.world then
    let h := drainHeader 1 c gen va true [] 16448 s.snap.emitted iv
    h ++ sealedPayload iv (h.take 40) bs
  else drainHeader 1 c gen va false hash 16384 s.snap.emitted 0 ++ bs

/-! ## The drain engine (R350) -/

/-- The drain fails: its chunks stay marked and its copies are discarded (R349, R398). -/
def failDrain (s : State) (result : Nat) : State :=
  let x := s.snap
  { s with snap := { x with st := 3, result := result, stock := [], dirty := (x.drain ++ x.taken ++ x.dirty).eraseDups, drain := []
                            taken := [], held := none } }

/-- The stored hashes with one replaced: each belongs to a chunk of a context. -/
def putHash (hs : List (Nat × Nat × List Byte)) (c ch : Nat) (hash : List Byte) : List (Nat × Nat × List Byte) :=
  (c, ch, hash) :: hs.filter fun e => !(e.1 == c && e.2.1 == ch)

/-- What follows an entry that has reached the target: the chunk's hash is stored and its copies are freed; the last entry
ends the drain. -/
def afterEntry (s : State) (bs : List Byte) (note : Option (Nat × Nat × List Byte)) : State :=
  let x := s.snap
  match note with
  | some (c, ch, hash) =>
    { s with snap := { x with held := none, emitted := x.emitted + 1, hashes := putHash x.hashes c ch hash
                              stock := x.stock.filter fun k => k.va / 16384 != ch } }
  | none =>
    if bs.headD 0#8 = 3#8 then { s with snap := { x with held := none, st := 0, result := 0, stock := [], taken := [] } }
    else { s with snap := { x with held := none } }

/-- An entry is written when the ring has room for it and its padding; else the engine holds it (R397). -/
def writeEntry (s : State) (c : Nat) (bs : List Byte) (note : Option (Nat × Nat × List Byte)) : State :=
  let k := ckptOf s c
  if k.room s bs.length then
    let n := k.pad s bs.length
    let s1 := if n = 0 then s
      else k.put s (drainHeader 0 c s.snap.gen 0 false [] (n - 64) 0 0 ++ List.replicate (n - 64) 0#8)
    afterEntry (k.put s1 bs) bs note
  else
    let at_ := if s.snap.held.isSome then s.snap.heldAt else s.clk.ns
    { s with snap := { s.snap with held := some (bs, note), heldAt := at_ } }

/-- A block's pre-cut bytes, and whether a sector of it is poisoned. -/
def chunkBlock (s : State) (c : Nat) (l : Leaf) (va : Nat) : List Byte × Bool :=
  match s.snap.stock.find? fun k => k.va == va with
  | some k => (k.bytes, k.state == 3)
  | none =>
    let a := homeLine s c l va
    let b := homeLine s c l (va + 128)
    (a.1 ++ b.1, a.2.any id || b.2.any id)

/-- DRAIN_RING_RESUME: the held entry is written once it fits (R397). -/
def execDrainRingResume (s : State) : Host.Outcome State Fault Refusal :=
  match snapCtx s, s.snap.held with
  | some c, some (bs, note) => event s (s.snap.st == 2) (writeEntry s c bs note)
  | _, _ => event s false s

/-- DRAIN_RING_TIMEOUT: no room for TFULL ms (result 1), or the target cannot be reached (result 2). -/
def execDrainRingTimeout (unreachable : Bool) (s : State) : Host.Outcome State Fault Refusal :=
  match snapCtx s with
  | none => event s false s
  | some c =>
    if unreachable then event s (s.snap.st == 2) (failDrain s 2)
    else event s (s.snap.st == 2 && s.snap.held.isSome &&
      decide (s.snap.heldAt + (ckptOf s c).tfull * 1000000 ≤ s.clk.ns)) (failDrain s 1)

end Sys2Proof.Machine
end

