-- ==== Sys2Proof/Machine/Admin.lean ====
section
/-!
DEFINITION. The administrative ring and the context commands: BIND, KILL, SUSPEND, RESUME, QCONF, QUANT, UNBIND (spec 20
R374, R375, R377, R385; 21 R387, R390, R392, R395; 22 R406).
-/

namespace Sys2Proof.Machine

/-! ## The ring (R385) -/

/-- The address of entry `n`, after a header of 64 bytes. -/
def admEntry (s : State) (n : Nat) : Nat := s.win.admbase + 64 * (1 + n % 2 ^ s.win.admlog)

/-- Word `i` of entry `n`. -/
def admWord (s : State) (n i : Nat) : Nat := memNat s.mem.host (admEntry s n + 4 * i) 4

/-- Two words of an entry as an address. -/
def admAddr (s : State) (n i : Nat) : Nat := admWord s n i + 2 ^ 32 * admWord s n (i + 1)

def admOp (s : State) (n : Nat) : Nat := bitsN (admWord s n 0) 0 8
def admCtx (s : State) (n : Nat) : Nat := bitsN (admWord s n 0) 8 6

/-- The entries found by the polls and not yet passed by HEAD. -/
def admWindow (s : State) : List Nat :=
  (List.range ((s.fw.admHead + 2 ^ 32 - s.fw.admDone) % 2 ^ 32)).map fun i => (s.fw.admDone + i) % 2 ^ 32

/-- The entry waits to be run: found, not answered, and every earlier entry of its context answered, but for those in
`pass`. -/
def admDue (s : State) (e : Adm) (op : Nat) (pass : List Nat) : Bool :=
  let older := (admWindow s).takeWhile fun n => n != e.slot
  decide (e.slot < 2 ^ 32) && (admWindow s).contains e.slot && !s.fw.admFin.contains e.slot && admOp s e.slot == op &&
    admCtx s e.slot == e.ctx &&
    older.all fun n => admCtx s n != e.ctx || s.fw.admFin.contains n || pass.contains n

/-- HEAD moves over the entries that are answered. -/
def moveHead (fw : Firmware) : Nat → Firmware
  | 0 => fw
  | n + 1 =>
    if fw.admFin.contains fw.admDone then
      moveHead { fw with admFin := fw.admFin.filter (fun k => k != fw.admDone), admDone := (fw.admDone + 1) % 2 ^ 32 } n
    else fw

/-- An entry's status is written, HEAD advances, and vector 0 is raised. -/
def finishAdm (s : State) (slot result : Nat) : State :=
  let host := memWrite s.mem.host (admEntry s slot + 4) (leBytes (2 ^ 31 + result) 4)
  let fw := moveHead { s.fw with admFin := slot :: s.fw.admFin } (s.fw.admFin.length + 1)
  raiseMsi { s with fw := fw, mem := { s.mem with host := memWrite host (s.win.admbase + 4) (leBytes fw.admDone 4) } } 0

/-- The opcodes of R385, R386, R410 and R413. -/
def admKnown (op : Nat) : Bool := decide (1 ≤ op) && decide (op ≤ 0x12)

/-- ADMIN_RING_POLL: TAIL is read, and entries with no opcode end with result 1. -/
def execAdminRingPoll (s : State) : Host.Outcome State Fault Refusal :=
  let s1 := { s with fw := { s.fw with admHead := memNat s.mem.host s.win.admbase 4 } }
  let bad := (admWindow s1).filter fun n => !admKnown (admOp s1 n) && !s1.fw.admFin.contains n
  event s (s.win.ardy && bitsN s.win.kstat 1 1 == 1) (bad.foldl (fun s n => finishAdm s n 1) s1)

/-- A command of the ring: `named` says that the entry holds the event's operands; `r` is the state and the result, none
for a command that goes on. -/
def command (s : State) (e : Adm) (op : Nat) (pass : List Nat) (named : Bool) (r : State × Option Nat) :
    Host.Outcome State Fault Refusal :=
  event s (admDue s e op pass && named)
    (match r.2 with
    | some n => finishAdm r.1 e.slot n
    | none => r.1)

/-- The context is in one of some states. -/
def inState (s : State) (c : Nat) (ns : List Nat) : Bool := ns.contains (s.ctx c).st

/-- A command that runs in some states and checks its operands: results 2 and 1, else `f`. Where both are wrong the model gives 2, which R385
does not settle (log 55). -/
def checked (s : State) (legal operands : Bool) (f : State × Option Nat) : State × Option Nat :=
  if !legal then (s, some 2) else if !operands then (s, some 1) else f

/-! ## The images (R414) -/

/-- The ROM runs an image: both signatures verify against fused keys, and its version is at least the counter, which lies between
0 and 63. -/
def bootable (f : Fuses) (i : Image) : Bool :=
  i.rsaOk && i.slhOk && f.keys.contains i.rsaKey && f.keys.contains i.slhKey && decide (f.rollback ≤ i.version) &&
    decide (f.rollback ≤ 63)

/-- Image `n` is run: the secure firmware first, without which no other is. -/
def imageRuns (f : Fuses) (n : Nat) : Bool := ([0, n].map fun k => f.images[k]?.any (bootable f)).all id

/-- All three are. -/
def boots (f : Fuses) : Bool := (List.range 3).all (imageRuns f)

/-! ## Lines of a context (R356, R385, R390) -/

/-- Every L1 line of an address space is written back and leaves, but for clusters outside `ks`. -/
def flushL1s (s : State) (ks : List Nat) (p : Line → Bool) : State :=
  ks.foldl (fun s k => ((s.cluster k).l1.filter p).foldl (fun s x => evictL1 s k x) s) s

/-- Lines leave the L1s, Sieve caches and instruction caches of every cluster, without write-back. -/
def dropLines (s : State) (p : Line → Bool) : State :=
  { s with clusters := s.clusters.map fun k =>
      { k with l1 := k.l1.filter fun x => !p x, sieve := k.sieve.filter fun x => !p x, icache := k.icache.filter fun x => !p x } }

/-- Lines leave L2 without write-back. -/
def dropL2 (s : State) (p : Line → Bool) : State :=
  { s with mem := { s.mem with l2 := s.mem.l2.filter fun x => !p x } }

/-- CLB entries of a context leave every cluster. -/
def dropClb (s : State) (c : Nat) : State :=
  { s with clusters := s.clusters.map fun k => { k with clb := k.clb.filter fun e => e.ctx != c } }

def allClusters (s : State) : List Nat := List.range s.clusters.length

/-! ## The control block (R374) -/

/-- Word `i` of a control block, at its controller. -/
def ccbWord (s : State) (ccb i : Nat) : Nat := physWord s (ccb + 4 * i)
def ccbPair (s : State) (ccb i : Nat) : Nat := ccbWord s ccb i + 2 ^ 32 * ccbWord s ccb (i + 1)

def ccbPut (s : State) (ccb i v : Nat) : State :=
  if fencedStack s ((ccb + 4 * i) / 2 ^ 36) then s
  else { s with mem := { s.mem with home := memWrite s.mem.home (ccb + 4 * i) (leBytes v 4) } }

/-- A device physical address of a stack's memory below the Stockpot, behind no fence (R404). -/
def physOk (s : State) (a n : Nat) : Bool :=
  decide (a / 2 ^ 36 < Config.stackCount) && !fencedStack s (a / 2 ^ 36) && decide (a % 2 ^ 36 + n ≤ Config.stackEnd - s.snap.units * 2 ^ 26)

/-- The ageing periods of words 13 to 16. -/
def ccbAges (s : State) (ccb : Nat) : List Nat := (List.range 8).map fun k => bitsN (ccbWord s ccb (13 + k / 2)) (k % 2 * 16) 16

/-- QUANT and AGE lie in their ranges. -/
def timesOk (s : State) (ccb : Nat) : Bool :=
  between 100 (bitsN (ccbWord s ccb 12) 0 17) 100000 && (ccbAges s ccb).all fun n => decide (1 ≤ n)

/-- The words at which the addresses of a control block begin. -/
def ccbAddrs : List Nat := [2, 4, 6, 8, 17, 19, 21, 24, 26, 28, 30]

/-- The control block's own address can be read. -/
def ccbReadable (s : State) (ccb : Nat) : Bool := ccb % 256 == 0 && physOk s ccb 256

/-- The fields of a control block lie in their ranges, its addresses are canonical and aligned, and it names context `c`; its zero
fields are ignored (R14). -/
def ccbOk (s : State) (c ccb : Nat) : Bool :=
  ccbAddrs.all (fun i => decide (ccbPair s ccb i < 2 ^ 56)) && bitsN (ccbWord s ccb 0) 16 6 == c && timesOk s ccb && between 6 (bitsN (ccbWord s ccb 23) 0 5) 16 &&
    ccbPair s ccb 2 % 65536 == 0 && physOk s (ccbPair s ccb 2) 65536 && ccbPair s ccb 21 % 64 == 0 && ccbPair s ccb 30 % 65536 == 0

/-- The placement words under which a first walk can succeed. -/
def firstPlacements : List Nat :=
  [0] ++ ((List.range 4).map fun h => 1 + 16 * h) ++ ((List.range 12).map fun h => 2 + 16 * h) ++ [3]

/-- The leaf of an address before the placement map is known: its own class and home say how it is placed. -/
def firstLeaf (s : State) (root va : Nat) : Option (Nat × Leaf) :=
  firstPlacements.findSome? fun pl =>
    match walkTables s root pl va with
    | .leaf l => some (pl, l)
    | _ => none

/-- One word of the placement map, read through the context's tables at its home below L2, in the context's world (R394). -/
def firstWord (s : State) (secure : Bool) (root va : Nat) : Option Nat :=
  match firstLeaf s root va with
  | none => none
  | some (pl, l) =>
    if !worldFits s secure pl l va then none
    else some (if l.cls = 3 then memNat s.mem.host (hostAddr l va) 4 else memNat s.mem.home (physAddr pl l va) 4)

/-- The fields of a placement word that its class has; the others are ignored (R14). -/
def placementWord (w : Nat) : Nat :=
  match bitsN w 0 4 with
  | 1 => bitsN w 0 8
  | 2 => bitsN w 0 8
  | 4 => bitsN w 0 4 + 256 * bitsN w 8 11
  | n => n

/-- A word of the placement map is one of R354. -/
def placementOk (w : Nat) : Bool :=
  match bitsN w 0 4 with
  | 1 => decide (bitsN w 4 4 ≤ 3)
  | 2 => decide (bitsN w 4 4 ≤ 11)
  | 4 => decide (bitsN w 8 11 < 1536)
  | _ => true

/-- The placement map, when it can be read and places its own pages where they are. -/
def readPlacement (s : State) (secure : Bool) (root pmapa : Nat) : Option (List Word) :=
  let ws := (List.range 64).map fun i => firstWord s secure root (pmapa + 4 * i)
  let map := ws.map fun w => placementWord (w.getD 0)
  let own := fun va => (firstLeaf s root va).any fun (e : Nat × Leaf) => map.getD (bitsN va 50 6) 0 % 256 == e.1
  if ws.all Option.isSome && map.all placementOk && own pmapa && own (pmapa + 252) then some (map.map (BitVec.ofNat 32 ·))
  else none

/-- A context as its control block describes it, apart from what it reads through its own tables. -/
def ccbContext (s : State) (c ccb ckpt : Nat) (pmap : List Word) : Context :=
  let w := ccbWord s ccb
  { Context.reset with
    st := 1, asid := bitsN (w 0) 0 16, gen := ((s.ctx c).gen + 1) % 2 ^ 32, ccb := ccb, flags := bitsN (w 0) 24 3
    root := ccbPair s ccb 2, tvec := ccbPair s ccb 4, scopetab := ccbPair s ccb 6, voltab := ccbPair s ccb 8
    pkr := ccbPair s ccb 10, quant := bitsN (w 12) 0 17, age := ccbAges s ccb, lqbase := ccbPair s ccb 17, pmap := pmap
    fring := ccbPair s ccb 21, frlog := bitsN (w 23) 0 5, fvec := bitsN (w 23) 8 4, ftbmap := ccbPair s ccb 24
    ftdesc := ccbPair s ccb 26, spool := ccbPair s ccb 30, spoolsz := bitsN (w 32) 0 24
    grant := (List.range 4).map (fun d => bitsN (ccbPair s ccb (34 + 2 * d)) 0 48), ckpt := ckpt
    harvest := s.fuses.harvest, spare := s.fuses.spare }

/-! ## What BIND reads in the context's space -/

/-- A queue descriptor (R377), its zero fields ignored (R14); none when a field is out of range or it cannot be read. -/
def readQueue (s : State) (c q : Nat) : Option (List Nat) :=
  match ctxWords s c (queueDesc (s.ctx c) q) 8 with
  | none => none
  | some ws =>
    let w := fun i => (ws.getD i 0#32).toNat
    if (w 0) % 128 ≠ 0 ∨ 12 < bitsN (w 2) 0 4 then none
    else some ((List.range 8).map w)

/-- A queue with the driver's fields of a descriptor; HEAD, TAIL and the ageing are the firmware's. A queue that is non-empty keeps its EFF
until a team binds or it is empty (R383 gives no row for it; log 55). -/
def LQueue.configure (k : LQueue) (w : List Nat) : LQueue :=
  let f := w.getD 2 0
  { k with ring := w.getD 0 0 + 2 ^ 32 * bitsN (w.getD 1 0) 0 24, logsz := bitsN f 0 4, prio := bitsN f 4 3, en := bitsN f 8 1 == 1
           dev := bitsN f 9 1 == 1, err := false, deadline := w.getD 5 0 }

/-- The firmware's bit of word 2, and the words HEAD and TAIL, of a queue at BIND (R377). -/
def bindQueue (s : State) (c q : Nat) : State :=
  match readQueue s c q with
  | none => reportRead s c [(queueDesc (s.ctx c) q, 32)]
  | some w =>
    let s1 := s.mapLQueue c q fun k => k.configure w
    let a := queueDesc (s.ctx c) q
    ctxPut (ctxPut s1 c (a + 8) [BitVec.ofNat 32 (setBits (w.getD 2 0) 10 1 0)]) c (a + 12) [0#32, 0#32]

/-- Where entries 5 to 15 of the scope table stand. -/
def scopesAt (x : Context) : List (Nat × Nat) := (List.range 11).map fun i => (x.scopetab + 32 * (5 + i), 32)

/-- Entries 5 to 15 of the scope table; one that cannot be read is loaded as zeros, and BIND goes on (log 55). -/
def readScopes (s : State) (c : Nat) : List Word :=
  (scopesAt (s.ctx c)).flatMap fun r => (ctxWords s c r.1 8).getD (List.replicate 8 0#32)

/-- The scopes of a context go into each granted cluster (R387). -/
def loadScopes (s : State) (c : Nat) (ws : List Word) : State :=
  (granted (s.ctx c)).foldl (fun s k =>
    s.mapCluster k fun x => { x with scopes := (c, ws) :: x.scopes.filter fun e => e.1 != c }) s

/-- Where the unified ranges stand. -/
def rangesAt (a : Nat) : List (Nat × Nat) := (List.range 8).map fun i => (a + 16 * i, 16)

/-- The unified ranges: start and limit of each. -/
def readRanges (s : State) (c a : Nat) : List (Nat × Nat) :=
  (rangesAt a).filterMap fun r =>
    (ctxWords s c r.1 4).map fun ws =>
      let w := fun j => (ws.getD j 0#32).toNat
      (w 0 + 2 ^ 32 * w 1, w 2 + 2 ^ 32 * w 3)

/-- The fault ring's WIDX as the memory processor takes it over. -/
def readWidx (s : State) (c : Nat) : Nat := ((ctxWords s c (s.ctx c).fring 1).getD [0#32]).headD 0#32 |>.toNat

/-- A context that takes the snapshot right: nothing is drained yet, so no hash is stored, and WIDX is the ring's (R349, R397). -/
def takeSnapRight (s : State) (c : Nat) : State :=
  let k := ckptOf s c
  let s1 := s.mapCtx c fun x => { x with allDirty := true }
  { s1 with snap := { s1.snap with hashes := s1.snap.hashes.filter (fun e => e.1 != c), dirty := []
                                   widx := if k.peer then s1.snap.widx else memNat s.mem.host k.ring 8 } }

/-- Grants of two contexts overlap. -/
def grantsMeet (x y : Context) : Bool := (granted x).any fun k => (granted y).contains k

/-- A context is bound until UNBIND frees it. -/
def isBound (x : Context) : Bool := x.st != 0

/-- Another bound context satisfies `p`. -/
def otherBound (s : State) (c : Nat) (p : Context → Bool) : Bool :=
  (List.range s.ctxs.length).any fun d => d != c && isBound (s.ctx d) && p (s.ctx d)

/-- A context spans a die (R404). -/
def spans (x : Context) (die : Nat) : Bool :=
  bitsN (x.grant.getD die 0) 0 48 != 0 || x.pmap.any fun w =>
    let home := bitsN w.toNat 4 4
    match bitsN w.toNat 0 4 with
    | 0 => true
    | 1 => home == die
    | 2 => home / 3 == die
    | _ => false

/-- Why BIND refuses a context, by R392 and R395; one that spans a fenced die is refused too (R404; log 53). -/
def bindRefused (s : State) (c : Nat) (x : Context) : Option Nat :=
  let snap := bitsN x.flags 0 1 == 1
  let secure := bitsN x.flags 2 1 == 1
  if (snap && x.ckpt == 0) || s.fuses.fenced.any (spans x) then some 1
  else if otherBound s c (fun y => (secure || bitsN y.flags 2 1 == 1) && grantsMeet x y) then some 2
  else if snap && otherBound s c (fun y => bitsN y.flags 0 1 == 1) then some 2
  else none

/-- Nothing of an earlier tenant of the address space or the slot stays in a cache (R356, R385). -/
def clearAsid (s : State) (c asid : Nat) : State :=
  let p : Line → Bool := fun x => x.asid == asid
  let s1 := dropClb (dropL2 (dropLines s p) p) c
  { s1 with mp := { s1.mp with tlb := s1.mp.tlb.filter (fun t => t.asid != asid), walks := s1.mp.walks.filter fun k => k.ctx != c } }

/-- BIND, once its operands are found good. -/
def bindContext (s : State) (c : Nat) (x : Context) (urange : Nat) : State :=
  let s1 := s.mapCtx c fun _ => x
  let s2 := ccbPut (ccbPut s1 x.ccb 1 x.gen) x.ccb 33 1
  let s3 := (List.range 64).foldl (fun s q => bindQueue s c q) (s2.mapCtx c fun y => { y with widx := readWidx s2 c })
  let s4 := loadScopes s3 c (readScopes s3 c)
  let s5 := reportRead (s4.mapCtx c fun y => { y with urange := readRanges s4 c urange }) c (scopesAt x ++ rangesAt urange)
  if bitsN x.flags 0 1 = 1 then takeSnapRight s5 c else s5

/-- What BIND does with a control block that can be read: the invalidation, then the checks (R385). -/
def bindBlock (s0 : State) (c ccb ckpt : Nat) : State × Option Nat :=
  let s := clearAsid s0 c (bitsN (ccbWord s0 ccb 0) 0 16)
  checked s true (ccbOk s c ccb)
    (match readPlacement s (bitsN (ccbWord s ccb 0) 26 1 == 1) (ccbPair s ccb 2) (ccbPair s ccb 19) with
    | none => (s, some 1)
    | some pmap =>
      let x := ccbContext s c ccb ckpt pmap
      match bindRefused s c x with
      | some r => (s, some r)
      | none => (bindContext s c x (ccbPair s ccb 28), some 0))

/-- What BIND does. -/
def bindResult (s : State) (c ccb ckpt : Nat) : State × Option Nat :=
  checked s (inState s c [0, 3]) (ccbReadable s ccb) (bindBlock s c ccb ckpt)

/-- BIND. -/
def execBind (e : Adm) (ccb ckpt : Nat) (s : State) : Host.Outcome State Fault Refusal :=
  command s e 1 [] (admAddr s e.slot 2 == ccb && admAddr s e.slot 4 == ckpt) (bindResult s e.ctx ccb ckpt)

/-! ## KILL -/

/-- A team is dropped: what it holds returns, its warps end, its copies are discarded, and so is its image (R382). A record that is
loaded for it runs and ends at once, and that of a save is free (R379; log 54). -/
def dropTeam (s : State) (t : Nat) : State :=
  let x := s.team t
  let ws := allWarps s t
  let s1 := if x.here then freeTeam s t
    else match cobblerOf s t with
      | some _ => s.mapCore x.core fun k => { k with cobSt := 2, cobWarp := none }
      | none => s
  let off : Warp → Warp := fun y =>
    { y with st := .ended, split0 := none, split1 := none, q := 0, free := 0
             welt := List.replicate y.welt.length .free, weltOrder := [] }
  let s2 := ws.foldl (fun s w => s.mapWarp w off) s1
  let g : Cluster → Cluster := fun k => { k with copies := k.copies.filter fun y => y.team != t }
  let s3 := { s2 with clusters := s2.clusters.map g }
  let s4 := s3.mapTeam t fun x => { x with res := .ended, image := 0, room := 0, withCrew := false, tiles := [], accs := [], ops := [], drainBy := none }
  crewEnd (s4.mapCore x.core fun k => { k with table := entryState (entryState k.table t 1 4) t 3 0 }) x.crew

/-- Requests of a context's warps leave the memory processor. -/
def dropTokens (s : State) (c : Nat) : State :=
  { s with mp := { s.mp with tokens := s.mp.tokens.filter (fun e => e.2.ctx != c)
                             posts := s.mp.posts.filter fun p => s.ctxOf (s.warps.getD p.1 Warp.blank) != c } }

def ctxTeams (s : State) (c : Nat) : List Nat :=
  (List.range s.teams.length).filter fun t => (s.launch (s.team t).launch).ctx == c && (s.team t).res != .ended

def openLaunches (s : State) (c : Nat) : List Nat :=
  (List.range s.launches.length).filter fun i =>
    (s.launch i).ctx == c && (match (s.launch i).st with | .ended _ => false | _ => true)

/-- A context is killed: teams drop, launches end with code 2, queues stop, a running SUSPEND ends with result 0. -/
def killContext (s : State) (c : Nat) : State :=
  let s1 := (ctxTeams s c).foldl dropTeam (dropTokens s c)
  let s2 := s1.mapCtx c fun x =>
    { x with st := 3, suspendBy := none, queues := x.queues.map fun k => { k with eff := k.prio, nonEmptyAt := none } }
  let s3 := ccbPut ((openLaunches s2 c).foldl (fun s i => closeLaunch s i 2) s2) (s.ctx c).ccb 33 3
  match (s.ctx c).suspendBy with
  | some (_, slot) => finishAdm s3 slot 0
  | none => s3

/-- KILL. -/
def execKill (e : Adm) (s : State) : Host.Outcome State Fault Refusal :=
  command s e 2 (((s.ctx e.ctx).suspendBy.map Prod.snd).toList) true
    (checked s (inState s e.ctx [1, 2]) true (killContext s e.ctx, some 0))

/-! ## SUSPEND and RESUME -/

/-- SUSPEND: every resident team is decided with the deadline, or when its quantum is over. -/
def execSuspend (e : Adm) (deadline : Nat) (s : State) : Host.Outcome State Fault Refusal :=
  let c := e.ctx
  let s1 := s.mapCtx c fun x =>
    { x with suspendBy := some (deadline, e.slot), queues := x.queues.map fun k => { k with eff := k.prio, nonEmptyAt := none } }
  let teams := (ctxTeams s c).filter fun t => (s.team t).res == .running
  command s e 3 [] (admWord s e.slot 2 == deadline && (s.ctx c).suspendBy.isNone)
    (checked s (inState s c [1]) true
      (teams.foldl (fun s t => dealWith s t deadline (estimate s t deadline false)) s1, none))

/-- SUSPEND_COMPLETE: no team is resident, and STATE is 2. -/
def execSuspendComplete (ctx : Nat) (s : State) : Host.Outcome State Fault Refusal :=
  match (s.ctx ctx).suspendBy with
  | none => event s false s
  | some (_, slot) =>
    event s (!(ctxTeams s ctx).any fun t => (s.team t).here)
      (finishAdm (ccbPut (s.mapCtx ctx fun x => { x with st := 2, suspendBy := none }) (s.ctx ctx).ccb 33 2) slot 0)

/-- Dirty lines of a context go home, and its lines leave the L1s and Sieve caches, and its entries the CLBs (R390). -/
def coolContext (s : State) (c : Nat) : State :=
  let p : Line → Bool := fun x => x.ctx == c
  let s1 := flushL1s s (allClusters s) p
  dropClb { s1 with clusters := s1.clusters.map fun k => { k with sieve := k.sieve.filter fun x => !p x } } c

/-- RESUME: the caches are invalidated, STATE is 1, and the timers of queues with work start. -/
def execResume (e : Adm) (s : State) : Host.Outcome State Fault Refusal :=
  let c := e.ctx
  let s1 := ccbPut ((coolContext s c).mapCtx c fun x => { x with st := 1 }) (s.ctx c).ccb 33 1
  command s e 4 [] true (checked s (inState s c [2]) true ((List.range 64).foldl (fun s q => settleQueue s c q) s1, some 0))

/-! ## QCONF, QUANT, UNBIND -/

/-- QCONF. -/
def execQconf (e : Adm) (q : Nat) (s : State) : Host.Outcome State Fault Refusal :=
  let c := e.ctx
  command s e 5 [] (admWord s e.slot 2 == q)
    (checked s (inState s c [1, 2]) (decide (q < 64))
      (match readQueue s c q with
      | none => (reportRead s c [(queueDesc (s.ctx c) q, 32)], some 1)
      | some w =>
        let s1 := s.mapLQueue c q fun k => k.configure w
        (settleQueue (ctxPut s1 c (queueDesc (s.ctx c) q + 8) [BitVec.ofNat 32 (setBits (w.getD 2 0) 10 1 0)]) c q, some 0)))

/-- QUANT. -/
def execQuant (e : Adm) (s : State) : Host.Outcome State Fault Refusal :=
  let c := e.ctx
  let a := (s.ctx c).ccb
  command s e 6 [] true
    (checked s (inState s c [1, 2]) (timesOk s a)
      (s.mapCtx c fun x => { x with quant := bitsN (ccbWord s a 12) 0 17, age := ccbAges s a }, some 0))

/-- The clusters of a secure context are scrubbed (R392). -/
def scrubClusters (s : State) (ks : List Nat) : State :=
  let f : Warp → Warp := fun x =>
    if ks.contains (clusterOf x.core) then
      { x with regs := List.replicate x.regs.length (.u 0#32), free := x.free + (x.regs.filter Reg.isV).length
               bank := List.replicate x.bank.length (.u 0#32), bad := [], xs := List.replicate 4 0#32, preds := List.replicate 8 0#32, trap := TrapRec.reset
               srng := List.replicate x.srng.length 0#32 }
    else x
  let g : Team → Team := fun x => if ks.contains (clusterOf x.core) then { x with tiles := [], accs := [] } else x
  let s2 := { s with warps := s.warps.map f, teams := s.teams.map g }
  ks.foldl (fun s k => s.mapCluster k fun x => { x with sram := [], badSram := [], l1 := [], sieve := [] }) s2

/-- UNBIND: every line of the address space is written back and leaves; a secure context's clusters are scrubbed; a drain
of its pages fails. -/
def execUnbind (e : Adm) (s : State) : Host.Outcome State Fault Refusal :=
  let c := e.ctx
  let x := s.ctx c
  let p : Line → Bool := fun y => y.asid == x.asid
  let s1 := dropClb (dropLines (flushL1s s (allClusters s) p) p) c
  let s2 := purgeL2 s1 p
  let s3 := if bitsN x.flags 2 1 = 1 then scrubClusters s2 (granted x) else s2
  let s4 := if bitsN x.flags 0 1 = 1 ∧ s.snap.st = 2 then failDrain s3 2 else s3
  command s e 7 [] true (checked s (inState s c [3]) true (ccbPut (s4.mapCtx c fun x => { x with st := 0 }) x.ccb 33 0, some 0))

end Sys2Proof.Machine
end

