-- ==== Sys2Proof/Machine/Link.lean ====
section
/-!
DEFINITION. The host link, the memory processor's commands, fault delivery and accesses from outside: SHOOT to PEER_ACCESS
(spec 09 R262, R263; 19 R351 to R373; 20 R378; 22 R406, R415).
-/

namespace Sys2Proof.Machine

/-! ## The register window (R352, R406) -/

def mpWord (s : State) (i : Nat) : Nat := (s.win.mpcmd.getD i 0#32).toNat

/-- What a read of the window returns; of a register that the host only writes, 0 like an offset that is not listed (DESIGN CHOICE,
log 55). -/
def windowRead (s : State) (off : Nat) : Nat :=
  match off with
  | 0x0000 => 0x0640 + 65536 * (s.win.revision % 256)
  | 0x0004 => s.win.kstat % 8
  | 0x0034 => (if s.mp.busy then 1 else 0) + 256 * (s.mp.result % 256)
  | 0x0220 => s.win.pstate
  | _ => 0

/-- A word of a pair of registers is written: the low or the high half of a 64-bit value. -/
def putHalf (old half v : Nat) : Nat := setBits old (32 * half) 32 v

/-- Registers that only store what is written to them; none for any other offset. -/
def storeReg (w : Window) (off v : Nat) : Option Window :=
  let word : Word := BitVec.ofNat 32 v
  if 0x10 ≤ off ∧ off ≤ 0x2C then some { w with mpcmd := w.mpcmd.set ((off - 0x10) / 4) word }
  else if off = 0x40 then
    some { w with freply := w.freply.set 0 (BitVec.ofNat 32 (bitsN v 0 13 + bitsN v 16 6 * 65536 + bitsN v 24 2 * 2 ^ 24)) }
  else if off = 0x44 then some { w with freply := w.freply.set 1 word }
  else if off = 0x60 then some w
  else if off = 0x64 then some { w with papbase := v % 2 ^ 32 * 2 ^ 32 }
  else if 0x100 ≤ off ∧ off < 0x180 then
    some { w with msiaddr := updAt w.msiaddr ((off - 0x100) / 8) fun a => putHalf a (off / 4 % 2) v }
  else if 0x180 ≤ off ∧ off < 0x1C0 then some { w with msidata := w.msidata.set ((off - 0x180) / 4) word }
  else if off = 0x200 ∨ off = 0x204 then some { w with admbase := putHalf w.admbase (off / 4 % 2) v }
  else if off = 0x208 then some { w with admlog := v % 16 }
  else if off = 0x210 ∨ off = 0x214 then some { w with telbase := putHalf w.telbase (off / 4 % 2) v }
  else if off = 0x218 then some { w with tellog := v % 16 }
  else if off = 0x224 then some { w with plimit := v % 4096 }
  else none

/-- An access from outside reaches the hub: it waits there behind older ones, in the hold of a cut, or for Stockpot space, and is
performed otherwise (R246, R247, R351). Writes to the register window are the host's posted writes and keep their order with the others
(R263). -/
def outside (s : State) (enabled : Bool) (effect : State) : Host.Outcome State Fault Refusal :=
  let held := { s with snap := { s.snap with hubNext := .held } }
  if !s.snap.hubGoes && !s.snap.hub.isEmpty then .next held
  else event s enabled (if effect.mem.blocked = s.mem.blocked then effect else held)

/-- A command of the memory processor ends: busy clears, and vector 1 is raised (R353, R370, R385). -/
def endCommand (s : State) (result : Nat) : State :=
  raiseMsi { s with mp := { s.mp with busy := false, result := result, shootWait := none } } 1

/-- The memory processor can start a command. -/
def mpIdle (s : State) : Bool := !s.mp.busy && bitsN s.win.kstat 2 1 == 1

/-- MPCMD0 names an opcode and a context (R353). -/
def mpNames (s : State) (op ctx : Nat) : Bool := bitsN (mpWord s 0) 0 8 == op && bitsN (mpWord s 0) 8 6 == ctx

/-- REGISTER_WRITE: a register without a behaviour of its own stores the value; MPGO with an opcode that R353 does not list
ends with result 1; any other write is ignored. -/
def execRegisterWrite (off v : Nat) (s : State) : Host.Outcome State Fault Refusal :=
  let op := bitsN (mpWord s 0) 0 8
  if off = 0x30 then outside s (v % 2 == 1 && mpIdle s && op != 1 && op != 2) (endCommand s 1)
  else outside s (off % 4 == 0 && decide (v < 2 ^ 32)) (match storeReg s.win off v with
    | some w => { s with win := w }
    | none => s)

/-- ARDY_WRITE: the firmware polls, and is ready when its images have been run (R406, R414). -/
def execArdyWrite (v : Nat) (s : State) : Host.Outcome State Fault Refusal :=
  let w := s.win
  let k := if v % 2 = 1 ∧ boots s.fuses then setBits w.kstat 1 1 1 else w.kstat
  outside s true { s with win := { w with ardy := v % 2 == 1, kstat := k } }

/-! ## Replies (R367, R368) -/

/-- A reply goes to its warp, or into the bitmap when the team is saved; a warp that has ended or halted takes none. -/
def sendReply (s : State) (n : Nat) (t : Token) (status : Nat) : State :=
  let x := s.warps.getD t.warp Warp.blank
  if (s.team x.team).res = .saved then
    let f : Nat × Token → Nat × Token := fun e => if e.1 = n then (n, { e.2 with reply := some status }) else e
    bitmapPut { s with mp := { s.mp with tokens := s.mp.tokens.map f } } t.ctx n (1 + 2 * status)
  else if x.st = .running ∨ x.st = .held then takeReply (freeToken s n) t.warp status
  else freeToken s n

/-- FAULT_REPLY: the write of FREPLY2. A reply whose token is free, or that names another generation or sequence, is
dropped. -/
def execFaultReply (v : Nat) (s : State) : Host.Outcome State Fault Refusal :=
  let w0 := (s.win.freply.getD 0 0#32).toNat
  let gen := (s.win.freply.getD 1 0#32).toNat
  let n := bitsN w0 0 13
  let s1 := { s with win := { s.win with freply := s.win.freply.set 2 (BitVec.ofNat 32 (v % 65536)) } }
  outside s true
    (match s.mp.tokens.find? fun e => e.1 == n with
    | some (_, t) =>
      if t.ctx = bitsN w0 16 6 ∧ t.gen = gen ∧ t.seq = v % 65536 ∧ t.reply = none then sendReply s1 n t (bitsN w0 24 2) else s1
    | none => s1)

/-- The access of a request. -/
def accessOf (acc : Nat) : Access :=
  match acc with
  | 0 => .read
  | 1 => .write
  | _ => .execute

/-- The leaf grants a request's access. -/
def leafGrants (w : Walk) (acc : Nat) : Bool :=
  match w with
  | .leaf l => l.allows (accessOf acc)
  | _ => false

/-- The first token that is free. -/
def firstToken (s : State) : Option Nat := (List.range 8192).find? fun n => !s.mp.tokens.any fun e => e.1 == n

/-- A request is taken: a reply 0 at once, or a record of kind 1 (R366, R367). -/
def takePost (s : State) (n w va acc seq : Nat) : State :=
  let x := s.warps.getD w Warp.blank
  let c := s.ctxOf x
  let t : Token := { ctx := c, gen := (s.ctx c).gen, warp := w, seq := seq, addr := va, acc := acc, reply := none }
  let s1 := { s with mp := { s.mp with posts := s.mp.posts.filter (fun p => p.1 != w), tokens := s.mp.tokens ++ [(n, t)] } }
  if leafGrants (translate s c va) acc then sendReply s1 n t 0
  else
    postGroup (postMalformed s1 c [va] (whoIs s1 x acc)) c [mkRecord (recHead s1 c 1 acc seq ++
      [(2, n), (3, indexOf (logicalCores (s.ctx c)) x.core + 1024 * x.wid), (4, (s.team x.team).tid), (5, va % 2 ^ 32),
        (6, va / 2 ^ 32)])]

/-- FAULT_POST: the post of a warp is taken once a token is free. -/
def execFaultPost (w : Nat) (s : State) : Host.Outcome State Fault Refusal :=
  match s.mp.posts.find? (fun p => p.1 == w), firstToken s with
  | some (_, va, acc, seq), some n => event s true (takePost s n w va acc seq)
  | _, _ => event s false s

/-- FAULT_RING_RESUME: held groups are written while there is room. -/
def execFaultRingResume (ctx : Nat) (s : State) : Host.Outcome State Fault Refusal :=
  let n := (s.ctx ctx).heldRecs.length
  event s (n != 0) (resumeRing s ctx n)

/-! ## SHOOT, HAACK_WRITE, POOLADD (R353, R363, R370) -/

/-- An address lies in a run of 64 KiB pages. -/
def inRun (start pages va : Nat) : Bool := decide (start ≤ va) && decide (va < start + 65536 * pages)

/-- The shoot-down sequence of an ASID goes on at every controller and at the hub. -/
def nextSeqs (s : State) (asid : Nat) : List (Nat × Nat × Nat) :=
  ((List.range (Config.stackCount + 1)).map fun k => (k, asid, shootSeqOf s k asid + 1)) ++
    s.mp.shootSeq.filter fun e => e.2.1 != asid

/-- Steps 3 and 4: the TLBs drop the range, dirty lines go home, and lines leave. -/
def shootRange (s : State) (c start pages : Nat) : State :=
  let x := s.ctx c
  let s1 := { s with mp := { s.mp with
    shootSeq := nextSeqs s x.asid
    tlb := s.mp.tlb.filter fun t => !(t.asid == x.asid && inRun start pages (t.page * 65536)) } }
  let p : Line → Bool := fun y => y.asid == x.asid && inRun start pages y.va
  let s2 := flushL1s s1 (granted x) p
  let s3 := (granted x).foldl (fun s k => s.mapCluster k fun y => { y with sieve := y.sieve.filter fun z => !p z }) s2
  purgeL2 s3 p

/-- Requests in the range are answered with 3. -/
def shootTokens (s : State) (c start pages : Nat) : State :=
  (s.mp.tokens.filter fun e => e.2.ctx == c && e.2.reply.isNone && inRun start pages e.2.addr).foldl
    (fun s (e : Nat × Token) => sendReply s e.1 e.2 3) s

/-- HAACK has reached a sequence. -/
def acked (haack : Word) (seq : Nat) : Bool := decide ((haack.toNat + 2 ^ 32 - seq % 2 ^ 32) % 2 ^ 32 < 2 ^ 31)

/-- A SHOOT, to the invalidation of step 5; it ends when the host has acknowledged (step 6). -/
def shootDown (s : State) (c start pages : Nat) : State :=
  let s1 := shootTokens (shootRange s c start pages) c start pages
  let seq := s1.mp.invSeq + 1
  let s2 := { s1 with mp := { s1.mp with
    busy := true, invSeq := seq, shootWait := some seq
    answers := s1.mp.answers.filter fun a => !(a.1 == c && inRun start pages (a.2 * 65536)) } }
  if acked s.win.haack seq then endCommand s2 0 else s2

/-- SHOOT: MPGO with opcode 0x01. -/
def execShoot (ctx start pages : Nat) (s : State) : Host.Outcome State Fault Refusal :=
  let named := mpNames s 1 ctx && mpWord s 1 + 2 ^ 32 * mpWord s 2 == start && mpWord s 3 == pages
  let bad := start % 65536 ≠ 0 ∨ 2 ^ 56 ≤ start ∨ pages = 0
  outside s (mpIdle s && named) (if bad then endCommand s 1 else shootDown s ctx start pages)

/-- HAACK_WRITE. -/
def execHaackWrite (v : Nat) (s : State) : Host.Outcome State Fault Refusal :=
  let s1 := { s with win := { s.win with haack := BitVec.ofNat 32 v } }
  outside s true (match s.mp.shootWait with
    | some seq => if acked (BitVec.ofNat 32 v) seq then endCommand s1 0 else s1
    | none => s1)

/-- POOLADD: MPGO with opcode 0x02. TOP of a list rises by `n`; where TOP cannot be read it ends with result 1 (log 55). -/
def execPooladd (ctx desc list n : Nat) (s : State) : Host.Outcome State Fault Refusal :=
  let a := (s.ctx ctx).ftdesc + 64 * desc + 4 * (3 * list + 2)
  outside s (mpIdle s && mpNames s 2 ctx && bitsN (mpWord s 1) 0 4 == desc + 4 * list && decide (desc < 4) && mpWord s 2 == n)
    (if 2 < list then endCommand s 1
    else match ctxWords s ctx a 1 with
      | some ws => endCommand (ctxPut s ctx a [ws.headD 0#32 + BitVec.ofNat 32 n]) 0
      | none => endCommand (reportRead s ctx [(a, 4)]) 1)

/-! ## QTAIL_WRITE (R378) -/

/-- The tail is accepted: TAIL ≤ new ≤ HEAD + 2^LOGSZ, mod 2^32 relative to HEAD. -/
def LQueue.accepts (k : LQueue) (v : Nat) : Bool :=
  let d := (v + 2 ^ 32 - k.head) % 2 ^ 32
  k.en && !k.err && decide ((k.tail + 2 ^ 32 - k.head) % 2 ^ 32 ≤ d) && decide (d ≤ 2 ^ k.logsz)

/-- A bad tail stops the queue. -/
def stopQueue (s : State) (c q : Nat) : State :=
  let s1 := s.mapLQueue c q fun k => { k with err := true }
  let a := queueDesc (s.ctx c) q + 8
  match ctxWords s c a 1 with
  | some ws => ctxPut s1 c a [BitVec.ofNat 32 (setBits (ws.headD 0#32).toNat 10 1 1)]
  | none => reportRead s1 c [(a, 4)]

/-- QTAIL_WRITE: ignored for a device-fed queue, and, with no ERR, for a queue of a context that is free or killed (log 55). -/
def execQtailWrite (ctx q v : Nat) (s : State) : Host.Outcome State Fault Refusal :=
  let k := (s.ctx ctx).queue q
  outside s (inState s ctx [1, 2] && !k.dev && decide (q < 64) && decide (v < 2 ^ 32))
    (if k.accepts v then (List.range ((v + 2 ^ 32 - k.tail) % 2 ^ 32)).foldl (fun s _ => enqueue s ctx q) s
    else stopQueue s ctx q)

/-! ## Host accesses (R361, R362) -/

/-- The address lies in a unified range of a bound context. -/
def inRange_ (s : State) (c va : Nat) : Bool := isBound (s.ctx c) && (s.ctx c).urange.any fun r => decide (r.1 ≤ va) && decide (va < r.2)

/-- A host's access, of 1, 2, 4 or 8 bytes and naturally aligned. -/
def hostSize (va size : Nat) : Bool := [1, 2, 4, 8].contains size && va % size == 0 && decide (va + size ≤ 2 ^ 56)

/-- The leaf a host access is performed under: host accesses are non-secure, and no key binds them. -/
def hostLeaf (s : State) (c va : Nat) (k : Access) : Option Leaf :=
  match translate s c va with
  | .leaf l =>
    let region := match homeOf ((s.ctx c).placement va) va with
      | .stack n => secureAddr s n (physAddr ((s.ctx c).placement va) l va % 2 ^ 36)
      | _ => false
    if l.cls ≤ 3 ∧ l.allows k ∧ !l.world ∧ !region then some l else none
  | _ => none

/-- An address with no device leaf is host memory, which the host reaches without the device (R362). -/
def hostLocal (s : State) (c va : Nat) : Bool :=
  match translate s c va with
  | .absent => true
  | .leaf l => l.cls == 4
  | _ => false

/-- A refused access is reported (R361, R366). -/
def refuseHost (s : State) (c va acc : Nat) : State :=
  if isBound (s.ctx c) then
    postGroup (postMalformed s c [va] { acc := acc }) c [mkRecord (recHead s c 5 acc 0 ++ [(5, va % 2 ^ 32), (6, va / 2 ^ 32)])]
  else s

def setRdata (s : State) (v : Option Nat) : State := { s with win := { s.win with rdata := v } }

/-- Bytes at the home of a line-bounded run, and whether a sector of it is poisoned. -/
def homeRead (s : State) (c : Nat) (l : Leaf) (va n : Nat) : Nat × Bool :=
  let x := homeLine s c l (lineOf va)
  (leNat (homeBytes s c l va n), (List.range n).any fun i => x.2.getD ((va + i) % 128 / 32) false)

/-- A host access in a unified range: `f` performs it under its leaf. -/
def hostAccess (s : State) (c va size acc : Nat) (k : Access) (f : Leaf → Host.Outcome State Fault Refusal)
    (refused : State → State) : Host.Outcome State Fault Refusal :=
  if !hostSize va size then event s false s
  else if inRange_ s c va && hostLocal s c va then event s false s
  else match inRange_ s c va, hostLeaf s c va k with
    | true, some l => f l
    | _, _ => event s true (refused (refuseHost s c va acc))

/-- All ones in a value of some bytes. -/
def ones (size : Nat) : Nat := 2 ^ (8 * size) - 1

/-- HOST_LOAD. -/
def execHostLoad (ctx va size : Nat) (s : State) : Host.Outcome State Fault Refusal :=
  hostAccess s ctx va size 0 .read
    (fun l =>
      let r := homeRead s ctx l va size
      event s true (setRdata (touchL2 s ctx l (lineOf va)) (some (if r.2 then ones size else r.1))))
    (fun s => setRdata s (some (ones size)))

/-- HOST_STORE. -/
def execHostStore (ctx va size v : Nat) (s : State) : Host.Outcome State Fault Refusal :=
  hostAccess s ctx va size 1 .write (fun l => outside s true (agentStore s ctx l va (leBytes v size))) id

/-- HOST_ATOMIC on an aligned word; `v` holds the operand, and above it the second operand of cas. On a page marked SYSA it is
performed at the controller; on another the link reads the word, and its write follows, ahead of all that waits at the hub (R262). -/
def execHostAtomic (ctx va : Nat) (op : AtomOp) (v : Nat) (s : State) : Host.Outcome State Fault Refusal :=
  hostAccess s ctx va 4 1 .both
    (fun l =>
      let r := homeRead s ctx l va 4
      let old : Word := BitVec.ofNat 32 r.1
      let new := atomNew op old (BitVec.ofNat 32 v) (BitVec.ofNat 32 (v / 2 ^ 32))
      let read := fun t => setRdata t (some (if r.2 then ones 4 else r.1))
      if l.sysa then outside s true (read (agentWrite s ctx l (lineOf va) ((List.range 4).map fun i =>
        (va % 128 + i, (leBytes new.toNat 4).getD i 0#8))))
      else outside s true (read { touchL2 s ctx l (lineOf va) with snap := { s.snap with hubNext := .write ctx va new.toNat } }))
    (fun s => setRdata s (some (ones 4)))

/-- The leaf's answer to a query. -/
def Leaf.answer (l : Leaf) : Answer :=
  { rights := (if l.rd then 1 else 0) + (if l.wr then 2 else 0) + (if l.ex then 4 else 0), key := l.key, cls := l.cls, sysa := l.sysa }

/-- TRANSLATION_QUERY: every answer is recorded (R361). An address outside every unified range is answered absent, whatever its leaf is
(log 55). -/
def execTranslationQuery (ctx va acc : Nat) (s : State) : Host.Outcome State Fault Refusal :=
  let a := if inRange_ s ctx va then
      match translate s ctx va with
      | .leaf l => if l.cls = 4 then none else some l.answer
      | _ => none
    else none
  event s (decide (va < 2 ^ 56) && isBound (s.ctx ctx))
    (let s1 := postMalformed s ctx [va] { acc := (accessOf acc).code }
    { s1 with win := { s1.win with answer := a }, mp := { s1.mp with answers := s1.mp.answers ++ [(ctx, va / 65536)] } })

/-! ## The physical aperture (R356) -/

/-- A device physical address that the aperture does not reach. -/
def apertureBlocked (s : State) (pa : Nat) : Bool :=
  let stack := pa / 2 ^ 36
  let loc := pa % 2 ^ 36
  !physOk s pa 1 || secureAddr s stack loc || s.fuses.channels.contains (stack, loc / 2 ^ 31)

/-- An access through the aperture. -/
def apertureOk (off size : Nat) : Bool := [1, 2, 4, 8].contains size && off % size == 0 && decide (off + size ≤ 2 ^ 32)

/-- APERTURE_LOAD: the accesses of the host are performed in the order sent, so it waits behind those at the hub, in a hold too. -/
def execApertureLoad (off size : Nat) (s : State) : Host.Outcome State Fault Refusal :=
  let pa := s.win.papbase + off
  let v := if apertureBlocked s pa ∨ s.mem.poison.contains (pa / 32) then ones size else memNat s.mem.home pa size
  outside s (apertureOk off size) (setRdata s (some v))

/-- The addresses at which a context maps a device physical address, with their leaves. -/
def mappedAt (s : State) (c pa : Nat) : List (Nat × Leaf) :=
  (ctxPages s c).flatMap fun (p : Nat × Nat) => (List.range (p.2 / 4096)).filterMap fun i =>
    let va := p.1 + 4096 * i + pa % 4096
    match currentLeaf s c va, homeOf ((s.ctx c).placement va) va with
    | .leaf l, .stack _ => if physAddr ((s.ctx c).placement va) l va = pa then some (va, l) else none
    | _, _ => none

/-- A write at a controller by its physical address is a write at its home: it waits in a hold, its block is kept when a snapshot
needs it, and its chunk is marked (R246, R247, R349). -/
def keepPhys (s : State) (pa : Nat) : State :=
  let s0 := if s.snap.cut = 2 then { s with mem := { s.mem with blocked := 1 } } else s
  match snapCtx s with
  | none => s0
  | some c => (mappedAt s c pa).foldl (fun t e => markChunk (copyBlock (gate t c e.2 e.1) c e.2 e.1) c e.2 e.1) s0

/-- APERTURE_STORE: the controller keeps the block uncompressed; a store that the aperture does not let through is dropped when its turn
comes, under the PAPBASE of then. -/
def execApertureStore (off size v : Nat) (s : State) : Host.Outcome State Fault Refusal :=
  let pa := s.win.papbase + off
  let kept := keepPhys s pa
  let m := kept.mem
  outside s (apertureOk off size) (if apertureBlocked s pa then s else
    { kept with mem := { m with home := memWrite m.home pa (leBytes v size), blocks := setBlock m.blocks pa 0 } })

/-! ## Measurements and peers (R263, R415) -/

/-- The identifiers of DICE: the first from the fused secret and the secure firmware's measurement, each later one from the one
before and the next measurement. -/
def identifiers (f : Fuses) : List (List Byte) :=
  (f.images.foldl (fun (acc : List Byte × List (List Byte)) i =>
    let id := Config.derive acc.1 i.digest
    (id, acc.2 ++ [id])) ((List.range 48).map Config.uniqueSecret, [])).2

/-- The blocks of a response. -/
def measuredBlocks (f : Fuses) : List (Nat × List Nat) :=
  [(1, (List.range 48).map fun i => (Config.romDigest i).toNat)] ++
    (f.images.zipIdx.map fun e => (e.2 + 2, e.1.digest.map BitVec.toNat)) ++
    [(5, f.harvest ++ [f.rollback]), (6, f.spare ++ f.channels.flatMap fun c => [c.1, c.2])]

/-- The bytes a response's signatures cover: its blocks, and what else the exchange holds, which is open (log 13). -/
def transcript (s : State) : List Byte :=
  ((measuredBlocks s.fuses).flatMap fun b => BitVec.ofNat 8 b.1 :: b.2.flatMap fun n => leBytes n 24) ++
    (List.range 32).map fun i => Config.freeByte s.clk.tick i

/-- GET_MEASUREMENTS: the blocks, and both signatures of the transcript under keys of the last layer's identifier (log 13). -/
def execGetMeasurements (s : State) : Host.Outcome State Fault Refusal :=
  let id := (identifiers s.fuses).getLastD []
  let sign := fun scheme n => (List.range n).map fun i => Config.signature scheme id (transcript s) i
  let m : Measurements := { blocks := measuredBlocks s.fuses, rsa := sign 0 384, slh := sign 1 16224 }
  event s (bitsN s.win.kstat 0 1 == 1) { s with win := { s.win with measured := some m } }

/-- The leaf a peer's access is performed under: this device makes the checks of the page (R355). -/
def peerAccessLeaf (s : State) (c va : Nat) (k : Access) : Option Leaf :=
  match translate s c va with
  | .leaf l => if l.cls ≤ 3 ∧ l.allows k ∧ worldOk s c l va then some l else none
  | _ => none

/-- A peer's access of some bytes. -/
def peerDo (s : State) (c va n : Nat) (k : Access) (f : Leaf → State) : Host.Outcome State Fault Refusal :=
  match peerAccessLeaf s c va k, k with
  | some l, .read => event s (isBound (s.ctx c) && hostSize va n) (f l)
  | some l, _ => outside s (isBound (s.ctx c) && hostSize va n) (f l)
  | none, _ => event s (isBound (s.ctx c) && hostSize va n) (setRdata s none)

/-- PEER_ACCESS: a load, store or atomic performed at its home, or a fence, which orders and does nothing else. Poison
travels with a load's data. -/
def execPeerAccess (peer : Nat) (kind : PeerKind) (ctx va v : Nat) (s : State) : Host.Outcome State Fault Refusal :=
  if 1536 ≤ peer then event s false s
  else match kind with
    | .fence => event s true s
    | .load n => peerDo s ctx va n .read fun l =>
      let r := homeRead s ctx l va n
      setRdata (touchL2 s ctx l (lineOf va)) (if r.2 then none else some r.1)
    | .store n => peerDo s ctx va n .write fun l => agentStore s ctx l va (leBytes v n)
    | .atomic op => peerDo s ctx va 4 .both fun l =>
      let r := homeRead s ctx l va 4
      let new := atomNew op (BitVec.ofNat 32 r.1) (BitVec.ofNat 32 v) (BitVec.ofNat 32 (v / 2 ^ 32))
      setRdata (agentWrite s ctx l (lineOf va) ((List.range 4).map fun i => (va % 128 + i, (leBytes new.toNat 4).getD i 0#8)))
        (if r.2 then none else some r.1)

end Sys2Proof.Machine
end

