-- ==== Sys2Proof/Machine/Manage.lean ====
section
/-!
DEFINITION. The other commands of the administrative ring: SCOPE, VOLSHOOT, REGION, STOCK, RESTORE, CHRET, WDOG, RETIRE,
FWCOMMIT, WREAD, WRELEASE (spec 21 R386 to R389, R393, R396, R399 to R401; 22 R408 to R410, R413, R414; 08 R244).
-/

namespace Sys2Proof.Machine

/-- Operand words from `i` on are zero (R386). -/
def restZero (s : State) (slot i : Nat) : Bool := (List.range (16 - i)).all fun k => admWord s slot (i + k) == 0

/-! ## SCOPE (R387 to R389) -/

/-- Words 0 to 5, MASK, and the two flags. -/
def scopeSet (ws : List Word) : List Word × Nat := (ws.take 6, bitsN (ws.getD 6 0#32).toNat 2 2)

def scopeGen (ws : List Word) : Nat := bitsN (ws.getD 6 0#32).toNat 8 8

/-- The zero fields of an entry are zero. -/
def scopeZero (x : Context) (ws : List Word) : Bool :=
  let w := fun i => (ws.getD i 0#32).toNat
  let mask := (List.range 6).foldl (fun n i => n + w i * 2 ^ (32 * i)) 0
  bitsN (w 6) 4 4 == 0 && bitsN (w 6) 16 16 == 0 && w 7 == 0 && decide (mask < 2 ^ (granted x).length)

/-- The words of entry `n` that the instruction of a split has latched (R255): it has issued, and has not completed. -/
def Split.latchOf (t : Split) (n : Nat) : Option (List Word) :=
  (t.held.bind Held.scope).bind fun e => if e.1 = n then some e.2 else none

/-- Words latched by operations on entry `n` of a context that are still in flight, parked or woken to go on, wherever their splits
are. -/
def scopeLatches (s : State) (c n : Nat) : List (List Word) :=
  (s.warps.filter fun x => x.lives && (s.team x.team).here && s.ctxOf x == c).flatMap fun x =>
    (seats x).filterMap fun k => (seated x k).bind fun t => t.latchOf n

/-- The words that the clusters hold for an entry of a context. -/
def clusterScope (s : State) (c n : Nat) : List Word := heldScope s ((granted (s.ctx c)).headD 0) c n

/-- The entry replaced in the words of entries 5 to 15. -/
def putScope (ws : List Word) (n : Nat) (new : List Word) : List Word :=
  (List.range 88).map fun i => if i / 8 = n - 5 then new.getD (i % 8) 0#32 else ws.getD i 0#32

/-- The clusters switch to the new entry. -/
def switchScope (s : State) (c n : Nat) (new : List Word) : State :=
  (granted (s.ctx c)).foldl (fun s k => s.mapCluster k fun x =>
    let old := match x.scopes.find? fun e => e.1 == c with
      | some e => e.2
      | none => []
    { x with scopes := (c, putScope old n new) :: x.scopes.filter fun e => e.1 != c }) s

/-- SCOPE ends with result 1 (R388). -/
def scopeRefused (s : State) (c n : Nat) (new : List Word) : Bool :=
  let held := clusterScope s c n
  let valid := bitsN (new.getD 6 0#32).toNat 0 1 == 1
  !scopeZero (s.ctx c) new ||
    (valid && scopeGen new == scopeGen held && scopeSet new != scopeSet held) ||
    (scopeLatches s c n).any fun ws => scopeGen new == scopeGen ws && scopeSet new != scopeSet ws

/-- An operation that latched another generation of the entry than the clusters hold is in flight. -/
def oldLatch (s : State) (c n : Nat) : Bool :=
  (scopeLatches s c n).any fun ws => scopeGen ws != scopeGen (clusterScope s c n)

/-- What SCOPE does when it starts. -/
def scopeStart (s : State) (slot c n : Nat) (wait : Bool) : State × Option Nat :=
  match ctxWords s c ((s.ctx c).scopetab + 32 * n) 8 with
  | none => (reportRead s c [((s.ctx c).scopetab + 32 * n, 32)], some 1)
  | some new =>
    if scopeRefused s c n new then (s, some 1)
    else
      let s1 := switchScope s c n new
      if wait && oldLatch s1 c n then ({ s1 with fw := { s1.fw with scopeWait := (slot, c, n) :: s1.fw.scopeWait } }, none)
      else (s1, some 0)

/-- SCOPE. One that waits is completed when no older latch is in flight. -/
def execScope (e : Adm) (n : Nat) (wait : Bool) (s : State) : Host.Outcome State Fault Refusal :=
  let c := e.ctx
  let named := admWord s e.slot 2 == n && (bitsN (admWord s e.slot 3) 0 1 == 1) == wait
  if s.fw.scopeWait.any fun w => w.1 == e.slot then
    event s (named && s.fw.scopeWait.contains (e.slot, c, n) && !oldLatch s c n)
      (finishAdm { s with fw := { s.fw with scopeWait := s.fw.scopeWait.filter fun w => w.1 != e.slot } } e.slot 0)
  else
    command s e 8 [] named
      (checked s (inState s c [1, 2]) (between 5 n 15 && restZero s e.slot 4)
        (scopeStart s e.slot c n wait))

/-! ## VOLSHOOT (R244) -/

/-- GEN of a volume goes up by 1 at its home L2, the handle's CLB entries leave the context's clusters, and walks under way
restart. -/
def shootVolume (s : State) (c h : Nat) : State :=
  let a := (s.ctx c).voltab + 64 * h + 48
  let s1 := match ctxWords s c a 1 with
    | some ws => ctxPut s c a [ws.headD 0#32 + 1#32]
    | none => reportRead s c [(a, 4)]
  shootWalks ((granted (s.ctx c)).foldl (fun s k => s.mapCluster k fun x =>
    { x with clb := x.clb.filter fun e => !(e.ctx == c && e.handle == h) }) s1) c h

/-- VOLSHOOT. -/
def execVolshoot (e : Adm) (h : Nat) (s : State) : Host.Outcome State Fault Refusal :=
  command s e 9 [] (admWord s e.slot 2 == h)
    (checked s (inState s e.ctx [1, 2]) (decide (h < 256) && restZero s e.slot 3) (shootVolume s e.ctx h, some 0))

/-! ## REGION (R393) -/

/-- A word of an entry without its zero fields, which are ignored (R14). -/
def regionWord (w : Nat) : Word := BitVec.ofNat 32 (bitsN w 0 20 + 2 ^ 31 * bitsN w 31 1)

/-- The table with an entry written. -/
def putRegion (rs : List (Nat × Word × Word)) (k : Nat) (w0 w1 : Word) : List (Nat × Word × Word) :=
  (k, w0, w1) :: rs.filter fun r => r.1 != k

/-- A device physical address was secure and is not any more. -/
def leavesSecure (old new : State) (pa : Nat) : Bool :=
  secureAddr old (pa / 2 ^ 36) (pa % 2 ^ 36) && !secureAddr new (pa / 2 ^ 36) (pa % 2 ^ 36)

/-- The device physical address of a line, when a stack holds it. -/
def linePhys (s : State) (x : Line) : Option Nat :=
  let pl := (s.ctx x.ctx).placement x.va
  match homeOf pl x.va with
  | .stack _ => some (physAddr pl x.leaf x.va)
  | _ => none

/-- Memory for which `p` holds is marked all zero, and its lines leave every cache (R393). -/
def scrubMemory (s : State) (p : Nat → Bool) : State :=
  let lp : Line → Bool := fun x => (linePhys s x).any p
  let s1 := dropL2 (dropLines s lp) lp
  let m := s1.mem
  { s1 with mem := { m with
      home := m.home.filter (fun e => !p e.1), poison := m.poison.filter (fun n => !p (32 * n))
      blocks := m.blocks.filter fun b => !p (256 * b.1) } }

/-- What REGION does. -/
def setRegion (s : State) (sel w0 w1 : Nat) : State :=
  let k := bitsN sel 0 4 * 64 + bitsN sel 16 6
  let s1 := { s with mp := { s.mp with regions := putRegion s.mp.regions k (regionWord w0) (regionWord w1) } }
  scrubMemory s1 (leavesSecure s s1)

/-- REGION. -/
def execRegion (e : Adm) (sel w0 w1 : Nat) (s : State) : Host.Outcome State Fault Refusal :=
  command s e 0x0A [] (admWord s e.slot 2 == sel && admWord s e.slot 3 == w0 && admWord s e.slot 4 == w1)
    (checked s true (e.ctx == 0 && decide (bitsN sel 0 4 < 12) && restZero s e.slot 5) (setRegion s sel w0 w1, some 0))

/-! ## STOCK (R396) -/

/-- STOCK: result 2 while a context holds the snapshot right. -/
def execStock (e : Adm) (units : Nat) (s : State) : Host.Outcome State Fault Refusal :=
  command s e 0x0B [] (admWord s e.slot 2 == units)
    (checked s (!s.ctxs.any fun x => isBound x && bitsN x.flags 0 1 == 1)
      (e.ctx == 0 && between 1 units 256 && restZero s e.slot 3) ({ s with snap := { s.snap with units := units } }, some 0))

/-! ## RESTORE (R399 to R401) -/

/-- The payload of a chunk written to its address: it goes home, and cached copies of it leave. -/
def restoreChunk (s : State) (c va : Nat) (bs : List Byte) : State :=
  let p : Line → Bool := fun x => x.ctx == c && decide (va ≤ x.va) && decide (x.va < va + 16384)
  let s1 := dropLines s p
  let s2 := homeStore s1 c (leafAt s1 c va) va bs
  { s2 with snap := { s2.snap with hashes := putHash s2.snap.hashes c (va / 16384) (sha256 bs) } }

/-- The plaintext of a sealed payload, when its tag fits. -/
def openPayload (header payload : List Byte) : Option (List Byte) :=
  let iv := (header.drop 40).take 12
  let ct := payload.take 16384
  if (payload.drop 16384).take 16 == gcmTag deviceKeys iv (header.take 40) ct then some (gcmText deviceKeys iv ct) else none

/-- The page of a chunk can be written in the context's world; a sealed one in the secure world only. -/
def chunkMapped (s : State) (c va : Nat) (isSealed : Bool) : Bool :=
  match translate s c va with
  | .leaf l => worldOk s c l va && (!isSealed || bitsN (s.ctx c).flags 2 1 == 1)
  | _ => false

/-- Entries are acted on in order; `fuel` bounds them. A run that is no entry ends with result 1; zero fields are ignored (R14). -/
def restoreEntries (s : State) (c : Nat) (a left : Nat) : Nat → State × Option Nat
  | 0 => (s, some 0)
  | fuel + 1 =>
    if left = 0 then (s, some 0)
    else if left < 64 then (s, some 1)
    else
      let h := memBytes s.mem.host a 64
      let w := fun i => leNat ((h.drop (4 * i)).take 4)
      let len := w 8
      if left < 64 + len ∨ 3 < bitsN (w 0) 0 8 then (s, some 1)
      else if bitsN (w 0) 0 8 ≠ 1 then restoreEntries s c (a + 64 + len) (left - 64 - len) fuel
      else
        let va := w 2 + 2 ^ 32 * bitsN (w 3) 0 24
        let isSealed := bitsN (w 0) 16 1 == 1
        let payload := memBytes s.mem.host (a + 64) len
        if len ≠ (if isSealed then 16448 else 16384) ∨ va % 16384 ≠ 0 ∨ !chunkMapped s c va isSealed then (postMalformed s c [va] { acc := 1 }, some 1)
        else if isSealed then
          match openPayload h payload with
          | none => (s, some 3)
          | some bs => restoreEntries (restoreChunk s c va bs) c (a + 64 + len) (left - 64 - len) fuel
        else restoreEntries (restoreChunk s c va payload) c (a + 64 + len) (left - 64 - len) fuel

/-- RESTORE. The next drain covers every chunk. -/
def execRestore (e : Adm) (addr bytes : Nat) (s : State) : Host.Outcome State Fault Refusal :=
  let c := e.ctx
  let r := restoreEntries (s.mapCtx c fun x => { x with allDirty := true }) c addr bytes (bytes / 64 + 1)
  command s e 0x0C [] (admAddr s e.slot 2 == addr && admWord s e.slot 4 == bytes)
    (checked s (inState s c [2] && snapState s.snap == 0) (restZero s e.slot 5) r)

/-! ## CHRET, WDOG, RETIRE, FWCOMMIT (R408 to R410, R414) -/

/-- A device physical address lies in a channel. -/
def inChannel (stack ch pa : Nat) : Bool := pa / 2 ^ 36 == stack && pa % 2 ^ 36 / 2 ^ 31 == ch

/-- A leaf of a page of 64 KiB of a context reaches into a channel. -/
def pageInChannel (s : State) (c stack ch va : Nat) : Bool :=
  let pl := (s.ctx c).placement va
  match walkTables s (s.ctx c).root pl va with
  | .leaf l => (List.range 16).any fun j =>
      match homeOf pl (va + 4096 * j) with
      | .stack _ => inChannel stack ch (physAddr pl l (va + 4096 * j))
      | _ => false
  | _ => false

/-- A valid leaf of a bound context maps into a channel. -/
def channelUsed (s : State) (stack ch : Nat) : Bool :=
  (List.range s.ctxs.length).any fun c => isBound (s.ctx c) &&
    (ctxPages s c).any fun (p : Nat × Nat) =>
      (List.range (p.2 / 65536)).any fun i => pageInChannel s c stack ch (p.1 + 65536 * i)

/-- CHRET. -/
def execChret (e : Adm) (sel : Nat) (s : State) : Host.Outcome State Fault Refusal :=
  let stack := bitsN sel 0 4
  let ch := bitsN sel 8 5
  command s e 0x0D [] (admWord s e.slot 2 == sel)
    (checked s true (e.ctx == 0 && decide (stack < 12))
      (if channelUsed s stack ch then (s, some 2)
      else (telemetry { s with fuses := { s.fuses with channels := (stack, ch) :: s.fuses.channels } } 20
        (channelUnit stack ch) 0 [], some 0)))

/-- WDOG: from the next dispatch or restore. -/
def execWdog (e : Adm) (ms : Nat) (s : State) : Host.Outcome State Fault Refusal :=
  command s e 0x0E [] (admWord s e.slot 2 == ms)
    (checked s (inState s e.ctx [1, 2]) (between 10 ms 600000) (s.mapCtx e.ctx fun x => { x with wdogMs := ms }, some 0))

/-- RETIRE. -/
def execRetire (e : Adm) (core : Nat) (s : State) : Host.Outcome State Fault Refusal :=
  command s e 0x0F [] (admWord s e.slot 2 == core)
    (checked s true (e.ctx == 0 && decide (core < Config.cores)) (markCore s core, some 0))

/-- FWCOMMIT: the counter is raised to the operand, never above the running images' lowest version. -/
def execFwcommit (e : Adm) (ver : Nat) (s : State) : Host.Outcome State Fault Refusal :=
  command s e 0x10 [] (admWord s e.slot 2 == ver)
    (checked s true (e.ctx == 0 && decide (ver ≤ 63) && s.fuses.images.all fun i => decide (ver ≤ i.version))
      ({ s with fuses := { s.fuses with rollback := max s.fuses.rollback ver } }, some 0))

/-! ## WREAD and WRELEASE (R413) -/

/-- The warp of a context that a handle, tid and wid name. -/
def warpNamed (s : State) (c handle tid wid : Nat) : Option Nat :=
  match launchBy s c handle with
  | none => none
  | some li =>
    ((List.range s.warps.length).filter fun w =>
      let x := s.warps.getD w Warp.blank
      !x.cobbler && (s.team x.team).launch == li && (s.team x.team).tid == tid && x.wid == wid).getLast?

/-- Held or halted, and its team has not ended. -/
def stopped (s : State) (w : Nat) : Bool :=
  let x := s.warps.getD w Warp.blank
  (s.team x.team).res != .ended && match x.st with | .held | .halted _ => true | _ => false

/-- The sections of R381 that name a warp: what the spec gives no layout for is a free value, the vector slots are
their lanes. -/
def warpImage (s : State) (x : Warp) : List Byte :=
  ((List.range (4096 + 8 * x.regs.length)).map fun i => Config.freeByte s.clk.tick i) ++ (vectorSlots x).flatMap wordsBytes

/-- WREAD. -/
def execWread (e : Adm) (handle tid wid addr bytes : Nat) (s : State) : Host.Outcome State Fault Refusal :=
  let a := e.slot
  let r := match warpNamed s e.ctx handle tid wid with
    | none => (s, some 2)
    | some w =>
      let image := warpImage s (s.warps.getD w Warp.blank)
      if !stopped s w then (s, some 2)
      else if bytes < image.length ∨ addr % 64 ≠ 0 then (s, some 1)
      else ({ s with mem := { s.mem with host := memWrite s.mem.host addr image } }, some 0)
  command s e 0x11 [] (admWord s a 2 == handle && bitsN (admWord s a 3) 0 24 == tid && bitsN (admWord s a 4) 0 5 == wid &&
      admAddr s a 5 == addr && admWord s a 7 == bytes)
    (checked s (inState s e.ctx [1, 2]) true r)

/-- A held warp goes on; a halted one is released. -/
def releaseWarp (s : State) (w : Nat) : State :=
  let x := s.warps.getD w Warp.blank
  match x.st with
  | .held =>
    s.mapWarp w fun y => { watched s y with st := .running }
  | .halted _ => (s.mapWarp w fun y => { y with st := .halted true }).run [.teamEnd x.team]
  | _ => s

/-- WRELEASE. -/
def execWrelease (e : Adm) (handle tid wid : Nat) (s : State) : Host.Outcome State Fault Refusal :=
  let a := e.slot
  let r := match warpNamed s e.ctx handle tid wid with
    | none => (s, some 2)
    | some w => if stopped s w then (releaseWarp s w, some 0) else (s, some 2)
  command s e 0x12 [] (admWord s a 2 == handle && bitsN (admWord s a 3) 0 24 == tid && bitsN (admWord s a 4) 0 5 == wid)
    (checked s (inState s e.ctx [1, 2]) true r)

end Sys2Proof.Machine
end

