-- ==== Sys2Proof/Machine/Auto.lean ====
section
/-!
DEFINITION. What a step does next: an instruction, an event of the agenda, or, when no split can issue, an event that the
device could be waiting for (log 1).
-/

namespace Sys2Proof.Machine

/-- The event a cut waits for. -/
noncomputable def cutEvent (s : State) : Instr :=
  if s.snap.cut ≠ 2 then .cutHold else if s.clk.ns ≤ s.snap.holdAt + 3500 then .cutSwitch else .cutQuiesceTimeout

/-- The event a parked split waits for. -/
noncomputable def parkEvent (p : Park) (w sp : Nat) (s : State) : Option Instr :=
  let x := s.warps.getD w Warp.blank
  match p with
  | .no => none
  | .sleep _ => some (.sleepExpire w sp)
  | .wsync => some (.wsyncDone w sp)
  | .bar _ idx _ _ => some (.barComplete x.team idx)
  | .claim _ _ => some (.rclaimGrant x.core)
  | .push _ q _ => some (.qpushGrant (s.crewNo x) q)
  | .pop _ _ q _ => some (.qpopGrant (s.crewNo x) q)
  | .copyIssue => some (.copyUnpark w sp)
  | .tags _ _ => some (.copyComplete (clusterOf x.core) 0)
  | .bowait _ _ _ => some (.bowaitTimeout w sp)
  | .boundary _ _ _ _ => some (.phaseBoundaryDone w sp)
  | .waitf _ => some (.faultPost w)
  | .bmode _ _ _ _ => some (.bmodeSwitch w sp)
  | .walk _ => some (.walkPendingRetry w sp)
  | .vshoot _ => some (.vshootDone w sp)
  | .snap _ => some (cutEvent s)
  | .lwait _ _ _ => some (.lwaitTimeout w sp)
  | .stockpot => some (.stockpotStallResume w sp)
  | .cutHold => some (cutEvent s)
  | .domain _ => some (.domainAccessTimeout w sp)
  | .array => some (.arrayOpComplete x.core)
  | .data => some (.loadDataReturn w sp)
  | .older => some (.phaseBoundaryDone w sp)
  | .fail _ => none

/-! ### What the firmware and the memory processor could do -/

/-- Launches to take, and timers to run. -/
noncomputable def queueEvents (s : State) : List Instr :=
  (List.range s.ctxs.length).flatMap fun c =>
    if (s.ctx c).st = 1 then
      (List.range 64).flatMap fun q =>
        let k := (s.ctx c).queue q
        if k.nonEmptyAt.isSome then [Instr.launchDispatch c q, Instr.ageTimerExpire c q] else []
    else []

/-- Crews that could bind. -/
noncomputable def bindEvents (s : State) : List Instr :=
  (List.range s.crews.length).filterMap fun ci =>
    match bindSet s ci with
    | some ts =>
      let li := (s.crew ci).launch
      some (Instr.teamBind li ci (firstArea s (s.launch li) (areaLess s ts).length))
    | none => none

/-- What concerns a team, by its residence. -/
noncomputable def teamEvent (s : State) (t : Nat) : List Instr :=
  match (s.team t).res with
  | .waiting => [.preemptRequest t]
  | .running => if (s.team t).quantumUsed then [.drainDeadlineExpire t] else [.quantumExpire t]
  | .saving => [.saveComplete t]
  | .saved => [.preemptRequest t]
  | .ended => []

noncomputable def teamEvents (s : State) : List Instr := (List.range s.teams.length).flatMap (teamEvent s)

/-- Requests and records that wait. -/
noncomputable def faultEvents (s : State) : List Instr :=
  s.mp.posts.map (fun p => Instr.faultPost p.1) ++
    (List.range s.ctxs.length).flatMap fun c =>
      (if (s.ctx c).heldRecs.isEmpty then [] else [Instr.faultRingResume c]) ++
        if (s.ctx c).suspendBy.isSome then [Instr.suspendComplete c] else []

/-- The command of an entry of the administrative ring. -/
noncomputable def admInstr (s : State) (n : Nat) : Option Instr :=
  let e : Adm := { slot := n, ctx := admCtx s n }
  let w := admWord s n
  match admOp s n with
  | 0x01 => some (.bind e (admAddr s n 2) (admAddr s n 4))
  | 0x02 => some (.kill e)
  | 0x03 => some (.suspend e (w 2))
  | 0x04 => some (.resume e)
  | 0x05 => some (.qconf e (w 2))
  | 0x06 => some (.quant e)
  | 0x07 => some (.unbind e)
  | 0x08 => some (.scope e (w 2) (w 3 % 2 == 1))
  | 0x09 => some (.volshoot e (w 2))
  | 0x0A => some (.region e (w 2) (w 3) (w 4))
  | 0x0B => some (.stock e (w 2))
  | 0x0C => some (.restore e (admAddr s n 2) (w 4))
  | 0x0D => some (.chret e (w 2))
  | 0x0E => some (.wdog e (w 2))
  | 0x0F => some (.retire e (w 2))
  | 0x10 => some (.fwcommit e (w 2))
  | 0x11 => some (.wread e (w 2) (bitsN (w 3) 0 24) (bitsN (w 4) 0 5) (admAddr s n 5) (w 7))
  | 0x12 => some (.wrelease e (w 2) (bitsN (w 3) 0 24) (bitsN (w 4) 0 5))
  | _ => none

/-- The poll, and the commands found by the polls. -/
noncomputable def adminEvents (s : State) : List Instr :=
  (if s.win.ardy then [Instr.adminRingPoll] else []) ++
    ((admWindow s).filter fun n => !s.fw.admFin.contains n).filterMap (admInstr s)

/-- The events that could let a waiting device go on, in a fixed order. -/
noncomputable def waitingEvents (s : State) : List Instr :=
  let parked := (List.range s.warps.length).flatMap fun w =>
    (seats (s.warps.getD w Warp.blank)).filterMap fun k => parkEvent (seatPark (s.warps.getD w Warp.blank) k) w k.number s
  let copies := (List.range s.clusters.length).flatMap fun k =>
    (List.range (s.cluster k).copies.length).map fun i => Instr.copyComplete k i
  let dogs := (List.range s.warps.length).filterMap fun w =>
    if (s.warps.getD w Warp.blank).st == .running then some (Instr.watchdogExpire w) else none
  let worn := (List.range s.cores.length).filterMap fun k =>
    if (s.core k).retireMark then some (Instr.coreRetirement k) else none
  let arrays := (List.range s.teams.length).filterMap fun t =>
    if (s.team t).ops.isEmpty then none else some (Instr.arrayOpComplete (s.team t).core)
  let tiles := (List.range s.teams.length).flatMap fun t =>
    (List.range (s.team t).tiles.length).filterMap fun n =>
      if ((s.team t).tiles.getD n Tile.blank).land then some (Instr.tileLanded t n) else none
  let ends := (List.range s.launches.length).filterMap fun l =>
    if (s.launch l).st == .dispatched then some (Instr.launchEnd l) else none
  let drain := if s.snap.st ≠ 2 then [] else if s.snap.held.isNone then [Instr.drainChunk]
    else [Instr.drainRingResume, Instr.drainRingTimeout false]
  parked ++ copies ++ arrays ++ tiles ++ ends ++ drain ++ queueEvents s ++ bindEvents s ++ teamEvents s ++ faultEvents s ++
    adminEvents s ++ dogs ++ worn ++ s.fw.inRecovery.map fun r => Instr.keepaliveLapse r.peer

/-- The next of the waiting events in turn. -/
noncomputable def autoEvent (s : State) : Option Instr :=
  let es := waitingEvents s
  es[s.sched.turn % max 1 es.length]?

/-- One has looked at the events that wait. -/
def looked (s : State) : State := { s with sched := { s.sched with quiet := 0, turn := s.sched.turn + 1 } }

/-- What a step does: an instruction of a split, an event, or nothing. -/
inductive Up where
  | insn (c : Iss)
  | event (i : Instr) (s : State)
  | idle

/-- The event at the head of the agenda, when its time has come. A word is no event: it is never taken from the agenda. -/
def dueEvent (s : State) : Option (Instr × State) :=
  match s.sched.agenda with
  | (0, i) :: rest => if i.isWord then none else some (i, { s with sched := { s.sched with agenda := rest } })
  | _ => none

/-- The oldest write from outside that the hub holds, when it can go on to its home (R246). When it does is open; while it could
stall there, other events have their turn between (R247). -/
def hubEvent (s : State) : Option (Instr × State) :=
  match s.snap.hub with
  | i :: rest =>
    if s.snap.cut = 2 ∨ i.isWord ∨ (stockFull s ∧ s.clk.tick % 2 = 0) ∨ (Config.choice s.clk.tick 246 % 2 = 1 ∧ (issuing s).isSome) then none
    else some (i, { s with snap := { s.snap with hub := rest, hubGoes := true } })
  | [] => none

/-- What the hub keeps of the access from outside that this step has run. The write of a host atomic goes before all that waits, so no
other access from outside falls between its read and it (R262). -/
noncomputable def hubAfter (i : Instr) (s : State) : State :=
  let h := s.snap.hub
  let hub := match s.snap.hubNext with
    | .done => h
    | .held => if s.snap.hubGoes then i :: h else h ++ [i]
    | .write c va v => .hostStore c va 4 v :: h
  { s with snap := { s.snap with hub := hub, hubGoes := false, hubNext := .done } }

/-- An event that waits is looked at when no split can issue, and at the latest after 16 other steps, so that what is due comes
about (R295; log 1). -/
noncomputable def waited (s : State) : Option (Instr × State) :=
  if (issuing s).isNone ∨ 15 ≤ s.sched.quiet then (autoEvent s).map fun i => (i, looked s) else none

/-- The rotation of a warp can be made now: it is due, and the write of the Welt entry need not wait (R246, R247). -/
noncomputable def rotates (s : State) (w : Nat) : Bool :=
  let x := s.warps.getD w Warp.blank
  rotationDue x && (s.team x.team).res == .running && noPair x && (rotate s w x).mem.blocked == s.mem.blocked

/-- A rotation that is due comes before the next instruction, also where both occupants are parked (R40). -/
noncomputable def rotation (s : State) : Option (Instr × State) :=
  ((List.range s.warps.length).find? (rotates s)).map fun w => (.weltRotation w, s)

noncomputable def nextUp (s : State) : Up :=
  match midPair s with
  | some c => .insn c
  | none =>
    match (hubEvent s).orElse fun _ => (dueEvent s).orElse fun _ => (rotation s).orElse fun _ => waited s with
    | some e => .event e.1 e.2
    | none =>
      match issuing s with
      | some c => .insn c
      | none => .idle

end Sys2Proof.Machine
end

