-- ==== Sys2Proof/Machine/Acc.lean ====
section
/-!
DEFINITION. Accumulator instructions: ACCZ to ACCTOT (spec 04 R105, R106, R111, R114; 07 R216 to R221; 12 R316).
-/

namespace Sys2Proof.Machine

/-! ## Elements -/

/-- The format of an accumulator's elements. -/
def Acc.fmt (x : Acc) : Fmt := if x.isInt then .int true 32 else .bin fF32

def Acc.elem (x : Acc) (i j : Nat) : Word := x.elems.getD (64 * i + j) 0#32

/-- The elements with those of the shape replaced. -/
def Acc.with (x : Acc) (f : Nat → Nat → Word) : Acc :=
  { x with elems := (List.range (64 * 64)).map fun e =>
      if e / 64 < x.rows ∧ e % 64 < x.cols then f (e / 64) (e % 64) else x.elems.getD e 0#32 }

/-- Element (i, j) rounded once into a format; `pos` is its place in the order of R105. -/
def Iss.rounded (c : Iss) (x : Acc) (dst : Fmt) (rnd pos i j : Nat) : Nat :=
  let v := x.fmt.value (x.elem i j).toNat
  engineRound dst rnd c.seed pos v 0 (x.fmt.grid v) false

/-! ## Operands -/

/-- The control word of R216. -/
structure AccCtl where
  pitch : Nat
  fmt : Nat
  rnd : Nat
  spad : Bool
  nkeep : Nat
  deriving DecidableEq, Repr

def accCtl (v : Nat) : AccCtl :=
  { pitch := bitsN v 0 16, fmt := bitsN v 16 4, rnd := bitsN v 20 3, spad := bitsN v 23 1 == 1, nkeep := bitsN v 24 5 }

/-- The bytes of an element that alignment is counted in. -/
def elemAlign (f : Fmt) : Nat := max 1 (f.width / 8)

/-- A control word without the faults of R217; `nk` tells whether NKEEP has a use, and `tot` is for ACCTOT. -/
def accCtlOk (v : Nat) (nk tot : Bool) : Bool :=
  let k := accCtl v
  k.fmt != 15 && decide (k.rnd ≤ 5) && bitsN v 29 3 == 0 && k.pitch % elemAlign (fmtCode k.fmt) == 0 &&
    (if nk then decide (1 ≤ k.nkeep) && decide (k.nkeep ≤ 24) else k.nkeep == 0) &&
    (!tot || (k.pitch == 0 && !k.spad))

/-- An accumulator in a state that does not fit (trap 0x17). -/
def accFit (ok : Bool) (n : Nat) : Except Trap Unit := if ok then .ok () else trapW 0x17 (0x10 + n)

/-- The accumulator a function works on, once the array has finished with it. -/
def Iss.onAcc (c : Iss) (s : State) (n : Nat) (f32only : Bool) (body : Acc → Res) : Res :=
  c.after s ((c.team s).accWait n) do
    let x := (c.team s).acc n
    accFit (x.rows != 0 && !(f32only && x.isInt)) n
    body x

/-- Operands of the memory functions: the control word and the address. -/
def Iss.accOperands (c : Iss) (a : Nat) (d : Src) (ok : Nat → Bool) : Except Trap (AccCtl × Nat) := do
  c.whole
  let v ← c.needSrc .d d
  let lo ← needU (c.regAt .a a 0)
  let hi ← needU (c.regAt .a a 1)
  inRange (ok v) v
  let k := accCtl v
  return (k, if k.spad then lo else lo + 2 ^ 32 * hi)

def accForm (a : Nat) (d : Src) : Form := { d := srcOp d, a := pairOp a, dread := true, compared := true }

/-- Address of row `r` (R217). -/
def accRow (a pitch r : Nat) : Nat := (a + r * pitch) % 2 ^ 64

/-- Rows of `n` bytes. -/
def accRows (x : Acc) (a pitch n : Nat) : List (Nat × Nat) := (List.range x.rows).map fun r => (accRow a pitch r, n)

/-- The address check, then every row (R221); an access that must wait parks the split. -/
def Iss.accChecked (c : Iss) (s : State) (k : AccCtl) (a : Nat) (kind : Access) (rows : List (Nat × Nat)) (body : Res) :
    Res := do
  if a % elemAlign (fmtCode k.fmt) ≠ 0 then .error (addrTrap 0x09 a none) else .ok ()
  c.checkRows s k.spad kind rows
  match c.waitRows s k.spad rows with
  | some p => return p
  | none => body

/-! ## ACCZ, ACCLD, ACCST -/

/-- ACCZ (R217). -/
def execAccz (acc : Nat) (a : Src) (s : State) : Host.Outcome State Fault Refusal :=
  execute s { a := srcOp a, valued := true } fun c => do
    c.whole
    let v ← c.needSrc .a a
    let m := bitsN v 0 7
    let n := bitsN v 8 7
    inRange (decide (1 ≤ m) && decide (m ≤ 64) && decide (1 ≤ n) && decide (n ≤ 64) && bitsN v 7 1 == 0 &&
      bitsN v 15 1 == 0 && bitsN v 17 15 == 0) v
    c.after s ((c.team s).accWait acc)
      (.ok (c.complete (s.mapAcc c.warp.team acc fun _ =>
        { rows := m, cols := n, isInt := bitsN v 16 1 == 1, elems := [], poison := false }) c.warp))

/-- The format code of an accumulator's TYPE. -/
def Acc.fmtNo (x : Acc) : Nat := if x.isInt then 0 else 2

/-- ACCLD (R217). -/
def execAccld (acc a : Nat) (d : Src) (s : State) : Host.Outcome State Fault Refusal :=
  execute s (accForm a d) fun c => do
    let o ← c.accOperands a d fun v => accCtlOk v false false
    c.onAcc s acc false fun x => do
      accFit (o.1.fmt == x.fmtNo) acc
      c.accChecked s o.1 o.2 .read (accRows x o.2 o.1.pitch (4 * x.cols)) (
        let r := (c.agent s).read s o.1.spad ((accRows x o.2 o.1.pitch (4 * x.cols)).flatMap fun r =>
          (List.range r.2).map fun i => r.1 + i)
        let bs := r.2.map Prod.fst
        let f := fun i j => (BitVec.ofNat 32 (leNat ((bs.drop (4 * (i * x.cols + j))).take 4)) : Word)
        .ok (c.complete (r.1.mapAcc c.warp.team acc fun y => { y.with f with poison := r.2.any Prod.snd }) c.warp))

/-- ACCST (R217): each element is rounded once and packed (R96). -/
def execAccst (acc a : Nat) (d : Src) (s : State) : Host.Outcome State Fault Refusal :=
  execute s (accForm a d) fun c => do
    let o ← c.accOperands a d fun v => accCtlOk v false false
    c.onAcc s acc false fun x => do
      let f := fmtCode o.1.fmt
      c.accChecked s o.1 o.2 .write (accRows x o.2 o.1.pitch (runBytes f x.cols)) do
        noPoison x.poison
        let ws := (List.range x.rows).flatMap fun i => (List.range x.cols).flatMap fun j =>
          (elemWrite f j (c.rounded x f o.1.rnd (i * x.cols + j) i j)).map fun w =>
            { w with off := accRow o.2 o.1.pitch i + w.off }
        return c.complete (c.external ((c.agent s).storeBits s o.1.spad ws)) c.warp

/-! ## ACCADD (R220, R316) -/

/-- Memory and accumulator element added in a format. -/
def accSum (f : Fmt) (x : Acc) (old : Nat) (v : Word) : Nat := f.round ((f.value old).add (x.fmt.value v.toNat)) .rne

/-- One element added at its home, or in the scratchpad. A partial write keeps a poison mark (R403). -/
def Agent.addAt (g : Agent) (s : State) (spad : Bool) (n : Nat) (f : Nat → Nat) (a : Nat) : State :=
  if spad then
    scratchPutNat s g.crew a (f (scratchNat s g.crew a n)) n
  else
    let l := grantedLeaf s g.cluster g.ctx a
    let old := leNat (homeBytes s g.ctx l a n)
    agentWrite s g.ctx l (lineOf a) ((List.range n).map fun i => (a % 128 + i, (leBytes (f old) n).getD i 0#8))

/-- The issuing cluster's copies of some lines go home (R316). -/
def Agent.flush (g : Agent) (s : State) (spad : Bool) (as : List Nat) : State :=
  if spad then s else (linesOf as).foldl (fun s va => flushLine s g.cluster g.ctx va) s

/-- ACCADD. -/
def execAccadd (acc a : Nat) (d : Src) (s : State) : Host.Outcome State Fault Refusal :=
  execute s (accForm a d) fun c => do
    let o ← c.accOperands a d fun v => accCtlOk v false false && (accCtl v).rnd == 0
    c.onAcc s acc false fun x => do
      accFit (if x.isInt then o.1.fmt == 0 else o.1.fmt == 2 || o.1.fmt == 3) acc
      let f := fmtCode o.1.fmt
      let n := f.width / 8
      c.accChecked s o.1 o.2 .both (accRows x o.2 o.1.pitch (n * x.cols)) do
        noPoison x.poison
        let g := c.agent s
        let es := (List.range x.rows).flatMap fun i => (List.range x.cols).map fun j =>
          (accRow o.2 o.1.pitch i + n * j, x.elem i j)
        let s1 := g.flush s o.1.spad (es.map Prod.fst)
        return c.complete (c.external (es.foldl (fun s e =>
          g.addAt s o.1.spad n (fun old => accSum f x old e.2) e.1) s1)) c.warp

/-! ## ACCSTSP (R111, R218) -/

/-- Whether a value ranks above another at the same or a later column (R111). -/
def ranksAbove (f : Fmt) (a b : Word) : Bool :=
  let x := f.value a.toNat
  let y := f.value b.toNat
  let mag := fun v : Ex => if v.isNeg then v.neg else v
  if x.isNan then !y.isNan
  else if y.isNan then false
  else (mag y).lt (mag x)

/-- The number of columns of a group that rank above column `j`. -/
def rankOf (f : Fmt) (v : Nat → Word) (j : Nat) : Nat :=
  ((List.range 48).filter fun i => i != j && (ranksAbove f (v i) (v j) || (i < j && !ranksAbove f (v j) (v i)))).length

/-- The columns of a group that are kept, in increasing order. -/
def keptColumns (f : Fmt) (n : Nat) (v : Nat → Word) : List Nat := (List.range 48).filter fun j => decide (rankOf f v j < n)

/-- ACCSTSP. -/
def execAccstsp (acc a : Nat) (d : Src) (s : State) : Host.Outcome State Fault Refusal :=
  execute s (accForm a d) fun c => do
    let o ← c.accOperands a d fun v => accCtlOk v true false
    c.onAcc s acc false fun x => do
      accFit (x.cols % 48 == 0) acc
      let f := fmtCode o.1.fmt
      let groups := x.cols / 48
      let per := groups * o.1.nkeep
      let maskAddr := fun i => accRow (o.2 + x.rows * o.1.pitch) (6 * groups) i
      let rows := accRows x o.2 o.1.pitch (runBytes f per) ++ (List.range x.rows).map fun i => (maskAddr i, 6 * groups)
      c.accChecked s o.1 o.2 .write rows do
        noPoison x.poison
        let kept := fun i => (List.range groups).map fun g => keptColumns x.fmt o.1.nkeep fun j => x.elem i (48 * g + j)
        let values := (List.range x.rows).flatMap fun i =>
          (((kept i).zipIdx.flatMap fun e => e.1.map fun j => 48 * e.2 + j).zipIdx).flatMap fun e =>
            (elemWrite f e.2 (c.rounded x f o.1.rnd (i * per + e.2) i e.1)).map fun w =>
              { w with off := accRow o.2 o.1.pitch i + w.off }
        let masks := (List.range x.rows).flatMap fun i => (kept i).zipIdx.flatMap fun e =>
          let m := e.1.foldl (fun m j => m + 2 ^ j) 0
          (List.range 6).map fun b => (⟨maskAddr i + 6 * e.2 + b, 255, m / 256 ^ b % 256⟩ : BitWrite)
        return c.complete (c.external ((c.agent s).storeBits s o.1.spad (values ++ masks))) c.warp

/-! ## Row functions (R219) -/

/-- In protected mode the lanes of a register serve 16 rows or columns (R301). -/
def Iss.laneFit (c : Iss) (n acc : Nat) : Except Trap Unit := accFit (!c.warp.prot || decide (n ≤ 16)) acc

/-- Row `i`'s lane of the pair; a lane of a V register that has exited is undefined (log 6). -/
def Iss.rowLane (c : Iss) (s : State) (d i : Nat) : Word :=
  let r := c.regAt .d d (i / 32)
  if r.isV && !c.live.getLsbD (i % 32) then Config.freeWord s.clk.tick i else r.lane (i % 32)

/-- The pair with the lanes of the accumulator's rows replaced. -/
def Iss.rowPair (c : Iss) (s : State) (d : Nat) (x : Acc) (f : Nat → Word) : Res :=
  let half := fun h => vec fun l => if 32 * h + l < x.rows then f (32 * h + l) else (c.regAt .d d h).lane l
  c.results s false [(c.place .d d 0, half 0), (c.place .d d 1, half 1)]

/-- The largest product of R219's ACCRMAX in a row. -/
def rowMax (x : Acc) (k : Word) (i : Nat) : Word :=
  match (List.range x.cols).map fun j => fmul32 k (x.elem i j) with
  | [] => 0#32
  | v :: vs => vs.foldl fmax32 v

/-- ACCRMAX. -/
def execAccrmax (d acc : Nat) (a : Src) (s : State) : Host.Outcome State Fault Refusal :=
  execute s { d := pairOp d, a := srcOp a, dread := true, compared := true } fun c => do
    c.whole
    let k ← c.needSrc .a a
    c.onAcc s acc true fun x => do
      c.laneFit x.rows acc
      noPoison x.poison
      c.rowPair s d x fun i => fmax32 (c.rowLane s d i) (rowMax x (BitVec.ofNat 32 k) i)

/-- ACCRSCL. -/
def execAccrscl (acc d : Nat) (s : State) : Host.Outcome State Fault Refusal :=
  execute s { d := pairOp d, dread := true } fun c => do
    c.whole
    c.onAcc s acc true fun x => do
      c.laneFit x.rows acc
      noPoison x.poison
      return c.complete (s.mapAcc c.warp.team acc fun x => x.with fun i j => fmul32 (x.elem i j) (c.rowLane s d i)) c.warp

/-- The row an operand names (R217). -/
def Iss.accRowOf (c : Iss) (s : State) (acc : Nat) (a : Src) (body : Acc → Nat → Res) : Res := do
  c.whole
  let v ← c.needSrc .a a
  c.onAcc s acc true fun x => do
    c.laneFit x.cols acc
    accFit (decide (v < x.rows)) acc
    body x v

/-- ACCROWR. -/
def execAccrowr (d acc : Nat) (a : Src) (s : State) : Host.Outcome State Fault Refusal :=
  execute s { d := pairOp d, a := srcOp a, compared := true } fun c =>
    c.accRowOf s acc a fun x i => do
      noPoison x.poison
      let half := fun h => vec fun l => if 32 * h + l < x.cols then x.elem i (32 * h + l) else 0#32
      c.results s false [(c.place .d d 0, half 0), (c.place .d d 1, half 1)]

/-- ACCROWW. -/
def execAccroww (acc : Nat) (a : Src) (d : Nat) (s : State) : Host.Outcome State Fault Refusal :=
  execute s { d := pairOp d, a := srcOp a, dread := true, valued := true } fun c =>
    c.accRowOf s acc a fun _ i =>
      .ok (c.complete (s.mapAcc c.warp.team acc fun x => x.with fun r j =>
        if r = i then c.rowLane s d j else x.elem r j) c.warp)

/-- An element after ACCEXP. -/
def accExp (k v e : Word) : Word := if v = 0xFF800000#32 then 0#32 else fexp232 (fms32 k e v)

/-- ACCEXP. -/
def execAccexp (acc d : Nat) (a : Src) (s : State) : Host.Outcome State Fault Refusal :=
  execute s { d := pairOp d, a := srcOp a, dread := true } fun c => do
    c.whole
    let k ← c.needSrc .a a
    c.onAcc s acc true fun x => do
      c.laneFit x.rows acc
      noPoison x.poison
      return c.complete (s.mapAcc c.warp.team acc fun x => x.with fun i j =>
        accExp (BitVec.ofNat 32 k) (c.rowLane s d i) (x.elem i j)) c.warp

/-- ACCRSUM: the exact sum of a row is rounded once, and once more with the lane. -/
def execAccrsum (d acc : Nat) (s : State) : Host.Outcome State Fault Refusal :=
  execute s { d := pairOp d, dread := true, compared := true } fun c => do
    c.whole
    c.onAcc s acc true fun x => do
      c.laneFit x.rows acc
      noPoison x.poison
      c.rowPair s d x fun i =>
        fadd32 (c.rowLane s d i) (toF32 (exSum ((List.range x.cols).map fun j => f32 (x.elem i j))))

/-! ## ACCTOT (R217) -/

/-- ACCTOT. -/
def execAcctot (t acc : Nat) (d : Src) (s : State) : Host.Outcome State Fault Refusal :=
  execute s { d := srcOp d, dread := true, compared := true } fun c => do
    c.whole
    let v ← c.needSrc .d d
    inRange (accCtlOk v false true) v
    c.tileField s t
    c.onAcc s acc false fun x =>
      c.after s ((c.team s).writeWait t) do
        let y := (c.team s).tile t
        tileFits (y.configured && y.nkeep == 0 && y.rows == x.rows && y.k == x.cols) t
        accFit (y.fmt == (accCtl v).fmt) acc
        noPoison x.poison
        let f := fmtCode y.fmt
        let ws := (List.range x.rows).flatMap fun i => (List.range x.cols).flatMap fun j =>
          (elemWrite f j (c.rounded x f (accCtl v).rnd (i * x.cols + j) i j)).map fun w =>
            { w with off := w.off + i * y.rowb }
        return c.complete (s.mapTile c.warp.team t fun y => { y.putBits ws with poison := false }) c.warp

end Sys2Proof.Machine
end

