-- ==== Sys2Proof/Machine/Cobbler.lean ====
section
/-!
DEFINITION. The Cobbler: CBRUN, CBEND, CBSTAT (spec 01 R50; 02 R70; 06 R165, R166; 12 R311 to R315).
-/

namespace Sys2Proof.Machine

/-- Every field of a Cobbler descriptor that must be zero is zero, and COB is 1 (R70). -/
def cobblerOk (w : Nat → Nat) : Bool :=
  bitsN (w 1) 24 8 == 0 && bitsN (w 2) 6 1 == 1 && bitsN (w 2) 0 5 == 0 && bitsN (w 2) 7 25 == 0 &&
    bitsN (w 3) 11 21 == 0 && bitsN (w 4) 12 20 == 0 && bitsN (w 5) 5 3 == 0 && bitsN (w 5) 13 19 == 0 &&
    bitsN (w 6) 22 10 == 0 && bitsN (w 7) 12 20 == 0 && bitsN (w 8) 16 16 == 0 && bitsN (w 9) 17 15 == 0 &&
    (List.range 6).all fun i => w (10 + i) == 0

/-- The Cobbler as CBRUN starts it (R165, R312): `b` is in w0. -/
def Iss.cobblerWarp (c : Iss) (s : State) (entry regs floor b : Nat) : Warp :=
  let split : Split :=
    { pc := entry, entry := allLanes, em := allLanes, rcv := none, join := none, depth := 0, latches := [], xp := none
      park := .no, held := none, late := none, since := s.clk.ns }
  { Warp.blank with
    team := c.warp.team, wid := 31, core := c.warp.core, cobbler := true, st := .running, allot := regs
    regs := (List.replicate regs (.u 0#32)).set 0 (.u (BitVec.ofNat 32 b)), xs := List.replicate 4 0#32
    preds := List.replicate 8 0#32, live := allLanes, split0 := some split, floor := floor, q := floor, free := floor
    bank := List.replicate 16 (.u 0#32), srng := (List.range 32).map fun i => BitVec.ofNat 32 (i + 1)
    pkr := (s.ctx (s.ctxOf c.warp)).pkr, lastRetire := s.clk.ns }

/-- The Cobbler takes its slots and begins (status 0). -/
def Iss.startCobbler (c : Iss) (s : State) (entry regs floor b : Nat) : State :=
  let s1 := { s with warps := s.warps ++ [c.cobblerWarp s entry regs floor b] }
  c.external (s1.mapCore c.warp.core fun k =>
    { k with slotsFree := k.slotsFree - regs, pool := k.pool - floor, cobSt := 1, cobCause := 0
             cobTeam := some c.warp.team, cobWarp := some s.warps.length })

/-- CBRUN (R165, R314): it waits for the older accesses of its warp. Its read makes every check of R169, so it can wait for a peer
and raise 0x1C as well (log 55). Of several statuses that apply it writes 1 before 3 before 2 (log 52). It is an external effect
whatever its status (R298), and a Cobbler that starts can make queued claims impossible (R144). -/
def execCbrun (nw : Bool) (d : Dst) (a : Nat) (b : Src) (s : State) : Host.Outcome State Fault Refusal :=
  execute s { d := dstOp d, a := pairOp a, b := srcOp b, valued := true } fun c =>
    if c.em = 0#32 then .ok (c.complete s c.warp)
    else do
      let addr ← c.pairU .a a
      let v ← needU (c.read .b b)
      let vas := fun (_ : Nat) => (List.range 64).map fun i => addr + i
      c.checkAccess s .global .read 64 fun _ => addr
      if c.warp.accessOpen (.slot c.sp) then return c.park s .older
      match c.waitRemote s (fun _ => addr) vas with
      | some t => return t
      | none =>
        let cx := s.ctxOf c.warp
        let r := loadBytes s c.cluster cx 0 ((vas 0).map fun va => (va, grantedLeaf s c.cluster cx va))
        c.poisonTrap (fun _ => addr) (if r.2.any Prod.snd then lanesOf c.em else [])
        let w := fun i => leNat (((r.2.map Prod.fst).drop (4 * i)).take 4)
        let k := s.core c.warp.core
        let regs := bitsN (w 3) 0 11
        let floor := bitsN (w 4) 0 12
        let status := fun (s : State) (n : Nat) => c.result (c.external s) nw d true (.u (BitVec.ofNat 32 n))
        if k.cobSt = 1 then status r.1 1
        else if !cobblerOk w then status r.1 3
        else if k.slotsFree < regs ∨ k.pool < floor + claimSum s c.warp.core then status r.1 2
        else do
          let t ← status (c.startCobbler r.1 (w 0 + 2 ^ 32 * bitsN (w 1) 0 24) regs floor v) 0
          return lateClaims t [c.warp.core]

/-- CBEND (R166). -/
def execCbend (s : State) : Host.Outcome State Fault Refusal :=
  execute s { cob := true } fun c =>
    if c.warp.cobbler then .ok (cobblerOff s c.warp.core 2 0) else trapU 0x01

/-- CBSTAT (R166). -/
def execCbstat (nw : Bool) (d : Dst) (s : State) : Host.Outcome State Fault Refusal :=
  execute s { d := dstOp d } fun c =>
    let k := s.core c.warp.core
    c.result s nw d true (.u (BitVec.ofNat 32 (k.cobSt + 256 * k.cobCause)))

end Sys2Proof.Machine
end

