-- ==== Sys2Proof/Machine/System.lean ====
section
/-!
DEFINITION. System instructions: MOVS, MFS to BMODE (spec 01 R45 to R49, R51; 08 R225 to R236; 12 R304; 19 R363, R364,
R367).
-/

namespace Sys2Proof.Machine

/-! ## The special registers (R51, R227) -/

/-- Word `k` of a 64-bit number. -/
def halfOf (v k : Nat) : Nat := v / 2 ^ (32 * k) % 2 ^ 32

/-- The maps of a die by words, six a die, from number `base` on. -/
def mapWord (maps : Nat → Nat) (base n : Nat) : Nat := halfOf (maps ((n - base) / 6)) ((n - base) % 6)

/-- sy.lmap[i]. -/
def lmapWord (s : State) (c : Nat) (i : Nat) : Nat := (logicalCores (s.ctx c)).getD i 0xFFFFFFFF

/-- The words that MOVS and MFS read under the same number: the maps of cores and grants. -/
def Iss.mapSpecial (c : Iss) (s : State) (n : Nat) : Option Nat :=
  let x := s.ctx (s.ctxOf c.warp)
  if n < 0x40 then none
  else if n < 0x58 then some (mapWord (fun d => x.harvest.getD d 0) 0x40 n)
  else if n < 0x70 then some (mapWord (fun d => x.spare.getD d 0) 0x58 n)
  else if n < 0x88 then some (mapWord (fun d => x.grant.getD d 0 % 2 ^ 48) 0x70 n)
  else if n < 0x100 then none
  else if n < 0x400 then some (lmapWord s (s.ctxOf c.warp) (n - 0x100))
  else none

/-- The word MOVS reads (R51). -/
def Iss.userSpecial (c : Iss) (s : State) (n : Nat) : Option Nat :=
  let w := c.warp
  let t := s.team w.team
  let l := s.launchOf w
  let x := s.ctx (s.ctxOf w)
  match n with
  | 0x00 => some (logicalCores x).length
  | 0x01 => some (indexOf (logicalCores x) w.core)
  | 0x02 => some (indexOf (granted x) (clusterOf w.core))
  | 0x03 => some (t.tid % max 1 l.tpc)
  | 0x04 => some l.tpc
  | 0x05 => some t.warps
  | 0x06 => some l.teams
  | 0x07 => some (t.tid / max 1 l.tpc)
  | 0x08 => some t.gidx
  | 0x09 => some t.grow0
  | 0x0A => some t.grows
  | 0x0B => some (halfOf l.param 0)
  | 0x0C => some (halfOf l.param 1)
  | 0x0D => some w.live.toNat
  | 0x0E => some c.split.entry.toNat
  | 0x0F => some w.allot
  | 0x10 => some w.winBase
  | 0x11 => some w.q
  | 0x12 => some w.free
  | 0x13 => some x.gen
  | 0x14 => some (halfOf s.clk.cycle 0)
  | 0x15 => some (halfOf s.clk.cycle 1)
  | 0x16 => some (halfOf w.retired 0)
  | 0x17 => some (halfOf w.retired 1)
  | 0x18 => some c.sp
  | 0x19 => some c.split.depth
  | 0x1A => some (halfOf w.privBase 0)
  | 0x1B => some (halfOf w.privBase 1)
  | 0x1C => some (halfOf w.weltBase 0)
  | 0x1D => some (halfOf w.weltBase 1)
  | 0x1E => some w.welt.length
  | 0x1F => some ((if l.prot then 1 else 0) + if l.restart then 2 else 0)
  | 0x20 => some (halfOf (bitsNat (s.core w.core).tagmap) 0)
  | 0x21 => some (halfOf (bitsNat (s.core w.core).tagmap) 1)
  | _ => c.mapSpecial s n

/-- MOVS (R51, R125): the number is the immediate of R81. It is checked after the 0x05 check of an indirect D, and where em is zero too
(DESIGN CHOICE, log 55). -/
def execMovs (nw : Bool) (d : Dst) (imm : Nat) (s : State) : Host.Outcome State Fault Refusal :=
  execute s { d := dstOp d, ext := .bits 14 } fun c =>
    match c.userSpecial s (c.imm imm 18).toNat with
    | none => trapW 0x02 0
    | some v => c.result s nw d true (.u (BitVec.ofNat 32 v))

/-- The word MFS reads, but for sy.srng (R227). -/
def Iss.sysSpecial (c : Iss) (s : State) (n : Nat) : Option Nat :=
  let w := c.warp
  let x := s.ctx (s.ctxOf w)
  let t := s.team w.team
  match n with
  | 0x00 => some w.trap.tcause.toNat
  | 0x01 => some w.trap.tval.toNat
  | 0x02 => some w.trap.tlanes.toNat
  | 0x03 => some w.trap.tem.toNat
  | 0x04 => some (halfOf w.trap.tpc 0)
  | 0x05 => some (halfOf w.trap.tpc 1 % 2 ^ 24)
  | 0x06 => some (halfOf w.trap.twb 0)
  | 0x07 => some (halfOf w.trap.twb 1)
  | 0x08 => some (halfOf x.tvec 0)
  | 0x09 => some (halfOf x.tvec 1)
  | 0x0B => some (halfOf w.pkr 0)
  | 0x0C => some (halfOf w.pkr 1)
  | 0x0D => some (halfOf (bitsNat (s.core w.core).tagmap) 0)
  | 0x0E => some (halfOf (bitsNat (s.core w.core).tagmap) 1)
  | 0x0F => some x.gen
  | 0x10 => some (halfOf x.voltab 0)
  | 0x11 => some (halfOf x.voltab 1)
  | 0x12 => some (halfOf x.scopetab 0)
  | 0x13 => some (halfOf x.scopetab 1)
  | 0x14 => some (halfOf w.privBase 0)
  | 0x15 => some (halfOf w.privBase 1)
  | 0x16 => some (halfOf w.weltBase 0)
  | 0x17 => some (halfOf w.weltBase 1)
  | 0x18 => some (halfOf (s.launchOf w).param 0)
  | 0x19 => some (halfOf (s.launchOf w).param 1)
  | 0x1A => some (logicalCores x).length
  | 0x1B => some t.gidx
  | 0x1C => some t.grow0
  | 0x1D => some t.grows
  | 0x1E => some (x.flags % 8)
  | 0x1F => some ((if w.ftokPend then 1 else 0) + 65536 * (w.ftokSeq % 65536))
  | _ => c.mapSpecial s n

/-- Trap 0x02 for a number, which sy.tval holds although the warp halts (R48, R227, R228). -/
def Iss.badNumber {α : Type} (c : Iss) (s : State) (num : Nat) : Except Trap α :=
  .error { cause := 0x02, val := .word num
           base := some (s.mapWarp c.w fun x => { x with trap := { x.trap with tval := BitVec.ofNat 32 num } }) }

/-- MFS (R228). -/
def execMfs (nw : Bool) (d : Dst) (num : Nat) (s : State) : Host.Outcome State Fault Refusal :=
  execute s { d := dstOp d, priv := true } fun c =>
    if num = 0x0A then c.result s nw d false (vec fun l => c.warp.srng.getD l 0#32)
    else match c.sysSpecial s num with
      | none => c.badNumber s num
      | some v => c.result s nw d true (.u (BitVec.ofNat 32 v))

/-- The trap record after MTS (R45: bits 31:9 of sy.tcause and 63:56 of sy.tpc stay zero). -/
def TrapRec.write (r : TrapRec) (n v : Nat) (lanes : Mask) : Option TrapRec :=
  match n with
  | 0x00 => some { r with tcause := BitVec.ofNat 32 (v % 512) }
  | 0x01 => some { r with tval := BitVec.ofNat 32 v }
  | 0x02 => some { r with tlanes := BitVec.ofNat 32 v &&& lanes }
  | 0x03 => some { r with tem := BitVec.ofNat 32 v &&& lanes }
  | 0x04 => some { r with tpc := r.tpc / 2 ^ 32 * 2 ^ 32 + v }
  | 0x05 => some { r with tpc := v % 2 ^ 24 * 2 ^ 32 + r.tpc % 2 ^ 32 }
  | _ => none

/-- MTS (R228): the number is checked before the shape. -/
def execMts (d : Src) (num : Nat) (s : State) : Host.Outcome State Fault Refusal :=
  execute s { d := srcOp d, dread := true, priv := true, em0 := .always, valued := true } fun c =>
    let r := c.read .d d
    if num = 0x0A then
      .ok (c.complete s { c.warp with
        srng := (List.range 32).map fun l => if c.em.getLsbD l then r.lane l else c.warp.srng.getD l 0#32 })
    else match c.warp.trap.write num 0 c.warp.laneMask with
      | none => c.badNumber s num
      | some _ => do
        let v ← needU r
        return c.complete s { c.warp with trap := (c.warp.trap.write num v c.warp.laneMask).getD c.warp.trap }

/-! ## Trap return (R47, R229) -/

/-- Where RTE resumes. -/
def TrapRec.target (r : TrapRec) (skip : Nat) : Nat :=
  r.tpc + if skip = 1 then (if bitsN r.tcause.toNat 8 8 = 1 then 8 else 4) else 0

/-- The warp back in user mode, at `t`. -/
def Warp.leaveTrap (x : Warp) (sp t : Nat) : Warp :=
  let entry := x.trap.savedEntry
  { x.mapSplit sp fun q => { q with pc := t, entry := entry, em := x.trap.tem &&& entry &&& x.live } with sup := false }

/-- RTE: a group switch, of the handler's split and of the other one, whose parked instruction may have completed meanwhile (R22,
R47). -/
def execRte (skip : Nat) (s : State) : Host.Outcome State Fault Refusal :=
  execute s { priv := true, valued := true } fun c =>
    let t := c.warp.trap.target skip
    if t % 4 ≠ 0 then trapU 0x09
    else if 2 ^ 56 ≤ t then trapU 0x1A
    else
      let x := ((c.warp.retire c.sp t Latch.empty [] s.clk.ns).groupSwitch 0).groupSwitch 1
      .ok ((s.mapWarp c.w fun _ => x.leaveTrap c.sp t).run [.settle c.w 0, .settle c.w 1, .fill c.w])

/-! ## Keys (R230) -/

/-- PKSET. -/
def execPkset (a : Nat) (s : State) : Host.Outcome State Fault Refusal :=
  execute s { a := pairOp a, priv := true, em0 := .always } fun c => do
    let v ← c.pairU .a a
    return c.complete s { c.warp with pkr := v }

/-- The bits of one number that are not in another. -/
def withoutBits (v m : Nat) : Nat := v - (v &&& m)

/-- PKDROP. -/
def execPkdrop (a : Nat) (s : State) : Host.Outcome State Fault Refusal :=
  execute s { a := pairOp a, em0 := .always } fun c => do
    let v ← c.pairU .a a
    return c.complete s { c.warp with pkr := withoutBits c.warp.pkr v }

/-! ## PMAP (R231, R363, R364) -/

/-- A first-touch descriptor's words, when it can be read. -/
def touchDesc (s : State) (c d : Nat) : Option (List Word) := ctxWords s c ((s.ctx c).ftdesc + 64 * d) 16

/-- The descriptor serves an address. -/
def servesAddr (ws : List Word) (a : Nat) : Bool :=
  let w := fun i => (ws.getD i 0#32).toNat
  decide (w 10 + 2 ^ 32 * bitsN (w 11) 0 24 ≤ a) && decide (a < w 12 + 2 ^ 32 * bitsN (w 13) 0 24) &&
    decide (bitsN (w 9) 10 4 ≤ 2)

/-- The lowest-numbered descriptor that serves an address, with its words. -/
def servingDesc (s : State) (c a : Nat) : Option (Nat × List Word) :=
  (List.range 4).findSome? fun d =>
    match touchDesc s c d with
    | some ws => if servesAddr ws a then some (d, ws) else none
    | none => none

/-- The 16 granules of a page become all zero, without poison (block state 1, R307). -/
def zeroPage (s : State) (pl : Nat) (l : Leaf) (va : Nat) : State :=
  let gs := (List.range 16).map fun j => physAddr pl l (va / 65536 * 65536 + 4096 * j)
  let inside := fun a => gs.any fun g => decide (g ≤ a) && decide (a < g + 4096)
  { s with mem := { s.mem with home := s.mem.home.filter fun e => !inside e.1
                               poison := s.mem.poison.filter fun p => !inside (32 * p)
                               blocks := s.mem.blocks.filter fun b => !inside (256 * b.1) } }

/-- Frames are taken until one fits the page; `top` of them are left. A leaf on a fenced die is not written (R404). -/
def takeFrame (s : State) (c d k a entry : Nat) (ws : List Word) (who : Who) : Nat → State × Nat
  | 0 => (s, 2)
  | top + 1 =>
    let w := fun i => (ws.getD i 0#32).toNat
    let desc := (s.ctx c).ftdesc + 64 * d
    let list := w (3 * k) + 2 ^ 32 * bitsN (w (3 * k + 1)) 0 24
    let s1 := ctxPut s c (desc + 4 * (3 * k + 2)) [BitVec.ofNat 32 top]
    match ctxWords s c (list + 4 * top) 1 with
    | none => (postMalformed s1 c (pagesOf (list + 4 * top) 4) who, 2)
    | some f =>
      let f := (f.headD 0#32).toNat
      let pl := (s.ctx c).placement a
      let leaf := bitsN (w 9) 2 21 * 4 + f * 2 ^ 28 + 3
      if badFrame s pl (bitsN (w 9) 10 4) f a then
        takeFrame (postGroup s1 c (malformedRec s1 c entry 2 (tableEntry s1 entry) who)) c d k a entry ws who top
      else
        let s2 := zeroPage s1 pl (leafOf leaf false 0) a
        (if fencedStack s (entry / 2 ^ 36) then s2 else { s2 with mem := { s2.mem with home := memWrite s2.mem.home entry (leBytes leaf 8) } }, 0)

/-- Malformed entries that PMAP's reads meet are reported: of the descriptors it looks at, and the tables above the page's entry
(R359). -/
def reportPmap (s : State) (c a : Nat) (who : Who) : State :=
  let n := match servingDesc s c a with | some (d, _) => d + 1 | none => 4
  let s1 := postMalformed s c ((List.range n).flatMap fun d => pagesOf ((s.ctx c).ftdesc + 64 * d) 64) who
  match walkTables s1 (s.ctx c).root ((s.ctx c).placement a) a with
  | .malformed pa lev e => if lev = 2 then s1 else postGroup s1 c (malformedRec s1 c pa lev e who)
  | _ => s1

/-- PMAP as the memory processor performs it for a warp: the state and the status. -/
def mapPage (s0 : State) (c a : Nat) (who : Who) : State × Nat :=
  let s := reportPmap s0 c a who
  match servingDesc s c a, leafEntryAddr s (s.ctx c).root a with
  | some (d, ws), some entry =>
    if bitsN (tableEntry s entry) 0 1 = 1 then (s, 1)
    else
      let k := if bitsN ((ws.getD 9 0#32).toNat) 10 4 = 2 then 0 else a / 65536 % 3
      takeFrame s c d k a entry ws who (ws.getD (3 * k + 2) 0#32).toNat
  | _, _ => (s, 3)

/-- PMAP. -/
def execPmap (d : Dst) (a : Nat) (s : State) : Host.Outcome State Fault Refusal :=
  execute s { d := dstOp d, a := pairOp a, priv := true, em0 := .always } fun c => do
    let va ← c.pairU .a a
    let r := mapPage s (s.ctxOf c.warp) va (whoIs s c.warp 0)
    c.result (c.external r.1) false d true (.u (BitVec.ofNat 32 r.2))

/-! ## WAITF, HALTW (R232, R233) -/

/-- WAITF: a request is posted unless one is pending, and the split parks for the reply; a replay whose reply the core holds
completes at once (R232, R368). -/
def execWaitf (d : Dst) (a : Nat) (access : Nat) (s : State) : Host.Outcome State Fault Refusal :=
  execute s { d := dstOp d, a := pairOp a, priv := true, em0 := .always } fun c => do
    let va ← c.pairU .a a
    let seq := (c.warp.ftokSeq + 1) % 65536
    match c.warp.ftokPend, c.warp.ftokReply with
    | true, some status =>
      c.resultW (c.external s) (fun x => { x with ftokPend := false, ftokReply := none }) false d true (.u (BitVec.ofNat 32 status))
    | true, none => return c.park (c.external s) (.waitf (c.dst d))
    | false, _ =>
      let s1 := (c.park (c.external s) (.waitf (c.dst d))).mapWarp c.w fun x => { x with ftokPend := true, ftokSeq := seq }
      return { s1 with mp := { s1.mp with posts := s1.mp.posts ++ [(c.w, va, access, seq)] } }

/-- HALTW. -/
def execHaltw (a : Src) (s : State) : Host.Outcome State Fault Refusal :=
  execute s { a := srcOp a, priv := true } fun c =>
    let code := if c.em = 0#32 then 0 else ((c.read .a a).lane c.first).toNat
    .ok (s.run [.halt c.w { cause := 0, prior := 0, code := code, pc := c.split.insnPc, addr := 0 }])

/-! ## Queries (R234, R235) -/

/-- What SCPQ says of a scope. -/
def Scope.describe (sc : Scope) (cluster : Nat) : Nat :=
  (if sc.valid then 1 else 0) + (if sc.ret then 2 else 0) + (if sc.clusters.contains cluster then 4 else 0) +
    (if sc.onlyHome cluster then 8 else 0) + (if sc.host then 16 else 0) + (if sc.dom then 32 else 0) +
    256 * (sc.gen % 256) + 65536 * (sc.clusters.length % 256)

/-- SCPQ. -/
def execScpq (nw : Bool) (d : Dst) (n : Nat) (s : State) : Host.Outcome State Fault Refusal :=
  execute s { d := dstOp d } fun c =>
    c.result s nw d true (.u (BitVec.ofNat 32 ((scopeOf s c.cluster (s.ctxOf c.warp) n).describe c.cluster)))

/-- TIMERD. -/
def execTimerd (d : Nat) (s : State) : Host.Outcome State Fault Refusal :=
  execute s { d := pairOp d } fun c => c.pairResult s d (BitVec.ofNat 32 s.clk.ns) (BitVec.ofNat 32 (s.clk.ns / 2 ^ 32))

/-! ## BMODE (R236, R304) -/

/-- What BMODE answers without a switch: a trap, a status, or none when the bank can switch. -/
def Iss.bankAnswer (c : Iss) (s : State) (bank mode : Nat) : Except Trap (Option Nat) :=
  let crew := s.crewNo c.warp
  let b := (s.cluster c.cluster).banks.getD bank ⟨0, none⟩
  let queued := (s.crew crew).queues.any fun q => q.st == 1 && q.bank == bank
  if b.mode ≠ 0 ∧ b.owner ≠ some crew then trapW 0x0B bank
  else if b.mode = mode then .ok (some 1)
  else if b.mode = 2 ∧ queued then .ok (some 2)
  else if b.mode = 1 ∧ crewScratch s crew < (s.launchOf c.warp).scratch + Config.bankBytes then .ok (some 3)
  else .ok none

/-- No copy is landing in a cluster's scratchpad. -/
def noScratchCopy (s : State) (k : Nat) : Bool :=
  (s.cluster k).copies.all fun x => x.stage != 0 || bitsN (x.words.getD 3 0#32).toNat 24 2 != 1

/-- An older BMODE of the cluster is parked. -/
def olderBmode (s : State) (k age : Nat) : Bool :=
  !(parkedSeats s fun x p =>
    match p with
    | .bmode _ _ _ n => clusterOf x.core == k && decide (n < age)
    | _ => false).isEmpty

/-- BMODE: a bank that can switch does so at BMODE_SWITCH, and so does one behind an older BMODE of the cluster (R236). It is an
external effect whatever its status (R298). -/
def execBmode (d : Dst) (a b : Src) (s : State) : Host.Outcome State Fault Refusal :=
  execute s { d := dstOp d, a := srcOp a, b := srcOp b, em0 := .always, valued := true } fun c => do
    let bank ← c.needSrc .a a
    let mode ← c.needSrc .b b
    if 32 ≤ bank ∨ 3 ≤ mode then trapU 0x02
    else
      let parked := c.park (c.external s) (.bmode (c.dst d) bank mode s.clk.tick)
      if olderBmode s c.cluster s.clk.tick then return parked
      else match ← c.bankAnswer s bank mode with
        | some n => c.result (c.external s) false d true (.u (BitVec.ofNat 32 n))
        | none => return parked

/-- The switch of a bank, or what stands against it by now. -/
def Iss.switchBank (c : Iss) (s : State) (d : Option Place) (bank mode : Nat) : Res := do
  match ← c.bankAnswer s bank mode with
  | some n => c.resultAt s id false d true (.u (BitVec.ofNat 32 n))
  | none =>
    c.resultAt (setBank s c.cluster bank mode (if mode = 0 then none else some (s.crewNo c.warp))) id false d true (.u 0#32)

/-- A parked BMODE can switch: it is the oldest of its cluster, the warp's older accesses are performed and no copy is landing in the
scratchpad. -/
def bmodeCan (s : State) (w : Nat) (k : Seat) (age : Nat) : Bool :=
  let x := s.warps.getD w Warp.blank
  noScratchCopy s (clusterOf x.core) && !olderBmode s (clusterOf x.core) age && !x.accessOpen k

/-- BMODE_SWITCH. -/
def execBmodeSwitch (w sp : Nat) (s : State) : Host.Outcome State Fault Refusal :=
  match seatPark (s.warps.getD w Warp.blank) (seatOf sp) with
  | .bmode d bank mode age =>
    event s (bmodeCan s w (seatOf sp) age) (carryAt s w (seatOf sp) fun s c => c.switchBank s d bank mode)
  | _ => event s false s

end Sys2Proof.Machine
end

