-- ==== Sys2Proof/Machine/Drain.lean ====
section
/-!
DEFINITION. Which chunk the drain engine takes, and its step (spec 18 R350).
-/

namespace Sys2Proof.Machine

/-! ## Writes that stall for Stockpot space (R247) -/

/-- The oldest access from outside that waits at the hub is a write that cannot be performed at its home. -/
def hubStalls (s : State) : Bool :=
  let heldBack := fun (o : Host.Outcome State Fault Refusal) => match o with
    | .next t => t.snap.hubNext == .held
    | _ => false
  match s.snap.hub with
  | [] => false
  | i :: rest =>
    let t := { s with snap := { s.snap with hub := rest, hubGoes := true } }
    match i with
    | .hostStore c va n v => heldBack (execHostStore c va n v t)
    | .hostAtomic c va op v => heldBack (execHostAtomic c va op v t)
    | .apertureStore off n v => heldBack (execApertureStore off n v t)
    | .peerAccess p k c va v => heldBack (execPeerAccess p k c va v t)
    | _ => false

/-- A write stalls for Stockpot space: one that an event has come to, a parked instruction's, or one from outside at its home. -/
def writeStalls (s : State) : Bool :=
  stockFull s && (s.snap.stalled || hubStalls s || !(parkedSeats s fun _ p => p == .stockpot).isEmpty)

/-! ## The drain engine -/

/-- The chunk the engine takes next: while a write stalls, the first with preserved blocks. -/
def nextChunk (s : State) : Option Nat :=
  let stalled := writeStalls s
  let kept := s.snap.drain.filter fun n => s.snap.stock.any fun k => k.va / 16384 == n
  if stalled && !kept.isEmpty then kept.head? else s.snap.drain.head?

/-- A chunk is read, hashed, and emitted when its hash has changed. A chunk whose page has gone holds nothing to read. -/
def drainOne (s : State) (c chunk : Nat) : State :=
  let s1 := { s with snap := { s.snap with drain := s.snap.drain.filter fun n => n != chunk, taken := chunk :: s.snap.taken } }
  let free := fun (s : State) =>
    { s with snap := { s.snap with stock := s.snap.stock.filter fun k => k.va / 16384 != chunk } }
  match chunkLeaf s c chunk with
  | none => free s1
  | some l =>
    let bl := (List.range 64).map fun i => chunkBlock s c l (chunk * 16384 + 256 * i)
    if bl.any Prod.snd then failDrain s1 2
    else
      let bs := bl.flatMap Prod.fst
      let hash := sha256 bs
      if s.snap.hashes.contains (c, chunk, hash) then free s1
      else writeEntry s1 c (chunkEntry s1 c chunk l bs hash) (some (c, chunk, hash))

/-- What the drain engine does next. -/
def drainStep (s : State) (c : Nat) : State :=
  if !s.snap.started then
    writeEntry { s with snap := { s.snap with started := true } } c
      (drainHeader 2 c s.snap.gen 0 false [] 0 0 0) none
  else match nextChunk s with
    | some n => drainOne s c n
    | none => writeEntry s c (drainHeader 3 c s.snap.gen 0 false [] 0 s.snap.emitted 0) none

/-- DRAIN_CHUNK: one entry or chunk of the drain. -/
def execDrainChunk (s : State) : Host.Outcome State Fault Refusal :=
  match snapCtx s with
  | some c => event s (s.snap.st == 2 && s.snap.held.isNone) (drainStep s c)
  | none => event s false s

end Sys2Proof.Machine
end

