-- ==== Sys2Proof/Machine/Fleet.lean ====
section
/-!
DEFINITION. Reliability, wear, power and reset: DIE_TEARDOWN to AGEING_MONITOR_REPORT (spec 22 R402 to R409, R414, R417; 00
R3, R6).
-/

namespace Sys2Proof.Machine

/-! ## DIE_TEARDOWN (R404, R405) -/

/-- L1 lines of other dies homed on the die's stacks are poisoned. -/
def poisonHomed (s : State) (die : Nat) : State :=
  let f : Line → Line := fun x =>
    match homeOf ((s.ctx x.ctx).placement x.va) x.va with
    | .stack k => if k / 3 = die then { x with poison := List.replicate 4 true } else x
    | _ => x
  (allClusters s).foldl (fun s k => if k / 48 = die then s else s.mapL1 k fun ls => ls.map f) s

/-- A context is killed by a teardown, with its two records (R405). -/
def killByDie (s : State) (die c : Nat) : State :=
  let s1 := postGroup (killContext s c) c [mkRecord (recHead s c 7 0 0 ++ [(7, die * 2 ^ 16)])]
  telemetry s1 18 die 0 [(5, c)]

/-- DIE_TEARDOWN. -/
def execDieTeardown (die : Nat) (s : State) : Host.Outcome State Fault Refusal :=
  let cs := (List.range s.ctxs.length).filter fun c => inState s c [1, 2] && spans (s.ctx c) die
  let s1 := { s with fuses := { s.fuses with fenced := die :: s.fuses.fenced } }
  event s (decide (die < 4) && !s.fuses.fenced.contains die)
    (cs.foldl (fun s c => killByDie s die c) (poisonHomed s1 die))

/-! ## Links and memory (R402, R409) -/

/-- LINK_RETRAIN: replay resumes; no architected state changes. -/
def execLinkRetrain (_port : Nat) (s : State) : Host.Outcome State Fault Refusal := event s true s

/-- A port that is there: the Kloak link and 36 Cyhild ports (R10). -/
def portThere (s : State) (port : Nat) : Bool := decide (port ≤ 36) && !s.fuses.portsRetired.contains port

/-- LANE_SPARE: KIND 20; a Cyhild port whose spare is used already retires. -/
def execLaneSpare (port lane : Nat) (s : State) : Host.Outcome State Fault Refusal :=
  let f := s.fuses
  let f1 := if port = 0 then { f with kloakLanes := f.kloakLanes + 1 }
    else if f.cyhildLanes.any fun l => l.1 == port then { f with portsRetired := port :: f.portsRetired }
    else { f with cyhildLanes := (port, lane) :: f.cyhildLanes }
  event s (portThere s port && decide (lane < 34)) (telemetry { s with fuses := f1 } 20 (linkUnit port lane) 0 [])

/-- A channel about to fail: the firmware warns of it once (R409). -/
def warnChannel (s : State) (stack ch : Nat) : State :=
  if s.fuses.warned.contains (stack, ch) then s
  else telemetry { s with fuses := { s.fuses with warned := (stack, ch) :: s.fuses.warned } } 20 (channelUnit stack ch) 0 []

/-- A row that the controller is to repair at the next reset (R409). -/
def listRepair (s : State) (stack : Nat) : State :=
  if s.fuses.repairs.contains stack then s else { s with fuses := { s.fuses with repairs := stack :: s.fuses.repairs } }

/-- MEMORY_SCRUB: corrected words are written back as they were; how many there were is open, and so is whether a row is to be
repaired, a channel is about to fail, or a sector beyond correction was found, whose block becomes poisoned (R307, R402, R403,
R409; log 10). A fenced stack is not scrubbed (R404). -/
def execMemoryScrub (stack : Nat) (s : State) : Host.Outcome State Fault Refusal :=
  let n := Config.choice s.clk.tick 402 % 2 ^ 32
  let s0 := if n = 0 then s else noteErrors s (stackUnit stack) n
  let s1 := if Config.choice s.clk.tick 405 % 2 = 0 then s0 else listRepair s0 stack
  let s1 := if Config.choice s.clk.tick 406 % 2 = 0 then s1 else warnChannel s1 stack (Config.choice s.clk.tick 407 % 32)
  let block := stack * 2 ^ 36 + Config.choice s.clk.tick 403 % 2 ^ 36 / 256 * 256
  let sectors := (List.range 8).map fun i => block / 32 + i
  let found := { s1 with mem := { s1.mem with poison := s1.mem.poison ++ sectors.filter fun p => !s1.mem.poison.contains p } }
  event s (decide (stack < 12) && !fencedStack s stack)
    (if Config.choice s.clk.tick 404 % 2 = 0 then s1
    else telemetry found 17 (stackUnit stack) 0 [(5, block % 2 ^ 32), (6, block / 2 ^ 32)])

/-! ## Cores and banks (R408, R409) -/

/-- A cluster that a bound context grants. -/
def clusterGranted (s : State) (k : Nat) : Bool := s.ctxs.any fun x => isBound x && (granted x).contains k

/-- CORE_SELF_TEST: only a core that no bound context grants is tested. -/
def execCoreSelfTest (core : Nat) (pass : Bool) (s : State) : Host.Outcome State Fault Refusal :=
  event s (decide (core < Config.cores) && !clusterGranted s (clusterOf core)) (if pass then s else markCore s core)

/-- AGEING_MONITOR_REPORT. -/
def execAgeingMonitorReport (core : Nat) (s : State) : Host.Outcome State Fault Refusal :=
  event s (decide (core < Config.cores)) (markCore s core)

/-- A bit of a die's map, by physical core. -/
def putMap (maps : List Nat) (p v : Nat) : List Nat := updAt maps (p / 192) fun m => setBits m (p % 192) 1 v

/-- The lowest-numbered spare core of a die that is not fused out. -/
def spareCore (s : State) (die : Nat) : Option Nat :=
  ((List.range 192).map fun i => 192 * die + i).find? fun p =>
    bitsN (s.fuses.spare.getD die 0) (p % 192) 1 == 1 && bitsN (s.fuses.harvest.getD die 0) (p % 192) 1 == 0

/-- A core is fused out, and a spare of its die takes its place (R408). -/
def retireCore (s : State) (core : Nat) : State :=
  let used := coreEnabled s core
  let s1 := (s.mapCore core fun k => { k with retireMark := false })
  let f := { s1.fuses with harvest := putMap s1.fuses.harvest core 1, spare := putMap s1.fuses.spare core 0 }
  let s2 := { s1 with fuses := f }
  match used, spareCore s2 (core / 192) with
  | true, some p =>
    telemetry { s2 with fuses := { f with spare := putMap f.spare p 0 } } 19 (coreUnit p) 0 [(5, coreUnit core)]
  | _, _ => s2

/-- CORE_RETIREMENT: once no bound context grants the marked core's cluster. -/
def execCoreRetirement (core : Nat) (s : State) : Host.Outcome State Fault Refusal :=
  event s (decide (core < Config.cores) && (s.core core).retireMark && !clusterGranted s (clusterOf core)) (retireCore s core)

/-- BANK_SPARE: two spares a cluster, for a bank over the threshold of corrected errors, when no crew is resident there. -/
def execBankSpare (cluster bank : Nat) (s : State) : Host.Outcome State Fault Refusal :=
  let used := (s.fuses.spareBanks.filter fun e => e.1 == cluster).length
  let busy := s.crews.any fun k => k.cluster == cluster && k.resident
  event s (decide (cluster < Config.clusters) && decide (bank < Config.banks) && decide (used < 2) && !busy &&
      decide (s.fuses.threshold < bankErrors s cluster bank))
    (telemetry { s with fuses := { s.fuses with
        spareBanks := (cluster, bank) :: s.fuses.spareBanks
        bankErrors := s.fuses.bankErrors.filter fun e => !(e.1 == cluster && e.2.1 == bank) } } 19 (bankUnit cluster bank) 0
      [(5, bankUnit cluster bank)])

/-! ## Power (R417) -/

/-- CLOCK_STEP: 100 MHz down, to 900, or up, to the 1,800 of reset. -/
def execClockStep (up : Bool) (s : State) : Host.Outcome State Fault Refusal :=
  let p := s.win.pstate
  let n := if up then p + 100 else p - 100
  event s (if up then decide (p + 100 ≤ 1800) else decide (1000 ≤ p))
    (telemetry { s with win := { s.win with pstate := n } } 21 0 n [])

/-- No warp is resident on a cluster, and its engines have no work. -/
def clusterIdle (s : State) (k : Nat) : Bool :=
  (s.cluster k).copies.isEmpty && !(s.teams.any fun t => t.here && clusterOf t.core == k)

/-- CLUSTER_CLOCK_GATE. -/
def execClusterClockGate (cluster : Nat) (s : State) : Host.Outcome State Fault Refusal :=
  event s (clusterIdle s cluster) (s.mapCluster cluster fun k => { k with gated := true })

/-- CLUSTER_WAKE. -/
def execClusterWake (cluster : Nat) (s : State) : Host.Outcome State Fault Refusal :=
  event s (s.cluster cluster).gated (s.mapCluster cluster fun k => { k with gated := false })

/-- What outlives a loss of power: fuses and worn parts. The fences of lost dies end with a reset, and the firmware's counts too. -/
def wornFuses (f : Fuses) : Fuses := { f with fenced := [], warned := [], bankErrors := [] }

/-- The device without state: what is left are fuses, host memory, and the model's own counter and agenda. -/
def blankDevice (s : State) : State :=
  { State.reset with
    mem := { State.reset.mem with host := s.mem.host }
    fuses := wornFuses s.fuses
    clk := { tick := s.clk.tick, cycle := 0, ns := 0 }
    sched := { s.sched with issue := none } }

/-- DEVICE_RESET: memory all zero, row repairs done, and the images run that the ROM accepts: the link is up, the memory processor
is ready with its image, and the firmware once ARDY is set (R406, R409, R414). -/
def execDeviceReset (s : State) : Host.Outcome State Fault Refusal :=
  let t := blankDevice s
  event s true
    { t with fuses := { t.fuses with repairs := [] }
             win := { t.win with kstat := if imageRuns t.fuses 2 then 5 else 1, revision := s.win.revision } }

/-- POWER_LOSS. -/
def execPowerLoss (s : State) : Host.Outcome State Fault Refusal :=
  event s true { blankDevice s with win := { (blankDevice s).win with revision := s.win.revision } }

end Sys2Proof.Machine
end

