-- ==== Sys2Proof/Machine/Fp.lean ====
section
/-!
DEFINITION. FP32 arithmetic, packed halves and conversion: FPR, PK16, CVT (spec 04 R102 to R107, 05 R128 to R131).
-/

namespace Sys2Proof.Machine

/-! ## FPR (R107, R128) -/

/-- FADD (R128). -/
def execFadd (nw : Bool) (d : Dst) (a b : Src) (s : State) : Host.Outcome State Fault Refusal :=
  binary false s nw d a b (map2 fadd32)

/-- FSUB (R128). -/
def execFsub (nw : Bool) (d : Dst) (a b : Src) (s : State) : Host.Outcome State Fault Refusal :=
  binary false s nw d a b (map2 fsub32)

/-- FMUL (R128). -/
def execFmul (nw : Bool) (d : Dst) (a b : Src) (s : State) : Host.Outcome State Fault Refusal :=
  binary false s nw d a b (map2 fmul32)

/-- FMA (R128: D read). -/
def execFma (nw : Bool) (d : Dst) (a b : Src) (s : State) : Host.Outcome State Fault Refusal :=
  ternary false s nw d a b fma32

/-- FMS (R128: D read). -/
def execFms (nw : Bool) (d : Dst) (a b : Src) (s : State) : Host.Outcome State Fault Refusal :=
  ternary false s nw d a b fms32

/-- FMIN (R106, R128). -/
def execFmin (nw : Bool) (d : Dst) (a b : Src) (s : State) : Host.Outcome State Fault Refusal :=
  binary false s nw d a b (map2 fmin32)

/-- FMAX (R106, R128). -/
def execFmax (nw : Bool) (d : Dst) (a b : Src) (s : State) : Host.Outcome State Fault Refusal :=
  binary false s nw d a b (map2 fmax32)

/-- FNEG (R128). -/
def execFneg (nw : Bool) (d : Dst) (a : Src) (s : State) : Host.Outcome State Fault Refusal :=
  unary false s nw d a (map1 fneg32)

/-- FABS (R128). -/
def execFabs (nw : Bool) (d : Dst) (a : Src) (s : State) : Host.Outcome State Fault Refusal :=
  unary false s nw d a (map1 fabs32)

/-- FRCP (R107). -/
def execFrcp (nw : Bool) (d : Dst) (a : Src) (s : State) : Host.Outcome State Fault Refusal :=
  unary false s nw d a (map1 frcp32)

/-- FRSQ (R107). -/
def execFrsq (nw : Bool) (d : Dst) (a : Src) (s : State) : Host.Outcome State Fault Refusal :=
  unary false s nw d a (map1 frsq32)

/-- FSQRT (R107). -/
def execFsqrt (nw : Bool) (d : Dst) (a : Src) (s : State) : Host.Outcome State Fault Refusal :=
  unary false s nw d a (map1 fsqrt32)

/-- FEXP2 (R107). -/
def execFexp2 (nw : Bool) (d : Dst) (a : Src) (s : State) : Host.Outcome State Fault Refusal :=
  unary false s nw d a (map1 fexp232)

/-- FLOG2 (R107). -/
def execFlog2 (nw : Bool) (d : Dst) (a : Src) (s : State) : Host.Outcome State Fault Refusal :=
  unary false s nw d a (map1 flog232)

/-- FSIN (R107). -/
def execFsin (nw : Bool) (d : Dst) (a : Src) (s : State) : Host.Outcome State Fault Refusal :=
  unary false s nw d a (map1 fsin32)

/-- FTANH (R107). -/
def execFtanh (nw : Bool) (d : Dst) (a : Src) (s : State) : Host.Outcome State Fault Refusal :=
  unary false s nw d a (map1 ftanh32)

/-! ## PK16 (R129) -/

/-- PACK2: the low halves of two words. -/
def packLow (a b : Word) : Word := (a &&& 0xFFFF#32) ||| (b <<< 16)

/-- HADD2.bf16 (R129). -/
def execHadd2Bf16 (nw : Bool) (d : Dst) (a b : Src) (s : State) : Host.Outcome State Fault Refusal :=
  binary false s nw d a b (map2 (fun x y => packed (hadd fBf16) x y 0#32))

/-- HMUL2.bf16 (R129). -/
def execHmul2Bf16 (nw : Bool) (d : Dst) (a b : Src) (s : State) : Host.Outcome State Fault Refusal :=
  binary false s nw d a b (map2 (fun x y => packed (hmul fBf16) x y 0#32))

/-- HFMA2.bf16 (R129: D read). -/
def execHfma2Bf16 (nw : Bool) (d : Dst) (a b : Src) (s : State) : Host.Outcome State Fault Refusal :=
  ternary false s nw d a b (packed (hfma fBf16))

/-- HMIN2.bf16 (R129). -/
def execHmin2Bf16 (nw : Bool) (d : Dst) (a b : Src) (s : State) : Host.Outcome State Fault Refusal :=
  binary false s nw d a b (map2 (fun x y => packed (hminmax fBf16 false) x y 0#32))

/-- HMAX2.bf16 (R129). -/
def execHmax2Bf16 (nw : Bool) (d : Dst) (a b : Src) (s : State) : Host.Outcome State Fault Refusal :=
  binary false s nw d a b (map2 (fun x y => packed (hminmax fBf16 true) x y 0#32))

/-- HADD2.f16 (R129). -/
def execHadd2F16 (nw : Bool) (d : Dst) (a b : Src) (s : State) : Host.Outcome State Fault Refusal :=
  binary false s nw d a b (map2 (fun x y => packed (hadd fF16) x y 0#32))

/-- HMUL2.f16 (R129). -/
def execHmul2F16 (nw : Bool) (d : Dst) (a b : Src) (s : State) : Host.Outcome State Fault Refusal :=
  binary false s nw d a b (map2 (fun x y => packed (hmul fF16) x y 0#32))

/-- HFMA2.f16 (R129: D read). -/
def execHfma2F16 (nw : Bool) (d : Dst) (a b : Src) (s : State) : Host.Outcome State Fault Refusal :=
  ternary false s nw d a b (packed (hfma fF16))

/-- HMIN2.f16 (R129). -/
def execHmin2F16 (nw : Bool) (d : Dst) (a b : Src) (s : State) : Host.Outcome State Fault Refusal :=
  binary false s nw d a b (map2 (fun x y => packed (hminmax fF16 false) x y 0#32))

/-- HMAX2.f16 (R129). -/
def execHmax2F16 (nw : Bool) (d : Dst) (a b : Src) (s : State) : Host.Outcome State Fault Refusal :=
  binary false s nw d a b (map2 (fun x y => packed (hminmax fF16 true) x y 0#32))

/-- PACK2 (R129). -/
def execPack2 (nw : Bool) (d : Dst) (a b : Src) (s : State) : Host.Outcome State Fault Refusal :=
  binary false s nw d a b (map2 packLow)

/-- UNPK.LO (R129). -/
def execUnpkLo (nw : Bool) (d : Dst) (a : Src) (s : State) : Host.Outcome State Fault Refusal :=
  unary false s nw d a (map1 (fun x => x &&& 0xFFFF#32))

/-- UNPK.HI (R129). -/
def execUnpkHi (nw : Bool) (d : Dst) (a : Src) (s : State) : Host.Outcome State Fault Refusal :=
  unary false s nw d a (map1 (fun x => x >>> 16))

/-! ## CVT (R130, R131) -/

/-- One conversion of a register value; a format onto itself keeps the source but for a NaN (R130). A code F stands for
no format (R88): the decoder refuses it. -/
def cvtWord (rnd src dst : Nat) (draw a : Word) : Word :=
  match fmtOf src, fmtOf dst with
  | some f, some g => g.extend (convert f g rnd draw (a.toNat % 2 ^ f.width) 0 false)
  | _, _ => a

/-- The generators after the lanes of a mask have stepped (R104). -/
def stepSrng (em : Mask) (g : List Word) : List Word :=
  (List.range 32).map fun l => if em.getLsbD l then srngStep (g.getD l 0#32) else g.getD l 0#32

/-- The result of CVT under rounding code 5: V, whatever the shape of A (R131). -/
def cvtStochastic (src dst : Nat) (draws : List Word) (a : Reg) : Reg :=
  vec fun l => cvtWord 5 src dst (draws.getD l 0#32) (a.lane l)

/-- CVT (R130, R131): under code 5 each lane of em steps its generator once, and none when trap 0x07 is raised. -/
def execCvt (nw : Bool) (d : Dst) (a : Src) (rnd src dst : Nat) (s : State) : Host.Outcome State Fault Refusal :=
  execute s { d := dstOp d, a := srcOp a, cob := true, em0 := if rnd = 5 then .skips else .uniform } fun c =>
    let x := c.read .a a
    if rnd = 5 then
      let g := stepSrng c.em c.warp.srng
      c.resultW s (fun w => { w with srng := g }) nw d false (cvtStochastic src dst g x)
    else c.result s nw d x.isU (map1 (cvtWord rnd src dst 0#32) x)

end Sys2Proof.Machine
end

