-- ==== Sys2Proof/Machine/Lane.lean ====
section
/-!
DEFINITION. Lane exchange and predicate logic: LANEX, PRED (spec 06 R150 to R155).
-/

namespace Sys2Proof.Machine

/-! ## Shuffles (R150) -/

/-- The result of a shuffle in a warp of `n` lanes (R301); `src` gives the source lane of a lane and its value of B, 32 or more
when there is none. -/
def shuffle (n : Nat) (em : Mask) (src : Nat → Nat → Nat) (a b : Reg) : Reg :=
  match a, b with
  | .u x, .u _ => .u x
  | _, _ => vec fun l =>
    let k := src l (b.lane l).toNat
    if k < n ∧ em.getLsbD k then a.lane k else a.lane l

/-- A LANEX instruction of two sources; it has no effect under em zero. -/
def exchange (s : State) (nw : Bool) (d : Dst) (a b : Src) (f : Nat → Mask → Reg → Reg → Reg) :
    Host.Outcome State Fault Refusal :=
  execute s { d := dstOp d, a := srcOp a, b := srcOp b } fun c =>
    c.result s nw d false (f c.warp.lanes c.em (c.read .a a) (c.read .b b))

/-- A LANEX instruction of one source. -/
def gather (s : State) (nw : Bool) (d : Dst) (a : Src) (f : Mask → Reg → Reg) : Host.Outcome State Fault Refusal :=
  execute s { d := dstOp d, a := srcOp a } fun c => c.result s nw d false (f c.em (c.read .a a))

/-- SHFL.IDX (R150). -/
def execShflIdx (nw : Bool) (d : Dst) (a b : Src) (s : State) : Host.Outcome State Fault Refusal :=
  exchange s nw d a b fun n em => shuffle n em fun _ b => b % 32

/-- SHFL.UP (R150). -/
def execShflUp (nw : Bool) (d : Dst) (a b : Src) (s : State) : Host.Outcome State Fault Refusal :=
  exchange s nw d a b fun n em => shuffle n em fun l b => if b ≤ l then l - b else 32

/-- SHFL.DN (R150). -/
def execShflDn (nw : Bool) (d : Dst) (a b : Src) (s : State) : Host.Outcome State Fault Refusal :=
  exchange s nw d a b fun n em => shuffle n em fun l b => l + b

/-- SHFL.XOR (R150). -/
def execShflXor (nw : Bool) (d : Dst) (a b : Src) (s : State) : Host.Outcome State Fault Refusal :=
  exchange s nw d a b fun n em => shuffle n em fun l b => l ^^^ (b % 32)

/-! ## Votes (R151) -/

/-- The lanes of em whose predicate holds. -/
def Iss.votes (c : Iss) (p : Nat) (inv : Bool) : Mask := c.pred p inv &&& c.em

/-- VOTE.BAL (R151). -/
def execVoteBal (nw : Bool) (d : Dst) (p : Nat) (inv : Bool) (s : State) : Host.Outcome State Fault Refusal :=
  execute s { d := dstOp d } fun c => c.result s nw d false (.u (c.votes p inv))

/-- VOTE.ANY (R151). -/
def execVoteAny (pd p : Nat) (inv : Bool) (s : State) : Host.Outcome State Fault Refusal :=
  execute s {} fun c => .ok (c.predResult s pd (if c.votes p inv = 0#32 then 0#32 else allLanes))

/-- VOTE.ALL (R151). -/
def execVoteAll (pd p : Nat) (inv : Bool) (s : State) : Host.Outcome State Fault Refusal :=
  execute s {} fun c => .ok (c.predResult s pd (if c.votes p inv = c.em then allLanes else 0#32))

/-! ## Reductions and prefix sums (R152) -/

/-- The values of a mask's lanes, in lane order. -/
def lanesIn (em : Mask) (a : Reg) : List Word := (lanesOf em).map a.lane

def sumWords (ws : List Word) : Word := ws.foldl (fun x y => x + y) 0#32

/-- The values combined by a choice of one of two. -/
def pickWords (f : Word → Word → Word) (ws : List Word) : Word :=
  match ws with
  | [] => 0#32
  | w :: t => t.foldl f w

/-- One level of the tree of REDUX.FADD: neighbours added. -/
def pairSums : List Word → List Word
  | a :: b :: t => fadd32 a b :: pairSums t
  | t => t

/-- The fixed tree of REDUX.FADD: lanes outside em contribute −0. -/
def faddTree (em : Mask) (a : Reg) : Word :=
  let v := (List.range 32).map fun l => if em.getLsbD l then a.lane l else 0x80000000#32
  (pairSums (pairSums (pairSums (pairSums (pairSums v))))).headD 0#32

/-- REDUX.ADD (R152). -/
def execReduxAdd (nw : Bool) (d : Dst) (a : Src) (s : State) : Host.Outcome State Fault Refusal :=
  gather s nw d a fun em x => .u (sumWords (lanesIn em x))

/-- REDUX.MIN (R152). -/
def execReduxMin (nw : Bool) (d : Dst) (a : Src) (nat : Bool) (s : State) : Host.Outcome State Fault Refusal :=
  gather s nw d a fun em x => .u (pickWords (if nat then minnW else minsW) (lanesIn em x))

/-- REDUX.MAX (R152). -/
def execReduxMax (nw : Bool) (d : Dst) (a : Src) (nat : Bool) (s : State) : Host.Outcome State Fault Refusal :=
  gather s nw d a fun em x => .u (pickWords (if nat then maxnW else maxsW) (lanesIn em x))

/-- REDUX.FADD (R152). -/
def execReduxFadd (nw : Bool) (d : Dst) (a : Src) (s : State) : Host.Outcome State Fault Refusal :=
  gather s nw d a fun em x => .u (faddTree em x)

/-- The sum of the lanes of a mask below lane `n`. -/
def sumBelow (em : Mask) (a : Reg) (n : Nat) : Word := sumWords (((lanesOf em).filter (· < n)).map a.lane)

/-- PFX.INC (R152): V whatever the shape of A. -/
def execPfxInc (nw : Bool) (d : Dst) (a : Src) (s : State) : Host.Outcome State Fault Refusal :=
  gather s nw d a fun em x => vec fun l => sumBelow em x (l + 1)

/-- PFX.EXC (R152). -/
def execPfxExc (nw : Bool) (d : Dst) (a : Src) (s : State) : Host.Outcome State Fault Refusal :=
  gather s nw d a fun em x => vec fun l => sumBelow em x l

/-! ## RBAL, MATCH, FIRST (R153, R154) -/

/-- The work items of the lanes of a mask below lane `n`, without wrap. -/
def workBelow (em : Mask) (a : Reg) (n : Nat) : Nat :=
  (((lanesOf em).filter (· < n)).map fun l => (a.lane l).toNat).foldl (· + ·) 0

/-- The owner and offset of work item `j` (R153); beyond the runs the owner is the number of lanes (R301). -/
def ownerOf (n : Nat) (em : Mask) (a : Reg) (j : Nat) : Nat × Nat :=
  let t := workBelow em a 32
  if t ≤ j then (n, j - t)
  else
    let own := (lanesOf em).find? fun o =>
      decide (workBelow em a o ≤ j) && decide (j < workBelow em a o + (a.lane o).toNat)
    match own with
    | some o => (o, j - workBelow em a o)
    | none => (n, 0)

/-- RBAL (R153): D and D + 1, both V. -/
def execRbal (d : Nat) (a b : Src) (s : State) : Host.Outcome State Fault Refusal :=
  execute s { d := pairOp d, a := srcOp a, b := srcOp b } fun c =>
    let x := c.read .a a
    let y := c.read .b b
    let own := fun l => ownerOf c.warp.lanes c.em x (y.lane l).toNat
    c.results s false
      [(c.place .d d 0, vec fun l => BitVec.ofNat 32 (own l).1), (c.place .d d 1, vec fun l => BitVec.ofNat 32 (own l).2)]

/-- The result of MATCH (R154). -/
def matchReg (em : Mask) (a : Reg) : Reg :=
  match a with
  | .u _ => .u em
  | a => vec fun l => maskWhere fun k => em.getLsbD k && a.lane k == a.lane l

/-- MATCH (R154). -/
def execMatchLanes (nw : Bool) (d : Dst) (a : Src) (s : State) : Host.Outcome State Fault Refusal :=
  gather s nw d a matchReg

/-- FIRST (R154). -/
def execFirstLane (nw : Bool) (d : Dst) (a : Src) (s : State) : Host.Outcome State Fault Refusal :=
  gather s nw d a fun em x => .u (x.lane (lowestLane em))

/-! ## PRED (R155) -/

/-- A function of two predicates on all bits (R32). -/
def predLogic (s : State) (pd pa pb : Nat) (f : Mask → Mask → Mask) : Host.Outcome State Fault Refusal :=
  execute s {} fun c => .ok (c.predAll s pd (f (c.warp.preds.getD pa 0#32) (c.warp.preds.getD pb 0#32)))

/-- PAND (R155). -/
def execPand (pd pa pb : Nat) (s : State) : Host.Outcome State Fault Refusal := predLogic s pd pa pb fun a b => a &&& b

/-- POR (R155). -/
def execPor (pd pa pb : Nat) (s : State) : Host.Outcome State Fault Refusal := predLogic s pd pa pb fun a b => a ||| b

/-- PXOR (R155). -/
def execPxor (pd pa pb : Nat) (s : State) : Host.Outcome State Fault Refusal := predLogic s pd pa pb fun a b => a ^^^ b

/-- PANDN (R155). -/
def execPandn (pd pa pb : Nat) (s : State) : Host.Outcome State Fault Refusal :=
  predLogic s pd pa pb fun a b => a &&& ~~~b

/-- PNOT (R155). -/
def execPnot (pd pa : Nat) (s : State) : Host.Outcome State Fault Refusal := predLogic s pd pa pa fun a _ => ~~~a

/-- PMOV (R155). -/
def execPmov (pd pa : Nat) (s : State) : Host.Outcome State Fault Refusal := predLogic s pd pa pa fun a _ => a

/-- The instruction completes with a new em for its split. -/
def Iss.setEm (c : Iss) (s : State) (m : Mask) : State := c.complete s (c.warp.mapSplit c.sp fun t => { t with em := m })

/-- EMSET (R155). -/
def execEmset (p : Nat) (inv : Bool) (s : State) : Host.Outcome State Fault Refusal :=
  execute s {} fun c => .ok (c.setEm s (c.em &&& c.pred p inv))

/-- EMREST (R155). -/
def execEmrest (s : State) : Host.Outcome State Fault Refusal :=
  execute s {} fun c => .ok (c.setEm s c.split.entry)

/-- EMGET (R155). -/
def execEmget (pd : Nat) (s : State) : Host.Outcome State Fault Refusal :=
  execute s {} fun c => .ok (c.predAll s pd c.em)

/-- LIVEGET (R155). -/
def execLiveget (pd : Nat) (s : State) : Host.Outcome State Fault Refusal :=
  execute s {} fun c => .ok (c.predAll s pd c.live)

/-- PFROMW.lanes and PFROMW.bits (R155). -/
def execPfromw (pd : Nat) (a : Src) (bitsForm : Bool) (s : State) : Host.Outcome State Fault Refusal :=
  execute s { a := srcOp a, em0 := if bitsForm then .always else .skips } fun c =>
    let x := c.read .a a
    if bitsForm then do
      let v ← needU x
      return c.predAll s pd (BitVec.ofNat 32 v)
    else .ok (c.predResult s pd (nonzeroLanes x))

/-- PTOW.lanes and PTOW.bits (R155). -/
def execPtow (nw : Bool) (d : Dst) (p : Nat) (bitsForm : Bool) (s : State) : Host.Outcome State Fault Refusal :=
  execute s { d := dstOp d } fun c =>
    let m := c.warp.preds.getD p 0#32
    if bitsForm then c.result s nw d true (.u m)
    else c.result s nw d false (vec fun l => if m.getLsbD l then 1#32 else 0#32)

/-- PPOPC (R155). -/
def execPpopc (nw : Bool) (d : Dst) (p : Nat) (s : State) : Host.Outcome State Fault Refusal :=
  execute s { d := dstOp d } fun c =>
    c.result s nw d true (.u (BitVec.ofNat 32 (popc (c.warp.preds.getD p 0#32 &&& c.em))))

end Sys2Proof.Machine
end

