-- ==== Sys2Proof/Machine/Sieve.lean ====
section
/-!
DEFINITION. The Sieve: SVLD in its four modes (spec 04 R99, R100, R110; 07 R205 to R208; 13 R322, R323).
-/

namespace Sys2Proof.Machine

/-! ## Reading through the Sieve's cache (R208) -/

/-- The rights a Sieve access is checked against: those of a line of its cache or of L2, else of the translation. -/
def sieveLeaf (s : State) (k cx va : Nat) : Walk :=
  match (s.cluster k).sieve.find? (isLine (s.asid cx) (lineOf va)) with
  | some x => .leaf x.leaf
  | none =>
    match s.l2Line? (s.asid cx) (lineOf va) with
    | some x => .leaf x.leaf
    | none => translate s cx va

/-- The first check that a part of a Sieve access fails. -/
def Iss.sieveCheck (c : Iss) (s : State) (va : Nat) : Option Nat :=
  if 2 ^ 56 ≤ va then some 1
  else leafCheck s (s.ctxOf c.warp) c.warp.pkr .read va (sieveLeaf s c.cluster (s.ctxOf c.warp) va)

/-- The earliest check that some runs fail, with the address of the first part that fails it (R207). -/
def Iss.sieveFailure (c : Iss) (s : State) (runs : List (Nat × Nat)) : Option (Nat × Nat) :=
  worstRow ((runs.flatMap fun r => lineParts r.1 r.2).map fun va => (va, c.sieveCheck s va))

/-- Bytes read through the Sieve's cache, with their poison marks. -/
def sieveBytes (s : State) (k cx : Nat) (as : List Nat) : State × List (Nat × Byte × Bool) :=
  let r := (linesOf as).foldl (fun (acc : State × List (Nat × Line)) va =>
    let l := match sieveLeaf acc.1 k cx va with | .leaf l => l | _ => peerLeaf 0
    let x := sieveLine acc.1 k cx l va
    (x.1, (va, x.2) :: acc.2)) (s, [])
  (r.1, as.map fun a =>
    match r.2.find? fun e => e.1 == lineOf a with
    | some e => (a, e.2.bytes.getD (a % 128) 0#8, e.2.poison.getD (a % 128 / 32) false)
    | none => (a, 0#8, false))

/-- A byte of a run already read, and its mark. -/
def gotByte (bs : List (Nat × Byte × Bool)) (a : Nat) : Byte := (laneOf bs a (0#8, false)).1
def gotPoison (bs : List (Nat × Byte × Bool)) (r : Nat × Nat) : Bool :=
  (List.range r.2).any fun i => (laneOf bs (r.1 + i) (0#8, false)).2

/-- The addresses of some runs. -/
def runAddrs (runs : List (Nat × Nat)) : List Nat := runs.flatMap fun r => (List.range r.2).map fun i => r.1 + i

/-- A peer in recovery that a Sieve access waits for (R411). -/
def sieveWait (s : State) (k cx va : Nat) : Option Nat :=
  match (s.cluster k).sieve.find? (isLine (s.asid cx) (lineOf va)), homeOf ((s.ctx cx).placement va) va with
  | none, .peer p => if s.fw.inRecovery.any fun r => r.peer == p then some p else none
  | _, _ => none

/-! ## The descriptor (R205) -/

structure Tensor where
  base : Nat
  ext : Nat × Nat × Nat
  fmt : Nat
  str : Nat × Nat
  aux : Nat
  astr : Nat × Nat
  nkeep : Nat
  deriving DecidableEq, Repr

def tensorOf (w : Nat → Nat) : Tensor :=
  { base := w 0 + 2 ^ 32 * bitsN (w 1) 0 24, ext := (bitsN (w 2) 0 24, bitsN (w 3) 0 24, bitsN (w 4) 0 24)
    fmt := bitsN (w 2) 24 4, str := (w 5, w 6), aux := w 7 + 2 ^ 32 * bitsN (w 8) 0 24, astr := (w 9, w 10)
    nkeep := bitsN (w 11) 0 5 }

/-- The modes of R206. -/
inductive SvMode where
  | plain | n48 | q4 | mx
  deriving DecidableEq, Repr

/-- The format a mode requires. -/
def SvMode.takes (m : SvMode) (fmt : Nat) : Bool :=
  match m with
  | .q4 => fmt == 11
  | .mx => fmt == 5 || fmt == 7
  | _ => fmt != 15

/-- The first descriptor word at fault (R183, R205, R206). -/
def tensorBadWord (m : SvMode) (w : Nat → Nat) : Option Nat :=
  let t := tensorOf w
  ([(1, bitsN (w 1) 24 8 != 0), (2, t.ext.1 == 0 || !m.takes t.fmt || bitsN (w 2) 28 4 != 0),
    (3, t.ext.2.1 == 0 || bitsN (w 3) 24 8 != 0), (4, t.ext.2.2 == 0 || bitsN (w 4) 24 8 != 0),
    (8, bitsN (w 8) 24 8 != 0),
    (11, bitsN (w 11) 5 27 != 0 || (if m = .n48 then t.nkeep == 0 || decide (24 < t.nkeep) else t.nkeep != 0)),
    (12, w 12 != 0), (13, w 13 != 0), (14, w 14 != 0), (15, w 15 != 0)].find? fun e => e.2).map Prod.fst

/-! ## What a lane reads and gets (R206) -/

/-- Rows of data and of auxiliary data. -/
def Tensor.row (t : Tensor) (y z : Nat) : Nat := t.base + y * t.str.1 + z * t.str.2
def Tensor.auxRow (t : Tensor) (y z : Nat) : Nat := t.aux + y * t.astr.1 + z * t.astr.2

/-- The run of element `i` of a row. -/
def Tensor.run (t : Tensor) (row i : Nat) : Nat × Nat :=
  let e := elemSpan (fmtCode t.fmt) i
  (row + e.1, e.2)

/-- The auxiliary run a lane reads first: a mask in mode n48. -/
def Tensor.maskRun (t : Tensor) (m : SvMode) (x y z : Nat) : List (Nat × Nat) :=
  if m = .n48 then [(t.auxRow y z + 6 * (x / 48), 6)] else []

/-- The mask of a lane's group. -/
def Tensor.mask (t : Tensor) (bs : List (Nat × Byte × Bool)) (x y z : Nat) : Nat :=
  maskAt (gotByte bs) (t.auxRow y z + 6 * (x / 48))

/-- The element a lane reads, if any: in mode n48 as its mask selects. -/
def Tensor.index (t : Tensor) (m : SvMode) (bs : List (Nat × Byte × Bool)) (x y z : Nat) : Option Nat :=
  if m = .n48 then
    let k := t.mask bs x y z
    if rankBelow k 48 ≠ t.nkeep || bitsN k (x % 48) 1 = 0 then none
    else some (x / 48 * t.nkeep + rankBelow k (x % 48))
  else some x

/-- The other runs a lane reads, in the order of R206. -/
def Tensor.runs (t : Tensor) (m : SvMode) (bs : List (Nat × Byte × Bool)) (x y z : Nat) : List (Nat × Nat) :=
  let e := ((t.index m bs x y z).map fun i => t.run (t.row y z) i).toList
  match m with
  | .q4 => e ++ [(t.auxRow y z + 4 * (x / 32), 3)]
  | .mx => (t.auxRow y z + x / 32, 1) :: e
  | _ => e

/-- A lane's result. -/
def Tensor.value (t : Tensor) (m : SvMode) (bs : List (Nat × Byte × Bool)) (x y z : Nat) : Word :=
  let f := fmtCode t.fmt
  let elem := fun i => elemAt (fun b => gotByte bs (t.row y z + b)) f i
  match t.index m bs x y z with
  | none => if rankBelow (t.mask bs x y z) 48 ≠ t.nkeep then 0xFFFFFFFF#32 else 0#32
  | some i =>
    match m with
    | .q4 =>
      let a := t.auxRow y z + 4 * (x / 32)
      BitVec.ofNat 32 (q4Weight (elem i) ((gotByte bs a).toNat + 256 * (gotByte bs (a + 1)).toNat)
        ((gotByte bs (a + 2)).toNat % 16))
    | .mx =>
      let v := (gotByte bs (t.auxRow y z + x / 32)).toNat
      if v = 255 then 0x7FC00000#32 else toF32 ((f.value (elem i)).scale2 ((v : Int) - 127))
    | _ => f.extend (elem i)

/-! ## SVLD -/

/-- A failing part of SVLD, by lanes: none for a lane with nothing to read. -/
def Iss.sieveTrap (c : Iss) (s : State) (runs : Nat → List (Nat × Nat)) : Except Trap Unit :=
  let bad := fun l => c.sieveFailure s (runs l)
  c.laneTrap (fun l => (bad l).map Prod.fst) (fun l => ((bad l).map Prod.snd).getD 0) fun n lanes =>
    if n = 4 then
      some (postMalformed s (s.ctxOf c.warp) ((lanesOf lanes).flatMap fun l => (runs l).flatMap fun r => lineParts r.1 r.2)
        (whoIs s c.warp 0))
    else none

/-- The parts of some runs that wait for peers in recovery: the peer and the part's address. -/
def Iss.sievePeers (c : Iss) (s : State) (runs : List (Nat × Nat)) : List (Nat × Nat) :=
  (runs.flatMap fun r => lineParts r.1 r.2).filterMap fun va =>
    (sieveWait s c.cluster (s.ctxOf c.warp) va).map fun p => (p, va)

/-- A split waits for peers in recovery before a Sieve access, with each lane's first part that waits for each (R207, R411). -/
def Iss.sieveWaits (c : Iss) (s : State) (runs : Nat → List (Nat × Nat)) : Option State :=
  c.awaitPeers s ((lanesOf c.em).flatMap fun l => (c.sievePeers s (runs l)).map fun e => (l, e))

/-- The lanes of a gather after its descriptor is known. A mask that fails a check, or that waits for a peer, is not read, and its
lane's element is not known: the checks of what is known come first, in the order of R169, and then the wait (R207, R224). -/
def Iss.gather (c : Iss) (s : State) (m : SvMode) (nw : Bool) (d : Dst) (b : Nat) (t : Tensor) : Res := do
  let cx := s.ctxOf c.warp
  let at_ := fun j l => ((c.regAt .b b j).lane l).toNat
  let inside := fun l => decide (at_ 0 l < t.ext.1) && decide (at_ 1 l < t.ext.2.1) && decide (at_ 2 l < t.ext.2.2)
  let pick := fun (l : Nat) (r : List (Nat × Nat)) => if inside l then r else []
  let masks := fun l => pick l (t.maskRun m (at_ 0 l) (at_ 1 l) (at_ 2 l))
  let fine := (lanesOf c.em).filter fun l => (c.sieveFailure s (masks l)).isNone && (c.sievePeers s (masks l)).isEmpty
  let r1 := sieveBytes s c.cluster cx (runAddrs (fine.flatMap masks)).eraseDups
  let runs := fun l =>
    masks l ++ if fine.contains l then pick l (t.runs m r1.2 (at_ 0 l) (at_ 1 l) (at_ 2 l)) else []
  c.sieveTrap r1.1 runs
  match c.sieveWaits r1.1 runs with
  | some p => return p
  | none =>
    let r := sieveBytes r1.1 c.cluster cx (runAddrs ((lanesOf c.em).flatMap runs)).eraseDups
    c.poisonTrap (fun l => ((runs l).headD (0, 0)).1) ((lanesOf c.em).filter fun l => (runs l).any (gotPoison r.2))
    let val := fun l => if inside l then t.value m r.2 (at_ 0 l) (at_ 1 l) (at_ 2 l) else 0#32
    let unif := (List.range 3).all fun j => (c.regAt .b b j).isU
    c.finishLoad r.1 nw (.one d) .w32 fun _ => if unif then .u (val c.first) else vec val

/-- SVLD (R205 to R208). -/
def sieve (s : State) (m : SvMode) (nw : Bool) (d : Dst) (a b : Nat) : Host.Outcome State Fault Refusal :=
  execute s { d := dstOp d, a := pairOp a, b := .win b 3 1 1, cob := true, compared := true } fun c =>
    if c.em = 0#32 then .ok (c.complete s c.warp)
    else do
      let h ← c.pairU .a a
      if 2 ^ 56 ≤ h then .error (addrTrap 0x1A h none)
      else if h % 64 ≠ 0 then .error (addrTrap 0x09 h none)
      else do
        let desc := fun (_ : Nat) => [(h, 64)]
        c.sieveTrap s desc
        match c.sieveWaits s desc with
        | some p => return p
        | none =>
          let r := sieveBytes s c.cluster (s.ctxOf c.warp) ((List.range 64).map fun i => h + i)
          if gotPoison r.2 (h, 64) then .error (addrTrap 0x15 h none)
          else
            let w := fun i => leNat ((List.range 4).map fun j => gotByte r.2 (h + 4 * i + j))
            match tensorBadWord m w with
            | some i => trapW 0x02 i
            | none => c.gather r.1 m nw d b (tensorOf w)

/-- SVLD.plain. -/
def execSvldPlain (nw : Bool) (d : Dst) (a b : Nat) (s : State) : Host.Outcome State Fault Refusal :=
  sieve s .plain nw d a b

/-- SVLD.n48. -/
def execSvldN48 (nw : Bool) (d : Dst) (a b : Nat) (s : State) : Host.Outcome State Fault Refusal := sieve s .n48 nw d a b

/-- SVLD.q4. -/
def execSvldQ4 (nw : Bool) (d : Dst) (a b : Nat) (s : State) : Host.Outcome State Fault Refusal := sieve s .q4 nw d a b

/-- SVLD.mx. -/
def execSvldMx (nw : Bool) (d : Dst) (a b : Nat) (s : State) : Host.Outcome State Fault Refusal := sieve s .mx nw d a b

end Sys2Proof.Machine
end

