-- ==== Sys2Proof/Machine/Dispatch.lean ====
section
/-!
DEFINITION. One arm per instruction and event of the opcode table: the direct call of its meaning.
-/

namespace Sys2Proof.Machine

def exec (i : Instr) (s : State) : Host.Outcome State Fault Refusal :=
  match i with
  | .add nw d a b => Sys2Proof.Machine.execAdd nw d a b s
  | .sub nw d a b => Sys2Proof.Machine.execSub nw d a b s
  | .mul nw d a b => Sys2Proof.Machine.execMul nw d a b s
  | .mulhS nw d a b => Sys2Proof.Machine.execMulhS nw d a b s
  | .mulhN nw d a b => Sys2Proof.Machine.execMulhN nw d a b s
  | .mad nw d a b => Sys2Proof.Machine.execMad nw d a b s
  | .divS nw d a b => Sys2Proof.Machine.execDivS nw d a b s
  | .divN nw d a b => Sys2Proof.Machine.execDivN nw d a b s
  | .remS nw d a b => Sys2Proof.Machine.execRemS nw d a b s
  | .remN nw d a b => Sys2Proof.Machine.execRemN nw d a b s
  | .minS nw d a b => Sys2Proof.Machine.execMinS nw d a b s
  | .minN nw d a b => Sys2Proof.Machine.execMinN nw d a b s
  | .maxS nw d a b => Sys2Proof.Machine.execMaxS nw d a b s
  | .maxN nw d a b => Sys2Proof.Machine.execMaxN nw d a b s
  | .addsS nw d a b => Sys2Proof.Machine.execAddsS nw d a b s
  | .subsS nw d a b => Sys2Proof.Machine.execSubsS nw d a b s
  | .andR nw d a b => Sys2Proof.Machine.execAndR nw d a b s
  | .orR nw d a b => Sys2Proof.Machine.execOrR nw d a b s
  | .xorR nw d a b => Sys2Proof.Machine.execXorR nw d a b s
  | .andn nw d a b => Sys2Proof.Machine.execAndn nw d a b s
  | .orn nw d a b => Sys2Proof.Machine.execOrn nw d a b s
  | .xnor nw d a b => Sys2Proof.Machine.execXnor nw d a b s
  | .shl nw d a b => Sys2Proof.Machine.execShl nw d a b s
  | .shr nw d a b => Sys2Proof.Machine.execShr nw d a b s
  | .sar nw d a b => Sys2Proof.Machine.execSar nw d a b s
  | .rotl nw d a b => Sys2Proof.Machine.execRotl nw d a b s
  | .clz nw d a => Sys2Proof.Machine.execClz nw d a s
  | .popc nw d a => Sys2Proof.Machine.execPopc nw d a s
  | .brev nw d a => Sys2Proof.Machine.execBrev nw d a s
  | .bfxN nw d a b => Sys2Proof.Machine.execBfxN nw d a b s
  | .bfxS nw d a b => Sys2Proof.Machine.execBfxS nw d a b s
  | .bfi nw d a b => Sys2Proof.Machine.execBfi nw d a b s
  | .addi nw d a imm => Sys2Proof.Machine.execAddi nw d a imm s
  | .muli nw d a imm => Sys2Proof.Machine.execMuli nw d a imm s
  | .andi nw d a imm => Sys2Proof.Machine.execAndi nw d a imm s
  | .ori nw d a imm => Sys2Proof.Machine.execOri nw d a imm s
  | .xori nw d a imm => Sys2Proof.Machine.execXori nw d a imm s
  | .shiShl nw d a amt => Sys2Proof.Machine.execShiShl nw d a amt s
  | .shiShr nw d a amt => Sys2Proof.Machine.execShiShr nw d a amt s
  | .shiSar nw d a amt => Sys2Proof.Machine.execShiSar nw d a amt s
  | .shiRotl nw d a amt => Sys2Proof.Machine.execShiRotl nw d a amt s
  | .li nw d imm => Sys2Proof.Machine.execLi nw d imm s
  | .movs nw d imm => Sys2Proof.Machine.execMovs nw d imm s
  | .cmp cond pd a b pc cmb => Sys2Proof.Machine.execCmp cond pd a b pc cmb s
  | .cmpi cond pd a imm => Sys2Proof.Machine.execCmpi cond pd a imm s
  | .fadd nw d a b => Sys2Proof.Machine.execFadd nw d a b s
  | .fsub nw d a b => Sys2Proof.Machine.execFsub nw d a b s
  | .fmul nw d a b => Sys2Proof.Machine.execFmul nw d a b s
  | .fma nw d a b => Sys2Proof.Machine.execFma nw d a b s
  | .fms nw d a b => Sys2Proof.Machine.execFms nw d a b s
  | .fmin nw d a b => Sys2Proof.Machine.execFmin nw d a b s
  | .fmax nw d a b => Sys2Proof.Machine.execFmax nw d a b s
  | .fneg nw d a => Sys2Proof.Machine.execFneg nw d a s
  | .fabs nw d a => Sys2Proof.Machine.execFabs nw d a s
  | .frcp nw d a => Sys2Proof.Machine.execFrcp nw d a s
  | .frsq nw d a => Sys2Proof.Machine.execFrsq nw d a s
  | .fsqrt nw d a => Sys2Proof.Machine.execFsqrt nw d a s
  | .fexp2 nw d a => Sys2Proof.Machine.execFexp2 nw d a s
  | .flog2 nw d a => Sys2Proof.Machine.execFlog2 nw d a s
  | .fsin nw d a => Sys2Proof.Machine.execFsin nw d a s
  | .ftanh nw d a => Sys2Proof.Machine.execFtanh nw d a s
  | .fcmp cond pd a b pc cmb => Sys2Proof.Machine.execFcmp cond pd a b pc cmb s
  | .hadd2Bf16 nw d a b => Sys2Proof.Machine.execHadd2Bf16 nw d a b s
  | .hmul2Bf16 nw d a b => Sys2Proof.Machine.execHmul2Bf16 nw d a b s
  | .hfma2Bf16 nw d a b => Sys2Proof.Machine.execHfma2Bf16 nw d a b s
  | .hmin2Bf16 nw d a b => Sys2Proof.Machine.execHmin2Bf16 nw d a b s
  | .hmax2Bf16 nw d a b => Sys2Proof.Machine.execHmax2Bf16 nw d a b s
  | .hadd2F16 nw d a b => Sys2Proof.Machine.execHadd2F16 nw d a b s
  | .hmul2F16 nw d a b => Sys2Proof.Machine.execHmul2F16 nw d a b s
  | .hfma2F16 nw d a b => Sys2Proof.Machine.execHfma2F16 nw d a b s
  | .hmin2F16 nw d a b => Sys2Proof.Machine.execHmin2F16 nw d a b s
  | .hmax2F16 nw d a b => Sys2Proof.Machine.execHmax2F16 nw d a b s
  | .pack2 nw d a b => Sys2Proof.Machine.execPack2 nw d a b s
  | .unpkLo nw d a => Sys2Proof.Machine.execUnpkLo nw d a s
  | .unpkHi nw d a => Sys2Proof.Machine.execUnpkHi nw d a s
  | .cvt nw d a rnd src dst => Sys2Proof.Machine.execCvt nw d a rnd src dst s
  | .sel nw d a b p inv => Sys2Proof.Machine.execSel nw d a b p inv s
  | .shq nw d a => Sys2Proof.Machine.execShq nw d a s
  | .shaU a => Sys2Proof.Machine.execShaU a s
  | .shaA a => Sys2Proof.Machine.execShaA a s
  | .shaC a => Sys2Proof.Machine.execShaC a s
  | .shfU nw d a => Sys2Proof.Machine.execShfU nw d a s
  | .shfA nw d a => Sys2Proof.Machine.execShfA nw d a s
  | .shw d n => Sys2Proof.Machine.execShw d n s
  | .shn nw d => Sys2Proof.Machine.execShn nw d s
  | .wbase a => Sys2Proof.Machine.execWbase a s
  | .wbasei delta => Sys2Proof.Machine.execWbasei delta s
  | .wqry nw d => Sys2Proof.Machine.execWqry nw d s
  | .ixset a k => Sys2Proof.Machine.execIxset a k s
  | .ixget nw d k => Sys2Proof.Machine.execIxget nw d k s
  | .rgive a imm => Sys2Proof.Machine.execRgive a imm s
  | .rclaim a imm => Sys2Proof.Machine.execRclaim a imm s
  | .rquota nw d => Sys2Proof.Machine.execRquota nw d s
  | .allotq nw d => Sys2Proof.Machine.execAllotq nw d s
  | .shflIdx nw d a b => Sys2Proof.Machine.execShflIdx nw d a b s
  | .shflUp nw d a b => Sys2Proof.Machine.execShflUp nw d a b s
  | .shflDn nw d a b => Sys2Proof.Machine.execShflDn nw d a b s
  | .shflXor nw d a b => Sys2Proof.Machine.execShflXor nw d a b s
  | .voteBal nw d p inv => Sys2Proof.Machine.execVoteBal nw d p inv s
  | .voteAny pd p inv => Sys2Proof.Machine.execVoteAny pd p inv s
  | .voteAll pd p inv => Sys2Proof.Machine.execVoteAll pd p inv s
  | .reduxAdd nw d a => Sys2Proof.Machine.execReduxAdd nw d a s
  | .reduxMin nw d a nat => Sys2Proof.Machine.execReduxMin nw d a nat s
  | .reduxMax nw d a nat => Sys2Proof.Machine.execReduxMax nw d a nat s
  | .reduxFadd nw d a => Sys2Proof.Machine.execReduxFadd nw d a s
  | .pfxInc nw d a => Sys2Proof.Machine.execPfxInc nw d a s
  | .pfxExc nw d a => Sys2Proof.Machine.execPfxExc nw d a s
  | .rbal d a b => Sys2Proof.Machine.execRbal d a b s
  | .matchLanes nw d a => Sys2Proof.Machine.execMatchLanes nw d a s
  | .firstLane nw d a => Sys2Proof.Machine.execFirstLane nw d a s
  | .pand pd pa pb => Sys2Proof.Machine.execPand pd pa pb s
  | .por pd pa pb => Sys2Proof.Machine.execPor pd pa pb s
  | .pxor pd pa pb => Sys2Proof.Machine.execPxor pd pa pb s
  | .pandn pd pa pb => Sys2Proof.Machine.execPandn pd pa pb s
  | .pnot pd pa => Sys2Proof.Machine.execPnot pd pa s
  | .pmov pd pa => Sys2Proof.Machine.execPmov pd pa s
  | .emset p inv => Sys2Proof.Machine.execEmset p inv s
  | .emget pd => Sys2Proof.Machine.execEmget pd s
  | .pfromw pd a bitsForm => Sys2Proof.Machine.execPfromw pd a bitsForm s
  | .ptow nw d p bitsForm => Sys2Proof.Machine.execPtow nw d p bitsForm s
  | .ppopc nw d p => Sys2Proof.Machine.execPpopc nw d p s
  | .liveget pd => Sys2Proof.Machine.execLiveget pd s
  | .emrest => Sys2Proof.Machine.execEmrest s
  | .mfs nw d num => Sys2Proof.Machine.execMfs nw d num s
  | .mts d num => Sys2Proof.Machine.execMts d num s
  | .rte skip => Sys2Proof.Machine.execRte skip s
  | .pkset a => Sys2Proof.Machine.execPkset a s
  | .pkdrop a => Sys2Proof.Machine.execPkdrop a s
  | .pmap d a => Sys2Proof.Machine.execPmap d a s
  | .waitf d a access => Sys2Proof.Machine.execWaitf d a access s
  | .haltw a => Sys2Proof.Machine.execHaltw a s
  | .scpq nw d n => Sys2Proof.Machine.execScpq nw d n s
  | .timerd d => Sys2Proof.Machine.execTimerd d s
  | .bmode d a b => Sys2Proof.Machine.execBmode d a b s
  | .bra off => Sys2Proof.Machine.execBra off s
  | .brd p n tgt rcv => Sys2Proof.Machine.execBrd p n tgt rcv s
  | .call d imm => Sys2Proof.Machine.execCall d imm s
  | .brx a => Sys2Proof.Machine.execBrx a s
  | .callx d a => Sys2Proof.Machine.execCallx d a s
  | .ret a => Sys2Proof.Machine.execRet a s
  | .nop => Sys2Proof.Machine.execNop s
  | .exit => Sys2Proof.Machine.execExit s
  | .yield => Sys2Proof.Machine.execYield s
  | .brk => Sys2Proof.Machine.execBrk s
  | .sleep a => Sys2Proof.Machine.execSleep a s
  | .trap code => Sys2Proof.Machine.execTrap code s
  | .bar pd idx => Sys2Proof.Machine.execBar pd idx s
  | .wsync => Sys2Proof.Machine.execWsync s
  | .cbrun nw d a b => Sys2Proof.Machine.execCbrun nw d a b s
  | .cbend => Sys2Proof.Machine.execCbend s
  | .cbstat nw d => Sys2Proof.Machine.execCbstat nw d s
  | .prog a => Sys2Proof.Machine.execProg a s
  | .ldg nw w d a b h => Sys2Proof.Machine.execLdg nw w d a b h s
  | .stg w d a b h => Sys2Proof.Machine.execStg w d a b h s
  | .lds nw w d a b => Sys2Proof.Machine.execLds nw w d a b s
  | .sts w d a b => Sys2Proof.Machine.execSts w d a b s
  | .ldp nw w d a b h => Sys2Proof.Machine.execLdp nw w d a b h s
  | .stp w d a b h => Sys2Proof.Machine.execStp w d a b h s
  | .pref a b h => Sys2Proof.Machine.execPref a b h s
  | .demote a b h => Sys2Proof.Machine.execDemote a b h s
  | .cleanl a b h => Sys2Proof.Machine.execCleanl a b h s
  | .invl a b h => Sys2Proof.Machine.execInvl a b h s
  | .atomiAdd d a b sc => Sys2Proof.Machine.execAtomiAdd d a b sc s
  | .atomiInc d a b sc => Sys2Proof.Machine.execAtomiInc d a b sc s
  | .atomiDec d a b sc => Sys2Proof.Machine.execAtomiDec d a b sc s
  | .atomiXchg d a b sc => Sys2Proof.Machine.execAtomiXchg d a b sc s
  | .atomlAnd d a b sc => Sys2Proof.Machine.execAtomlAnd d a b sc s
  | .atomlOr d a b sc => Sys2Proof.Machine.execAtomlOr d a b sc s
  | .atomlXor d a b sc => Sys2Proof.Machine.execAtomlXor d a b sc s
  | .atomlCas d a b sc => Sys2Proof.Machine.execAtomlCas d a b sc s
  | .atommMinS d a b sc => Sys2Proof.Machine.execAtommMinS d a b sc s
  | .atommMinN d a b sc => Sys2Proof.Machine.execAtommMinN d a b sc s
  | .atommMaxS d a b sc => Sys2Proof.Machine.execAtommMaxS d a b sc s
  | .atommMaxN d a b sc => Sys2Proof.Machine.execAtommMaxN d a b sc s
  | .atomfFaddF32 d a b sc => Sys2Proof.Machine.execAtomfFaddF32 d a b sc s
  | .atomfFaddBf16x2 d a b sc => Sys2Proof.Machine.execAtomfFaddBf16x2 d a b sc s
  | .atomfFminF32 d a b sc => Sys2Proof.Machine.execAtomfFminF32 d a b sc s
  | .atomfFmaxF32 d a b sc => Sys2Proof.Machine.execAtomfFmaxF32 d a b sc s
  | .atomsAdd nw d a b => Sys2Proof.Machine.execAtomsAdd nw d a b s
  | .atomsInc nw d a b => Sys2Proof.Machine.execAtomsInc nw d a b s
  | .atomsDec nw d a b => Sys2Proof.Machine.execAtomsDec nw d a b s
  | .atomsXchg nw d a b => Sys2Proof.Machine.execAtomsXchg nw d a b s
  | .atomsAnd nw d a b => Sys2Proof.Machine.execAtomsAnd nw d a b s
  | .atomsOr nw d a b => Sys2Proof.Machine.execAtomsOr nw d a b s
  | .atomsXor nw d a b => Sys2Proof.Machine.execAtomsXor nw d a b s
  | .atomsCas nw d a b => Sys2Proof.Machine.execAtomsCas nw d a b s
  | .atomsMinS nw d a b => Sys2Proof.Machine.execAtomsMinS nw d a b s
  | .atomsMinN nw d a b => Sys2Proof.Machine.execAtomsMinN nw d a b s
  | .atomsMaxS nw d a b => Sys2Proof.Machine.execAtomsMaxS nw d a b s
  | .atomsMaxN nw d a b => Sys2Proof.Machine.execAtomsMaxN nw d a b s
  | .atomsFaddF32 nw d a b => Sys2Proof.Machine.execAtomsFaddF32 nw d a b s
  | .atomsFaddBf16x2 nw d a b => Sys2Proof.Machine.execAtomsFaddBf16x2 nw d a b s
  | .phrel sc => Sys2Proof.Machine.execPhrel sc s
  | .phacq sc => Sys2Proof.Machine.execPhacq sc s
  | .phar sc => Sys2Proof.Machine.execPhar sc s
  | .boinit a b => Sys2Proof.Machine.execBoinit a b s
  | .boarr pd a b => Sys2Proof.Machine.execBoarr pd a b s
  | .boexp a b => Sys2Proof.Machine.execBoexp a b s
  | .boarx pd a b => Sys2Proof.Machine.execBoarx pd a b s
  | .bowait pd a b => Sys2Proof.Machine.execBowait pd a b s
  | .botest pd a b => Sys2Proof.Machine.execBotest pd a b s
  | .bostat d a => Sys2Proof.Machine.execBostat d a s
  | .qpush a q => Sys2Proof.Machine.execQpush a q s
  | .qpop nw d q => Sys2Proof.Machine.execQpop nw d q s
  | .qpushn d a q => Sys2Proof.Machine.execQpushn d a q s
  | .qpopn d q => Sys2Proof.Machine.execQpopn d q s
  | .qallow a q => Sys2Proof.Machine.execQallow a q s
  | .qcfg a q => Sys2Proof.Machine.execQcfg a q s
  | .qstat nw d q => Sys2Proof.Machine.execQstat nw d q s
  | .qbreak q => Sys2Proof.Machine.execQbreak q s
  | .cpy a => Sys2Proof.Machine.execCpy a s
  | .cpyx a => Sys2Proof.Machine.execCpyx a s
  | .wtany a => Sys2Proof.Machine.execWtany a s
  | .wtall a => Sys2Proof.Machine.execWtall a s
  | .wtff nw d a => Sys2Proof.Machine.execWtff nw d a s
  | .tagclr a => Sys2Proof.Machine.execTagclr a s
  | .tagrd nw d k => Sys2Proof.Machine.execTagrd nw d k s
  | .cpyq nw d => Sys2Proof.Machine.execCpyq nw d s
  | .svldPlain nw d a b => Sys2Proof.Machine.execSvldPlain nw d a b s
  | .svldN48 nw d a b => Sys2Proof.Machine.execSvldN48 nw d a b s
  | .svldQ4 nw d a b => Sys2Proof.Machine.execSvldQ4 nw d a b s
  | .svldMx nw d a b => Sys2Proof.Machine.execSvldMx nw d a b s
  | .tshape t a => Sys2Proof.Machine.execTshape t a s
  | .tfmt t a => Sys2Proof.Machine.execTfmt t a s
  | .tscale t a => Sys2Proof.Machine.execTscale t a s
  | .tqry d t => Sys2Proof.Machine.execTqry d t s
  | .tzero t => Sys2Proof.Machine.execTzero t s
  | .ttrn t u => Sys2Proof.Machine.execTtrn t u s
  | .tcvt t a u => Sys2Proof.Machine.execTcvt t a u s
  | .trowr d a t => Sys2Proof.Machine.execTrowr d a t s
  | .troww t a b => Sys2Proof.Machine.execTroww t a b s
  | .tld t a b => Sys2Proof.Machine.execTld t a b s
  | .tst t a b => Sys2Proof.Machine.execTst t a b s
  | .mmaBf16 acc clr ta tb => Sys2Proof.Machine.execMmaBf16 acc clr ta tb s
  | .mmaF16 acc clr ta tb => Sys2Proof.Machine.execMmaF16 acc clr ta tb s
  | .mmaE4m3 acc clr ta tb => Sys2Proof.Machine.execMmaE4m3 acc clr ta tb s
  | .mmaE5m2 acc clr ta tb => Sys2Proof.Machine.execMmaE5m2 acc clr ta tb s
  | .mmaDe8 acc clr ta tb => Sys2Proof.Machine.execMmaDe8 acc clr ta tb s
  | .mmaS8 acc clr ta tb => Sys2Proof.Machine.execMmaS8 acc clr ta tb s
  | .mmaE2m1 acc clr ta tb => Sys2Proof.Machine.execMmaE2m1 acc clr ta tb s
  | .mmaS4 acc clr ta tb => Sys2Proof.Machine.execMmaS4 acc clr ta tb s
  | .mmaQ4 acc clr ta tb => Sys2Proof.Machine.execMmaQ4 acc clr ta tb s
  | .mmaSpBf16 acc clr ta tb => Sys2Proof.Machine.execMmaSpBf16 acc clr ta tb s
  | .mmaSpE4m3 acc clr ta tb => Sys2Proof.Machine.execMmaSpE4m3 acc clr ta tb s
  | .mmaMxE4m3 acc clr ta tb => Sys2Proof.Machine.execMmaMxE4m3 acc clr ta tb s
  | .mmaMxE2m1 acc clr ta tb => Sys2Proof.Machine.execMmaMxE2m1 acc clr ta tb s
  | .tseqBf16 acc clr ta tb => Sys2Proof.Machine.execTseqBf16 acc clr ta tb s
  | .tseqF16 acc clr ta tb => Sys2Proof.Machine.execTseqF16 acc clr ta tb s
  | .tseqE4m3 acc clr ta tb => Sys2Proof.Machine.execTseqE4m3 acc clr ta tb s
  | .tseqE5m2 acc clr ta tb => Sys2Proof.Machine.execTseqE5m2 acc clr ta tb s
  | .tseqDe8 acc clr ta tb => Sys2Proof.Machine.execTseqDe8 acc clr ta tb s
  | .tseqS8 acc clr ta tb => Sys2Proof.Machine.execTseqS8 acc clr ta tb s
  | .tseqE2m1 acc clr ta tb => Sys2Proof.Machine.execTseqE2m1 acc clr ta tb s
  | .tseqS4 acc clr ta tb => Sys2Proof.Machine.execTseqS4 acc clr ta tb s
  | .tseqQ4 acc clr ta tb => Sys2Proof.Machine.execTseqQ4 acc clr ta tb s
  | .tseqSpBf16 acc clr ta tb => Sys2Proof.Machine.execTseqSpBf16 acc clr ta tb s
  | .tseqSpE4m3 acc clr ta tb => Sys2Proof.Machine.execTseqSpE4m3 acc clr ta tb s
  | .tseqMxE4m3 acc clr ta tb => Sys2Proof.Machine.execTseqMxE4m3 acc clr ta tb s
  | .tseqMxE2m1 acc clr ta tb => Sys2Proof.Machine.execTseqMxE2m1 acc clr ta tb s
  | .accz acc a => Sys2Proof.Machine.execAccz acc a s
  | .accld acc a c => Sys2Proof.Machine.execAccld acc a c s
  | .accst acc a c => Sys2Proof.Machine.execAccst acc a c s
  | .accadd acc a c => Sys2Proof.Machine.execAccadd acc a c s
  | .accstsp acc a c => Sys2Proof.Machine.execAccstsp acc a c s
  | .accrmax d acc a => Sys2Proof.Machine.execAccrmax d acc a s
  | .accrscl acc d => Sys2Proof.Machine.execAccrscl acc d s
  | .accrowr d acc a => Sys2Proof.Machine.execAccrowr d acc a s
  | .accroww acc a d => Sys2Proof.Machine.execAccroww acc a d s
  | .accexp acc d a => Sys2Proof.Machine.execAccexp acc d a s
  | .accrsum d acc => Sys2Proof.Machine.execAccrsum d acc s
  | .acctot t acc c => Sys2Proof.Machine.execAcctot t acc c s
  | .vld d a b => Sys2Proof.Machine.execVld d a b s
  | .vst a b d => Sys2Proof.Machine.execVst a b d s
  | .vprobe d a b => Sys2Proof.Machine.execVprobe d a b s
  | .vadd a b d => Sys2Proof.Machine.execVadd a b d s
  | .vshoot a => Sys2Proof.Machine.execVshoot a s
  | .vqry d a => Sys2Proof.Machine.execVqry d a s
  | .snap d sc => Sys2Proof.Machine.execSnap d sc s
  | .snapq d => Sys2Proof.Machine.execSnapq d s
  | .launch d a b => Sys2Proof.Machine.execLaunch d a b s
  | .launchg d a b => Sys2Proof.Machine.execLaunchg d a b s
  | .lwait d a b => Sys2Proof.Machine.execLwait d a b s
  | .lqry d a => Sys2Proof.Machine.execLqry d a s
  | .xp ind xs ext => Sys2Proof.Machine.execXp ind xs ext s
  | .weltRotation w => Sys2Proof.Machine.execWeltRotation w s
  | .loadDataReturn w sp => Sys2Proof.Machine.execLoadDataReturn w sp s
  | .stockpotStallResume w sp => Sys2Proof.Machine.execStockpotStallResume w sp s
  | .pageWalk ctx va => Sys2Proof.Machine.execPageWalk ctx va s
  | .phaseBoundaryDone w sp => Sys2Proof.Machine.execPhaseBoundaryDone w sp s
  | .wsyncDone w sp => Sys2Proof.Machine.execWsyncDone w sp s
  | .barComplete team idx => Sys2Proof.Machine.execBarComplete team idx s
  | .sleepExpire w sp => Sys2Proof.Machine.execSleepExpire w sp s
  | .rclaimGrant core => Sys2Proof.Machine.execRclaimGrant core s
  | .qpushGrant crew q => Sys2Proof.Machine.execQpushGrant crew q s
  | .qpopGrant crew q => Sys2Proof.Machine.execQpopGrant crew q s
  | .bowaitTimeout w sp => Sys2Proof.Machine.execBowaitTimeout w sp s
  | .copyUnpark w sp => Sys2Proof.Machine.execCopyUnpark w sp s
  | .copyComplete cluster k => Sys2Proof.Machine.execCopyComplete cluster k s
  | .tileLanded team t => Sys2Proof.Machine.execTileLanded team t s
  | .arrayOpComplete core => Sys2Proof.Machine.execArrayOpComplete core s
  | .bmodeSwitch w sp => Sys2Proof.Machine.execBmodeSwitch w sp s
  | .walkPendingRetry w sp => Sys2Proof.Machine.execWalkPendingRetry w sp s
  | .vshootDone w sp => Sys2Proof.Machine.execVshootDone w sp s
  | .cutHold => Sys2Proof.Machine.execCutHold s
  | .cutSwitch => Sys2Proof.Machine.execCutSwitch s
  | .cutQuiesceTimeout => Sys2Proof.Machine.execCutQuiesceTimeout s
  | .drainChunk => Sys2Proof.Machine.execDrainChunk s
  | .drainRingTimeout unreachable => Sys2Proof.Machine.execDrainRingTimeout unreachable s
  | .launchDispatch ctx q => Sys2Proof.Machine.execLaunchDispatch ctx q s
  | .teamBind launch crew area => Sys2Proof.Machine.execTeamBind launch crew area s
  | .launchEnd launch => Sys2Proof.Machine.execLaunchEnd launch s
  | .lwaitTimeout w sp => Sys2Proof.Machine.execLwaitTimeout w sp s
  | .quantumExpire team => Sys2Proof.Machine.execQuantumExpire team s
  | .ageTimerExpire ctx q => Sys2Proof.Machine.execAgeTimerExpire ctx q s
  | .preemptRequest team => Sys2Proof.Machine.execPreemptRequest team s
  | .saveComplete team => Sys2Proof.Machine.execSaveComplete team s
  | .drainDeadlineExpire team => Sys2Proof.Machine.execDrainDeadlineExpire team s
  | .adminRingPoll => Sys2Proof.Machine.execAdminRingPoll s
  | .bind e ccb ckpt => Sys2Proof.Machine.execBind e ccb ckpt s
  | .kill e => Sys2Proof.Machine.execKill e s
  | .suspend e deadline => Sys2Proof.Machine.execSuspend e deadline s
  | .suspendComplete ctx => Sys2Proof.Machine.execSuspendComplete ctx s
  | .resume e => Sys2Proof.Machine.execResume e s
  | .qconf e q => Sys2Proof.Machine.execQconf e q s
  | .quant e => Sys2Proof.Machine.execQuant e s
  | .unbind e => Sys2Proof.Machine.execUnbind e s
  | .scope e n wait => Sys2Proof.Machine.execScope e n wait s
  | .volshoot e h => Sys2Proof.Machine.execVolshoot e h s
  | .region e sel w0 w1 => Sys2Proof.Machine.execRegion e sel w0 w1 s
  | .stock e units => Sys2Proof.Machine.execStock e units s
  | .restore e addr bytes => Sys2Proof.Machine.execRestore e addr bytes s
  | .chret e sel => Sys2Proof.Machine.execChret e sel s
  | .wdog e ms => Sys2Proof.Machine.execWdog e ms s
  | .retire e core => Sys2Proof.Machine.execRetire e core s
  | .fwcommit e ver => Sys2Proof.Machine.execFwcommit e ver s
  | .wread e handle tid wid addr bytes => Sys2Proof.Machine.execWread e handle tid wid addr bytes s
  | .wrelease e handle tid wid => Sys2Proof.Machine.execWrelease e handle tid wid s
  | .shoot ctx start pages => Sys2Proof.Machine.execShoot ctx start pages s
  | .pooladd ctx desc list n => Sys2Proof.Machine.execPooladd ctx desc list n s
  | .haackWrite v => Sys2Proof.Machine.execHaackWrite v s
  | .faultPost w => Sys2Proof.Machine.execFaultPost w s
  | .faultRingResume ctx => Sys2Proof.Machine.execFaultRingResume ctx s
  | .faultReply v => Sys2Proof.Machine.execFaultReply v s
  | .qtailWrite ctx q v => Sys2Proof.Machine.execQtailWrite ctx q v s
  | .ardyWrite v => Sys2Proof.Machine.execArdyWrite v s
  | .registerWrite off v => Sys2Proof.Machine.execRegisterWrite off v s
  | .hostLoad ctx va size => Sys2Proof.Machine.execHostLoad ctx va size s
  | .hostStore ctx va size v => Sys2Proof.Machine.execHostStore ctx va size v s
  | .hostAtomic ctx va op v => Sys2Proof.Machine.execHostAtomic ctx va op v s
  | .apertureLoad off size => Sys2Proof.Machine.execApertureLoad off size s
  | .apertureStore off size v => Sys2Proof.Machine.execApertureStore off size v s
  | .translationQuery ctx va acc => Sys2Proof.Machine.execTranslationQuery ctx va acc s
  | .getMeasurements => Sys2Proof.Machine.execGetMeasurements s
  | .dieTeardown die => Sys2Proof.Machine.execDieTeardown die s
  | .linkRetrain port => Sys2Proof.Machine.execLinkRetrain port s
  | .laneSpare port lane => Sys2Proof.Machine.execLaneSpare port lane s
  | .memoryScrub stack => Sys2Proof.Machine.execMemoryScrub stack s
  | .coreSelfTest core pass => Sys2Proof.Machine.execCoreSelfTest core pass s
  | .coreRetirement core => Sys2Proof.Machine.execCoreRetirement core s
  | .bankSpare cluster bank => Sys2Proof.Machine.execBankSpare cluster bank s
  | .watchdogExpire w => Sys2Proof.Machine.execWatchdogExpire w s
  | .fabricKeepalive peer => Sys2Proof.Machine.execFabricKeepalive peer s
  | .keepaliveLapse peer => Sys2Proof.Machine.execKeepaliveLapse peer s
  | .domainAccessTimeout w sp => Sys2Proof.Machine.execDomainAccessTimeout w sp s
  | .clockStep up => Sys2Proof.Machine.execClockStep up s
  | .clusterClockGate cluster => Sys2Proof.Machine.execClusterClockGate cluster s
  | .clusterWake cluster => Sys2Proof.Machine.execClusterWake cluster s
  | .deviceReset => Sys2Proof.Machine.execDeviceReset s
  | .powerLoss => Sys2Proof.Machine.execPowerLoss s
  | .peerAccess peer kind ctx va v => Sys2Proof.Machine.execPeerAccess peer kind ctx va v s
  | .drainRingResume => Sys2Proof.Machine.execDrainRingResume s
  | .ageingMonitorReport core => Sys2Proof.Machine.execAgeingMonitorReport core s

end Sys2Proof.Machine
end

