-- ==== Sys2Proof/Machine/Step.lean ====
section
/-!
DEFINITION. One step of the device: an instruction of one split, or one event of the opcode table (log 1).
-/

namespace Sys2Proof.Machine

/-- The outcome with what follows the step. -/
def andThen (f : State → State) (o : Host.Outcome State Fault Refusal) : Host.Outcome State Fault Refusal :=
  match o with
  | .next s => .next (f s)
  | o => o

/-- The word a split has fetched is run, or raises its trap (R90). -/
noncomputable def runWord (s : State) (c : Iss) (w : Nat) : Host.Outcome State Fault Refusal :=
  match decodeBytes (wordBytes w) with
  | .ok i => exec i s
  | d => .next (raise s c { cause := badWord c w d })

/-- One instruction: fetch, decode, run (R76, R90). -/
noncomputable def stepInsn (s : State) (c : Iss) : Host.Outcome State Fault Refusal :=
  match fetch s c with
  | .error t => .next (finish (raise s c t))
  | .ok r => andThen finish (runWord r.1 c r.2)

/-- The device as it would be with room in the Stockpot. -/
def roomy (s : State) : State := { s with snap := { s.snap with units := s.snap.units + s.snap.stock.length + 1 } }

/-- An event that has had no effect, and would have one with room in the Stockpot, has a write that stalls for it (R247, R350); once there
is room, nothing stalls. -/
noncomputable def noteStall (i : Instr) (t u : State) : State :=
  let idle := fun (s : State) => match exec i s with | .next s' => decide (s' = s) | _ => false
  let stall := idle t && !idle (roomy t)
  { u with snap := { u.snap with stalled := stockFull u && (u.snap.stalled || stall) } }

/-- One step. -/
noncomputable def step (s : State) : Host.Outcome State Fault Refusal :=
  match nextUp s with
  | .insn c => stepInsn s c
  | .event i t => andThen (fun u => finishEvent (noteStall i t (hubAfter i u))) (exec i t)
  | .idle => .next (finish s)

/-- `s` with an instruction of the opcode table where `step` fetches next (log 2). -/
def State.withFetchWord (s : State) (nbits w : Nat) : State :=
  placeWord (if canFetch s then s else boot s) (if nbits = 32 then w else 0)

end Sys2Proof.Machine
end

