-- ==== Sys2Proof/Safety.lean ====
section
/-!
DEFINITION. What a safe run is, the invariants, and the terms the statements are made of (spec 01 R18 to R40; 03 R90; 22 R417).
-/

namespace Sys2Proof.Machine

/-! ## Runs and invariants -/

/-- `n` steps end in no fault and no refusal. -/
noncomputable def SafeFor : Nat → State → Prop
  | 0, _ => True
  | n + 1, s =>
    match step s with
    | .next t => SafeFor n t
    | .fault _ => False
    | .refused _ => False

/-- Every byte memory of the device is in its canonical form. -/
def MemInv (s : State) : Prop :=
  s.mem.wf = true ∧ ∀ k ∈ s.clusters, ByteMem.wf k.sram = true

/-! ## An instruction of a split -/

/-- The split chosen to issue is `c`, and nothing stops its word before its own effect: the comparison of a protected warp's
copies (R302), the checks of R90 for its form, and poison in what it reads (R403). -/
def Issues (s : State) (c : Iss) (f : Form) : Prop := issuing s = some c ∧ c.preTrap s f = none

/-- The state in which warp `w` has become `y` and nothing else has changed: no other warp, team, core or context, no
register of the window, and no byte of any memory. -/
def State.withWarp (s : State) (w : Nat) (y : Warp) : State := { s with warps := s.warps.set w y }

/-- What follows an instruction's own effect `u`: the split arrives when it stands at its reconvergence PC (R38), and a
write that must wait undoes the step (R246, R247). Otherwise it is `u` itself. -/
def arrive (s : State) (c : Iss) (u : State) : State := unlessBlocked s c (settle u c.w c.sp)

/-- The instruction of `c` completes: `u` is the state with its effect beyond the warp, its warp, changed to `x`, goes on at
`pc`, and nothing else changes. -/
def completesIn (s u : State) (c : Iss) (x : Warp) (pc : Nat) (l : Latch) (written : List Place) :
    Host.Outcome State Fault Refusal :=
  .next (arrive s c (u.withWarp c.w (x.retire c.sp pc l written s.clk.ns)))

/-- An instruction with no effect beyond its warp completes. -/
def completes (s : State) (c : Iss) (x : Warp) (pc : Nat) (l : Latch) (written : List Place) :
    Host.Outcome State Fault Refusal :=
  completesIn s s c x pc l written

/-- It completes at the next word, with no register result. -/
def finishesIn (s u : State) (c : Iss) (x : Warp) : Host.Outcome State Fault Refusal :=
  completesIn s u c x (c.split.pc + 4) Latch.empty []

def finishes (s : State) (c : Iss) (x : Warp) : Host.Outcome State Fault Refusal := finishesIn s s c x

/-- The state in which the instruction has completed at the next word, for what it still does afterwards. -/
def finished (s u : State) (c : Iss) (x : Warp) : State :=
  settle (u.withWarp c.w (x.retire c.sp (c.split.pc + 4) Latch.empty [] s.clk.ns)) c.w c.sp

/-- A trap of the instruction at issue. -/
def traps (s : State) (c : Iss) (t : Trap) : Host.Outcome State Fault Refusal := .next (raise s c t)

/-- The warp has this place: a descriptor slot of its allotment, or a register of its supervisor bank. -/
def Warp.has (x : Warp) (p : Place) : Prop :=
  match p with
  | .slot k => k < x.regs.length
  | .bank k => k < x.bank.length

/-- `v` is what a register that held `old` holds after the write of R29 of the result `r` under `em`: `r` whole, shape and
all, when em is the live mask; otherwise `r` in the lanes of em and `old` in the other live lanes, in a V register or, where
no lane differs, in the old one. Under em zero only the uniform path writes, and only a U register (R35). -/
structure Merged (em live : Mask) (unif : Bool) (old r v : Reg) : Prop where
  idle : em = 0#32 → v = if unif && old.isU then r else old
  whole : em ≠ 0#32 → em = live → v = r
  part : em ≠ 0#32 → em ≠ live → (v.isV = true ∨ v = old) ∧
    ∀ l, l < 32 → v.lane l = if em.getLsbD l then r.lane l else old.lane l

/-- The vector slots a write of `r` to the destination `p` takes (R28): one where a compact register becomes V, that is where `r`
is V and em the live mask, or em another mask and a lane of it changes (R29). None under em zero (R35), for a register that is V
already, or in the supervisor bank. A result to z counts as one to a U register that holds 0. -/
def Iss.versions (c : Iss) (p : Option Place) (r : Reg) : Nat :=
  let old : Reg := match p with
    | some q => c.warp.getReg q
    | none => .u 0#32
  let banked := match p with
    | some (.bank _) => true
    | _ => false
  if banked = true ∨ c.em = 0#32 ∨ old.isV = true then 0
  else if c.em = c.live then (if r.isV then 1 else 0)
  else if (List.range 32).any (fun l => c.em.getLsbD l && r.lane l != old.lane l) then 1 else 0

/-- `x` is the warp `b` after the write of `r` to the place `q` by the instruction of `c` (R27, R29): the register, the free
vector slots it takes or gives back, the poison a whole write takes away (R403), and nothing else. -/
structure Wrote (c : Iss) (b x : Warp) (q : Place) (unif : Bool) (r : Reg) : Prop where
  value : c.warp.has q → Merged c.em c.live unif (c.warp.getReg q) r (x.getReg q)
  others : ∀ p, p ≠ q → x.getReg p = b.getReg p
  free : c.warp.has q → ∀ k, q = .slot k →
    x.free + (if (x.getReg q).isV then 1 else 0) = b.free + (if (c.warp.getReg q).isV then 1 else 0)
  marks : x.bad = if c.em = c.live then b.bad.filter (fun p => p != q) else b.bad
  rest : { x with regs := b.regs, bank := b.bank, free := b.free, bad := b.bad } = b

/-- The latch entry `l` of a result (R21, R23). -/
structure Latched (c : Iss) (l : Latch) (nw : Bool) (q : Place) (unif : Bool) (r : Reg) : Prop where
  res : l.res = r
  dst : l.dst = some q
  nw : l.nw = nw
  em : l.em = c.em
  kept : l.lost = false
  value : Merged c.em c.live unif (c.warp.getReg q) r l.val

/-- An instruction with the one register result `r` for the place `p`, or for z, comes to `o` (R18, R21, R23, R28, R29, R35):
trap 0x07 when the warp lacks the vector slots; otherwise D is written, or under NW the latch alone, and a result to z, or one
with no effect under em zero, is discarded. `b` is the issuing warp with what else the instruction changes in it, `u` the state
with its effect beyond the warp. -/
def YieldsAt (s u : State) (c : Iss) (b : Warp) (nw : Bool) (p : Option Place) (unif : Bool) (r : Reg)
    (o : Host.Outcome State Fault Refusal) : Prop :=
  if c.warp.free < c.versions p r then o = traps s c { cause := 0x07, val := .word (c.versions p r - c.warp.free) }
  else
    match p with
    | none => o = finishesIn s u c b
    | some q =>
      if c.acts unif (some q) = false then o = finishesIn s u c b
      else ∃ l, Latched c l nw q unif r ∧
        if nw then o = completesIn s u c b (c.split.pc + 4) l []
        else ∃ x, Wrote c b x q unif r ∧ o = completesIn s u c x (c.split.pc + 4) l [q]

/-- `YieldsAt` for the field `d`. -/
def YieldsFrom (s u : State) (c : Iss) (b : Warp) (nw : Bool) (d : Dst) (unif : Bool) (r : Reg)
    (o : Host.Outcome State Fault Refusal) : Prop :=
  YieldsAt s u c b nw (c.dst d) unif r o

/-- An instruction that only writes a register. -/
def Yields (s : State) (c : Iss) (b : Warp) (nw : Bool) (d : Dst) (unif : Bool) (r : Reg)
    (o : Host.Outcome State Fault Refusal) : Prop :=
  YieldsFrom s s c b nw d unif r o

/-- The shape of R116 and R26: U when every source is U, else V. -/
def shapeUV (u : Bool) : Nat := if u then 0 else 2

/-- An instruction of two sources yields, lane by lane, `f` of them, with the shape `sh` gives. -/
def Yields2 (i : Instr) (cob : Bool) (nw : Bool) (d : Dst) (a b : Src) (sh : Reg → Reg → Nat) (f : Word → Word → Word) : Prop :=
  ∀ s c, Issues s c { d := dstOp d, a := srcOp a, b := srcOp b, cob := cob, em0 := .uniform } →
    ∃ r : Reg, r.shape = sh (c.read .a a) (c.read .b b) ∧
      (∀ l, l < 32 → r.lane l = f ((c.read .a a).lane l) ((c.read .b b).lane l)) ∧
      Yields s c c.warp nw d ((c.read .a a).isU && (c.read .b b).isU) r (exec i s)

/-- An instruction of one source. -/
def Yields1 (i : Instr) (cob : Bool) (nw : Bool) (d : Dst) (a : Src) (f : Word → Word) : Prop :=
  ∀ s c, Issues s c { d := dstOp d, a := srcOp a, cob := cob, em0 := .uniform } →
    ∃ r : Reg, r.shape = shapeUV (c.read .a a).isU ∧ (∀ l, l < 32 → r.lane l = f ((c.read .a a).lane l)) ∧
      Yields s c c.warp nw d (c.read .a a).isU r (exec i s)

/-- An instruction that reads D as well. -/
def Yields3 (i : Instr) (cob : Bool) (nw : Bool) (d : Dst) (a b : Src) (f : Word → Word → Word → Word) : Prop :=
  ∀ s c, Issues s c { d := dstOp d, a := srcOp a, b := srcOp b, dread := true, cob := cob, em0 := .uniform } →
    ∃ r : Reg, r.shape = shapeUV ((c.read .a a).isU && (c.read .b b).isU && (c.oldD d).isU) ∧
      (∀ l, l < 32 → r.lane l = f ((c.read .a a).lane l) ((c.read .b b).lane l) ((c.oldD d).lane l)) ∧
      Yields s c c.warp nw d ((c.read .a a).isU && (c.read .b b).isU && (c.oldD d).isU) r (exec i s)

/-- The 32-bit operand of an immediate of `n` bits (R81): sign-extended alone; behind a prefix the low 32 bits of EXT : IMM. -/
def Operand32 (c : Iss) (imm n : Nat) (v : Word) : Prop :=
  (c.split.xp = none → v = ((BitVec.ofNat n imm).signExtend 32)) ∧
    ∀ x, c.split.xp = some x → v = BitVec.ofNat 32 (x.ext * 2 ^ n + imm)

/-- An instruction of a source and a 32-bit immediate (R81, R123). -/
def YieldsImm (i : Instr) (nw : Bool) (d : Dst) (a : Src) (imm : Nat) (sh : Reg → Nat) (f : Word → Word → Word) : Prop :=
  ∀ s c, Issues s c { d := dstOp d, a := srcOp a, ext := .bits 21, cob := true, em0 := .uniform } →
    ∃ (v : Word) (r : Reg), Operand32 c imm 11 v ∧ r.shape = sh (c.read .a a) ∧ (∀ l, l < 32 → r.lane l = f ((c.read .a a).lane l) v) ∧
      Yields s c c.warp nw d (c.read .a a).isU r (exec i s)

/-- An immediate shift by `amt` (R123). -/
def YieldsShift (i : Instr) (nw : Bool) (d : Dst) (a : Src) (sh : Reg → Nat) (f : Word → Word) : Prop :=
  ∀ s c, Issues s c { d := dstOp d, a := srcOp a, cob := true, em0 := .uniform } →
    ∃ r : Reg, r.shape = sh (c.read .a a) ∧ (∀ l, l < 32 → r.lane l = f ((c.read .a a).lane l)) ∧
      Yields s c c.warp nw d (c.read .a a).isU r (exec i s)

/-- The instruction writes one U word to D, on the uniform path. -/
def YieldsWord (i : Instr) (f : Form) (nw : Bool) (d : Dst) (w : State → Iss → Word) : Prop :=
  ∀ s c, Issues s c f → Yields s c c.warp nw d true (.u (w s c)) (exec i s)

/-! ### Shapes with a rule of their own (R26) -/

/-- U from U sources; V when a source is V; else A. -/
def shapeSum (a b : Reg) : Nat := if a.isU && b.isU then 0 else if a.isV || b.isV then 2 else 1
/-- As `shapeSum`, but V when both sources are A. -/
def shapeProduct (a b : Reg) : Nat := if a.isU && b.isU then 0 else if a.shape + b.shape = 1 then 1 else 2
/-- U from U sources; A when A is affine and B is U; else V. -/
def shapeLeft (a b : Reg) : Nat := if a.isU && b.isU then 0 else if a.shape = 1 && b.isU then 1 else 2
/-- The shape of the two-source functions with no rule of their own. -/
def shapePlain (a b : Reg) : Nat := shapeUV (a.isU && b.isU)

/-! ## Numbers (R97, R102, R106) -/

/-- The number that a finite code of an IEEE format with `frac` fraction bits and `ebits` exponent bits stands for. -/
def ratOf (frac ebits c : Nat) : Rat :=
  let e := c / 2 ^ frac % 2 ^ ebits
  let m := c % 2 ^ frac
  let v : Rat := ((if e = 0 then 2 * m else (2 ^ frac + m) * 2 ^ e : Nat) : Rat) / (2 ^ (2 ^ (ebits - 1) - 1 + frac) : Nat)
  if c / 2 ^ (frac + ebits) % 2 = 1 then -v else v

def ratDist (a b : Rat) : Rat := if a < b then b - a else a - b

/-- `c` is the number `q` rounded once into such a format: to nearest, a tie to the code with a zero last bit, and to an infinity
from the midpoint beyond the largest finite number on. Nothing is flushed; an exact zero has the sign `neg`. -/
structure Nearest (frac ebits : Nat) (q : Rat) (neg : Bool) (c : Nat) : Prop where
  code : c < 2 ^ (1 + ebits + frac)
  sign : c / 2 ^ (frac + ebits) % 2 = 1 ↔ q < 0 ∨ (q = 0 ∧ neg = true)
  large : ((2 ^ (frac + 2) - 1) * 2 ^ (2 ^ (ebits - 1) - 1) : Nat) ≤ 2 ^ (frac + 1) * ratDist q 0 →
    c % 2 ^ (frac + ebits) = (2 ^ ebits - 1) * 2 ^ frac
  near : 2 ^ (frac + 1) * ratDist q 0 < ((2 ^ (frac + 2) - 1) * 2 ^ (2 ^ (ebits - 1) - 1) : Nat) →
    c / 2 ^ frac % 2 ^ ebits < 2 ^ ebits - 1 ∧ ∀ d, d / 2 ^ frac % 2 ^ ebits < 2 ^ ebits - 1 →
      ratDist (ratOf frac ebits c) q ≤ ratDist (ratOf frac ebits d) q ∧
      (ratDist (ratOf frac ebits c) q = ratDist (ratOf frac ebits d) q → ratOf frac ebits c ≠ ratOf frac ebits d → c % 2 = 0)

/-- `k` is the number `q` rounded to an integer under the rounding codes 0 to 4 of R87. -/
def RoundsInt (rnd : Nat) (q : Rat) (k : Int) : Prop :=
  match rnd with
  | 0 => 2 * ratDist k q ≤ 1 ∧ (2 * ratDist k q = 1 → k % 2 = 0)
  | 1 => k = if q < 0 then q.ceil else q.floor
  | 2 => k = q.floor
  | 3 => k = q.ceil
  | _ => 2 * ratDist k q ≤ 1 ∧ (2 * ratDist k q = 1 → ratDist q 0 < ratDist k 0)

/-! ## Predicates -/

/-- The issuing warp with `bits` in predicate `pd` in the lanes of em, and its other bits as they were (R32). -/
def Iss.predWritten (c : Iss) (pd : Nat) (bits : Mask) : Warp :=
  { c.warp with
    preds := c.warp.preds.set pd (((c.warp.preds.getD pd 0#32 &&& ~~~c.em) ||| (bits &&& c.em)) &&& c.warp.laneMask) }

/-- The instruction writes `bits` to predicate `pd` in the lanes of em and completes. -/
def writesPred (s : State) (c : Iss) (pd : Nat) (bits : Mask) : Host.Outcome State Fault Refusal :=
  finishes s c (c.predWritten pd bits)

/-- A truth value as a predicate's bits. -/
def allIf (b : Bool) : Mask := if b then 0xFFFFFFFF#32 else 0#32

/-- The instruction writes all bits of predicate `pd` (R32, R155). -/
def writesPredAll (s : State) (c : Iss) (pd : Nat) (bits : Mask) : Host.Outcome State Fault Refusal :=
  finishes s c { c.warp with preds := c.warp.preds.set pd (bits &&& c.warp.laneMask) }

/-- A comparison: `pd` takes, in each lane of em, the condition combined with `pc` under the code (R126, R127). -/
def Compares (s : State) (c : Iss) (pd : Nat) (f : Nat → Bool) (o : Host.Outcome State Fault Refusal) : Prop :=
  ∃ m : Mask, (∀ l, l < 32 → m.getLsbD l = f l) ∧ o = writesPred s c pd m

/-! ## Full writes, pairs, parking -/

/-- `x` is the warp `b` with `r` in the place `p`: the free slots follow its shape (R27), and nothing else changes. -/
structure Stored (b x : Warp) (p : Place) (r : Reg) : Prop where
  value : b.has p → x.getReg p = r
  others : ∀ q, q ≠ p → x.getReg q = b.getReg q
  free : b.has p → ∀ k, p = .slot k → r.isV = false → x.free = b.free + if (b.getReg p).isV then 1 else 0
  rest : { x with regs := b.regs, bank := b.bank, free := b.free } = b

/-- `x` is the warp `b` after a full write of `r` to the place `p` (R27, R135), which takes its poison away (R403). -/
def Replaced (b x : Warp) (p : Place) (r : Reg) : Prop :=
  ∃ y, Stored b y p r ∧ x = { y with bad := b.bad.filter fun q => q != p }

/-- An instruction writes `r` to D in full whatever em is, or under NW the latch alone; nothing under em zero (R135, R136). -/
def WritesWhole (s : State) (c : Iss) (nw : Bool) (d : Dst) (r : Reg) (o : Host.Outcome State Fault Refusal) : Prop :=
  match c.dst d with
  | none => o = finishes s c c.warp
  | some p =>
    if c.em = 0#32 then o = finishes s c c.warp
    else
      let l : Latch := { res := r, val := r, dst := some p, nw := nw, em := c.em, full := true, lost := false }
      if nw then o = completes s c c.warp (c.split.pc + 4) l []
      else ∃ x, Replaced c.warp x p r ∧ o = completes s c x (c.split.pc + 4) l [p]

/-- The vector slots that the descriptor slots among `ps` hold in `x`: one for each that is V (R27, R30). -/
def Warp.held (x : Warp) (ps : List Place) : Nat := (ps.filter fun p => p.counts && (x.getReg p).isV).length

/-- The splits of a warp, in its slots and suspended. -/
def Warp.splits (x : Warp) : List Split :=
  x.split0.toList ++ x.split1.toList ++ x.welt.filterMap fun e => match e with | .split t => some t | _ => none

/-- The vector slots that a split's load in flight has taken (R28, R169). -/
def Split.lateSlots (t : Split) : Nat := match t.late with | some d => d.slots | none => 0

/-- The vector quota of a warp adds up (R30): Q is the V registers, the slots that loads in flight have taken, and the free slots,
and never less than the launch's floor. A split whose load is in flight is parked for it alone; a pending full write is compact
(R135, R136), and one under em zero is U (R35), so that writing them back never takes a slot that is not there. -/
structure Warp.Balanced (x : Warp) : Prop where
  sum : x.free + (x.regs.filter Reg.isV).length + (x.splits.map Split.lateSlots).sum = x.q
  floor : x.floor ≤ x.q
  late : ∀ t ∈ x.splits, t.late.isSome = true → t.park = .data
  pending : ∀ t ∈ x.splits, ∀ l ∈ t.latches, l.nw = true → (l.full = true → l.res.isV = false) ∧ (l.em = 0#32 → l.res.isU = true)

/-- The quota of every warp that has not ended, of a team that has not ended, adds up. -/
def QuotaInv (s : State) : Prop :=
  ∀ x ∈ s.warps, x.st ≠ .ended → x.team < s.teams.length ∧ ((s.team x.team).res ≠ .ended → x.Balanced)

/-- An instruction with several register results, each with its place, comes to `o`: trap 0x07 when the warp lacks the vector
slots of all of them; otherwise each is written, free slots and V registers are in balance (R30), and the first result enters
the latch (R21, R28, R29). -/
def YieldsAll (s u : State) (c : Iss) (unif : Bool) (ws : List (Place × Reg)) (o : Host.Outcome State Fault Refusal) : Prop :=
  let n := (ws.map fun e => c.versions (some e.1) e.2).sum
  if c.warp.free < n then o = traps s c { cause := 0x07, val := .word (n - c.warp.free) }
  else ∃ l x,
    (∀ p r rest, ws = (p, r) :: rest → if c.acts unif (some p) then Latched c l false p unif r else l = Latch.empty) ∧
    (∀ e ∈ ws, c.warp.has e.1 → Merged c.em c.live unif (c.warp.getReg e.1) e.2 (x.getReg e.1)) ∧
    (∀ k, k ∉ ws.map Prod.fst → x.getReg k = c.warp.getReg k) ∧
    ((∀ e ∈ ws, c.warp.has e.1) → x.free + x.held (ws.map Prod.fst) = c.warp.free + c.warp.held (ws.map Prod.fst)) ∧
    x.bad = (if c.em = c.live then c.warp.bad.filter (fun p => !(ws.map Prod.fst).contains p) else c.warp.bad) ∧
    { x with regs := c.warp.regs, bank := c.warp.bank, free := c.warp.free, bad := c.warp.bad } = c.warp ∧
    o = completesIn s u c x (c.split.pc + 4) l ((ws.filter fun e => c.acts unif (some e.1)).map Prod.fst)

/-- The results `r0` and `r1` for the registers `d` and `d + 1`. -/
def YieldsPairFrom (s u : State) (c : Iss) (d : Nat) (unif : Bool) (r0 r1 : Reg) (o : Host.Outcome State Fault Refusal) :
    Prop :=
  YieldsAll s u c unif [(c.place .d d 0, r0), (c.place .d d 1, r1)] o

def YieldsPair (s : State) (c : Iss) (d : Nat) (unif : Bool) (r0 r1 : Reg) (o : Host.Outcome State Fault Refusal) : Prop :=
  YieldsPairFrom s s c d unif r0 r1 o

/-- The instruction has no effect yet: its split parks at it, with a group switch (R22). `u` is the state with what the wait
itself changes. -/
def parksIn (s u : State) (c : Iss) (p : Park) : Host.Outcome State Fault Refusal :=
  .next (unlessBlocked s c (u.withWarp c.w (c.warp.park c.sp p)))

def parksAs (s : State) (c : Iss) (p : Park) : Host.Outcome State Fault Refusal := parksIn s s c p

/-- A register result given by its shape and by its lanes of em. -/
def YieldsIn (i : Instr) (f : Form) (nw : Bool) (d : Dst) (sh : Iss → Nat) (lane : Iss → Nat → Word) : Prop :=
  ∀ s c, Issues s c f →
    ∃ r : Reg, r.shape = sh c ∧ (∀ l, l < 32 → c.em.getLsbD l = true → r.lane l = lane c l) ∧
      Yields s c c.warp nw d false r (exec i s)

/-- A U result given by a property of its word. -/
def YieldsU (i : Instr) (f : Form) (nw : Bool) (d : Dst) (p : Iss → Word → Prop) : Prop :=
  ∀ s c, Issues s c f → ∃ w, (c.em ≠ 0#32 → p c w) ∧ Yields s c c.warp nw d false (.u w) (exec i s)

/-- Base and stride that fit the lanes of a mask (R136): the stride is the one below the bound that the two lowest lanes fix, 0
for a single lane. -/
def FitsLanes (m : Mask) (a : Reg) (b st : Word) : Prop :=
  let l0 := lowestLane m
  let m1 := m &&& ~~~BitVec.ofNat 32 (2 ^ l0)
  (∀ l, l < 32 → m.getLsbD l = true → (Reg.a b st).lane l = a.lane l) ∧ (m1 = 0#32 → st = 0#32) ∧
    (m1 ≠ 0#32 → ∀ t o, lowestLane m1 - l0 = 2 ^ t * (2 * o + 1) → st.toNat < 2 ^ (32 - t))

/-- The instruction goes on at `pc` with a group switch of its split (R22). -/
def switchesIn (s u : State) (c : Iss) (x : Warp) (pc : Nat) : Host.Outcome State Fault Refusal :=
  .next (arrive s c (u.withWarp c.w ((x.retire c.sp pc Latch.empty [] s.clk.ns).groupSwitch c.sp)))

/-- A link: `x` is the issuing warp after the full write of the address after the word to the pair at `d`, low word first
(R158), and `l` its latch entry. -/
structure Linked (c : Iss) (x : Warp) (l : Latch) (d : Nat) : Prop where
  low : c.warp.has (c.place .d d 0) → x.getReg (c.place .d d 0) = .u (BitVec.ofNat 32 (c.split.pc + 4))
  high : c.warp.has (c.place .d d 1) → x.getReg (c.place .d d 1) = .u (BitVec.ofNat 32 ((c.split.pc + 4) % 2 ^ 64 / 2 ^ 32 % 2 ^ 24))
  others : ∀ p, p ≠ c.place .d d 0 → p ≠ c.place .d d 1 → x.getReg p = c.warp.getReg p
  free : (∀ p ∈ c.places .d d 2, c.warp.has p) → x.free = c.warp.free + c.warp.held (c.places .d d 2)
  marks : x.bad = c.warp.bad.filter fun p => !(c.places .d d 2).contains p
  rest : { x with regs := c.warp.regs, bank := c.warp.bank, free := c.warp.free, bad := c.warp.bad } = c.warp
  latch : l.val = .u (BitVec.ofNat 32 (c.split.pc + 4)) ∧ l.res = l.val ∧ l.dst = some (c.place .d d 0) ∧ l.nw = false ∧
    l.lost = false

/-- The pair of a field is U and holds `v`. -/
def Iss.HoldsPair (c : Iss) (f : Fld) (n v : Nat) : Prop :=
  ∃ lo hi : Word, c.regAt f n 0 = .u lo ∧ c.regAt f n 1 = .u hi ∧ v = lo.toNat + 2 ^ 32 * hi.toNat

/-- An entry of a warp's Welt is served from the core alone (log 14): it has no page, and no malformed entry is met in looking for
one (R41, R359). -/
def OnCore (s : State) (x : Warp) (i : Nat) : Prop :=
  weltMapped s x i = false ∧ ∀ pa lev e, translate s (s.ctxOf x) (weltAddr x i) ≠ .malformed pa lev e

/-! ## Events -/

/-- An event comes to what the parked instruction comes to, `o`; when a write of that must wait, the event has no effect (R246,
R247). -/
def resumed (s : State) (o : Host.Outcome State Fault Refusal) : Host.Outcome State Fault Refusal :=
  match o with
  | .next t => .next (if t.mem.blocked = s.mem.blocked then t else s)
  | o => o

/-- An event comes to `o`: it has its effect `t` when it is enabled, unless a write of it must wait, and none otherwise. -/
def Happens (s : State) (enabled : Prop) (t : State) (o : Host.Outcome State Fault Refusal) : Prop :=
  (enabled → t.mem.blocked = s.mem.blocked → o = .next t) ∧ (¬ enabled → o = .next s)

/-- An access from outside comes to `o` (R246, R247, R351): it waits at the hub behind older ones; else, when it is enabled, it has its
effect `t`, or waits in the hold of a cut or for Stockpot space. -/
structure Lands (s : State) (enabled : Prop) (t : State) (o : Host.Outcome State Fault Refusal) : Prop where
  waits : s.snap.hubGoes = false → s.snap.hub ≠ [] → o = .next { s with snap := { s.snap with hubNext := .held } }
  idle : s.snap.hubGoes = true ∨ s.snap.hub = [] → ¬ enabled → o = .next s
  done : s.snap.hubGoes = true ∨ s.snap.hub = [] → enabled → t.mem.blocked = s.mem.blocked → o = .next t
  held : s.snap.hubGoes = true ∨ s.snap.hub = [] → enabled → t.mem.blocked ≠ s.mem.blocked →
    o = .next { s with snap := { s.snap with hubNext := .held } }

/-- A command of the administrative ring comes to `o` (R385, R386): nothing while its entry is not due or does not name it; else
result 2 when the context's state does not allow it, result 1 when its operands are wrong, and otherwise its effect `t`, with
the result `r` if it is over. -/
structure Commands (s : State) (e : Adm) (op : Nat) (pass : List Nat) (named legal operands : Prop) (t : State) (r : Option Nat)
    (o : Host.Outcome State Fault Refusal) : Prop where
  idle : ¬ (admDue s e op pass = true ∧ named) → o = .next s
  illegal : admDue s e op pass = true → named → ¬ legal → o = .next (finishAdm s e.slot 2)
  wrong : admDue s e op pass = true → named → legal → ¬ operands → o = .next (finishAdm s e.slot 1)
  done : admDue s e op pass = true → named → legal → operands → t.mem.blocked = s.mem.blocked →
    o = .next (match r with
      | some n => finishAdm t e.slot n
      | none => t)

/-- The state with a parked split let go, to issue its instruction again. -/
def State.unparked (s : State) (w sp : Nat) : State := s.mapWarp w fun x => x.mapSplit sp fun t => { t with park := .no }

/-! ## Barrier objects (R185 to R189), field by field -/

structure ObjV where
  pend : Nat
  left : Nat
  expected : Nat
  phase : Nat
  init : Bool
  ovr : Bool
  aband : Bool
  err : Bool
  under : Bool
  closed : Nat
  open_ : Nat
  deriving DecidableEq, Repr

/-- The fields of an object's 128 bits. -/
def objView (o : Nat) : ObjV :=
  { pend := o % 2 ^ 28, left := o / 2 ^ 28 % 2 ^ 12, expected := o / 2 ^ 40 % 2 ^ 12, phase := o / 2 ^ 52 % 2 ^ 4
    init := o.testBit 56, ovr := o.testBit 57, aband := o.testBit 58, err := o.testBit 59, under := o.testBit 60
    closed := o / 2 ^ 64 % 2 ^ 32, open_ := o / 2 ^ 96 % 2 ^ 32 }

/-- record of R188: COUNT in bits 15:0, CODE in 23:16, KIND in 31:24. -/
def ObjV.record (v : ObjV) (code kind : Nat) : ObjV :=
  { v with open_ := min (v.open_ % 2 ^ 16 + 1) 0xFFFF +
      2 ^ 16 * if v.open_ % 2 ^ 16 = 0 then code + 2 ^ 8 * kind else v.open_ / 2 ^ 16 }

/-- add_pend of R188. -/
def ObjV.addPend (v : ObjV) (n : Nat) : ObjV :=
  if v.pend + n > 0x0FFFFFFF then ObjV.record { v with pend := 0x0FFFFFFF, err := true } 0x42 0 else { v with pend := v.pend + n }

/-- flip of R188. -/
def ObjV.flip (v : ObjV) : ObjV :=
  let w : ObjV := { v with phase := (v.phase + 1) % 16, left := v.expected, closed := v.open_, open_ := 0 }
  if v.ovr then ObjV.record { w with ovr := false } 0x40 0 else w

/-- The flip that follows when nothing is left. -/
def ObjV.settle (v : ObjV) : ObjV × Bool := if v.left = 0 ∧ v.pend = 0 then (v.flip, true) else (v, false)

/-- arrive of R188: the object, whether it flipped, and ok. -/
def ObjV.arrive (v : ObjV) (c bytes : Nat) : ObjV × Bool × Bool :=
  let p := v.addPend bytes
  let r := if c ≤ p.left then ObjV.settle { p with left := p.left - c } else ObjV.settle { p with left := 0, ovr := true }
  (r.1, r.2, decide (c ≤ p.left) && !v.aband)

/-- engine_bytes of R189. -/
def ObjV.engine (v : ObjV) (n e : Nat) : ObjV × Bool :=
  let p := if n > v.pend then ObjV.record { v with pend := 0, under := true } 0x41 1 else { v with pend := v.pend - n }
  if e ≠ 0 then (ObjV.record { p with err := true } e 1).settle else p.settle

/-- The two words of a 64-bit number, under the numbers `a` and `a + 1` (R227). -/
def twoWords (a v : Nat) : List (Nat × Nat) := [(a, v % 2 ^ 32), (a + 1, v / 2 ^ 32 % 2 ^ 32)]

/-- The maps of a context, by number (R51): sy.harvest, sy.spare, sy.grant and sy.lmap. -/
def mapTable (s : State) (cx : Nat) : List (Nat × Nat) :=
  ((List.range 4).flatMap fun e => (List.range 6).flatMap fun k =>
    [(0x40 + 6 * e + k, (s.ctx cx).harvest.getD e 0 / 2 ^ (32 * k) % 2 ^ 32),
      (0x58 + 6 * e + k, (s.ctx cx).spare.getD e 0 / 2 ^ (32 * k) % 2 ^ 32),
      (0x70 + 6 * e + k, (s.ctx cx).grant.getD e 0 % 2 ^ 48 / 2 ^ (32 * k) % 2 ^ 32)]) ++
  (List.range 768).map fun i => (0x100 + i, (logicalCores (s.ctx cx)).getD i 0xFFFFFFFF)

/-! ## Memory -/

/-- Every lane of em passes the checks of R169, and none waits for a peer in recovery (R411). -/
def Reaches (s : State) (c : Iss) (k : Space) (kind : Access) (width : Nat) (addr : Nat → Nat) : Prop :=
  c.checkAccess s k kind width addr = .ok () ∧ c.waitRemote s addr (fun l => c.byteAddrs k width l (addr l)) = none

/-- An access that passes the checks of R169 up to 7 and reaches a peer in recovery parks its split for the peers of its lanes (check 8,
R411): `comes` says what the instruction comes to. -/
def Awaits (s : State) (c : Iss) (k : Space) (kind : Access) (width : Nat) (addr : Nat → Nat)
    (comes : Host.Outcome State Fault Refusal → Prop) : Prop :=
  c.checkAccess s k kind width addr = .ok () →
    ∀ t, c.waitRemote s addr (fun l => c.byteAddrs k width l (addr l)) = some t → comes (.next (unlessBlocked s c t))

/-- A load whose lane `l` sees `bytes l` comes to `o` (R168): one register, or a group of them, extended as the width says; U
when address and offset are the same in every lane. -/
def Loads (s u : State) (c : Iss) (nw : Bool) (w : MemWidth) (d : LdReg) (uniform : Bool) (bytes : Nat → List Byte)
    (o : Host.Outcome State Fault Refusal) : Prop :=
  ∃ f : Nat → Reg, (∀ j, (f j).shape = if uniform then 0 else 2) ∧
    (∀ j l, l < 32 → c.em.getLsbD l = true → (f j).lane l = loadWord w (bytes (if uniform then lowestLane c.em else l)) j) ∧
    match d with
    | .one d => YieldsFrom s u c c.warp nw d false (f 0) o
    | .group n => YieldsAll s u c false ((List.range (regsOf w)).map fun j => (c.place .d n j, f j)) o

/-- The byte a cluster's loads see at an address of a context: its L1's copy of the line, else the home's byte. -/
def seenByte (s : State) (k cx : Nat) (l : Leaf) (va : Nat) : Byte :=
  match l1Line? s k cx (lineOf va) with
  | some x => x.bytes.getD (va % 128) 0#8
  | none => homeByte s cx l va

/-- A global atomic (R175 to R178, R255): its lanes are performed in lane order, each reading the word and writing the function of it
and of its data; D takes the old values; at a scope that is not usable trap 0x10. One that parks keeps the scope entry it read. -/
def AtomicCompletes (i : Instr) (op : AtomOp) (d : Dst) (a : Nat) (b : AtomData) (sc : Nat) : Prop :=
  ∀ s c, Issues s c { d := dstOp d, a := pair6 a, b := b.opnd, ext := .bits 21, compared := true } →
    let k := c.scopeAt s sc
    let ok := c.scopeOk s sc = true
    let addr := c.address a .z
    let comes := fun o => exec i s = latching s sc o
    let r := c.atomLanes s (k.onlyHome c.cluster) addr fun l old => atomNew op old (c.atomWords b l).1 (c.atomWords b l).2
    (c.em = 0#32 → comes (finishes s c c.warp)) ∧
    (c.em ≠ 0#32 → ¬ ok → comes (traps s c { cause := 0x10 })) ∧
    (c.em ≠ 0#32 → ok → ∀ t, c.checkAccess s .global .both 4 addr = .error t → comes (traps s c t)) ∧
    (c.em ≠ 0#32 → ok → Awaits s c .global .both 4 addr comes) ∧
    (c.em ≠ 0#32 → ok → Reaches s c .global .both 4 addr →
      (d = .z → comes (finishesIn s (c.external r.1) c c.warp)) ∧
      (d ≠ .z → r.2.2 ≠ [] → comes (traps s c
        { cause := 0x15, val := .addrs ((List.range 32).map addr), lanes := some (maskWhere r.2.2.contains) })) ∧
      (d ≠ .z → r.2.2 = [] → ∃ (q : Reg) (o : Host.Outcome State Fault Refusal), q.shape = 2 ∧
        (∀ l, l < 32 → q.lane l = laneOf r.2.1 l 0#32) ∧ YieldsFrom s (c.external r.1) c c.warp false d false q o ∧ comes o))

/-- A scratchpad atomic (R179). -/
def ScratchAtomicCompletes (i : Instr) (op : AtomOp) (nw : Bool) (d : Dst) (a : Src) (b : AtomData) : Prop :=
  ∀ s c, Issues s c { d := dstOp d, a := srcOp a, b := b.opnd, ext := .bits 21, compared := true } →
    let addr := c.scratchOffset a
    let r := c.atomsLanes s addr fun l old => atomNew op old (c.atomWords b l).1 (c.atomWords b l).2
    (c.em = 0#32 → exec i s = finishes s c c.warp) ∧
    (c.em ≠ 0#32 → ∀ t, c.checkScratch s 4 addr = .error t → exec i s = traps s c t) ∧
    let rotten := (lanesOf c.em).filter fun l => scratchBad s (s.crewNo c.warp) (addr l)
    (c.em ≠ 0#32 → c.checkScratch s 4 addr = .ok () →
      (d = .z → exec i s = finishesIn s (c.external r.1) c c.warp) ∧
      (d ≠ .z → rotten ≠ [] → exec i s = traps s c
        { cause := 0x15, val := .addrs ((List.range 32).map addr), lanes := some (maskWhere rotten.contains) }) ∧
      (d ≠ .z → rotten = [] → ∃ q : Reg, q.shape = 2 ∧
        (∀ l, l < 32 → q.lane l = laneOf r.2 l 0#32) ∧ YieldsFrom s (c.external r.1) c c.warp nw d false q (exec i s)))

end Sys2Proof.Machine
end

