-- ==== Sys2Proof/Certificates/Slice0/Obligations.lean ====
section
/-!
DEFINITION. The statements for the provers. Each says which rules of spec/ it rests on; where it rests on a choice of the
model, it names the log entry. The terms are those of Safety.lean.
-/

open Sys2Proof Sys2Proof.Machine

/-! ## Arithmetic, logic, conversion, selection (spec 05) -/

/-- R119 to R122 under R116, R21, R28, R29 and R35: the integer, shift and bit-field instructions each write their function
of the lane values of their sources, with the shape of R26.
R121, R122: the counts and fields of CLZ, POPC, BREV, BFX.n, BFX.s and BFI, bit by bit.
R123, R124 under R81: the immediate forms. Only ADDI, MULI and SHI.SHL keep an affine source affine (R26). -/
def Obligations.IntegerResults : Prop :=
  (∀ (nw : Bool) (d : Dst) (a b : Src),
    Yields2 (.add nw d a b) true nw d a b shapeSum (fun x y => x + y) ∧
    Yields2 (.sub nw d a b) true nw d a b shapeSum (fun x y => x - y) ∧
    Yields2 (.mul nw d a b) true nw d a b shapeProduct (fun x y => x * y) ∧
    Yields2 (.mulhS nw d a b) true nw d a b shapePlain (fun x y => BitVec.ofInt 32 (x.toInt * y.toInt / 2 ^ 32)) ∧
    Yields2 (.mulhN nw d a b) true nw d a b shapePlain (fun x y => BitVec.ofNat 32 (x.toNat * y.toNat / 2 ^ 32)) ∧
    Yields3 (.mad nw d a b) true nw d a b (fun x y z => z + x * y) ∧
    Yields2 (.divS nw d a b) true nw d a b shapePlain
      (fun x y => if y = 0#32 then 0xFFFFFFFF#32 else BitVec.ofInt 32 (x.toInt.tdiv y.toInt)) ∧
    Yields2 (.divN nw d a b) true nw d a b shapePlain
      (fun x y => if y = 0#32 then 0xFFFFFFFF#32 else BitVec.ofNat 32 (x.toNat / y.toNat)) ∧
    Yields2 (.remS nw d a b) true nw d a b shapePlain
      (fun x y => if y = 0#32 then x else BitVec.ofInt 32 (x.toInt.tmod y.toInt)) ∧
    Yields2 (.remN nw d a b) true nw d a b shapePlain
      (fun x y => if y = 0#32 then x else BitVec.ofNat 32 (x.toNat % y.toNat)) ∧
    Yields2 (.minS nw d a b) true nw d a b shapePlain (fun x y => if x.sle y then x else y) ∧
    Yields2 (.minN nw d a b) true nw d a b shapePlain (fun x y => if x.ule y then x else y) ∧
    Yields2 (.maxS nw d a b) true nw d a b shapePlain (fun x y => if y.sle x then x else y) ∧
    Yields2 (.maxN nw d a b) true nw d a b shapePlain (fun x y => if y.ule x then x else y) ∧
    Yields2 (.addsS nw d a b) true nw d a b shapePlain
      (fun x y => BitVec.ofInt 32 (max (-2 ^ 31) (min (x.toInt + y.toInt) (2 ^ 31 - 1)))) ∧
    Yields2 (.subsS nw d a b) true nw d a b shapePlain
      (fun x y => BitVec.ofInt 32 (max (-2 ^ 31) (min (x.toInt - y.toInt) (2 ^ 31 - 1)))) ∧
    Yields2 (.andR nw d a b) true nw d a b shapePlain (fun x y => x &&& y) ∧
    Yields2 (.orR nw d a b) true nw d a b shapePlain (fun x y => x ||| y) ∧
    Yields2 (.xorR nw d a b) true nw d a b shapePlain (fun x y => x ^^^ y) ∧
    Yields2 (.andn nw d a b) true nw d a b shapePlain (fun x y => x &&& ~~~y) ∧
    Yields2 (.orn nw d a b) true nw d a b shapePlain (fun x y => x ||| ~~~y) ∧
    Yields2 (.xnor nw d a b) true nw d a b shapePlain (fun x y => ~~~(x ^^^ y)) ∧
    Yields2 (.shl nw d a b) true nw d a b shapeLeft (fun x y => x <<< (y.toNat % 32)) ∧
    Yields2 (.shr nw d a b) true nw d a b shapePlain (fun x y => x >>> (y.toNat % 32)) ∧
    Yields2 (.sar nw d a b) true nw d a b shapePlain (fun x y => x.sshiftRight (y.toNat % 32)) ∧
    Yields2 (.rotl nw d a b) true nw d a b shapePlain (fun x y => x.rotateLeft (y.toNat % 32)) ∧
    Yields1 (.clz nw d a) true nw d a clzW ∧
    Yields1 (.popc nw d a) true nw d a popcW ∧
    Yields1 (.brev nw d a) true nw d a brevW ∧
    Yields2 (.bfxN nw d a b) true nw d a b shapePlain bfxnW ∧
    Yields2 (.bfxS nw d a b) true nw d a b shapePlain bfxsW ∧
    Yields3 (.bfi nw d a b) true nw d a b bfiW) ∧
  (∀ x c d : Word,
    let pos := c.toNat % 32
    let len := min (c.toNat / 2 ^ 8 % 2 ^ 6) (32 - pos)
    (∀ i, i < 32 → (brevW x).getLsbD i = x.getLsbD (31 - i)) ∧
    (∀ n, n ≤ 32 → ((clzW x).toNat = n ↔ (n = 32 ∨ x.getLsbD (31 - n) = true) ∧ ∀ i, i < 32 → 31 < i + n → x.getLsbD i = false)) ∧
    (popcW x).toNat = ((List.range 32).filter fun i => x.getLsbD i).length ∧
    (∀ i, i < 32 → (bfxnW x c).getLsbD i = (decide (i < len) && x.getLsbD (pos + i))) ∧
    (∀ i, i < 32 → (bfxsW x c).getLsbD i = (decide (0 < len) && x.getLsbD (pos + min i (len - 1)))) ∧
    (∀ i, i < 32 → (bfiW x c d).getLsbD i = if pos ≤ i ∧ i < pos + len then x.getLsbD (i - pos) else d.getLsbD i)) ∧
  ∀ (nw : Bool) (d : Dst) (a : Src) (imm amt : Nat),
    YieldsImm (.addi nw d a imm) nw d a imm Reg.shape (fun x i => x + i) ∧
    YieldsImm (.muli nw d a imm) nw d a imm Reg.shape (fun x i => x * i) ∧
    YieldsImm (.andi nw d a imm) nw d a imm (fun x => shapeUV x.isU) (fun x i => x &&& i) ∧
    YieldsImm (.ori nw d a imm) nw d a imm (fun x => shapeUV x.isU) (fun x i => x ||| i) ∧
    YieldsImm (.xori nw d a imm) nw d a imm (fun x => shapeUV x.isU) (fun x i => x ^^^ i) ∧
    (amt < 32 →
      YieldsShift (.shiShl nw d a amt) nw d a Reg.shape (fun x => x <<< amt) ∧
      YieldsShift (.shiShr nw d a amt) nw d a (fun x => shapeUV x.isU) (fun x => x >>> amt) ∧
      YieldsShift (.shiSar nw d a amt) nw d a (fun x => shapeUV x.isU) (fun x => x.sshiftRight amt) ∧
      YieldsShift (.shiRotl nw d a amt) nw d a (fun x => shapeUV x.isU) (fun x => x.rotateLeft amt)) ∧
    ∀ s c, Issues s c { d := dstOp d, ext := .bits 14, cob := true } →
      ∃ v, Operand32 c imm 18 v ∧ Yields s c c.warp nw d true (.u v) (exec (.li nw d imm) s)

/-- R97, R104, R106, R107, R128: the values of the FP32 functions, on numbers, zeros, infinities and NaN. Sums, products, the fused
forms, reciprocals and square roots are the exact result rounded once to nearest, ties to even; subnormals are kept; the
transcendental functions are stated at their special values and at powers of two (their other values rest on log 12). -/
def Obligations.FloatValues : Prop :=
  ∀ x y z : Word,
    let mag : Word → Nat := fun w => w.toNat % 2 ^ 31
    let neg := fun w : Word => w.getLsbD 31
    let fin := fun w : Word => mag w < 0x7F800000
    let isInf := fun w : Word => mag w = 0x7F800000
    let nan := fun w : Word => 0x7F800000 < mag w
    let r := fun w : Word => ratOf 23 8 w.toNat
    let near := fun (q : Rat) (n : Bool) (w : Word) => Nearest 23 8 q n w.toNat
    let qnan := 0x7FC00000#32
    let signed := fun (n : Bool) (m : Nat) => (BitVec.ofNat 32 (m + if n then 2 ^ 31 else 0) : Word)
    (nan x ∨ nan y → fadd32 x y = qnan ∧ fsub32 x y = qnan ∧ fmul32 x y = qnan) ∧
    (nan x ∨ nan y ∨ nan z → fma32 x y z = qnan ∧ fms32 x y z = qnan) ∧
    (fin x → fin y → near (r x + r y) (neg x && neg y) (fadd32 x y) ∧ near (r x - r y) (neg x && !neg y) (fsub32 x y) ∧
      near (r x * r y) (neg x != neg y) (fmul32 x y) ∧
      (fin z → near (r x * r y + r z) ((neg x != neg y) && neg z) (fma32 x y z) ∧
        near (r x * r y - r z) ((neg x != neg y) && !neg z) (fms32 x y z)) ∧
      (isInf z → fma32 x y z = z ∧ fms32 x y z = z ^^^ 0x80000000#32)) ∧
    (isInf x → ¬ nan y →
      (fadd32 x y = if isInf y ∧ neg x ≠ neg y then qnan else x) ∧ fadd32 y x = fadd32 x y ∧
      (fmul32 x y = if mag y = 0 then qnan else signed (neg x != neg y) 0x7F800000) ∧ fmul32 y x = fmul32 x y ∧
      (¬ nan z → fma32 x y z = fadd32 (fmul32 x y) z ∧ fma32 y x z = fadd32 (fmul32 y x) z)) ∧
    (fsub32 x y = fadd32 x (y ^^^ 0x80000000#32)) ∧ (fms32 x y z = fma32 x y (z ^^^ 0x80000000#32)) ∧
    (let key := fun w : Word => if neg w then -1 - (mag w : Int) else (mag w : Int)
     (¬ nan x → ¬ nan y → fmin32 x y = (if key x ≤ key y then x else y) ∧ fmax32 x y = (if key x ≤ key y then y else x)) ∧
     (nan x → fmin32 x y = (if nan y then qnan else y) ∧ fmax32 x y = (if nan y then qnan else y)) ∧
     (nan y → fmin32 x y = (if nan x then qnan else x) ∧ fmax32 x y = (if nan x then qnan else x))) ∧
    (fneg32 x = if nan x then qnan else x ^^^ 0x80000000#32) ∧ (fabs32 x = if nan x then qnan else x &&& 0x7FFFFFFF#32) ∧
    (nan x → ∀ f ∈ [frcp32, frsq32, fsqrt32, fexp232, flog232, fsin32, ftanh32], f x = qnan) ∧
    (mag x = 0 → frcp32 x = signed (neg x) 0x7F800000 ∧ frsq32 x = signed (neg x) 0x7F800000 ∧ fsqrt32 x = x ∧
      fexp232 x = 0x3F800000#32 ∧ flog232 x = 0xFF800000#32 ∧ fsin32 x = x ∧ ftanh32 x = x) ∧
    (isInf x → frcp32 x = signed (neg x) 0 ∧ frsq32 x = (if neg x then qnan else 0#32) ∧ fsqrt32 x = (if neg x then qnan else x) ∧
      fexp232 x = (if neg x then 0#32 else x) ∧ flog232 x = (if neg x then qnan else x) ∧ fsin32 x = qnan ∧
      ftanh32 x = signed (neg x) 0x3F800000) ∧
    (fin x → mag x ≠ 0 → near (1 / r x) (neg x) (frcp32 x) ∧
      (neg x = true → frsq32 x = qnan ∧ fsqrt32 x = qnan ∧ flog232 x = qnan) ∧
      (neg x = false → ∀ w q, (w = fsqrt32 x ∧ q = r x) ∨ (w = frsq32 x ∧ q = 1 / r x) → fin w ∧ neg w = false ∧
        ∀ v : Word, fin v → neg v = false → (r v < r w → (r v + r w) * (r v + r w) ≤ 4 * q) ∧
          (r w < r v → 4 * q ≤ (r v + r w) * (r v + r w))) ∧
      (128 ≤ r x → fexp232 x = 0x7F800000#32) ∧ ((r x).den = 1 → fsin32 x = signed (neg x) 0)) ∧
    (∀ k : Nat, 1 ≤ k → k ≤ 254 → r x = (k : Rat) - 127 → fexp232 x = BitVec.ofNat 32 (k * 2 ^ 23)) ∧
    (∀ k : Nat, 1 ≤ k → k ≤ 254 → x = BitVec.ofNat 32 (k * 2 ^ 23) → near ((k : Rat) - 127) false (flog232 x))

/-- R97, R102 to R104, R106, R129 to R131: the values of the packed functions and of CVT: each half rounded once in its own format;
a conversion to an integer rounded under its code and then saturated, NaN to 0; conversions between the wide formats; the
special values of the narrow ones; the generator, and what its draw does to an FP32 number that becomes bf16. -/
def Obligations.ConversionValues : Prop :=
  (∀ (f : BinFmt) (fr eb a b d : Nat), (f = fBf16 ∧ fr = 7 ∧ eb = 8) ∨ (f = fF16 ∧ fr = 10 ∧ eb = 5) → a < 2 ^ 16 → b < 2 ^ 16 → d < 2 ^ 16 →
    let top := (2 ^ eb - 1) * 2 ^ fr
    let fin := fun c => c % 2 ^ 15 < top
    let neg := fun (c : Nat) => decide (2 ^ 15 ≤ c)
    let r := ratOf fr eb
    let qnan := top + 2 ^ (fr - 1)
    (top < a % 2 ^ 15 ∨ top < b % 2 ^ 15 → hadd f a b 0 = qnan ∧ hmul f a b 0 = qnan ∧ hfma f a b d = qnan) ∧
    (fin a → fin b → Nearest fr eb (r a + r b) (neg a && neg b) (hadd f a b 0) ∧
      Nearest fr eb (r a * r b) (neg a != neg b) (hmul f a b 0) ∧
      (fin d → Nearest fr eb (r a * r b + r d) ((neg a != neg b) && neg d) (hfma f a b d)) ∧
      ∀ mx, hminmax f mx a b 0 = a ∨ hminmax f mx a b 0 = b) ∧
    (fin a → fin b → r a < r b → hminmax f false a b 0 = a ∧ hminmax f true a b 0 = b)) ∧
  (∀ (f : Nat → Nat → Nat → Nat) (x y z : Word), (∀ a b d, f a b d < 2 ^ 16) → (packed f x y z).toNat =
    f (x.toNat % 2 ^ 16) (y.toNat % 2 ^ 16) (z.toNat % 2 ^ 16) +
      2 ^ 16 * f (x.toNat / 2 ^ 16) (y.toNat / 2 ^ 16) (z.toNat / 2 ^ 16)) ∧
  (∀ (w draw : Word) (rnd : Nat), rnd < 5 →
    let m := w.toNat % 2 ^ 31
    let neg := w.getLsbD 31
    let r := ratOf 23 8 w.toNat
    (∀ e ∈ [(0, true, 32), (1, false, 32), (9, true, 8), (10, false, 8), (11, true, 4), (12, false, 4), (13, true, 16), (14, false, 16)],
      let hi : Int := if e.2.1 then 2 ^ (e.2.2 - 1) - 1 else 2 ^ e.2.2 - 1
      let lo : Int := if e.2.1 then -2 ^ (e.2.2 - 1) else 0
      (0x7F800000 < m → cvtWord rnd 2 e.1 draw w = 0#32) ∧
      (m = 0x7F800000 → cvtWord rnd 2 e.1 draw w = BitVec.ofInt 32 (if neg then lo else hi)) ∧
      (m < 0x7F800000 → ∃ k, RoundsInt rnd r k ∧ cvtWord rnd 2 e.1 draw w = BitVec.ofInt 32 (max lo (min k hi)))) ∧
    (∀ e ∈ [(3, 0x7FC0, 0x7F80, 0xFF80), (4, 0x7E00, 0x7C00, 0xFC00), (5, 0x7F, 0x7E, 0xFE), (6, 0x7E, 0x7B, 0xFB), (7, 0x7, 0x7, 0xF),
        (8, 0x80, 0x7F, 0xFF)],
      (0x7F800000 < m → cvtWord rnd 2 e.1 draw w = BitVec.ofNat 32 e.2.1) ∧
      (m = 0x7F800000 → cvtWord rnd 2 e.1 draw w = BitVec.ofNat 32
        (if e.1 = 6 then (if neg then 0xFC else 0x7C) else if neg then e.2.2.2 else e.2.2.1)) ∧
      (m < 0x7F800000 → 5 ≤ e.1 → 2 ^ 20 ≤ ratDist r 0 →
        cvtWord rnd 2 e.1 draw w = BitVec.ofNat 32 (if neg then e.2.2.2 else e.2.2.1))) ∧
    (m < 0x7F800000 → Nearest 7 8 r neg (cvtWord 0 2 3 draw w).toNat ∧ Nearest 10 5 r neg (cvtWord 0 2 4 draw w).toNat ∧
      cvtWord 5 2 3 draw w = (let c := (m + draw.toNat % 2 ^ 16) / 2 ^ 16
        BitVec.ofNat 32 (min c 0x7F80 + if neg then 2 ^ 15 else 0))) ∧
    Nearest 23 8 (w.toInt : Rat) false (cvtWord 0 0 2 draw w).toNat ∧ Nearest 23 8 (w.toNat : Rat) false (cvtWord 0 1 2 draw w).toNat ∧
    (w.toNat % 2 ^ 15 < 0x7F80 → ratOf 23 8 (cvtWord rnd 3 2 draw w).toNat = ratOf 7 8 (w.toNat % 2 ^ 16)) ∧
    (w.toNat % 2 ^ 15 < 0x7C00 → ratOf 23 8 (cvtWord rnd 4 2 draw w).toNat = ratOf 10 5 (w.toNat % 2 ^ 16))) ∧
  srngStep 0#32 = srngStep 1#32 ∧ ∀ x : Word, x ≠ 0#32 →
    let a := x ^^^ (x <<< 13)
    let b := a ^^^ (a >>> 17)
    srngStep x = b ^^^ (b <<< 5)

/-- R107, R128: the FP32 instructions write their function of the lane values and are never affine.
R129 to R131, R102, R104: packed halves and CVT. Under rounding code 5 the result of CVT is V, and each lane of em steps
its generator once, even when the result is discarded; no other code touches the generators. -/
def Obligations.PackedAndConvertResults : Prop :=
  (∀ (nw : Bool) (d : Dst) (a b : Src),
    Yields2 (.fadd nw d a b) false nw d a b shapePlain fadd32 ∧
    Yields2 (.fsub nw d a b) false nw d a b shapePlain fsub32 ∧
    Yields2 (.fmul nw d a b) false nw d a b shapePlain fmul32 ∧
    Yields3 (.fma nw d a b) false nw d a b fma32 ∧
    Yields3 (.fms nw d a b) false nw d a b fms32 ∧
    Yields2 (.fmin nw d a b) false nw d a b shapePlain fmin32 ∧
    Yields2 (.fmax nw d a b) false nw d a b shapePlain fmax32 ∧
    Yields1 (.fneg nw d a) false nw d a fneg32 ∧
    Yields1 (.fabs nw d a) false nw d a fabs32 ∧
    Yields1 (.frcp nw d a) false nw d a frcp32 ∧
    Yields1 (.frsq nw d a) false nw d a frsq32 ∧
    Yields1 (.fsqrt nw d a) false nw d a fsqrt32 ∧
    Yields1 (.fexp2 nw d a) false nw d a fexp232 ∧
    Yields1 (.flog2 nw d a) false nw d a flog232 ∧
    Yields1 (.fsin nw d a) false nw d a fsin32 ∧
    Yields1 (.ftanh nw d a) false nw d a ftanh32) ∧
  ∀ (nw : Bool) (d : Dst) (a b : Src) (rnd src dst : Nat),
    Yields2 (.hadd2Bf16 nw d a b) false nw d a b shapePlain (fun x y => packed (hadd fBf16) x y 0#32) ∧
    Yields2 (.hmul2Bf16 nw d a b) false nw d a b shapePlain (fun x y => packed (hmul fBf16) x y 0#32) ∧
    Yields3 (.hfma2Bf16 nw d a b) false nw d a b (packed (hfma fBf16)) ∧
    Yields2 (.hmin2Bf16 nw d a b) false nw d a b shapePlain (fun x y => packed (hminmax fBf16 false) x y 0#32) ∧
    Yields2 (.hmax2Bf16 nw d a b) false nw d a b shapePlain (fun x y => packed (hminmax fBf16 true) x y 0#32) ∧
    Yields2 (.hadd2F16 nw d a b) false nw d a b shapePlain (fun x y => packed (hadd fF16) x y 0#32) ∧
    Yields2 (.hmul2F16 nw d a b) false nw d a b shapePlain (fun x y => packed (hmul fF16) x y 0#32) ∧
    Yields3 (.hfma2F16 nw d a b) false nw d a b (packed (hfma fF16)) ∧
    Yields2 (.hmin2F16 nw d a b) false nw d a b shapePlain (fun x y => packed (hminmax fF16 false) x y 0#32) ∧
    Yields2 (.hmax2F16 nw d a b) false nw d a b shapePlain (fun x y => packed (hminmax fF16 true) x y 0#32) ∧
    Yields2 (.pack2 nw d a b) false nw d a b shapePlain (fun x y => (x &&& 0xFFFF#32) ||| (y <<< 16)) ∧
    Yields1 (.unpkLo nw d a) false nw d a (fun x => x &&& 0xFFFF#32) ∧
    Yields1 (.unpkHi nw d a) false nw d a (fun x => x >>> 16) ∧
    (rnd ≠ 5 → Yields1 (.cvt nw d a rnd src dst) true nw d a (cvtWord rnd src dst 0#32)) ∧
    ∀ s c, Issues s c { d := dstOp d, a := srcOp a, cob := true } →
      ∃ (r : Reg) (g : List Word), r.shape = 2 ∧ g.length = 32 ∧
        (∀ l, l < 32 → g.getD l 0#32 =
          if c.em.getLsbD l then srngStep (c.warp.srng.getD l 0#32) else c.warp.srng.getD l 0#32) ∧
        (∀ l, l < 32 → r.lane l = cvtWord 5 src dst (g.getD l 0#32) ((c.read .a a).lane l)) ∧
        Yields s c { c.warp with srng := g } nw d false r (exec (.cvt nw d a 5 src dst) s)

/-- R126, R127, R132, R87: comparisons write their predicate in the lanes of em and keep its other bits, CMPI without a
combine; SEL takes its lanes from A where the selector holds, with the shape of A or B when em agrees. The conditions of CMP by
their codes, those of FCMP on numbers, zeros, infinities and NaN, and the combine codes. That a comparison, an
instruction with no register result, puts an empty entry into the latch chain is the model's choice between R21 and R126
(log 49). -/
def Obligations.ComparisonAndSelectResults : Prop :=
  (∀ x y : Word,
    let conds : List Bool := [decide (x = y), decide (x ≠ y), decide (x.toInt < y.toInt), decide (x.toInt ≤ y.toInt),
      decide (y.toInt < x.toInt), decide (y.toInt ≤ x.toInt), decide (x.toNat < y.toNat), decide (x.toNat ≤ y.toNat),
      decide (y.toNat < x.toNat), decide (y.toNat ≤ x.toNat), (List.range 32).any fun i => x.getLsbD i && y.getLsbD i,
      !(List.range 32).any fun i => x.getLsbD i && y.getLsbD i]
    (∀ cond, cond < 12 → cmpCond cond x y = conds.getD cond false) ∧
    let nan := fun w : Word => 0x7F800000 < w.toNat % 2 ^ 31
    let v := fun w : Word => if w.getLsbD 31 then -((w.toNat % 2 ^ 31 : Nat) : Int) else (w.toNat % 2 ^ 31 : Nat)
    (nan x ∨ nan y → ∀ cond, cond < 8 → fcmpCond cond x y = (cond == 1 || cond == 6)) ∧
    (¬ nan x → ¬ nan y →
      let results : List Bool := [decide (v x = v y), decide (v x ≠ v y), decide (v x < v y), decide (v x ≤ v y), decide (v y < v x),
        decide (v y ≤ v x), false, true]
      (∀ cond, cond < 8 → fcmpCond cond x y = results.getD cond false) ∧
      (x.toNat % 2 ^ 31 < 0x7F800000 → y.toNat % 2 ^ 31 < 0x7F800000 →
        (v x < v y ↔ ratOf 23 8 x.toNat < ratOf 23 8 y.toNat) ∧ (v x = v y ↔ ratOf 23 8 x.toNat = ratOf 23 8 y.toNat)))) ∧
  (∀ now old : Bool, combine 0 now old = now ∧ combine 1 now old = (now && old) ∧ combine 2 now old = (now || old)) ∧
  ∀ s c (nw : Bool) (d : Dst) (a b : Src) (cond pd pc cmb imm p : Nat) (inv : Bool),
    (Issues s c { a := srcOp a, b := srcOp b, cob := true } →
      Compares s c pd (fun l => combine cmb (cmpCond cond ((c.read .a a).lane l) ((c.read .b b).lane l))
        ((c.warp.preds.getD pc 0#32).getLsbD l)) (exec (.cmp cond pd a b pc cmb) s)) ∧
    (Issues s c { a := srcOp a, ext := .bits 20, cob := true } →
      ∃ v, Operand32 c imm 12 v ∧
        Compares s c pd (fun l => cmpCond cond ((c.read .a a).lane l) v) (exec (.cmpi cond pd a imm) s)) ∧
    (Issues s c { a := srcOp a, b := srcOp b } →
      Compares s c pd (fun l => combine cmb (fcmpCond cond ((c.read .a a).lane l) ((c.read .b b).lane l))
        ((c.warp.preds.getD pc 0#32).getLsbD l)) (exec (.fcmp cond pd a b pc cmb) s)) ∧
    (Issues s c { d := dstOp d, a := srcOp a, b := srcOp b, cob := true } →
      ∃ r : Reg,
        (c.em &&& c.pred p inv = c.em → r = c.read .a a) ∧
        (c.em ≠ 0#32 → c.em &&& c.pred p inv = 0#32 → r = c.read .b b) ∧
        (c.em &&& c.pred p inv ≠ c.em → c.em &&& c.pred p inv ≠ 0#32 → r.isV = true ∧
          ∀ l, l < 32 → r.lane l = if (c.pred p inv).getLsbD l then (c.read .a a).lane l else (c.read .b b).lane l) ∧
        Yields s c c.warp nw d false r (exec (.sel nw d a b p inv) s))

/-! ## Shapes, the window, the vector quota (spec 05) -/

/-- R133 to R136: SHQ writes the shape code; the shape tests pass or raise trap 0x06 with the code found; SHF.U writes the
lowest lane of em as U; SHF.A writes the fit of em, and where none exists raises trap 0x06 and names the second lane when the
two lowest fit no stride, and otherwise every lane that the stride they fix does not match. That it names
the second lane alone is the model's choice (log 55).
R137, R138: SHW makes the compact registers of its group V without a change of a lane, all or none, and free falls by their
number; SHN makes D compact where the live lanes allow it, its slot returns to free, again without a change of a live lane, and
otherwise it has no effect. That SHN under NW has no effect (log 20), and that a register SHW or SHN leaves as it was is not
written in the sense of R23 (log 15), are the model's choices. -/
def Obligations.ShapeResults : Prop :=
  (∀ (nw : Bool) (d : Dst) (a : Src),
    YieldsWord (.shq nw d a) { d := dstOp d, a := srcOp a, em0 := .uniform } nw d (fun _ c => BitVec.ofNat 32 (c.read .a a).shape) ∧
    (∀ s c, Issues s c { a := srcOp a, em0 := .always } →
      let test := fun ok => if ok then finishes s c c.warp else traps s c { cause := 0x06, val := .word (c.read .a a).shape }
      exec (.shaU a) s = test (decide ((c.read .a a).shape = 0)) ∧
      exec (.shaA a) s = test (decide ((c.read .a a).shape = 1)) ∧
      exec (.shaC a) s = test (decide ((c.read .a a).shape < 2))) ∧
    (∀ s c, Issues s c { d := dstOp d, a := srcOp a } →
      (c.em = 0#32 → exec (.shfU nw d a) s = finishes s c c.warp) ∧
      (c.em ≠ 0#32 → WritesWhole s c nw d (.u ((c.read .a a).lane (lowestLane c.em))) (exec (.shfU nw d a) s))) ∧
    ∀ s c, Issues s c { d := dstOp d, a := srcOp a, valued := true } →
      (c.em = 0#32 → exec (.shfA nw d a) s = finishes s c c.warp) ∧
      (c.em ≠ 0#32 → ∀ b st, FitsLanes c.em (c.read .a a) b st → WritesWhole s c nw d (.a b st) (exec (.shfA nw d a) s)) ∧
      (c.em ≠ 0#32 → (∀ b st, ¬ FitsLanes c.em (c.read .a a) b st) →
        ∃ bad : Mask, bad ≠ 0#32 ∧
          exec (.shfA nw d a) s = traps s c { cause := 0x06, val := .word (0x100 + lowestLane bad), lanes := some bad } ∧
          let second := lowestLane (c.em &&& ~~~BitVec.ofNat 32 (2 ^ lowestLane c.em))
          let two := BitVec.ofNat 32 (2 ^ lowestLane c.em + 2 ^ second)
          (∀ b st, FitsLanes two (c.read .a a) b st → ∀ l, l < 32 →
            bad.getLsbD l = (c.em.getLsbD l && (Reg.a b st).lane l != (c.read .a a).lane l)) ∧
          ((∀ b st, ¬ FitsLanes two (c.read .a a) b st) → bad = BitVec.ofNat 32 (2 ^ second)))) ∧
  ∀ s c (d : Dst) (nw : Bool) (n k : Nat),
    (Issues s c { d := .win n k 1 1 } →
      let ps := (c.places .d n k).filter fun p => !(c.warp.getReg p).isV
      let need := (ps.filter Place.counts).length
      (c.warp.free < need → exec (.shw n k) s = traps s c { cause := 0x07, val := .word (need - c.warp.free) }) ∧
      (need ≤ c.warp.free → ∃ x,
        (∀ p, p ∈ c.places .d n k → c.warp.has p → (x.getReg p).isV = true) ∧
        (∀ p l, l < 32 → (x.getReg p).lane l = (c.warp.getReg p).lane l) ∧
        (∀ p, p ∉ c.places .d n k → x.getReg p = c.warp.getReg p) ∧ ((∀ p ∈ ps, c.warp.has p) → x.free + need = c.warp.free) ∧
        { x with regs := c.warp.regs, bank := c.warp.bank, free := c.warp.free } = c.warp ∧
        exec (.shw n k) s = completes s c x (c.split.pc + 4) Latch.empty ps)) ∧
    (Issues s c { d := dstOp d, dread := true, em0 := .always } →
      (c.dst d = none → exec (.shn nw d) s = finishes s c c.warp) ∧
      ∀ p, c.dst d = some p →
        ((nw = true ∨ (c.warp.getReg p).isV = false ∨ c.live = 0#32) → exec (.shn nw d) s = finishes s c c.warp) ∧
        (nw = false → (c.warp.getReg p).isV = true → c.live ≠ 0#32 →
          (∀ v, (∀ l, l < 32 → c.live.getLsbD l = true → (c.warp.getReg p).lane l = v) →
            ∃ x, Stored c.warp x p (.u v) ∧ exec (.shn nw d) s = completes s c x (c.split.pc + 4) Latch.empty [p]) ∧
          ((¬ ∃ v, ∀ l, l < 32 → c.live.getLsbD l = true → (c.warp.getReg p).lane l = v) →
            (∀ b st, FitsLanes c.live (c.warp.getReg p) b st →
              ∃ x, Stored c.warp x p (.a b st) ∧ exec (.shn nw d) s = completes s c x (c.split.pc + 4) Latch.empty [p]) ∧
            ((∀ b st, ¬ FitsLanes c.live (c.warp.getReg p) b st) → exec (.shn nw d) s = finishes s c c.warp))))

/-- R139, R141, R17: the window base moves to a multiple of 8 that leaves the window in the allotment, or trap 0x04 says which
base was asked for; WQRY, IXSET and IXGET.
R142 to R145: RGIVE moves free slots of the warp to its core's pool, or raises trap 0x18; RCLAIM joins the core's queue of
claims and parks, completes at once for a count of 0, and raises trap 0x19 for a claim that cannot be granted; RQUOTA and
ALLOTQ. The slots of the launch floors of the core's other warps are `otherFloors`, the Cobbler's floor among them, and ALLOTQ's
count of claims stops at 63: the model's choices (log 52). -/
def Obligations.WindowAndQuota : Prop :=
  (∀ s c (nw : Bool) (d : Dst) (a : Src) (k delta : Nat),
    let move := fun (base : Int) => if 0 ≤ base ∧ 8 ∣ base ∧ base + 112 ≤ c.warp.allot
      then finishes s c { c.warp with winBase := base.toNat }
      else traps s c { cause := 0x04, val := .word (base % 2 ^ 32).toNat }
    (Issues s c { a := srcOp a, em0 := .always, valued := true } →
      (∀ v, c.read .a a = .u v → exec (.wbase a) s = move v.toInt) ∧
      ((c.read .a a).isU = false → exec (.wbase a) s = traps s c { cause := 0x06, val := .word (c.read .a a).shape })) ∧
    (Issues s c { a := srcOp a, em0 := .always } →
      (∀ v, c.read .a a = .u v → exec (.ixset a k) s = finishes s c { c.warp with xs := c.warp.xs.set k v }) ∧
      ((c.read .a a).isU = false → exec (.ixset a k) s = traps s c { cause := 0x06, val := .word (c.read .a a).shape })) ∧
    (Issues s c {} → delta < 128 →
      exec (.wbasei delta) s = move (c.warp.winBase + 8 * (BitVec.ofNat 7 delta).toInt)) ∧
    YieldsWord (.wqry nw d) { d := dstOp d } nw d (fun _ c => BitVec.ofNat 32 (c.warp.winBase + 2 ^ 16 * c.warp.allot)) ∧
    YieldsWord (.ixget nw d k) { d := dstOp d } nw d (fun _ c => c.warp.xs.getD k 0#32)) ∧
  ∀ s c (nw : Bool) (d : Dst) (a : Src) (imm : Nat),
    (Issues s c { a := srcOp a, em0 := .always, valued := true } →
      ((c.read .a a).isU = false →
        exec (.rgive a imm) s = traps s c { cause := 0x06, val := .word (c.read .a a).shape } ∧
        exec (.rclaim a imm) s = traps s c { cause := 0x06, val := .word (c.read .a a).shape }) ∧
      ∀ v n, c.read .a a = .u v → n = v.toNat + imm →
        (n ≤ c.warp.free → c.warp.floor + n ≤ c.warp.q →
          exec (.rgive a imm) s = finishesIn s (s.mapCore c.warp.core fun k => { k with pool := k.pool + n }) c
            { c.warp with q := c.warp.q - n, free := c.warp.free - n }) ∧
        (c.warp.free < n ∨ c.warp.q < c.warp.floor + n →
          exec (.rgive a imm) s = traps s c { cause := 0x18, val := .word (min c.warp.free (c.warp.q - c.warp.floor)) }) ∧
        (n = 0 → exec (.rclaim a imm) s = finishes s c c.warp) ∧
        (n ≠ 0 → 2048 < c.warp.q + n + otherFloors s c.w c.warp.core →
          exec (.rclaim a imm) s =
            traps s c { cause := 0x19, val := .word (2048 - otherFloors s c.w c.warp.core - c.warp.q) }) ∧
        (n ≠ 0 → c.warp.q + n + otherFloors s c.w c.warp.core ≤ 2048 →
          exec (.rclaim a imm) s = parksIn s (s.mapCore c.warp.core fun k => { k with claims := k.claims + 1 }) c
            (.claim n (s.core c.warp.core).claims))) ∧
    YieldsWord (.rquota nw d) { d := dstOp d } nw d (fun _ c => BitVec.ofNat 32 (c.warp.q + 2 ^ 16 * c.warp.free)) ∧
    YieldsWord (.allotq nw d) { d := dstOp d } nw d
      (fun s c => BitVec.ofNat 32 ((s.core c.warp.core).pool + 2 ^ 16 * min (claimsOn s c.warp.core).length 63))

/-! ## Lane exchange and predicates (spec 06) -/

/-- R150 to R154, R301: shuffles, reductions, prefix sums, RBAL, MATCH and FIRST see the lanes of em alone. REDUX.FADD adds in the tree of
R152, level by level, with −0 for a lane outside em. That the index of
SHFL.IDX and SHFL.XOR is taken mod 32 in a protected warp too is the model's choice (log 47). -/
def Obligations.LaneExchangeResults : Prop :=
  ∀ (nw nat : Bool) (d : Dst) (a b : Src) (n : Nat),
    let fab : Form := { d := dstOp d, a := srcOp a, b := srcOp b }
    let fa : Form := { d := dstOp d, a := srcOp a }
    let from_ := fun (c : Iss) (l k : Nat) => if k < c.warp.lanes ∧ c.em.getLsbD k = true then (c.read .a a).lane k else (c.read .a a).lane l
    let sh := fun (c : Iss) => shapePlain (c.read .a a) (c.read .b b)
    let of_b := fun (c : Iss) (l : Nat) => ((c.read .b b).lane l).toNat
    let under := fun (c : Iss) (k : Nat) => ((lanesOf c.em).filter (· < k)).map (c.read .a a).lane
    YieldsIn (.shflIdx nw d a b) fab nw d sh (fun c l => from_ c l (of_b c l % 32)) ∧
    YieldsIn (.shflUp nw d a b) fab nw d sh (fun c l => from_ c l (if of_b c l ≤ l then l - of_b c l else 32)) ∧
    YieldsIn (.shflDn nw d a b) fab nw d sh (fun c l => from_ c l (l + of_b c l)) ∧
    YieldsIn (.shflXor nw d a b) fab nw d sh (fun c l => from_ c l (l ^^^ (of_b c l % 32))) ∧
    YieldsU (.reduxAdd nw d a) fa nw d (fun c w => w = (under c 32).foldl (· + ·) 0#32) ∧
    YieldsU (.reduxMin nw d a nat) fa nw d (fun c w => w ∈ under c 32 ∧
      ∀ v ∈ under c 32, if nat then w.toNat ≤ v.toNat else w.toInt ≤ v.toInt) ∧
    YieldsU (.reduxMax nw d a nat) fa nw d (fun c w => w ∈ under c 32 ∧
      ∀ v ∈ under c 32, if nat then v.toNat ≤ w.toNat else v.toInt ≤ w.toInt) ∧
    YieldsU (.reduxFadd nw d a) fa nw d (fun c w => ∃ v : Nat → Nat → Word,
      (∀ i, i < 32 → v 0 i = if c.em.getLsbD i then (c.read .a a).lane i else 0x80000000#32) ∧
      (∀ j i, j < 5 → i < 32 → i % 2 ^ (j + 1) = 0 → v (j + 1) i = fadd32 (v j i) (v j (i + 2 ^ j))) ∧ w = v 5 0) ∧
    YieldsIn (.pfxInc nw d a) fa nw d (fun _ => 2) (fun c l => (under c (l + 1)).foldl (· + ·) 0#32) ∧
    YieldsIn (.pfxExc nw d a) fa nw d (fun _ => 2) (fun c l => (under c l).foldl (· + ·) 0#32) ∧
    YieldsIn (.matchLanes nw d a) fa nw d (fun c => shapeUV (c.read .a a).isU)
      (fun c l => maskWhere fun k => c.em.getLsbD k && (c.read .a a).lane k == (c.read .a a).lane l) ∧
    YieldsU (.firstLane nw d a) fa nw d (fun c w => w = (c.read .a a).lane (lowestLane c.em)) ∧
    ∀ s c, Issues s c { d := pairOp n, a := srcOp a, b := srcOp b } →
      let start := fun k => ((under c k).map BitVec.toNat).sum
      ∃ r0 r1 : Reg, r0.shape = 2 ∧ r1.shape = 2 ∧
        (∀ l, l < 32 → c.em.getLsbD l = true → start 32 ≤ of_b c l →
          r0.lane l = BitVec.ofNat 32 c.warp.lanes ∧ r1.lane l = BitVec.ofNat 32 (of_b c l - start 32)) ∧
        (∀ l o, l < 32 → o < 32 → c.em.getLsbD l = true → c.em.getLsbD o = true → start o ≤ of_b c l →
          of_b c l < start o + ((c.read .a a).lane o).toNat →
          r0.lane l = BitVec.ofNat 32 o ∧ r1.lane l = BitVec.ofNat 32 (of_b c l - start o)) ∧
        YieldsPair s c n false r0 r1 (exec (.rbal n a b) s)

/-- R151, R155, R32: the votes, and every function of PRED: which predicates are written whole, which in the lanes of em
alone, and what becomes of em. -/
def Obligations.PredicateResults : Prop :=
  ∀ (nw : Bool) (d : Dst) (a : Src) (pd pa pb : Nat) (inv : Bool),
    YieldsU (.voteBal nw d pa inv) { d := dstOp d } nw d (fun c w => w = c.pred pa inv &&& c.em) ∧
    YieldsIn (.ptow nw d pa false) { d := dstOp d } nw d (fun _ => 2)
      (fun c l => if (c.warp.preds.getD pa 0#32).getLsbD l then 1#32 else 0#32) ∧
    YieldsWord (.ptow nw d pa true) { d := dstOp d } nw d (fun _ c => c.warp.preds.getD pa 0#32) ∧
    YieldsWord (.ppopc nw d pa) { d := dstOp d } nw d
      (fun _ c => BitVec.ofNat 32 ((List.range 32).filter fun l => (c.warp.preds.getD pa 0#32 &&& c.em).getLsbD l).length) ∧
    (∀ s c, Issues s c {} →
      let p := fun k => c.warp.preds.getD k 0#32
      let withEm := fun m => finishes s c (c.warp.mapSplit c.sp fun t => { t with em := m })
      exec (.voteAny pd pa inv) s = writesPred s c pd (if c.pred pa inv &&& c.em ≠ 0#32 then 0xFFFFFFFF#32 else 0#32) ∧
      exec (.voteAll pd pa inv) s = writesPred s c pd (if c.pred pa inv &&& c.em = c.em then 0xFFFFFFFF#32 else 0#32) ∧
      exec (.pand pd pa pb) s = writesPredAll s c pd (p pa &&& p pb) ∧
      exec (.por pd pa pb) s = writesPredAll s c pd (p pa ||| p pb) ∧
      exec (.pxor pd pa pb) s = writesPredAll s c pd (p pa ^^^ p pb) ∧
      exec (.pandn pd pa pb) s = writesPredAll s c pd (p pa &&& ~~~p pb) ∧
      exec (.pnot pd pa) s = writesPredAll s c pd (~~~p pa) ∧
      exec (.pmov pd pa) s = writesPredAll s c pd (p pa) ∧
      exec (.emget pd) s = writesPredAll s c pd c.em ∧
      exec (.liveget pd) s = writesPredAll s c pd c.live ∧
      exec (.emset pa inv) s = withEm (c.em &&& c.pred pa inv) ∧
      exec (.emrest) s = withEm c.split.entry) ∧
    ∀ s c, (Issues s c { a := srcOp a, em0 := .always } →
      (∀ v, c.read .a a = .u v → exec (.pfromw pd a true) s = writesPredAll s c pd v) ∧
      ((c.read .a a).isU = false → exec (.pfromw pd a true) s = traps s c { cause := 0x06, val := .word (c.read .a a).shape })) ∧
      (Issues s c { a := srcOp a } → ∃ m : Mask, (∀ l, l < 32 → m.getLsbD l = decide ((c.read .a a).lane l ≠ 0#32)) ∧
        exec (.pfromw pd a false) s = writesPred s c pd m)

/-! ## Branches, calls and control (spec 01, 03, 06) -/

/-- R156, R157, R35, R80, R81, R158, R159: BRA and the BRD that does not divide move the split; under em zero BRD goes to its
reconvergence address; CALL and CALLX link; the jumps through a pair need it U, aligned and canonical (which of two failures
counts is the model's choice, log 52); XP waits for its word. -/
def Obligations.BranchResults : Prop :=
  ∀ s c (off tgt rcv d a imm p ind xs ext t : Nat) (n : Bool),
    let goes := fun pc => completes s c c.warp pc Latch.empty []
    (Issues s c { ext := .none, cob := true } →
      exec (.bra off) s = goes (wordsFrom c.split.pc (sextN off 26)) ∧
      exec (.xp ind xs ext) s = .next (s.withWarp c.w (c.warp.mapSplit c.sp fun q =>
        { q with xp := some { ind := ind, xs := xs, ext := ext }, pc := (q.pc + 4) % 2 ^ 64 }))) ∧
    (Issues s c { ext := .bits 21, cob := true, valued := true } → c.divides p n = false →
      (c.rcvDist rcv = 0 → exec (.brd p n tgt rcv) s = traps s c { cause := 0x02 }) ∧
      (c.rcvDist rcv ≠ 0 → c.em = 0#32 → exec (.brd p n tgt rcv) s = goes (wordsFrom c.split.pc (c.rcvDist rcv))) ∧
      (c.rcvDist rcv ≠ 0 → c.em ≠ 0#32 → c.em &&& c.pred p n = c.em → exec (.brd p n tgt rcv) s = goes (c.brdTarget tgt)) ∧
      (c.rcvDist rcv ≠ 0 → c.em ≠ 0#32 → c.em &&& c.pred p n = 0#32 → exec (.brd p n tgt rcv) s = goes (c.split.pc + 4))) ∧
    (Issues s c { d := pairOp d, ext := .bits 14 } → ∃ x l, Linked c x l d ∧
      exec (.call d imm) s = completes s c x
        (wordsFrom c.split.pc (if c.hasXp then sextN (c.ext * 2 ^ 18 + imm) 32 else sextN imm 18)) l
        [c.place .d d 0, c.place .d d 1]) ∧
    (let jumps := fun (i : Instr) (done : Nat → Prop) =>
      (∀ r, r.isU = false → c.regAt .a a 0 = r ∨ ((c.regAt .a a 0).isU = true ∧ c.regAt .a a 1 = r) →
        exec i s = traps s c { cause := 0x06, val := .word r.shape }) ∧
      (c.HoldsPair .a a t →
        (t % 4 ≠ 0 → exec i s = traps s c { cause := 0x09, val := .addrs (List.replicate 32 t) }) ∧
        (t % 4 = 0 → 2 ^ 56 ≤ t → exec i s = traps s c { cause := 0x1A, val := .addrs (List.replicate 32 t) }) ∧
        (t % 4 = 0 → t < 2 ^ 56 → done t))
     (Issues s c { a := pairOp a, em0 := .always, valued := true } → jumps (.brx a) (fun t => exec (.brx a) s = goes t) ∧
      jumps (.ret a) (fun t => exec (.ret a) s = goes t)) ∧
     (Issues s c { d := pairOp d, a := pairOp a, em0 := .always, valued := true } → jumps (.callx d a) fun t => ∃ x l, Linked c x l d ∧
      exec (.callx d a) s = completes s c x t l [c.place .d d 0, c.place .d d 1]))

/-- R37, R39, R41, R48: a BRD that divides em makes a join record and two splits, the taken lanes at the target and the others at
the next word, both with the reconvergence address and one level deeper; in supervisor mode it raises trap 0x01, at a
reconvergence distance of 0 trap 0x02, and without room in the Welt, or at depth 255, trap 0x13. The record's eight words go to a
Welt that is mapped; an occupant of the other slot that is not deeper than the children is suspended, and otherwise the split
that falls through. Children that stand at the reconvergence address arrive next (R38). The model's choices: a Welt that is not
mapped is served from the core (log 14), the lowest free entries are taken (log 52), and a dividing BRD of the Cobbler raises 0x01
before its other fields are looked at (log 21). -/
def Obligations.DivisionMakesTwoSplits : Prop :=
  ∀ s c (p tgt rcv : Nat) (n : Bool), issuing s = some c → c.divides p n = true →
    let i := Instr.brd p n tgt rcv
    let x := c.warp
    let q := c.split
    let o := otherSlot c.sp
    let t := c.em &&& c.pred p n
    let recv := wordsFrom q.pc (c.rcvDist rcv)
    let high := fun (a : Nat) => (BitVec.ofNat 32 (a % 2 ^ 56 / 2 ^ 32) : Word)
    let up := match q.rcv with
      | some a => a
      | none => 2 ^ 56 - 1
    let words : List Word := [BitVec.ofNat 32 (2 + 4 * q.depth), (match q.join with
        | some k => BitVec.ofNat 32 k
        | none => 0xFFFF#32),
      BitVec.ofNat 32 recv, high recv, BitVec.ofNat 32 up, high up, 0#32, 0#32]
    let record := Welt.join recv q.rcv q.join q.depth false 0#32
    let put := fun (u : State) j => if weltMapped s x j then storeRun u c.cluster (s.ctxOf x) (x.weltBase + 32 * j) (wordsBytes words)
      else postMalformed u (s.ctxOf x) [x.weltBase + 32 * j] (whoIs s x 1)
    let away := c.brdTarget tgt ≠ recv ∧ (q.pc + 4) % 2 ^ 64 ≠ recv ∧ q.entry &&& ~~~t ≠ 0#32
    let child := fun (u : Split) (pc : Nat) (em entry : Mask) (j : Nat) => u.pc = pc % 2 ^ 64 ∧ u.em = em ∧ u.entry = entry ∧
      u.rcv = some recv ∧ u.join = some j ∧ u.depth = q.depth + 1
    let taken := fun (y : Warp) (j : Nat) => (∃ u, y.split? c.sp = some u ∧ child u (c.brdTarget tgt) t t j) ∧ y.live = x.live ∧ y.preds = x.preds
    let falls := fun (u : Split) (j : Nat) => child u (q.pc + 4) (c.em &&& ~~~t) (q.entry &&& ~~~t) j
    (x.sup = true ∨ x.cobbler = true → exec i s = traps s c { cause := 0x01 }) ∧
    (Issues s c { ext := .bits 21, cob := true, valued := true } → x.sup = false → x.cobbler = false →
      (c.rcvDist rcv = 0 → exec i s = traps s c { cause := 0x02 }) ∧
      (c.rcvDist rcv ≠ 0 → q.depth = 255 ∨ (weltFree x).length < (if (x.split? o).isSome then 2 else 1) →
        exec i s = traps s c { cause := 0x13 }) ∧
      (c.rcvDist rcv ≠ 0 → q.depth < 255 → away → ∀ j rest, weltFree x = j :: rest →
        (x.split? o = none → ∃ y0 y, exec i s = .next (unlessBlocked s c ((put (s.withWarp c.w y0) j).withWarp c.w y)) ∧
          taken y j ∧ (∃ u, y.split? o = some u ∧ falls u j) ∧ y.welt = x.welt.set j record) ∧
        (∀ e k ks, x.split? o = some e → rest = k :: ks → OnCore s x j → OnCore s x k →
          e.rcv ≠ some e.pc → e.entry ≠ 0#32 → (∀ f, e.park ≠ .fail f) → ∃ y : Warp, exec i s = .next (s.withWarp c.w y) ∧ taken y j ∧
            y.weltOrder = x.weltOrder ++ [k] ∧
            (e.depth ≤ q.depth + 1 → (∃ u, y.split? o = some u ∧ falls u j) ∧ ∃ v : Split,
              y.welt = (x.welt.set j record).set k (.split v) ∧ (v.pc, v.entry, v.em, v.rcv, v.join, v.depth, v.park, v.late, v.xp) =
                (e.pc, e.entry, e.em, e.rcv, e.join, e.depth, e.park, e.late, e.xp)) ∧
            (q.depth + 1 < e.depth → y.split? o = some e ∧ ∃ v : Split,
              y.welt = (x.welt.set j record).set k (.split v) ∧ falls v j))))

/-- R38, R40, R41, R48, R160: a split that stands at its reconvergence PC, or that has lost every lane, arrives in user mode, also where
BRK holds its warp, with no load of it on its way: the first of
its record's two leaves its slot, and its lanes wait in the record; the second goes on for both at the record's PC, with the
record's own reconvergence, join and depth. A slot that an arrival leaves takes the split suspended longest. Stated where the
record's entry is served from the core (log 14), the split that comes back, or goes on, does not itself arrive at once, and no trap
waits for one of them (R48). -/
def Obligations.ArrivalsAndMerges : Prop :=
  ∀ s w sp x t, s.warps[w]? = some x → x.split? sp = some t →
    let atRcv := t.late = none ∧ (t.rcv = some t.pc ∨ t.entry = 0#32)
    let b := x.groupSwitch sp
    (¬ atRcv ∨ x.sup = true ∨ x.lives = false → settle s w sp = s) ∧
    (atRcv → (∀ f, t.park ≠ .fail f) → x.sup = false → x.lives = true → (x.split? (otherSlot sp)).isSome = true →
      ∀ j rp rcv up d arr m, t.join = some j → x.welt[j]? = some (.join rp rcv up d arr m) → OnCore s x j →
        (arr = false → x.weltOrder = [] →
          settle s w sp = s.withWarp w { b.setSplit sp none with welt := x.welt.set j (.join rp rcv up d true (m ||| t.entry)) }) ∧
        (arr = false → ∀ k rest v, x.weltOrder = k :: rest → x.welt[k]? = some (.split v) → OnCore s x k →
          v.rcv ≠ some v.pc → v.entry ≠ 0#32 → (∀ f, v.park ≠ .fail f) → settle s w sp = s.withWarp w { b.setSplit sp (some { v with since := s.clk.ns }) with
            welt := (x.welt.set j (.join rp rcv up d true (m ||| t.entry))).set k .free, weltOrder := rest, issued := 0 }) ∧
        (arr = true → rcv ≠ some rp → m ||| t.entry ≠ 0#32 → ∃ y u, settle s w sp = s.withWarp w y ∧ y.split? sp = some u ∧
          u.pc = rp ∧ u.entry = m ||| t.entry ∧ u.em = m ||| t.entry ∧ u.rcv = rcv ∧ u.join = up ∧ u.depth = d ∧
          y.welt = x.welt.set j .free ∧ y.split? (otherSlot sp) = x.split? (otherSlot sp) ∧ y.live = x.live ∧
          y.weltOrder = x.weltOrder)) ∧
    (t.late = none → t.entry = 0#32 → (∀ f, t.park ≠ .fail f) → x.sup = false → x.lives = true → (x.split? (otherSlot sp)).isSome = true →
      t.join = none → x.weltOrder = [] →
      settle s w sp = s.withWarp w (b.setSplit sp none))

/-- R160 to R164, R22: NOP, YIELD, SLEEP, PROG and WSYNC; TRAP raises its own cause; EXIT takes the lanes of em out of the live
mask and of its split's entry mask, in a handler of the saved entry mask too, and ends the warp when none is left; BAR parks until
every warp has arrived, and the warp that divides before a barrier raises trap 0x11; BRK has an effect only where the context may be
debugged. That WSYNC and BAR park even where nothing is to be waited for is the model's choice (log 28). -/
def Obligations.ControlResults : Prop :=
  ∀ s c (a : Src) (code pd idx : Nat),
    let next := c.split.pc + 4
    (Issues s c { cob := true } → exec .nop s = finishes s c c.warp) ∧
    (Issues s c {} →
      exec .yield s = switchesIn s s c c.warp next ∧
      exec .wsync s = parksAs s c .wsync ∧
      exec (.trap code) s = traps s c { cause := 0x20 + code, val := .word code } ∧
      (c.debug s = false → exec .brk s = finishes s c c.warp) ∧
      (c.debug s = true →
        let posted := postGroup s (s.ctxOf c.warp) [mkRecord (warpRec s c.warp 9 c.split.insnPc)]
        let gone := settle (posted.withWarp c.w ((c.warp.retire c.sp next Latch.empty [] s.clk.ns).groupSwitch c.sp)) c.w c.sp
        exec .brk s = .next (unlessBlocked s c (gone.mapWarp c.w fun x =>
          { x with st := if x.st = .running then .held else x.st, stopAt := s.clk.ns }))) ∧
      (∀ b, c.em ≠ 0#32 → c.siblingBar = some b → exec .exit s = traps s c { cause := 0x11, val := .word b.2 }) ∧
      (c.em = 0#32 ∨ c.siblingBar = none → c.live &&& ~~~c.em ≠ 0#32 → ∃ x : Warp,
        let emptied := c.warp.sup = true ∧ c.split.entry &&& ~~~c.em = 0#32
        (¬ emptied → exec .exit s = finishes s c x) ∧ (emptied → exec .exit s = switchesIn s s c x next) ∧
          x.live = c.live &&& ~~~c.em ∧ x.regs = c.warp.regs ∧ x.preds = c.warp.preds ∧
          x.split? c.sp = some { c.split with entry := c.split.entry &&& ~~~c.em, em := 0#32 } ∧
          x.trap = if c.warp.sup then { c.warp.trap with savedEntry := c.warp.trap.savedEntry &&& ~~~c.em } else c.warp.trap) ∧
      (c.em = 0#32 ∨ c.siblingBar = none → c.live &&& ~~~c.em = 0#32 → ∃ x : Warp, x.live = 0#32 ∧
        exec .exit s = .next (unlessBlocked s c ((s.withWarp c.w (x.retire c.sp next Latch.empty [] s.clk.ns)).run [.warpEnd c.w]))) ∧
      (∀ b, c.siblingBar = some b → b.1 ≠ c.split.pc → exec (.bar pd idx) s = traps s c { cause := 0x11, val := .word b.2 }) ∧
      ((∀ b, c.siblingBar = some b → b.1 = c.split.pc) → abandoned s c.warp.team = false →
        exec (.bar pd idx) s = parksIn s (if c.companions s idx then c.external s else s) c (.bar c.split.pc idx pd s.clk.ns)) ∧
      ((∀ b, c.siblingBar = some b → b.1 = c.split.pc) → abandoned s c.warp.team = true →
        exec (.bar pd idx) s = switchesIn s (if c.companions s idx then c.external s else s) c (c.warp.setPred c.em pd 0#32) next)) ∧
    (Issues s c { a := srcOp a, em0 := .always } → (c.read .a a).isU = false →
      exec (.sleep a) s = traps s c { cause := 0x06, val := .word (c.read .a a).shape }) ∧
    (Issues s c { a := srcOp a, cob := true, em0 := .always } → (c.read .a a).isU = false →
      exec (.prog a) s = traps s c { cause := 0x06, val := .word (c.read .a a).shape }) ∧
    (Issues s c { a := srcOp a, em0 := .always } → ∀ v, c.read .a a = .u v →
      (v = 0#32 → exec (.sleep a) s = switchesIn s s c c.warp next) ∧
      (v ≠ 0#32 → exec (.sleep a) s = parksAs s c (.sleep (s.clk.cycle + v.toNat)))) ∧
    (Issues s c { a := srcOp a, cob := true, em0 := .always } → ∀ v, c.read .a a = .u v →
      exec (.prog a) s = finishes s c { c.warp with progress := min (c.warp.progress + v.toNat) (2 ^ 32 - 1) })

/-! ## Memory, atomics and boundaries (spec 06, 09) -/

/-- R167, R169 to R171, R211, R230, R394, R359, R411: the address of a lane, the place of a private byte, and which access fails which check:
1 an address beyond 56 bits (0x1A), 2 one that is no multiple of the width (0x09), 3 one beyond its bound (0x0B), 4 a page that is not
there (0x0A), 5 a right (0x0B), 6 a key of sy.pkr (0x0C), 7 the world (0x0D); 5 to 7 on the rights that a line of L1 or L2 carries, else
on those of the translation. The first check that any lane of em fails gives the cause; sy.tlanes are the lanes that fail it and
w96 and w97 their addresses. Rows are checked alike, with the address of the first row that fails. An access that passes waits for the
peers in recovery that it reaches, and a lane's waits are counted peer by peer. That a peer's page passes 5 to 7, and that ACC of an
atomic's record is 1, are the model's choices (log 55). -/
def Obligations.AccessChecks : Prop :=
  ∀ (s : State) (c : Iss),
    let x := c.warp
    let cx := s.ctxOf x
    let size := crewScratch s (s.crewNo x)
    let causes := [0, 0x1A, 0x09, 0x0B, 0x0A, 0x0B, 0x0C, 0x0D]
    -- checks 4 to 7 of the byte at `va`
    let leafFails := fun (kind : Access) (j va : Nat) =>
      let reads := kind = .read ∨ kind = .both
      let writes := kind = .write ∨ kind = .both
      let on := fun (p : Leaf → Prop) => ∃ f, accessLeaf s c.cluster cx va = .leaf f ∧ f.cls ≠ 4 ∧ p f
      (j = 4 ∧ ∀ f, accessLeaf s c.cluster cx va ≠ .leaf f) ∨
      (j = 5 ∧ on fun f => (reads ∧ f.rd = false) ∨ (writes ∧ f.wr = false)) ∨
      (j = 6 ∧ on fun f => (reads ∧ x.pkr.testBit (2 * f.key) = false) ∨ (writes ∧ x.pkr.testBit (2 * f.key + 1) = false)) ∨
      (j = 7 ∧ on fun f =>
        let region := ∃ k, homeOf ((s.ctx cx).placement va) va = .stack k ∧
          secureAddr s k (physAddr ((s.ctx cx).placement va) f va % 2 ^ 36) = true
        if (s.ctx cx).flags.testBit 2 then ¬ (f.world = true ↔ region) else f.world = true ∨ region)
    let place := fun (k : Space) (l a : Nat) => match k with
      | .global => a
      | .priv => privateAddr x l a
    let fails := fun (k : Space) (kind : Access) (n : Nat) (addr : Nat → Nat) (j l : Nat) =>
      (j = 1 ∧ 2 ^ 56 ≤ place k l (addr l)) ∨ (j = 2 ∧ addr l % n ≠ 0) ∨
      (j = 3 ∧ k = .priv ∧ (s.launchOf x).private_ < addr l + n) ∨ ∃ i, i < n ∧ leafFails kind j (place k l (addr l + i))
    let lanesTrap := fun (bad : Nat → Nat → Prop) (shown : Nat → Nat) (o : Except Trap Unit) (base : Nat → Mask → Option State) =>
      let some_ := fun j => ∃ l, l < 32 ∧ c.em.getLsbD l = true ∧ bad j l
      ((∀ j, ¬ some_ j) → o = .ok ()) ∧
      ∀ j, some_ j → (∀ i, i < j → ¬ some_ i) → ∃ (m : Mask) (as : List Nat),
        (∀ l, l < 32 → (m.getLsbD l = true ↔ c.em.getLsbD l = true ∧ bad j l) ∧ as.getD l 0 = shown l) ∧
        o = .error { cause := causes.getD j 0, val := .addrs as, lanes := some m, base := base j m }
    (∀ a b l, c.address a b l = ((((c.regAt .a (2 * a) 0).lane l).toNat + 2 ^ 32 * ((c.regAt .a (2 * a) 1).lane l).toNat +
      ((c.read .b b).lane l).toInt + (BitVec.ofNat 21 c.ext).toInt : Int) % 2 ^ 64).toNat) ∧
    (∀ l o, privateAddr x l o = x.privBase + o / 4 * 128 + l * 4 + o % 4) ∧
    (∀ va, accessLeaf s c.cluster cx va = match l1Line? s c.cluster cx (lineOf va), s.l2Line? (s.asid cx) (lineOf va) with
      | some y, _ => .leaf y.leaf
      | none, some y => .leaf y.leaf
      | none, none => translate s cx va) ∧
    (∀ (k : Space) (kind : Access) (n : Nat) (addr : Nat → Nat), kind ≠ .execute →
      lanesTrap (fails k kind n addr) (fun l => if k = .priv then addr l % 2 ^ 32 else addr l) (c.checkAccess s k kind n addr)
        (fun j m => if j = 4 then some (postMalformed s cx ((lanesOf m).flatMap fun l => (List.range n).map fun i => place k l (addr l + i))
          (whoIs s x kind.code)) else none)) ∧
    (∀ (n : Nat) (addr : Nat → Nat),
      lanesTrap (fun j l => (j = 2 ∧ addr l % n ≠ 0) ∨ (j = 3 ∧ size < addr l + n)) (fun l => addr l % 2 ^ 32)
        (c.checkScratch s n addr) (fun _ _ => none)) ∧
    (∀ (spad : Bool) (kind : Access) (rows : List (Nat × Nat)), kind ≠ .execute →
      let bad := fun (j : Nat) (r : Nat × Nat) => r.2 ≠ 0 ∧
        if spad then j = 3 ∧ size < r.1 + r.2
        else (j = 1 ∧ 2 ^ 56 < r.1 + r.2) ∨
          ∃ va, r.1 ≤ va ∧ va < r.1 + r.2 ∧ (va = r.1 ∨ lineOf va = va) ∧ leafFails kind j va
      let o := c.checkRows s spad kind rows
      ((∀ j, ∀ r ∈ rows, ¬ bad j r) → o = .ok ()) ∧
      ∀ j pre r post, rows = pre ++ r :: post → bad j r → (∀ q ∈ pre, ¬ bad j q) → (∀ i, i < j → ∀ q ∈ rows, ¬ bad i q) →
        ∃ t, o = .error t ∧ t.cause = causes.getD j 0 ∧ t.val = .addrs (List.replicate 32 r.1) ∧ t.lanes = none ∧ (j ≠ 4 → t.base = none)) ∧
    (∀ (vas : List Nat) (w : Who), (∀ va ∈ vas, ∀ pa lev e, translate s cx va ≠ .malformed pa lev e) → postMalformed s cx vas w = s) ∧
    (∀ va p, remoteWait s c.cluster cx va = some p ↔ l1Line? s c.cluster cx (lineOf va) = none ∧
      homeOf ((s.ctx cx).placement va) va = .peer p ∧ ∃ r ∈ s.fw.inRecovery, r.peer = p) ∧
    ∀ (addr : Nat → Nat) (vas : Nat → List Nat),
      let waits := fun (l p : Nat) => ∃ va ∈ vas l, remoteWait s c.cluster cx va = some p
      ((∀ l p, l < 32 → c.em.getLsbD l = true → ¬ waits l p) → c.waitRemote s addr vas = none) ∧
      ((∃ l p, l < 32 ∧ c.em.getLsbD l = true ∧ waits l p) → ∃ ws : List PeerWait,
        c.waitRemote s addr vas = some (s.mapWarp c.w fun y => y.park c.sp (.domain ws)) ∧ (ws.map PeerWait.peer).Nodup ∧
        (∀ p, p ∈ ws.map PeerWait.peer ↔ ∃ l, l < 32 ∧ c.em.getLsbD l = true ∧ waits l p) ∧
        ∀ w ∈ ws, w.since = none ∧ ∀ l, l < 32 → (w.lanes.getLsbD l = true ↔ c.em.getLsbD l = true ∧ waits l w.peer) ∧
          (w.lanes.getLsbD l = true → w.addrs.getD l 0 = addr l))

/-- R167 to R171, R35, R403: LDG, LDP and LDS. Under em zero nothing happens; a lane that fails a check of R169 traps; a lane that
meets poison halts the warp with cause 0x15; otherwise each lane of em receives the bytes the load sees at its address, of the
line in the cluster's L1 or filled from the home, or of the crew's scratchpad; an access that reaches a peer in recovery parks.
R168: what the bytes of a load make of each register, zero or sign extended; each byte of a lane is that of its address, of the L1's
line, or of the home where L1 is passed by. Which accesses fail which check is AccessChecks. Loads whose data comes late park and
complete at LOAD_DATA_RETURN instead: the model's choice of when data is late (log 3). -/
def Obligations.LoadsComplete : Prop :=
  (∀ (w : MemWidth) (bs : List Byte), bs.length = widthBytes w → ∀ i, i < 32 →
    let bit := fun k => (bs.getD (k / 8) 0#8).getLsbD (k % 8)
    (w = .n8 ∨ w = .n16 ∨ w = .w32 → (loadWord w bs 0).getLsbD i = (decide (i < 8 * widthBytes w) && bit i)) ∧
    (w = .s8 ∨ w = .s16 → (loadWord w bs 0).getLsbD i = bit (min i (8 * widthBytes w - 1))) ∧
    (w = .w64 ∨ w = .w128 → ∀ j, j < regsOf w → (loadWord w bs j).getLsbD i = bit (32 * j + i))) ∧
  ([MemWidth.n8, .s8, .n16, .s16, .w32, .w64, .w128].map widthBytes = [1, 1, 2, 2, 4, 8, 16] ∧
    [MemWidth.n8, .s8, .n16, .s16, .w32, .w64, .w128].map regsOf = [1, 1, 1, 1, 1, 2, 4]) ∧
  (∀ s (c : Iss) (h n : Nat) (vas : Nat → List Nat) (f : Nat → Leaf),
    (∀ l, l < 32 → (vas l).length = n) → (∀ l va, l < 32 → va ∈ vas l → grantedLeaf s c.cluster (s.ctxOf c.warp) va = f (lineOf va)) →
    let cx := s.ctxOf c.warp
    let k := c.cluster
    let r := c.loadLanes s h n vas
    let named := fun va => ∃ l, l < 32 ∧ c.em.getLsbD l = true ∧ va ∈ vas l
    let lane := fun l => (laneOf r.2 l []).map Prod.fst
    (∀ l, l < 32 → c.em.getLsbD l = true → (lane l).length = n) ∧
    ((∀ va, named va → ∃ x, l1Line? s k cx (lineOf va) = some x ∧ x.bytes.length = 128) →
      r.1.mem = s.mem ∧ (∀ j cy l va, seenByte r.1 j cy l va = seenByte s j cy l va) ∧
      ∀ l i, l < 32 → c.em.getLsbD l = true → i < n →
        (lane l).getD i 0#8 = seenByte s k cx (f (lineOf ((vas l).getD i 0))) ((vas l).getD i 0)) ∧
    ((h = 3 ∨ l1Ways (s.cluster k) = 0) →
      (∀ va, named va → l1Line? s k cx (lineOf va) = none ∧
        (homeInL2 s cx (f (lineOf va)) (lineOf va) = true → (s.l2Line? (s.asid cx) (lineOf va)).isSome = true)) →
      r.1.clusters = s.clusters ∧ r.1.mem.home = s.mem.home ∧ r.1.mem.host = s.mem.host ∧
      ∀ l i, l < 32 → c.em.getLsbD l = true → i < n →
        (lane l).getD i 0#8 = homeByte s cx (f (lineOf ((vas l).getD i 0))) ((vas l).getD i 0))) ∧
  ∀ s c (nw : Bool) (w : MemWidth) (d : LdReg) (a : Nat) (b : Src) (h : Nat),
    let addr := c.address a b
    let n := widthBytes w
    let seen := fun (k : Space) => c.loadLanes s h n fun l => c.byteAddrs k n l (addr l)
    let poisoned := fun (k : Space) => ((seen k).2.filter fun e => e.2.any Prod.snd).map Prod.fst
    let bytes := fun (k : Space) l => (laneOf (seen k).2 l []).map Prod.fst
    let halts := fun (at_ : Nat → Nat) (bad : List Nat) =>
      traps s c { cause := 0x15, val := .addrs ((List.range 32).map at_), lanes := some (maskWhere bad.contains) }
    let rotten := (lanesOf c.em).filter fun l => (List.range n).any fun i => scratchBad s (s.crewNo c.warp) (addr l + i)
    (Issues s c (loadForm w d a b true) →
      (c.em = 0#32 → exec (.ldg nw w d a b h) s = finishes s c c.warp ∧ exec (.lds nw w d a b) s = finishes s c c.warp) ∧
      (c.em ≠ 0#32 → ∀ t, c.checkAccess s .global .read n addr = .error t → exec (.ldg nw w d a b h) s = traps s c t) ∧
      (c.em ≠ 0#32 → Awaits s c .global .read n addr fun o => exec (.ldg nw w d a b h) s = o) ∧
      (c.em ≠ 0#32 → Reaches s c .global .read n addr →
        (poisoned .global ≠ [] → exec (.ldg nw w d a b h) s = halts addr (poisoned .global)) ∧
        (poisoned .global = [] → (seen .global).1.sched.late = false →
          Loads s (seen .global).1 c nw w d (c.uniformAddress a b) (bytes .global) (exec (.ldg nw w d a b h) s))) ∧
      (c.em ≠ 0#32 → ∀ t, c.checkScratch s n addr = .error t → exec (.lds nw w d a b) s = traps s c t) ∧
      (c.em ≠ 0#32 → c.checkScratch s n addr = .ok () →
        (rotten ≠ [] → exec (.lds nw w d a b) s = halts addr rotten) ∧
        (rotten = [] → s.sched.late = false →
          Loads s s c nw w d (c.uniformAddress a b) (fun l => scratchBytes s (s.crewNo c.warp) (addr l) n)
            (exec (.lds nw w d a b) s)))) ∧
    (Issues s c (loadForm w d a b false) →
      (c.em = 0#32 → exec (.ldp nw w d a b h) s = finishes s c c.warp) ∧
      (c.em ≠ 0#32 → ∀ t, c.checkAccess s .priv .read n addr = .error t → exec (.ldp nw w d a b h) s = traps s c t) ∧
      (c.em ≠ 0#32 → Awaits s c .priv .read n addr fun o => exec (.ldp nw w d a b h) s = o) ∧
      (c.em ≠ 0#32 → Reaches s c .priv .read n addr →
        (poisoned .priv ≠ [] → exec (.ldp nw w d a b h) s = halts (fun l => privateAddr c.warp l (addr l)) (poisoned .priv)) ∧
        (poisoned .priv = [] → (seen .priv).1.sched.late = false →
          Loads s (seen .priv).1 c nw w d false (bytes .priv) (exec (.ldp nw w d a b h) s))))

/-- R167 to R172: STG, STP and STS write each lane's bytes at its address, in lane order, and no register; STG and STS are
external effects of the team (R298); one that reaches a peer in recovery parks. Byte i of what a lane stores is byte i mod 4 of its
register i / 4. That a store is performed when it issues is the model's choice (log 3). What they leave
alone: no other warp, core or queue, and no scratchpad but the bytes STS stores. STG and STP store to the bytes of Iss.address, and
of privateAddr of it: where the cluster's L1 holds the lines, every byte of every address space is seen as before by every
cluster but the stored ones by this one; where they pass the L1 and their L2 slice holds them in data ways, every byte stands at
its home as before but the stored ones; there the last lane's byte stands. -/
def Obligations.StoresComplete : Prop :=
  ∀ s c (w : MemWidth) (d : StReg) (a : Nat) (b : Src) (h : Nat), Issues s c (storeForm w d a b) →
    let addr := c.address a b
    let n := widthBytes w
    let crew := s.crewNo c.warp
    let k := c.cluster
    let cx := s.ctxOf c.warp
    let stored := fun (p : Space) => c.storeLanes s h (fun l => c.byteAddrs p n l (addr l)) (c.storeData w d)
    let put := (lanesOf c.em).flatMap fun l => (List.range n).map fun i => (addr l + i, (c.storeData w d l).getD i 0#8)
    let named := fun (p : Space) => (lanesOf c.em).flatMap fun l =>
      ((List.range n).map fun i => match p with
        | .global => addr l + i
        | .priv => privateAddr c.warp l (addr l + i)).zip (c.storeData w d l)
    let after := fun (p : Space) (va : Nat) (old : Byte) => match ((named p).filter fun e => e.1 == va).getLast? with
      | some e => e.2
      | none => old
    (c.em = 0#32 → exec (.stg w d a b h) s = finishes s c c.warp ∧ exec (.stp w d a b h) s = finishes s c c.warp ∧
      exec (.sts w d a b) s = finishes s c c.warp) ∧
    (c.em ≠ 0#32 →
      (∀ t, c.checkAccess s .global .write n addr = .error t → exec (.stg w d a b h) s = traps s c t) ∧
      (∀ t, c.checkAccess s .priv .write n addr = .error t → exec (.stp w d a b h) s = traps s c t) ∧
      Awaits s c .global .write n addr (fun o => exec (.stg w d a b h) s = o) ∧
      Awaits s c .priv .write n addr (fun o => exec (.stp w d a b h) s = o) ∧
      (∀ t, c.checkScratch s n addr = .error t → exec (.sts w d a b) s = traps s c t) ∧
      (Reaches s c .global .write n addr → exec (.stg w d a b h) s = finishesIn s (c.external (stored .global)) c c.warp) ∧
      (Reaches s c .priv .write n addr → exec (.stp w d a b h) s = finishesIn s (stored .priv) c c.warp) ∧
      (c.checkScratch s n addr = .ok () → exec (.sts w d a b) s = finishesIn s (c.external (scratchPut s crew put)) c c.warp)) ∧
    (∀ l i, l < 32 →
      (∀ r, d = .one r → i < n → w ≠ .w64 → w ≠ .w128 →
        (c.storeData w d l).getD i 0#8 = BitVec.ofNat 8 (((c.read .d r).lane l).toNat / 2 ^ (8 * i))) ∧
      (∀ r, d = .group r → w = .w64 ∨ w = .w128 → i < n →
        (c.storeData w d l).getD i 0#8 = BitVec.ofNat 8 (((c.regAt .d r (i / 4)).lane l).toNat / 2 ^ (8 * (i % 4))))) ∧
    (MemInv s → ∀ k x, (k ≠ (s.crew crew).cluster ∨ ∀ e ∈ put, scratchAddr s crew e.1 ≠ x) →
      memGet ((scratchPut s crew put).cluster k).sram x = memGet (s.cluster k).sram x) ∧
    ∀ p : Space,
      (let t := stored p
       t.warps = s.warps ∧ t.teams = s.teams ∧ t.crews = s.crews ∧ t.cores = s.cores ∧ t.launches = s.launches ∧
       ∀ j, (t.cluster j).sram = (s.cluster j).sram ∧ (t.cluster j).badSram = (s.cluster j).badSram) ∧
      ((∀ e ∈ named p, ∃ x, l1Line? s k cx (lineOf e.1) = some x ∧ x.bytes.length = 128) →
        (stored p).mem = s.mem ∧ ∀ j cy l va, seenByte (stored p) j cy l va =
          if j = k ∧ s.asid cy = s.asid cx then after p va (seenByte s j cy l va) else seenByte s j cy l va) ∧
      ((h = 3 ∨ l1Ways (s.cluster k) = 0) → s.snap.cut ≠ 2 → s.snap.st ≠ 2 →
        (∀ e ∈ named p, l1Line? s k cx (lineOf e.1) = none ∧ fencedStack s (ctlOf ((s.ctx cx).placement (lineOf e.1)) (lineOf e.1)) = false ∧
          ∃ x, s.l2Line? (s.asid cx) (lineOf e.1) = some x ∧ x.bytes.length = 128 ∧ x.form = 0 ∧
            homeInL2 s cx x.leaf (lineOf e.1) = true) →
        (stored p).clusters = s.clusters ∧ (stored p).mem.home = s.mem.home ∧ (stored p).mem.host = s.mem.host ∧
        ∀ cy l va, homeByte (stored p) cy l va =
          if s.asid cy = s.asid cx ∧ l.sysa = false ∧ fencedHome s cy (lineOf va) = false then after p va (homeByte s cy l va)
          else homeByte s cy l va)

/-- R169, R173, R174, R258, R303, R308: what a load and a store of one line do. A line in the L1 is read and written there, and no byte
of any memory or of L2 changes; a line that is not there is filled from its home, clean and with its hint's mark, where its set
has room, and read and written at the home where no-allocate or a cluster with no bank in L1 mode leaves it out; for a full set a
line of it is written back and leaves first, or the access passes the L1; a set never grows over the ways. After a store the cluster sees the last byte stored at each offset and every other byte of the line as
before. The CACHE instructions act on the lines their lanes name and on no register: PREF loads a line that the checks of R169
admit, DEMOTE takes evict-last marks away, CLEANL writes a line back and keeps it clean, INVL writes it back and drops it. -/
def Obligations.CacheLines : Prop :=
  (∀ (s : State) (k cx : Nat) (l : Leaf) (va h : Nat) (ws : List (Nat × Byte)),
     lineOf va = va → k < s.clusters.length → (∀ w ∈ ws, w.1 < 128) → (∀ y ∈ s.mem.l2, y.bytes.length = 128) →
     let r := loadLine s k cx l va h
     let t := storeLine s k cx l va h ws
     let ways := l1Ways (s.cluster k)
     let home := homeLine s cx l va
     let place := ctlOf ((s.ctx cx).placement va) va
     let roomL2 := homeInL2 s cx l va = true → (s.l2Line? (s.asid cx) va).isSome = true ∨ l2Room s place = true
     let wrote := fun (old : Byte) (o : Nat) => match (ws.filter fun w => w.1 == o).getLast? with
       | some w => w.2
       | none => old
     (∀ x, l1Line? s k cx va = some x → x.bytes.length = 128 → r.2.1 = x.bytes ∧ r.1.mem = s.mem ∧ t.mem = s.mem ∧
       ∀ o, o < 128 → seenByte t k cx l (va + o) = wrote (x.bytes.getD o 0#8) o) ∧
     (l1Line? s k cx va = none → roomL2 →
       (h = 3 ∨ ways = 0 ∨ (setLines s k va).length < ways →
         r.2.1 = home.1 ∧ r.1.mem.home = s.mem.home ∧ r.1.mem.host = s.mem.host) ∧
       (h = 3 ∨ ways = 0 → r.1.clusters = s.clusters ∧
         (homeInL2 s cx l va = true → l2Room s place = true ∨ (∃ x, s.l2Line? (s.asid cx) va = some x ∧ x.form = 0) →
           s.snap.cut ≠ 2 → stalls s cx [(va, l)] = false →
           t.clusters = s.clusters ∧ ∀ o, o < 128 → homeByte t cx l (va + o) = wrote (homeByte s cx l (va + o)) o)) ∧
       (h ≠ 3 → (setLines s k va).length < ways →
         (∃ x, l1Line? r.1 k cx va = some x ∧ (x.bytes, x.poison) = home ∧ x.dirty = List.replicate 128 false ∧
           x.mark = if h = 1 ∨ h = 2 then h else 0) ∧
         (∀ v, v ≠ va → l1Line? r.1 k cx v = l1Line? s k cx v) ∧ t.mem.home = s.mem.home ∧
         ∀ o, o < 128 → seenByte t k cx l (va + o) = wrote (homeByte s cx l (va + o)) o)) ∧
     (l1Line? s k cx va = none → h ≠ 3 → ways ≠ 0 → (setLines s k va).length = ways →
       (∃ y ∈ setLines s k va, r = loadLine (evictL1 s k y) k cx l va h) ∨ r.1.clusters = s.clusters) ∧
     (setLines r.1 k va).length ≤ max (setLines s k va).length ways) ∧
  ∀ s c (a : Nat) (b : Src) (h : Nat), Issues s c { a := pair6 a, b := srcOp b, ext := .bits 21 } →
    let each := fun (f : State → Nat → State) => finishesIn s ((c.namedLines a b).foldl f s) c c.warp
    let k := c.cluster
    let cx := s.ctxOf c.warp
    let line := fun (f : State → Nat → Line → State) (u : State) (va : Nat) => match l1Line? u k cx va with
      | some x => f u k x
      | none => u
    exec (.pref a b h) s = each (c.prefetch h) ∧ exec (.demote a b h) s = each c.unmark ∧
    exec (.cleanl a b h) s = each (line cleanL1) ∧ exec (.invl a b h) s = each (line evictL1) ∧
    ∀ va, lineOf va = va →
      (let fails := leafCheck s cx c.warp.pkr .read va (accessLeaf s k cx va)
       let leaf := grantedLeaf s k cx va
       (fails ≠ none ∨ remoteWait s k cx va ≠ none → c.prefetch h s va = s) ∧
       (fails = none → remoteWait s k cx va = none →
         (h ≠ 3 → c.prefetch h s va = (loadLine s k cx leaf va h).1) ∧ (h = 3 → (c.prefetch h s va).clusters = s.clusters))) ∧
      (let f : Line → Line := fun x => if x.asid = (s.ctx cx).asid ∧ x.va = va ∧ x.mark = 2 then { x with mark := 0 } else x
       c.unmark s va = { s.mapCluster k fun y => { y with l1 := y.l1.map f } with mem := { s.mem with l2 := s.mem.l2.map f } }) ∧
      ∀ x, l1Line? s k cx va = some x → k < s.clusters.length → x.bytes.length = 128 →
        l1Line? (evictL1 s k x) k cx va = none ∧
        (refusedNow s x = false →
          (∃ y, l1Line? (cleanL1 s k x) k cx va = some y ∧ y.bytes = x.bytes ∧ (x.dirty.any id = true → y.dirty = List.replicate 128 false)) ∧
          (let l := wbLeaf s x
           let place := ctlOf ((s.ctx x.ctx).placement va) va
           homeInL2 s x.ctx l va = true → fencedStack s place = false → s.snap.cut ≠ 2 → stalls s x.ctx [(va, l)] = false →
           (∀ y ∈ s.mem.l2, y.bytes.length = 128) →
           l2Room s place = true ∨ (∃ y, s.l2Line? (s.asid x.ctx) va = some y ∧ y.form = 0) →
           ∀ u, u = cleanL1 s k x ∨ u = evictL1 s k x → ∀ o, o < 128 →
            homeByte u x.ctx l (va + o) = if x.dirty.getD o false then x.bytes.getD o 0#8 else homeByte s x.ctx l (va + o)))

/-- R176: what each read-modify-write operation makes of the old word and its data. -/
def Obligations.AtomicOperations : Prop :=
  ∀ o b b2 : Word,
    atomNew .add o b b2 = o + b ∧ atomNew .inc o b b2 = (if b ≤ o then 0#32 else o + 1#32) ∧
    atomNew .dec o b b2 = (if o = 0#32 ∨ b < o then b else o - 1#32) ∧ atomNew .xchg o b b2 = b ∧
    atomNew .andOp o b b2 = o &&& b ∧ atomNew .orOp o b b2 = o ||| b ∧ atomNew .xorOp o b b2 = o ^^^ b ∧
    atomNew .cas o b b2 = (if o = b then b2 else o) ∧
    atomNew .minS o b b2 = (if o.sle b then o else b) ∧ atomNew .maxS o b b2 = (if b.sle o then o else b) ∧
    atomNew .minN o b b2 = (if o ≤ b then o else b) ∧ atomNew .maxN o b b2 = (if b ≤ o then o else b) ∧
    atomNew .faddF32 o b b2 = fadd32 o b ∧ atomNew .fminF32 o b b2 = fmin32 o b ∧ atomNew .fmaxF32 o b b2 = fmax32 o b ∧
    (atomNew .faddBf16x2 o b b2).toNat = hadd fBf16 (o.toNat % 2 ^ 16) (b.toNat % 2 ^ 16) 0 % 2 ^ 16 +
      2 ^ 16 * (hadd fBf16 (o.toNat / 2 ^ 16) (b.toNat / 2 ^ 16) 0 % 2 ^ 16)

/-- R172, R177, R178, R303, R362: the memory effect of the lanes of an atomic. Lanes that name one word act one after another in lane order,
each seeing what the one before left; D takes the old values; the word holds what the last lane left, and every other byte, register
and cluster is as it was. A scope that names only the issuing cluster, with a bank in L1 mode, has it in the L1's line; a page for
system-wide atomics at its controller or in host memory; anything else at its home L2, after the cluster's copy of the line has gone
home. On the scratchpad the same, at the bank. -/
def Obligations.AtomicEffects : Prop :=
  ∀ (s : State) (c : Iss) (addr : Nat → Nat) (f : Nat → Word → Word),
    let k := c.cluster
    let cx := s.ctxOf c.warp
    let crew := s.crewNo c.warp
    let on := fun l => l < 32 ∧ c.em.getLsbD l = true
    let leaf := fun l => grantedLeaf s k cx (addr l)
    -- the old values `old` are those of the lanes' words, `word a` being the word at `a` before
    let Chain := fun (word : Nat → Nat → Word) (old : Nat → Word) => ∀ l, on l →
      ((∀ j, on j → j < l → addr j ≠ addr l) → old l = word l (addr l)) ∧
      ∀ j, on j → j < l → addr j = addr l → (∀ i, on i → j < i → i < l → addr i ≠ addr l) → old l = f j (old j)
    -- what a byte holds after, where it held `b`
    let after := fun (old : Nat → Word) (a : Nat) (b : Byte) =>
      match ((lanesOf c.em).filter fun l => decide (addr l ≤ a) && decide (a < addr l + 4)).getLast? with
      | some l => BitVec.ofNat 8 ((f l (old l)).toNat / 2 ^ (8 * (a - addr l)))
      | none => b
    let wordOf := fun (byte : Nat → Byte) (a : Nat) => BitVec.ofNat 32 (leNat ((List.range 4).map fun i => byte (a + i)))
    let aligned := ∀ l, on l → addr l % 4 = 0
    let core := fun (t : State) => t.warps = s.warps ∧ t.teams = s.teams ∧ t.crews = s.crews ∧ t.cores = s.cores ∧ t.launches = s.launches
    (∀ only, let r := c.atomLanes s only addr f
      let old := fun l => laneOf r.2.1 l 0#32
      r.2.1.map Prod.fst = lanesOf c.em ∧
      (aligned → only = true → l1Ways (s.cluster k) ≠ 0 → (∀ l, on l → (leaf l).sysa = false) →
        (∀ l, on l → ∃ x, l1Line? s k cx (lineOf (addr l)) = some x ∧ x.bytes.length = 128) →
        core r.1 ∧ r.1.mem = s.mem ∧ Chain (fun l => wordOf (seenByte s k cx (leaf l))) old ∧
        ∀ j cy lf a, seenByte r.1 j cy lf a =
          if j = k ∧ s.asid cy = s.asid cx then after old a (seenByte s j cy lf a) else seenByte s j cy lf a) ∧
      (aligned → only = false ∨ l1Ways (s.cluster k) = 0 → s.snap.cut ≠ 2 → s.snap.st ≠ 2 →
        (∀ l, on l → l1Line? s k cx (lineOf (addr l)) = none ∧
          fencedStack s (ctlOf ((s.ctx cx).placement (lineOf (addr l))) (lineOf (addr l))) = false ∧
          ∃ x, s.l2Line? (s.asid cx) (lineOf (addr l)) = some x ∧ x.bytes.length = 128 ∧ x.form = 0 ∧ x.leaf.cmpr = false ∧
            homeInL2 s cx x.leaf (lineOf (addr l)) = true) →
        core r.1 ∧ r.1.clusters = s.clusters ∧ r.1.mem.home = s.mem.home ∧ r.1.mem.host = s.mem.host ∧
        Chain (fun l => wordOf (homeByte s cx (leaf l))) old ∧
        ∀ cy lf a, homeByte r.1 cy lf a =
          if s.asid cy = s.asid cx ∧ lf.sysa = false ∧ fencedHome s cy (lineOf a) = false then after old a (homeByte s cy lf a)
          else homeByte s cy lf a)) ∧
    -- one lane, wherever its word lies
    (∀ (only : Bool) (l : Nat) (seen : Option Word), let a := addr l
      let r := atomAt s k cx only a (f l) seen
      let home := ¬ (only = true ∧ (leaf l).sysa = false ∧ l1Ways (s.cluster k) ≠ 0)
      (home → r = atomHome s k cx (leaf l) a (f l) seen) ∧
      (∀ x, l1Line? s k cx (lineOf a) = some x → home →
        r = atomHome (evictL1 s k x) k cx (leaf l) a (f l) seen ∧ l1Line? (evictL1 s k x) k cx (lineOf a) = none) ∧
      (home → a % 4 = 0 → l1Line? s k cx (lineOf a) = none → s.snap.cut ≠ 2 → s.snap.st ≠ 2 → seen = none →
        let put := fun (base : Nat) (old : Word) => (List.range 4).map fun i =>
          (base + (a % 128 + i), (BitVec.ofNat 8 ((f l old).toNat / 2 ^ (8 * i)) : Byte))
        (∀ n, (leaf l).sysa = true → homeOf ((s.ctx cx).placement (lineOf a)) (lineOf a) = .stack n → fencedStack s n = false →
          let base := physAddr ((s.ctx cx).placement (lineOf a)) (leaf l) (lineOf a)
          r.2.1 = wordOf (fun b => homeByte s cx (leaf l) b) a ∧ r.1.mem.home = memPut s.mem.home (put base r.2.1) ∧
            r.1.clusters = s.clusters ∧ r.1.mem.l2 = s.mem.l2 ∧ r.1.mem.host = s.mem.host) ∧
        (homeOf ((s.ctx cx).placement (lineOf a)) (lineOf a) = .hub → (leaf l).sysa = true ∨ s.l2Line? (s.asid cx) (lineOf a) = none →
          let base := hostAddr (leaf l) (lineOf a)
          r.2.1 = wordOf (fun b => homeByte s cx (leaf l) b) a ∧ r.1.mem.host = memPut s.mem.host (put base r.2.1) ∧
            r.1.clusters = s.clusters ∧ r.1.mem.l2 = s.mem.l2 ∧ r.1.mem.home = s.mem.home))) ∧
    -- the scratchpad
    (let r := c.atomsLanes s addr f
     let old := fun l => laneOf r.2 l 0#32
     let size := crewScratch s crew
     r.2.map Prod.fst = lanesOf c.em ∧
     (aligned → (∀ l, on l → addr l + 4 ≤ size) → (s.crew crew).cluster < s.clusters.length → MemInv s →
       (∀ a b, a < size → b < size → scratchAddr s crew a = scratchAddr s crew b → a = b) →
       core r.1 ∧ r.1.mem = s.mem ∧ Chain (fun _ => wordOf (scratchByte s crew)) old ∧
       (∀ a, a < size → scratchByte r.1 crew a = after old a (scratchByte s crew a)) ∧
       ∀ j p, (j ≠ (s.crew crew).cluster ∨ ∀ l i, on l → i < 4 → scratchAddr s crew (addr l + i) ≠ p) →
         memGet (r.1.cluster j).sram p = memGet (s.cluster j).sram p))

/-- R175 to R179: every global and every scratchpad atomic completes (what its lanes leave in memory is AtomicEffects); one lane's scratchpad atomic reads the word of its offset and
leaves in it the new word. -/
def Obligations.AtomicsComplete : Prop :=
  (∀ (d : Dst) (a n : Nat) (b : Src) (sc : Nat),
     AtomicCompletes (.atomiAdd d a b sc) .add d a (.one b) sc ∧ AtomicCompletes (.atomiInc d a b sc) .inc d a (.one b) sc ∧
     AtomicCompletes (.atomiDec d a b sc) .dec d a (.one b) sc ∧ AtomicCompletes (.atomiXchg d a b sc) .xchg d a (.one b) sc ∧
     AtomicCompletes (.atomlAnd d a b sc) .andOp d a (.one b) sc ∧ AtomicCompletes (.atomlOr d a b sc) .orOp d a (.one b) sc ∧
     AtomicCompletes (.atomlXor d a b sc) .xorOp d a (.one b) sc ∧ AtomicCompletes (.atomlCas d a n sc) .cas d a (.pair n) sc ∧
     AtomicCompletes (.atommMinS d a b sc) .minS d a (.one b) sc ∧ AtomicCompletes (.atommMinN d a b sc) .minN d a (.one b) sc ∧
     AtomicCompletes (.atommMaxS d a b sc) .maxS d a (.one b) sc ∧ AtomicCompletes (.atommMaxN d a b sc) .maxN d a (.one b) sc ∧
     AtomicCompletes (.atomfFaddF32 d a b sc) .faddF32 d a (.one b) sc ∧
     AtomicCompletes (.atomfFaddBf16x2 d a b sc) .faddBf16x2 d a (.one b) sc ∧
     AtomicCompletes (.atomfFminF32 d a b sc) .fminF32 d a (.one b) sc ∧
     AtomicCompletes (.atomfFmaxF32 d a b sc) .fmaxF32 d a (.one b) sc) ∧
  ∀ (nw : Bool) (d : Dst) (a : Src) (n : Nat) (b : Src),
    ScratchAtomicCompletes (.atomsAdd nw d a b) .add nw d a (.one b) ∧
    ScratchAtomicCompletes (.atomsInc nw d a b) .inc nw d a (.one b) ∧
    ScratchAtomicCompletes (.atomsDec nw d a b) .dec nw d a (.one b) ∧
    ScratchAtomicCompletes (.atomsXchg nw d a b) .xchg nw d a (.one b) ∧
    ScratchAtomicCompletes (.atomsAnd nw d a b) .andOp nw d a (.one b) ∧
    ScratchAtomicCompletes (.atomsOr nw d a b) .orOp nw d a (.one b) ∧
    ScratchAtomicCompletes (.atomsXor nw d a b) .xorOp nw d a (.one b) ∧
    ScratchAtomicCompletes (.atomsCas nw d a n) .cas nw d a (.pair n) ∧
    ScratchAtomicCompletes (.atomsMinS nw d a b) .minS nw d a (.one b) ∧
    ScratchAtomicCompletes (.atomsMinN nw d a b) .minN nw d a (.one b) ∧
    ScratchAtomicCompletes (.atomsMaxS nw d a b) .maxS nw d a (.one b) ∧
    ScratchAtomicCompletes (.atomsMaxN nw d a b) .maxN nw d a (.one b) ∧
    ScratchAtomicCompletes (.atomsFaddF32 nw d a b) .faddF32 nw d a (.one b) ∧
    ScratchAtomicCompletes (.atomsFaddBf16x2 nw d a b) .faddBf16x2 nw d a (.one b) ∧
    ∀ (s : State) (c : Iss) (l x : Nat) (f : Nat → Word → Word), MemInv s → c.em = BitVec.ofNat 32 (2 ^ l) → l < 32 →
      (s.crew (s.crewNo c.warp)).cluster < s.clusters.length → x % 4 = 0 →
      let crew := s.crewNo c.warp
      let r := c.atomsLanes s (fun _ => x) f
      r.2 = [(l, BitVec.ofNat 32 (scratchNat s crew x 4))] ∧
        scratchNat r.1 crew x 4 = (f l (BitVec.ofNat 32 (scratchNat s crew x 4))).toNat

/-- R180, R255, R389: a phase boundary at an entry that is not valid, or retired, raises trap 0x10; while an access of another split
of the warp is not performed it waits; at a scope that names only the issuing cluster it completes at once, with a group switch;
otherwise its release is made and the split parks until the boundary is done. The entry is read when the boundary first issues:
one that parks keeps the words of a driver's entry, and uses them, unchecked, when it issues again. -/
def Obligations.BoundariesBegin : Prop :=
  ∀ s c (sc : Nat), Issues s c { ext := .none } →
    let cx := s.ctxOf c.warp
    let k := c.scopeAt s sc
    let ok := c.scopeOk s sc = true
    let next := c.split.pc + 4
    let rel := release (c.external s) c.cluster k (some (whoIs s c.warp 1))
    let comes := fun i o => exec i s = latching s sc o
    let trapped := traps s c { cause := 0x10 }
    let waits := parksAs s c .older
    (¬ ok → comes (.phrel sc) trapped ∧ comes (.phacq sc) trapped ∧ comes (.phar sc) trapped) ∧
    (ok → c.warp.accessOpen (.slot c.sp) = true → comes (.phrel sc) waits ∧ comes (.phacq sc) waits ∧ comes (.phar sc) waits) ∧
    (ok → c.warp.accessOpen (.slot c.sp) = false → k.onlyHome c.cluster = true →
      comes (.phrel sc) (switchesIn s (c.external s) c c.warp next) ∧
      comes (.phacq sc) (switchesIn s s c c.warp next) ∧ comes (.phar sc) (switchesIn s (c.external s) c c.warp next)) ∧
    (ok → c.warp.accessOpen (.slot c.sp) = false → k.onlyHome c.cluster = false →
      comes (.phrel sc) (parksIn s rel.1 c (.boundary true false rel.2.1 rel.2.2)) ∧
      comes (.phacq sc) (parksAs s c (.boundary false true 0 0)) ∧
      comes (.phar sc) (parksIn s rel.1 c (.boundary true true rel.2.1 rel.2.2))) ∧
    (c.latched = none → k = scopeOf s c.cluster cx sc ∧ (ok ↔ k.usable = true)) ∧
    (∀ ws, c.latched = some ws → 5 ≤ sc → k = scopeOfWords (s.ctx cx) ws ∧ ok) ∧
    ∀ (u : State) (y : Warp) (q : Split), u.warps[c.w]? = some y → y.split? c.sp = some q →
      let left := latching s sc (.next u)
      let stays := q.pc = c.split.pc ∧ q.park ≠ .no
      (¬ stays → left = .next u) ∧
      (stays → ∀ h, q.held = some h → ∃ z, left = .next (u.withWarp c.w z) ∧ z.split? c.sp = some { q with held := some { h with
        scope := some (h.scope.getD (sc, if 5 ≤ sc then heldScope s c.cluster cx sc else [])) } } ∧
        z.split? (otherSlot c.sp) = y.split? (otherSlot c.sp) ∧ { z with split0 := y.split0, split1 := y.split1 } = y)

/-! ## Special registers and system instructions (spec 01, 08) -/

/-- R51, R125: MOVS writes the word its number names, read whole by the table, and raises trap 0x02 for every other number.
The number is the immediate of R81. -/
def Obligations.UserSpecials : Prop :=
  ∀ s c (nw : Bool) (d : Dst) (imm : Nat) (v0 : Word), Issues s c { d := dstOp d, ext := .bits 14 } → Operand32 c imm 18 v0 →
    let n := v0.toNat
    let x := s.ctx (s.ctxOf c.warp)
    let t := s.team c.warp.team
    let l := s.launchOf c.warp
    let w := c.warp
    let table : List (Nat × Nat) :=
      [(0x00, (logicalCores x).length), (0x01, indexOf (logicalCores x) w.core), (0x02, indexOf (granted x) c.cluster),
        (0x03, t.tid % max 1 l.tpc), (0x04, l.tpc), (0x05, t.warps), (0x06, l.teams), (0x07, t.tid / max 1 l.tpc), (0x08, t.gidx),
        (0x09, t.grow0), (0x0A, t.grows), (0x0D, w.live.toNat), (0x0E, c.split.entry.toNat), (0x0F, w.allot),
        (0x10, w.winBase), (0x11, w.q), (0x12, w.free), (0x13, x.gen), (0x18, c.sp), (0x19, c.split.depth),
        (0x1E, w.welt.length), (0x1F, (if l.prot then 1 else 0) + if l.restart then 2 else 0)] ++
      twoWords 0x0B l.param ++ twoWords 0x14 s.clk.cycle ++ twoWords 0x16 w.retired ++ twoWords 0x1A w.privBase ++
      twoWords 0x1C w.weltBase ++ twoWords 0x20 (bitsNat (s.core w.core).tagmap) ++ mapTable s (s.ctxOf w)
    (∀ v, (n, v) ∈ table → Yields s c c.warp nw d true (.u (BitVec.ofNat 32 v)) (exec (.movs nw d imm) s)) ∧
    ((∀ v, (n, v) ∉ table) → exec (.movs nw d imm) s = traps s c { cause := 0x02, val := .word 0 })

/-- R227, R228, R85: MFS and MTS trap in user mode; in the handler MFS reads the word its number names, the generators as V,
and raises trap 0x02 with the number for every other; MTS writes the six words of the trap record, whose reserved bits stay
zero, and the generators of the lanes of em, and raises trap 0x02 with the number for every other word. A trap with a number
leaves the number in sy.tval, although it halts the warp (R48). -/
def Obligations.SystemRegisters : Prop :=
  ∀ s c (nw : Bool) (d : Dst) (a : Src) (n : Nat), issuing s = some c → c.warp.cobbler = false → c.hasXp = false →
    (c.warp.prot = false ∨ s.sched.differ = false) →
    let x := s.ctx (s.ctxOf c.warp)
    let t := s.team c.warp.team
    let w := c.warp
    let r := w.trap
    let table : List (Nat × Nat) :=
      [(0x00, r.tcause.toNat), (0x01, r.tval.toNat), (0x02, r.tlanes.toNat), (0x03, r.tem.toNat), (0x04, r.tpc % 2 ^ 32),
        (0x05, r.tpc / 2 ^ 32 % 2 ^ 24), (0x0F, x.gen), (0x1A, (logicalCores x).length), (0x1B, t.gidx), (0x1C, t.grow0),
        (0x1D, t.grows), (0x1E, x.flags % 8), (0x1F, (if w.ftokPend then 1 else 0) + 2 ^ 16 * (w.ftokSeq % 2 ^ 16))] ++
      twoWords 0x06 r.twb ++ twoWords 0x08 x.tvec ++ twoWords 0x0B w.pkr ++ twoWords 0x0D (bitsNat (s.core w.core).tagmap) ++
      twoWords 0x10 x.voltab ++ twoWords 0x12 x.scopetab ++ twoWords 0x14 w.privBase ++ twoWords 0x16 w.weltBase ++
      twoWords 0x18 (s.launchOf w).param ++ mapTable s (s.ctxOf w)
    let puts := fun (y : TrapRec) => finishes s c { w with trap := y }
    let unlisted : Trap := { cause := 0x02, val := .word n
                             base := some (s.withWarp c.w { w with trap := { r with tval := BitVec.ofNat 32 n } }) }
    (w.sup = false → fieldOk c .d (dstOp d) = true → exec (.mfs nw d n) s = traps s c { cause := 0x03 }) ∧
    (w.sup = false → fieldOk c .d (srcOp a) = true → exec (.mts a n) s = traps s c { cause := 0x03 }) ∧
    (Issues s c { d := dstOp d, priv := true } →
      (∀ v, (n, v) ∈ table → Yields s c w nw d true (.u (BitVec.ofNat 32 v)) (exec (.mfs nw d n) s)) ∧
      (n = 0x0A → ∃ g : Reg, g.shape = 2 ∧ (∀ l, l < 32 → g.lane l = w.srng.getD l 0#32) ∧
        Yields s c w nw d false g (exec (.mfs nw d n) s)) ∧
      (n ≠ 0x0A → (∀ v, (n, v) ∉ table) → exec (.mfs nw d n) s = traps s c unlisted)) ∧
    (Issues s c { d := srcOp a, dread := true, priv := true, em0 := .always, valued := true } →
      (∀ v, c.read .d a = .u v →
        exec (.mts a 0x00) s = puts { r with tcause := v &&& 0x1FF#32 } ∧
        exec (.mts a 0x01) s = puts { r with tval := v } ∧
        exec (.mts a 0x02) s = puts { r with tlanes := v &&& w.laneMask } ∧
        exec (.mts a 0x03) s = puts { r with tem := v &&& w.laneMask } ∧
        exec (.mts a 0x04) s = puts { r with tpc := r.tpc / 2 ^ 32 * 2 ^ 32 + v.toNat } ∧
        exec (.mts a 0x05) s = puts { r with tpc := v.toNat % 2 ^ 24 * 2 ^ 32 + r.tpc % 2 ^ 32 }) ∧
      (n < 6 → (c.read .d a).isU = false → exec (.mts a n) s = traps s c { cause := 0x06, val := .word (c.read .d a).shape }) ∧
      (n = 0x0A → ∃ g : List Word, g.length = 32 ∧ exec (.mts a n) s = finishes s c { w with srng := g } ∧
        ∀ l, l < 32 → g.getD l 0#32 = if c.em.getLsbD l then (c.read .d a).lane l else w.srng.getD l 0#32) ∧
      (6 ≤ n → n ≠ 0x0A → exec (.mts a n) s = traps s c unlisted))

/-- R47, R229: RTE resumes the interrupted split at the saved PC, or past it and past its prefix, with the saved entry mask
and sy.tem within it and the live mask, in user mode; a target that is not aligned or not canonical traps. It is a group switch
of both splits: the other one keeps all but its latches. That a target which is both raises 0x09 is the model's choice (log 31). -/
def Obligations.TrapReturn : Prop :=
  ∀ s c (skip : Nat), Issues s c { priv := true, valued := true } → skip ≤ 1 →
    let r := c.warp.trap
    let t := r.tpc + if skip = 0 then 0 else if r.tcause.toNat / 2 ^ 8 % 2 ^ 8 = 1 then 8 else 4
    (t % 4 ≠ 0 → exec (.rte skip) s = traps s c { cause := 0x09 }) ∧
    (t % 4 = 0 → 2 ^ 56 ≤ t → exec (.rte skip) s = traps s c { cause := 0x1A }) ∧
    (t % 4 = 0 → t < 2 ^ 56 → ∃ (x : Warp) (u : Split),
      exec (.rte skip) s =
        .next (unlessBlocked s c ((s.withWarp c.w x).run [.settle c.w 0, .settle c.w 1, .fill c.w])) ∧
      x.sup = false ∧ x.live = c.live ∧ x.preds = c.warp.preds ∧ x.trap = r ∧ x.split? c.sp = some u ∧
      u.pc = t ∧ u.entry = r.savedEntry ∧ u.em = r.tem &&& r.savedEntry &&& c.live ∧ u.xp = none ∧
      u.depth = c.split.depth ∧ u.rcv = c.split.rcv ∧ u.join = c.split.join ∧
      (c.warp.split? (otherSlot c.sp) = none → x.split? (otherSlot c.sp) = none) ∧
      (∀ q, c.warp.split? (otherSlot c.sp) = some q → ∃ q', x.split? (otherSlot c.sp) = some q' ∧
        { q' with latches := q.latches } = q ∧ ∀ l ∈ q'.latches, l.lost = true ∧ l.nw = false) ∧
      ((∀ l ∈ c.split.latches, l.nw = false) → (∀ q, c.warp.split? (otherSlot c.sp) = some q → ∀ l ∈ q.latches, l.nw = false) → x.regs = c.warp.regs ∧ x.bank = c.warp.bank))

/-- R230, R231, R232, R233, R363, R364: PKSET replaces the warp's keys and PKDROP only takes rights away. PMAP: status 3 where no
descriptor serves the address or it has no third-level entry, 1 where that is valid, 2 when the list has no frame; else the last
frame leaves the list, and a good one becomes the page's leaf, its 16 granules zero; malformed entries that its reads meet are posted
first (R359). WAITF posts one request at a time and parks, or ends with the reply that the core holds; HALTW halts the warp with its
code, whatever em is. That LEVEL is 2 in the record of a bad frame is the model's choice (log 55). -/
def Obligations.SystemEffects : Prop :=
  ∀ s c (d : Dst) (a access : Nat) (b : Src),
    (∀ v, c.HoldsPair .a a v →
      (Issues s c { a := pairOp a, priv := true, em0 := .always } → exec (.pkset a) s = finishes s c { c.warp with pkr := v }) ∧
      (Issues s c { a := pairOp a, em0 := .always } → ∃ k, exec (.pkdrop a) s = finishes s c { c.warp with pkr := k } ∧
        ∀ i, k.testBit i = (c.warp.pkr.testBit i && !v.testBit i)) ∧
      (Issues s c { d := dstOp d, a := pairOp a, priv := true } →
        let cx := s.ctxOf c.warp
        let x := s.ctx cx
        let who := whoIs s c.warp 0
        let r := mapPage s cx v who
        let u := reportPmap s cx v who
        YieldsFrom s (c.external r.1) c c.warp false d true (.u (BitVec.ofNat 32 r.2)) (exec (.pmap d a) s) ∧
        ((∀ va pa lev e, walkTables s x.root (x.placement va) va ≠ .malformed pa lev e) → u = s) ∧
        (servingDesc s cx v = none ∨ leafEntryAddr u x.root v = none → r = (u, 3)) ∧
        (∀ i ws e, servingDesc s cx v = some (i, ws) → leafEntryAddr u x.root v = some e →
          let w := fun j => (ws.getD j 0#32).toNat
          let k := if w 9 / 2 ^ 10 % 2 ^ 4 = 2 then 0 else v / 2 ^ 16 % 3
          let list := w (3 * k) + 2 ^ 32 * (w (3 * k + 1) % 2 ^ 24)
          let spent := fun (top : Nat) => ctxPut u cx ((u.ctx cx).ftdesc + 64 * i + 4 * (3 * k + 2)) [BitVec.ofNat 32 top]
          (tableEntry u e % 2 = 1 → r = (u, 1)) ∧
          (tableEntry u e % 2 = 0 → w (3 * k + 2) = 0 → r = (u, 2)) ∧
          (tableEntry u e % 2 = 0 → ∀ top, w (3 * k + 2) = top + 1 → ctxWords u cx (list + 4 * top) 1 = none →
            r = (postMalformed (spent top) cx (pagesOf (list + 4 * top) 4) who, 2)) ∧
          (tableEntry u e % 2 = 0 → ∀ top f, w (3 * k + 2) = top + 1 → ctxWords u cx (list + 4 * top) 1 = some [f] →
            let t := spent top
            let x := u.ctx cx
            let leaf := w 9 / 2 ^ 2 % 2 ^ 21 * 2 ^ 2 + f.toNat * 2 ^ 28 + 3
            let byte := fun j => physAddr (x.placement v) (leafOf leaf false 0) (v / 2 ^ 16 * 2 ^ 16 + j)
            let fenced := fencedStack u (e / 2 ^ 36) = true
            let entry := fun a => ¬ fenced ∧ e ≤ a ∧ a < e + 8
            (badFrame u (x.placement v) (w 9 / 2 ^ 10 % 2 ^ 4) f.toNat v = true → r = takeFrame
              (postGroup t cx (malformedRec t cx e 2 (tableEntry t e) who)) cx i k v e ws who top) ∧
            (badFrame u (x.placement v) (w 9 / 2 ^ 10 % 2 ^ 4) f.toNat v = false → MemInv u →
              r.2 = 0 ∧ (¬ fenced → memNat r.1.mem.home e 8 = leaf % 2 ^ 64) ∧
              (∀ j, j < 2 ^ 16 → ¬ entry (byte j) → memGet r.1.mem.home (byte j) = 0#8) ∧
              (∀ a, ¬ entry a → (∀ j, j < 2 ^ 16 → byte j ≠ a) → memGet r.1.mem.home a = memGet t.mem.home a) ∧
              r.1.mem.host = t.mem.host ∧ r.1.mem.l2 = t.mem.l2 ∧ r.1.warps = t.warps ∧ r.1.clusters = t.clusters))) ∧
        (c.warp.ftokPend = true → c.warp.ftokReply = none →
          exec (.waitf d a access) s = parksIn s (c.external s) c (.waitf (c.dst d))) ∧
        (c.warp.ftokPend = true → ∀ n, c.warp.ftokReply = some n →
          YieldsFrom s (c.external s) c { c.warp with ftokPend := false, ftokReply := none } false d true (.u (BitVec.ofNat 32 n))
            (exec (.waitf d a access) s)) ∧
        (c.warp.ftokPend = false → ∃ (x : Warp) (q : Split),
          exec (.waitf d a access) s = .next (unlessBlocked s c { (c.external s).withWarp c.w x with
            mp := { s.mp with posts := s.mp.posts ++ [(c.w, v, access, (c.warp.ftokSeq + 1) % 2 ^ 16)] } }) ∧
          x.ftokPend = true ∧ x.ftokSeq = (c.warp.ftokSeq + 1) % 2 ^ 16 ∧ x.split? c.sp = some q ∧ q.park = .waitf (c.dst d) ∧
          q.pc = c.split.pc ∧ q.em = c.em))) ∧
    (Issues s c { a := srcOp b, priv := true } →
      exec (.haltw b) s = .next (unlessBlocked s c (s.run [.halt c.w
        { cause := 0, prior := 0, code := if c.em = 0#32 then 0 else ((c.read .a b).lane (lowestLane c.em)).toNat
          pc := c.split.insnPc, addr := 0 }])))

/-- R234 to R236, R304: SCPQ describes a scope and never traps; TIMERD reads the time; BMODE answers without a switch where
the bank has the mode, holds a queue, or holds scratch the launch needs, traps for another crew's bank, and parks otherwise, and
behind an older BMODE of its cluster; whatever its status it is an external effect (R298). -/
def Obligations.QueriesAndBanks : Prop :=
  ∀ s c (nw : Bool) (d : Dst) (dp n : Nat) (a b : Src),
    (YieldsWord (.scpq nw d n) { d := dstOp d } nw d (fun s c =>
      let k := scopeOf s c.cluster (s.ctxOf c.warp) n
      BitVec.ofNat 32 ((if k.valid then 1 else 0) + (if k.ret then 2 else 0) + (if k.clusters.contains c.cluster then 4 else 0) +
        (if k.onlyHome c.cluster then 8 else 0) + (if k.host then 16 else 0) + (if k.dom then 32 else 0) + 2 ^ 8 * (k.gen % 2 ^ 8) +
        2 ^ 16 * (k.clusters.length % 2 ^ 8)))) ∧
    (Issues s c { d := pairOp dp } →
      YieldsPair s c dp true (.u (BitVec.ofNat 32 s.clk.ns)) (.u (BitVec.ofNat 32 (s.clk.ns / 2 ^ 32))) (exec (.timerd dp) s)) ∧
    (Issues s c { d := dstOp d, a := srcOp a, b := srcOp b, em0 := .always, valued := true } → ∀ bank mode : Word, c.read .a a = .u bank →
      c.read .b b = .u mode →
      let k := (s.cluster c.cluster).banks.getD bank.toNat ⟨0, none⟩
      let crew := s.crewNo c.warp
      let queued := (s.crew crew).queues.any fun q => q.st == 1 && q.bank == bank.toNat
      let needed := decide (crewScratch s crew < (s.launchOf c.warp).scratch + 65536)
      let gives := fun (n : Word) => YieldsFrom s (c.external s) c c.warp false d true (.u n) (exec (.bmode d a b) s)
      let parks := exec (.bmode d a b) s = parksIn s (c.external s) c (.bmode (c.dst d) bank.toNat mode.toNat s.clk.tick)
      (32 ≤ bank.toNat ∨ 3 ≤ mode.toNat → exec (.bmode d a b) s = traps s c { cause := 0x02 }) ∧
      (bank.toNat < 32 → mode.toNat < 3 → olderBmode s c.cluster s.clk.tick = true → parks) ∧
      (bank.toNat < 32 → mode.toNat < 3 → olderBmode s c.cluster s.clk.tick = false →
        (k.mode ≠ 0 → k.owner ≠ some crew → exec (.bmode d a b) s = traps s c { cause := 0x0B, val := .word bank.toNat }) ∧
        (k.mode = 0 ∨ k.owner = some crew →
          (k.mode = mode.toNat → gives 1#32) ∧
          (k.mode ≠ mode.toNat → k.mode = 2 → queued = true → gives 2#32) ∧
          (k.mode ≠ mode.toNat → k.mode = 1 → needed = true → gives 3#32) ∧
          (k.mode ≠ mode.toNat → (k.mode = 2 → queued = false) → (k.mode = 1 → needed = false) → parks))))

/-! ## The Cobbler (spec 06, 12) -/

/-- R70, R165, R166, R312: CBRUN reads its descriptor and starts the Cobbler with the value of B in its w0, em and live mask
full, or says why not, and is an external effect either way (R298); it waits for the older accesses of its warp (R314), and claims
that the Cobbler's floor makes impossible trap (R144); which status it writes when several apply is the model's choice (log 52); a
poisoned descriptor halts the warp (R403). CBEND ends it in the Cobbler and is illegal elsewhere; CBSTAT. -/
def Obligations.CobblerResults : Prop :=
  ∀ s c (nw : Bool) (d : Dst) (a : Nat) (b : Src),
    (Issues s c { d := dstOp d, a := pairOp a, b := srcOp b, valued := true } →
      (c.em = 0#32 → exec (.cbrun nw d a b) s = finishes s c c.warp) ∧
      (c.em ≠ 0#32 → ∀ va v, c.HoldsPair .a a va → c.read .b b = .u v →
        (∀ t, c.checkAccess s .global .read 64 (fun _ => va) = .error t → exec (.cbrun nw d a b) s = traps s c t) ∧
        (c.checkAccess s .global .read 64 (fun _ => va) = .ok () → c.warp.accessOpen (.slot c.sp) = true →
          exec (.cbrun nw d a b) s = parksAs s c .older) ∧
        (c.checkAccess s .global .read 64 (fun _ => va) = .ok () → c.warp.accessOpen (.slot c.sp) = false →
          c.waitRemote s (fun _ => va) (fun _ => (List.range 64).map fun i => va + i) = none →
          let r := loadBytes s c.cluster (s.ctxOf c.warp) 0
            ((List.range 64).map fun i => (va + i, grantedLeaf s c.cluster (s.ctxOf c.warp) (va + i)))
          let w := fun i => leNat (((r.2.map Prod.fst).drop (4 * i)).take 4)
          let k := s.core c.warp.core
          let regs := w 3 % 2 ^ 11
          let floor := w 4 % 2 ^ 12
          let comes := fun (u : State) (n : Word) => YieldsFrom s u c c.warp nw d true (.u n)
          let gives := fun (u : State) (n : Word) => comes u n (exec (.cbrun nw d a b) s)
          (r.2.any Prod.snd = true → exec (.cbrun nw d a b) s = traps s c
            { cause := 0x15, val := .addrs (List.replicate 32 va), lanes := some (maskWhere (lanesOf c.em).contains) }) ∧
          (r.2.any Prod.snd = false →
            (k.cobSt = 1 → gives (c.external r.1) 1#32) ∧
            (k.cobSt ≠ 1 → cobblerOk w = false → gives (c.external r.1) 3#32) ∧
            (k.cobSt ≠ 1 → cobblerOk w = true → k.slotsFree < regs ∨ k.pool < floor + claimSum s c.warp.core →
              gives (c.external r.1) 2#32) ∧
            (k.cobSt ≠ 1 → cobblerOk w = true → regs ≤ k.slotsFree → floor + claimSum s c.warp.core ≤ k.pool → 0 < regs →
              c.warp.core < s.cores.length →
              let entry := w 0 + 2 ^ 32 * (w 1 % 2 ^ 24)
              ∃ (u : State) (x : Warp) (q : Split), (claimsOn s c.warp.core = [] → gives u 0#32) ∧
                (c.versions (c.dst d) (.u 0#32) ≤ c.warp.free → ∃ t, comes u 0#32 (.next (unlessBlocked s c t)) ∧
                  exec (.cbrun nw d a b) s = .next (unlessBlocked s c (lateClaims t [c.warp.core]))) ∧ u.warps = r.1.warps ++ [x] ∧ u.mem = r.1.mem ∧
                u.clusters = r.1.clusters ∧ x.getReg (.slot 0) = .u v ∧ x.cobbler = true ∧ x.live = 0xFFFFFFFF#32 ∧
                x.core = c.warp.core ∧ x.allot = regs ∧ x.q = floor ∧ x.free = floor ∧ x.split0 = some q ∧
                q.pc = entry ∧ q.em = 0xFFFFFFFF#32 ∧ q.entry = 0xFFFFFFFF#32 ∧
                u.core c.warp.core = { k with slotsFree := k.slotsFree - regs, pool := k.pool - floor, cobSt := 1, cobCause := 0
                                              cobTeam := some c.warp.team, cobWarp := some s.warps.length }))))) ∧
    (Issues s c { cob := true } →
      (c.warp.cobbler = true → exec .cbend s = .next (unlessBlocked s c (cobblerOff s c.warp.core 2 0))) ∧
      (c.warp.cobbler = false → exec .cbend s = traps s c { cause := 0x01 })) ∧
    YieldsWord (.cbstat nw d) { d := dstOp d } nw d
      (fun s c => BitVec.ofNat 32 ((s.core c.warp.core).cobSt + 2 ^ 8 * (s.core c.warp.core).cobCause))

/-! ## Barrier objects, queues, copies and tags (spec 07) -/

/-- R183, R185, R187, R188, R190, R191: the barrier object instructions. Their operands are checked, range before object; an
arrival, which waits for the older accesses of its warp, writes the object and its status, a flip releases the object's waiters, BOWAIT answers at once or parks, BOINIT sends
waiters away with 0.
R185 to R189: what BOINIT, an arrival, added bytes and a copy's completion make of an object's 128 bits, field by field. -/
def Obligations.ObjectResults : Prop :=
  (∀ s c (pd d : Nat) (a b : Src) (off n : Word), c.em = c.live → c.read .a a = .u off →
    let crew := s.crewNo c.warp
    let at_ := off.toNat
    let v := n.toNat
    let o := objGet s crew at_
    let bad := fun (i : Instr) => exec i s = traps s c { cause := 0x02, val := .word v }
    let noObject := fun (i : Instr) =>
      (16 * (s.launchOf c.warp).bobjs ≤ at_ → exec i s = traps s c { cause := 0x0B, val := .word at_ }) ∧
      (at_ < 16 * (s.launchOf c.warp).bobjs → at_ % 16 ≠ 0 → exec i s = traps s c { cause := 0x09, val := .word at_ })
    let valid := at_ < 16 * (s.launchOf c.warp).bobjs ∧ at_ % 16 = 0
    let put := fun o => c.external (objPut s crew at_ o)
    let sentAway := releaseWaiters (finished s (put (oInitial v)) c c.warp) crew (some at_) false
    let waits := c.warp.accessOpen (.slot c.sp)
    let arrives := fun (i : Instr) (r : Nat × Bool × Bool) => (waits = true → exec i s = parksAs s c .older) ∧ (waits = false → exec i s =
      .next (unlessBlocked s c (afterFlip (finished s (put r.1) c (c.predWritten pd (allIf r.2.2))) crew at_ r.2.1)))
    (Issues s c { a := srcOp a, b := srcOp b, valued := true } → c.read .b b = .u n →
      (v = 0 ∨ 4095 < v → bad (.boinit a b) ∧ bad (.boarr pd a b)) ∧
      (1 ≤ v → v ≤ 4095 → noObject (.boinit a b) ∧ noObject (.boarr pd a b) ∧
        (valid →
          exec (.boinit a b) s = .next (unlessBlocked s c (sentAway.1.run sentAway.2)) ∧
          arrives (.boarr pd a b) (oArrive o v 0))) ∧
      (0x0FFFFFFF < v → bad (.boexp a b) ∧ bad (.boarx pd a b)) ∧
      (v ≤ 0x0FFFFFFF → noObject (.boexp a b) ∧ noObject (.boarx pd a b) ∧
        (valid → arrives (.boarx pd a b) (oArrive o 1 v) ∧ (waits = true → exec (.boexp a b) s = parksAs s c .older) ∧ (waits = false →
          exec (.boexp a b) s = finishesIn s (c.external (if oInit o then objPut s crew at_ (oAddPend o v) else s)) c c.warp))) ∧
      (v / 2 ^ 4 % 2 ^ 4 ≠ 0 → bad (.bowait pd a b)) ∧
      (v / 2 ^ 4 % 2 ^ 4 = 0 → noObject (.bowait pd a b) ∧
        (valid →
          let answer := fun ok => exec (.bowait pd a b) s = finishesIn s (c.external s) c (c.predWritten pd (allIf ok))
          let t := v / 2 ^ 8
          (oInit o = false ∨ oAband o = true → answer false) ∧
          (oInit o = true → oAband o = false →
            (oPhase o ≠ v % 2 ^ 4 → answer true) ∧
            (oPhase o = v % 2 ^ 4 → t = 0 → exec (.bowait pd a b) s = .next (unlessBlocked s c ((c.external s).withWarp c.w
              (c.warp.mapSplit c.sp fun q => { q with park := .bowait at_ pd (some s.clk.cycle) })))) ∧
            (oPhase o = v % 2 ^ 4 → t ≠ 0 → exec (.bowait pd a b) s = parksIn s (c.external s) c
              (.bowait at_ pd (if t = 0xFFFFFF then none else some (s.clk.cycle + t))))))) ∧
      (16 ≤ v → bad (.botest pd a b)) ∧
      (v < 16 → noObject (.botest pd a b) ∧
        (valid → exec (.botest pd a b) s = writesPred s c pd (allIf (oInit o && !oAband o && oPhase o != v))))) ∧
    (Issues s c { d := pairOp d, a := srcOp a, valued := true } → noObject (.bostat d a) ∧
      (valid → YieldsPair s c d true (.u (BitVec.ofNat 32 (oClosed o)))
        (.u (BitVec.ofNat 32 (oPhase o + 2 ^ 4 * (o / 2 ^ 56 % 2 ^ 5) + 2 ^ 12 * oLeft o))) (exec (.bostat d a) s)))) ∧
  ∀ o n bytes e : Nat, o < 2 ^ 128 → n < 2 ^ 12 → bytes < 2 ^ 28 → e < 2 ^ 8 →
    let v := objView o
    objView (oInitial n) = { pend := 0, left := n, expected := n, phase := 0, init := true, ovr := false, aband := false
                             err := false, under := false, closed := 0, open_ := 0 } ∧
    objView (oAddPend o bytes) = v.addPend bytes ∧
    (v.init = true → objView (oArrive o n bytes).1 = (v.arrive n bytes).1 ∧ (oArrive o n bytes).2 = (v.arrive n bytes).2) ∧
    (v.init = false → oArrive o n bytes = (o, false, false)) ∧
    (v.init = true → objView (oEngine o bytes e).1 = (v.engine bytes e).1 ∧ (oEngine o bytes e).2 = (v.engine bytes e).2) ∧
    (v.init = false → oEngine o bytes e = (o, false))

/-- R194 to R197: the queue instructions. A queue the crew does not have raises trap 0x0B, one that is not open trap 0x12;
QPUSH and QPOP append and remove whole entries or park behind older ones, QPUSHN and QPOPN answer at once, QCFG opens a queue
that fits a FIFO bank of the crew and clashes with none, QBREAK breaks it. A push stands behind a copy's that waits (R202), and
waits for the older accesses of its warp (R198). A poisoned entry halts the warp that pops it (R403). That QCFG's trap 0x0B names the bank is the model's choice (log 52). -/
def Obligations.QueueResults : Prop :=
  ∀ s c (nw : Bool) (d : Dst) (dp ap q : Nat) (a : Src), c.em = c.live → c.live ≠ 0#32 →
    let crew := s.crewNo c.warp
    let x := queueOf s crew q
    let n := 2 ^ x.esz
    let hasQ := q < (s.crew crew).queues.length
    let entry : List Word := (List.range n).map fun i => if c.live.getLsbD i then (c.read .a a).lane i else 0#32
    let pushed := c.external (s.mapQueue crew q fun y => { y with allow := y.allow - 1, entries := y.entries ++ [entry] })
    let popped := c.external (s.mapQueue crew q fun y =>
      { y with entries := y.entries.drop 1, bad := (y.bad.filter fun n => n != 0).map fun n => n - 1 })
    let waits := c.warp.accessOpen (.slot c.sp)
    let mayPush := x.allow ≠ 0 ∧ x.entries.length < x.depth ∧ pushParked s crew q = [] ∧
      ∀ k ∈ s.clusters, ∀ y ∈ k.copies, y.crew = crew → y.stage = 0 → bitsN (y.words.getD 3 0#32).toNat 24 2 = 3 →
        (y.words.getD 2 0#32).toNat = q → y.age = none
    let mayPop := x.entries ≠ [] ∧ popParked s crew q = []
    let aim := { c.warp with target := some q }
    let sent := { aim with pushed := if c.warp.pushed.contains q then c.warp.pushed else q :: c.warp.pushed }
    let needsQ := fun (i : Instr) (open_ : Bool) =>
      (¬ hasQ → exec i s = traps s c { cause := 0x0B, val := .word q }) ∧
      (hasQ → open_ = true → x.st ≠ 1 → exec i s = traps s c { cause := 0x12, val := .word q })
    let opened := hasQ ∧ x.st = 1
    (Issues s c { a := srcOp a, cob := true, compared := true } → needsQ (.qpush a q) true ∧
      (opened → mayPush → waits = false → exec (.qpush a q) s = finishesIn s pushed c sent) ∧
      (opened → ¬ mayPush ∨ waits = true → exec (.qpush a q) s =
        .next (unlessBlocked s c (s.withWarp c.w { c.warp.park c.sp (.push entry q s.clk.tick) with target := some q })))) ∧
    (Issues s c { a := srcOp a, cob := true, valued := true } →
      (∀ v, c.read .a a = .u v → v.toNat ≤ 4095 → needsQ (.qallow a q) true ∧
        (opened → exec (.qallow a q) s = finishesIn s
          (c.external (s.mapQueue crew q fun y => { y with allow := min (y.allow + v.toNat) 4095 })) c c.warp))) ∧
    (Issues s c { d := dstOp d } → needsQ (.qpop nw d q) true ∧ needsQ (.qstat nw d q) false ∧
      (opened → mayPop → x.bad.contains 0 = true → exec (.qpop nw d q) s = traps s c { cause := 0x15 }) ∧
      (opened → mayPop → x.bad.contains 0 = false → ∃ r : Reg, (∀ e rest, x.entries = e :: rest → e.length = n →
          (n = 1 → r = .u (e.headD 0#32)) ∧ (n ≠ 1 → r.shape = 2 ∧ ∀ l, l < 32 → r.lane l = e.getD (l % n) 0#32)) ∧
        YieldsFrom s popped c c.warp nw d false r (exec (.qpop nw d q) s)) ∧
      (opened → ¬ mayPop → exec (.qpop nw d q) s = parksAs s c (.pop nw (c.dst d) q s.clk.tick)) ∧
      (hasQ → Yields s c c.warp nw d true
        (.u (BitVec.ofNat 32 (x.entries.length + 2 ^ 10 * x.st + 2 ^ 16 * x.allow))) (exec (.qstat nw d q) s))) ∧
    (Issues s c { d := pairOp dp, a := srcOp a, cob := true, compared := true } → needsQ (.qpushn dp a q) true ∧
      (opened → mayPush → waits = true → exec (.qpushn dp a q) s = parksAs s c .older) ∧
      (opened → mayPush → waits = false → YieldsPairFrom s pushed { c with warp := sent } dp true (.u (BitVec.ofNat 32 (x.allow - 1))) (.u 0#32)
        (exec (.qpushn dp a q) s)) ∧
      (opened → ¬ mayPush → YieldsPairFrom s s { c with warp := aim } dp true (.u (BitVec.ofNat 32 x.allow)) (.u 1#32)
        (exec (.qpushn dp a q) s))) ∧
    (Issues s c { d := pairOp dp } → needsQ (.qpopn dp q) true ∧
      (opened → mayPop → x.bad.contains 0 = true → exec (.qpopn dp q) s = traps s c { cause := 0x15 }) ∧
      (opened → mayPop → x.bad.contains 0 = false → YieldsPairFrom s popped c dp false (entryReg (x.entries.headD [])) (.u 0#32) (exec (.qpopn dp q) s)) ∧
      (opened → ¬ mayPop → ∃ (l : Latch) (y : Warp), Replaced c.warp y (c.place .d dp 1) (.u 1#32) ∧
        l.val = c.warp.getReg (c.place .d dp 0) ∧ l.dst = some (c.place .d dp 0) ∧ l.nw = false ∧ l.lost = false ∧
        exec (.qpopn dp q) s = completes s c y (c.split.pc + 4) l [c.place .d dp 1])) ∧
    (Issues s c { a := pairOp ap, valued := true } → ∀ g allow : Word, c.regAt .a ap 0 = .u g → c.regAt .a ap 1 = .u allow →
      let bank := g.toNat % 2 ^ 5
      let esz := g.toNat / 2 ^ 5 % 2 ^ 3
      let depth := g.toNat / 2 ^ 8 % 2 ^ 10
      let off := g.toNat / 2 ^ 18 % 2 ^ 9
      let hi := 128 * off + depth * 4 * 2 ^ esz
      let ok := g.toNat < 2 ^ 27 ∧ esz ≤ 5 ∧ hi ≤ 65536
      let clash := ∃ i, i < (s.crew crew).queues.length ∧ i ≠ q ∧ (queueOf s crew i).overlaps bank (128 * off) hi = true
      (¬ ok → exec (.qcfg ap q) s = traps s c { cause := 0x02, val := .word g.toNat }) ∧
      (ok → 4095 < allow.toNat → exec (.qcfg ap q) s = traps s c { cause := 0x02, val := .word allow.toNat }) ∧
      (ok → allow.toNat ≤ 4095 → needsQ (.qcfg ap q) false ∧
        (hasQ → bank ∉ crewBanks s crew 2 ∨ (depth ≠ 0 ∧ clash) →
          exec (.qcfg ap q) s = traps s c { cause := 0x0B, val := .word bank }) ∧
        (hasQ → bank ∈ crewBanks s crew 2 → depth = 0 ∨ ¬ clash →
          let made := c.external (s.mapQueue crew q fun _ =>
            { bank := bank, esz := esz, depth := depth, off := off, entries := [], allow := allow.toNat
              st := if depth = 0 then 0 else 1, bad := [] })
          let done := finished s made c c.warp
          exec (.qcfg ap q) s =
            .next (unlessBlocked s c ((queueWaiters done crew q).foldl (fun s e => wakeAt s e.1 e.2) done))))) ∧
    (Issues s c {} → needsQ (.qbreak q) false ∧
      (hasQ → let r := breakQueue (finished s (c.external s) c c.warp) crew q
        exec (.qbreak q) s = .next (unlessBlocked s c (r.1.run r.2))))

/-- R199, R200, R204: a copy is checked word by word and then by what it names; it waits for the older accesses of its warp, parks
while there is no room, and otherwise is in flight: its tag counts one more copy and reads as not done, and a tile destination is landing. The tag instructions and
CPYQ. -/
def Obligations.CopiesIssue : Prop :=
  ∀ s c (a dp n : Nat) (nw : Bool) (d : Dst) (i : Instr) (x : Bool) (ws : List Nat),
    (i = .cpy a ∧ n = 8 ∧ x = false ∨ i = .cpyx a ∧ n = 12 ∧ x = true) → c.em = c.live →
    ((Issues s c { a := .win a n 4 4, compared := true } → ws.length = n → (∀ j, j < n → c.regAt .a a j = .u (BitVec.ofNat 32 (ws.getD j 0))) →
        (∀ w ∈ ws, w < 2 ^ 32) →
      let k := copyD ws x
      (∀ j, copyBadWord ws x = some j → exec i s = traps s c { cause := 0x02, val := .word j }) ∧
      (copyBadWord ws x = none → (∀ t, c.copyResources s k = .error t → exec i s = traps s c t) ∧
        (c.copyResources s k = .ok () →
          (k.dkind = 2 → k.fitsTile ((c.team s).tile k.dst) = false →
            exec i s = traps s c { cause := 0x17, val := .word k.dst }) ∧
          ((k.dkind = 2 → k.fitsTile ((c.team s).tile k.dst) = true) →
            (k.aligned = false → exec i s = traps s c { cause := 0x09 }) ∧
            (k.aligned = true → ∀ f, c.follow (if x then ws.getD 9 0 else 0) = .ok f →
              (c.warp.accessOpen (.slot c.sp) = true → exec i s = parksAs s c .older) ∧
              (c.warp.accessOpen (.slot c.sp) = false → c.copyMustWait s k = true → exec i s = parksAs s c .copyIssue) ∧
              (c.warp.accessOpen (.slot c.sp) = false → c.copyMustWait s k = false → ∃ u : State, exec i s = finishesIn s u c c.warp ∧ u.mem = s.mem ∧ u.warps = s.warps ∧
                (c.warp.core < s.cores.length → u.core c.warp.core = { s.core c.warp.core with
                  tagCount := updAt (s.core c.warp.core).tagCount k.tag (· + 1)
                  tagmap := (s.core c.warp.core).tagmap.set k.tag false }) ∧
                (c.cluster < s.clusters.length → ∃ y : Copy,
                  u.cluster c.cluster = { s.cluster c.cluster with copies := (s.cluster c.cluster).copies ++ [y] } ∧
                  y.words = ws.map (BitVec.ofNat 32) ∧ y.x = x ∧ y.tag = k.tag ∧ y.bobj = k.bobj ∧ y.follow = f ∧
                  y.team = c.warp.team ∧ y.pkr = c.warp.pkr ∧ y.seed = c.seed ∧ y.stage = 0 ∧ y.sent = 0 ∧ y.age = none) ∧
                (k.dkind = 2 → k.dst < (c.team s).tiles.length → c.warp.team < s.teams.length →
                  (u.team c.warp.team).tile k.dst = { (c.team s).tile k.dst with land := true }))))))) ∧
      (∀ m, c.HoldsPair .a dp m →
        let map := tagmapOf s c.warp.core
        (Issues s c { a := pairOp dp } →
          (m &&& map = m → exec (.wtall dp) s = finishes s c c.warp) ∧
          (m &&& map ≠ m → exec (.wtall dp) s = parksAs s c (.tags true m)) ∧
          (m = 0 ∨ m &&& map ≠ 0 → exec (.wtany dp) s = finishes s c c.warp) ∧
          (m ≠ 0 → m &&& map = 0 → exec (.wtany dp) s = parksAs s c (.tags false m)) ∧
          ∃ f : Core → Core, exec (.tagclr dp) s = finishesIn s (s.mapCore c.warp.core f) c c.warp ∧
            ∀ (y : Core) (t : Nat), t < 64 →
              let stays := m.testBit t = false ∨ y.tagCount.getD t 0 ≠ 0
              (f y).tagmap.getD t false = (y.tagmap.getD t false && decide stays) ∧
              (f y).errmap.getD t false = (y.errmap.getD t false && decide stays) ∧ (f y).tagCount = y.tagCount) ∧
        (Issues s c { d := dstOp d, a := pairOp dp } → ∃ v : Word,
          ((map &&& m) % 2 ^ 64 = 0 → v = 0xFFFFFFFF#32) ∧
          ((map &&& m) % 2 ^ 64 ≠ 0 → (map &&& m).testBit v.toNat = true ∧ ∀ j, j < v.toNat → (map &&& m).testBit j = false) ∧
          Yields s c c.warp nw d true (.u v) (exec (.wtff nw d dp) s))) ∧
      (Issues s c { d := dstOp d } →
        (∀ k, k < 4 → Yields s c c.warp nw d true (.u (BitVec.ofNat 32
          ((if k < 2 then tagmapOf s c.warp.core else errmapOf s c.warp.core) / 2 ^ (32 * (k % 2))))) (exec (.tagrd nw d k) s)) ∧
        Yields s c c.warp nw d true (.u (BitVec.ofNat 32 (32 - ((s.cluster c.cluster).copies.filter fun y => decide (y.stage < 2)).length +
          2 ^ 8 * min ((s.core c.warp.core).tagCount.foldl (· + ·) 0) 255))) (exec (.cpyq nw d) s)))

/-- R201 to R203, R96, R105, R108, R110, R411: what a copy lands. Its elements are those of the valid extent, and with ZF all of them; each is
the source element's value, or the Hadamard sum of its block, times 2^SCEXP, rounded once to DFMT under RND and SATF (code 5 with the
draws of the seed in row-major order), and lies at (dr × DPITCH + dc) elements from the base, or in row dr of the tile, or in the
entries its row forms. Where no access fails, all of them land; n is the number of destination bytes with a written bit, or of the bytes of the
entries; a queue that has broken, or is not open, gives code 0x12. Where an access fails, or a byte is poisoned, the code is the cause of a failure
and elements of which nothing failed may have landed. Landing goes home line by line, each after the cluster's own copy of the line;
then the follow-on is checked and step 1 taken. The model's choices: what a push counts when QCFG changes the entry size meanwhile, and
that an absent element takes no draw (log 55). -/
def Obligations.CopiesLand : Prop :=
  ∀ (s : State) (x : Copy) (k i : Nat), (s.cluster k).copies[i]? = some x → x.stage = 0 →
    copyBadWord (x.words.map BitVec.toNat) x.x = none →
    let d := x.d
    let sf := fmtCode d.sfmt
    let df := fmtCode d.dfmt
    let had := hadSize d.had
    let clean := fun (e : Nat × Nat) => x.elementCauses s e.1 e.2 = []
    let reads := d.elements.filter fun e => (x.elementCauses s e.1 e.2).isEmpty
    let r := x.readSource s reads
    let sound := fun (e : Nat × Nat) => clean e ∧ x.poisoned r.2 e.1 e.2 = false
    let all := ∀ e ∈ d.elements, sound e
    let byte := fun a => (laneOf r.2 a (0#8, false)).1
    let elem : Nat → Nat → Option Ex := fun r c =>
      if d.valid r c then some (sf.value (elemAt (fun b => byte (d.src + b)) sf (r * d.spitch + c))) else none
    let value := fun (e : Nat × Nat) =>
      let r := if d.trn then e.2 else e.1
      let c := if d.trn then e.1 else e.2
      if had = 0 then (elem r c).getD (.fin false 0 1) else hadamardAt had (fun j => elem r (c / had * had + j)) (c % had)
    let cause := fun (code : Nat) => (∃ e ∈ d.elements, code ∈ x.elementCauses s e.1 e.2) ∨
      (code = 0x15 ∧ ∃ e ∈ d.elements, clean e ∧ x.poisoned r.2 e.1 e.2 = true)
    (∀ dr dc, (dr, dc) ∈ d.elements ↔ dr < d.dRows ∧ dc < d.dCols ∧
      (d.zf = true ∨ (if d.trn then dc < d.vrows ∧ dr < d.vcols else dr < d.vrows ∧ dc < d.vcols))) ∧
    ∃ rs : List (Nat × Nat × Nat), rs.map (fun e => (e.1, e.2.1)) = d.elements ∧
      (∀ m e, rs[m]? = some e →
        let v := value (e.1, e.2.1)
        e.2.2 = df.round (v.scale2 d.scexp)
          (if d.rnd = 5 then .sr (srngAfter x.seed (m + 1)).toNat (if had = 0 then (sf.grid v).map (· + d.scexp) else none) else rndOf d.rnd) d.satf) ∧
      -- the bits it writes
      let writes := fun (rs : List (Nat × Nat × Nat)) => rs.flatMap fun e =>
        if d.dkind = 2 then (elemWrite df e.2.1 e.2.2).map fun w => { w with off := w.off + e.1 * x.rowb }
        else (elemWrite df (e.1 * d.dpitch + e.2.1) e.2.2).map fun w => { w with off := w.off + d.dst }
      let pushed := fun (t : State) (es : List (List Word)) => t.mapQueue x.crew d.dst fun y =>
        { y with allow := y.allow - es.length, entries := y.entries ++ es }
      (∀ n p o b, b < 8 →
        (∀ w ∈ elemWrite df n p, w.off = o → w.mask.testBit b = true → n * df.width ≤ 8 * o + b ∧ 8 * o + b < (n + 1) * df.width ∧
          w.val.testBit b = p.testBit (8 * o + b - n * df.width)) ∧
        (n * df.width ≤ 8 * o + b → 8 * o + b < (n + 1) * df.width → ∃ w ∈ elemWrite df n p, w.off = o ∧ w.mask.testBit b = true)) ∧
      (d.dkind ≠ 3 →
        (all → x.carryOut s k i = x.finish (x.land r.1 rs) k i (x.byteCount s) 0) ∧
        (¬ all → ∃ (code : Nat) (kept : List (Nat × Nat × Nat)), cause code ∧ kept.Sublist rs ∧ (∀ e ∈ kept, sound (e.1, e.2.1)) ∧
          x.carryOut s k i = x.finish (x.land r.1 kept) k i (x.byteCount s) code) ∧
        (d.dkind = 2 → x.rowb % 4 = 0) → ∃ bs : List Nat, bs.Nodup ∧ (∀ o, o ∈ bs ↔ ∃ w ∈ writes rs, w.off = o) ∧ x.byteCount s = bs.length) ∧
      (∀ (t : State) (es : List (Nat × Nat × Nat)),
        (d.dkind = 2 → x.land t es = t.mapTile x.team d.dst fun z => z.overwrite (writes es)) ∧
        (d.dkind = 1 → ∃ ws : List (Nat × Byte), x.land t es = scratchPut t x.crew ws ∧
          (∀ o, o ∈ ws.map Prod.fst ↔ ∃ w ∈ writes es, w.off = o) ∧
          ∀ e ∈ ws, e.2 = mergeByte (scratchByte t x.crew e.1) ((writes es).filter fun w => w.off == e.1)) ∧
        (d.dkind = 0 → ∃ f : State → Nat → List (Nat × Byte),
          x.land t es = (linesOf ((writes es).map BitWrite.off)).foldl (fun u line =>
            agentWrite (flushLine u (clusterOf x.core) x.ctx line) x.ctx (grantedLeaf u (clusterOf x.core) x.ctx line) line (f u line)) t ∧
          ∀ u line, let v := flushLine u (clusterOf x.core) x.ctx line
            (∀ o, o ∈ (f u line).map Prod.fst ↔ ∃ w ∈ writes es, lineOf w.off = line ∧ w.off % 128 = o) ∧
            ∀ e ∈ f u line, e.2 = mergeByte ((homeLine v x.ctx (grantedLeaf u (clusterOf x.core) x.ctx line) line).1.getD e.1 0#8)
              ((writes es).filter fun w => lineOf w.off == line && w.off % 128 == e.1))) ∧
      (d.dkind = 3 →
        let q := queueOf s x.crew d.dst
        let n := entryWords q.esz
        let entries := x.queueEntries s rs
        let age := x.age.getD s.clk.tick
        (∀ dr, dr < d.dRows → d.rowEntries n dr =
          (((d.elements.filter fun e => e.1 == dr).length * df.width + 7) / 8 + (4 * n - 1)) / (4 * n)) ∧
        entries.length = ((List.range d.dRows).map fun dr => d.rowEntries n dr).sum ∧ x.byteCount s = entries.length * (4 * n) ∧
        (∀ dr m j b, dr < d.dRows → m < d.rowEntries n dr → j < n → b < 32 →
          let mine := (rs.filter fun e => e.1 == dr).flatMap fun e => elemWrite df e.2.1 e.2.2
          let o := 4 * (n * m + j) + b / 8
          ((entries.getD (((List.range dr).map fun dr => d.rowEntries n dr).sum + m) []).getD j 0#32).getLsbD b =
            (mine.filter fun w => w.off == o).any fun w => w.mask.testBit (b % 8) && w.val.testBit (b % 8)) ∧
        (x.broken = true ∨ q.st ≠ 1 → x.carryOut s k i = x.finish s k i (x.byteCount s) 0x12) ∧
        (x.broken = false → q.st = 1 → all →
          let rest := entries.drop x.sent
          let m := if olderPush r.1 x.crew d.dst age then 0 else min rest.length (min q.allow (q.depth - q.entries.length))
          let t := pushed r.1 (rest.take m)
          x.carryOut s k i = if x.sent + m = entries.length then x.finish t k i (x.byteCount s) 0
            else t.mapCopy k i fun z => { z with sent := x.sent + m, age := some (if m = 0 then age else s.clk.tick) }) ∧
        (x.broken = false → q.st = 1 → ¬ all → ∃ (code : Nat) (es : List (List Word)), cause code ∧ es.length ≤ entries.length ∧
          x.carryOut s k i = x.finish (pushed r.1 es) k i (x.byteCount s) code)) ∧
      ∀ (t : State) (n code : Nat),
        let t1 := if d.dkind = 2 then wakeArray (t.mapTile x.team d.dst fun z => { z with land := false }) x.team else t
        let ended := (t1.team x.team).res = .ended
        let step := fun (u : State) (code : Nat) => tagWaiters ((u.mapCopy k i fun y =>
          { y with stage := 1, age := none, code := code, count := n }).mapCore x.core fun y =>
            let left := y.tagCount.getD x.tag 0 - 1
            { y with tagCount := y.tagCount.set x.tag left, tagmap := if left = 0 then y.tagmap.set x.tag true else y.tagmap
                     errmap := if code = 0 then y.errmap else y.errmap.set x.tag true }) x.core
        (code = 0 → ¬ ended → x.followCause t1 ≠ 0x0A → x.finish t k i n code = step t1 (x.followCause t1)) ∧
        (code = 0 → ended → x.finish t k i n code = step t1 0) ∧
        (code ≠ 0 → code ≠ 0x0A → code ≠ 0x15 → x.finish t k i n code = step t1 code) ∧
        (code = 0x15 → x.finish t k i n code = step (copyRecord t1 x) code) ∧
        (x.follow = .none → x.followCause t1 = 0) ∧
        ∀ o, x.follow = .mma o → let u := t1.team x.team
          (o.ta < u.tiles.length → o.tb < u.tiles.length →
            (∀ e, u.operandsFit t1 o = .error e → x.followCause t1 = e.cause) ∧
            (u.operandsFit t1 o = .ok () → (∀ e, u.accFits o = .error e → x.followCause t1 = e.cause) ∧
              (u.accFits o = .ok () → x.followCause t1 = 0))) ∧
          (u.tiles.length ≤ o.ta ∨ u.tiles.length ≤ o.tb → x.followCause t1 = 0x0B)

/-! ## The Sieve, tiles, the array and accumulators (spec 07) -/

/-- R205 to R208: SVLD reads its descriptor, then for each lane of em inside the extents its mask and its element; lanes outside
give 0. Its traps come in the order of R207, an A pair that is not U first of all; what reaches a peer in recovery waits. That the handle
is checked for 0x1A before 0x09 is the model's reading (log 29). A load whose data comes late completes at LOAD_DATA_RETURN (log 3).
R206, R99, R100, R110: the value of a lane in each mode, from the bytes read: the element extended to 32 bits; under N:48 the
kept element that the mask gives the lane, 0 where the mask is clear and all ones where it has not N bits; in q4 the bf16
product of the scale and the weight less its zero; in mx the element times the scale, a quiet NaN under scale 255. -/
def Obligations.SieveLoadsComplete : Prop :=
  (∀ s c (nw : Bool) (d : Dst) (a b : Nat) (i : Instr) (m : SvMode),
    (i, m) ∈ [(Instr.svldPlain nw d a b, SvMode.plain), (.svldN48 nw d a b, .n48), (.svldQ4 nw d a b, .q4), (.svldMx nw d a b, .mx)] →
    Issues s c { d := dstOp d, a := pairOp a, b := .win b 3 1 1, cob := true, compared := true } →
    (c.em = 0#32 → exec i s = finishes s c c.warp) ∧
    (c.em ≠ 0#32 → ∀ r, r.isU = false → c.regAt .a a 0 = r ∨ ((c.regAt .a a 0).isU = true ∧ c.regAt .a a 1 = r) →
      exec i s = traps s c { cause := 0x06, val := .word r.shape }) ∧
    (c.em ≠ 0#32 → ∀ h, c.HoldsPair .a a h →
      (2 ^ 56 ≤ h → exec i s = traps s c { cause := 0x1A, val := .addrs (List.replicate 32 h) }) ∧
      (h < 2 ^ 56 → h % 64 ≠ 0 → exec i s = traps s c { cause := 0x09, val := .addrs (List.replicate 32 h) }) ∧
      (h < 2 ^ 56 → h % 64 = 0 →
        let cx := s.ctxOf c.warp
        let get := fun (u : State) (as : List Nat) => sieveBytes u c.cluster cx as
        let r := get s ((List.range 64).map fun i => h + i)
        let w := fun i => leNat ((List.range 4).map fun j => gotByte r.2 (h + 4 * i + j))
        let t := tensorOf w
        let at_ := fun j l => ((c.regAt .b b j).lane l).toNat
        let inside := fun l => decide (at_ 0 l < t.ext.1) && decide (at_ 1 l < t.ext.2.1) && decide (at_ 2 l < t.ext.2.2)
        let masks := fun l => if inside l then t.maskRun m (at_ 0 l) (at_ 1 l) (at_ 2 l) else []
        let fine := (lanesOf c.em).filter fun l => (c.sieveFailure r.1 (masks l)).isNone && (c.sievePeers r.1 (masks l)).isEmpty
        let r1 := get r.1 (runAddrs (fine.flatMap masks)).eraseDups
        let runs := fun l => masks l ++ if fine.contains l && inside l then t.runs m r1.2 (at_ 0 l) (at_ 1 l) (at_ 2 l) else []
        let r2 := get r1.1 (runAddrs ((lanesOf c.em).flatMap runs)).eraseDups
        let foul := (lanesOf c.em).filter fun l => (runs l).any (gotPoison r2.2)
        let unif := (c.regAt .b b 0).isU && (c.regAt .b b 1).isU && (c.regAt .b b 2).isU
        let stays := fun (u : State) (runs : Nat → List (Nat × Nat)) =>
          ∀ p, c.sieveWaits u runs = some p → exec i s = .next (unlessBlocked s c p)
        (∀ e, c.sieveTrap s (fun _ => [(h, 64)]) = .error e → exec i s = traps s c e) ∧
        (c.sieveTrap s (fun _ => [(h, 64)]) = .ok () → stays s fun _ => [(h, 64)]) ∧
        (c.sieveTrap s (fun _ => [(h, 64)]) = .ok () → c.sieveWaits s (fun _ => [(h, 64)]) = none → gotPoison r.2 (h, 64) = true →
          exec i s = traps s c { cause := 0x15, val := .addrs (List.replicate 32 h) }) ∧
        (c.sieveTrap s (fun _ => [(h, 64)]) = .ok () → c.sieveWaits s (fun _ => [(h, 64)]) = none →
          gotPoison r.2 (h, 64) = false →
          (∀ k, tensorBadWord m w = some k → exec i s = traps s c { cause := 0x02, val := .word k }) ∧
          (tensorBadWord m w = none →
            (∀ e, c.sieveTrap r1.1 runs = .error e → exec i s = traps s c e) ∧
            (c.sieveTrap r1.1 runs = .ok () → stays r1.1 runs) ∧
            (c.sieveTrap r1.1 runs = .ok () → c.sieveWaits r1.1 runs = none →
              (foul ≠ [] → exec i s = traps s c
                { cause := 0x15, val := .addrs ((List.range 32).map fun l => ((runs l).headD (0, 0)).1)
                  lanes := some (maskWhere foul.contains) }) ∧
              (foul = [] → r2.1.sched.late = false →
              ∃ q : Reg, q.shape = shapeUV unif ∧
                (∀ l, l < 32 → c.em.getLsbD l = true → (unif = true → l = lowestLane c.em) → q.lane l =
                  if inside l then t.value m r2.2 (at_ 0 l) (at_ 1 l) (at_ 2 l) else 0#32) ∧
                YieldsFrom s r2.1 c c.warp nw d false q (exec i s)))))))) ∧
  ∀ (t : Tensor) (bs : List (Nat × Byte × Bool)) (x y z : Nat),
    let f := fmtCode t.fmt
    let row := t.base + y * t.str.1 + z * t.str.2
    let aux := t.aux + y * t.astr.1 + z * t.astr.2
    let elem := fun i => elemAt (fun b => gotByte bs (row + b)) f i
    let mask := maskAt (gotByte bs) (aux + 6 * (x / 48))
    let below := fun n => ((List.range n).filter fun i => mask.testBit i).length
    let scale := (gotByte bs (aux + x / 32)).toNat
    t.value .plain bs x y z = f.extend (elem x) ∧
    (below 48 ≠ t.nkeep → t.value .n48 bs x y z = 0xFFFFFFFF#32) ∧
    (below 48 = t.nkeep → mask.testBit (x % 48) = false → t.value .n48 bs x y z = 0#32) ∧
    (below 48 = t.nkeep → mask.testBit (x % 48) = true →
      t.value .n48 bs x y z = f.extend (elem (x / 48 * t.nkeep + below (x % 48)))) ∧
    t.value .q4 bs x y z = (let q := aux + 4 * (x / 32)
      BitVec.ofNat 32 (q4Weight (elem x) ((gotByte bs q).toNat + 2 ^ 8 * (gotByte bs (q + 1)).toNat)
        ((gotByte bs (q + 2)).toNat % 2 ^ 4))) ∧
    (scale = 255 → t.value .mx bs x y z = 0x7FC00000#32) ∧
    (scale ≠ 255 → t.value .mx bs x y z = toF32 ((f.value (elem x)).scale2 ((scale : Int) - 127)))

/-- R209, R210, R212: the tile control instructions check the mask, the operand, the tile; they wait while the tile is landing
or the array has still to read it; each writes its own fields, and TSHAPE keeps the data bytes. -/
def Obligations.TileControlResults : Prop :=
  ∀ s c (t d : Nat) (a : Src) (v : Word), c.em = c.live →
    let n := v.toNat
    let team := c.warp.team
    let x := (c.team s).tile t
    let has := t < (c.team s).tiles.length
    let busy := x.land = true ∨ (c.team s).arrayReads t = true
    let control := fun (i : Instr) (ok : Prop) (f : Tile → Tile) =>
      (¬ ok → exec i s = traps s c { cause := 0x02, val := .word n }) ∧
      (ok → ¬ has → exec i s = traps s c { cause := 0x0B, val := .word t }) ∧
      (ok → has → busy → exec i s = parksAs s c .array) ∧
      (ok → has → ¬ busy → exec i s = finishesIn s (s.mapTile team t f) c c.warp)
    (Issues s c { a := srcOp a, valued := true } →
      ((c.read .a a).isU = false → exec (.tshape t a) s = traps s c { cause := 0x06, val := .word (c.read .a a).shape }) ∧
      (c.read .a a = .u v →
        control (.tshape t a)
          (1 ≤ n % 2 ^ 7 ∧ n % 2 ^ 7 ≤ 64 ∧ n / 2 ^ 7 % 2 = 0 ∧ 16 ≤ n / 2 ^ 8 % 2 ^ 9 ∧ n / 2 ^ 8 % 2 ^ 9 ≤ 256 ∧
            n / 2 ^ 8 % 16 = 0 ∧ n < 2 ^ 17)
          (fun y => { y with rows := n % 2 ^ 7, rowb := n / 2 ^ 8 % 2 ^ 9 }) ∧
        control (.tscale t a) (-128 ≤ v.toInt ∧ v.toInt ≤ 127) (fun y => { y with scale := v.toInt }) ∧
        ((n / 2 ^ 8 % 2 = 0 ∨ n / 2 ^ 4 % 2 ^ 4 < (c.team s).tiles.length) →
          (n / 2 ^ 13 % 2 = 0 ∨ n / 2 ^ 9 % 2 ^ 4 < (c.team s).tiles.length) →
          control (.tfmt t a) (n % 2 ^ 4 ≠ 15 ∧ n / 2 ^ 14 % 2 ^ 5 ≤ 24 ∧ n < 2 ^ 19)
            (fun y => { y with fmt := n % 2 ^ 4, sct := n / 2 ^ 4 % 2 ^ 5, mdt := n / 2 ^ 9 % 2 ^ 5, nkeep := n / 2 ^ 14 % 2 ^ 5 })))) ∧
    (Issues s c {} →
      (¬ has → exec (.tzero t) s = traps s c { cause := 0x0B, val := .word t }) ∧
      (has → busy → exec (.tzero t) s = parksAs s c .array) ∧
      (has → ¬ busy → exec (.tzero t) s = finishesIn s (s.mapTile team t fun y => { y with data := [], poison := false }) c c.warp)) ∧
    (Issues s c { d := pairOp d } →
      (¬ has → exec (.tqry d t) s = traps s c { cause := 0x0B, val := .word t }) ∧
      (has → YieldsPair s c d true
        (.u (BitVec.ofNat 32 (x.rows + 2 ^ 7 * x.rowb + 2 ^ 16 * x.fmt + 2 ^ 20 * x.sct + 2 ^ 25 * x.mdt + if x.land then 2 ^ 30 else 0)))
        (.u (BitVec.ofNat 32 ((x.scale % 2 ^ 8).toNat + 2 ^ 8 * x.nkeep))) (exec (.tqry d t) s)))

/-- R201, R209 to R212, R403: TTRN, TCVT, TROWR, TROWW, TLD and TST trap where a tile is not there (0x0B), an operand is not U or out
of its range, a tile is not configured, does not fit or lacks the row (0x17), an address or a pitch is no multiple of 16 (0x09) or a row
fails its checks; they halt with 0x15 at poison they read; they park while a tile lands or the array has still to read it (R94); and
otherwise they complete: what each puts where, bit by bit. A tile that is written whole loses its poison. TLD leaves its tile landing
until TILE_LANDED. The model's choices: which of two tiles that do not fit together sy.tval names, and that a tile is waited for before
it is checked (log 25). -/
def Obligations.TileDataResults : Prop :=
  (∀ (z : Tile) (ws : List BitWrite), (∀ w ∈ ws, w.mask < 256 ∧ w.val &&& w.mask = w.val) →
    let z' := z.overwrite ws
    (∀ o b, b < 8 → (z'.byte o).getLsbD b = match (ws.filter fun w => w.off == o && w.mask.testBit b).getLast? with
      | some w => w.val.testBit b
      | none => (z.byte o).getLsbD b) ∧
    (z'.poison = true ↔ z.poison = true ∧ ∃ o b, o < z.rows * z.rowb ∧ b < 8 ∧ ∀ w ∈ ws, w.off = o → w.mask.testBit b = false) ∧
    { z' with data := z.data, poison := z.poison } = z) ∧
  ∀ s c (t u a : Nat) (d : Dst) (ra b : Src) (v : Word), c.em = c.live →
    let n := v.toNat
    let team := c.warp.team
    let x := (c.team s).tile t
    let y := (c.team s).tile u
    let has := fun k => k < (c.team s).tiles.length
    let busy := fun k => ((c.team s).tile k).land = true ∨ (c.team s).arrayReads k = true
    let waits := fun (i : Instr) => exec i s = parksAs s c .array
    let unfit := fun (i : Instr) (k : Nat) => exec i s = traps s c { cause := 0x17, val := .word k }
    let lacks := fun (i : Instr) (k : Nat) => exec i s = traps s c { cause := 0x0B, val := .word k }
    let halts := fun (i : Instr) => exec i s = traps s c { cause := 0x15 }
    let writes := fun (i : Instr) (ws : List BitWrite) => exec i s = finishesIn s (s.mapTile team t fun z => z.overwrite ws) c c.warp
    -- an instruction of the tiles t and u, with what makes them fit beyond being configured
    let pair := fun (i : Instr) (fits : Prop) (ws : List BitWrite) =>
      let ok := x.rows ≠ 0 ∧ y.rows ≠ 0 ∧ t ≠ u ∧ x.nkeep = 0 ∧ y.nkeep = 0 ∧ fits
      (¬ has t → lacks i t) ∧ (has t → ¬ has u → lacks i u) ∧ (has t → has u → busy t ∨ busy u → waits i) ∧
      (has t → has u → ¬ busy t → ¬ busy u →
        (¬ ok → ∃ k, (k = t ∨ k = u) ∧ unfit i k) ∧
        (x.rows = 0 → y.rows ≠ 0 → unfit i t) ∧ (x.rows ≠ 0 → y.rows = 0 → unfit i u) ∧
        (ok → y.poison = true → halts i) ∧ (ok → y.poison = false → writes i ws))
    (Issues s c {} → pair (.ttrn t u) (x.fmt = y.fmt ∧ x.rows = y.k ∧ x.k = y.rows)
      ((List.range x.rows).flatMap fun r => (List.range x.k).flatMap fun k =>
        (elemWrite (fmtCode x.fmt) k (y.stored k r)).map fun w => { w with off := w.off + r * x.rowb })) ∧
    (Issues s c { a := srcOp ra, valued := true } →
      let had := hadSize (n / 2 ^ 3 % 2 ^ 2)
      let inside := n % 2 ^ 3 ≤ 5 ∧ n / 2 ^ 3 % 2 ^ 2 ≠ 3 ∧ n / 2 ^ 5 % 2 ^ 3 = 0 ∧ n < 2 ^ 16
      let box : Box :=
        { rows := x.rows, cols := x.k, x := fun r k => some ((fmtCode y.fmt).value (y.stored r k)), src := fmtCode y.fmt
          dst := fmtCode x.fmt, rnd := n % 2 ^ 3, had := n / 2 ^ 3 % 2 ^ 2, scale := (BitVec.ofNat 8 (n / 2 ^ 8)).toInt
          zf := false, trn := false, satf := false, seed := c.warp.srng.getD c.first 0#32 }
      ((c.read .a ra).isU = false → exec (.tcvt t ra u) s = traps s c { cause := 0x06, val := .word (c.read .a ra).shape }) ∧
      (c.read .a ra = .u v →
        (¬ inside → exec (.tcvt t ra u) s = traps s c { cause := 0x02, val := .word n }) ∧
        (inside → pair (.tcvt t ra u) (y.rows = x.rows ∧ x.k = y.k ∧ (had = 0 ∨ x.k % had = 0))
          (box.results.flatMap fun e => (elemWrite (fmtCode x.fmt) e.2.1 e.2.2).map fun w => { w with off := w.off + e.1 * x.rowb })))) ∧
    let row := n % 2 ^ 6
    let half := n / 2 ^ 8 % 2
    -- an instruction of a row of the tile t
    let rowed := fun (i : Instr) (comes : Prop) =>
      let inside := n / 2 ^ 6 % 2 ^ 2 = 0 ∧ n < 2 ^ 9
      let ok := x.rows ≠ 0 ∧ row < x.rows ∧ (c.warp.prot = true → x.rowb ≤ 64)
      ((c.read .a ra).isU = false → exec i s = traps s c { cause := 0x06, val := .word (c.read .a ra).shape }) ∧
      (c.read .a ra = .u v →
        (¬ inside → exec i s = traps s c { cause := 0x02, val := .word n }) ∧
        (inside → ¬ has t → lacks i t) ∧
        (inside → has t → busy t → waits i) ∧
        (inside → has t → ¬ busy t → (¬ ok → unfit i t) ∧ (ok → comes)))
    (Issues s c { d := dstOp d, a := srcOp ra, valued := true } → rowed (.trowr d ra t)
      ((x.poison = true → halts (.trowr d ra t)) ∧
      (x.poison = false → ∃ r : Reg, r.shape = 2 ∧
        (∀ l, l < 32 → r.lane l = BitVec.ofNat 32 (leNat ((List.range 4).map fun i =>
          if 128 * half + 4 * l + i < x.rowb then x.byte (row * x.rowb + 128 * half + 4 * l + i) else 0#8))) ∧
        Yields s c c.warp false d false r (exec (.trowr d ra t) s)))) ∧
    (Issues s c { a := srcOp ra, b := srcOp b, valued := true } → rowed (.troww t ra b)
      (∃ ws : List BitWrite, writes (.troww t ra b) ws ∧
        ∀ w, w ∈ ws ↔ ∃ l i, l < 32 ∧ c.live.getLsbD l = true ∧ i < 4 ∧ 128 * half + 4 * l + i < x.rowb ∧
          w = ⟨row * x.rowb + 128 * half + 4 * l + i, 255, ((c.read .b b).lane l).toNat / 2 ^ (8 * i) % 2 ^ 8⟩)) ∧
    (Issues s c { a := pairOp a, b := srcOp b, ext := .bits 1, compared := true } → ∀ lo hi pitch : Word, c.regAt .a a 0 = .u lo →
      c.regAt .a a 1 = .u hi → c.read .b b = .u pitch →
      let spad := c.ext % 2 = 1
      let va := if spad then lo.toNat else lo.toNat + 2 ^ 32 * hi.toNat
      let rows := (List.range x.rows).map fun r => ((va + r * pitch.toNat) % 2 ^ 64, x.rowb)
      let bytes := rows.flatMap fun p => (List.range p.2).map fun i => p.1 + i
      let moved := fun (i : Instr) (kind : Access) (comes : Prop) =>
        (¬ has t → lacks i t) ∧ (has t → busy t → waits i) ∧
        (has t → ¬ busy t →
          (x.rows = 0 → unfit i t) ∧
          (x.rows ≠ 0 → va % 16 ≠ 0 → exec i s = traps s c { cause := 0x09, val := .addrs (List.replicate 32 va) }) ∧
          (x.rows ≠ 0 → va % 16 = 0 → pitch.toNat % 16 ≠ 0 →
            exec i s = traps s c { cause := 0x09, val := .addrs (List.replicate 32 (va + pitch.toNat)) }) ∧
          (x.rows ≠ 0 → va % 16 = 0 → pitch.toNat % 16 = 0 →
            (∀ e, c.checkRows s (decide spad) kind rows = .error e → exec i s = traps s c e) ∧
            (c.checkRows s (decide spad) kind rows = .ok () → comes)))
      let stays := fun (i : Instr) => ∀ p, c.waitRows s (decide spad) rows = some p → exec i s = .next (unlessBlocked s c p)
      let r := (c.agent s).read s (decide spad) bytes
      moved (.tld t a b) .read (stays (.tld t a b) ∧ (c.waitRows s (decide spad) rows = none →
        exec (.tld t a b) s = finishesIn s (r.1.mapTile team t fun z =>
          { z with data := putRun z.data 0 (r.2.map Prod.fst), land := true, poison := r.2.any Prod.snd }) c c.warp)) ∧
      moved (.tst t a b) .write ((x.poison = true → halts (.tst t a b)) ∧ (x.poison = false → stays (.tst t a b) ∧
        (c.waitRows s (decide spad) rows = none →
          exec (.tst t a b) s = finishesIn s (c.external ((c.agent s).store s (decide spad)
            (bytes.zipIdx.map fun e => (e.1, x.byte e.2)))) c c.warp))))

/-- R213 to R215, R403: every MMA and TSEQ, each with the operation its function code names: operands that do not fit raise trap
0x17, a poisoned operand that is landing is waited for, other poison halts, and otherwise the array accepts the operations, in
order, and the warp goes on. That an operand's poison is waited for while it lands is the model's choice (log 25). -/
def Obligations.MatrixAccepted : Prop :=
  ∀ s c (acc ta tb : Nat) (clr : Bool), c.em = c.live →
    let has := fun k => k < (c.team s).tiles.length
    let accepts := fun (i : Instr) (os : List MatOp) =>
      (∀ o ∈ os, has o.ta ∧ has o.tb) →
      (∀ e, Team.acceptAll s (c.team s) os = .error e → exec i s = traps s c e) ∧
      (∀ t, Team.acceptAll s (c.team s) os = .ok t →
        let lands := ∃ o ∈ os, ∃ n ∈ (c.team s).opTiles o, ((c.team s).tile n).poison = true ∧ ((c.team s).tile n).land = true
        (lands → exec i s = parksAs s c .array) ∧
        (¬ lands → (c.team s).opPoison os = true → exec i s = traps s c { cause := 0x15 }) ∧
        (¬ lands → (c.team s).opPoison os = false → exec i s = finishesIn s (s.mapTeam c.warp.team fun _ => t) c c.warp ∧
          t.ops = (c.team s).ops ++ os ∧ t.tiles = (c.team s).tiles ∧ ∀ k, k ≠ acc → t.acc k = (c.team s).acc k))
    let mma := fun (i : Instr) (kind : Nat) =>
      (¬ (has ta ∧ has tb) → exec i s = traps s c { cause := 0x0B, val := .word (if ta < (c.team s).tiles.length then tb else ta) }) ∧
      accepts i [{ kind := kind, acc := acc, clr := clr, ta := ta, tb := tb, later := false }]
    let tseq := fun (i : Instr) (kind : Nat) =>
      let n := c.ext + 1
      (c.hasXp = false ∨ 15 < ta + n - 1 ∨ 15 < tb + n - 1 → exec i s = traps s c { cause := 0x02 }) ∧
      (c.hasXp = true → ta + n - 1 ≤ 15 → tb + n - 1 ≤ 15 → accepts i ((List.range n).map fun j =>
        { kind := kind, acc := acc, clr := clr && j == 0, ta := ta + j, tb := tb + j, later := decide (0 < j) }))
    (Issues s c {} →
      mma (.mmaBf16 acc clr ta tb) 0 ∧ mma (.mmaF16 acc clr ta tb) 1 ∧ mma (.mmaE4m3 acc clr ta tb) 2 ∧
      mma (.mmaE5m2 acc clr ta tb) 3 ∧ mma (.mmaDe8 acc clr ta tb) 4 ∧ mma (.mmaS8 acc clr ta tb) 5 ∧
      mma (.mmaE2m1 acc clr ta tb) 6 ∧ mma (.mmaS4 acc clr ta tb) 7 ∧ mma (.mmaQ4 acc clr ta tb) 8 ∧
      mma (.mmaSpBf16 acc clr ta tb) 9 ∧ mma (.mmaSpE4m3 acc clr ta tb) 10 ∧ mma (.mmaMxE4m3 acc clr ta tb) 11 ∧
      mma (.mmaMxE2m1 acc clr ta tb) 12) ∧
    (Issues s c { ext := .bits 4 } →
      tseq (.tseqBf16 acc clr ta tb) 0 ∧ tseq (.tseqF16 acc clr ta tb) 1 ∧ tseq (.tseqE4m3 acc clr ta tb) 2 ∧
      tseq (.tseqE5m2 acc clr ta tb) 3 ∧ tseq (.tseqDe8 acc clr ta tb) 4 ∧ tseq (.tseqS8 acc clr ta tb) 5 ∧
      tseq (.tseqE2m1 acc clr ta tb) 6 ∧ tseq (.tseqS4 acc clr ta tb) 7 ∧ tseq (.tseqQ4 acc clr ta tb) 8 ∧
      tseq (.tseqSpBf16 acc clr ta tb) 9 ∧ tseq (.tseqSpE4m3 acc clr ta tb) 10 ∧ tseq (.tseqMxE4m3 acc clr ta tb) 11 ∧
      tseq (.tseqMxE2m1 acc clr ta tb) 12)

/-- R112, R113, R214, R215: what the array makes of its oldest operation. Elements inside the shape take its result, a chunk of
32 products at a time; outside it they stay, or become zero under clear; nothing else of the team changes. A chunk of a
floating-point type is summed exactly with the element and rounded once, and a result below 2^-126 becomes a zero of its sign;
a row of an sp operand with a mask of the wrong count makes the canonical NaN. An integer type takes the element of
IntegerMatrixSaturates. An operand's value has its tile's scale exponent (R109; log 18), its block scale, or its expanded weight. -/
def Obligations.ArrayComputes : Prop :=
  ∀ (t : Team) (o : MatOp) (rest : List MatOp) (i j : Nat),
    t.ops = o :: rest → o.acc < t.accs.length → i < 64 → j < 64 → (t.tile o.ta).rows ≤ 64 → (t.tile o.tb).rows ≤ 64 →
    let u := t.perform o
    let inside := i < (t.tile o.ta).rows ∧ j < (t.tile o.tb).rows
    let K := (t.tile o.tb).k
    let products := fun c => ((List.range 32).filter fun k => decide (32 * c + k < K)).map fun k =>
      (t.aValue o i (32 * c + k)).mul (t.bValue o j (32 * c + k))
    let start := if o.clr then 0#32 else (t.acc o.acc).elem i j
    let step := fun (v : Word) (c : Nat) =>
      let w := toF32 ((f32 v).add (exSum (products c)))
      if w.toNat / 2 ^ 23 % 2 ^ 8 = 0 then w &&& 0x80000000#32 else w
    u.ops = rest ∧ u.tiles = t.tiles ∧ (∀ n, n ≠ o.acc → u.acc n = t.acc n) ∧
    ((u.acc o.acc).rows, (u.acc o.acc).cols, (u.acc o.acc).isInt) = ((t.acc o.acc).rows, (t.acc o.acc).cols, (t.acc o.acc).isInt) ∧
    (¬ inside → (u.acc o.acc).elem i j = if o.clr then 0#32 else (t.acc o.acc).elem i j) ∧
    (inside → mmaIsInt o.kind = false → t.spBad o i K = false →
      (u.acc o.acc).elem i j = (List.range ((K + 31) / 32)).foldl step start) ∧
    (inside → mmaIsInt o.kind = true → (u.acc o.acc).elem i j = t.element o i j) ∧
    (inside → t.spBad o i K = true → (u.acc o.acc).elem i j = 0x7FC00000#32) ∧
    ∀ k, k < K →
      let a := t.tile o.ta
      let b := t.tile o.tb
      let plain := fun (x : Tile) (r : Nat) => ((fmtCode x.fmt).value (x.stored r k)).scale2 x.scale
      let blocks := fun (x : Tile) => t.tile (x.sct % 16)
      (o.kind ∈ [0, 1, 2, 3, 4, 6, 8] → t.aValue o i k = plain a i) ∧
      (o.kind ∈ [0, 1, 2, 3, 4, 6, 9, 10] → t.bValue o j k = plain b j) ∧
      (o.kind = 8 → t.bValue o j k = (q4Value b (blocks b) j k).scale2 b.scale) ∧
      (o.kind ∈ [11, 12] → t.aValue o i k = (mxValue a (blocks a) i k).scale2 a.scale ∧
        t.bValue o j k = (mxValue b (blocks b) j k).scale2 b.scale) ∧
      (o.kind ∈ [9, 10] → K % 48 = 0 → t.spBad o i K = false →
        ∃ v, spValue a (t.tile (a.mdt % 16)) i k = some v ∧ t.aValue o i k = v.scale2 a.scale)

/-- R113: "MMA of types s8 and s4 treats the accumulator words as s32. For each chunk of 32, it adds the exact integer sum to the
accumulator and saturates the result to the s32 range, in increasing chunk order." -/
def Obligations.IntegerMatrixSaturates : Prop :=
  ∀ (t : Team) (o : MatOp) (i j width : Nat), (o.kind = 5 ∧ width = 8 ∨ o.kind = 7 ∧ width = 4) →
    (t.tile o.ta).fmt = (mmaFmts o.kind).1 → (t.tile o.tb).fmt = (mmaFmts o.kind).2 →
    let K := (t.tile o.tb).k
    let a := fun k => (BitVec.ofNat width ((t.tile o.ta).stored i k)).toInt
    let b := fun k => (BitVec.ofNat width ((t.tile o.tb).stored j k)).toInt
    let start : Word := if o.clr then 0#32 else (t.acc o.acc).elem i j
    let chunk := fun c => (((List.range 32).filter fun k => decide (32 * c + k < K)).map fun k => a (32 * c + k) * b (32 * c + k)).sum
    (t.element o i j).toInt =
      (List.range ((K + 31) / 32)).foldl (fun v c => max (-2 ^ 31) (min (v + chunk c) (2 ^ 31 - 1))) start.toInt

/-- R216, R217, R220, R111, R218: ACCZ, ACCLD, ACCST, ACCADD, ACCSTSP and ACCTOT: they check the control word, wait for the
array, want an accumulator that fits, check the address and every row, and then move its elements. Each element leaves the
accumulator rounded once.
R111: a column of a group is kept when fewer than N columns rank above it; NaN above every number, larger magnitudes above
smaller ones, and between equal ranks the lower column. Exactly N columns are kept. -/
def Obligations.AccumulatorMemory : Prop :=
  (∀ s c (acc a t : Nat) (d ra : Src) (v lo hi : Word), c.em = c.live →
    let team := c.warp.team
    let x := (c.team s).acc acc
    let n := v.toNat
    let k := accCtl n
    let f := fmtCode k.fmt
    let va := if k.spad then lo.toNat else lo.toNat + 2 ^ 32 * hi.toNat
    let rowAt := fun (pitch i : Nat) => (va + i * pitch) % 2 ^ 64
    let rows := fun m => (List.range x.rows).map fun i => (rowAt k.pitch i, m)
    let ready := (c.team s).accWait acc = false
    let elements := fun (g : Nat → Nat → List BitWrite) => (List.range x.rows).flatMap fun i => (List.range x.cols).flatMap (g i)
    let runs := fun (i : Instr) (ok fits : Prop) (kind : Access) (rs : List (Nat × Nat)) (u : State) =>
      (¬ ok → exec i s = traps s c { cause := 0x02, val := .word n }) ∧
      (ok → ¬ ready → exec i s = parksAs s c .array) ∧
      (ok → ready → x.rows = 0 ∨ ¬ fits → exec i s = traps s c { cause := 0x17, val := .word (0x10 + acc) }) ∧
      (ok → ready → x.rows ≠ 0 → fits → va % max 1 (f.width / 8) ≠ 0 → exec i s =
        traps s c { cause := 0x09, val := .addrs (List.replicate 32 va) }) ∧
      (ok → ready → x.rows ≠ 0 → fits → va % max 1 (f.width / 8) = 0 →
        (∀ e, c.checkRows s k.spad kind rs = .error e → exec i s = traps s c e) ∧
        (c.checkRows s k.spad kind rs = .ok () → c.waitRows s k.spad rs = none → (x.poison = false ∨ kind = .read) →
          exec i s = finishesIn s u c c.warp))
    (Issues s c { a := srcOp ra, valued := true } → c.read .a ra = .u v →
      let ok := 1 ≤ n % 2 ^ 7 ∧ n % 2 ^ 7 ≤ 64 ∧ n / 2 ^ 7 % 2 = 0 ∧ 1 ≤ n / 2 ^ 8 % 2 ^ 7 ∧ n / 2 ^ 8 % 2 ^ 7 ≤ 64 ∧
        n / 2 ^ 15 % 2 = 0 ∧ n < 2 ^ 17
      (¬ ok → exec (.accz acc ra) s = traps s c { cause := 0x02, val := .word n }) ∧
      (ok → ¬ ready → exec (.accz acc ra) s = parksAs s c .array) ∧
      (ok → ready → exec (.accz acc ra) s = finishesIn s (s.mapAcc team acc fun _ =>
        { rows := n % 2 ^ 7, cols := n / 2 ^ 8 % 2 ^ 7, isInt := decide (n / 2 ^ 16 % 2 = 1), elems := [], poison := false }) c c.warp)) ∧
    (Issues s c (accForm a d) → c.read .d d = .u v → c.regAt .a a 0 = .u lo → c.regAt .a a 1 = .u hi →
      (let r := (c.agent s).read s k.spad ((rows (4 * x.cols)).flatMap fun p => (List.range p.2).map fun i => p.1 + i)
       let elem := fun i j => (BitVec.ofNat 32 (leNat (((r.2.map Prod.fst).drop (4 * (i * x.cols + j))).take 4)) : Word)
       runs (.accld acc a d) (accCtlOk n false false = true) (k.fmt = if x.isInt then 0 else 2) .read (rows (4 * x.cols))
        (r.1.mapAcc team acc fun y => { y.with elem with poison := r.2.any Prod.snd })) ∧
      runs (.accst acc a d) (accCtlOk n false false = true) True .write (rows (runBytes f x.cols))
        (c.external ((c.agent s).storeBits s k.spad (elements fun i j =>
          (elemWrite f j (c.rounded x f k.rnd (i * x.cols + j) i j)).map fun w => { w with off := rowAt k.pitch i + w.off }))) ∧
      (let w := f.width / 8
       let es := (List.range x.rows).flatMap fun i => (List.range x.cols).map fun j => (rowAt k.pitch i + w * j, x.elem i j)
       runs (.accadd acc a d) (accCtlOk n false false = true ∧ k.rnd = 0)
        (if x.isInt then k.fmt = 0 else k.fmt = 2 ∨ k.fmt = 3) .both (rows (w * x.cols))
        (c.external (es.foldl (fun u e => (c.agent s).addAt u k.spad w (fun old => f.round ((f.value old).add (x.fmt.value e.2.toNat)) .rne) e.1)
          ((c.agent s).flush s k.spad (es.map Prod.fst))))) ∧
      (let groups := x.cols / 48
       let per := groups * k.nkeep
       let maskAddr := fun i => (va + x.rows * k.pitch + i * (6 * groups)) % 2 ^ 64
       let kept := fun i g => keptColumns x.fmt k.nkeep fun j => x.elem i (48 * g + j)
       let values := (List.range x.rows).flatMap fun i =>
        ((List.range groups).flatMap fun g => (kept i g).map fun j => 48 * g + j).zipIdx.flatMap fun e =>
          (elemWrite f e.2 (c.rounded x f k.rnd (i * per + e.2) i e.1)).map fun w => { w with off := rowAt k.pitch i + w.off }
       let masks := (List.range x.rows).flatMap fun i => (List.range groups).flatMap fun g => (List.range 6).map fun b =>
        ({ off := maskAddr i + 6 * g + b, mask := 255, val := (kept i g).foldl (fun m j => m + 2 ^ j) 0 / 256 ^ b % 256 } : BitWrite)
       runs (.accstsp acc a d) (accCtlOk n true false = true) (x.cols % 48 = 0) .write
        (rows (runBytes f per) ++ (List.range x.rows).map fun i => (maskAddr i, 6 * groups))
        (c.external ((c.agent s).storeBits s k.spad (values ++ masks))))) ∧
    (Issues s c { d := srcOp d, dread := true, compared := true } → c.read .d d = .u v → accCtlOk n false true = true → t < (c.team s).tiles.length → ready →
      let y := (c.team s).tile t
      x.rows ≠ 0 → (c.team s).writeWait t = false → y.rows = x.rows → y.nkeep = 0 → y.k = x.cols → y.fmt = k.fmt →
      x.poison = false →
      exec (.acctot t acc d) s = finishesIn s (s.mapTile team t fun z => { z.putBits (elements fun i j =>
        (elemWrite (fmtCode y.fmt) j (c.rounded x (fmtCode y.fmt) k.rnd (i * x.cols + j) i j)).map fun w =>
          { w with off := w.off + i * y.rowb }) with poison := false }) c c.warp)) ∧
  ∀ (v : Nat → Word) (isInt : Bool) (n : Nat), n ≤ 48 →
    let f : Fmt := if isInt then .int true 32 else .bin fF32
    let nan := fun (w : Word) => isInt = false ∧ w.toNat % 2 ^ 31 > 0x7F800000
    let mag := fun (w : Word) => if isInt then w.toInt.natAbs else w.toNat % 2 ^ 31
    let above := fun i j => (nan (v i) ∧ ¬ nan (v j)) ∨ (¬ nan (v i) ∧ ¬ nan (v j) ∧ mag (v j) < mag (v i)) ∨
      (i < j ∧ ((nan (v i) ∧ nan (v j)) ∨ (¬ nan (v i) ∧ ¬ nan (v j) ∧ mag (v i) = mag (v j))))
    (keptColumns f n v).length = n ∧ List.Pairwise (· < ·) (keptColumns f n v) ∧
    ∀ i j, i ∈ keptColumns f n v → j < 48 → above j i → j ∈ keptColumns f n v

/-- R217, R219, R301: the row functions of softmax on an f32 accumulator. A lane of the pair that holds no live value is open (log 6), so
rows are stated where the lane is live or the register is compact. -/
def Obligations.AccumulatorRows : Prop :=
  ∀ s c (acc d : Nat) (a : Src) (k : Word), c.em = c.live →
    let x := (c.team s).acc acc
    let ready := (c.team s).accWait acc = false
    let here := ready ∧ x.rows ≠ 0 ∧ x.isInt = false
    let sound := here ∧ x.poison = false
    let rowsFit := c.warp.prot = true → x.rows ≤ 16
    let colsFit := c.warp.prot = true → x.cols ≤ 16
    let unfit := fun i => exec i s = traps s c { cause := 0x17, val := .word (0x10 + acc) }
    let v := fun i => (c.regAt .d d (i / 32)).lane (i % 32)
    let known := fun i => (c.regAt .d d (i / 32)).isV = false ∨ c.live.getLsbD (i % 32) = true
    let early := fun i => (¬ ready → exec i s = parksAs s c .array) ∧
      (ready → x.rows = 0 ∨ x.isInt = true → exec i s = traps s c { cause := 0x17, val := .word (0x10 + acc) })
    let lanes := fun (i : Instr) (f : Nat → Word) => ∃ r0 r1 : Reg, r0.shape = 2 ∧ r1.shape = 2 ∧
      (∀ l, l < 32 → (l < x.rows → known l → r0.lane l = f l) ∧ (x.rows ≤ l → r0.lane l = v l) ∧
        (32 + l < x.rows → known (32 + l) → r1.lane l = f (32 + l)) ∧ (x.rows ≤ 32 + l → r1.lane l = v (32 + l))) ∧
      YieldsPair s c d false r0 r1 (exec i s)
    let elems := fun (i : Instr) (P : Nat → Nat → Word → Prop) => ∃ y : Acc,
      exec i s = finishesIn s (s.mapAcc c.warp.team acc fun _ => y) c c.warp ∧
      (y.rows, y.cols, y.isInt, y.poison) = (x.rows, x.cols, x.isInt, x.poison) ∧
      ∀ r j, r < 64 → j < 64 → (r < x.rows ∧ j < x.cols → P r j (y.elem r j)) ∧
        (¬ (r < x.rows ∧ j < x.cols) → y.elem r j = x.elem r j)
    (Issues s c { d := pairOp d, dread := true } → early (.accrscl acc d) ∧ (here → ¬ rowsFit → unfit (.accrscl acc d)) ∧
      (sound → rowsFit → elems (.accrscl acc d) (fun r j w => known r → w = fmul32 (x.elem r j) (v r)))) ∧
    (Issues s c { d := pairOp d, dread := true, compared := true } → early (.accrsum d acc) ∧
      (here → ¬ rowsFit → unfit (.accrsum d acc)) ∧
      (sound → rowsFit →
        lanes (.accrsum d acc) (fun r => fadd32 (v r) (toF32 (exSum ((List.range x.cols).map fun j => f32 (x.elem r j))))))) ∧
    (Issues s c { d := pairOp d, a := srcOp a, compared := true } → c.read .a a = .u k → early (.accrowr d acc a) ∧
      (here → ¬ colsFit → unfit (.accrowr d acc a)) ∧
      (here → x.rows ≤ k.toNat → unfit (.accrowr d acc a)) ∧
      (sound → colsFit → k.toNat < x.rows → ∃ r0 r1 : Reg, r0.shape = 2 ∧ r1.shape = 2 ∧
        (∀ l, l < 32 → r0.lane l = (if l < x.cols then x.elem k.toNat l else 0#32) ∧
          r1.lane l = if 32 + l < x.cols then x.elem k.toNat (32 + l) else 0#32) ∧
        YieldsPair s c d false r0 r1 (exec (.accrowr d acc a) s))) ∧
    (Issues s c { d := pairOp d, a := srcOp a, dread := true, compared := true } → c.read .a a = .u k →
      early (.accrmax d acc a) ∧ (here → ¬ rowsFit → unfit (.accrmax d acc a)) ∧
      (sound → rowsFit →
        ∀ (m : Nat → Word) (ms : Nat → List Word), (∀ r, (List.range x.cols).map (fun j => fmul32 k (x.elem r j)) = m r :: ms r) →
          lanes (.accrmax d acc a) (fun r => fmax32 (v r) ((ms r).foldl fmax32 (m r))))) ∧
    (Issues s c { d := pairOp d, a := srcOp a, dread := true } → c.read .a a = .u k → early (.accexp acc d a) ∧
      (here → ¬ rowsFit → unfit (.accexp acc d a)) ∧
      (sound → rowsFit →
        elems (.accexp acc d a) (fun r j w => known r → w =
          if v r = 0xFF800000#32 then 0#32 else fexp232 (fms32 k (x.elem r j) (v r))))) ∧
    (Issues s c { d := pairOp d, a := srcOp a, dread := true, valued := true } → c.read .a a = .u k → early (.accroww acc a d) ∧
      (here → ¬ colsFit → unfit (.accroww acc a d)) ∧
      (here → colsFit → k.toNat < x.rows →
        elems (.accroww acc a d) (fun r j w => (r = k.toNat → known j → w = v j) ∧ (r ≠ k.toNat → w = x.elem r j))) ∧
      (here → x.rows ≤ k.toNat → unfit (.accroww acc a d)))

/-! ## Volumes, snapshots, launches (spec 08) -/

/-- R237, R240, R241, R244, R329, R348: VLD, VST, VPROBE and VADD check mask, handle and descriptor, then resolve their tiles; while
a walk stands at an entry the split is parked in it. When every tile is done with, VLD gives the element or the background (0x15
where it is poisoned), VPROBE whether the tile is there, VST stores and VADD adds in lane order where it is. A walk that
allocates marks the entry, takes an object from the pool, fills it and publishes it, each a step of its own, and gives the entry
back where the pool is empty or a check fails. After a VSHOOT of its volume an instruction under way starts again with the descriptor
as it then stands, walks that have failed apart (R243, R320). VSHOOT adds one to GEN at its home after its release and drops the
handle's CLB entries; VQRY reads the tile pool. The model's choices: that mark, take, fill and publish are each a step of its own, that
a failed walk stays failed after a VSHOOT, and that VSHOOT and VQRY check their words before they act (log 29); and 0x0B for words of the
descriptor or the pool that cannot be reached (log 55). -/
def Obligations.VolumeResults : Prop :=
  (∀ s c (b : Nat) (a : Src), c.em = c.live →
    let cx := s.ctxOf c.warp
    let unif := (c.regAt .b b 0).isU && (c.regAt .b b 1).isU && (c.regAt .b b 2).isU
    let lane := fun l => if unif then c.first else l
    let at_ := fun (h : Nat) => (s.ctx cx).voltab + 64 * h
    (∀ (dd : Dst) (ds : Src) i op d rd cmp, (i, op, d, rd, cmp) ∈ [(Instr.vld dd a b, VolOp.load dd b, dstOp dd, false, true),
        (.vprobe dd a b, .probe dd b, dstOp dd, false, false), (.vst a b ds, .store b ds, srcOp ds, true, true),
        (.vadd a b ds, .add b ds, srcOp ds, true, true)] → Issues s c (volForm d rd cmp a b) → ∀ h : Word, c.read .a a = .u h →
      (255 < h.toNat → exec i s = traps s c { cause := 0x02, val := .word h.toNat }) ∧
      (h.toNat ≤ 255 → ∀ e, c.volume? s op h.toNat = .error e → exec i s = traps s c e) ∧
      (h.toNat ≤ 255 → ∀ v, c.volume? s op h.toNat = .ok v → v.w 5 / 2 ^ 10 % 2 = 1 ∧ v.badWord = none ∧
        (rd = true → v.w 5 / 2 ^ 8 % 2 = 0) ∧ (∀ j, j < 16 → v.w j = c.homeNat s (at_ h.toNat + 4 * j) 4) ∧
        (∀ l j, l < 32 → c.em.getLsbD l = true → j < 3 → ((c.regAt .b b j).lane l).toNat ≤ v.w (2 + j) % 2 ^ 24) ∧
        let tiles := ((lanesOf c.em).map fun l => v.tileOf (c.coords b l)).eraseDups
        let r := c.resolveAll tiles s (VolWalk.start op h.toNat v)
        (r.2.2 = false → exec i s = parksIn s r.1 c (.walk r.2.1)) ∧
        (r.2.2 = true →
          (∀ e, c.found r.1 r.2.1 = .error e → exec i s = traps s c e) ∧
          (∀ t, c.found r.1 r.2.1 = .ok (.inl t) → exec i s = .next (unlessBlocked s c t)) ∧
          ∀ f, c.found r.1 r.2.1 = .ok (.inr f) →
            let n := f.vol.esz
            let ps := c.present f
            let got := loadBytes f.state c.cluster cx 0 (ps.flatMap fun e => (List.range n).map fun i =>
              (e.2 + i, grantedLeaf f.state c.cluster cx (e.2 + i)))
            let vals := (ps.map Prod.fst).zip (pieces n got.2 ps.length)
            let rotten := (vals.filter fun e => e.2.any Prod.snd).map Prod.fst
            let value := fun l => match vals.find? fun e => e.1 == l with
              | some e => leNat (e.2.map Prod.fst)
              | none => f.vol.bg
            (op = .probe dd b → ∃ r : Reg, r.shape = shapeUV unif ∧
              (∀ l, l < 32 → r.lane l = if (f.addr (lane l)).isSome then 1#32 else 0#32) ∧
              YieldsFrom s f.state c c.warp false dd false r (exec i s)) ∧
            (op = .load dd b → rotten ≠ [] → exec i s = traps s c
              { cause := 0x15, val := .addrs ((List.range 32).map fun l => (f.addr l).getD 0), lanes := some (maskWhere rotten.contains) }) ∧
            (op = .load dd b → rotten = [] → ∃ r0 r1 : Reg, r0.shape = shapeUV unif ∧ r1.shape = shapeUV unif ∧
              (∀ l, l < 32 → r0.lane l = BitVec.ofNat 32 (value (lane l)) ∧ r1.lane l = BitVec.ofNat 32 (value (lane l) / 2 ^ 32)) ∧
              (n ≠ 8 → YieldsFrom s got.1 c c.warp false dd false r0 (exec i s)) ∧
              (n = 8 → ∀ m, dd = .win m → YieldsPairFrom s got.1 c m false r0 r1 (exec i s))) ∧
            (op = .store b ds → exec i s = finishesIn s (c.external (storeBytes f.state c.cluster cx 0 (ps.flatMap fun e =>
              (List.range n).map fun i => (e.2 + i, grantedLeaf f.state c.cluster cx (e.2 + i),
                (leBytes (c.element ds e.1) n).getD i 0#8)))) c c.warp) ∧
            (op = .add b ds → exec i s = finishesIn s (c.external (ps.foldl (fun u e =>
              let u1 := flushRange u c.cluster cx e.2 n
              c.homePut u1 e.2 (leBytes (c.homeNat u1 e.2 n + c.element ds e.1) n)) f.state)) c c.warp)))) ∧
    (∀ h : Word, c.read .a a = .u h →
      let n := h.toNat
      (∀ k at_ m e, c.reaches s n k at_ m = .error e → e.cause = 0x0B ∧ e.val = .word n) ∧
      (Issues s c { a := srcOp a, valued := true } →
        (255 < n → exec (.vshoot a) s = traps s c { cause := 0x02, val := .word n }) ∧
        (n ≤ 255 → (∀ e, c.volume s n = .error e → exec (.vshoot a) s = traps s c e) ∧
          ∀ v, c.volume s n = .ok (at_ n, v) →
          (∀ e, c.reaches s n .both (at_ n + 48) 4 = .error e → exec (.vshoot a) s = traps s c e) ∧
          (c.reaches s n .both (at_ n + 48) 4 = .ok () →
          let u := c.sent (c.release2 s) (at_ n + 48) 4
          let counted := c.homePut u (at_ n + 48) (leBytes (c.homeNat u (at_ n + 48) 4 + 1) 4)
          let shot := (granted (s.ctx cx)).foldl (fun s k => s.mapCluster k fun y =>
            { y with clb := y.clb.filter fun e => !(e.ctx == cx && e.handle == n) }) counted
          exec (.vshoot a) s = if c.warp.accessOpen (.slot c.sp) then parksAs s c .older
            else parksIn s (shootWalks shot cx n) c (.vshoot n)))) ∧
      (∀ d, Issues s c { d := pairOp d, a := srcOp a, valued := true } →
        (255 < n → exec (.vqry d a) s = traps s c { cause := 0x02, val := .word n }) ∧
        (n ≤ 255 → (∀ e, c.volume s n = .error e → exec (.vqry d a) s = traps s c e) ∧
          ∀ v, c.volume s n = .ok (at_ n, v) →
          (∀ e, c.reaches s n .read (v.tpool + 8) 8 = .error e → exec (.vqry d a) s = traps s c e) ∧
          (c.reaches s n .read (v.tpool + 8) 8 = .ok () →
            let u := c.sent s (v.tpool + 8) 8
            YieldsPairFrom s u c d true (.u (BitVec.ofNat 32 (c.homeNat u (v.tpool + 12) 4)))
              (.u (BitVec.ofNat 32 (c.homeNat u (v.tpool + 8) 4))) (exec (.vqry d a) s)))))) ∧
  ∀ (c : Iss) s (k : VolWalk),
    (k.shot = true →
      let saves := (s.team c.warp.team).res = .saving
      (∀ e, c.volume? s k.insn k.handle = .error e → c.volGoOn false (s, k, true) = if saves then .ok (discardAt s c.w c.sp) else .error e) ∧
      ∀ v, c.volume? s k.insn k.handle = .ok v → c.volGoOn false (s, k, true) =
        c.volGoOn false (s, { VolWalk.start k.insn k.handle v with ends := k.ends.filter fun e => e.2.failed }, true)) ∧
    (let cluster := indexOf (granted (s.ctx (s.ctxOf c.warp))) c.cluster
    let pool := if k.below = 0 then k.vol.tpool else k.vol.npool
    let free := fun (kind : Access) (a n : Nat) => c.walkerCheck s k.kept kind a n = none
    let waits := fun (kind : Access) (a n : Nat) => ∀ va, c.walkerCheck s k.kept kind a n = some (.remote va) →
      c.walkStep s k = (s, k.waitFor ((c.agent s).runWaits s k.kept false a n), false)
    let fails := fun (kind : Access) (a n : Nat) => waits kind a n ∧ ∀ e, e.failed = true → c.walkerCheck s k.kept kind a n = some e →
      c.walkStep s k = (s, { k with step := 5, bad := e, wait := [] }, false)
    let se := c.sent s k.entry 8
    let sp := c.sent s pool 32
    let next := c.homeNat sp (pool + 12) 4
    let goesOn := fun (u : State) (e : Nat) => e % 2 = 0 → e ≠ 0 → (k.shot = true → c.walkStep s k = (u, k, true)) ∧
      (k.shot = false → c.walkStep s k = c.noted k k.tile (c.walk k.vol (volWrites k.insn) k.tile (k.below + 1) u
        (k.entry - 8 * nodeIndex k.tile k.below)))
    (k.step = 0 → goesOn s (c.homeNat s k.entry 8) ∧
      (c.homeNat s k.entry 8 % 2 = 1 → c.walkStep s k = (s, { k with till := s.clk.cycle + 64 }, false))) ∧
    (s.snap.cut = 2 → k.step ≠ 0 → c.walkStep s k = (s, k, false)) ∧
    (s.snap.cut ≠ 2 →
    (k.step = 1 → waits .both k.entry 8 ∧ ∀ e, e.failed = true → c.walkerCheck s k.kept .both k.entry 8 = some e →
      c.walkStep s k = c.noted k k.tile (s, .ended e)) ∧
    (k.step = 1 → free .both k.entry 8 → goesOn se (c.homeNat se k.entry 8) ∧
      (c.homeNat se k.entry 8 % 2 = 1 → c.walkStep s k = (se, { k with step := 0, till := se.clk.cycle + 64 }, false)) ∧
      (c.homeNat se k.entry 8 = 0 →
        c.walkStep s k = (c.homePut se k.entry (leBytes (1 + 2 * cluster) 8), { k with step := 2, wait := [] }, false))) ∧
    (k.step = 2 → fails .both pool 32) ∧ (k.step = 3 → fails .write k.obj k.fill.length) ∧ (k.step = 4 → fails .both k.entry 8) ∧
    (k.step = 2 → free .both pool 32 → next < c.homeNat sp (pool + 8) 4 → c.walkStep s k = (c.homePut sp (pool + 12) (leBytes (next + 1) 4),
      { k with step := 3, obj := c.homeNat sp pool 8 % 2 ^ 56 + next * c.homeNat sp (pool + 16) 4, wait := [] }, false)) ∧
    (k.step = 2 → free .both pool 32 → c.homeNat sp (pool + 8) 4 ≤ next → c.walkStep s k =
      (sp, { k with step := 5, bad := .fail 0x0F (if k.below = 0 then 0 else 1), wait := [] }, false)) ∧
    (k.step = 3 → free .write k.obj k.fill.length → c.walkStep s k = (c.release2 (c.homePut s k.obj k.fill), { k with step := 4, wait := [] }, false)) ∧
    (k.step = 4 → free .both k.entry 8 → let u := c.homePut s k.entry (leBytes k.obj 8)
      (k.shot = true → c.walkStep s k = (u, k, true)) ∧
      (k.shot = false → c.walkStep s k = c.noted k k.tile (c.walk k.vol (volWrites k.insn) k.tile k.below u k.obj))) ∧
    (k.step = 5 → c.walkStep s k = (c.release2 (c.homePut s k.entry (leBytes 0 8)),
      { k with ends := (k.tile, k.bad) :: k.ends }, true))))

/-- R245, R248, R350: SNAP without the right answers 2, while another cut or drain is under way 1, and otherwise releases at its
scope and parks for the cut with the scope entry it read (R255); while an older access of the warp is not performed it waits
(R180). SNAPQ reports state, chunks left and result. That SNAP without the right answers 2 also while another cut is under way is the
model's reading (log 44). -/
def Obligations.SnapResults : Prop :=
  ∀ s c (d sc : Nat), c.em = c.live →
    let cx := s.ctxOf c.warp
    let right := (s.ctx cx).flags % 2 = 1
    let busy := s.snap.cut ≠ 0 ∨ s.snap.st = 2
    let rel := releaseLines (c.external s) c.cluster (c.scopeAt s sc) (some (whoIs s c.warp 1))
    let comes := fun o => exec (.snap d sc) s = latching s sc o
    let gives := fun (n : Word) => ∃ o : Host.Outcome State Fault Refusal,
      YieldsPairFrom s (c.external s) c d true (.u n) (.u (BitVec.ofNat 32 s.snap.gen)) o ∧ comes o
    (Issues s c { d := pairOp d, compared := true } → (¬ right → gives 2#32) ∧ (right → busy → gives 1#32) ∧
    (right → ¬ busy → c.scopeOk s sc = false → comes (traps s c { cause := 0x10 })) ∧
    (right → ¬ busy → c.scopeOk s sc = true → c.warp.accessOpen (.slot c.sp) = true → comes (parksAs s c .older)) ∧
    (right → ¬ busy → c.scopeOk s sc = true → c.warp.accessOpen (.slot c.sp) = false → rel.2.1 ≠ 0 →
      comes (traps s c { cause := 0x14, val := .word rel.2.1, twb := rel.2.2, base := some rel.1 })) ∧
    (right → ¬ busy → c.scopeOk s sc = true → c.warp.accessOpen (.slot c.sp) = false → rel.2.1 = 0 →
      comes (parksIn s { rel.1 with snap := { rel.1.snap with cut := 1 } } c (.snap (c.places .d d 2))))) ∧
    (Issues s c { d := pairOp d } → YieldsPair s c d true (.u (BitVec.ofNat 32 s.snap.gen))
      (.u (BitVec.ofNat 32 ((if s.snap.cut ≠ 0 then 1 else s.snap.st) + 2 ^ 2 * (s.snap.drain.length % 2 ^ 26) + 2 ^ 28 * s.snap.result)))
      (exec (.snapq d) s))

/-- R249, R250, R376 to R378: LAUNCH and LAUNCHG check queue, address and record, release at scope index 2 and place a copy of the
record, whose GRP bit is the instruction's, at the queue's tail, or answer 1 when the queue is full; a poisoned record is 0x15 (R403), and while
an older access of the warp is not performed they wait (R180). LWAIT answers at once unless the launch still runs; LQRY. That every check
comes before the release, and that LWAIT with time 0 answers 4 at once while the launch runs, are the model's readings (log 34). -/
def Obligations.LaunchResults : Prop :=
  ∀ s c (d a : Nat) (dd : Dst) (b ra : Src) (i : Instr) (grp : Bool), (i, grp) ∈ [(Instr.launch d a b, false), (.launchg d a b, true)] →
    c.em = c.live →
    let cx := s.ctxOf c.warp
    (Issues s c { d := pairOp d, a := pairOp a, b := srcOp b, compared := true } → ∀ va (q : Word), c.HoldsPair .a a va → c.read .b b = .u q →
      let k := (s.ctx cx).queue q.toNat
      let u := releaseDevice s c.cluster cx 2
      let r := loadBytes u c.cluster cx 0 ((List.range 128).map fun i => (va + i, grantedLeaf u c.cluster cx (va + i)))
      let word := fun i => leNat (((r.2.map Prod.fst).drop (4 * i)).take 4)
      (64 ≤ q.toNat → exec i s = traps s c { cause := 0x02, val := .word q.toNat }) ∧
      (q.toNat < 64 → k.en = false ∨ k.dev = false → exec i s = traps s c { cause := 0x0B, val := .word q.toNat }) ∧
      (q.toNat < 64 → k.en = true → k.dev = true →
        (va % 128 ≠ 0 → exec i s = traps s c { cause := 0x09, val := .addrs (List.replicate 32 va) }) ∧
        (va % 128 = 0 → (∀ e, c.checkRows s false .read [(va, 128)] = .error e → exec i s = traps s c e) ∧
          (c.checkRows s false .read [(va, 128)] = .ok () → c.waitRows s false [(va, 128)] = none →
            c.warp.accessOpen (.slot c.sp) = true → exec i s = parksAs s c .older) ∧
          (c.checkRows s false .read [(va, 128)] = .ok () → c.waitRows s false [(va, 128)] = none →
            c.warp.accessOpen (.slot c.sp) = false →
            (c.em ≠ 0#32 → r.2.any Prod.snd = true → exec i s = traps s c
              { cause := 0x15, val := .addrs (List.replicate 32 va), lanes := some c.em }) ∧
            (r.2.any Prod.snd = false →
            ((k.tail + 2 ^ 32 - k.head) % 2 ^ 32 = 2 ^ k.logsz →
              YieldsPairFrom s (c.external r.1) c d true (.u 1#32) (.u 0#32) (exec i s)) ∧
            ((k.tail + 2 ^ 32 - k.head) % 2 ^ 32 ≠ 2 ^ k.logsz →
              let record := (List.range 32).map fun i => (BitVec.ofNat 32 (if i = 2 then
                word 2 / 2 ^ 11 * 2 ^ 11 + (if grp then 2 ^ 10 else 0) + word 2 % 2 ^ 10 else word i) : Word)
              let placed := enqueue (ctxPut r.1 cx (k.ring + 128 * (k.tail % 2 ^ k.logsz)) record) cx q.toNat
              YieldsPairFrom s (c.external placed) c d true (.u 0#32)
                (.u (BitVec.ofNat 32 (q.toNat + 2 ^ 6 * (k.tail % 2 ^ 26)))) (exec i s))))))) ∧
    (∀ h t : Word, c.read .a ra = .u h →
      let code := launchCode s cx h.toNat
      let u := if code ≤ 3 then acquire s c.cluster (scopeOf s c.cluster cx 2) else s
      (Issues s c { d := dstOp dd, a := srcOp ra, b := srcOp b } → c.read .b b = .u t →
        (code ≠ 4 ∨ t = 0#32 → YieldsFrom s u c c.warp false dd true (.u (BitVec.ofNat 32 code)) (exec (.lwait dd ra b) s)) ∧
        (code = 4 → t ≠ 0#32 → exec (.lwait dd ra b) s =
          parksAs s c (.lwait (c.dst dd) h.toNat (if t = 0xFFFFFFFF#32 then none else some (s.clk.cycle + t.toNat))))) ∧
      (Issues s c { d := dstOp dd, a := srcOp ra } →
        YieldsFrom s u c c.warp false dd true (.u (BitVec.ofNat 32 code)) (exec (.lqry dd ra) s)))

/-- R183, for every engine instruction (BOBJ, QUEUE, COPY, TCFG, TLD, TST, MMA, ACC and TSEQ), and for the volume, snapshot and launch
instructions, which check the same (R224, R240, R245, R249, R250): under an em other than the live mask trap 0x08 with the live
mask in sy.tval; then the first of its operand registers that is not U is trap 0x06 with the shape code. TSEQ's word is checked
first (R90, R215). -/
def Obligations.EngineChecks : Prop :=
  let checks := fun (i : Instr) (f : Form) (regs : Iss → List Reg) => ∀ s c, Issues s c f →
    (c.em ≠ c.live → exec i s = traps s c { cause := 0x08, val := .word c.live.toNat }) ∧
    (c.em = c.live → ∀ pre r post, regs c = pre ++ r :: post → (∀ x ∈ pre, x.isU = true) → r.isU = false →
      exec i s = traps s c { cause := 0x06, val := .word r.shape })
  let none_ := fun (_ : Iss) => ([] : List Reg)
  ∀ (nw clr : Bool) (d : Dst) (dp ap a4 q pd t u acc k sc : Nat) (a b x : Src),
    let srcA := fun (c : Iss) => [c.read .a a]
    let pairA := fun (c : Iss) => [c.regAt .a ap 0, c.regAt .a ap 1]
    (∀ i ∈ [Instr.boinit a b, .boarr pd a b, .boarx pd a b, .boexp a b, .bowait pd a b, .botest pd a b],
      checks i { a := srcOp a, b := srcOp b, valued := true } fun c => [c.read .a a, c.read .b b]) ∧
    checks (.bostat dp a) { d := pairOp dp, a := srcOp a, valued := true } srcA ∧
    checks (.qpush a q) { a := srcOp a, cob := true, compared := true } none_ ∧ checks (.qpop nw d q) { d := dstOp d } none_ ∧
    checks (.qpushn dp a q) { d := pairOp dp, a := srcOp a, cob := true, compared := true } none_ ∧ checks (.qpopn dp q) { d := pairOp dp } none_ ∧
    checks (.qallow a q) { a := srcOp a, cob := true, valued := true } srcA ∧ checks (.qcfg ap q) { a := pairOp ap, valued := true } pairA ∧
    checks (.qstat nw d q) { d := dstOp d } none_ ∧ checks (.qbreak q) {} none_ ∧
    checks (.cpy a4) { a := .win a4 8 4 4, compared := true } (fun c => (List.range 8).map fun j => c.regAt .a a4 j) ∧
    checks (.cpyx a4) { a := .win a4 12 4 4, compared := true } (fun c => (List.range 12).map fun j => c.regAt .a a4 j) ∧
    (∀ i ∈ [Instr.wtany ap, .wtall ap, .tagclr ap], checks i { a := pairOp ap } pairA) ∧
    checks (.wtff nw d ap) { d := dstOp d, a := pairOp ap } pairA ∧ checks (.tagrd nw d k) { d := dstOp d } none_ ∧
    checks (.cpyq nw d) { d := dstOp d } none_ ∧
    (∀ i ∈ [Instr.tshape t a, .tfmt t a, .tscale t a, .tcvt t a u, .accz acc a], checks i { a := srcOp a, valued := true } srcA) ∧
    checks (.tqry dp t) { d := pairOp dp } none_ ∧ checks (.tzero t) {} none_ ∧ checks (.ttrn t u) {} none_ ∧
    checks (.trowr d a t) { d := dstOp d, a := srcOp a, valued := true } srcA ∧
    checks (.troww t a b) { a := srcOp a, b := srcOp b, valued := true } srcA ∧
    (∀ i ∈ [Instr.tld t ap b, .tst t ap b], checks i { a := pairOp ap, b := srcOp b, ext := .bits 1, compared := true }
      fun c => [c.regAt .a ap 0, c.regAt .a ap 1, c.read .b b]) ∧
    (∀ i ∈ [Instr.mmaBf16 acc clr t u, .mmaF16 acc clr t u, .mmaE4m3 acc clr t u, .mmaE5m2 acc clr t u, .mmaDe8 acc clr t u,
        .mmaS8 acc clr t u, .mmaE2m1 acc clr t u, .mmaS4 acc clr t u, .mmaQ4 acc clr t u, .mmaSpBf16 acc clr t u,
        .mmaSpE4m3 acc clr t u, .mmaMxE4m3 acc clr t u, .mmaMxE2m1 acc clr t u], checks i {} none_) ∧
    (∀ i ∈ [Instr.tseqBf16 acc clr t u, .tseqF16 acc clr t u, .tseqE4m3 acc clr t u, .tseqE5m2 acc clr t u, .tseqDe8 acc clr t u,
        .tseqS8 acc clr t u, .tseqE2m1 acc clr t u, .tseqS4 acc clr t u, .tseqQ4 acc clr t u, .tseqSpBf16 acc clr t u,
        .tseqSpE4m3 acc clr t u, .tseqMxE4m3 acc clr t u, .tseqMxE2m1 acc clr t u],
      ∀ s c, Issues s c { ext := .bits 4 } →
        (c.split.xp = none → exec i s = traps s c { cause := 0x02 }) ∧
        ∀ e, c.split.xp = some e →
          (15 < t + e.ext ∨ 15 < u + e.ext → exec i s = traps s c { cause := 0x02 }) ∧
          (t + e.ext ≤ 15 → u + e.ext ≤ 15 → c.em ≠ c.live →
            exec i s = traps s c { cause := 0x08, val := .word c.live.toNat })) ∧
    (∀ i ∈ [Instr.accld acc ap x, .accst acc ap x, .accadd acc ap x, .accstsp acc ap x],
      checks i (accForm ap x) fun c => [c.read .d x, c.regAt .a ap 0, c.regAt .a ap 1]) ∧
    checks (.accrmax dp acc a) { d := pairOp dp, a := srcOp a, dread := true, compared := true } srcA ∧
    checks (.accrscl acc dp) { d := pairOp dp, dread := true } none_ ∧
    checks (.accrowr dp acc a) { d := pairOp dp, a := srcOp a, compared := true } srcA ∧
    checks (.accroww acc a dp) { d := pairOp dp, a := srcOp a, dread := true, valued := true } srcA ∧
    checks (.accexp acc dp a) { d := pairOp dp, a := srcOp a, dread := true } srcA ∧
    checks (.accrsum dp acc) { d := pairOp dp, dread := true, compared := true } none_ ∧
    checks (.acctot t acc x) { d := srcOp x, dread := true, compared := true } (fun c => [c.read .d x]) ∧
    checks (.vld d a k) (volForm (dstOp d) false true a k) srcA ∧ checks (.vprobe d a k) (volForm (dstOp d) false false a k) srcA ∧
    (∀ i ∈ [Instr.vst a k x, .vadd a k x], checks i (volForm (srcOp x) true true a k) srcA) ∧
    checks (.vshoot a) { a := srcOp a, valued := true } srcA ∧ checks (.vqry dp a) { d := pairOp dp, a := srcOp a, valued := true } srcA ∧
    (∀ s c, Issues s c { d := pairOp dp, compared := true } → c.em ≠ c.live →
      exec (.snap dp sc) s = latching s sc (traps s c { cause := 0x08, val := .word c.live.toNat })) ∧ checks (.snapq dp) { d := pairOp dp } none_ ∧
    (∀ i ∈ [Instr.launch dp ap b, .launchg dp ap b], checks i { d := pairOp dp, a := pairOp ap, b := srcOp b, compared := true }
      fun c => [c.regAt .a ap 0, c.regAt .a ap 1, c.read .b b]) ∧
    checks (.lwait d a b) { d := dstOp d, a := srcOp a, b := srcOp b } (fun c => [c.read .a a, c.read .b b]) ∧
    checks (.lqry d a) { d := dstOp d, a := srcOp a } srcA

/-! ## Events of a split, a crew and a core (spec 01, 05 to 08, 22) -/

/-- R40, R160, R169, R180, R190, R200, R212, R236, R241, R244, R247, R250, R411: what lets a parked split go on: its time, its data,
the end of what it waits for; before that the event has no effect, and none on a warp that does not live. A BOWAIT's time is up
when the cycle of its deadline is over, so that a flip in it has been seen (R190, R337). A load whose data returns writes its
registers with the slots it took at issue (R28). A rotation exchanges the oldest occupant and the oldest suspended split. -/
def Obligations.SplitEvents : Prop :=
  ∀ s c (w sp : Nat), issOf s w sp = some c →
    (c.warp.lives = false → ∀ i ∈ [Instr.sleepExpire w sp, .bowaitTimeout w sp, .wsyncDone w sp, .phaseBoundaryDone w sp,
      .walkPendingRetry w sp, .copyUnpark w sp, .stockpotStallResume w sp, .vshootDone w sp, .lwaitTimeout w sp, .bmodeSwitch w sp,
      .domainAccessTimeout w sp, .loadDataReturn w sp, .weltRotation w], exec i s = .next s) ∧
    (c.warp.lives = true →
    let now := s.clk.cycle
    let park := c.split.park
    let open_ := c.warp.accessOpen (.slot sp) = true
    let comes := fun (i : Instr) o => exec i s = resumed s o
    let yields := fun (i : Instr) (P : Host.Outcome State Fault Refusal → Prop) => ∃ o, P o ∧ exec i s = resumed s o
    (∀ t, park = .sleep t → (t ≤ now → comes (.sleepExpire w sp) (finishes s c c.warp)) ∧
      (now < t → exec (.sleepExpire w sp) s = .next s)) ∧
    (∀ o pd t, park = .bowait o pd (some t) → (t < now → comes (.bowaitTimeout w sp) (finishes s c (c.predWritten pd 0#32))) ∧
      (now ≤ t → exec (.bowaitTimeout w sp) s = .next s)) ∧
    (park = .wsync → (c.warp.resultOpen (.slot sp) = false → comes (.wsyncDone w sp) (finishes s c c.warp)) ∧
      (c.warp.resultOpen (.slot sp) = true → exec (.wsyncDone w sp) s = .next s)) ∧
    (park = .older → (¬ open_ → exec (.phaseBoundaryDone w sp) s = .next (s.unparked w sp)) ∧
      (open_ → exec (.phaseBoundaryDone w sp) s = .next s)) ∧
    (∀ k, park = .walk k → (k.step = 0 → now < k.till → exec (.walkPendingRetry w sp) s = .next s) ∧
      (k.step ≠ 0 ∨ k.till ≤ now →
        (∀ e, c.volGoOn false (c.walkStep s k) = .error e → comes (.walkPendingRetry w sp) (traps s c e)) ∧
        (∀ t, c.volGoOn false (c.walkStep s k) = .ok t → comes (.walkPendingRetry w sp) (.next t)))) ∧
    (park = .copyIssue → exec (.copyUnpark w sp) s = .next (s.unparked w sp)) ∧
    (park = .stockpot → (stockFull s = false → exec (.stockpotStallResume w sp) s = .next (s.unparked w sp)) ∧
      (stockFull s = true → exec (.stockpotStallResume w sp) s = .next s)) ∧
    (∀ h, park = .vshoot h → comes (.vshootDone w sp) (finishes s c c.warp)) ∧
    (∀ rel acq refused twb, park = .boundary rel acq refused twb →
      let answered := rel = true → wbOpen s c.cluster = false
      (¬ answered → exec (.phaseBoundaryDone w sp) s = .next s) ∧
      (answered → refused ≠ 0 →
        comes (.phaseBoundaryDone w sp) (traps s c { cause := 0x14, val := .word refused, twb := twb })) ∧
      (answered → refused = 0 → comes (.phaseBoundaryDone w sp)
        (switchesIn s (if acq then acquireAll s c.cluster else s) c c.warp (c.split.pc + 4)))) ∧
    (∀ d h t, park = .lwait d h (some t) →
      (t ≤ now → yields (.lwaitTimeout w sp) (YieldsAt s s c c.warp false d true (.u 4#32))) ∧
      (now < t → exec (.lwaitTimeout w sp) s = .next s)) ∧
    (∀ d bank mode age, park = .bmode d bank mode age →
      (noScratchCopy s c.cluster = false ∨ olderBmode s c.cluster age = true ∨ open_ → exec (.bmodeSwitch w sp) s = .next s) ∧
      (noScratchCopy s c.cluster = true → olderBmode s c.cluster age = false → ¬ open_ →
        (∀ t, c.bankAnswer s bank mode = .error t → comes (.bmodeSwitch w sp) (traps s c t)) ∧
        (∀ n, c.bankAnswer s bank mode = .ok (some n) →
          yields (.bmodeSwitch w sp) (YieldsAt s s c c.warp false d true (.u (BitVec.ofNat 32 n)))) ∧
        (c.bankAnswer s bank mode = .ok none →
          yields (.bmodeSwitch w sp) (YieldsAt s (setBank s c.cluster bank mode (if mode = 0 then none else some (s.crewNo c.warp)))
            c c.warp false d true (.u 0#32))))) ∧
    (∀ ps, park = .domain ps →
      let u := s.mapWarp w (watched s)
      let there := fun (p : PeerWait) => s.fw.inRecovery.any fun r => r.peer == p.peer
      let lapsed := fun (p : PeerWait) => there p = true ∧ ∃ t, p.since = some t ∧ t + 30000000000 ≤ s.clk.ns
      ((∀ p ∈ ps, there p = false) → exec (.domainAccessTimeout w sp) s = .next (u.unparked w sp)) ∧
      ((∃ p ∈ ps, there p = true) → (∀ p ∈ ps, ¬ lapsed p) → exec (.domainAccessTimeout w sp) s = .next s) ∧
      ((∃ p ∈ ps, lapsed p) → ∀ e, issOf u w sp = some e → ∃ (m : Mask) (as : List Nat), as.length = 32 ∧
        (∀ l, l < 32 → (m.getLsbD l = true ↔ ∃ p ∈ ps, lapsed p ∧ p.lanes.getLsbD l = true) ∧
          ∀ pre p post, ps = pre ++ p :: post → (∀ q ∈ pre, ¬ (lapsed q ∧ q.lanes.getLsbD l = true)) → lapsed p →
            p.lanes.getLsbD l = true → as.getD l 0 = p.addrs.getD l 0) ∧
        comes (.domainAccessTimeout w sp) (traps u e { cause := 0x1C, val := .addrs as, lanes := some m }))) ∧
    (∀ d, c.split.late = some d → park = .data →
      let e : Iss := { c with warp := { c.warp with free := c.warp.free + d.slots } }
      (d.writes = [] → comes (.loadDataReturn w sp) (finishes s c e.warp)) ∧
      (∀ p r rest, d.writes = (p, r) :: rest → d.nw = true →
        (c.em = 0#32 → comes (.loadDataReturn w sp) (finishes s c e.warp)) ∧
        (c.em ≠ 0#32 → ∃ l, Latched e l true p false r ∧
          comes (.loadDataReturn w sp) (completes s c e.warp (c.split.pc + 4) l []))) ∧
      (d.writes ≠ [] → d.nw = false → yields (.loadDataReturn w sp) (YieldsAll s s e false d.writes))) ∧
    (∀ i rest t, rotationDue c.warp = true → (s.team c.warp.team).res = .running → noPair c.warp = true → sp = oldestSlot c.warp →
      c.warp.weltOrder = i :: rest → c.warp.welt[i]? = some (.split t) → OnCore s c.warp i →
      ∃ (y : Warp) (u : Split), Happens s True ((s.withWarp w y).run [.settle w sp]) (exec (.weltRotation w) s) ∧
        y.split? sp = some { t with since := s.clk.ns } ∧ y.weltOrder = rest ++ [i] ∧ y.issued = 0 ∧ y.welt[i]? = some (.split u) ∧
        u.pc = c.split.pc ∧ u.entry = c.split.entry ∧ u.em = c.split.em ∧ u.rcv = c.split.rcv ∧ u.join = c.split.join ∧
        u.depth = c.split.depth ∧ u.park = c.split.park ∧ u.xp = c.split.xp ∧
        y.split? (otherSlot sp) = c.warp.split? (otherSlot sp) ∧ y.live = c.warp.live ∧ y.preds = c.warp.preds))

/-- R144, R162, R196, R202, R203, R212, R215, R342, R403, R411: a barrier is complete when every counted warp stands at it; the
head claim is served when the pool holds it, and one that has become impossible traps; the oldest parked push goes before no
older copy or access of its warp, and the oldest pop is served, or traps at poison. A copy is carried out when nothing of it waits, and then
takes its object's and its follow-on's step, each alone (what it lands is CopiesLand; an object outside the crew's scratchpad takes no
step: the model's choice, log 55). Tiles land, the array performs the oldest operation, the watchdog and
keep-alives run, and write-backs to a peer that have waited 30 s are given up. -/
def Obligations.CoreEvents : Prop :=
  ∀ (s : State) (w sp team idx core crew q k i peer : Nat),
    (let ws := countedWarps s team
     let r := ws.foldl (fun (acc : State × List Task) w =>
      let r := releaseBars acc.1 w (fun i => i == idx) true
      (r.1, acc.2 ++ r.2)) (s, [])
     Happens s ((s.team team).res = .running ∧ ws ≠ [] ∧ ∀ w ∈ ws, ∃ pc, arrivedAt (s.warps.getD w Warp.blank) = some (pc, idx))
      (r.1.run r.2) (exec (.barComplete team idx) s)) ∧
    (∀ c n rest, issOf s w sp = some c → deadClaim s core = none → claimQueue s core = (w, .slot sp, n) :: rest →
      Happens s (n ≤ (s.core core).pool) (lateClaims (unlessBlocked s c (finished s (s.mapCore core fun y => { y with pool := y.pool - n }) c
        { c.warp with q := c.warp.q + n, free := c.warp.free + n })) [core]) (exec (.rclaimGrant core) s)) ∧
    (∀ c m, issOf s w sp = some c → deadClaim s core = some (w, .slot sp, m) →
      exec (.rclaimGrant core) s = resumed s (traps s c { cause := 0x19, val := .word m })) ∧
    (deadClaim s core = none → claimQueue s core = [] → exec (.rclaimGrant core) s = .next s) ∧
    (∀ c entry n age, issOf s w sp = some c → oldestParked s (pushParked s crew q) = some (w, .slot sp) →
      c.split.park = .push entry n age → s.crewNo c.warp = crew →
      let x := queueOf s crew q
      let older := copyWaits s crew q (fun m => decide (m < age)) = true ∨ c.warp.accessOpen (.slot sp) = true
      (x.st = 1 → x.allow ≠ 0 → x.entries.length < x.depth → ¬ older → exec (.qpushGrant crew q) s = resumed s (finishesIn s
        (c.external (s.mapQueue crew q fun y => { y with allow := y.allow - 1, entries := y.entries ++ [entry] })) c
        { c.warp with target := some q, pushed := if c.warp.pushed.contains q then c.warp.pushed else q :: c.warp.pushed })) ∧
      (x.st ≠ 1 ∨ x.allow = 0 ∨ x.depth ≤ x.entries.length ∨ older → exec (.qpushGrant crew q) s = .next s)) ∧
    (∀ c nw d n age, issOf s w sp = some c → oldestParked s (popParked s crew q) = some (w, .slot sp) →
      c.split.park = .pop nw d n age → s.crewNo c.warp = crew →
      let x := queueOf s crew q
      (x.st = 1 → x.entries ≠ [] → x.bad.contains 0 = true → exec (.qpopGrant crew q) s = resumed s (traps s c { cause := 0x15 })) ∧
      (x.st = 1 → x.entries ≠ [] → x.bad.contains 0 = false → ∃ o, exec (.qpopGrant crew q) s = resumed s o ∧
        YieldsAt s (c.external (s.mapQueue crew q fun y =>
          { y with entries := y.entries.drop 1, bad := (y.bad.filter fun n => n != 0).map fun n => n - 1 })) c c.warp nw d false
          (entryReg (x.entries.headD [])) o) ∧
      (x.st ≠ 1 ∨ x.entries = [] → exec (.qpopGrant crew q) s = .next s)) ∧
    (∀ x, (s.cluster k).copies[i]? = some x →
      let object := fun (u : State) o => oEngine (objGet u x.crew (16 * o)) x.count x.code
      let next := s.mapCopy k i fun y => { y with stage := 2 }
      let taken := s.mapCluster k fun y => { y with copies := y.copies.eraseIdx i }
      let ended := (s.team x.team).res = .ended
      (x.stage = 0 → Happens s (x.waits s = []) (x.carryOut s k i)
        (exec (.copyComplete k i) s)) ∧
      (x.stage = 1 → (x.bobj = none → exec (.copyComplete k i) s = .next next) ∧
        ∀ o, x.bobj = some o → 16 * o + 16 ≤ crewScratch next x.crew → Happens s True
          (afterFlip (objPut next x.crew (16 * o) (object next o).1) x.crew (16 * o) (object next o).2)
          (exec (.copyComplete k i) s)) ∧
      (x.stage = 1 → ∀ o, x.bobj = some o → crewScratch next x.crew < 16 * o + 16 → exec (.copyComplete k i) s = .next next) ∧
      (1 < x.stage →
        (x.code ≠ 0 ∨ ended ∨ x.follow = .none → exec (.copyComplete k i) s = .next taken) ∧
        (∀ o, x.code = 0 → ¬ ended → x.follow = .mma o →
          exec (.copyComplete k i) s = .next (taken.mapTeam x.team fun t => t.accept o)) ∧
        (∀ n addr pitch pkr, x.code = 0 → ¬ ended → x.follow = .tld n addr pitch pkr →
          Happens s ((s.team x.team).writeWait n = false) (landTile { x.agent with pkr := pkr } taken false x.team n addr pitch)
            (exec (.copyComplete k i) s)))) ∧
    Happens s (((s.team team).tile idx).land = true ∧ copyLanding s team idx = false)
      (wakeArray (s.mapTile team idx fun x => { x with land := false }) team) (exec (.tileLanded team idx) s) ∧
    (∀ o rest, (s.team team).core = core → ((s.team team).res = .running ∨ (s.team team).res = .saving) → team < s.teams.length →
      (∀ j, j < team → (s.team j).core ≠ core ∨ (s.team j).arrayReady = false) → (s.team team).ops = o :: rest →
      (∀ n ∈ (s.team team).opTiles o, ((s.team team).tile n).land = false) →
      exec (.arrayOpComplete core) s = .next (wakeArray (s.mapTeam team fun t => t.perform o) team)) ∧
    (let x := s.warps.getD w Warp.blank
     let period := 1000000 * x.wdog
     let on := x.st = .running ∧ ((s.team x.team).res = .running ∨ (s.team x.team).res = .saving) ∧ x.cobbler = false
     let halt := fun pc => s.run [.halt w { cause := 0x1B, prior := 0, code := 0, pc := pc, addr := 0 }]
     (∀ pc, barExpired (watched s x) s.clk.ns period = some pc → Happens s on (halt pc) (exec (.watchdogExpire w) s)) ∧
     (barExpired (watched s x) s.clk.ns period = none →
      Happens s (on ∧ (watched s x).lastRetire + period ≤ s.clk.ns) (halt (idlePc x)) (exec (.watchdogExpire w) s))) ∧
    (1536 ≤ peer → exec (.fabricKeepalive peer) s = .next s) ∧
    (peer < 1536 → (∀ e ∈ s.fw.remoteWb, e.peer ≠ peer) → ∃ t : State, exec (.fabricKeepalive peer) s = .next t ∧
      t.mem.home = s.mem.home ∧ ∃ r ∈ t.fw.inRecovery, r.peer = peer ∧ r.last = s.clk.ns) ∧
    (peer < 1536 → ∃ t : State, exec (.fabricKeepalive peer) s = .next t ∧ t.mem.blocked = s.mem.blocked ∧
      (t = s ∨ ∀ e ∈ t.fw.remoteWb, e.peer = peer → ∃ f, e.since = some f ∧ s.clk.ns < f + 30000000000)) ∧
    (∀ r, (s.fw.inRecovery.find? fun r => r.peer == peer) = some r →
      (r.last = 0 ∨ s.clk.ns < r.last + 20000000 → Happens s True (expireWriteBacks s peer) (exec (.keepaliveLapse peer) s) ∧
        ∀ e ∈ (expireWriteBacks s peer).fw.remoteWb, e ∈ s.fw.remoteWb ∧
          (e.peer = peer → ∀ f, e.since = some f → s.clk.ns < f + 30000000000)) ∧
      (r.last ≠ 0 → r.last + 20000000 ≤ s.clk.ns → (∀ e ∈ s.fw.remoteWb, e.peer ≠ peer) → ∃ t : State, exec (.keepaliveLapse peer) s = .next t ∧
        ∀ q ∈ t.fw.inRecovery, q.peer = peer → q.last = 0))

/-! ## Snapshot and scheduler events (spec 08, 11, 19 to 21) -/

/-- R246, R247, R349, R350, R397 to R399: the hold, the switch and the failed switch of a cut; the drain's entries, which reach
the target's ring when there is room and wait otherwise; a ring full for TFULL ms or a target out of reach fails the drain. -/
def Obligations.SnapshotEvents : Prop :=
  ∀ s : State,
    (let acked := ∀ (w : Nat) (x : Warp) (k : Seat) (ds : List Place), s.warps[w]? = some x → x.lives = true → (s.team x.team).here = true → k ∈ seats x →
      seatPark x k = .snap ds → wbOpen s (clusterOf x.core) = false
     Happens s (s.snap.cut = 1 ∧ acked) { s with snap := { s.snap with cut := 2, holdAt := s.clk.ns } } (exec .cutHold s)) ∧
    Happens s (s.snap.cut = 2 ∧ s.clk.ns ≤ s.snap.holdAt + 3500) (answerSnap (releaseHeld (switchHomes s)) 0) (exec .cutSwitch s) ∧
    ((switchHomes s).snap.gen = (s.snap.gen + 1) % 2 ^ 32 ∧ (switchHomes s).snap.st = 2 ∧ (switchHomes s).snap.cut = 0 ∧
      (switchHomes s).snap.dirty = [] ∧ (switchHomes s).mem = s.mem ∧
      ∀ n, n ∈ (switchHomes s).snap.drain ↔
        n ∈ s.snap.dirty ∨ ∃ c, snapCtx s = some c ∧ (s.ctx c).allDirty = true ∧ n ∈ allChunks s c) ∧
    Happens s (s.snap.cut = 2 ∧ s.snap.holdAt + 3500 < s.clk.ns)
      (answerSnap (releaseHeld { s with snap := { s.snap with cut := 0 } }) 3) (exec .cutQuiesceTimeout s) ∧
    (snapCtx s = none → exec .drainChunk s = .next s ∧ exec .drainRingResume s = .next s ∧
      ∀ b, exec (.drainRingTimeout b) s = .next s) ∧
    (∀ c, snapCtx s = some c →
      let k := ckptOf s c
      let can := s.snap.st = 2 ∧ s.snap.held = none
      (s.snap.started = false → Happens s can
        (writeEntry { s with snap := { s.snap with started := true } } c (drainHeader 2 c s.snap.gen 0 false [] 0 0 0) none)
        (exec .drainChunk s)) ∧
      (s.snap.started = true → ∀ n, nextChunk s = some n → Happens s can (drainOne s c n) (exec .drainChunk s)) ∧
      (s.snap.started = true → nextChunk s = none → Happens s can
        (writeEntry s c (drainHeader 3 c s.snap.gen 0 false [] 0 s.snap.emitted 0) none) (exec .drainChunk s)) ∧
      (∀ bs note, s.snap.held = some (bs, note) →
        Happens s (s.snap.st = 2) (writeEntry s c bs note) (exec .drainRingResume s)) ∧
      Happens s (s.snap.st = 2) (failDrain s 2) (exec (.drainRingTimeout true) s) ∧
      Happens s (s.snap.st = 2 ∧ s.snap.held ≠ none ∧ s.snap.heldAt + k.tfull * 1000000 ≤ s.clk.ns) (failDrain s 1)
        (exec (.drainRingTimeout false) s) ∧
      (∀ r, (failDrain s r).snap.st = 3 ∧ (failDrain s r).snap.result = r ∧ (failDrain s r).snap.stock = [] ∧
        ∀ n, n ∈ (failDrain s r).snap.dirty ↔ n ∈ s.snap.drain ∨ n ∈ s.snap.taken ∨ n ∈ s.snap.dirty) ∧
      (∀ bs note, k.ridx s + 2 ^ k.log < s.snap.widx + bs.length → ∃ u : State, writeEntry s c bs note = u ∧
        u.snap.held = some (bs, note) ∧ u.snap.widx = s.snap.widx ∧ u.mem = s.mem))

/-- R144, R292, R295, R299, R300, R359, R360, R378 to R384: a page walk begins with its controller's shoot-down sequence, and
begins again when that has moved on, else fills the controller's TLB; the firmware takes a record, binds teams, which makes claims
trap that have become impossible, ends a launch with a release of every cluster that ran it, and decides a team whose quantum is
over by the estimator's table; of two drains the earlier deadline holds. The alignment of the areas it takes, the bytes of an
image and the rank of a unit among those that wait are the model's choices (logs 51, 22, 53), and so are that the earlier of two
deadlines holds (log 39) and that the slot table is loaded and collected in steps of their own (log 54). -/
def Obligations.SchedulerEvents : Prop :=
  ∀ (s : State) (c q li ci area team va d : Nat) (again : Bool),
    let k := (s.ctx c).queue q
    let x := s.team team
    let l := s.launch x.launch
    (let y := s.ctx c
     let ctl := ctlOf (y.placement va) va
     let seq := shootSeqOf s ctl y.asid
     let mine := fun (k : WalkState) => k.ctl == ctl && k.ctx == c && k.va == va
     let rest := s.mp.walks.filter fun k => !mine k
     let begun := { s with mp := { s.mp with walks := { ctl := ctl, ctx := c, va := va, seq := seq } :: rest } }
     let rested := { s with mp := { s.mp with walks := rest } }
     let on := y.st ≠ 0 ∧ va < 2 ^ 56 ∧ (∀ p, homeOf (y.placement va) va ≠ .peer p) ∧ homeOf (y.placement va) va ≠ .reserved ∧
      ∀ t ∈ s.mp.tlb, t.ctl ≠ ctl ∨ t.asid ≠ y.asid ∨ t.page ≠ va / 65536
     let found := fun (r : Walk) => ∃ k, s.mp.walks.find? mine = some k ∧ k.seq = seq ∧ walkTables s y.root (y.placement va) va = r
     ((∀ k, s.mp.walks.find? mine = some k → k.seq ≠ seq) → Happens s on begun (exec (.pageWalk c va) s)) ∧
     (∀ f, found (.leaf f) → Happens s on
      { rested with mp := { rested.mp with tlb := { ctl := ctl, asid := y.asid, page := va / 65536, leaf := f } :: s.mp.tlb } }
      (exec (.pageWalk c va) s)) ∧
     (∀ pa n e, found (.malformed pa n e) →
      Happens s on (postGroup rested c (malformedRec s c pa n e)) (exec (.pageWalk c va) s)) ∧
     (found .absent → Happens s on rested (exec (.pageWalk c va) s))) ∧
    (queuedLaunch s c q k.head = none → exec (.launchDispatch c q) s = .next s) ∧
    (∀ i, queuedLaunch s c q k.head = some i →
      Happens s ((s.ctx c).st = 1 ∧ (s.ctx c).suspendBy = none ∧ k.en = true ∧ k.err = false ∧ k.head ≠ k.tail ∧
          (s.launch i).waits s = [])
        (dispatchLaunch s c q i ((s.launch i).queued s)) (exec (.launchDispatch c q) s)) ∧
    (bindSet s ci = none → exec (.teamBind li ci area) s = .next s) ∧
    (∀ ts, bindSet s ci = some ts →
      let l := s.launch li
      let on := (s.crew ci).launch = li ∧ l.st = .dispatched ∧ (s.ctx l.ctx).st = 1 ∧ (s.ctx l.ctx).suspendBy = none
      let fits := areaOk s l area (areaLess s ts).length = true ∧ outranked s ts = false ∧ yields s ts = false ∧ mustWait s ci ts = false
      let after := boundQueue (bindTeams s li ci ts) l.ctx l.queue
      (unitLoaded s ts = true →
        Happens s on ((lateClaims after (coresOf s ts)).run (ts.map Task.teamEnd)) (exec (.teamBind li ci area) s)) ∧
      (unitLoaded s ts = false → entriesFree s ts = true →
        Happens s (on ∧ fits) (loadTeams s ts area) (exec (.teamBind li ci area) s)) ∧
      (unitLoaded s ts = false → entriesFree s ts = false →
        Happens s (on ∧ fits) (collectFor s ts) (exec (.teamBind li ci area) s))) ∧
    (let l := s.launch li
     Happens s (l.st = .dispatched ∧ ∀ t, t < s.teams.length → (s.team t).launch = li → (s.team t).res = .ended)
      (closeLaunch (collectEntries s li) li (if l.halted then 1 else 0)) (exec (.launchEnd li) s)) ∧
    (∀ code, l.st = .dispatched → closeLaunch s x.launch code = endLaunch ((launchClusters s x.launch).foldl (fun s k =>
      releaseDevice s k l.ctx (if l.done = 0 then 2 else 3)) s) x.launch code) ∧
    (let y := s.ctx l.ctx
     let u := s.mapTeam team fun x => { x with quantumUsed := true }
     let on := x.res = .running ∧ x.quantumUsed = false ∧ x.since + y.quant * 1000 ≤ s.clk.ns
     (y.suspendBy = none → Happens s on u (exec (.quantumExpire team) s)) ∧
     (∀ d n, y.suspendBy = some (d, n) → Happens s on (dealWith u team d (estimate u team d false)) (exec (.quantumExpire team) s))) ∧
    Happens s ((s.ctx c).st = 1 ∧ (s.ctx c).suspendBy = none ∧ k.en = true ∧ k.nonEmptyAt ≠ none ∧ k.eff < 7 ∧
        k.timer + (s.ctx c).age.getD k.eff 0 * 1000 ≤ s.clk.ns)
      (s.mapLQueue c q fun k => { k with eff := k.eff + 1, timer := s.clk.ns }) (exec (.ageTimerExpire c q) s) ∧
    (∀ vs v, victims s team = some vs →
      let d := ((s.ctx l.ctx).queue l.queue).deadline
      (vs.find? fun v => (s.team v).undecided s.clk.ns d) = some v →
      Happens s ((x.res = .waiting ∨ x.res = .saved) ∧ l.st = .dispatched ∧ (s.ctx l.ctx).st = 1 ∧ (s.ctx l.ctx).suspendBy = none)
        (dealWith s v d (estimate s v d false)) (exec (.preemptRequest team) s)) ∧
    (let quiet := ∀ w ∈ teamWarps s team, warpOver (bitsN (s.ctx l.ctx).flags 1 1 == 1) (s.warps.getD w Warp.blank) = true
     let left := s.mapCore x.core fun k => { k with table := entryState k.table team 3 0 }
     let ended := left.mapTeam team fun t => { t with res := .running, image := 0, room := 0 }
     let stopped := (allWarps s team).foldl (fun s w => s.mapWarp w fun y => (watched s y).saved s.clk.ns) s
     let saved := (writeImage stopped team).mapTeam team fun t => { t with runNs := t.runNs + (s.clk.ns - t.since) }
     (quiet → Happens s (x.res = .saving ∧ savable s team = true) (ended.run [.teamEnd team]) (exec (.saveComplete team) s)) ∧
     (¬ quiet → Happens s (x.res = .saving ∧ savable s team = true) (settleQueue (vacate saved team) l.ctx l.queue)
      (exec (.saveComplete team) s))) ∧
    (x.drainBy = none → exec (.drainDeadlineExpire team) s = .next s) ∧
    (∀ t, x.drainBy = some t → Happens s (x.res = .running ∧ t ≤ s.clk.ns) (dealWith s team 0 (estimate s team 0 true))
      (exec (.drainDeadlineExpire team) s)) ∧
    (let stopped := (dealWith s team d .save).team team
     let drains := (dealWith s team d .drain).team team
     (team < s.teams.length → stopped.res = .saving ∧ stopped.drainBy = none ∧
        stopped.room = saveBytes s team ∧ stopped.image = imageRoom s team (saveBytes s team) ∧
        stopped.withCrew = leavesLast s team true) ∧
     (team < s.teams.length → drains = { x with drainBy := some (match x.drainBy with
      | some t => min t (s.clk.ns + d * 1000)
      | none => s.clk.ns + d * 1000) })) ∧
    ((s.ctx c).suspendBy = none → exec (.suspendComplete c) s = .next s) ∧
    (∀ d slot, (s.ctx c).suspendBy = some (d, slot) →
      Happens s (∀ t, t < s.teams.length → (s.launch (s.team t).launch).ctx = c → (s.team t).res ≠ .running ∧ (s.team t).res ≠ .saving)
        (finishAdm (ccbPut (s.mapCtx c fun x => { x with st := 2, suspendBy := none }) (s.ctx c).ccb 33 2) slot 0)
        (exec (.suspendComplete c) s)) ∧
    (let inTime := ∀ p h, fractionDone s team = some (p, h) → h ≤ p ∨ 0 < p ∧ x.resident s.clk.ns * (h - p) ≤ d * 1000 * p
     let known := fractionDone s team ≠ none
     (x.quantumUsed = false → estimate s team d again = .wait) ∧
     (x.quantumUsed = true → again = false → known → inTime → estimate s team d again = .drain) ∧
     (x.quantumUsed = true → again = true ∨ ¬ (known ∧ inTime) →
      (l.restart = true → x.ext = false → estimate s team d again = .discard) ∧
      (l.restart = false ∨ x.ext = true → estimate s team d again = if imageFits s team then .save else .drain)))

/-! ## Commands of the administrative ring (spec 20 to 22) -/

/-- R385, R386: the poll takes TAIL and answers entries with no opcode with result 1; a command answers with result 2 when the
context's state does not allow it, else 1 when its operands are wrong, else it has its effect and answers 0: status in the
entry's word 1, HEAD over the answered entries, vector 0. BIND invalidates the ASID's lines before it checks the block. The model's
choices: result 2 before result 1 where both apply (log 55); result 1 for a context number other than 0 in a command of no context, result
2 for WREAD and WRELEASE of a warp that is not there, and which operand words must be 0 (log 37); what BIND checks (log 38); how SUSPEND,
RESUME and SCOPE go about it (log 39); and result 1 for a context that spans a fenced die (log 53). -/
def Obligations.AdministrativeCommands : Prop :=
  ∀ (s : State) (e : Adm) (a b m n : Nat) (wait : Bool),
    let c := e.ctx
    let x := s.ctx c
    let w := admWord s e.slot
    let zeros := fun i => ∀ k, i ≤ k → k < 16 → w k = 0
    let st := fun (ns : List Nat) => x.st ∈ ns
    (let u := { s with fw := { s.fw with admHead := memNat s.mem.host s.win.admbase 4 } }
     let bad := (admWindow u).filter fun n => !admKnown (admOp u n) && !u.fw.admFin.contains n
     Happens s (s.win.ardy = true ∧ s.win.kstat / 2 % 2 = 1) (bad.foldl (fun s n => finishAdm s n 1) u) (exec .adminRingPoll s)) ∧
    (∀ (r : Nat) (u : State), u = finishAdm s e.slot r →
      u.mem.home = s.mem.home ∧ u.win.msi = s.win.msi ++ [0] ∧ u.fw.admHead = s.fw.admHead ∧ u.ctxs = s.ctxs ∧
      u.mem.host = memWrite (memWrite (memWrite s.mem.host (admEntry s e.slot + 4) (leBytes (2 ^ 31 + r) 4))
        (s.win.admbase + 4) (leBytes u.fw.admDone 4)) (s.win.msiaddr.getD 0 0) (leBytes (s.win.msidata.getD 0 0#32).toNat 4)) ∧
    (∀ r, bindResult s c a b = r → Commands s e 0x01 [] (admAddr s e.slot 2 = a ∧ admAddr s e.slot 4 = b) (st [0, 3])
      (ccbReadable s a = true) r.1 r.2 (exec (.bind e a b) s)) ∧
    (st [0, 3] → ccbReadable s a = true →
      let u := clearAsid s c (ccbWord s a 0 % 2 ^ 16)
      let map := readPlacement u (ccbWord u a 0 / 2 ^ 26 % 2 == 1) (ccbPair u a 2) (ccbPair u a 19)
      let gives := fun (n : Nat) => bindResult s c a b = (u, some n)
      (ccbOk u c a = false ∨ map = none → gives 1) ∧
      (∀ pm y, map = some pm → y = ccbContext u c a b pm → ccbOk u c a = true →
        (bindRefused u c y = none → bindResult s c a b = (bindContext u c y (ccbPair u a 28), some 0)) ∧
        (y.flags % 2 = 1 → b = 0 → gives 1) ∧
        (∀ d ∈ s.fuses.fenced, spans y d = true → gives 1) ∧
        ((∀ d ∈ s.fuses.fenced, spans y d = false) → ∀ d, d < s.ctxs.length → d ≠ c → (s.ctx d).st ≠ 0 →
          (y.flags % 2 = 1 → b ≠ 0 → (s.ctx d).flags % 2 = 1 → gives 2) ∧
          (y.flags % 2 = 0 ∨ b ≠ 0 → y.flags / 4 % 2 = 1 ∨ (s.ctx d).flags / 4 % 2 = 1 →
            ∀ k ∈ granted y, k ∈ granted (s.ctx d) → gives 2)))) ∧
    (∀ pass, pass = (x.suspendBy.map Prod.snd).toList →
      Commands s e 0x02 pass True (st [1, 2]) True (killContext s c) (some 0) (exec (.kill e) s)) ∧
    (let u := s.mapCtx c fun x =>
      { x with suspendBy := some (n, e.slot), queues := x.queues.map fun k => { k with eff := k.prio, nonEmptyAt := none } }
     let run := (ctxTeams s c).filter fun t => (s.team t).res == .running
     Commands s e 0x03 [] (w 2 = n ∧ x.suspendBy = none) (st [1]) True
      (run.foldl (fun s t => dealWith s t n (estimate s t n false)) u) none (exec (.suspend e n) s)) ∧
    (let u := ccbPut ((coolContext s c).mapCtx c fun x => { x with st := 1 }) x.ccb 33 1
     Commands s e 0x04 [] True (st [2]) True ((List.range 64).foldl (fun s q => settleQueue s c q) u) (some 0) (exec (.resume e) s)) ∧
    (readQueue s c n = none → Commands s e 0x05 [] (w 2 = n) (st [1, 2]) (n < 64) (reportRead s c [(queueDesc x n, 32)]) (some 1)
      (exec (.qconf e n) s)) ∧
    (∀ ws, readQueue s c n = some ws →
      Commands s e 0x05 [] (w 2 = n) (st [1, 2]) (n < 64)
        (settleQueue (ctxPut (s.mapLQueue c n fun k => k.configure ws) c (queueDesc x n + 8)
          [BitVec.ofNat 32 (setBits (ws.getD 2 0) 10 1 0)]) c n) (some 0) (exec (.qconf e n) s)) ∧
    Commands s e 0x06 [] True (st [1, 2])
      (100 ≤ ccbWord s x.ccb 12 % 2 ^ 17 ∧ ccbWord s x.ccb 12 % 2 ^ 17 ≤ 100000 ∧ ∀ k ∈ ccbAges s x.ccb, 1 ≤ k)
      (s.mapCtx c fun y => { y with quant := ccbWord s x.ccb 12 % 2 ^ 17, age := ccbAges s x.ccb }) (some 0) (exec (.quant e) s) ∧
    (let mine : Line → Bool := fun y => y.asid == x.asid
     let cold := purgeL2 (dropClb (dropLines (flushL1s s (allClusters s) mine) mine) c) mine
     let clean := if x.flags / 4 % 2 = 1 then scrubClusters cold (granted x) else cold
     let u := if x.flags % 2 = 1 ∧ s.snap.st = 2 then failDrain clean 2 else clean
     Commands s e 0x07 [] True (st [3]) True (ccbPut (u.mapCtx c fun y => { y with st := 0 }) x.ccb 33 0) (some 0)
      (exec (.unbind e) s)) ∧
    (let named := w 2 = n ∧ (w 3 % 2 = 1 ↔ wait = true)
     let waiting := ∃ y ∈ s.fw.scopeWait, y.1 = e.slot
     (¬ waiting → ∀ r, scopeStart s e.slot c n wait = r → Commands s e 0x08 [] named (st [1, 2])
      (5 ≤ n ∧ n ≤ 15 ∧ w 3 ≤ 1 ∧ zeros 4) r.1 r.2 (exec (.scope e n wait) s)) ∧
     (waiting → Happens s (named ∧ (e.slot, c, n) ∈ s.fw.scopeWait ∧ ∀ ws ∈ scopeLatches s c n, scopeGen ws = scopeGen (clusterScope s c n))
      (finishAdm { s with fw := { s.fw with scopeWait := s.fw.scopeWait.filter fun y => y.1 != e.slot } } e.slot 0)
      (exec (.scope e n wait) s))) ∧
    Commands s e 0x09 [] (w 2 = n) (st [1, 2]) (n < 256 ∧ zeros 3) (shootVolume s c n) (some 0) (exec (.volshoot e n) s) ∧
    Commands s e 0x0A [] (w 2 = n ∧ w 3 = a ∧ w 4 = b) True
      (c = 0 ∧ n % 2 ^ 4 < 12 ∧ zeros 5) (setRegion s n a b) (some 0) (exec (.region e n a b) s) ∧
    Commands s e 0x0B [] (w 2 = n) (∀ y ∈ s.ctxs, y.st = 0 ∨ y.flags % 2 = 0) (c = 0 ∧ 1 ≤ n ∧ n ≤ 256 ∧ zeros 3)
      { s with snap := { s.snap with units := n } } (some 0) (exec (.stock e n) s) ∧
    (∀ r, restoreEntries (s.mapCtx c fun x => { x with allDirty := true }) c a n (n / 64 + 1) = r →
      Commands s e 0x0C [] (admAddr s e.slot 2 = a ∧ w 4 = n) (st [2] ∧ s.snap.cut = 0 ∧ s.snap.st = 0) (zeros 5) r.1 r.2
        (exec (.restore e a n) s)) ∧
    (let stack := n % 2 ^ 4
     let ch := n / 2 ^ 8 % 2 ^ 5
     let ok := c = 0 ∧ stack < 12
     (channelUsed s stack ch = true → Commands s e 0x0D [] (w 2 = n) True ok s (some 2) (exec (.chret e n) s)) ∧
     (channelUsed s stack ch = false → Commands s e 0x0D [] (w 2 = n) True ok
      (telemetry { s with fuses := { s.fuses with channels := (stack, ch) :: s.fuses.channels } } 20
        (stack / 3 + stack * 2 ^ 12 + ch * 2 ^ 16 + 2 * 2 ^ 28) 0 []) (some 0) (exec (.chret e n) s))) ∧
    Commands s e 0x0E [] (w 2 = n) (st [1, 2]) (10 ≤ n ∧ n ≤ 600000) (s.mapCtx c fun x => { x with wdogMs := n }) (some 0)
      (exec (.wdog e n) s) ∧
    Commands s e 0x0F [] (w 2 = n) True (c = 0 ∧ n < 768) (s.mapCore n fun k => { k with retireMark := true }) (some 0)
      (exec (.retire e n) s) ∧
    Commands s e 0x10 [] (w 2 = n) True (c = 0 ∧ n ≤ 63 ∧ ∀ i ∈ s.fuses.images, n ≤ i.version)
      { s with fuses := { s.fuses with rollback := max s.fuses.rollback n } } (some 0) (exec (.fwcommit e n) s) ∧
    (∀ (tid wid : Nat),
      let named := w 2 = m ∧ w 3 % 2 ^ 24 = tid ∧ w 4 % 2 ^ 5 = wid
      let read := named ∧ admAddr s e.slot 5 = a ∧ w 7 = n
      (warpNamed s c m tid wid = none →
        Commands s e 0x11 [] read (st [1, 2]) True s (some 2) (exec (.wread e m tid wid a n) s) ∧
        Commands s e 0x12 [] named (st [1, 2]) True s (some 2) (exec (.wrelease e m tid wid) s)) ∧
      (∀ p, warpNamed s c m tid wid = some p →
        let image := warpImage s (s.warps.getD p Warp.blank)
        (stopped s p = false →
          Commands s e 0x11 [] read (st [1, 2]) True s (some 2) (exec (.wread e m tid wid a n) s) ∧
          Commands s e 0x12 [] named (st [1, 2]) True s (some 2) (exec (.wrelease e m tid wid) s)) ∧
        (stopped s p = true →
          Commands s e 0x11 [] read (st [1, 2]) (image.length ≤ n ∧ a % 64 = 0)
            { s with mem := { s.mem with host := memWrite s.mem.host a image } } (some 0) (exec (.wread e m tid wid a n) s) ∧
          Commands s e 0x12 [] named (st [1, 2]) True (releaseWarp s p) (some 0) (exec (.wrelease e m tid wid) s))))

/-! ## The memory processor, the window and accesses from outside (spec 09, 19, 20, 22) -/

/-- R352, R353, R363, R365 to R368, R370, R378, R406, R414, R415: what each write of the register window does, the commands SHOOT
and POOLADD, requests and replies, held records, a queue's tail, all of which wait at the hub behind older writes; which images run, and the measurements: their blocks, the chain
of identifiers, each from the one before and the next image's measurement, and signatures over the transcript. How identifiers
and signatures are computed is open (log 13). That a write of the window waits behind older writes of every kind (log 41), and result 1 of a
POOLADD whose TOP word cannot be read (log 55), are the model's choices. -/
def Obligations.ProcessorCommands : Prop :=
  ∀ (s : State) (c start pages desc list n off v w : Nat),
    let idle := s.mp.busy = false ∧ s.win.kstat / 4 % 2 = 1
    let names := fun op => mpWord s 0 % 2 ^ 8 = op ∧ mpWord s 0 / 2 ^ 8 % 2 ^ 6 = c
    let shot := idle ∧ names 1 ∧ mpWord s 1 + 2 ^ 32 * mpWord s 2 = start ∧ mpWord s 3 = pages
    let bad := start % 65536 ≠ 0 ∨ 2 ^ 56 ≤ start ∨ pages = 0
    (∀ (r : Nat) (u : State), u = endCommand s r → u.mp.busy = false ∧ u.mp.result = r ∧ u.win.msi = s.win.msi ++ [1]) ∧
    (bad → Lands s shot (endCommand s 1) (exec (.shoot c start pages) s)) ∧
    (¬ bad → Lands s shot (shootDown s c start pages) (exec (.shoot c start pages) s)) ∧
    (let named := idle ∧ names 2 ∧ mpWord s 1 % 2 ^ 4 = desc + 4 * list ∧ desc < 4 ∧ mpWord s 2 = n
     let a := (s.ctx c).ftdesc + 64 * desc + 4 * (3 * list + 2)
     (2 < list → Lands s named (endCommand s 1) (exec (.pooladd c desc list n) s)) ∧
     (list ≤ 2 → ctxWords s c a 1 = none → Lands s named (endCommand (reportRead s c [(a, 4)]) 1)
      (exec (.pooladd c desc list n) s)) ∧
     (∀ ws, list ≤ 2 → ctxWords s c a 1 = some ws → Lands s named
      (endCommand (ctxPut s c a [ws.headD 0#32 + BitVec.ofNat 32 n]) 0) (exec (.pooladd c desc list n) s))) ∧
    (let u := { s with win := { s.win with haack := BitVec.ofNat 32 v } }
     (s.mp.shootWait = none → Lands s True u (exec (.haackWrite v) s)) ∧
     (∀ q, s.mp.shootWait = some q →
      ((v % 2 ^ 32 + 2 ^ 32 - q % 2 ^ 32) % 2 ^ 32 < 2 ^ 31 → Lands s True (endCommand u 0) (exec (.haackWrite v) s)) ∧
      (2 ^ 31 ≤ (v % 2 ^ 32 + 2 ^ 32 - q % 2 ^ 32) % 2 ^ 32 → Lands s True u (exec (.haackWrite v) s)))) ∧
    ((∀ p ∈ s.mp.posts, p.1 ≠ w) → exec (.faultPost w) s = .next s) ∧
    (firstToken s = none → exec (.faultPost w) s = .next s) ∧
    (∀ i va acc seq, s.mp.posts.find? (fun p => p.1 == w) = some (w, va, acc, seq) → firstToken s = some i →
      Happens s True (takePost s i w va acc seq) (exec (.faultPost w) s)) ∧
    (let held := (s.ctx c).heldRecs
     Happens s (held ≠ []) (resumeRing s c held.length) (exec (.faultRingResume c) s)) ∧
    (let w0 := (s.win.freply.getD 0 0#32).toNat
     let u := { s with win := { s.win with freply := s.win.freply.set 2 (BitVec.ofNat 32 (v % 2 ^ 16)) } }
     (s.mp.tokens.find? (fun e => e.1 == w0 % 2 ^ 13) = none → Lands s True u (exec (.faultReply v) s)) ∧
     (∀ i t, s.mp.tokens.find? (fun e => e.1 == w0 % 2 ^ 13) = some (i, t) →
      let mine := t.ctx = w0 / 2 ^ 16 % 2 ^ 6 ∧ t.gen = (s.win.freply.getD 1 0#32).toNat ∧ t.seq = v % 2 ^ 16 ∧ t.reply = none
      (mine → Lands s True (sendReply u (w0 % 2 ^ 13) t (w0 / 2 ^ 24 % 2 ^ 2)) (exec (.faultReply v) s)) ∧
      (¬ mine → Lands s True u (exec (.faultReply v) s)))) ∧
    (let k := (s.ctx c).queue n
     let on := ((s.ctx c).st = 1 ∨ (s.ctx c).st = 2) ∧ k.dev = false ∧ n < 64 ∧ v < 2 ^ 32
     let ok := k.en = true ∧ k.err = false ∧ (k.tail + 2 ^ 32 - k.head) % 2 ^ 32 ≤ (v + 2 ^ 32 - k.head) % 2 ^ 32 ∧
      (v + 2 ^ 32 - k.head) % 2 ^ 32 ≤ 2 ^ k.logsz
     (ok → Lands s on ((List.range ((v + 2 ^ 32 - k.tail) % 2 ^ 32)).foldl (fun s _ => enqueue s c n) s)
      (exec (.qtailWrite c n v) s)) ∧
     (¬ ok → Lands s on (stopQueue s c n) (exec (.qtailWrite c n v) s))) ∧
    Lands s True { s with win := { s.win with
      ardy := v % 2 == 1, kstat := if v % 2 = 1 ∧ boots s.fuses = true then setBits s.win.kstat 1 1 1 else s.win.kstat } }
      (exec (.ardyWrite v) s) ∧
    (boots s.fuses = true ↔ ∀ j, j < 3 → ∃ i, s.fuses.images[j]? = some i ∧ i.rsaOk = true ∧ i.slhOk = true ∧
      i.rsaKey ∈ s.fuses.keys ∧ i.slhKey ∈ s.fuses.keys ∧ s.fuses.rollback ≤ i.version ∧ s.fuses.rollback ≤ 63) ∧
    (let op := mpWord s 0 % 2 ^ 8
     Lands s (v % 2 = 1 ∧ idle ∧ op ≠ 1 ∧ op ≠ 2) (endCommand s 1) (exec (.registerWrite 0x30 v) s)) ∧
    (off ≠ 0x30 → off % 4 = 0 → v < 2 ^ 32 →
      (∀ x, storeReg s.win off v = some x → Lands s True { s with win := x } (exec (.registerWrite off v) s)) ∧
      (storeReg s.win off v = none → Lands s True s (exec (.registerWrite off v) s))) ∧
    (s.win.kstat % 2 = 0 → exec .getMeasurements s = .next s) ∧
    (s.win.kstat % 2 = 1 → ∃ m : Measurements, exec .getMeasurements s = .next { s with win := { s.win with measured := some m } } ∧
      (s.fuses.images.length = 3 → m.blocks.map Prod.fst = [1, 2, 3, 4, 5, 6]) ∧ m.rsa.length = 384 ∧ m.slh.length = 16224 ∧
      (∀ j, j < s.fuses.images.length → ∀ i, s.fuses.images[j]? = some i → (j + 2, i.digest.map BitVec.toNat) ∈ m.blocks) ∧
      ∃ id : List Byte, id = (identifiers s.fuses).getLastD [] ∧ ∀ j, j < 384 → m.rsa[j]? = some (Config.signature 0 id (transcript s) j)) ∧
    (let ids := identifiers s.fuses
     ids.length = s.fuses.images.length ∧ ∀ j i, s.fuses.images[j]? = some i → ids[j]? = some (Config.derive
      (if j = 0 then (List.range 48).map Config.uniqueSecret else ids.getD (j - 1) []) i.digest))

/-- R246, R247, R262, R263, R355, R356, R361, R362: accesses from outside. A host's access in a unified range, and a peer's, are made
at the home under the page's rights; a refused one reads all ones and is reported, or gives a peer nothing. A write, an
atomic or an access through the aperture may wait at the hub, and goes on once no cut holds it. A host's atomic is one access on a
page marked SYSA, and elsewhere a read with its write next at the hub. The aperture reaches memory below the Stockpot that is not
secure, retired or fenced. When a waiting write goes on is open (log 41); that an aperture store sets its block's state to 0, and which word of
a host's compare-and-swap is compared and which stored, are the model's choices (log 41), and so is absent for a query outside every
unified range (log 55). -/
def Obligations.OutsideAccesses : Prop :=
  ∀ (s : State) (c va n v off peer acc : Nat) (op : AtomOp),
    let one := fun (a : Nat) => (n = 1 ∨ n = 2 ∨ n = 4 ∨ n = 8) ∧ a % n = 0
    let all := 2 ^ (8 * n) - 1
    let bound := (s.ctx c).st ≠ 0
    let inside := bound ∧ ∃ r ∈ (s.ctx c).urange, r.1 ≤ va ∧ va < r.2
    let ok := one va ∧ va + n ≤ 2 ^ 56
    let here := inside → hostLocal s c va = false
    let refused := fun (k : Access) => ¬ inside ∨ hostLeaf s c va k = none
    (¬ ok → exec (.hostLoad c va n) s = .next s ∧ exec (.hostStore c va n v) s = .next s) ∧
    (ok → inside → hostLocal s c va = true → exec (.hostLoad c va n) s = .next s ∧ exec (.hostStore c va n v) s = .next s) ∧
    (ok → here →
      (refused .read → exec (.hostLoad c va n) s =
        .next (let t := setRdata (refuseHost s c va 0) (some all); if t.mem.blocked = s.mem.blocked then t else s)) ∧
      (refused .write → exec (.hostStore c va n v) s =
        .next (let t := refuseHost s c va 1; if t.mem.blocked = s.mem.blocked then t else s)) ∧
      (∀ l, inside → hostLeaf s c va .read = some l → l.cls ≤ 3 ∧ l.rd = true ∧ l.world = false ∧
        let r := homeRead s c l va n
        Happens s True (setRdata (touchL2 s c l (lineOf va)) (some (if r.2 then all else r.1))) (exec (.hostLoad c va n) s)) ∧
      (∀ l, inside → hostLeaf s c va .write = some l → l.cls ≤ 3 ∧ l.wr = true ∧ l.world = false ∧
        Lands s True (agentStore s c l va (leBytes v n)) (exec (.hostStore c va n v) s))) ∧
    (n = 4 → ok → here →
      (refused .both → exec (.hostAtomic c va op v) s =
        .next (let t := setRdata (refuseHost s c va 1) (some all); if t.mem.blocked = s.mem.blocked then t else s)) ∧
      (∀ l, inside → hostLeaf s c va .both = some l →
        let r := homeRead s c l va 4
        let new := atomNew op (BitVec.ofNat 32 r.1) (BitVec.ofNat 32 v) (BitVec.ofNat 32 (v / 2 ^ 32))
        let read := fun (t : State) => setRdata t (some (if r.2 then all else r.1))
        (l.sysa = true → Lands s True (read (agentWrite s c l (lineOf va) ((List.range 4).map fun i =>
          (va % 128 + i, (leBytes new.toNat 4).getD i 0#8)))) (exec (.hostAtomic c va op v) s)) ∧
        (l.sysa = false → Lands s True
          (read { touchL2 s c l (lineOf va) with snap := { s.snap with hubNext := .write c va new.toNat } })
          (exec (.hostAtomic c va op v) s)))) ∧
    (∀ (i : Instr) (t : State), let h := (hubAfter i t).snap.hub
      (t.snap.hubNext = .done → h = t.snap.hub) ∧
      (t.snap.hubNext = .held → h = if t.snap.hubGoes then i :: t.snap.hub else t.snap.hub ++ [i]) ∧
      (∀ k a w, t.snap.hubNext = .write k a w → h = .hostStore k a 4 w :: t.snap.hub)) ∧
    (s.snap.hub = [] ∨ s.snap.cut = 2 → hubEvent s = none) ∧
    (∀ i t, hubEvent s = some (i, t) → ∃ rest, s.snap.hub = i :: rest ∧ i.isWord = false ∧
      t = { s with snap := { s.snap with hub := rest, hubGoes := true } }) ∧
    (let pa := s.win.papbase + off
     let barred := physOk s pa 1 = false ∨ secureAddr s (pa / 2 ^ 36) (pa % 2 ^ 36) = true ∨
      (pa / 2 ^ 36, pa % 2 ^ 36 / 2 ^ 31) ∈ s.fuses.channels
     let u := keepPhys s pa
     let can := one off ∧ off + n ≤ 2 ^ 32
     (barred ∨ pa / 32 ∈ s.mem.poison → Lands s can (setRdata s (some all)) (exec (.apertureLoad off n) s)) ∧
     (¬ barred → pa / 32 ∉ s.mem.poison →
      Lands s can (setRdata s (some (memNat s.mem.home pa n))) (exec (.apertureLoad off n) s)) ∧
     (barred → Lands s can s (exec (.apertureStore off n v) s)) ∧
     (¬ barred → Lands s can { u with mem := { u.mem with
      home := memWrite u.mem.home pa (leBytes v n), blocks := (pa / 256, 0) :: u.mem.blocks.filter fun b => b.1 != pa / 256 } }
      (exec (.apertureStore off n v) s)) ∧
     (snapCtx s = none → u = if s.snap.cut = 2 then { s with mem := { s.mem with blocked := 1 } } else s) ∧
     (pa / 2 ^ 36 / 3 ∈ s.fuses.fenced → barred)) ∧
    (let u := postMalformed s c [va] { acc := if acc = 0 then 0 else if acc = 1 then 1 else 2 }
     let knows := fun a => Happens s (va < 2 ^ 56 ∧ bound)
      { u with win := { u.win with answer := a }, mp := { u.mp with answers := s.mp.answers ++ [(c, va / 65536)] } }
      (exec (.translationQuery c va acc) s)
     (∀ l, inside → translate s c va = .leaf l → l.cls ≠ 4 → knows (some
      { rights := (if l.rd then 1 else 0) + (if l.wr then 2 else 0) + (if l.ex then 4 else 0), key := l.key, cls := l.cls
        sysa := l.sysa })) ∧
     ((¬ inside ∨ ∀ l, translate s c va = .leaf l → l.cls = 4) → knows none)) ∧
    (1536 ≤ peer → ∀ k, exec (.peerAccess peer k c va v) s = .next s) ∧
    (peer < 1536 → exec (.peerAccess peer .fence c va v) s = .next s ∧
      (let does := fun (k : Access) (t : Leaf → State) (o : Host.Outcome State Fault Refusal) =>
        (∀ l, peerAccessLeaf s c va k = some l → l.cls ≤ 3 ∧ l.allows k = true ∧
          (k = .read → Happens s (bound ∧ ok) (t l) o) ∧ (k ≠ .read → Lands s (bound ∧ ok) (t l) o)) ∧
        (peerAccessLeaf s c va k = none → Happens s (bound ∧ ok) (setRdata s none) o)
       does .read (fun l => let r := homeRead s c l va n
        setRdata (touchL2 s c l (lineOf va)) (if r.2 then none else some r.1)) (exec (.peerAccess peer (.load n) c va v) s) ∧
       does .write (fun l => agentStore s c l va (leBytes v n)) (exec (.peerAccess peer (.store n) c va v) s) ∧
       (n = 4 → does .both (fun l => let r := homeRead s c l va 4
        setRdata (agentWrite s c l (lineOf va) ((List.range 4).map fun i => (va % 128 + i, (leBytes (atomNew op (BitVec.ofNat 32 r.1)
          (BitVec.ofNat 32 v) (BitVec.ofNat 32 (v / 2 ^ 32))).toNat 4).getD i 0#8))) (if r.2 then none else some r.1)) (exec (.peerAccess peer (.atomic op) c va v) s))))

/-! ## Reliability, power and reset (spec 22) -/

/-- R402 to R409, R414, R417: a lost die kills the contexts that span it; links, lanes, memory, cores and banks are repaired and
reported, and a bank is spared once its corrected errors pass the threshold; a core is marked when more errors than the threshold were
corrected in it in 24 hours; an error beyond correction drops a clean line of an L1 or a Sieve cache, and marks and reports a
register, a tile, an accumulator, a dirty L1 line, a line of L2 or the word of a queue that it meets, and marks a run of the
scratchpad; the clock and the gates; a reset and a loss of
power leave the device as R417 says, with fuses and host memory kept. The model's choices: when the 24 hours begin and the bank's
threshold (log 50); address 0 in KIND 17 of a core or a bank (log 55); the numbers of the ports, KSTAT 5 or 1 after a reset, and that a
retrain leaves no state (log 42). -/
def Obligations.FleetEvents : Prop :=
  ∀ (s : State) (die port lane stack core k bank : Nat) (pass : Bool),
    let used := fun (k : Nat) => ∃ x ∈ s.ctxs, x.st ≠ 0 ∧ k ∈ granted x
    (let lost := (List.range s.ctxs.length).filter fun c => inState s c [1, 2] && spans (s.ctx c) die
     let u := { s with fuses := { s.fuses with fenced := die :: s.fuses.fenced } }
     Happens s (die < 4 ∧ die ∉ s.fuses.fenced) (lost.foldl (fun s c => killByDie s die c) (poisonHomed u die))
      (exec (.dieTeardown die) s)) ∧
    exec (.linkRetrain port) s = .next s ∧
    (let f := s.fuses
     let lanes := fun (f1 : Fuses) => Happens s (port ≤ 36 ∧ port ∉ f.portsRetired ∧ lane < 34)
      (telemetry { s with fuses := f1 } 20 (lane * 2 ^ 16 + if port = 0 then 3 * 2 ^ 28 else (port - 1) * 2 ^ 22 + 4 * 2 ^ 28) 0 [])
      (exec (.laneSpare port lane) s)
     (port = 0 → lanes { f with kloakLanes := f.kloakLanes + 1 }) ∧
     (port ≠ 0 → (∀ l ∈ f.cyhildLanes, l.1 ≠ port) → lanes { f with cyhildLanes := (port, lane) :: f.cyhildLanes }) ∧
     (port ≠ 0 → (∃ l ∈ f.cyhildLanes, l.1 = port) → lanes { f with portsRetired := port :: f.portsRetired })) ∧
    (∃ t : State, exec (.memoryScrub stack) s = .next t ∧ t.mem.home = s.mem.home ∧ t.mem.l2 = s.mem.l2 ∧ t.warps = s.warps ∧
      t.clusters = s.clusters ∧ (12 ≤ stack ∨ stack / 3 ∈ s.fuses.fenced → t = s) ∧ ∀ p ∈ t.mem.poison, p ∈ s.mem.poison ∨ p * 32 / 2 ^ 36 = stack) ∧
    (let marked := s.mapCore core fun y => { y with retireMark := true }
     Happens s (core < 768 ∧ ¬ used (clusterOf core)) (if pass then s else marked) (exec (.coreSelfTest core pass) s) ∧
     Happens s (core < 768) marked (exec (.ageingMonitorReport core) s)) ∧
    Happens s (core < 768 ∧ (s.core core).retireMark = true ∧ ¬ used (clusterOf core)) (retireCore s core)
      (exec (.coreRetirement core) s) ∧
    (core < 768 → (retireCore s core).fuses.harvest.getD (core / 192) 0 / 2 ^ (core % 192) % 2 = 1 ∨ s.fuses.harvest.length ≤ core / 192) ∧
    (retireCore s core).ctxs = s.ctxs ∧
    (let rep := fun (t : State) (unit pa : Nat) => telemetry t 17 unit 0 [(5, pa % 2 ^ 32), (6, pa / 2 ^ 32)]
     let unit := fun (p : Nat) => p / 192 + p % 192 / 4 * 2 ^ 4 + p % 4 * 2 ^ 10
     let at_ := fun (x : Line) => homeOf ((s.ctx x.ctx).placement x.va) x.va
     let pa := fun (x : Line) => physAddr ((s.ctx x.ctx).placement x.va) x.leaf x.va
     (∀ p x, s.warps[k]? = some x → upset s (.register k p) = rep (s.mapWarp k fun x =>
      { x with bad := if x.bad.contains p then x.bad else p :: x.bad }) (unit x.core) 0) ∧
     (∀ n, n < (s.team k).tiles.length → upset s (.tile k n) = rep (s.mapTeam k fun x =>
      { x with tiles := updAt x.tiles n fun y => { y with poison := true } }) (unit (s.team k).core) 0) ∧
     (∀ n, n < (s.team k).accs.length → upset s (.acc k n) = rep (s.mapTeam k fun x =>
      { x with accs := updAt x.accs n fun y => { y with poison := true } }) (unit (s.team k).core) 0) ∧
     (∀ cl id a x, (s.cluster cl).l1.find? (isLine id (lineOf a)) = some x →
      (x.isDirty = false → upset s (.l1 cl id a) = l1Drop s cl id (lineOf a)) ∧
      (x.isDirty = true → upset s (.l1 cl id a) = rep (s.mapL1 cl fun ls => ls.map fun y =>
        if isLine id (lineOf a) y then { y with poison := y.poison.set (a % 128 / 32) true } else y) (l1Unit s cl)
        (match at_ x with
        | .stack _ => pa x
        | _ => 0))) ∧
     (∀ cl id a, upset s (.sieve cl id a) = 
      s.mapCluster cl fun y => { y with sieve := y.sieve.filter fun z => !isLine id (lineOf a) z }) ∧
     (∀ id a x n, s.l2Line? id (lineOf a) = some x → at_ x = .stack n → upset s (.l2 id a) =
      let spoilt := s.mem.l2.map fun y => if isLine id (lineOf a) y then { y with poison := List.replicate 4 true } else y
      rep { s with mem := { s.mem with l2 := spoilt } } (n / 3 + n * 2 ^ 12 + 2 * 2 ^ 28) (pa x)) ∧
     (∀ q n y, (s.crew k).queues[q]? = some y → n < y.entries.length → upset s (.fifo k q n) = rep (s.mapCrew k fun z =>
      { z with queues := updAt z.queues q fun y => { y with bad := if y.bad.contains n then y.bad else n :: y.bad } })
      ((s.crew k).cluster / 48 + (s.crew k).cluster % 48 * 2 ^ 4 + y.bank * 2 ^ 16 + 2 ^ 28) 0)) ∧
    (∀ cl a, cl < s.clusters.length → a / 32 ∈ ((upset s (.scratch cl a)).cluster cl).badSram) ∧
    (∀ cl b, cl < 192 → b < 32 → bankErrors (upset s (.bank cl b)) cl b = bankErrors s cl b + 1) ∧
    (core < 768 → core < s.cores.length →
      let day := 24 * 3600 * 1000000000
      let old := s.core core
      let new := (upset s (.corrected core)).core core
      new.corrected = (if old.correctedAt + day ≤ s.clk.ns ∨ old.corrected = 0 then 1 else old.corrected + 1) ∧
      new.retireMark = (old.retireMark || decide (s.fuses.threshold < new.corrected))) ∧
    (let spared := (s.fuses.spareBanks.filter fun e => e.1 == k).length
     let unit := k / 48 + k % 48 * 2 ^ 4 + bank * 2 ^ 16 + 2 ^ 28
     Happens s (k < 192 ∧ bank < 32 ∧ spared < 2 ∧ (∀ x ∈ s.crews, x.cluster ≠ k ∨ x.resident = false) ∧
        s.fuses.threshold < bankErrors s k bank)
      (telemetry { s with fuses := { s.fuses with
        spareBanks := (k, bank) :: s.fuses.spareBanks
        bankErrors := s.fuses.bankErrors.filter fun e => !(e.1 == k && e.2.1 == bank) } } 19 unit 0 [(5, unit)])
      (exec (.bankSpare k bank) s)) ∧
    (let p := s.win.pstate
     Happens s (p + 100 ≤ 1800) (telemetry { s with win := { s.win with pstate := p + 100 } } 21 0 (p + 100) []) (exec (.clockStep true) s) ∧
     Happens s (1000 ≤ p) (telemetry { s with win := { s.win with pstate := p - 100 } } 21 0 (p - 100) []) (exec (.clockStep false) s)) ∧
    (let gate := fun (b : Bool) => s.mapCluster k fun y => { y with gated := b }
     Happens s ((s.cluster k).copies = [] ∧ ∀ t ∈ s.teams, clusterOf t.core = k → t.res ≠ .running ∧ t.res ≠ .saving) (gate true)
      (exec (.clusterClockGate k) s) ∧
     Happens s ((s.cluster k).gated = true) (gate false) (exec (.clusterWake k) s)) ∧
    (∀ (i : Instr), i = .deviceReset ∨ i = .powerLoss → s.mem.blocked = State.reset.mem.blocked → ∃ t : State, exec i s = .next t ∧
      t.mem = { State.reset.mem with host := s.mem.host } ∧ t.ctxs = State.reset.ctxs ∧ t.warps = [] ∧ t.teams = [] ∧ t.launches = [] ∧
      t.clusters = State.reset.clusters ∧ t.mp = State.reset.mp ∧ t.snap = State.reset.snap ∧ t.fw = State.reset.fw ∧
      t.clk.ns = 0 ∧ t.fuses.fenced = [] ∧ t.fuses.harvest = s.fuses.harvest ∧ t.fuses.spare = s.fuses.spare ∧
      t.fuses.rollback = s.fuses.rollback ∧ t.win.ardy = false ∧ t.win.haack = 0#32 ∧ t.win.pstate = 1800 ∧
      (i = .deviceReset → t.win.kstat = if imageRuns s.fuses 2 then 5 else 1))

/-! ## Sources, latches and traps (spec 01) -/

/-- R16, R18 to R24, R40, R46: what a source field reads; a held latch gives the result, a lost one the slot, an empty one zero; a result
enters bp0 and cancels older write-backs to what it wrote, and one that had parked is followed by a group switch, and one that had parked or whose
data came late was counted when it issued; a group switch writes the one pending latch back, a full write whole, another one under its mask unless that needs a
vector slot the warp lacks, and loses every latch. -/
def Obligations.SourcesAndLatches : Prop :=
  (∀ (c : Iss) (f : Fld) (n k : Nat),
    c.read f .z = .u 0#32 ∧ c.read f .ln = .a 0#32 1#32 ∧ c.read f .wid = .u (BitVec.ofNat 32 c.warp.wid) ∧
    c.read f .tid = .u (BitVec.ofNat 32 c.tid) ∧
    (c.ind f = false → (c.warp.sup = false ∨ n < 96 → c.read f (.win n) = c.warp.regs.getD (c.warp.winBase + n) (.u 0#32)) ∧
      (c.warp.sup = true → 96 ≤ n → c.read f (.win n) = c.warp.bank.getD (n - 96) (.u 0#32))) ∧
    (∀ x (i : Nat), c.split.xp = some x → c.ind f = true →
      (i : Int) = c.warp.winBase + n + (c.warp.xs.getD x.xs 0#32).toInt → c.read f (.win n) = c.warp.regs.getD i (.u 0#32)) ∧
    (c.split.latches[k]? = none → c.read f (.bp k) = .u 0#32) ∧
    (∀ l, c.split.latches[k]? = some l → (l.dst = none → c.read f (.bp k) = .u 0#32) ∧
      ∀ p, l.dst = some p → c.read f (.bp k) = if l.lost then c.warp.getReg p else l.val)) ∧
  ∀ (x : Warp) (sp : Nat) (t : Split), x.split? sp = some t →
    (∀ (pc : Nat) (l : Latch) (written : List Place) (ns : Nat), let v := x.retire sp pc l written ns
      v.retired = x.retired + 1 ∧ v.issued = (if x.sup = false ∧ t.held = none ∧ t.late = none then x.issued + 1 else x.issued) ∧
      ∃ u, v.split? sp = some u ∧ u.pc = pc % 2 ^ 64 ∧ u.latches.length ≤ 4 ∧ u.entry = t.entry ∧ u.em = t.em ∧
      (t.held = none → u.latches[0]? = some l ∧ ∀ j, j < 3 → u.latches[j + 1]? = t.latches[j]?.map fun m =>
        if ∃ p ∈ written, m.dst = some p then { m with nw := false } else m) ∧
      (t.held ≠ none → u.latches[0]? = some { l with nw := false, lost := true } ∧
        ∀ m ∈ u.latches, m.lost = true ∧ m.nw = false)) ∧
    let y := x.groupSwitch sp
    y.split? sp = some { t with latches := t.latches.map fun l => { l with nw := false, lost := true } } ∧
    (∀ q, q ≠ sp → y.split? q = x.split? q) ∧
    { y with split0 := x.split0, split1 := x.split1, regs := x.regs, bank := x.bank, free := x.free } = x ∧
    (∀ p, (∀ l ∈ t.latches, l.nw = true → l.dst ≠ some p) → y.getReg p = x.getReg p) ∧
    (∀ l p, t.latches.filter (fun l => l.nw) = [l] → l.dst = some p → x.has p → l.full = true → y.getReg p = l.res) ∧
    (∀ l p, t.latches.filter (fun l => l.nw) = [l] → l.dst = some p → x.has p → l.full = false →
      (x.needs l.em p l.res ≤ x.free → Merged l.em x.live true (x.getReg p) l.res (y.getReg p)) ∧
      (x.free < x.needs l.em p l.res → y.getReg p = x.getReg p))

/-- R44 to R46, R48 to R50: a trap in user mode fills the trap record, switches both splits' latches back, and sends the split to
sy.tvec in supervisor mode with the lanes that trapped; nothing else changes. In supervisor mode, and for causes 0x15, 0x16
and 0x1B, the warp halts. The handler's split alone issues. A protected warp whose copies differ halts with 0x16 instead (R302). That
slot 0's latches are written back before slot 1's is the model's choice (log 52). -/
def Obligations.TrapEntry : Prop :=
  ∀ s c (t : Trap), issuing s = some c → t.base = none → c.warp.cobbler = false →
    (c.warp.differs s = true → traps s c t = traps s c { cause := 0x16 }) ∧
    (c.warp.differs s = false →
    let x := c.warp
    let q := c.split
    let at_ := if q.xp.isSome then q.pc - 4 else q.pc
    let halts := t.cause = 0x15 ∨ t.cause = 0x16 ∨ t.cause = 0x1B
    let lanes := (match t.lanes with
      | some m => m
      | none => q.em) &&& x.laneMask
    let b := ((x.dropLate c.sp).groupSwitch 0).groupSwitch 1
    (x.sup = false → ¬ halts → ∃ y : Warp, traps s c t = .next (s.withWarp c.w y) ∧ y.sup = true ∧
      y.trap.tcause = BitVec.ofNat 32 (t.cause + if q.xp.isSome then 256 else 0) ∧ y.trap.tpc = at_ ∧ y.trap.tlanes = lanes ∧
      y.trap.tem = q.em ∧ y.trap.twb = t.twb ∧ y.trap.savedEntry = q.entry ∧ y.trap.split = c.sp ∧
      (∀ n, t.val = .word n → y.trap.tval = BitVec.ofNat 32 n ∧ y.bank = x.bank) ∧
      (∀ as, t.val = .addrs as → 2 ≤ x.bank.length → y.trap.tval = 96#32 ∧
        (∀ k, k ≠ 0 → k ≠ 1 → y.getReg (.bank k) = x.getReg (.bank k)) ∧
        ∀ k, k < 2 → (y.getReg (.bank k)).shape = 2 ∧ ∀ l, l < 32 → (y.getReg (.bank k)).lane l =
          if lanes.getLsbD l then BitVec.ofNat 32 (as.getD l 0 / 2 ^ (32 * k)) else (x.getReg (.bank k)).lane l) ∧
      (∃ u, y.split? c.sp = some u ∧ u.pc = (s.ctx (s.ctxOf x)).tvec ∧ u.entry = lanes ∧ u.em = lanes ∧ u.rcv = q.rcv ∧
        u.join = q.join ∧ u.depth = q.depth ∧ u.xp = none ∧ u.park = .no ∧ ∀ l ∈ u.latches, l.lost = true ∧ l.nw = false) ∧
      y.split? (1 - c.sp) = b.split? (1 - c.sp) ∧ y.regs = b.regs ∧ y.free = b.free ∧
      { y with sup := x.sup, trap := x.trap, bank := x.bank, regs := x.regs, free := x.free, split0 := x.split0, split1 := x.split1 } = x ∧
      ∀ w sp e, issOf (s.withWarp c.w y) w sp = some e → w = c.w → sp ≠ c.sp → e.ready (s.withWarp c.w y) = false) ∧
    (x.sup = true ∨ halts → traps s c t = .next (unlessBlocked s c (runTasks s [.halt c.w
      { cause := t.cause, prior := if x.sup then x.trap.tcause.toNat % 2 ^ 8 else 0, code := 0, pc := at_
        addr := if t.cause = 0x15 then firstAddr t q.em else 0 }] (taskFuel - 1)))))

/-! ## The machine as a whole (spec 00 to 03, 22) -/

/-- R60 to R79, R84: the decoder reads back every instruction the encodings admit, and every word that decodes is the encoding of
what it decodes to. -/
def Obligations.EncodeDecode : Prop :=
  (∀ i : Instr, WellFormed i → i.isWord = true →
    encode i < 2 ^ 32 ∧ decodeWord (encode i) = .ok i ∧ decodeTableWord 32 (encode i) = some i) ∧
  ∀ (w : Nat) (i : Instr), w < 2 ^ 32 → decodeWord w = .ok i → WellFormed i ∧ i.isWord = true ∧ encode i = w

/-- Every memory of the device keeps its one canonical form over every step, an instruction of any split or an event (the form is
the model's own; log 5). -/
def Obligations.StepKeepsMemory : Prop := ∀ s t, MemInv s → step s = .next t → MemInv t

/-- R30: at every instruction boundary the quota of each warp is the number of its V registers plus its free slots and never below
its launch's floor, a load whose data is late (log 3) holding the slots it has taken: reset leaves it so, and every step, of any
split or of the firmware, keeps it. -/
def Obligations.StepKeepsQuota : Prop := QuotaInv State.reset ∧ ∀ s t, QuotaInv s → step s = .next t → QuotaInv t

/-- The device never stops (log 1): every step answers a next state, since a step runs an instruction only where a split can issue. -/
def Obligations.EveryStepGoesOn : Prop :=
  (∀ s, ∃ t, step s = .next t) ∧ (∀ i s, i.isWord = true → issuing s = none → exec i s = .fault .noIssuingSplit) ∧
  (∀ i s, i.isWord = false → ∃ t, exec i s = .next t) ∧ (∀ i s c, issuing s = some c → ∃ t, exec i s = .next t)

/-- R76, R83, R90, R40, R403: the word at the PC of the split chosen to issue, if it decodes, is the instruction that the step runs;
time then passes and the next split is chosen. A word that does not decode raises 0x01 or 0x02, a fetch that fails its own trap,
0x15 where the word is poisoned. A write that waits at the hub, a due event of the agenda, a rotation that is due or an event that
waits runs instead, but not between a prefix and its word. What is the model's own: that a step is one instruction or one event, and
which of those comes first (log 1); that the fetch takes the old word while its line stands in the instruction cache, and otherwise
the home's (logs 9 and 52; R77 allows either); that a peer's page is fetched from whatever its leaf's right (log 55). -/
def Obligations.StepRunsDecoded : Prop :=
  ∀ s c, issuing s = some c →
    let pair := c.split.xp.isSome
    let turn := (hubEvent s).orElse fun _ => (dueEvent s).orElse fun _ => (rotation s).orElse fun _ => waited s
    let own := turn = none
    let cx := s.ctxOf c.warp
    let pc := c.split.pc
    let k := clusterOf c.warp.core
    (∀ l, pair = true ∨ own → pc < 2 ^ 56 → translate s cx pc = .leaf l → l.ex = true ∨ l.cls = 4 →
      let u := (fetchWord s k cx l pc).1
      let w := (fetchWord s k cx l pc).2.1
      (fetchWord s k cx l pc).2.2 = false →
        (∀ i t, decodeWord w = .ok i → exec i u = .next t → step s = .next (finish t)) ∧
        (decodeWord w = .illegal → step s = .next (finish (raise u c { cause := 0x01 }))) ∧
        (decodeWord w = .reserved → step s = .next (finish (raise u c
          { cause := if c.warp.cobbler && !cobblerWord w then 0x01 else 0x02 })))) ∧
    (∀ l, translate s cx pc = .leaf l → pc % 4 = 0 →
      (∀ x, (s.cluster k).icache.find? (isLine (s.asid cx) (lineOf pc)) = some x → (fetchWord s k cx l pc).1 = s ∧
        (fetchWord s k cx l pc).2.1 = leNat ((x.bytes.drop (pc % 128)).take 4)) ∧
      ((s.cluster k).icache.find? (isLine (s.asid cx) (lineOf pc)) = none →
        (fetchWord s k cx l pc).2.1 = leNat ((List.range 4).map fun i => homeByte s cx l (pc + i)))) ∧
    (pair = true ∨ own →
      (2 ^ 56 ≤ pc → step s = .next (finish (raise s c { cause := 0x1A }))) ∧
      (pc < 2 ^ 56 → translate s cx pc = .absent → step s = .next (finish (raise s c { cause := 0x0A }))) ∧
      (∀ l, pc < 2 ^ 56 → translate s cx pc = .leaf l → l.ex = false → l.cls ≠ 4 → step s = .next (finish (raise s c { cause := 0x0B }))) ∧
      (∀ l, pc < 2 ^ 56 → translate s cx pc = .leaf l → l.ex = true ∨ l.cls = 4 → (fetchWord s k cx l pc).2.2 = true →
        step s = .next (finish (raise s c { cause := 0x15, val := .addrs (List.replicate 32 pc) })))) ∧
    (∀ i u t, pair = false → turn = some (i, u) → exec i u = .next t → step s = .next (finishEvent (noteStall i u (hubAfter i t)))) ∧
    (∀ i u, dueEvent s = some (i, u) → i.isWord = false) ∧
    (∀ i u, rotation s = some (i, u) → u = s ∧ ∃ w x, s.warps[w]? = some x ∧ i = .weltRotation w ∧ x.st = .running ∧ x.sup = false ∧
      x.weltOrder ≠ [] ∧ 1024 ≤ x.issued) ∧
    (∀ w x, s.warps[w]? = some x → x.st = .running → x.sup = false → x.weltOrder ≠ [] → 1024 ≤ x.issued →
      (s.team x.team).res = .running → noPair x = true → (rotate s w x).mem.blocked = s.mem.blocked → rotation s ≠ none)

/-- R60 to R88, on words written out from their encodings: the examples of the spec (spec 03, 05 to 08). -/
def Obligations.DecodedWords : Prop :=
  decodeWord 0x00102860 = .ok (.add false (.win 4) (.win 5) (.win 6)) ∧ decodeWord 0x1C1C4403 = .ok (.shiSar false (.win 7) (.win 8) 3) ∧
  decodeWord 0x2C883FF9 = .ok (.cmpi 2 1 (.win 3) 0xFF9) ∧ decodeWord 0x3C183925 = .ok (.cvt false (.win 6) (.win 7) 1 2 5) ∧
  decodeWord 0x40A3A066 = .ok (.shw 40 6) ∧ decodeWord 0x45D3A026 = .ok (.rclaim .z 2) ∧
  decodeWord 0x482048A3 = .ok (.shflXor false (.win 8) (.win 9) (.win 10)) ∧ decodeWord 0x6807A056 = .ok (.bar 1 5) ∧
  decodeWord 0x6C1050B0 = .ok (.ldg false .w32 (.one (.win 4)) 5 (.win 5) 0) ∧
  decodeWord 0x70141090 = .ok (.stg .w32 (.one (.win 5)) 1 (.win 4) 0) ∧ decodeWord 0x8830A1C8 = .ok (.atomiAdd (.win 6) 5 (.win 7) 2) ∧
  decodeWord 0x9D000004 = .ok (.phar 4) ∧ decodeWord 0x5BFFFFFD = .ok (.bra 0x3FFFFFD) ∧ decodeWord 0x60780028 = .ok (.call 30 0x28) ∧
  decodeWord 0xFC1FFC01 = .ok (.xp 0 0 0x1FFC01) ∧ decodeWord 0x5D512228 = .ok (.brd 2 true 0x224 0x228) ∧
  decodeWord 0xA0042051 = .ok (.boarr 1 (.win 4) (.win 5)) ∧ decodeWord 0xA5D04830 = .ok (.qpush (.win 9) 3) ∧
  decodeWord 0xA9D04741 = .ok (.cpyx 8) ∧ decodeWord 0xAC5010C2 = .ok (.svldQ4 false (.win 20) 2 12) ∧
  decodeWord 0xBD400820 = .ok (.mmaBf16 2 true 1 2) ∧ decodeWord 0xC4000082 = .ok (.tseqE4m3 0 false 0 8) ∧
  decodeWord 0xC0A04819 = .ok (.accexp 1 40 (.win 9)) ∧ decodeWord 0x54100040 = .ok (.mfs false (.win 4) 4) ∧
  decodeWord 0x55D3A012 = .ok (.rte 1) ∧ decodeWord 0xC8303091 = .ok (.vst (.win 6) 9 (.win 12)) ∧ decodeWord 0xCC13A020 = .ok (.snap 4 2) ∧
  decodeWord 0xD028A160 = .ok (.launch 10 20 (.win 22)) ∧ decodeWord (0x35 * 2 ^ 26) = .illegal

/-- R3, R15, R185, R204, R352, R374, R396, R417: the device after reset holds no warp, no team and no launch, no bound context, memory all
zero, banks in L1 mode, tag maps all ones, the Stockpot's 64 units and a window of zeros; a warp that dispatch creates holds
R15's values. -/
def Obligations.ResetValues : Prop :=
  MemInv State.reset ∧ (State.reset.warps = [] ∧ State.reset.teams = [] ∧ State.reset.launches = []) ∧
  (∀ a, memGet State.reset.mem.home a = 0#8) ∧ State.reset.mem.poison = [] ∧ State.reset.snap.units = 64 ∧ State.reset.snap.gen = 0 ∧
  (∀ c, c < 64 → (State.reset.ctx c).st = 0) ∧
  (∀ k, k < 768 → (State.reset.core k).tagmap = List.replicate 64 true ∧ (State.reset.core k).errmap = List.replicate 64 false ∧
    (State.reset.core k).slotsFree = 4096 ∧ (State.reset.core k).pool = 2048) ∧
  (∀ k b, k < 192 → b < 32 → (State.reset.cluster k).banks[b]? = some ⟨0, none⟩) ∧
  (State.reset.win.kstat = 0 ∧ State.reset.win.mpcmd = List.replicate 8 0#32 ∧ State.reset.win.freply = [0#32, 0#32, 0#32] ∧
    State.reset.win.haack = 0#32 ∧ State.reset.win.papbase = 0 ∧ State.reset.win.msiaddr = List.replicate 16 0 ∧
    State.reset.win.msidata = List.replicate 16 0#32 ∧ State.reset.mp.busy = false ∧ State.reset.mp.result = 0) ∧
  (∀ s l team core area wid,
    let x := freshWarp s l team core area wid
    x.regs = List.replicate l.regs (.u 0#32) ∧ x.allot = l.regs ∧ x.winBase = 0 ∧ x.xs = [0#32, 0#32, 0#32, 0#32] ∧
    x.preds = List.replicate 8 0#32 ∧ x.live = (if l.prot then 0xFFFF#32 else 0xFFFFFFFF#32) ∧ x.split1 = none ∧
    (∃ t, x.split0 = some t ∧ t.pc = l.entry ∧ t.entry = x.live ∧ t.em = x.live ∧ t.rcv = none ∧ t.join = none ∧ t.depth = 0 ∧
      t.latches = []) ∧
    (∀ e ∈ x.welt, e = .free) ∧ x.q = l.vfloor ∧ x.free = l.vfloor ∧ x.sup = false ∧ x.bank = List.replicate 16 (.u 0#32) ∧
    (x.trap.tcause = 0#32 ∧ x.trap.tpc = 0 ∧ x.trap.tval = 0#32 ∧ x.trap.tlanes = 0#32 ∧ x.trap.tem = 0#32 ∧ x.trap.twb = 0) ∧
    ∀ i, i < 32 → x.srng[i]? = some (BitVec.ofNat 32 (i + 1)))
end

