-- ==== Sys2Proof/Laws/State.lean ====
section
/-!
SUPPORT. What the named updates of State do to each of its fields, and what an update of one element of a list does.
-/

namespace Sys2Proof.Machine

/-! ## One element of a list -/

@[simp] theorem updAt_length {α : Type} (f : α → α) : ∀ (xs : List α) (i : Nat), (updAt xs i f).length = xs.length
  | [], _ => rfl
  | _ :: _, 0 => rfl
  | _ :: t, n + 1 => by simp [updAt, updAt_length f t n]

theorem updAt_get {α : Type} (f : α → α) : ∀ (xs : List α) (i j : Nat),
    (updAt xs i f)[j]? = if j = i then xs[j]?.map f else xs[j]?
  | [], _, _ => by simp [updAt]
  | _ :: _, 0, 0 => by simp [updAt]
  | _ :: _, 0, _ + 1 => by simp [updAt]
  | _ :: _, _ + 1, 0 => by simp [updAt]
  | _ :: t, n + 1, j + 1 => by simp [updAt, updAt_get f t n j]

@[simp] theorem updAt_get_same {α : Type} (f : α → α) (xs : List α) (i : Nat) : (updAt xs i f)[i]? = xs[i]?.map f := by
  simp [updAt_get]

theorem updAt_get_other {α : Type} (f : α → α) (xs : List α) {i j : Nat} (h : j ≠ i) : (updAt xs i f)[j]? = xs[j]? := by
  simp [updAt_get, h]

/-- What holds of every element, and of the image of each, holds after the update. -/
theorem updAt_forall {α : Type} {p : α → Prop} {f : α → α} : ∀ {xs : List α} {i : Nat}, (∀ x ∈ xs, p x) →
    (∀ x ∈ xs, p (f x)) → ∀ x ∈ updAt xs i f, p x
  | [], _, _, _ => by simp [updAt]
  | _ :: _, 0, h, hf => by
    intro x hx
    simp only [updAt, List.mem_cons] at hx
    cases hx with
    | inl e => exact e ▸ hf _ (List.mem_cons_self ..)
    | inr m => exact h x (List.mem_cons_of_mem _ m)
  | _ :: t, n + 1, h, hf => by
    intro x hx
    simp only [updAt, List.mem_cons] at hx
    cases hx with
    | inl e => exact e ▸ h _ (List.mem_cons_self ..)
    | inr m =>
      exact updAt_forall (xs := t) (i := n) (fun y hy => h y (List.mem_cons_of_mem _ hy))
        (fun y hy => hf y (List.mem_cons_of_mem _ hy)) x m

/-! ## The named updates of State -/

@[simp] theorem mapWarp_warps (s : State) (k : Nat) (f : Warp → Warp) : (s.mapWarp k f).warps = updAt s.warps k f := rfl
@[simp] theorem mapWarp_teams (s : State) (k : Nat) (f : Warp → Warp) : (s.mapWarp k f).teams = s.teams := rfl
@[simp] theorem mapWarp_crews (s : State) (k : Nat) (f : Warp → Warp) : (s.mapWarp k f).crews = s.crews := rfl
@[simp] theorem mapWarp_launches (s : State) (k : Nat) (f : Warp → Warp) : (s.mapWarp k f).launches = s.launches := rfl
@[simp] theorem mapWarp_ctxs (s : State) (k : Nat) (f : Warp → Warp) : (s.mapWarp k f).ctxs = s.ctxs := rfl
@[simp] theorem mapWarp_cores (s : State) (k : Nat) (f : Warp → Warp) : (s.mapWarp k f).cores = s.cores := rfl
@[simp] theorem mapWarp_clusters (s : State) (k : Nat) (f : Warp → Warp) : (s.mapWarp k f).clusters = s.clusters := rfl
@[simp] theorem mapWarp_mem (s : State) (k : Nat) (f : Warp → Warp) : (s.mapWarp k f).mem = s.mem := rfl
@[simp] theorem mapWarp_mp (s : State) (k : Nat) (f : Warp → Warp) : (s.mapWarp k f).mp = s.mp := rfl
@[simp] theorem mapWarp_win (s : State) (k : Nat) (f : Warp → Warp) : (s.mapWarp k f).win = s.win := rfl
@[simp] theorem mapWarp_fuses (s : State) (k : Nat) (f : Warp → Warp) : (s.mapWarp k f).fuses = s.fuses := rfl
@[simp] theorem mapWarp_snap (s : State) (k : Nat) (f : Warp → Warp) : (s.mapWarp k f).snap = s.snap := rfl
@[simp] theorem mapWarp_fw (s : State) (k : Nat) (f : Warp → Warp) : (s.mapWarp k f).fw = s.fw := rfl
@[simp] theorem mapWarp_clk (s : State) (k : Nat) (f : Warp → Warp) : (s.mapWarp k f).clk = s.clk := rfl
@[simp] theorem mapWarp_sched (s : State) (k : Nat) (f : Warp → Warp) : (s.mapWarp k f).sched = s.sched := rfl

@[simp] theorem mapTeam_warps (s : State) (k : Nat) (f : Team → Team) : (s.mapTeam k f).warps = s.warps := rfl
@[simp] theorem mapTeam_teams (s : State) (k : Nat) (f : Team → Team) : (s.mapTeam k f).teams = updAt s.teams k f := rfl
@[simp] theorem mapTeam_crews (s : State) (k : Nat) (f : Team → Team) : (s.mapTeam k f).crews = s.crews := rfl
@[simp] theorem mapTeam_launches (s : State) (k : Nat) (f : Team → Team) : (s.mapTeam k f).launches = s.launches := rfl
@[simp] theorem mapTeam_ctxs (s : State) (k : Nat) (f : Team → Team) : (s.mapTeam k f).ctxs = s.ctxs := rfl
@[simp] theorem mapTeam_cores (s : State) (k : Nat) (f : Team → Team) : (s.mapTeam k f).cores = s.cores := rfl
@[simp] theorem mapTeam_clusters (s : State) (k : Nat) (f : Team → Team) : (s.mapTeam k f).clusters = s.clusters := rfl
@[simp] theorem mapTeam_mem (s : State) (k : Nat) (f : Team → Team) : (s.mapTeam k f).mem = s.mem := rfl
@[simp] theorem mapTeam_mp (s : State) (k : Nat) (f : Team → Team) : (s.mapTeam k f).mp = s.mp := rfl
@[simp] theorem mapTeam_win (s : State) (k : Nat) (f : Team → Team) : (s.mapTeam k f).win = s.win := rfl
@[simp] theorem mapTeam_fuses (s : State) (k : Nat) (f : Team → Team) : (s.mapTeam k f).fuses = s.fuses := rfl
@[simp] theorem mapTeam_snap (s : State) (k : Nat) (f : Team → Team) : (s.mapTeam k f).snap = s.snap := rfl
@[simp] theorem mapTeam_fw (s : State) (k : Nat) (f : Team → Team) : (s.mapTeam k f).fw = s.fw := rfl
@[simp] theorem mapTeam_clk (s : State) (k : Nat) (f : Team → Team) : (s.mapTeam k f).clk = s.clk := rfl
@[simp] theorem mapTeam_sched (s : State) (k : Nat) (f : Team → Team) : (s.mapTeam k f).sched = s.sched := rfl

@[simp] theorem mapCrew_warps (s : State) (k : Nat) (f : Crew → Crew) : (s.mapCrew k f).warps = s.warps := rfl
@[simp] theorem mapCrew_teams (s : State) (k : Nat) (f : Crew → Crew) : (s.mapCrew k f).teams = s.teams := rfl
@[simp] theorem mapCrew_crews (s : State) (k : Nat) (f : Crew → Crew) : (s.mapCrew k f).crews = updAt s.crews k f := rfl
@[simp] theorem mapCrew_launches (s : State) (k : Nat) (f : Crew → Crew) : (s.mapCrew k f).launches = s.launches := rfl
@[simp] theorem mapCrew_ctxs (s : State) (k : Nat) (f : Crew → Crew) : (s.mapCrew k f).ctxs = s.ctxs := rfl
@[simp] theorem mapCrew_cores (s : State) (k : Nat) (f : Crew → Crew) : (s.mapCrew k f).cores = s.cores := rfl
@[simp] theorem mapCrew_clusters (s : State) (k : Nat) (f : Crew → Crew) : (s.mapCrew k f).clusters = s.clusters := rfl
@[simp] theorem mapCrew_mem (s : State) (k : Nat) (f : Crew → Crew) : (s.mapCrew k f).mem = s.mem := rfl
@[simp] theorem mapCrew_mp (s : State) (k : Nat) (f : Crew → Crew) : (s.mapCrew k f).mp = s.mp := rfl
@[simp] theorem mapCrew_win (s : State) (k : Nat) (f : Crew → Crew) : (s.mapCrew k f).win = s.win := rfl
@[simp] theorem mapCrew_fuses (s : State) (k : Nat) (f : Crew → Crew) : (s.mapCrew k f).fuses = s.fuses := rfl
@[simp] theorem mapCrew_snap (s : State) (k : Nat) (f : Crew → Crew) : (s.mapCrew k f).snap = s.snap := rfl
@[simp] theorem mapCrew_fw (s : State) (k : Nat) (f : Crew → Crew) : (s.mapCrew k f).fw = s.fw := rfl
@[simp] theorem mapCrew_clk (s : State) (k : Nat) (f : Crew → Crew) : (s.mapCrew k f).clk = s.clk := rfl
@[simp] theorem mapCrew_sched (s : State) (k : Nat) (f : Crew → Crew) : (s.mapCrew k f).sched = s.sched := rfl

@[simp] theorem mapLaunch_warps (s : State) (k : Nat) (f : Launch → Launch) : (s.mapLaunch k f).warps = s.warps := rfl
@[simp] theorem mapLaunch_teams (s : State) (k : Nat) (f : Launch → Launch) : (s.mapLaunch k f).teams = s.teams := rfl
@[simp] theorem mapLaunch_crews (s : State) (k : Nat) (f : Launch → Launch) : (s.mapLaunch k f).crews = s.crews := rfl
@[simp] theorem mapLaunch_launches (s : State) (k : Nat) (f : Launch → Launch) : (s.mapLaunch k f).launches = updAt s.launches k f := rfl
@[simp] theorem mapLaunch_ctxs (s : State) (k : Nat) (f : Launch → Launch) : (s.mapLaunch k f).ctxs = s.ctxs := rfl
@[simp] theorem mapLaunch_cores (s : State) (k : Nat) (f : Launch → Launch) : (s.mapLaunch k f).cores = s.cores := rfl
@[simp] theorem mapLaunch_clusters (s : State) (k : Nat) (f : Launch → Launch) : (s.mapLaunch k f).clusters = s.clusters := rfl
@[simp] theorem mapLaunch_mem (s : State) (k : Nat) (f : Launch → Launch) : (s.mapLaunch k f).mem = s.mem := rfl
@[simp] theorem mapLaunch_mp (s : State) (k : Nat) (f : Launch → Launch) : (s.mapLaunch k f).mp = s.mp := rfl
@[simp] theorem mapLaunch_win (s : State) (k : Nat) (f : Launch → Launch) : (s.mapLaunch k f).win = s.win := rfl
@[simp] theorem mapLaunch_fuses (s : State) (k : Nat) (f : Launch → Launch) : (s.mapLaunch k f).fuses = s.fuses := rfl
@[simp] theorem mapLaunch_snap (s : State) (k : Nat) (f : Launch → Launch) : (s.mapLaunch k f).snap = s.snap := rfl
@[simp] theorem mapLaunch_fw (s : State) (k : Nat) (f : Launch → Launch) : (s.mapLaunch k f).fw = s.fw := rfl
@[simp] theorem mapLaunch_clk (s : State) (k : Nat) (f : Launch → Launch) : (s.mapLaunch k f).clk = s.clk := rfl
@[simp] theorem mapLaunch_sched (s : State) (k : Nat) (f : Launch → Launch) : (s.mapLaunch k f).sched = s.sched := rfl

@[simp] theorem mapCluster_warps (s : State) (k : Nat) (f : Cluster → Cluster) : (s.mapCluster k f).warps = s.warps := rfl
@[simp] theorem mapCluster_teams (s : State) (k : Nat) (f : Cluster → Cluster) : (s.mapCluster k f).teams = s.teams := rfl
@[simp] theorem mapCluster_crews (s : State) (k : Nat) (f : Cluster → Cluster) : (s.mapCluster k f).crews = s.crews := rfl
@[simp] theorem mapCluster_launches (s : State) (k : Nat) (f : Cluster → Cluster) : (s.mapCluster k f).launches = s.launches := rfl
@[simp] theorem mapCluster_ctxs (s : State) (k : Nat) (f : Cluster → Cluster) : (s.mapCluster k f).ctxs = s.ctxs := rfl
@[simp] theorem mapCluster_cores (s : State) (k : Nat) (f : Cluster → Cluster) : (s.mapCluster k f).cores = s.cores := rfl
@[simp] theorem mapCluster_clusters (s : State) (k : Nat) (f : Cluster → Cluster) : (s.mapCluster k f).clusters = updAt s.clusters k f := rfl
@[simp] theorem mapCluster_mem (s : State) (k : Nat) (f : Cluster → Cluster) : (s.mapCluster k f).mem = s.mem := rfl
@[simp] theorem mapCluster_mp (s : State) (k : Nat) (f : Cluster → Cluster) : (s.mapCluster k f).mp = s.mp := rfl
@[simp] theorem mapCluster_win (s : State) (k : Nat) (f : Cluster → Cluster) : (s.mapCluster k f).win = s.win := rfl
@[simp] theorem mapCluster_fuses (s : State) (k : Nat) (f : Cluster → Cluster) : (s.mapCluster k f).fuses = s.fuses := rfl
@[simp] theorem mapCluster_snap (s : State) (k : Nat) (f : Cluster → Cluster) : (s.mapCluster k f).snap = s.snap := rfl
@[simp] theorem mapCluster_fw (s : State) (k : Nat) (f : Cluster → Cluster) : (s.mapCluster k f).fw = s.fw := rfl
@[simp] theorem mapCluster_clk (s : State) (k : Nat) (f : Cluster → Cluster) : (s.mapCluster k f).clk = s.clk := rfl
@[simp] theorem mapCluster_sched (s : State) (k : Nat) (f : Cluster → Cluster) : (s.mapCluster k f).sched = s.sched := rfl

@[simp] theorem mapCore_warps (s : State) (k : Nat) (f : Core → Core) : (s.mapCore k f).warps = s.warps := rfl
@[simp] theorem mapCore_teams (s : State) (k : Nat) (f : Core → Core) : (s.mapCore k f).teams = s.teams := rfl
@[simp] theorem mapCore_crews (s : State) (k : Nat) (f : Core → Core) : (s.mapCore k f).crews = s.crews := rfl
@[simp] theorem mapCore_launches (s : State) (k : Nat) (f : Core → Core) : (s.mapCore k f).launches = s.launches := rfl
@[simp] theorem mapCore_ctxs (s : State) (k : Nat) (f : Core → Core) : (s.mapCore k f).ctxs = s.ctxs := rfl
@[simp] theorem mapCore_cores (s : State) (k : Nat) (f : Core → Core) : (s.mapCore k f).cores = updAt s.cores k f := rfl
@[simp] theorem mapCore_clusters (s : State) (k : Nat) (f : Core → Core) : (s.mapCore k f).clusters = s.clusters := rfl
@[simp] theorem mapCore_mem (s : State) (k : Nat) (f : Core → Core) : (s.mapCore k f).mem = s.mem := rfl
@[simp] theorem mapCore_mp (s : State) (k : Nat) (f : Core → Core) : (s.mapCore k f).mp = s.mp := rfl
@[simp] theorem mapCore_win (s : State) (k : Nat) (f : Core → Core) : (s.mapCore k f).win = s.win := rfl
@[simp] theorem mapCore_fuses (s : State) (k : Nat) (f : Core → Core) : (s.mapCore k f).fuses = s.fuses := rfl
@[simp] theorem mapCore_snap (s : State) (k : Nat) (f : Core → Core) : (s.mapCore k f).snap = s.snap := rfl
@[simp] theorem mapCore_fw (s : State) (k : Nat) (f : Core → Core) : (s.mapCore k f).fw = s.fw := rfl
@[simp] theorem mapCore_clk (s : State) (k : Nat) (f : Core → Core) : (s.mapCore k f).clk = s.clk := rfl
@[simp] theorem mapCore_sched (s : State) (k : Nat) (f : Core → Core) : (s.mapCore k f).sched = s.sched := rfl

@[simp] theorem mapCtx_warps (s : State) (k : Nat) (f : Context → Context) : (s.mapCtx k f).warps = s.warps := rfl
@[simp] theorem mapCtx_teams (s : State) (k : Nat) (f : Context → Context) : (s.mapCtx k f).teams = s.teams := rfl
@[simp] theorem mapCtx_crews (s : State) (k : Nat) (f : Context → Context) : (s.mapCtx k f).crews = s.crews := rfl
@[simp] theorem mapCtx_launches (s : State) (k : Nat) (f : Context → Context) : (s.mapCtx k f).launches = s.launches := rfl
@[simp] theorem mapCtx_ctxs (s : State) (k : Nat) (f : Context → Context) : (s.mapCtx k f).ctxs = updAt s.ctxs k f := rfl
@[simp] theorem mapCtx_cores (s : State) (k : Nat) (f : Context → Context) : (s.mapCtx k f).cores = s.cores := rfl
@[simp] theorem mapCtx_clusters (s : State) (k : Nat) (f : Context → Context) : (s.mapCtx k f).clusters = s.clusters := rfl
@[simp] theorem mapCtx_mem (s : State) (k : Nat) (f : Context → Context) : (s.mapCtx k f).mem = s.mem := rfl
@[simp] theorem mapCtx_mp (s : State) (k : Nat) (f : Context → Context) : (s.mapCtx k f).mp = s.mp := rfl
@[simp] theorem mapCtx_win (s : State) (k : Nat) (f : Context → Context) : (s.mapCtx k f).win = s.win := rfl
@[simp] theorem mapCtx_fuses (s : State) (k : Nat) (f : Context → Context) : (s.mapCtx k f).fuses = s.fuses := rfl
@[simp] theorem mapCtx_snap (s : State) (k : Nat) (f : Context → Context) : (s.mapCtx k f).snap = s.snap := rfl
@[simp] theorem mapCtx_fw (s : State) (k : Nat) (f : Context → Context) : (s.mapCtx k f).fw = s.fw := rfl
@[simp] theorem mapCtx_clk (s : State) (k : Nat) (f : Context → Context) : (s.mapCtx k f).clk = s.clk := rfl
@[simp] theorem mapCtx_sched (s : State) (k : Nat) (f : Context → Context) : (s.mapCtx k f).sched = s.sched := rfl

end Sys2Proof.Machine
end

