-- ==== Sys2Proof/Laws/Ops.lean ====
section
/-!
SUPPORT. What the shared operations do, said once: running an instruction, arriving, completing, writing registers.
-/

namespace Sys2Proof.Machine

/-! ## The split that issues -/

/-- The split chosen to issue is one of a warp of the state, in slot 0 or 1. -/
theorem issuing_spec {s : State} {c : Iss} (h : issuing s = some c) :
    s.sched.issue = some (c.w, c.sp) ∧ s.warps[c.w]? = some c.warp ∧ c.warp.split? c.sp = some c.split ∧
      (c.sp = 0 ∨ c.sp = 1) ∧ c.ready s = true := by
  unfold issuing at h
  cases hs : s.sched.issue with
  | none => simp [hs] at h
  | some e =>
    obtain ⟨w, sp⟩ := e
    simp only [hs] at h
    cases hc : issOf s w sp with
    | none => simp [hc] at h
    | some c' =>
      simp only [hc] at h
      split at h
      · cases h
        unfold issOf at hc
        cases hw : s.warps[w]? with
        | none => simp [hw] at hc
        | some x =>
          simp only [hw] at hc
          cases ht : x.split? sp with
          | none => simp [ht] at hc
          | some t =>
            simp only [ht, Option.some.injEq] at hc
            subst hc
            refine ⟨rfl, hw, ht, ?_, ‹_›⟩
            unfold Warp.split? at ht
            split at ht
            · exact .inl ‹_›
            · split at ht
              · exact .inr ‹_›
              · cases ht
      · cases h

theorem mapWarp_withWarp {s : State} {w : Nat} {x : Warp} (h : s.warps[w]? = some x) (f : Warp → Warp) :
    s.mapWarp w f = s.withWarp w (f x) := by
  have : updAt s.warps w f = s.warps.set w (f x) := by
    apply List.ext_getElem?
    intro j
    rw [updAt_get, List.getElem?_set]
    by_cases hj : j = w
    · subst hj
      have := (List.getElem?_eq_some_iff.1 h).1
      rw [h]
      simp [this]
    · simp [hj, Ne.symm hj]
  simp only [State.mapWarp, State.withWarp, this]

@[simp] theorem withWarp_mem (s : State) (w : Nat) (y : Warp) : (s.withWarp w y).mem = s.mem := rfl
@[simp] theorem withWarp_teams (s : State) (w : Nat) (y : Warp) : (s.withWarp w y).teams = s.teams := rfl
@[simp] theorem withWarp_clk (s : State) (w : Nat) (y : Warp) : (s.withWarp w y).clk = s.clk := rfl

/-! ## Running one instruction -/

theorem execute_ok {s : State} {c : Iss} {f : Form} {body : Iss → Res} {r : State} (h : Issues s c f) (hb : body c = .ok r) :
    execute s f body = .next (unlessBlocked s c r) := by
  simp [execute, h.1, h.2, hb]

theorem execute_error {s : State} {c : Iss} {f : Form} {body : Iss → Res} {t : Trap} (h : Issues s c f)
    (hb : body c = .error t) : execute s f body = traps s c t := by
  simp [execute, h.1, h.2, hb, traps]

/-- What stops an instruction before its effect is the trap it raises. -/
theorem execute_check {s : State} {c : Iss} {f : Form} {body : Iss → Res} {t : Trap} (hi : issuing s = some c)
    (hf : c.preTrap s f = some t) : execute s f body = traps s c t := by
  simp [execute, hi, hf, traps]

/-- An instruction issues with no trap of its own when its warp's copies agree, its form passes R90, and no source is
poisoned. -/
theorem issues_of {s : State} {c : Iss} {f : Form} (hi : issuing s = some c) (hp : c.warp.differs s = false)
    (hf : checkForm c f = none) (hb : c.poisonedSource f = false) : Issues s c f :=
  ⟨hi, by simp [Iss.preTrap, hp, hf, hb]⟩

/-- A word that fails a check of R90 raises the trap of that check. -/
theorem preTrap_check {s : State} {c : Iss} {f : Form} {t : Trap} (hp : c.warp.differs s = false)
    (hf : checkForm c f = some t) : c.preTrap s f = some t := by
  simp [Iss.preTrap, hp, hf]

/-- An instruction always comes to a next state when a split is chosen. -/
theorem execute_next {s : State} {c : Iss} (f : Form) (body : Iss → Res) (hi : issuing s = some c) :
    ∃ t, execute s f body = .next t := by
  simp only [execute, hi]
  cases c.preTrap s f with
  | some t => exact ⟨_, rfl⟩
  | none =>
    cases hb : body c with
    | ok r => exact ⟨_, rfl⟩
    | error t => exact ⟨_, rfl⟩

theorem unlessBlocked_same {s : State} {c : Iss} {r : State} (h : r.mem.blocked = s.mem.blocked) :
    unlessBlocked s c r = r := by
  simp [unlessBlocked, h]

theorem settle_stays {s : State} {w sp : Nat} (h : ∀ c, issOf s w sp = some c → reached c.warp c.split = false) :
    settle s w sp = s := by
  unfold settle
  cases hc : issOf s w sp with
  | none => rfl
  | some c => simp [h c hc]

/-- Away from its reconvergence PC an instruction's own effect is the step's. -/
theorem arrive_stays {s u : State} {c : Iss} (hb : u.mem.blocked = s.mem.blocked)
    (h : ∀ k, issOf u c.w c.sp = some k → reached k.warp k.split = false) : arrive s c u = u := by
  unfold arrive
  rw [settle_stays h, unlessBlocked_same hb]

/-! ## Completing -/

theorem retireTo_eq {s u : State} {c : Iss} (hw : u.warps[c.w]? = some c.warp) (hc : u.clk = s.clk) (x : Warp) (pc : Nat)
    (l : Latch) (ps : List Place) :
    c.retireTo u x pc l ps = settle (u.withWarp c.w (x.retire c.sp pc l ps s.clk.ns)) c.w c.sp := by
  unfold Iss.retireTo
  rw [mapWarp_withWarp hw, hc]

theorem execute_retireToIn {s u : State} {c : Iss} {f : Form} {body : Iss → Res} {x : Warp} {pc : Nat} {l : Latch}
    {ps : List Place} (h : Issues s c f) (hw : u.warps = s.warps) (hc : u.clk = s.clk)
    (hb : body c = .ok (c.retireTo u x pc l ps)) : execute s f body = completesIn s u c x pc l ps := by
  rw [execute_ok h hb, retireTo_eq (hw ▸ (issuing_spec h.1).2.1) hc]
  rfl

theorem execute_retireTo {s : State} {c : Iss} {f : Form} {body : Iss → Res} {x : Warp} {pc : Nat} {l : Latch}
    {ps : List Place} (h : Issues s c f) (hb : body c = .ok (c.retireTo s x pc l ps)) :
    execute s f body = completes s c x pc l ps :=
  execute_retireToIn h rfl rfl hb

theorem execute_completeIn {s u : State} {c : Iss} {f : Form} {body : Iss → Res} {x : Warp} (h : Issues s c f)
    (hw : u.warps = s.warps) (hc : u.clk = s.clk) (hb : body c = .ok (c.complete u x)) :
    execute s f body = finishesIn s u c x :=
  execute_retireToIn h hw hc hb

theorem execute_complete {s : State} {c : Iss} {f : Form} {body : Iss → Res} {x : Warp} (h : Issues s c f)
    (hb : body c = .ok (c.complete s x)) : execute s f body = finishes s c x :=
  execute_retireTo h hb

/-- A body that parks the split, in the state `u`. -/
theorem execute_park {s u : State} {c : Iss} {f : Form} {body : Iss → Res} {p : Park} (h : Issues s c f)
    (hw : u.warps = s.warps) (hb : body c = .ok (c.park u p)) : execute s f body = parksIn s u c p := by
  rw [execute_ok h hb]
  unfold Iss.park
  rw [mapWarp_withWarp (s := u) (hw ▸ (issuing_spec h.1).2.1)]
  rfl

/-! ## Shapes and lanes -/

/-- The immediate of a word is the operand of R81. -/
theorem imm_operand (c : Iss) (imm n : Nat) : Operand32 c imm n (c.imm imm n) := by
  unfold Operand32 Iss.imm Iss.hasXp Iss.ext
  cases h : c.split.xp with
  | none => refine ⟨fun _ => ?_, by simp⟩
            simp [BitVec.signExtend, BitVec.toInt, sextN]
  | some x => simp

theorem vec_lane (f : Nat → Word) {l : Nat} (h : l < 32) : (vec f).lane l = f l := by
  simp [vec, Reg.lane, h]

@[simp] theorem vec_shape (f : Nat → Word) : (vec f).shape = 2 := rfl
@[simp] theorem vec_isV (f : Nat → Word) : (vec f).isV = true := rfl
@[simp] theorem vec_isU (f : Nat → Word) : (vec f).isU = false := rfl

theorem map1_lane (f : Word → Word) (a : Reg) {l : Nat} (h : l < 32) : (map1 f a).lane l = f (a.lane l) := by
  cases a <;> simp [map1, Reg.lane, vec, h]

theorem map1_shape (f : Word → Word) (a : Reg) : (map1 f a).shape = shapeUV a.isU := by
  cases a <;> rfl

theorem map2_lane (f : Word → Word → Word) (a b : Reg) {l : Nat} (h : l < 32) :
    (map2 f a b).lane l = f (a.lane l) (b.lane l) := by
  cases a <;> cases b <;> simp [map2, Reg.lane, vec, h]

theorem map2_shape (f : Word → Word → Word) (a b : Reg) : (map2 f a b).shape = shapeUV (a.isU && b.isU) := by
  cases a <;> cases b <;> rfl

theorem map3_lane (f : Word → Word → Word → Word) (a b c : Reg) {l : Nat} (h : l < 32) :
    (map3 f a b c).lane l = f (a.lane l) (b.lane l) (c.lane l) := by
  cases a <;> cases b <;> cases c <;> simp [map3, Reg.lane, vec, h]

theorem map3_shape (f : Word → Word → Word → Word) (a b c : Reg) :
    (map3 f a b c).shape = shapeUV (a.isU && b.isU && c.isU) := by
  cases a <;> cases b <;> cases c <;> rfl

theorem shape_isU {r : Reg} {u : Bool} (h : r.shape = shapeUV u) (hu : u = true) : r.isU = true := by
  subst hu
  cases r <;> simp_all [Reg.shape, Reg.isU, shapeUV]

/-! ## The register write -/

/-- The write of R29 does what `Merged` says. -/
theorem commitVal_merged (em live : Mask) (unif : Bool) (old r : Reg) : Merged em live unif old r (commitVal em live unif old r) where
  idle h := by simp [commitVal, h]
  whole h h' := by rw [commitVal, if_neg h, if_pos h']
  part h h' := by
    unfold commitVal
    rw [if_neg h, if_neg h']
    split
    · exact ⟨.inl rfl, fun l hl => vec_lane _ hl⟩
    · rename_i hw
      refine ⟨.inr rfl, fun l hl => ?_⟩
      simp only [Bool.or_eq_true, not_or] at hw
      obtain ⟨hv, hw⟩ := hw
      split
      · rename_i hm
        by_cases hne : r.lane l = old.lane l
        · exact hne.symm
        · exfalso
          apply hw
          simp only [widens, hv, Bool.not_false, Bool.true_and, Bool.or_eq_true, Bool.and_eq_true, bne_iff_ne, ne_eq, List.any_eq_true]
          refine .inr ⟨h', l, ?_, hne⟩
          simp [lanesOf, hl, hm]
      · rfl

@[simp] theorem setReg_slot_regs (x : Warp) (k : Nat) (r : Reg) : (x.setReg (.slot k) r).regs = x.regs.set k r := rfl
@[simp] theorem setReg_bank_bank (x : Warp) (k : Nat) (r : Reg) : (x.setReg (.bank k) r).bank = x.bank.set k r := rfl
@[simp] theorem setReg_rest (x : Warp) (p : Place) (r : Reg) :
    { x.setReg p r with regs := x.regs, bank := x.bank, free := x.free } = x := by
  cases p <;> rfl
@[simp] theorem setReg_bad (x : Warp) (p : Place) (r : Reg) : (x.setReg p r).bad = x.bad := by cases p <;> rfl
@[simp] theorem clean_regs (x : Warp) (p : Place) : (x.clean p).regs = x.regs := by unfold Warp.clean; split <;> rfl
@[simp] theorem clean_bank (x : Warp) (p : Place) : (x.clean p).bank = x.bank := by unfold Warp.clean; split <;> rfl
@[simp] theorem clean_free (x : Warp) (p : Place) : (x.clean p).free = x.free := by unfold Warp.clean; split <;> rfl
@[simp] theorem clean_live (x : Warp) (p : Place) : (x.clean p).live = x.live := by unfold Warp.clean; split <;> rfl
@[simp] theorem clean_getReg (x : Warp) (p q : Place) : (x.clean p).getReg q = x.getReg q := by cases q <;> simp [Warp.getReg]
@[simp] theorem clean_has (x : Warp) (p q : Place) : (x.clean p).has q ↔ x.has q := by cases q <;> simp [Warp.has]
@[simp] theorem clean_bad (x : Warp) (p : Place) : (x.clean p).bad = x.bad.filter fun q => q != p := by
  unfold Warp.clean
  split
  · rfl
  · rename_i h
    refine (List.filter_eq_self.2 fun q hq => ?_).symm
    simp only [bne_iff_ne, ne_eq]
    rintro rfl
    exact h (by simpa using hq)
@[simp] theorem clean_rest (x : Warp) (p : Place) : { x.clean p with bad := x.bad } = x := by unfold Warp.clean; split <;> rfl

theorem getReg_setReg_same {x : Warp} {p : Place} (r : Reg) (h : x.has p) : (x.setReg p r).getReg p = r := by
  cases p <;> simp_all [Warp.getReg, Warp.has, List.getD]

theorem getReg_setReg_other {x : Warp} {p q : Place} (r : Reg) (h : q ≠ p) : (x.setReg p r).getReg q = x.getReg q := by
  cases p <;> cases q <;> simp_all [Warp.getReg, List.getD, Warp.setReg, Ne.symm]

/-- A write that becomes V took a vector slot. -/
theorem widens_of_commit {em live : Mask} {unif : Bool} {old r : Reg} (hu : unif = true → r.isU = true)
    (ho : old.isV = false) (hn : (commitVal em live unif old r).isV = true) : widenCount em live old r = 1 := by
  unfold commitVal at hn
  unfold widenCount
  split at hn
  · split at hn
    · rename_i hc
      simp only [Bool.and_eq_true] at hc
      have := hu hc.1
      cases r <;> simp_all [Reg.isU, Reg.isV]
    · simp_all
  · split at hn
    · rename_i h h'
      subst h'
      simp [widens, ho, hn, h]
    · split at hn
      · rename_i h h' hw
        simp only [ho, Bool.false_or] at hw
        simp [h, hw]
      · simp_all

/-- A write of an instruction to a place of a warp (R29), whose poison goes when em is the live mask (R403). -/
def Warp.put (x : Warp) (em live : Mask) (p : Place) (v : Reg) : Warp :=
  if em = live then (x.setReg p v).clean p else x.setReg p v

theorem commit_put (x : Warp) (em : Mask) (unif : Bool) (p : Place) (r : Reg) :
    x.commit em unif p r = x.put em x.live p (commitVal em x.live unif (x.getReg p) r) := rfl

@[simp] theorem put_free (x : Warp) (em live : Mask) (p : Place) (v : Reg) : (x.put em live p v).free = (x.setReg p v).free := by
  unfold Warp.put; split <;> simp
@[simp] theorem put_getReg (x : Warp) (em live : Mask) (p q : Place) (v : Reg) :
    (x.put em live p v).getReg q = (x.setReg p v).getReg q := by unfold Warp.put; split <;> simp
@[simp] theorem put_has (x : Warp) (em live : Mask) (p q : Place) (v : Reg) :
    (x.put em live p v).has q ↔ (x.setReg p v).has q := by unfold Warp.put; split <;> simp
@[simp] theorem put_live (x : Warp) (em live : Mask) (p : Place) (v : Reg) : (x.put em live p v).live = x.live := by
  unfold Warp.put; split <;> cases p <;> simp [Warp.setReg]
@[simp] theorem put_bad (x : Warp) (em live : Mask) (p : Place) (v : Reg) :
    (x.put em live p v).bad = if em = live then x.bad.filter (fun q => q != p) else x.bad := by
  unfold Warp.put; split <;> simp
@[simp] theorem put_rest (x : Warp) (em live : Mask) (p : Place) (v : Reg) :
    { x.put em live p v with regs := x.regs, bank := x.bank, free := x.free, bad := x.bad } = x := by
  unfold Warp.put Warp.clean
  split
  · split <;> cases p <;> rfl
  · cases p <;> rfl

/-- The versions of R28 are what the check counts. -/
theorem versions_spec (c : Iss) (r : Reg) : (∀ q, c.versions (some q) r = c.warp.needs c.em q r) ∧
    c.versions none r = widenCount c.em c.live (.u 0#32) r := by
  have key : ∀ old : Reg, widenCount c.em c.live old r =
      if c.em = 0#32 ∨ old.isV = true then 0
      else if c.em = c.live then (if r.isV then 1 else 0)
      else if (List.range 32).any (fun l => c.em.getLsbD l && r.lane l != old.lane l) then 1 else 0 := by
    intro old
    unfold widenCount widens lanesOf
    rw [List.any_filter]
    by_cases h0 : c.em = 0#32
    · simp [h0]
    · by_cases hv : old.isV = true
      · simp [hv]
      · by_cases hl : c.em = c.live
        · cases hr : r.isV <;> simp_all
        · have hb : (c.em == c.live) = false := by simpa using hl
          simp [h0, hv, hl, hb, bne]
  refine ⟨fun q => ?_, by simp [Iss.versions, key]⟩
  cases q with
  | slot k => simp [Iss.versions, Warp.needs, Warp.getReg, key, show c.warp.live = c.live from rfl]
  | bank k => simp [Iss.versions, Warp.needs]

theorem versions_place (c : Iss) (q : Place) (r : Reg) : c.versions (some q) r = c.warp.needs c.em q r := (versions_spec c r).1 q

theorem foldl_add (xs : List Nat) : ∀ n, xs.foldl (· + ·) n = n + xs.sum := by
  induction xs with
  | nil => simp
  | cons x xs ih => intro n; simp [ih, Nat.add_assoc]

/-- The check of R28 counts the versions of every destination. -/
theorem needs_sum (c : Iss) (ws : List (Option Place × Reg)) : c.needs ws = (ws.map fun e => c.versions e.1 e.2).sum := by
  unfold Iss.needs
  rw [foldl_add, Nat.zero_add]
  congr 1
  refine List.map_congr_left fun e _ => ?_
  obtain ⟨p, r⟩ := e
  cases p with
  | none => exact (versions_spec c r).2.symm
  | some q => exact (versions_place c q r).symm

/-- The free slots after a write that the warp can afford: what the place holds and what is free stay in balance. -/
theorem put_balance {x : Warp} {em : Mask} {unif : Bool} {p : Place} {r : Reg} (hu : unif = true → r.isU = true)
    (hn : x.needs em p r ≤ x.free) (h : x.has p) :
    let y := x.put em x.live p (commitVal em x.live unif (x.getReg p) r)
    y.free + y.held [p] = x.free + x.held [p] ∧ x.free - x.needs em p r ≤ y.free := by
  cases p with
  | bank k => simp [Warp.held, Place.counts, Warp.setReg]
  | slot k =>
    have hg : x.regs.getD k (.u 0#32) = x.getReg (.slot k) := rfl
    simp only [Warp.held, put_getReg, put_free, getReg_setReg_same _ h, Place.counts, Bool.true_and, List.filter_cons, List.filter_nil]
    have hk : ¬ x.regs.length ≤ k := Nat.not_le.2 h
    simp only [Warp.setReg, hg, if_neg hk]
    have hw : (x.getReg (.slot k)).isV = false → (commitVal em x.live unif (x.getReg (.slot k)) r).isV = true →
        x.needs em (.slot k) r = 1 := widens_of_commit hu
    cases ho : (x.getReg (.slot k)).isV <;> cases hv : (commitVal em x.live unif (x.getReg (.slot k)) r).isV <;> simp_all <;> omega

/-- A register of an instruction's warp written with the value of R29. -/
theorem put_wrote {c : Iss} {b : Warp} {q : Place} {unif : Bool} {r : Reg} (hr : b.regs = c.warp.regs)
    (hb : b.bank = c.warp.bank) (hf : b.free = c.warp.free) (hl : b.live = c.warp.live) (hu : unif = true → r.isU = true)
    (hn : c.warp.needs c.em q r ≤ c.warp.free) :
    Wrote c b (b.put c.em c.live q (commitVal c.em c.live unif (c.warp.getReg q) r)) q unif r := by
  have hg : ∀ p, b.getReg p = c.warp.getReg p := fun p => by cases p <;> simp [Warp.getReg, hr, hb]
  have hh : ∀ p, c.warp.has p → b.has p := fun p h => by cases p <;> simp_all [Warp.has]
  refine ⟨fun h => ?_, fun p hp => ?_, fun h k hk => ?_, put_bad .., put_rest ..⟩
  · rw [put_getReg, getReg_setReg_same _ (hh _ h)]
    exact commitVal_merged ..
  · rw [put_getReg, getReg_setReg_other _ hp]
  · subst hk
    have hn' : b.needs c.em (.slot k) r ≤ b.free := by rw [hf]; simpa [Warp.needs, hr, hl] using hn
    have := (put_balance hu hn' (hh _ h)).1
    rw [hl, hg] at this
    simp only [Warp.held, Place.counts, Bool.true_and, List.filter_cons, List.filter_nil, hg] at this
    revert this
    simp only [show c.warp.live = c.live from rfl]
    cases ((b.put c.em c.live (.slot k) (commitVal c.em c.live unif (c.warp.getReg (.slot k)) r)).getReg (.slot k)).isV <;>
      cases (c.warp.getReg (.slot k)).isV <;> simp

/-! ## One register result -/

theorem needs_one (c : Iss) (p : Option Place) (r : Reg) : c.needs [(p, r)] = c.versions p r := by simp [needs_sum]

/-- The result operation does what `Yields` says. -/
theorem resultW_yieldsFrom {s u : State} {c : Iss} {f : Form} {body : Iss → Res} {x0 : Warp → Warp} {nw : Bool} {d : Dst}
    {unif : Bool} {r : Reg} (h : Issues s c f) (hu : unif = true → r.isU = true)
    (hx : ∀ p v, x0 (c.warp.put c.em c.live p v) = (x0 c.warp).put c.em c.live p v) (hr : (x0 c.warp).regs = c.warp.regs)
    (hk : (x0 c.warp).bank = c.warp.bank) (hf : (x0 c.warp).free = c.warp.free) (hl : (x0 c.warp).live = c.warp.live)
    (hw : u.warps = s.warps) (hc : u.clk = s.clk) (hb : body c = c.resultW u x0 nw d unif r) :
    YieldsFrom s u c (x0 c.warp) nw d unif r (execute s f body) := by
  unfold YieldsFrom YieldsAt
  simp only [Iss.resultW, Iss.resultAt, Iss.afford, needs_one] at hb
  split
  · rename_i hn
    rw [if_neg (by omega)] at hb
    exact execute_error h hb
  · rename_i hn
    rw [if_pos (by omega)] at hb
    cases hd : c.dst d with
    | none =>
      simp only [hd] at hb
      exact execute_completeIn h hw hc hb
    | some q =>
      simp only [hd] at hb
      simp only []
      rw [hd, versions_place] at hn
      cases ha : c.acts unif (some q) with
      | false =>
        simp only [ha] at hb
        exact execute_completeIn h hw hc hb
      | true =>
        simp only [ha] at hb
        refine ⟨c.latch unif nw q r, ?_, ?_⟩
        · exact ⟨rfl, rfl, rfl, rfl, rfl, commitVal_merged ..⟩
        · cases nw with
          | true => exact execute_retireToIn h hw hc hb
          | false =>
            refine ⟨x0 (c.commits unif [(q, r)]), ?_, execute_retireToIn h hw hc hb⟩
            have : x0 (c.commits unif [(q, r)]) =
                (x0 c.warp).put c.em c.live q (commitVal c.em c.live unif (c.warp.getReg q) r) := hx ..
            rw [this]
            exact put_wrote hr hk hf hl hu (Nat.le_of_not_lt hn)

/-- The plain result. -/
theorem result_yields {s : State} {c : Iss} {f : Form} {body : Iss → Res} {nw : Bool} {d : Dst} {unif : Bool} {r : Reg}
    (h : Issues s c f) (hu : unif = true → r.isU = true) (hb : body c = c.result s nw d unif r) :
    Yields s c c.warp nw d unif r (execute s f body) :=
  resultW_yieldsFrom (x0 := id) h hu (fun _ _ => rfl) rfl rfl rfl rfl rfl rfl hb

/-- A result of an instruction with an effect beyond its warp. -/
theorem result_yieldsFrom {s u : State} {c : Iss} {f : Form} {body : Iss → Res} {nw : Bool} {d : Dst} {unif : Bool} {r : Reg}
    (h : Issues s c f) (hu : unif = true → r.isU = true) (hw : u.warps = s.warps) (hc : u.clk = s.clk)
    (hb : body c = c.result u nw d unif r) : YieldsFrom s u c c.warp nw d unif r (execute s f body) :=
  resultW_yieldsFrom (x0 := id) h hu (fun _ _ => rfl) rfl rfl rfl rfl hw hc hb

theorem binary_yields {s : State} {c : Iss} {cob nw : Bool} {d : Dst} {a b : Src} {f : Reg → Reg → Reg}
    (h : Issues s c { d := dstOp d, a := srcOp a, b := srcOp b, cob := cob, em0 := .uniform })
    (hu : (c.read .a a).isU = true → (c.read .b b).isU = true → (f (c.read .a a) (c.read .b b)).isU = true) :
    Yields s c c.warp nw d ((c.read .a a).isU && (c.read .b b).isU) (f (c.read .a a) (c.read .b b)) (binary cob s nw d a b f) :=
  result_yields h (by simpa using hu) rfl

theorem unary_yields {s : State} {c : Iss} {cob nw : Bool} {d : Dst} {a : Src} {f : Reg → Reg}
    (h : Issues s c { d := dstOp d, a := srcOp a, cob := cob, em0 := .uniform })
    (hu : (c.read .a a).isU = true → (f (c.read .a a)).isU = true) :
    Yields s c c.warp nw d (c.read .a a).isU (f (c.read .a a)) (unary cob s nw d a f) :=
  result_yields h hu rfl

theorem ternary_yields {s : State} {c : Iss} {cob nw : Bool} {d : Dst} {a b : Src} {f : Word → Word → Word → Word}
    (h : Issues s c { d := dstOp d, a := srcOp a, b := srcOp b, dread := true, cob := cob, em0 := .uniform }) :
    Yields s c c.warp nw d ((c.read .a a).isU && (c.read .b b).isU && (c.oldD d).isU)
      (map3 f (c.read .a a) (c.read .b b) (c.oldD d)) (ternary cob s nw d a b f) :=
  result_yields h (fun hu => shape_isU (map3_shape ..) hu) rfl

/-! ## Several register results -/

@[simp] theorem setReg_live (x : Warp) (p : Place) (r : Reg) : (x.setReg p r).live = x.live := by cases p <;> rfl

theorem setReg_has (x : Warp) (p q : Place) (r : Reg) : (x.setReg p r).has q ↔ x.has q := by
  cases p <;> cases q <;> simp [Warp.setReg, Warp.has]

@[simp] theorem commit_live (x : Warp) (em : Mask) (unif : Bool) (p : Place) (r : Reg) : (x.commit em unif p r).live = x.live := by
  simp [commit_put]

/-- One write: what its place holds then, that no other place changes, what poison it takes away, and that nothing else
changes. -/
theorem commit_spec (x : Warp) (em : Mask) (unif : Bool) (p : Place) (r : Reg) :
    let y := x.commit em unif p r
    (x.has p → y.getReg p = commitVal em x.live unif (x.getReg p) r) ∧ (∀ q, q ≠ p → y.getReg q = x.getReg q) ∧
    (∀ q, y.has q ↔ x.has q) ∧ y.bad = (if em = x.live then x.bad.filter (fun q => q != p) else x.bad) ∧
    { y with regs := x.regs, bank := x.bank, free := x.free, bad := x.bad } = x := by
  simp only [commit_put, put_getReg, put_has, setReg_has, put_bad, put_rest, and_true, implies_true]
  exact ⟨fun h => getReg_setReg_same _ h, fun q hq => getReg_setReg_other _ hq⟩

/-- The writes of an instruction to places that differ: what each place holds after them, what poison they take away, and
that nothing else changes. -/
theorem commits_spec (em : Mask) (unif : Bool) : ∀ (ws : List (Place × Reg)) (x : Warp), (ws.map Prod.fst).Nodup →
    let y := ws.foldl (fun x e => x.commit em unif e.1 e.2) x
    (∀ e ∈ ws, x.has e.1 → y.getReg e.1 = commitVal em x.live unif (x.getReg e.1) e.2) ∧
    (∀ k, k ∉ ws.map Prod.fst → y.getReg k = x.getReg k) ∧
    y.bad = (if em = x.live then x.bad.filter (fun p => !(ws.map Prod.fst).contains p) else x.bad) ∧
    { y with regs := x.regs, bank := x.bank, free := x.free, bad := x.bad } = x
  | [], x, _ => ⟨by simp, fun _ _ => rfl, by simp [List.filter_eq_self.2], rfl⟩
  | e :: ws, x, h => by
    simp only [List.map_cons, List.nodup_cons] at h
    obtain ⟨h1, h2, h3, h4⟩ := commits_spec em unif ws (x.commit em unif e.1 e.2) h.2
    obtain ⟨g1, g2, g3, g4, g5⟩ := commit_spec x em unif e.1 e.2
    refine ⟨fun d hd hh => ?_, fun k hk => ?_, ?_, ?_⟩
    · simp only [List.foldl_cons]
      cases List.mem_cons.1 hd with
      | inl he =>
        subst he
        rw [h2 _ h.1]
        exact g1 hh
      | inr hm =>
        have hne : d.1 ≠ e.1 := fun he => h.1 (he ▸ List.mem_map_of_mem hm)
        rw [h1 d hm ((g3 _).2 hh), g2 _ hne, commit_live]
    · simp only [List.map_cons, List.mem_cons, not_or] at hk
      simp only [List.foldl_cons]
      rw [h2 k hk.2, g2 k hk.1]
    · simp only [List.foldl_cons, h3, g4, commit_live]
      split
      · rw [List.filter_filter]
        refine List.filter_congr fun q _ => ?_
        simp [Bool.and_comm, bne]
      · rfl
    · simp only [List.foldl_cons]
      have h5 := congrArg (fun y : Warp => { y with regs := x.regs, bank := x.bank, free := x.free, bad := x.bad }) h4
      exact h5.trans g5

/-- What the places of a list that do not occur in it twice hold, one by one. -/
theorem held_cons (x : Warp) (p : Place) (ps : List Place) : x.held (p :: ps) = x.held [p] + x.held ps := by
  unfold Warp.held
  rw [show p :: ps = [p] ++ ps from rfl, List.filter_append, List.length_append]

theorem held_congr {x y : Warp} {ps : List Place} (h : ∀ p ∈ ps, x.getReg p = y.getReg p) : x.held ps = y.held ps := by
  unfold Warp.held
  congr 1
  exact List.filter_congr fun p hp => by rw [h p hp]

/-- Writes that the warp can afford keep what the places hold and what is free in balance (R30). -/
theorem commits_balance (em : Mask) (unif : Bool) : ∀ (ws : List (Place × Reg)) (x : Warp), (ws.map Prod.fst).Nodup →
    (∀ e ∈ ws, unif = true → e.2.isU = true) → (∀ e ∈ ws, x.has e.1) → (ws.map fun e => x.needs em e.1 e.2).sum ≤ x.free →
    let y := ws.foldl (fun x e => x.commit em unif e.1 e.2) x
    y.free + y.held (ws.map Prod.fst) = x.free + x.held (ws.map Prod.fst)
  | [], _, _, _, _, _ => by simp [Warp.held]
  | e :: ws, x, h, hu, hh, hn => by
    simp only [List.map_cons, List.nodup_cons, List.sum_cons, List.mem_cons, forall_eq_or_imp] at h hu hh hn
    obtain ⟨g1, g2, g3, g4, g5⟩ := commit_spec x em unif e.1 e.2
    have hb := put_balance hu.1 (by omega) hh.1 (em := em)
    rw [← commit_put] at hb
    have hsame : ∀ d ∈ ws, (x.commit em unif e.1 e.2).getReg d.1 = x.getReg d.1 := fun d hd =>
      g2 _ fun he => h.1 (he ▸ List.mem_map_of_mem hd)
    have hneeds : ∀ d ∈ ws, (x.commit em unif e.1 e.2).needs em d.1 d.2 = x.needs em d.1 d.2 := by
      intro d hd
      have := hsame d hd
      revert this
      cases d.1 with
      | bank k => simp [Warp.needs]
      | slot k => intro hg; simp only [Warp.getReg] at hg; simp only [Warp.needs, commit_live, hg]
    have ih := commits_balance em unif ws (x.commit em unif e.1 e.2) h.2 hu.2 (fun d hd => (g3 _).2 (hh.2 d hd))
      (by rw [List.map_congr_left hneeds]; omega)
    obtain ⟨-, h2, -, -⟩ := commits_spec em unif ws (x.commit em unif e.1 e.2) h.2
    simp only [List.map_cons, List.foldl_cons]
    rw [held_cons, held_cons x, held_congr (ps := [e.1]) (y := x.commit em unif e.1 e.2)
      (fun p hp => by simp only [List.mem_singleton] at hp; exact h2 p (hp ▸ h.1))]
    have hrest : (x.commit em unif e.1 e.2).held (ws.map Prod.fst) = x.held (ws.map Prod.fst) :=
      held_congr fun p hp => by obtain ⟨d, hd, rfl⟩ := List.mem_map.1 hp; exact hsame d hd
    simp only [] at ih
    omega

/-- The operation with several results does what `YieldsAll` says. -/
theorem results_yieldsAll {s u : State} {c : Iss} {f : Form} {body : Iss → Res} {unif : Bool} {ws : List (Place × Reg)}
    (h : Issues s c f) (hn : (ws.map Prod.fst).Nodup) (hu : ∀ e ∈ ws, unif = true → e.2.isU = true) (hw : u.warps = s.warps)
    (hc : u.clk = s.clk) (hb : body c = c.results u unif ws) : YieldsAll s u c unif ws (execute s f body) := by
  unfold YieldsAll
  unfold Iss.results Iss.afford at hb
  rw [needs_sum, List.map_map] at hb
  simp only [Function.comp_def] at hb
  by_cases hq : (ws.map fun e => c.versions (some e.1) e.2).sum ≤ c.warp.free
  · rw [if_pos hq] at hb
    rw [if_neg (Nat.not_lt.2 hq)]
    obtain ⟨h1, h2, h3, h4⟩ := commits_spec c.em unif ws c.warp hn
    have h5 := commits_balance c.em unif ws c.warp hn hu
    simp only [versions_place] at hq
    cases ws with
    | nil =>
      exact ⟨Latch.empty, c.warp, by simp, by simp, by simp, by simp, by simp [List.filter_eq_self.2], rfl,
        execute_completeIn h hw hc (by simpa [Bind.bind, Except.bind, pure, Except.pure] using hb)⟩
    | cons e ws =>
      refine ⟨if c.acts unif (some e.1) then c.latch unif false e.1 e.2 else Latch.empty, c.commits unif (e :: ws), ?_, ?_, h2,
        fun hh => h5 hh hq, h3, h4, execute_retireToIn h hw hc (by simpa [Bind.bind, Except.bind, pure, Except.pure] using hb)⟩
      · intro p r rest he
        simp only [List.cons.injEq] at he
        obtain ⟨he, -⟩ := he
        subst he
        by_cases ha : c.acts unif (some p) = true
        · simp only [ha, if_true]
          exact ⟨rfl, rfl, rfl, rfl, rfl, commitVal_merged ..⟩
        · simp [ha]
      · intro d hd hh
        show Merged c.em c.warp.live unif _ _ _
        rw [show (c.commits unif (e :: ws)).getReg d.1 = _ from h1 d hd hh]
        exact commitVal_merged ..
  · rw [if_neg hq] at hb
    rw [if_pos (Nat.lt_of_not_le hq)]
    exact execute_error h (by simpa [Bind.bind, Except.bind, trapW] using hb)

/-! ## Events -/

/-- An event whose condition holds has its effect, unless a write of it must wait. -/
theorem event_on {s t : State} {e : Bool} (he : e = true) (hb : t.mem.blocked = s.mem.blocked) : event s e t = .next t := by
  simp [event, he, hb]

/-- An event whose condition does not hold has no effect. -/
theorem event_off {s t : State} {e : Bool} (he : e = false) : event s e t = .next s := by
  simp [event, he]

end Sys2Proof.Machine
end

