-- ==== Sys2Proof/Laws/Alu.lean ====
section
/-!
SUPPORT. The results with a shape rule of their own (R26), lane by lane, and what a comparison's lanes are.
-/

namespace Sys2Proof.Machine

theorem addReg_lane (x y : Reg) {l : Nat} (h : l < 32) : (addReg x y).lane l = x.lane l + y.lane l := by
  cases x <;> cases y <;> simp only [addReg, map2_lane _ _ _ h] <;> simp only [Reg.lane] <;> ring

theorem subReg_lane (x y : Reg) {l : Nat} (h : l < 32) : (subReg x y).lane l = x.lane l - y.lane l := by
  cases x <;> cases y <;> simp only [subReg, map2_lane _ _ _ h] <;> simp only [Reg.lane, BitVec.zero_sub] <;> ring

theorem mulReg_lane (x y : Reg) {l : Nat} (h : l < 32) : (mulReg x y).lane l = x.lane l * y.lane l := by
  cases x <;> cases y <;> simp only [mulReg, map2_lane _ _ _ h] <;> simp only [Reg.lane] <;> ring

theorem shlW_mul (x y : Word) : shlW x y = x * BitVec.twoPow 32 (y.toNat % 32) := by
  rw [shlW, BitVec.shiftLeft_eq_mul_twoPow]

theorem shlReg_lane (x y : Reg) {l : Nat} (h : l < 32) : (shlReg x y).lane l = shlW (x.lane l) (y.lane l) := by
  cases x <;> cases y <;> simp only [shlReg, map2_lane _ _ _ h] <;>
    (simp only [Reg.lane, shlW_mul]; try ring)

theorem addReg_shape (x y : Reg) : (addReg x y).shape = shapeSum x y := by cases x <;> cases y <;> rfl
theorem subReg_shape (x y : Reg) : (subReg x y).shape = shapeSum x y := by cases x <;> cases y <;> rfl
theorem mulReg_shape (x y : Reg) : (mulReg x y).shape = shapeProduct x y := by cases x <;> cases y <;> rfl
theorem shlReg_shape (x y : Reg) : (shlReg x y).shape = shapeLeft x y := by cases x <;> cases y <;> rfl

/-- The sum of the powers of two that a mask is made of: below `2 ^ n`, with the bits of the lanes below `n`. -/
theorem powers_spec (f : Nat → Bool) : ∀ n : Nat,
    (List.range n).foldl (fun m l => if f l then m + 2 ^ l else m) 0 < 2 ^ n ∧
      ∀ l, ((List.range n).foldl (fun m l => if f l then m + 2 ^ l else m) 0).testBit l = (decide (l < n) && f l)
  | 0 => by simp
  | n + 1 => by
    obtain ⟨h1, h2⟩ := powers_spec f n
    rw [List.range_succ, List.foldl_append]
    simp only [List.foldl_cons, List.foldl_nil]
    generalize (List.range n).foldl (fun m l => if f l then m + 2 ^ l else m) 0 = m at h1 h2
    cases hf : f n with
    | false =>
      refine ⟨by simp; omega, fun l => ?_⟩
      simp only [Bool.false_eq_true, ↓reduceIte, h2]
      by_cases hl : l = n
      · simp [hl, hf]
      · simp [show l < n + 1 ↔ l < n by omega]
    | true =>
      refine ⟨by simp; omega, fun l => ?_⟩
      simp only [↓reduceIte]
      by_cases hl : l < n
      · rw [Nat.add_comm, Nat.testBit_two_pow_add_gt hl, h2]
        simp [hl, Nat.lt_succ_of_lt hl]
      · by_cases he : l = n
        · subst he
          rw [Nat.add_comm, Nat.testBit_two_pow_add_eq, h2]
          simp [hf]
        · rw [Nat.testBit_lt_two_pow (Nat.lt_of_lt_of_le (show m + 2 ^ n < 2 ^ (n + 1) by omega) (Nat.pow_le_pow_right (by omega) (by omega)))]
          simp
          omega

theorem maskWhere_bit (f : Nat → Bool) {l : Nat} (h : l < 32) : (maskWhere f).getLsbD l = f l := by
  rw [maskWhere, BitVec.getLsbD_ofNat, (powers_spec f 32).2]
  simp [h]

theorem maskWhere_toNat (f : Nat → Bool) :
    (maskWhere f).toNat = (List.range 32).foldl (fun m l => if f l then m + 2 ^ l else m) 0 := by
  simp only [maskWhere, BitVec.toNat_ofNat]
  exact Nat.mod_eq_of_lt (powers_spec f 32).1

end Sys2Proof.Machine
end

