-- ==== Sys2Proof/Laws/Mem.lean ====
section
/-!
SUPPORT. Byte memories: every write keeps the canonical form, a read after a write gives the byte written, and a write
leaves every other byte alone.
-/

namespace Sys2Proof.Machine

/-- The bound of the canonical form: every address of `m` lies above `lo`. -/
def ByteMem.belowAll (lo : Option Nat) (a : Nat) : Prop := ∀ l, lo = some l → l < a

theorem ByteMem.above_cons {lo : Option Nat} {k : Nat} {v : Byte} {t : ByteMem} :
    ByteMem.above lo ((k, v) :: t) = true ↔ ByteMem.belowAll lo k ∧ v ≠ 0#8 ∧ ByteMem.above (some k) t = true := by
  cases lo <;> simp [ByteMem.above, ByteMem.belowAll, and_assoc]

/-- A lower bound may be lowered. -/
theorem ByteMem.above_mono {m : ByteMem} {lo lo' : Option Nat} (h : ByteMem.above lo m = true)
    (hl : ∀ a, ByteMem.belowAll lo a → ByteMem.belowAll lo' a) : ByteMem.above lo' m = true := by
  cases m with
  | nil => rfl
  | cons e t =>
    obtain ⟨h1, h2, h3⟩ := ByteMem.above_cons.1 h
    exact ByteMem.above_cons.2 ⟨hl _ h1, h2, h3⟩

theorem memSet_above {m : ByteMem} {lo : Option Nat} {a : Nat} {b : Byte} (h : ByteMem.above lo m = true)
    (ha : ByteMem.belowAll lo a) : ByteMem.above lo (memSet m a b) = true := by
  induction m generalizing lo with
  | nil =>
    unfold memSet
    split
    · rfl
    · exact ByteMem.above_cons.2 ⟨ha, ‹_›, rfl⟩
  | cons e t ih =>
    obtain ⟨k, v⟩ := e
    obtain ⟨h1, h2, h3⟩ := ByteMem.above_cons.1 h
    unfold memSet
    split
    · split
      · exact h
      · rename_i hlt hb
        refine ByteMem.above_cons.2 ⟨ha, hb, ByteMem.above_cons.2 ⟨?_, h2, h3⟩⟩
        intro l hl
        cases hl
        exact hlt
    · split
      · split
        · exact ByteMem.above_mono h3 fun x hx l hl => Nat.lt_trans (h1 l hl) (hx k rfl)
        · rename_i he hb
          subst he
          exact ByteMem.above_cons.2 ⟨h1, hb, h3⟩
      · refine ByteMem.above_cons.2 ⟨h1, h2, ih h3 ?_⟩
        intro l hl
        cases hl
        omega

@[simp] theorem ByteMem.wf_nil : ByteMem.wf [] = true := rfl

/-- A write of one byte keeps the canonical form. -/
theorem memSet_wf {m : ByteMem} (a : Nat) (b : Byte) (h : ByteMem.wf m = true) : ByteMem.wf (memSet m a b) = true :=
  memSet_above h fun _ hl => nomatch hl

/-- Writes of single bytes keep the canonical form. -/
theorem memPut_wf {m : ByteMem} (ws : List (Nat × Byte)) (h : ByteMem.wf m = true) : ByteMem.wf (memPut m ws) = true := by
  unfold memPut
  induction ws generalizing m with
  | nil => exact h
  | cons w t ih => exact ih (memSet_wf _ _ h)

/-- A run of bytes written keeps the canonical form. -/
theorem memWrite_wf {m : ByteMem} (a : Nat) (bs : List Byte) (h : ByteMem.wf m = true) :
    ByteMem.wf (memWrite m a bs) = true := by
  induction bs generalizing m a with
  | nil => exact h
  | cons b t ih => exact ih _ (memSet_wf _ _ h)

theorem ByteMem.above_filter {m : ByteMem} (p : Nat × Byte → Bool) {lo : Option Nat} (h : ByteMem.above lo m = true) :
    ByteMem.above lo (m.filter p) = true := by
  induction m generalizing lo with
  | nil => rfl
  | cons e t ih =>
    obtain ⟨k, v⟩ := e
    obtain ⟨h1, h2, h3⟩ := ByteMem.above_cons.1 h
    rw [List.filter_cons]
    split
    · exact ByteMem.above_cons.2 ⟨h1, h2, ih h3⟩
    · exact ByteMem.above_mono (ih h3) fun x hx l hl => Nat.lt_trans (h1 l hl) (hx k rfl)

/-- Dropping entries keeps the canonical form. -/
theorem filter_wf {m : ByteMem} (p : Nat × Byte → Bool) (h : ByteMem.wf m = true) : ByteMem.wf (m.filter p) = true :=
  ByteMem.above_filter p h

/-! ## Reads after writes -/

theorem memGet_above {m : ByteMem} {lo : Option Nat} {a : Nat} (h : ByteMem.above lo m = true)
    (ha : ¬ ByteMem.belowAll lo a) : memGet m a = 0#8 := by
  induction m generalizing lo with
  | nil => rfl
  | cons e t ih =>
    obtain ⟨k, v⟩ := e
    obtain ⟨h1, -, h3⟩ := ByteMem.above_cons.1 h
    unfold memGet
    split
    · rename_i hk
      subst hk
      exact absurd h1 ha
    · refine ih h3 fun hk => ha fun l hl => ?_
      exact Nat.lt_trans (h1 l hl) (hk k rfl)

/-- The byte written is the byte read, and every other byte reads as before. -/
theorem memGet_memSet {m : ByteMem} (h : ByteMem.wf m = true) (a x : Nat) (b : Byte) :
    memGet (memSet m a b) x = if x = a then b else memGet m x := by
  unfold ByteMem.wf at h
  generalize none = lo at h
  induction m generalizing lo with
  | nil =>
    unfold memSet
    split <;> split <;> simp_all [memGet] <;> omega
  | cons e t ih =>
    obtain ⟨k, v⟩ := e
    obtain ⟨h1, h2, h3⟩ := ByteMem.above_cons.1 h
    have hk : ∀ y, y ≤ k → memGet t y = 0#8 := fun y hy =>
      memGet_above h3 fun hb => absurd (hb k rfl) (by omega)
    unfold memSet
    split
    · split
      · rename_i hlt hb
        split
        · rename_i hx
          subst hx
          rw [memGet, if_neg (by omega), hb]
          exact hk _ (by omega)
        · rfl
      · rw [memGet]
        split <;> split <;> first | rfl | omega
    · split
      · rename_i he
        subst he
        split
        · rename_i hb
          split
          · rename_i hx
            subst hx
            rw [hb]
            exact hk _ (Nat.le_refl _)
          · rename_i hx
            rw [memGet, if_neg (by omega)]
        · rw [memGet, memGet]
          split <;> split <;> first | rfl | omega
      · rename_i hn
        rw [memGet, memGet, ih _ h3]
        split <;> split <;> first | rfl | omega

/-- A read after a write of the same byte. -/
theorem memGet_memSet_same {m : ByteMem} (h : ByteMem.wf m = true) (a : Nat) (b : Byte) : memGet (memSet m a b) a = b := by
  simp [memGet_memSet h]

/-- A write leaves every other byte alone. -/
theorem memGet_memSet_other {m : ByteMem} (h : ByteMem.wf m = true) {a x : Nat} (b : Byte) (hx : x ≠ a) :
    memGet (memSet m a b) x = memGet m x := by
  simp [memGet_memSet h, hx]

/-- A run of bytes written: inside it the byte written, outside it every byte as before. -/
theorem memGet_memWrite {m : ByteMem} (h : ByteMem.wf m = true) (a x : Nat) (bs : List Byte) :
    memGet (memWrite m a bs) x = if a ≤ x ∧ x < a + bs.length then bs.getD (x - a) 0#8 else memGet m x := by
  induction bs generalizing m a with
  | nil => simp [memWrite] <;> omega
  | cons b t ih =>
    rw [memWrite, ih (memSet_wf _ _ h), memGet_memSet h]
    simp only [List.length_cons]
    by_cases hx : x = a
    · subst hx
      simp <;> (intro hlt; omega)
    · by_cases hi : a + 1 ≤ x ∧ x < a + 1 + t.length
      · have : x - a = x - (a + 1) + 1 := by omega
        rw [if_pos hi, if_pos (by omega), this]
        rfl
      · rw [if_neg hi, if_neg hx, if_neg (by omega)]

@[simp] theorem leBytes_length (v n : Nat) : (leBytes v n).length = n := by
  induction n generalizing v with
  | zero => rfl
  | succ n ih => simp [leBytes, ih]

/-- The bytes of a value give the value back. -/
theorem leNat_leBytes (v n : Nat) : leNat (leBytes v n) = v % 256 ^ n := by
  induction n generalizing v with
  | zero => simp [leBytes, leNat, Nat.mod_one]
  | succ n ih =>
    simp only [leBytes, leNat, ih, BitVec.toNat_ofNat, Nat.reducePow]
    have := Nat.mod_mul (x := v) (a := 256) (b := 256 ^ n)
    rw [Nat.pow_add_one, Nat.mul_comm (256 ^ n) 256, this]

end Sys2Proof.Machine
end

