-- ==== Sys2Proof/Laws/Home.lean ====
section
/-!
SUPPORT. What an operation on memory, caches or rings can do: it touches no warp, team, crew, launch, core, fuse, clock or order
of issue, and it keeps every memory in its canonical form. One lemma for each operation.
-/

namespace Sys2Proof.Machine

/-- `t` comes from `s` by operations on memory, caches, rings and registers of the window. -/
structure MemoryOnly (s t : State) : Prop where
  warps : t.warps = s.warps
  teams : t.teams = s.teams
  crews : t.crews = s.crews
  launches : t.launches = s.launches
  cores : t.cores = s.cores
  clk : t.clk = s.clk
  sched : t.sched = s.sched
  fuses : t.fuses = s.fuses
  inv : MemInv s → MemInv t

namespace MemoryOnly

theorem refl (s : State) : MemoryOnly s s := ⟨rfl, rfl, rfl, rfl, rfl, rfl, rfl, rfl, id⟩

theorem trans {s t u : State} (h : MemoryOnly s t) (k : MemoryOnly t u) : MemoryOnly s u :=
  ⟨k.warps.trans h.warps, k.teams.trans h.teams, k.crews.trans h.crews, k.launches.trans h.launches, k.cores.trans h.cores,
    k.clk.trans h.clk, k.sched.trans h.sched, k.fuses.trans h.fuses, fun i => k.inv (h.inv i)⟩

/-- An operation done for each element of a list, with what else it accumulates. -/
theorem foldl {α β : Type} {f : β → α → β} {p : β → State} (h : ∀ b a, MemoryOnly (p b) (p (f b a))) :
    ∀ (xs : List α) (b : β), MemoryOnly (p b) (p (xs.foldl f b))
  | [], _ => refl _
  | x :: xs, b => (h b x).trans (foldl h xs (f b x))

theorem ite {s t u : State} {p : Prop} [Decidable p] (h : MemoryOnly s t) (k : MemoryOnly s u) :
    MemoryOnly s (if p then t else u) := by
  split
  · exact h
  · exact k

/-- A new memory in its canonical form. -/
theorem mem {s : State} {m : Memory} (h : s.mem.wf = true → m.wf = true) : MemoryOnly s { s with mem := m } :=
  ⟨rfl, rfl, rfl, rfl, rfl, rfl, rfl, rfl, fun i => ⟨h i.1, i.2⟩⟩

/-- A new state of the firmware beside it. -/
theorem fw {s : State} {x : Firmware} {m : Memory} (h : s.mem.wf = true → m.wf = true) :
    MemoryOnly s { s with fw := x, mem := m } :=
  ⟨rfl, rfl, rfl, rfl, rfl, rfl, rfl, rfl, fun i => ⟨h i.1, i.2⟩⟩

/-- A cluster changed, its SRAM in its canonical form. -/
theorem cluster {s : State} {k : Nat} {f : Cluster → Cluster}
    (h : ∀ x, ByteMem.wf x.sram = true → ByteMem.wf (f x).sram = true) : MemoryOnly s (s.mapCluster k f) :=
  ⟨rfl, rfl, rfl, rfl, rfl, rfl, rfl, rfl, fun i => ⟨i.1, updAt_forall i.2 fun x m => h x (i.2 x m)⟩⟩

/-- Contexts, the window, the memory processor, snapshots and the firmware hold no memory. -/
theorem ctx (s : State) (c : Nat) (f : Context → Context) : MemoryOnly s (s.mapCtx c f) :=
  ⟨rfl, rfl, rfl, rfl, rfl, rfl, rfl, rfl, fun i => i⟩

theorem win (s : State) (w : Window) : MemoryOnly s { s with win := w } := ⟨rfl, rfl, rfl, rfl, rfl, rfl, rfl, rfl, fun i => i⟩

theorem snap (s : State) (x : Snap) : MemoryOnly s { s with snap := x } := ⟨rfl, rfl, rfl, rfl, rfl, rfl, rfl, rfl, fun i => i⟩

end MemoryOnly

theorem Memory.wf_iff {m : Memory} : m.wf = true ↔ ByteMem.wf m.home = true ∧ ByteMem.wf m.host = true := by
  simp [Memory.wf]

/-! ## Homes and L2 -/

theorem evictL2_only (s : State) (asid va : Nat) : MemoryOnly s (evictL2 s asid va) := by
  refine MemoryOnly.trans (MemoryOnly.foldl (p := id) (fun s x => ?_) _ s) (.mem fun h => h)
  refine .ite (.mem fun h => Memory.wf_iff.2 ⟨memWrite_wf _ _ (Memory.wf_iff.1 h).1, (Memory.wf_iff.1 h).2⟩) (.refl s)

theorem purgeL2_only (s : State) (p : Line → Bool) : MemoryOnly s (purgeL2 s p) :=
  MemoryOnly.foldl (p := id) (fun s _ => evictL2_only s _ _) _ s

theorem makeRoomL2_only (s : State) (k h : Nat) : MemoryOnly s (makeRoomL2 s k h) := by
  unfold makeRoomL2
  refine .ite (.refl s) ?_
  split
  · exact .refl s
  · exact evictL2_only ..

theorem touchL2By_only (s : State) (c : Nat) (l : Leaf) (va h : Nat) : MemoryOnly s (touchL2By s c l va h) := by
  unfold touchL2By
  refine .ite (.refl s) ?_
  split
  · exact .mem fun h => h
  · exact .ite ((makeRoomL2_only s _ h).trans (.mem fun h => h)) (makeRoomL2_only s _ h)

theorem touchL2_only (s : State) (c : Nat) (l : Leaf) (va : Nat) : MemoryOnly s (touchL2 s c l va) := touchL2By_only ..

theorem copyBlock_only (s : State) (c : Nat) (l : Leaf) (va : Nat) : MemoryOnly s (copyBlock s c l va) := by
  unfold copyBlock
  exact .ite (.ite (.mem fun h => h) (.snap s _)) (.refl s)

theorem markChunk_only (s : State) (c : Nat) (l : Leaf) (va : Nat) : MemoryOnly s (markChunk s c l va) := by
  unfold markChunk
  exact .ite (.snap s _) (.refl s)

theorem ctlWrite_only (s : State) (pa : Nat) (ws : List (Nat × Byte)) (carried : List Bool) :
    MemoryOnly s (ctlWrite s pa ws carried) :=
  .mem fun h => Memory.wf_iff.2 ⟨memPut_wf _ (Memory.wf_iff.1 h).1, (Memory.wf_iff.1 h).2⟩

theorem dataWay_only (k : Arrival) (s : State) (c : Nat) (l : Leaf) (va : Nat) (ws : List (Nat × Byte)) (n : Nat) :
    MemoryOnly s (dataWay k s c l va ws n) := by
  unfold dataWay
  split
  · exact .refl s
  · have h := makeRoomL2_only s n k.hint
    exact .ite (.ite h (h.trans (evictL2_only ..))) (.refl s)

theorem homeWriteBy_only (k : Arrival) (s : State) (c : Nat) (l : Leaf) (va : Nat) (ws : List (Nat × Byte)) :
    MemoryOnly s (homeWriteBy k s c l va ws) := by
  unfold homeWriteBy
  dsimp only
  split
  · refine .ite (.refl s) ?_
    have h1 := ((copyBlock_only s c l va).trans (markChunk_only _ c l va)).trans (touchL2By_only _ c l va k.hint)
    have h2 := h1.trans (dataWay_only k _ c l va ws ‹Nat›)
    exact .ite (h2.trans (.mem fun h => h)) (h2.trans (ctlWrite_only ..))
  · exact .mem fun h => Memory.wf_iff.2 ⟨(Memory.wf_iff.1 h).1, memPut_wf _ (Memory.wf_iff.1 h).2⟩
  · exact .refl s

theorem gate_only (s : State) (c : Nat) (l : Leaf) (va : Nat) : MemoryOnly s (gate s c l va) := by
  unfold gate
  exact .ite (.mem fun h => h) (.ite (.mem fun h => h) (.refl s))

theorem homeWrite_only (s : State) (c : Nat) (l : Leaf) (va : Nat) (ws : List (Nat × Byte)) :
    MemoryOnly s (homeWrite s c l va ws) := homeWriteBy_only ..

theorem agentWriteBy_only (k : Arrival) (s : State) (c : Nat) (l : Leaf) (va : Nat) (ws : List (Nat × Byte)) :
    MemoryOnly s (agentWriteBy k s c l va ws) := (gate_only s c l va).trans (homeWriteBy_only ..)

theorem agentWrite_only (s : State) (c : Nat) (l : Leaf) (va : Nat) (ws : List (Nat × Byte)) :
    MemoryOnly s (agentWrite s c l va ws) := agentWriteBy_only ..

theorem homeStore_only (s : State) (c : Nat) (l : Leaf) (va : Nat) (bs : List Byte) : MemoryOnly s (homeStore s c l va bs) :=
  MemoryOnly.foldl (p := id) (fun s _ => homeWriteBy_only _ s c l _ _) _ s

theorem agentStore_only (s : State) (c : Nat) (l : Leaf) (va : Nat) (bs : List Byte) : MemoryOnly s (agentStore s c l va bs) :=
  MemoryOnly.foldl (p := id) (fun s _ => agentWriteBy_only _ s c l _ _) _ s

/-! ## Interrupts and rings -/

theorem host_wf {s : State} (a : Nat) (bs : List Byte) (h : s.mem.wf = true) :
    Memory.wf { s.mem with host := memWrite s.mem.host a bs } = true :=
  Memory.wf_iff.2 ⟨(Memory.wf_iff.1 h).1, memWrite_wf _ _ (Memory.wf_iff.1 h).2⟩

theorem host2_wf {s : State} (a b : Nat) (bs cs : List Byte) (h : s.mem.wf = true) :
    Memory.wf { s.mem with host := memWrite (memWrite s.mem.host a bs) b cs } = true :=
  Memory.wf_iff.2 ⟨(Memory.wf_iff.1 h).1, memWrite_wf _ _ (memWrite_wf _ _ (Memory.wf_iff.1 h).2)⟩

theorem home_wf {s : State} (a : Nat) (bs : List Byte) (h : s.mem.wf = true) :
    Memory.wf { s.mem with home := memWrite s.mem.home a bs } = true :=
  Memory.wf_iff.2 ⟨memWrite_wf _ _ (Memory.wf_iff.1 h).1, (Memory.wf_iff.1 h).2⟩

theorem raiseMsi_only (s : State) (v : Nat) : MemoryOnly s (raiseMsi s v) :=
  ⟨rfl, rfl, rfl, rfl, rfl, rfl, rfl, rfl, fun i => ⟨host_wf _ _ i.1, i.2⟩⟩

theorem firmStore_only (s : State) (c a : Nat) (bs : List Byte) : MemoryOnly s (firmStore s c a bs) := by
  refine MemoryOnly.foldl (p := id) (fun s i => ?_) _ s
  show MemoryOnly s _
  dsimp only [id]
  split
  · exact homeStore_only ..
  · exact .refl s

theorem ringPut_only (s : State) (c va : Nat) (ws : List Word) : MemoryOnly s (ringPut s c va ws) := firmStore_only ..

theorem writeGroup_only {s t : State} {c : Nat} {g : List (List Word)} (h : writeGroup s c g = some t) : MemoryOnly s t := by
  unfold writeGroup at h
  dsimp only at h
  split at h
  · cases h
  · split at h
    · cases h
    · injection h with h
      subst h
      have h1 : ∀ (n : Nat) (f : Nat → Nat) (w : Nat → List Word) (s : State),
          MemoryOnly s ((List.range n).foldl (fun s i => ringPut s c (f i) (w i)) s) := fun n f w s =>
        MemoryOnly.foldl (p := id) (fun s i => ringPut_only s c _ _) _ s
      split
      · exact (((((h1 _ _ _ s).trans (h1 _ _ _ _)).trans (ringPut_only _ c _ _)).trans (.ctx _ c _)).trans (raiseMsi_only _ _))
      · exact ((((h1 _ _ _ s).trans (h1 _ _ _ _)).trans (ringPut_only _ c _ _)).trans (.ctx _ c _))

theorem postGroup_only (s : State) (c : Nat) (g : List (List Word)) : MemoryOnly s (postGroup s c g) := by
  unfold postGroup
  refine .ite ?_ (.ctx s c _)
  cases h : writeGroup s c g with
  | none => exact .ctx s c _
  | some t => exact writeGroup_only h

theorem postMalformed_only (s : State) (c : Nat) (vas : List Nat) (w : Who) : MemoryOnly s (postMalformed s c vas w) :=
  MemoryOnly.foldl (p := id) (fun s _ => postGroup_only s c _) _ s

theorem ctxPut_only (s : State) (c va : Nat) (ws : List Word) : MemoryOnly s (ctxPut s c va ws) :=
  (postMalformed_only ..).trans (ringPut_only ..)

theorem telemetry_only (s : State) (kind unit count : Nat) (detail : List (Nat × Nat)) :
    MemoryOnly s (telemetry s kind unit count detail) := by
  unfold telemetry
  exact .ite (.fw fun h => host_wf _ _ h)
    (.fw fun h => host2_wf _ _ _ _ h)

/-! ## The cluster L1 -/

theorem mapL1_only (s : State) (k : Nat) (f : List Line → List Line) : MemoryOnly s (s.mapL1 k f) := .cluster fun _ h => h

theorem l1Drop_only (s : State) (k asid va : Nat) : MemoryOnly s (l1Drop s k asid va) := mapL1_only ..
theorem l1Put_only (s : State) (k : Nat) (x : Line) : MemoryOnly s (l1Put s k x) := mapL1_only ..

theorem awaitPeer_only (s : State) (k : Nat) (x : Line) : MemoryOnly s (awaitPeer s k x) := by
  unfold awaitPeer
  split
  · exact .ite (.fw fun h => h) (.refl s)
  · exact .refl s

theorem reportCurrent_only (s : State) (x : Line) : MemoryOnly s (reportCurrent s x) := by
  unfold reportCurrent
  split
  · exact postGroup_only ..
  · exact .refl s

theorem offer_only (s : State) (k : Nat) (x : Line) : MemoryOnly s (offer s k x).1 := by
  unfold offer
  split
  · exact .refl s
  · split
    · exact reportCurrent_only ..
    · exact (agentWriteBy_only ..).trans (awaitPeer_only ..)

theorem evictL1_only (s : State) (k : Nat) (x : Line) : MemoryOnly s (evictL1 s k x) := by
  refine MemoryOnly.trans ?_ (l1Drop_only ..)
  exact .ite ((offer_only s k x).trans (postGroup_only ..)) (offer_only s k x)

theorem cleanL1_only (s : State) (k : Nat) (x : Line) : MemoryOnly s (cleanL1 s k x) := by
  unfold cleanL1
  exact .ite (((offer_only s k x).trans (postGroup_only ..)).trans (l1Drop_only ..)) ((offer_only s k x).trans (mapL1_only ..))

theorem flushLine_only (s : State) (k c va : Nat) : MemoryOnly s (flushLine s k c va) := by
  unfold flushLine
  split
  · exact .refl s
  · exact evictL1_only ..

theorem flushRange_only (s : State) (k c va n : Nat) : MemoryOnly s (flushRange s k c va n) :=
  MemoryOnly.foldl (p := id) (fun s _ => flushLine_only s k c _) _ s

theorem makeRoom_only (s : State) (k va h : Nat) : MemoryOnly s (makeRoom s k va h) := by
  unfold makeRoom
  refine .ite (.refl s) ?_
  split
  · exact .refl s
  · exact evictL1_only ..

theorem l1Get_only (s : State) (k c : Nat) (l : Leaf) (va h : Nat) : MemoryOnly s (l1Get s k c l va h).1 := by
  unfold l1Get
  split
  · exact l1Put_only ..
  · have h1 := (makeRoom_only s k va h).trans (touchL2By_only _ c l va h)
    split
    · exact touchL2By_only ..
    · dsimp only
      split
      · exact h1.trans (l1Put_only ..)
      · exact h1

theorem loadLine_only (s : State) (k c : Nat) (l : Leaf) (va h : Nat) : MemoryOnly s (loadLine s k c l va h).1 := by
  have hg := l1Get_only s k c l va h
  unfold loadLine
  split <;> simp_all

theorem storeLine_only (s : State) (k c : Nat) (l : Leaf) (va h : Nat) (ws : List (Nat × Byte)) :
    MemoryOnly s (storeLine s k c l va h ws) := by
  have hg := l1Get_only s k c l va h
  unfold storeLine
  split
  · rename_i t x e
    rw [e] at hg
    exact MemoryOnly.trans (t := t) hg (l1Put_only ..)
  · rename_i t e
    rw [e] at hg
    exact MemoryOnly.trans (t := t) hg (agentWriteBy_only ..)

theorem loadBytes_only (s : State) (k c h : Nat) (as : List (Nat × Leaf)) : MemoryOnly s (loadBytes s k c h as).1 := by
  unfold loadBytes
  refine MemoryOnly.foldl (p := fun b : State × List (Nat × List Byte × List Bool) => b.1) (fun b va => ?_) _ (s, [])
  dsimp only
  split
  · exact .refl _
  · exact loadLine_only ..

theorem storeBytes_only (s : State) (k c h : Nat) (as : List (Nat × Leaf × Byte)) : MemoryOnly s (storeBytes s k c h as) := by
  refine MemoryOnly.foldl (p := id) (fun s va => ?_) _ s
  dsimp only [id]
  split
  · exact .refl s
  · exact storeLine_only ..

theorem landRun_only (s : State) (k c va : Nat) (bs : List Byte) : MemoryOnly s (landRun s k c va bs) := by
  refine (flushRange_only s k c va bs.length).trans (MemoryOnly.foldl (p := id) (fun s i => ?_) _ _)
  exact .ite (agentWrite_only ..) (.refl s)

/-! ## Boundaries and fetching -/

theorem releaseLine_only (instr : Option Who) (k : Nat) (b : State × Nat × Nat) (x : Line) :
    MemoryOnly b.1 (releaseLine instr k b x).1 := by
  unfold releaseLine
  dsimp only
  split
  · exact ((offer_only b.1 k x).trans (postGroup_only ..)).trans (l1Drop_only ..)
  · exact (offer_only b.1 k x).trans (mapL1_only ..)

theorem releaseLines_only (s : State) (k : Nat) (sc : Scope) (instr : Option Who) : MemoryOnly s (releaseLines s k sc instr).1 :=
  MemoryOnly.foldl (p := Prod.fst) (fun b x => releaseLine_only instr k b x) _ (s, 0, 0)

theorem release_only (s : State) (k : Nat) (sc : Scope) (instr : Option Who) : MemoryOnly s (release s k sc instr).1 := by
  unfold release
  split
  · exact .refl s
  · exact releaseLines_only ..

theorem releaseDevice_only (s : State) (k c n : Nat) : MemoryOnly s (releaseDevice s k c n) := releaseLines_only ..

theorem acquireAll_only (s : State) (k : Nat) : MemoryOnly s (acquireAll s k) := .cluster fun _ h => h

theorem acquire_only (s : State) (k : Nat) (sc : Scope) : MemoryOnly s (acquire s k sc) := by
  unfold acquire
  exact .ite (.refl s) (acquireAll_only s k)

theorem fetchWord_only (s : State) (k c : Nat) (l : Leaf) (va : Nat) : MemoryOnly s (fetchWord s k c l va).1 := by
  unfold fetchWord
  split
  · exact .refl s
  · exact (touchL2_only s c l _).trans (.cluster fun _ h => h)

theorem sieveLine_only (s : State) (k c : Nat) (l : Leaf) (va : Nat) : MemoryOnly s (sieveLine s k c l va).1 := by
  unfold sieveLine
  split
  · exact .refl s
  · exact (touchL2_only s c l _).trans (.cluster fun _ h => h)

/-! ## Scratchpads, atomics, engines -/

theorem scratchPut_only (s : State) (crew : Nat) (ws : List (Nat × Byte)) : MemoryOnly s (scratchPut s crew ws) :=
  .cluster fun _ h => memPut_wf _ h

theorem objPut_only (s : State) (crew off o : Nat) : MemoryOnly s (objPut s crew off o) := scratchPut_only ..

theorem setBank_only (s : State) (k b mode : Nat) (owner : Option Nat) : MemoryOnly s (setBank s k b mode owner) := by
  refine MemoryOnly.trans (.ite ?_ (.refl s)) (.cluster fun _ h => filter_wf _ h)
  exact MemoryOnly.foldl (p := id) (fun s _ => evictL1_only s k _) _ s

theorem atomHome_only (s : State) (k c : Nat) (l : Leaf) (va : Nat) (f : Word → Word) (o : Option Word) :
    MemoryOnly s (atomHome s k c l va f o).1 :=
  (flushLine_only s k c va).trans (agentWrite_only ..)

theorem atomL1_only (s : State) (k c : Nat) (l : Leaf) (va : Nat) (f : Word → Word) : MemoryOnly s (atomL1 s k c l va f).1 :=
  (loadBytes_only ..).trans (storeBytes_only ..)

theorem atomAt_only (s : State) (k c : Nat) (home : Bool) (va : Nat) (f : Word → Word) (o : Option Word) :
    MemoryOnly s (atomAt s k c home va f o).1 := by
  unfold atomAt
  dsimp only
  split
  · exact atomL1_only ..
  · exact atomHome_only ..

theorem atomLanes_only (c : Iss) (s : State) (home : Bool) (addr : Nat → Nat) (f : Nat → Word → Word) :
    MemoryOnly s (c.atomLanes s home addr f).1 :=
  MemoryOnly.foldl (p := fun b : State × List (Nat × Word) × List Nat × List (Nat × Word) => b.1)
    (fun b l => atomAt_only b.1 c.cluster _ home (addr l) (f l) _) _ (s, [], [], [])

theorem loadLanes_only (c : Iss) (s : State) (h width : Nat) (vas : Nat → List Nat) : MemoryOnly s (c.loadLanes s h width vas).1 :=
  loadBytes_only ..

theorem storeLanes_only (c : Iss) (s : State) (h : Nat) (vas : Nat → List Nat) (data : Nat → List Byte) :
    MemoryOnly s (c.storeLanes s h vas data) := storeBytes_only ..

theorem agent_read_only (g : Agent) (s : State) (spad : Bool) (as : List Nat) : MemoryOnly s (g.read s spad as).1 := by
  unfold Agent.read
  split
  · exact .refl s
  · exact loadBytes_only ..

theorem agent_store_only (g : Agent) (s : State) (spad : Bool) (ws : List (Nat × Byte)) : MemoryOnly s (g.store s spad ws) := by
  unfold Agent.store
  exact .ite (scratchPut_only ..) (storeBytes_only ..)

theorem agent_land_only (g : Agent) (s : State) (spad : Bool) (ws : List BitWrite) : MemoryOnly s (g.land s spad ws) := by
  unfold Agent.land
  refine .ite (scratchPut_only ..) (MemoryOnly.foldl (p := id) (fun s line => ?_) _ s)
  exact (flushLine_only ..).trans (agentWrite_only ..)

/-- Reset's memories are in their canonical form. -/
theorem reset_memInv : MemInv State.reset := by
  refine ⟨rfl, fun k h => ?_⟩
  rw [show State.reset.clusters = List.replicate 192 Cluster.reset from rfl] at h
  rw [List.eq_of_mem_replicate h]
  rfl

end Sys2Proof.Machine
end

