-- ==== Sys2Proof/Laws/PerInstr.lean ====
section
/-!
SUPPORT. The family Encodable: the encoding of every well-formed instruction is a word of 32 bits, one lemma for each constructor.
-/

namespace Sys2Proof

theorem Src.code_lt {a : Src} (h : a.wf = true) : a.code < 120 := by
  cases a <;> simp_all [Src.wf, Src.code] <;> omega

theorem Dst.code_lt {d : Dst} (h : d.wf = true) : d.code < 120 := by
  cases d <;> simp_all [Dst.wf, Dst.code]
  omega

theorem MemWidth.code_lt (w : MemWidth) : w.code < 8 := by cases w <;> decide

theorem LdReg.code_lt {d : LdReg} {w : MemWidth} (h : d.wf w = true) : d.code < 120 := by
  cases d with
  | one d =>
    simp only [LdReg.wf, Bool.and_eq_true] at h
    exact Dst.code_lt h.2
  | group n => simp_all [LdReg.wf, LdReg.code]; omega

theorem StReg.code_lt {d : StReg} {w : MemWidth} (h : d.wf w = true) : d.code < 120 := by
  cases d with
  | one d =>
    simp only [StReg.wf, Bool.and_eq_true] at h
    exact Src.code_lt h.2
  | group n => simp_all [StReg.wf, StReg.code]; omega

theorem b2n_lt (b : Bool) : b2n b < 2 := by cases b <;> decide

namespace Laws.Encodable

/-- A well-formed instruction's encoding has 32 bits. -/
def Statement (i : Instr) : Prop := WellFormed i → encode i < 2 ^ 32

theorem encAdd_lt {base : Nat} {nw : Bool} {d : Dst} {a : Src} {b : Src} (hw : (d.wf && a.wf && b.wf) = true) (hb : base + 64995184 < 2 ^ 32) :
    encAdd base nw d a b < 2 ^ 32 := by
  simp only [Bool.and_eq_true] at hw
  have := b2n_lt nw
  have := Dst.code_lt (d := d) (by simp_all)
  have := Src.code_lt (a := a) (by simp_all)
  have := Src.code_lt (a := b) (by simp_all)
  unfold encAdd
  omega

theorem encClz_lt {base : Nat} {nw : Bool} {d : Dst} {a : Src} (hw : (d.wf && a.wf) = true) (hb : base + 64993280 < 2 ^ 32) :
    encClz base nw d a < 2 ^ 32 := by
  simp only [Bool.and_eq_true] at hw
  have := b2n_lt nw
  have := Dst.code_lt (d := d) (by simp_all)
  have := Src.code_lt (a := a) (by simp_all)
  unfold encClz
  omega

theorem encAddi_lt {base : Nat} {nw : Bool} {d : Dst} {a : Src} {imm : Nat} (hw : (d.wf && a.wf && decide (imm < 2048)) = true) (hb : base + 64995327 < 2 ^ 32) :
    encAddi base nw d a imm < 2 ^ 32 := by
  simp only [Bool.and_eq_true, decide_eq_true_eq] at hw
  have := b2n_lt nw
  have := Dst.code_lt (d := d) (by simp_all)
  have := Src.code_lt (a := a) (by simp_all)
  unfold encAddi
  omega

theorem encShiShl_lt {base : Nat} {nw : Bool} {d : Dst} {a : Src} {amt : Nat} (hw : (d.wf && a.wf && decide (amt < 32)) = true) (hb : base + 64993311 < 2 ^ 32) :
    encShiShl base nw d a amt < 2 ^ 32 := by
  simp only [Bool.and_eq_true, decide_eq_true_eq] at hw
  have := b2n_lt nw
  have := Dst.code_lt (d := d) (by simp_all)
  have := Src.code_lt (a := a) (by simp_all)
  unfold encShiShl
  omega

theorem encLi_lt {base : Nat} {nw : Bool} {d : Dst} {imm : Nat} (hw : (d.wf && decide (imm < 262144)) = true) (hb : base + 65011711 < 2 ^ 32) :
    encLi base nw d imm < 2 ^ 32 := by
  simp only [Bool.and_eq_true, decide_eq_true_eq] at hw
  have := b2n_lt nw
  have := Dst.code_lt (d := d) (by simp_all)
  unfold encLi
  omega

theorem encCmp_lt {base : Nat} {cond : Nat} {pd : Nat} {a : Src} {b : Src} {pc : Nat} {cmb : Nat} (hw : (decide (cond < 12) && decide (pd < 8) && a.wf && b.wf && decide (pc < 8) && decide (cmb < 3) && (cmb != 0 || pc == 0)) = true) (hb : base + 50298622 < 2 ^ 32) :
    encCmp base cond pd a b pc cmb < 2 ^ 32 := by
  simp only [Bool.and_eq_true, decide_eq_true_eq] at hw
  have := Src.code_lt (a := a) (by simp_all)
  have := Src.code_lt (a := b) (by simp_all)
  unfold encCmp
  omega

theorem encCmpi_lt {base : Nat} {cond : Nat} {pd : Nat} {a : Src} {imm : Nat} (hw : (decide (cond < 12) && decide (pd < 8) && a.wf && decide (imm < 4096)) = true) (hb : base + 50298879 < 2 ^ 32) :
    encCmpi base cond pd a imm < 2 ^ 32 := by
  simp only [Bool.and_eq_true, decide_eq_true_eq] at hw
  have := Src.code_lt (a := a) (by simp_all)
  unfold encCmpi
  omega

theorem encFcmp_lt {base : Nat} {cond : Nat} {pd : Nat} {a : Src} {b : Src} {pc : Nat} {cmb : Nat} (hw : (decide (cond < 8) && decide (pd < 8) && a.wf && b.wf && decide (pc < 8) && decide (cmb < 3) && (cmb != 0 || pc == 0)) = true) (hb : base + 33521406 < 2 ^ 32) :
    encFcmp base cond pd a b pc cmb < 2 ^ 32 := by
  simp only [Bool.and_eq_true, decide_eq_true_eq] at hw
  have := Src.code_lt (a := a) (by simp_all)
  have := Src.code_lt (a := b) (by simp_all)
  unfold encFcmp
  omega

theorem encCvt_lt {base : Nat} {nw : Bool} {d : Dst} {a : Src} {rnd : Nat} {src : Nat} {dst : Nat} (hw : (d.wf && a.wf && decide (rnd < 6) && decide (src < 15) && decide (dst < 15)) = true) (hb : base + 64994798 < 2 ^ 32) :
    encCvt base nw d a rnd src dst < 2 ^ 32 := by
  simp only [Bool.and_eq_true, decide_eq_true_eq] at hw
  have := b2n_lt nw
  have := Dst.code_lt (d := d) (by simp_all)
  have := Src.code_lt (a := a) (by simp_all)
  unfold encCvt
  omega

theorem encSel_lt {base : Nat} {nw : Bool} {d : Dst} {a : Src} {b : Src} {p : Nat} {inv : Bool} (hw : (d.wf && a.wf && b.wf && decide (p < 8)) = true) (hb : base + 64995199 < 2 ^ 32) :
    encSel base nw d a b p inv < 2 ^ 32 := by
  simp only [Bool.and_eq_true, decide_eq_true_eq] at hw
  have := b2n_lt nw
  have := Dst.code_lt (d := d) (by simp_all)
  have := Src.code_lt (a := a) (by simp_all)
  have := Src.code_lt (a := b) (by simp_all)
  have := b2n_lt inv
  unfold encSel
  omega

theorem encShaU_lt {base : Nat} {a : Src} (hw : (a.wf) = true) (hb : base + 243712 < 2 ^ 32) :
    encShaU base a < 2 ^ 32 := by
  have := Src.code_lt (a := a) (by simp_all)
  unfold encShaU
  omega

theorem encShw_lt {base : Nat} {d : Nat} {n : Nat} (hw : (decide (d < 112) && decide (1 ≤ n) && decide (n ≤ 16)) = true) (hb : base + 29098240 < 2 ^ 32) :
    encShw base d n < 2 ^ 32 := by
  simp only [Bool.and_eq_true, decide_eq_true_eq] at hw
  unfold encShw
  omega

theorem encShn_lt {base : Nat} {nw : Bool} {d : Dst} (hw : (d.wf) = true) (hb : base + 64749568 < 2 ^ 32) :
    encShn base nw d < 2 ^ 32 := by
  have := b2n_lt nw
  have := Dst.code_lt (d := d) (by simp_all)
  unfold encShn
  omega

theorem encWbasei_lt {base : Nat} {delta : Nat} (hw : (decide (delta < 128)) = true) (hb : base + 2032 < 2 ^ 32) :
    encWbasei base delta < 2 ^ 32 := by
  simp only [decide_eq_true_eq] at hw
  unfold encWbasei
  omega

theorem encIxset_lt {base : Nat} {a : Src} {k : Nat} (hw : (a.wf && decide (k < 4)) = true) (hb : base + 243760 < 2 ^ 32) :
    encIxset base a k < 2 ^ 32 := by
  simp only [Bool.and_eq_true, decide_eq_true_eq] at hw
  have := Src.code_lt (a := a) (by simp_all)
  unfold encIxset
  omega

theorem encIxget_lt {base : Nat} {nw : Bool} {d : Dst} {k : Nat} (hw : (d.wf && decide (k < 4)) = true) (hb : base + 64749616 < 2 ^ 32) :
    encIxget base nw d k < 2 ^ 32 := by
  simp only [Bool.and_eq_true, decide_eq_true_eq] at hw
  have := b2n_lt nw
  have := Dst.code_lt (d := d) (by simp_all)
  unfold encIxget
  omega

theorem encRgive_lt {base : Nat} {a : Src} {imm : Nat} (hw : (a.wf && decide (imm < 128)) = true) (hb : base + 245744 < 2 ^ 32) :
    encRgive base a imm < 2 ^ 32 := by
  simp only [Bool.and_eq_true, decide_eq_true_eq] at hw
  have := Src.code_lt (a := a) (by simp_all)
  unfold encRgive
  omega

theorem encVoteBal_lt {base : Nat} {nw : Bool} {d : Dst} {p : Nat} {inv : Bool} (hw : (d.wf && decide (p < 8)) = true) (hb : base + 64749808 < 2 ^ 32) :
    encVoteBal base nw d p inv < 2 ^ 32 := by
  simp only [Bool.and_eq_true, decide_eq_true_eq] at hw
  have := b2n_lt nw
  have := Dst.code_lt (d := d) (by simp_all)
  have := b2n_lt inv
  unfold encVoteBal
  omega

theorem encVoteAny_lt {base : Nat} {pd : Nat} {p : Nat} {inv : Bool} (hw : (decide (pd < 8) && decide (p < 8)) = true) (hb : base + 1835248 < 2 ^ 32) :
    encVoteAny base pd p inv < 2 ^ 32 := by
  simp only [Bool.and_eq_true, decide_eq_true_eq] at hw
  have := b2n_lt inv
  unfold encVoteAny
  omega

theorem encReduxMin_lt {base : Nat} {nw : Bool} {d : Dst} {a : Src} {nat : Bool} (hw : (d.wf && a.wf) = true) (hb : base + 64993296 < 2 ^ 32) :
    encReduxMin base nw d a nat < 2 ^ 32 := by
  simp only [Bool.and_eq_true] at hw
  have := b2n_lt nw
  have := Dst.code_lt (d := d) (by simp_all)
  have := Src.code_lt (a := a) (by simp_all)
  have := b2n_lt nat
  unfold encReduxMin
  omega

theorem encRbal_lt {base : Nat} {d : Nat} {a : Src} {b : Src} (hw : (decide (d < 112) && a.wf && b.wf) = true) (hb : base + 29343600 < 2 ^ 32) :
    encRbal base d a b < 2 ^ 32 := by
  simp only [Bool.and_eq_true, decide_eq_true_eq] at hw
  have := Src.code_lt (a := a) (by simp_all)
  have := Src.code_lt (a := b) (by simp_all)
  unfold encRbal
  omega

theorem encPand_lt {base : Nat} {pd : Nat} {pa : Nat} {pb : Nat} (hw : (decide (pd < 8) && decide (pa < 8) && decide (pb < 8)) = true) (hb : base + 1849456 < 2 ^ 32) :
    encPand base pd pa pb < 2 ^ 32 := by
  simp only [Bool.and_eq_true, decide_eq_true_eq] at hw
  unfold encPand
  omega

theorem encPnot_lt {base : Nat} {pd : Nat} {pa : Nat} (hw : (decide (pd < 8) && decide (pa < 8)) = true) (hb : base + 1849344 < 2 ^ 32) :
    encPnot base pd pa < 2 ^ 32 := by
  simp only [Bool.and_eq_true, decide_eq_true_eq] at hw
  unfold encPnot
  omega

theorem encEmset_lt {base : Nat} {p : Nat} {inv : Bool} (hw : (decide (p < 8)) = true) (hb : base + 30720 < 2 ^ 32) :
    encEmset base p inv < 2 ^ 32 := by
  simp only [decide_eq_true_eq] at hw
  have := b2n_lt inv
  unfold encEmset
  omega

theorem encEmget_lt {base : Nat} {pd : Nat} (hw : (decide (pd < 8)) = true) (hb : base + 1835008 < 2 ^ 32) :
    encEmget base pd < 2 ^ 32 := by
  simp only [decide_eq_true_eq] at hw
  unfold encEmget
  omega

theorem encPfromw_lt {base : Nat} {pd : Nat} {a : Src} {bitsForm : Bool} (hw : (decide (pd < 8) && a.wf) = true) (hb : base + 2078736 < 2 ^ 32) :
    encPfromw base pd a bitsForm < 2 ^ 32 := by
  simp only [Bool.and_eq_true, decide_eq_true_eq] at hw
  have := Src.code_lt (a := a) (by simp_all)
  have := b2n_lt bitsForm
  unfold encPfromw
  omega

theorem encPtow_lt {base : Nat} {nw : Bool} {d : Dst} {p : Nat} {bitsForm : Bool} (hw : (d.wf && decide (p < 8)) = true) (hb : base + 64763920 < 2 ^ 32) :
    encPtow base nw d p bitsForm < 2 ^ 32 := by
  simp only [Bool.and_eq_true, decide_eq_true_eq] at hw
  have := b2n_lt nw
  have := Dst.code_lt (d := d) (by simp_all)
  have := b2n_lt bitsForm
  unfold encPtow
  omega

theorem encPpopc_lt {base : Nat} {nw : Bool} {d : Dst} {p : Nat} (hw : (d.wf && decide (p < 8)) = true) (hb : base + 64763904 < 2 ^ 32) :
    encPpopc base nw d p < 2 ^ 32 := by
  simp only [Bool.and_eq_true, decide_eq_true_eq] at hw
  have := b2n_lt nw
  have := Dst.code_lt (d := d) (by simp_all)
  unfold encPpopc
  omega

theorem encMfs_lt {base : Nat} {nw : Bool} {d : Dst} {num : Nat} (hw : (d.wf && decide (num < 16384)) = true) (hb : base + 65011696 < 2 ^ 32) :
    encMfs base nw d num < 2 ^ 32 := by
  simp only [Bool.and_eq_true, decide_eq_true_eq] at hw
  have := b2n_lt nw
  have := Dst.code_lt (d := d) (by simp_all)
  unfold encMfs
  omega

theorem encMts_lt {base : Nat} {d : Src} {num : Nat} (hw : (d.wf && decide (num < 16384)) = true) (hb : base + 31457264 < 2 ^ 32) :
    encMts base d num < 2 ^ 32 := by
  simp only [Bool.and_eq_true, decide_eq_true_eq] at hw
  have := Src.code_lt (a := d) (by simp_all)
  unfold encMts
  omega

theorem encRte_lt {base : Nat} {skip : Nat} (hw : (decide (skip < 2)) = true) (hb : base + 16 < 2 ^ 32) :
    encRte base skip < 2 ^ 32 := by
  simp only [decide_eq_true_eq] at hw
  unfold encRte
  omega

theorem encPkset_lt {base : Nat} {a : Nat} (hw : (decide (a < 112)) = true) (hb : base + 227328 < 2 ^ 32) :
    encPkset base a < 2 ^ 32 := by
  simp only [decide_eq_true_eq] at hw
  unfold encPkset
  omega

theorem encPmap_lt {base : Nat} {d : Dst} {a : Nat} (hw : (d.wf && decide (a < 112)) = true) (hb : base + 31422464 < 2 ^ 32) :
    encPmap base d a < 2 ^ 32 := by
  simp only [Bool.and_eq_true, decide_eq_true_eq] at hw
  have := Dst.code_lt (d := d) (by simp_all)
  unfold encPmap
  omega

theorem encWaitf_lt {base : Nat} {d : Dst} {a : Nat} {access : Nat} (hw : (d.wf && decide (a < 112) && decide (access < 3)) = true) (hb : base + 31422496 < 2 ^ 32) :
    encWaitf base d a access < 2 ^ 32 := by
  simp only [Bool.and_eq_true, decide_eq_true_eq] at hw
  have := Dst.code_lt (d := d) (by simp_all)
  unfold encWaitf
  omega

theorem encScpq_lt {base : Nat} {nw : Bool} {d : Dst} {n : Nat} (hw : (d.wf && decide (n < 16)) = true) (hb : base + 64749808 < 2 ^ 32) :
    encScpq base nw d n < 2 ^ 32 := by
  simp only [Bool.and_eq_true, decide_eq_true_eq] at hw
  have := b2n_lt nw
  have := Dst.code_lt (d := d) (by simp_all)
  unfold encScpq
  omega

theorem encTimerd_lt {base : Nat} {d : Nat} (hw : (decide (d < 112)) = true) (hb : base + 29097984 < 2 ^ 32) :
    encTimerd base d < 2 ^ 32 := by
  simp only [decide_eq_true_eq] at hw
  unfold encTimerd
  omega

theorem encBmode_lt {base : Nat} {d : Dst} {a : Src} {b : Src} (hw : (d.wf && a.wf && b.wf) = true) (hb : base + 31440752 < 2 ^ 32) :
    encBmode base d a b < 2 ^ 32 := by
  simp only [Bool.and_eq_true] at hw
  have := Dst.code_lt (d := d) (by simp_all)
  have := Src.code_lt (a := a) (by simp_all)
  have := Src.code_lt (a := b) (by simp_all)
  unfold encBmode
  omega

theorem encBra_lt {base : Nat} {off : Nat} (hw : (decide (off < 67108864)) = true) (hb : base + 67108863 < 2 ^ 32) :
    encBra base off < 2 ^ 32 := by
  simp only [decide_eq_true_eq] at hw
  unfold encBra
  omega

theorem encBrd_lt {base : Nat} {p : Nat} {n : Bool} {tgt : Nat} {rcv : Nat} (hw : (decide (p < 8) && decide (tgt < 2048) && decide (rcv < 2048)) = true) (hb : base + 67108863 < 2 ^ 32) :
    encBrd base p n tgt rcv < 2 ^ 32 := by
  simp only [Bool.and_eq_true, decide_eq_true_eq] at hw
  have := b2n_lt n
  unfold encBrd
  omega

theorem encCall_lt {base : Nat} {d : Nat} {imm : Nat} (hw : (decide (d < 112) && decide (imm < 262144)) = true) (hb : base + 29360127 < 2 ^ 32) :
    encCall base d imm < 2 ^ 32 := by
  simp only [Bool.and_eq_true, decide_eq_true_eq] at hw
  unfold encCall
  omega

theorem encCallx_lt {base : Nat} {d : Nat} {a : Nat} (hw : (decide (d < 112) && decide (a < 112)) = true) (hb : base + 29325312 < 2 ^ 32) :
    encCallx base d a < 2 ^ 32 := by
  simp only [Bool.and_eq_true, decide_eq_true_eq] at hw
  unfold encCallx
  omega

theorem encTrap_lt {base : Nat} {code : Nat} (hw : (decide (code < 32)) = true) (hb : base + 496 < 2 ^ 32) :
    encTrap base code < 2 ^ 32 := by
  simp only [decide_eq_true_eq] at hw
  unfold encTrap
  omega

theorem encBar_lt {base : Nat} {pd : Nat} {idx : Nat} (hw : (decide (pd < 8) && decide (idx < 16)) = true) (hb : base + 1835248 < 2 ^ 32) :
    encBar base pd idx < 2 ^ 32 := by
  simp only [Bool.and_eq_true, decide_eq_true_eq] at hw
  unfold encBar
  omega

theorem encCbrun_lt {base : Nat} {nw : Bool} {d : Dst} {a : Nat} {b : Src} (hw : (d.wf && decide (a < 112) && b.wf) = true) (hb : base + 64978800 < 2 ^ 32) :
    encCbrun base nw d a b < 2 ^ 32 := by
  simp only [Bool.and_eq_true, decide_eq_true_eq] at hw
  have := b2n_lt nw
  have := Dst.code_lt (d := d) (by simp_all)
  have := Src.code_lt (a := b) (by simp_all)
  unfold encCbrun
  omega

theorem encLdg_lt {base : Nat} {nw : Bool} {w : MemWidth} {d : LdReg} {a : Nat} {b : Src} {h : Nat} (hw : (d.wf w && (!nw || w.narrow) && decide (a < 56) && b.wf && decide (h < 4)) = true) (hb : base + 64978687 < 2 ^ 32) :
    encLdg base nw w d a b h < 2 ^ 32 := by
  simp only [Bool.and_eq_true, decide_eq_true_eq] at hw
  have := b2n_lt nw
  have := MemWidth.code_lt w
  have := LdReg.code_lt (d := d) (w := w) (by simp_all)
  have := Src.code_lt (a := b) (by simp_all)
  unfold encLdg
  omega

theorem encStg_lt {base : Nat} {w : MemWidth} {d : StReg} {a : Nat} {b : Src} {h : Nat} (hw : (d.wf w && decide (a < 56) && b.wf && decide (h < 4)) = true) (hb : base + 31424255 < 2 ^ 32) :
    encStg base w d a b h < 2 ^ 32 := by
  simp only [Bool.and_eq_true, decide_eq_true_eq] at hw
  have := MemWidth.code_lt w
  have := StReg.code_lt (d := d) (w := w) (by simp_all)
  have := Src.code_lt (a := b) (by simp_all)
  unfold encStg
  omega

theorem encLds_lt {base : Nat} {nw : Bool} {w : MemWidth} {d : LdReg} {a : Nat} {b : Src} (hw : (d.wf w && (!nw || w.narrow) && decide (a < 56) && b.wf) = true) (hb : base + 64978684 < 2 ^ 32) :
    encLds base nw w d a b < 2 ^ 32 := by
  simp only [Bool.and_eq_true, decide_eq_true_eq] at hw
  have := b2n_lt nw
  have := MemWidth.code_lt w
  have := LdReg.code_lt (d := d) (w := w) (by simp_all)
  have := Src.code_lt (a := b) (by simp_all)
  unfold encLds
  omega

theorem encSts_lt {base : Nat} {w : MemWidth} {d : StReg} {a : Nat} {b : Src} (hw : (d.wf w && decide (a < 56) && b.wf) = true) (hb : base + 31424252 < 2 ^ 32) :
    encSts base w d a b < 2 ^ 32 := by
  simp only [Bool.and_eq_true, decide_eq_true_eq] at hw
  have := MemWidth.code_lt w
  have := StReg.code_lt (d := d) (w := w) (by simp_all)
  have := Src.code_lt (a := b) (by simp_all)
  unfold encSts
  omega

theorem encPref_lt {base : Nat} {a : Nat} {b : Src} {h : Nat} (hw : (decide (a < 56) && b.wf && decide (h < 4)) = true) (hb : base + 229091 < 2 ^ 32) :
    encPref base a b h < 2 ^ 32 := by
  simp only [Bool.and_eq_true, decide_eq_true_eq] at hw
  have := Src.code_lt (a := b) (by simp_all)
  unfold encPref
  omega

theorem encAtomiAdd_lt {base : Nat} {d : Dst} {a : Nat} {b : Src} {sc : Nat} (hw : (d.wf && decide (a < 56) && b.wf && decide (sc < 16)) = true) (hb : base + 62848508 < 2 ^ 32) :
    encAtomiAdd base d a b sc < 2 ^ 32 := by
  simp only [Bool.and_eq_true, decide_eq_true_eq] at hw
  have := Dst.code_lt (d := d) (by simp_all)
  have := Src.code_lt (a := b) (by simp_all)
  unfold encAtomiAdd
  omega

theorem encAtomlCas_lt {base : Nat} {d : Dst} {a : Nat} {b : Nat} {sc : Nat} (hw : (d.wf && decide (a < 56) && decide (b < 112) && decide (sc < 16)) = true) (hb : base + 62847996 < 2 ^ 32) :
    encAtomlCas base d a b sc < 2 ^ 32 := by
  simp only [Bool.and_eq_true, decide_eq_true_eq] at hw
  have := Dst.code_lt (d := d) (by simp_all)
  unfold encAtomlCas
  omega

theorem encAdd_lt2 {base : Nat} {nw : Bool} {d : Dst} {a : Src} {b : Src} (hw : (nwAllowed nw d && d.wf && a.wf && b.wf) = true) (hb : base + 64995184 < 2 ^ 32) :
    encAdd base nw d a b < 2 ^ 32 := by
  simp only [Bool.and_eq_true] at hw
  have := b2n_lt nw
  have := Dst.code_lt (d := d) (by simp_all)
  have := Src.code_lt (a := a) (by simp_all)
  have := Src.code_lt (a := b) (by simp_all)
  unfold encAdd
  omega

theorem encAtomsCas_lt {base : Nat} {nw : Bool} {d : Dst} {a : Src} {b : Nat} (hw : (nwAllowed nw d && d.wf && a.wf && decide (b < 112)) = true) (hb : base + 64995056 < 2 ^ 32) :
    encAtomsCas base nw d a b < 2 ^ 32 := by
  simp only [Bool.and_eq_true, decide_eq_true_eq] at hw
  have := b2n_lt nw
  have := Dst.code_lt (d := d) (by simp_all)
  have := Src.code_lt (a := a) (by simp_all)
  unfold encAtomsCas
  omega

theorem encPhrel_lt {base : Nat} {sc : Nat} (hw : (decide (sc < 16)) = true) (hb : base + 15 < 2 ^ 32) :
    encPhrel base sc < 2 ^ 32 := by
  simp only [decide_eq_true_eq] at hw
  unfold encPhrel
  omega

theorem encBoinit_lt {base : Nat} {a : Src} {b : Src} (hw : (a.wf && b.wf) = true) (hb : base + 245616 < 2 ^ 32) :
    encBoinit base a b < 2 ^ 32 := by
  simp only [Bool.and_eq_true] at hw
  have := Src.code_lt (a := a) (by simp_all)
  have := Src.code_lt (a := b) (by simp_all)
  unfold encBoinit
  omega

theorem encBoarr_lt {base : Nat} {pd : Nat} {a : Src} {b : Src} (hw : (decide (pd < 8) && a.wf && b.wf) = true) (hb : base + 2080624 < 2 ^ 32) :
    encBoarr base pd a b < 2 ^ 32 := by
  simp only [Bool.and_eq_true, decide_eq_true_eq] at hw
  have := Src.code_lt (a := a) (by simp_all)
  have := Src.code_lt (a := b) (by simp_all)
  unfold encBoarr
  omega

theorem encBostat_lt {base : Nat} {d : Nat} {a : Src} (hw : (decide (d < 112) && a.wf) = true) (hb : base + 29341696 < 2 ^ 32) :
    encBostat base d a < 2 ^ 32 := by
  simp only [Bool.and_eq_true, decide_eq_true_eq] at hw
  have := Src.code_lt (a := a) (by simp_all)
  unfold encBostat
  omega

theorem encQpush_lt {base : Nat} {a : Src} {q : Nat} (hw : (a.wf && decide (q < 16)) = true) (hb : base + 243952 < 2 ^ 32) :
    encQpush base a q < 2 ^ 32 := by
  simp only [Bool.and_eq_true, decide_eq_true_eq] at hw
  have := Src.code_lt (a := a) (by simp_all)
  unfold encQpush
  omega

theorem encQpushn_lt {base : Nat} {d : Nat} {a : Src} {q : Nat} (hw : (decide (d < 112) && a.wf && decide (q < 16)) = true) (hb : base + 29341936 < 2 ^ 32) :
    encQpushn base d a q < 2 ^ 32 := by
  simp only [Bool.and_eq_true, decide_eq_true_eq] at hw
  have := Src.code_lt (a := a) (by simp_all)
  unfold encQpushn
  omega

theorem encQpopn_lt {base : Nat} {d : Nat} {q : Nat} (hw : (decide (d < 112) && decide (q < 16)) = true) (hb : base + 29098224 < 2 ^ 32) :
    encQpopn base d q < 2 ^ 32 := by
  simp only [Bool.and_eq_true, decide_eq_true_eq] at hw
  unfold encQpopn
  omega

theorem encQcfg_lt {base : Nat} {a : Nat} {q : Nat} (hw : (decide (a < 112) && decide (q < 16)) = true) (hb : base + 227568 < 2 ^ 32) :
    encQcfg base a q < 2 ^ 32 := by
  simp only [Bool.and_eq_true, decide_eq_true_eq] at hw
  unfold encQcfg
  omega

theorem encQbreak_lt {base : Nat} {q : Nat} (hw : (decide (q < 16)) = true) (hb : base + 240 < 2 ^ 32) :
    encQbreak base q < 2 ^ 32 := by
  simp only [decide_eq_true_eq] at hw
  unfold encQbreak
  omega

theorem encWtff_lt {base : Nat} {nw : Bool} {d : Dst} {a : Nat} (hw : (d.wf && decide (a < 112)) = true) (hb : base + 64976896 < 2 ^ 32) :
    encWtff base nw d a < 2 ^ 32 := by
  simp only [Bool.and_eq_true, decide_eq_true_eq] at hw
  have := b2n_lt nw
  have := Dst.code_lt (d := d) (by simp_all)
  unfold encWtff
  omega

theorem encSvldPlain_lt {base : Nat} {nw : Bool} {d : Dst} {a : Nat} {b : Nat} (hw : (d.wf && decide (a < 112) && decide (b < 112)) = true) (hb : base + 64978672 < 2 ^ 32) :
    encSvldPlain base nw d a b < 2 ^ 32 := by
  simp only [Bool.and_eq_true, decide_eq_true_eq] at hw
  have := b2n_lt nw
  have := Dst.code_lt (d := d) (by simp_all)
  unfold encSvldPlain
  omega

theorem encTshape_lt {base : Nat} {t : Nat} {a : Src} (hw : (decide (t < 16) && a.wf) = true) (hb : base + 4175872 < 2 ^ 32) :
    encTshape base t a < 2 ^ 32 := by
  simp only [Bool.and_eq_true, decide_eq_true_eq] at hw
  have := Src.code_lt (a := a) (by simp_all)
  unfold encTshape
  omega

theorem encTzero_lt {base : Nat} {t : Nat} (hw : (decide (t < 16)) = true) (hb : base + 3932160 < 2 ^ 32) :
    encTzero base t < 2 ^ 32 := by
  simp only [decide_eq_true_eq] at hw
  unfold encTzero
  omega

theorem encTtrn_lt {base : Nat} {t : Nat} {u : Nat} (hw : (decide (t < 16) && decide (u < 16)) = true) (hb : base + 3932400 < 2 ^ 32) :
    encTtrn base t u < 2 ^ 32 := by
  simp only [Bool.and_eq_true, decide_eq_true_eq] at hw
  unfold encTtrn
  omega

theorem encTcvt_lt {base : Nat} {t : Nat} {a : Src} {u : Nat} (hw : (decide (t < 16) && a.wf && decide (u < 16)) = true) (hb : base + 4176112 < 2 ^ 32) :
    encTcvt base t a u < 2 ^ 32 := by
  simp only [Bool.and_eq_true, decide_eq_true_eq] at hw
  have := Src.code_lt (a := a) (by simp_all)
  unfold encTcvt
  omega

theorem encTrowr_lt {base : Nat} {d : Dst} {a : Src} {t : Nat} (hw : (d.wf && a.wf && decide (t < 16)) = true) (hb : base + 31439088 < 2 ^ 32) :
    encTrowr base d a t < 2 ^ 32 := by
  simp only [Bool.and_eq_true, decide_eq_true_eq] at hw
  have := Dst.code_lt (d := d) (by simp_all)
  have := Src.code_lt (a := a) (by simp_all)
  unfold encTrowr
  omega

theorem encTroww_lt {base : Nat} {t : Nat} {a : Src} {b : Src} (hw : (decide (t < 16) && a.wf && b.wf) = true) (hb : base + 4177776 < 2 ^ 32) :
    encTroww base t a b < 2 ^ 32 := by
  simp only [Bool.and_eq_true, decide_eq_true_eq] at hw
  have := Src.code_lt (a := a) (by simp_all)
  have := Src.code_lt (a := b) (by simp_all)
  unfold encTroww
  omega

theorem encTld_lt {base : Nat} {t : Nat} {a : Nat} {b : Src} (hw : (decide (t < 16) && decide (a < 112) && b.wf) = true) (hb : base + 4161392 < 2 ^ 32) :
    encTld base t a b < 2 ^ 32 := by
  simp only [Bool.and_eq_true, decide_eq_true_eq] at hw
  have := Src.code_lt (a := b) (by simp_all)
  unfold encTld
  omega

theorem encMmaBf16_lt {base : Nat} {acc : Nat} {clr : Bool} {ta : Nat} {tb : Nat} (hw : (decide (acc < 4) && decide (ta < 16) && decide (tb < 16)) = true) (hb : base + 29391088 < 2 ^ 32) :
    encMmaBf16 base acc clr ta tb < 2 ^ 32 := by
  simp only [Bool.and_eq_true, decide_eq_true_eq] at hw
  have := b2n_lt clr
  unfold encMmaBf16
  omega

theorem encAccz_lt {base : Nat} {acc : Nat} {a : Src} (hw : (decide (acc < 4) && a.wf) = true) (hb : base + 243760 < 2 ^ 32) :
    encAccz base acc a < 2 ^ 32 := by
  simp only [Bool.and_eq_true, decide_eq_true_eq] at hw
  have := Src.code_lt (a := a) (by simp_all)
  unfold encAccz
  omega

theorem encAccld_lt {base : Nat} {acc : Nat} {a : Nat} {c : Src} (hw : (decide (acc < 4) && decide (a < 112) && c.wf) = true) (hb : base + 31422512 < 2 ^ 32) :
    encAccld base acc a c < 2 ^ 32 := by
  simp only [Bool.and_eq_true, decide_eq_true_eq] at hw
  have := Src.code_lt (a := c) (by simp_all)
  unfold encAccld
  omega

theorem encAccrmax_lt {base : Nat} {d : Nat} {acc : Nat} {a : Src} (hw : (decide (d < 112) && decide (acc < 4) && a.wf) = true) (hb : base + 29341744 < 2 ^ 32) :
    encAccrmax base d acc a < 2 ^ 32 := by
  simp only [Bool.and_eq_true, decide_eq_true_eq] at hw
  have := Src.code_lt (a := a) (by simp_all)
  unfold encAccrmax
  omega

theorem encAccrscl_lt {base : Nat} {acc : Nat} {d : Nat} (hw : (decide (acc < 4) && decide (d < 112)) = true) (hb : base + 29098032 < 2 ^ 32) :
    encAccrscl base acc d < 2 ^ 32 := by
  simp only [Bool.and_eq_true, decide_eq_true_eq] at hw
  unfold encAccrscl
  omega

theorem encAccroww_lt {base : Nat} {acc : Nat} {a : Src} {d : Nat} (hw : (decide (acc < 4) && a.wf && decide (d < 112)) = true) (hb : base + 29341744 < 2 ^ 32) :
    encAccroww base acc a d < 2 ^ 32 := by
  simp only [Bool.and_eq_true, decide_eq_true_eq] at hw
  have := Src.code_lt (a := a) (by simp_all)
  unfold encAccroww
  omega

theorem encAccexp_lt {base : Nat} {acc : Nat} {d : Nat} {a : Src} (hw : (decide (acc < 4) && decide (d < 112) && a.wf) = true) (hb : base + 29341744 < 2 ^ 32) :
    encAccexp base acc d a < 2 ^ 32 := by
  simp only [Bool.and_eq_true, decide_eq_true_eq] at hw
  have := Src.code_lt (a := a) (by simp_all)
  unfold encAccexp
  omega

theorem encAccrsum_lt {base : Nat} {d : Nat} {acc : Nat} (hw : (decide (d < 112) && decide (acc < 4)) = true) (hb : base + 29098032 < 2 ^ 32) :
    encAccrsum base d acc < 2 ^ 32 := by
  simp only [Bool.and_eq_true, decide_eq_true_eq] at hw
  unfold encAccrsum
  omega

theorem encAcctot_lt {base : Nat} {t : Nat} {acc : Nat} {c : Src} (hw : (decide (t < 16) && decide (acc < 4) && c.wf) = true) (hb : base + 31225904 < 2 ^ 32) :
    encAcctot base t acc c < 2 ^ 32 := by
  simp only [Bool.and_eq_true, decide_eq_true_eq] at hw
  have := Src.code_lt (a := c) (by simp_all)
  unfold encAcctot
  omega

theorem encVld_lt {base : Nat} {d : Dst} {a : Src} {b : Nat} (hw : (d.wf && a.wf && decide (b < 112)) = true) (hb : base + 31440624 < 2 ^ 32) :
    encVld base d a b < 2 ^ 32 := by
  simp only [Bool.and_eq_true, decide_eq_true_eq] at hw
  have := Dst.code_lt (d := d) (by simp_all)
  have := Src.code_lt (a := a) (by simp_all)
  unfold encVld
  omega

theorem encVst_lt {base : Nat} {a : Src} {b : Nat} {d : Src} (hw : (a.wf && decide (b < 112) && d.wf) = true) (hb : base + 31440624 < 2 ^ 32) :
    encVst base a b d < 2 ^ 32 := by
  simp only [Bool.and_eq_true, decide_eq_true_eq] at hw
  have := Src.code_lt (a := d) (by simp_all)
  have := Src.code_lt (a := a) (by simp_all)
  unfold encVst
  omega

theorem encLaunch_lt {base : Nat} {d : Nat} {a : Nat} {b : Src} (hw : (decide (d < 112) && decide (a < 112) && b.wf) = true) (hb : base + 29327216 < 2 ^ 32) :
    encLaunch base d a b < 2 ^ 32 := by
  simp only [Bool.and_eq_true, decide_eq_true_eq] at hw
  have := Src.code_lt (a := b) (by simp_all)
  unfold encLaunch
  omega

theorem encLqry_lt {base : Nat} {d : Dst} {a : Src} (hw : (d.wf && a.wf) = true) (hb : base + 31438848 < 2 ^ 32) :
    encLqry base d a < 2 ^ 32 := by
  simp only [Bool.and_eq_true] at hw
  have := Dst.code_lt (d := d) (by simp_all)
  have := Src.code_lt (a := a) (by simp_all)
  unfold encLqry
  omega

theorem encXp_lt {base : Nat} {ind : Nat} {xs : Nat} {ext : Nat} (hw : (decide (ind < 8) && decide (xs < 4) && decide (ext < 2097152)) = true) (hb : base + 67108863 < 2 ^ 32) :
    encXp base ind xs ext < 2 ^ 32 := by
  simp only [Bool.and_eq_true, decide_eq_true_eq] at hw
  unfold encXp
  omega

theorem add (nw : Bool) (d : Dst) (a : Src) (b : Src) : Statement (.add nw d a b) := fun h => encAdd_lt h (by decide)
theorem sub (nw : Bool) (d : Dst) (a : Src) (b : Src) : Statement (.sub nw d a b) := fun h => encAdd_lt h (by decide)
theorem mul (nw : Bool) (d : Dst) (a : Src) (b : Src) : Statement (.mul nw d a b) := fun h => encAdd_lt h (by decide)
theorem mulhS (nw : Bool) (d : Dst) (a : Src) (b : Src) : Statement (.mulhS nw d a b) := fun h => encAdd_lt h (by decide)
theorem mulhN (nw : Bool) (d : Dst) (a : Src) (b : Src) : Statement (.mulhN nw d a b) := fun h => encAdd_lt h (by decide)
theorem mad (nw : Bool) (d : Dst) (a : Src) (b : Src) : Statement (.mad nw d a b) := fun h => encAdd_lt h (by decide)
theorem divS (nw : Bool) (d : Dst) (a : Src) (b : Src) : Statement (.divS nw d a b) := fun h => encAdd_lt h (by decide)
theorem divN (nw : Bool) (d : Dst) (a : Src) (b : Src) : Statement (.divN nw d a b) := fun h => encAdd_lt h (by decide)
theorem remS (nw : Bool) (d : Dst) (a : Src) (b : Src) : Statement (.remS nw d a b) := fun h => encAdd_lt h (by decide)
theorem remN (nw : Bool) (d : Dst) (a : Src) (b : Src) : Statement (.remN nw d a b) := fun h => encAdd_lt h (by decide)
theorem minS (nw : Bool) (d : Dst) (a : Src) (b : Src) : Statement (.minS nw d a b) := fun h => encAdd_lt h (by decide)
theorem minN (nw : Bool) (d : Dst) (a : Src) (b : Src) : Statement (.minN nw d a b) := fun h => encAdd_lt h (by decide)
theorem maxS (nw : Bool) (d : Dst) (a : Src) (b : Src) : Statement (.maxS nw d a b) := fun h => encAdd_lt h (by decide)
theorem maxN (nw : Bool) (d : Dst) (a : Src) (b : Src) : Statement (.maxN nw d a b) := fun h => encAdd_lt h (by decide)
theorem addsS (nw : Bool) (d : Dst) (a : Src) (b : Src) : Statement (.addsS nw d a b) := fun h => encAdd_lt h (by decide)
theorem subsS (nw : Bool) (d : Dst) (a : Src) (b : Src) : Statement (.subsS nw d a b) := fun h => encAdd_lt h (by decide)
theorem andR (nw : Bool) (d : Dst) (a : Src) (b : Src) : Statement (.andR nw d a b) := fun h => encAdd_lt h (by decide)
theorem orR (nw : Bool) (d : Dst) (a : Src) (b : Src) : Statement (.orR nw d a b) := fun h => encAdd_lt h (by decide)
theorem xorR (nw : Bool) (d : Dst) (a : Src) (b : Src) : Statement (.xorR nw d a b) := fun h => encAdd_lt h (by decide)
theorem andn (nw : Bool) (d : Dst) (a : Src) (b : Src) : Statement (.andn nw d a b) := fun h => encAdd_lt h (by decide)
theorem orn (nw : Bool) (d : Dst) (a : Src) (b : Src) : Statement (.orn nw d a b) := fun h => encAdd_lt h (by decide)
theorem xnor (nw : Bool) (d : Dst) (a : Src) (b : Src) : Statement (.xnor nw d a b) := fun h => encAdd_lt h (by decide)
theorem shl (nw : Bool) (d : Dst) (a : Src) (b : Src) : Statement (.shl nw d a b) := fun h => encAdd_lt h (by decide)
theorem shr (nw : Bool) (d : Dst) (a : Src) (b : Src) : Statement (.shr nw d a b) := fun h => encAdd_lt h (by decide)
theorem sar (nw : Bool) (d : Dst) (a : Src) (b : Src) : Statement (.sar nw d a b) := fun h => encAdd_lt h (by decide)
theorem rotl (nw : Bool) (d : Dst) (a : Src) (b : Src) : Statement (.rotl nw d a b) := fun h => encAdd_lt h (by decide)
theorem clz (nw : Bool) (d : Dst) (a : Src) : Statement (.clz nw d a) := fun h => encClz_lt h (by decide)
theorem popc (nw : Bool) (d : Dst) (a : Src) : Statement (.popc nw d a) := fun h => encClz_lt h (by decide)
theorem brev (nw : Bool) (d : Dst) (a : Src) : Statement (.brev nw d a) := fun h => encClz_lt h (by decide)
theorem bfxN (nw : Bool) (d : Dst) (a : Src) (b : Src) : Statement (.bfxN nw d a b) := fun h => encAdd_lt h (by decide)
theorem bfxS (nw : Bool) (d : Dst) (a : Src) (b : Src) : Statement (.bfxS nw d a b) := fun h => encAdd_lt h (by decide)
theorem bfi (nw : Bool) (d : Dst) (a : Src) (b : Src) : Statement (.bfi nw d a b) := fun h => encAdd_lt h (by decide)
theorem addi (nw : Bool) (d : Dst) (a : Src) (imm : Nat) : Statement (.addi nw d a imm) := fun h => encAddi_lt h (by decide)
theorem muli (nw : Bool) (d : Dst) (a : Src) (imm : Nat) : Statement (.muli nw d a imm) := fun h => encAddi_lt h (by decide)
theorem andi (nw : Bool) (d : Dst) (a : Src) (imm : Nat) : Statement (.andi nw d a imm) := fun h => encAddi_lt h (by decide)
theorem ori (nw : Bool) (d : Dst) (a : Src) (imm : Nat) : Statement (.ori nw d a imm) := fun h => encAddi_lt h (by decide)
theorem xori (nw : Bool) (d : Dst) (a : Src) (imm : Nat) : Statement (.xori nw d a imm) := fun h => encAddi_lt h (by decide)
theorem shiShl (nw : Bool) (d : Dst) (a : Src) (amt : Nat) : Statement (.shiShl nw d a amt) := fun h => encShiShl_lt h (by decide)
theorem shiShr (nw : Bool) (d : Dst) (a : Src) (amt : Nat) : Statement (.shiShr nw d a amt) := fun h => encShiShl_lt h (by decide)
theorem shiSar (nw : Bool) (d : Dst) (a : Src) (amt : Nat) : Statement (.shiSar nw d a amt) := fun h => encShiShl_lt h (by decide)
theorem shiRotl (nw : Bool) (d : Dst) (a : Src) (amt : Nat) : Statement (.shiRotl nw d a amt) := fun h => encShiShl_lt h (by decide)
theorem li (nw : Bool) (d : Dst) (imm : Nat) : Statement (.li nw d imm) := fun h => encLi_lt h (by decide)
theorem movs (nw : Bool) (d : Dst) (imm : Nat) : Statement (.movs nw d imm) := fun h => encLi_lt h (by decide)
theorem cmp (cond : Nat) (pd : Nat) (a : Src) (b : Src) (pc : Nat) (cmb : Nat) : Statement (.cmp cond pd a b pc cmb) := fun h => encCmp_lt h (by decide)
theorem cmpi (cond : Nat) (pd : Nat) (a : Src) (imm : Nat) : Statement (.cmpi cond pd a imm) := fun h => encCmpi_lt h (by decide)
theorem fadd (nw : Bool) (d : Dst) (a : Src) (b : Src) : Statement (.fadd nw d a b) := fun h => encAdd_lt h (by decide)
theorem fsub (nw : Bool) (d : Dst) (a : Src) (b : Src) : Statement (.fsub nw d a b) := fun h => encAdd_lt h (by decide)
theorem fmul (nw : Bool) (d : Dst) (a : Src) (b : Src) : Statement (.fmul nw d a b) := fun h => encAdd_lt h (by decide)
theorem fma (nw : Bool) (d : Dst) (a : Src) (b : Src) : Statement (.fma nw d a b) := fun h => encAdd_lt h (by decide)
theorem fms (nw : Bool) (d : Dst) (a : Src) (b : Src) : Statement (.fms nw d a b) := fun h => encAdd_lt h (by decide)
theorem fmin (nw : Bool) (d : Dst) (a : Src) (b : Src) : Statement (.fmin nw d a b) := fun h => encAdd_lt h (by decide)
theorem fmax (nw : Bool) (d : Dst) (a : Src) (b : Src) : Statement (.fmax nw d a b) := fun h => encAdd_lt h (by decide)
theorem fneg (nw : Bool) (d : Dst) (a : Src) : Statement (.fneg nw d a) := fun h => encClz_lt h (by decide)
theorem fabs (nw : Bool) (d : Dst) (a : Src) : Statement (.fabs nw d a) := fun h => encClz_lt h (by decide)
theorem frcp (nw : Bool) (d : Dst) (a : Src) : Statement (.frcp nw d a) := fun h => encClz_lt h (by decide)
theorem frsq (nw : Bool) (d : Dst) (a : Src) : Statement (.frsq nw d a) := fun h => encClz_lt h (by decide)
theorem fsqrt (nw : Bool) (d : Dst) (a : Src) : Statement (.fsqrt nw d a) := fun h => encClz_lt h (by decide)
theorem fexp2 (nw : Bool) (d : Dst) (a : Src) : Statement (.fexp2 nw d a) := fun h => encClz_lt h (by decide)
theorem flog2 (nw : Bool) (d : Dst) (a : Src) : Statement (.flog2 nw d a) := fun h => encClz_lt h (by decide)
theorem fsin (nw : Bool) (d : Dst) (a : Src) : Statement (.fsin nw d a) := fun h => encClz_lt h (by decide)
theorem ftanh (nw : Bool) (d : Dst) (a : Src) : Statement (.ftanh nw d a) := fun h => encClz_lt h (by decide)
theorem fcmp (cond : Nat) (pd : Nat) (a : Src) (b : Src) (pc : Nat) (cmb : Nat) : Statement (.fcmp cond pd a b pc cmb) := fun h => encFcmp_lt h (by decide)
theorem hadd2Bf16 (nw : Bool) (d : Dst) (a : Src) (b : Src) : Statement (.hadd2Bf16 nw d a b) := fun h => encAdd_lt h (by decide)
theorem hmul2Bf16 (nw : Bool) (d : Dst) (a : Src) (b : Src) : Statement (.hmul2Bf16 nw d a b) := fun h => encAdd_lt h (by decide)
theorem hfma2Bf16 (nw : Bool) (d : Dst) (a : Src) (b : Src) : Statement (.hfma2Bf16 nw d a b) := fun h => encAdd_lt h (by decide)
theorem hmin2Bf16 (nw : Bool) (d : Dst) (a : Src) (b : Src) : Statement (.hmin2Bf16 nw d a b) := fun h => encAdd_lt h (by decide)
theorem hmax2Bf16 (nw : Bool) (d : Dst) (a : Src) (b : Src) : Statement (.hmax2Bf16 nw d a b) := fun h => encAdd_lt h (by decide)
theorem hadd2F16 (nw : Bool) (d : Dst) (a : Src) (b : Src) : Statement (.hadd2F16 nw d a b) := fun h => encAdd_lt h (by decide)
theorem hmul2F16 (nw : Bool) (d : Dst) (a : Src) (b : Src) : Statement (.hmul2F16 nw d a b) := fun h => encAdd_lt h (by decide)
theorem hfma2F16 (nw : Bool) (d : Dst) (a : Src) (b : Src) : Statement (.hfma2F16 nw d a b) := fun h => encAdd_lt h (by decide)
theorem hmin2F16 (nw : Bool) (d : Dst) (a : Src) (b : Src) : Statement (.hmin2F16 nw d a b) := fun h => encAdd_lt h (by decide)
theorem hmax2F16 (nw : Bool) (d : Dst) (a : Src) (b : Src) : Statement (.hmax2F16 nw d a b) := fun h => encAdd_lt h (by decide)
theorem pack2 (nw : Bool) (d : Dst) (a : Src) (b : Src) : Statement (.pack2 nw d a b) := fun h => encAdd_lt h (by decide)
theorem unpkLo (nw : Bool) (d : Dst) (a : Src) : Statement (.unpkLo nw d a) := fun h => encClz_lt h (by decide)
theorem unpkHi (nw : Bool) (d : Dst) (a : Src) : Statement (.unpkHi nw d a) := fun h => encClz_lt h (by decide)
theorem cvt (nw : Bool) (d : Dst) (a : Src) (rnd : Nat) (src : Nat) (dst : Nat) : Statement (.cvt nw d a rnd src dst) := fun h => encCvt_lt h (by decide)
theorem sel (nw : Bool) (d : Dst) (a : Src) (b : Src) (p : Nat) (inv : Bool) : Statement (.sel nw d a b p inv) := fun h => encSel_lt h (by decide)
theorem shq (nw : Bool) (d : Dst) (a : Src) : Statement (.shq nw d a) := fun h => encClz_lt h (by decide)
theorem shaU (a : Src) : Statement (.shaU a) := fun h => encShaU_lt h (by decide)
theorem shaA (a : Src) : Statement (.shaA a) := fun h => encShaU_lt h (by decide)
theorem shaC (a : Src) : Statement (.shaC a) := fun h => encShaU_lt h (by decide)
theorem shfU (nw : Bool) (d : Dst) (a : Src) : Statement (.shfU nw d a) := fun h => encClz_lt h (by decide)
theorem shfA (nw : Bool) (d : Dst) (a : Src) : Statement (.shfA nw d a) := fun h => encClz_lt h (by decide)
theorem shw (d : Nat) (n : Nat) : Statement (.shw d n) := fun h => encShw_lt h (by decide)
theorem shn (nw : Bool) (d : Dst) : Statement (.shn nw d) := fun h => encShn_lt h (by decide)
theorem wbase (a : Src) : Statement (.wbase a) := fun h => encShaU_lt h (by decide)
theorem wbasei (delta : Nat) : Statement (.wbasei delta) := fun h => encWbasei_lt h (by decide)
theorem wqry (nw : Bool) (d : Dst) : Statement (.wqry nw d) := fun h => encShn_lt h (by decide)
theorem ixset (a : Src) (k : Nat) : Statement (.ixset a k) := fun h => encIxset_lt h (by decide)
theorem ixget (nw : Bool) (d : Dst) (k : Nat) : Statement (.ixget nw d k) := fun h => encIxget_lt h (by decide)
theorem rgive (a : Src) (imm : Nat) : Statement (.rgive a imm) := fun h => encRgive_lt h (by decide)
theorem rclaim (a : Src) (imm : Nat) : Statement (.rclaim a imm) := fun h => encRgive_lt h (by decide)
theorem rquota (nw : Bool) (d : Dst) : Statement (.rquota nw d) := fun h => encShn_lt h (by decide)
theorem allotq (nw : Bool) (d : Dst) : Statement (.allotq nw d) := fun h => encShn_lt h (by decide)
theorem shflIdx (nw : Bool) (d : Dst) (a : Src) (b : Src) : Statement (.shflIdx nw d a b) := fun h => encAdd_lt h (by decide)
theorem shflUp (nw : Bool) (d : Dst) (a : Src) (b : Src) : Statement (.shflUp nw d a b) := fun h => encAdd_lt h (by decide)
theorem shflDn (nw : Bool) (d : Dst) (a : Src) (b : Src) : Statement (.shflDn nw d a b) := fun h => encAdd_lt h (by decide)
theorem shflXor (nw : Bool) (d : Dst) (a : Src) (b : Src) : Statement (.shflXor nw d a b) := fun h => encAdd_lt h (by decide)
theorem voteBal (nw : Bool) (d : Dst) (p : Nat) (inv : Bool) : Statement (.voteBal nw d p inv) := fun h => encVoteBal_lt h (by decide)
theorem voteAny (pd : Nat) (p : Nat) (inv : Bool) : Statement (.voteAny pd p inv) := fun h => encVoteAny_lt h (by decide)
theorem voteAll (pd : Nat) (p : Nat) (inv : Bool) : Statement (.voteAll pd p inv) := fun h => encVoteAny_lt h (by decide)
theorem reduxAdd (nw : Bool) (d : Dst) (a : Src) : Statement (.reduxAdd nw d a) := fun h => encClz_lt h (by decide)
theorem reduxMin (nw : Bool) (d : Dst) (a : Src) (nat : Bool) : Statement (.reduxMin nw d a nat) := fun h => encReduxMin_lt h (by decide)
theorem reduxMax (nw : Bool) (d : Dst) (a : Src) (nat : Bool) : Statement (.reduxMax nw d a nat) := fun h => encReduxMin_lt h (by decide)
theorem reduxFadd (nw : Bool) (d : Dst) (a : Src) : Statement (.reduxFadd nw d a) := fun h => encClz_lt h (by decide)
theorem pfxInc (nw : Bool) (d : Dst) (a : Src) : Statement (.pfxInc nw d a) := fun h => encClz_lt h (by decide)
theorem pfxExc (nw : Bool) (d : Dst) (a : Src) : Statement (.pfxExc nw d a) := fun h => encClz_lt h (by decide)
theorem rbal (d : Nat) (a : Src) (b : Src) : Statement (.rbal d a b) := fun h => encRbal_lt h (by decide)
theorem matchLanes (nw : Bool) (d : Dst) (a : Src) : Statement (.matchLanes nw d a) := fun h => encClz_lt h (by decide)
theorem firstLane (nw : Bool) (d : Dst) (a : Src) : Statement (.firstLane nw d a) := fun h => encClz_lt h (by decide)
theorem pand (pd : Nat) (pa : Nat) (pb : Nat) : Statement (.pand pd pa pb) := fun h => encPand_lt h (by decide)
theorem por (pd : Nat) (pa : Nat) (pb : Nat) : Statement (.por pd pa pb) := fun h => encPand_lt h (by decide)
theorem pxor (pd : Nat) (pa : Nat) (pb : Nat) : Statement (.pxor pd pa pb) := fun h => encPand_lt h (by decide)
theorem pandn (pd : Nat) (pa : Nat) (pb : Nat) : Statement (.pandn pd pa pb) := fun h => encPand_lt h (by decide)
theorem pnot (pd : Nat) (pa : Nat) : Statement (.pnot pd pa) := fun h => encPnot_lt h (by decide)
theorem pmov (pd : Nat) (pa : Nat) : Statement (.pmov pd pa) := fun h => encPnot_lt h (by decide)
theorem emset (p : Nat) (inv : Bool) : Statement (.emset p inv) := fun h => encEmset_lt h (by decide)
theorem emget (pd : Nat) : Statement (.emget pd) := fun h => encEmget_lt h (by decide)
theorem pfromw (pd : Nat) (a : Src) (bitsForm : Bool) : Statement (.pfromw pd a bitsForm) := fun h => encPfromw_lt h (by decide)
theorem ptow (nw : Bool) (d : Dst) (p : Nat) (bitsForm : Bool) : Statement (.ptow nw d p bitsForm) := fun h => encPtow_lt h (by decide)
theorem ppopc (nw : Bool) (d : Dst) (p : Nat) : Statement (.ppopc nw d p) := fun h => encPpopc_lt h (by decide)
theorem liveget (pd : Nat) : Statement (.liveget pd) := fun h => encEmget_lt h (by decide)
theorem emrest : Statement .emrest := fun _ => by decide
theorem mfs (nw : Bool) (d : Dst) (num : Nat) : Statement (.mfs nw d num) := fun h => encMfs_lt h (by decide)
theorem mts (d : Src) (num : Nat) : Statement (.mts d num) := fun h => encMts_lt h (by decide)
theorem rte (skip : Nat) : Statement (.rte skip) := fun h => encRte_lt h (by decide)
theorem pkset (a : Nat) : Statement (.pkset a) := fun h => encPkset_lt h (by decide)
theorem pkdrop (a : Nat) : Statement (.pkdrop a) := fun h => encPkset_lt h (by decide)
theorem pmap (d : Dst) (a : Nat) : Statement (.pmap d a) := fun h => encPmap_lt h (by decide)
theorem waitf (d : Dst) (a : Nat) (access : Nat) : Statement (.waitf d a access) := fun h => encWaitf_lt h (by decide)
theorem haltw (a : Src) : Statement (.haltw a) := fun h => encShaU_lt h (by decide)
theorem scpq (nw : Bool) (d : Dst) (n : Nat) : Statement (.scpq nw d n) := fun h => encScpq_lt h (by decide)
theorem timerd (d : Nat) : Statement (.timerd d) := fun h => encTimerd_lt h (by decide)
theorem bmode (d : Dst) (a : Src) (b : Src) : Statement (.bmode d a b) := fun h => encBmode_lt h (by decide)
theorem bra (off : Nat) : Statement (.bra off) := fun h => encBra_lt h (by decide)
theorem brd (p : Nat) (n : Bool) (tgt : Nat) (rcv : Nat) : Statement (.brd p n tgt rcv) := fun h => encBrd_lt h (by decide)
theorem call (d : Nat) (imm : Nat) : Statement (.call d imm) := fun h => encCall_lt h (by decide)
theorem brx (a : Nat) : Statement (.brx a) := fun h => encPkset_lt h (by decide)
theorem callx (d : Nat) (a : Nat) : Statement (.callx d a) := fun h => encCallx_lt h (by decide)
theorem ret (a : Nat) : Statement (.ret a) := fun h => encPkset_lt h (by decide)
theorem nop : Statement .nop := fun _ => by decide
theorem exit : Statement .exit := fun _ => by decide
theorem yield : Statement .yield := fun _ => by decide
theorem brk : Statement .brk := fun _ => by decide
theorem sleep (a : Src) : Statement (.sleep a) := fun h => encShaU_lt h (by decide)
theorem trap (code : Nat) : Statement (.trap code) := fun h => encTrap_lt h (by decide)
theorem bar (pd : Nat) (idx : Nat) : Statement (.bar pd idx) := fun h => encBar_lt h (by decide)
theorem wsync : Statement .wsync := fun _ => by decide
theorem cbrun (nw : Bool) (d : Dst) (a : Nat) (b : Src) : Statement (.cbrun nw d a b) := fun h => encCbrun_lt h (by decide)
theorem cbend : Statement .cbend := fun _ => by decide
theorem cbstat (nw : Bool) (d : Dst) : Statement (.cbstat nw d) := fun h => encShn_lt h (by decide)
theorem prog (a : Src) : Statement (.prog a) := fun h => encShaU_lt h (by decide)
theorem ldg (nw : Bool) (w : MemWidth) (d : LdReg) (a : Nat) (b : Src) (h : Nat) : Statement (.ldg nw w d a b h) := fun h => encLdg_lt h (by decide)
theorem stg (w : MemWidth) (d : StReg) (a : Nat) (b : Src) (h : Nat) : Statement (.stg w d a b h) := fun h => encStg_lt h (by decide)
theorem lds (nw : Bool) (w : MemWidth) (d : LdReg) (a : Nat) (b : Src) : Statement (.lds nw w d a b) := fun h => encLds_lt h (by decide)
theorem sts (w : MemWidth) (d : StReg) (a : Nat) (b : Src) : Statement (.sts w d a b) := fun h => encSts_lt h (by decide)
theorem ldp (nw : Bool) (w : MemWidth) (d : LdReg) (a : Nat) (b : Src) (h : Nat) : Statement (.ldp nw w d a b h) := fun h => encLdg_lt h (by decide)
theorem stp (w : MemWidth) (d : StReg) (a : Nat) (b : Src) (h : Nat) : Statement (.stp w d a b h) := fun h => encStg_lt h (by decide)
theorem pref (a : Nat) (b : Src) (h : Nat) : Statement (.pref a b h) := fun h => encPref_lt h (by decide)
theorem demote (a : Nat) (b : Src) (h : Nat) : Statement (.demote a b h) := fun h => encPref_lt h (by decide)
theorem cleanl (a : Nat) (b : Src) (h : Nat) : Statement (.cleanl a b h) := fun h => encPref_lt h (by decide)
theorem invl (a : Nat) (b : Src) (h : Nat) : Statement (.invl a b h) := fun h => encPref_lt h (by decide)
theorem atomiAdd (d : Dst) (a : Nat) (b : Src) (sc : Nat) : Statement (.atomiAdd d a b sc) := fun h => encAtomiAdd_lt h (by decide)
theorem atomiInc (d : Dst) (a : Nat) (b : Src) (sc : Nat) : Statement (.atomiInc d a b sc) := fun h => encAtomiAdd_lt h (by decide)
theorem atomiDec (d : Dst) (a : Nat) (b : Src) (sc : Nat) : Statement (.atomiDec d a b sc) := fun h => encAtomiAdd_lt h (by decide)
theorem atomiXchg (d : Dst) (a : Nat) (b : Src) (sc : Nat) : Statement (.atomiXchg d a b sc) := fun h => encAtomiAdd_lt h (by decide)
theorem atomlAnd (d : Dst) (a : Nat) (b : Src) (sc : Nat) : Statement (.atomlAnd d a b sc) := fun h => encAtomiAdd_lt h (by decide)
theorem atomlOr (d : Dst) (a : Nat) (b : Src) (sc : Nat) : Statement (.atomlOr d a b sc) := fun h => encAtomiAdd_lt h (by decide)
theorem atomlXor (d : Dst) (a : Nat) (b : Src) (sc : Nat) : Statement (.atomlXor d a b sc) := fun h => encAtomiAdd_lt h (by decide)
theorem atomlCas (d : Dst) (a : Nat) (b : Nat) (sc : Nat) : Statement (.atomlCas d a b sc) := fun h => encAtomlCas_lt h (by decide)
theorem atommMinS (d : Dst) (a : Nat) (b : Src) (sc : Nat) : Statement (.atommMinS d a b sc) := fun h => encAtomiAdd_lt h (by decide)
theorem atommMinN (d : Dst) (a : Nat) (b : Src) (sc : Nat) : Statement (.atommMinN d a b sc) := fun h => encAtomiAdd_lt h (by decide)
theorem atommMaxS (d : Dst) (a : Nat) (b : Src) (sc : Nat) : Statement (.atommMaxS d a b sc) := fun h => encAtomiAdd_lt h (by decide)
theorem atommMaxN (d : Dst) (a : Nat) (b : Src) (sc : Nat) : Statement (.atommMaxN d a b sc) := fun h => encAtomiAdd_lt h (by decide)
theorem atomfFaddF32 (d : Dst) (a : Nat) (b : Src) (sc : Nat) : Statement (.atomfFaddF32 d a b sc) := fun h => encAtomiAdd_lt h (by decide)
theorem atomfFaddBf16x2 (d : Dst) (a : Nat) (b : Src) (sc : Nat) : Statement (.atomfFaddBf16x2 d a b sc) := fun h => encAtomiAdd_lt h (by decide)
theorem atomfFminF32 (d : Dst) (a : Nat) (b : Src) (sc : Nat) : Statement (.atomfFminF32 d a b sc) := fun h => encAtomiAdd_lt h (by decide)
theorem atomfFmaxF32 (d : Dst) (a : Nat) (b : Src) (sc : Nat) : Statement (.atomfFmaxF32 d a b sc) := fun h => encAtomiAdd_lt h (by decide)
theorem atomsAdd (nw : Bool) (d : Dst) (a : Src) (b : Src) : Statement (.atomsAdd nw d a b) := fun h => encAdd_lt2 h (by decide)
theorem atomsInc (nw : Bool) (d : Dst) (a : Src) (b : Src) : Statement (.atomsInc nw d a b) := fun h => encAdd_lt2 h (by decide)
theorem atomsDec (nw : Bool) (d : Dst) (a : Src) (b : Src) : Statement (.atomsDec nw d a b) := fun h => encAdd_lt2 h (by decide)
theorem atomsXchg (nw : Bool) (d : Dst) (a : Src) (b : Src) : Statement (.atomsXchg nw d a b) := fun h => encAdd_lt2 h (by decide)
theorem atomsAnd (nw : Bool) (d : Dst) (a : Src) (b : Src) : Statement (.atomsAnd nw d a b) := fun h => encAdd_lt2 h (by decide)
theorem atomsOr (nw : Bool) (d : Dst) (a : Src) (b : Src) : Statement (.atomsOr nw d a b) := fun h => encAdd_lt2 h (by decide)
theorem atomsXor (nw : Bool) (d : Dst) (a : Src) (b : Src) : Statement (.atomsXor nw d a b) := fun h => encAdd_lt2 h (by decide)
theorem atomsCas (nw : Bool) (d : Dst) (a : Src) (b : Nat) : Statement (.atomsCas nw d a b) := fun h => encAtomsCas_lt h (by decide)
theorem atomsMinS (nw : Bool) (d : Dst) (a : Src) (b : Src) : Statement (.atomsMinS nw d a b) := fun h => encAdd_lt2 h (by decide)
theorem atomsMinN (nw : Bool) (d : Dst) (a : Src) (b : Src) : Statement (.atomsMinN nw d a b) := fun h => encAdd_lt2 h (by decide)
theorem atomsMaxS (nw : Bool) (d : Dst) (a : Src) (b : Src) : Statement (.atomsMaxS nw d a b) := fun h => encAdd_lt2 h (by decide)
theorem atomsMaxN (nw : Bool) (d : Dst) (a : Src) (b : Src) : Statement (.atomsMaxN nw d a b) := fun h => encAdd_lt2 h (by decide)
theorem atomsFaddF32 (nw : Bool) (d : Dst) (a : Src) (b : Src) : Statement (.atomsFaddF32 nw d a b) := fun h => encAdd_lt2 h (by decide)
theorem atomsFaddBf16x2 (nw : Bool) (d : Dst) (a : Src) (b : Src) : Statement (.atomsFaddBf16x2 nw d a b) := fun h => encAdd_lt2 h (by decide)
theorem phrel (sc : Nat) : Statement (.phrel sc) := fun h => encPhrel_lt h (by decide)
theorem phacq (sc : Nat) : Statement (.phacq sc) := fun h => encPhrel_lt h (by decide)
theorem phar (sc : Nat) : Statement (.phar sc) := fun h => encPhrel_lt h (by decide)
theorem boinit (a : Src) (b : Src) : Statement (.boinit a b) := fun h => encBoinit_lt h (by decide)
theorem boarr (pd : Nat) (a : Src) (b : Src) : Statement (.boarr pd a b) := fun h => encBoarr_lt h (by decide)
theorem boexp (a : Src) (b : Src) : Statement (.boexp a b) := fun h => encBoinit_lt h (by decide)
theorem boarx (pd : Nat) (a : Src) (b : Src) : Statement (.boarx pd a b) := fun h => encBoarr_lt h (by decide)
theorem bowait (pd : Nat) (a : Src) (b : Src) : Statement (.bowait pd a b) := fun h => encBoarr_lt h (by decide)
theorem botest (pd : Nat) (a : Src) (b : Src) : Statement (.botest pd a b) := fun h => encBoarr_lt h (by decide)
theorem bostat (d : Nat) (a : Src) : Statement (.bostat d a) := fun h => encBostat_lt h (by decide)
theorem qpush (a : Src) (q : Nat) : Statement (.qpush a q) := fun h => encQpush_lt h (by decide)
theorem qpop (nw : Bool) (d : Dst) (q : Nat) : Statement (.qpop nw d q) := fun h => encScpq_lt h (by decide)
theorem qpushn (d : Nat) (a : Src) (q : Nat) : Statement (.qpushn d a q) := fun h => encQpushn_lt h (by decide)
theorem qpopn (d : Nat) (q : Nat) : Statement (.qpopn d q) := fun h => encQpopn_lt h (by decide)
theorem qallow (a : Src) (q : Nat) : Statement (.qallow a q) := fun h => encQpush_lt h (by decide)
theorem qcfg (a : Nat) (q : Nat) : Statement (.qcfg a q) := fun h => encQcfg_lt h (by decide)
theorem qstat (nw : Bool) (d : Dst) (q : Nat) : Statement (.qstat nw d q) := fun h => encScpq_lt h (by decide)
theorem qbreak (q : Nat) : Statement (.qbreak q) := fun h => encQbreak_lt h (by decide)
theorem cpy (a : Nat) : Statement (.cpy a) := fun h => encPkset_lt h (by decide)
theorem cpyx (a : Nat) : Statement (.cpyx a) := fun h => encPkset_lt h (by decide)
theorem wtany (a : Nat) : Statement (.wtany a) := fun h => encPkset_lt h (by decide)
theorem wtall (a : Nat) : Statement (.wtall a) := fun h => encPkset_lt h (by decide)
theorem wtff (nw : Bool) (d : Dst) (a : Nat) : Statement (.wtff nw d a) := fun h => encWtff_lt h (by decide)
theorem tagclr (a : Nat) : Statement (.tagclr a) := fun h => encPkset_lt h (by decide)
theorem tagrd (nw : Bool) (d : Dst) (k : Nat) : Statement (.tagrd nw d k) := fun h => encIxget_lt h (by decide)
theorem cpyq (nw : Bool) (d : Dst) : Statement (.cpyq nw d) := fun h => encShn_lt h (by decide)
theorem svldPlain (nw : Bool) (d : Dst) (a : Nat) (b : Nat) : Statement (.svldPlain nw d a b) := fun h => encSvldPlain_lt h (by decide)
theorem svldN48 (nw : Bool) (d : Dst) (a : Nat) (b : Nat) : Statement (.svldN48 nw d a b) := fun h => encSvldPlain_lt h (by decide)
theorem svldQ4 (nw : Bool) (d : Dst) (a : Nat) (b : Nat) : Statement (.svldQ4 nw d a b) := fun h => encSvldPlain_lt h (by decide)
theorem svldMx (nw : Bool) (d : Dst) (a : Nat) (b : Nat) : Statement (.svldMx nw d a b) := fun h => encSvldPlain_lt h (by decide)
theorem tshape (t : Nat) (a : Src) : Statement (.tshape t a) := fun h => encTshape_lt h (by decide)
theorem tfmt (t : Nat) (a : Src) : Statement (.tfmt t a) := fun h => encTshape_lt h (by decide)
theorem tscale (t : Nat) (a : Src) : Statement (.tscale t a) := fun h => encTshape_lt h (by decide)
theorem tqry (d : Nat) (t : Nat) : Statement (.tqry d t) := fun h => encQpopn_lt h (by decide)
theorem tzero (t : Nat) : Statement (.tzero t) := fun h => encTzero_lt h (by decide)
theorem ttrn (t : Nat) (u : Nat) : Statement (.ttrn t u) := fun h => encTtrn_lt h (by decide)
theorem tcvt (t : Nat) (a : Src) (u : Nat) : Statement (.tcvt t a u) := fun h => encTcvt_lt h (by decide)
theorem trowr (d : Dst) (a : Src) (t : Nat) : Statement (.trowr d a t) := fun h => encTrowr_lt h (by decide)
theorem troww (t : Nat) (a : Src) (b : Src) : Statement (.troww t a b) := fun h => encTroww_lt h (by decide)
theorem tld (t : Nat) (a : Nat) (b : Src) : Statement (.tld t a b) := fun h => encTld_lt h (by decide)
theorem tst (t : Nat) (a : Nat) (b : Src) : Statement (.tst t a b) := fun h => encTld_lt h (by decide)
theorem mmaBf16 (acc : Nat) (clr : Bool) (ta : Nat) (tb : Nat) : Statement (.mmaBf16 acc clr ta tb) := fun h => encMmaBf16_lt h (by decide)
theorem mmaF16 (acc : Nat) (clr : Bool) (ta : Nat) (tb : Nat) : Statement (.mmaF16 acc clr ta tb) := fun h => encMmaBf16_lt h (by decide)
theorem mmaE4m3 (acc : Nat) (clr : Bool) (ta : Nat) (tb : Nat) : Statement (.mmaE4m3 acc clr ta tb) := fun h => encMmaBf16_lt h (by decide)
theorem mmaE5m2 (acc : Nat) (clr : Bool) (ta : Nat) (tb : Nat) : Statement (.mmaE5m2 acc clr ta tb) := fun h => encMmaBf16_lt h (by decide)
theorem mmaDe8 (acc : Nat) (clr : Bool) (ta : Nat) (tb : Nat) : Statement (.mmaDe8 acc clr ta tb) := fun h => encMmaBf16_lt h (by decide)
theorem mmaS8 (acc : Nat) (clr : Bool) (ta : Nat) (tb : Nat) : Statement (.mmaS8 acc clr ta tb) := fun h => encMmaBf16_lt h (by decide)
theorem mmaE2m1 (acc : Nat) (clr : Bool) (ta : Nat) (tb : Nat) : Statement (.mmaE2m1 acc clr ta tb) := fun h => encMmaBf16_lt h (by decide)
theorem mmaS4 (acc : Nat) (clr : Bool) (ta : Nat) (tb : Nat) : Statement (.mmaS4 acc clr ta tb) := fun h => encMmaBf16_lt h (by decide)
theorem mmaQ4 (acc : Nat) (clr : Bool) (ta : Nat) (tb : Nat) : Statement (.mmaQ4 acc clr ta tb) := fun h => encMmaBf16_lt h (by decide)
theorem mmaSpBf16 (acc : Nat) (clr : Bool) (ta : Nat) (tb : Nat) : Statement (.mmaSpBf16 acc clr ta tb) := fun h => encMmaBf16_lt h (by decide)
theorem mmaSpE4m3 (acc : Nat) (clr : Bool) (ta : Nat) (tb : Nat) : Statement (.mmaSpE4m3 acc clr ta tb) := fun h => encMmaBf16_lt h (by decide)
theorem mmaMxE4m3 (acc : Nat) (clr : Bool) (ta : Nat) (tb : Nat) : Statement (.mmaMxE4m3 acc clr ta tb) := fun h => encMmaBf16_lt h (by decide)
theorem mmaMxE2m1 (acc : Nat) (clr : Bool) (ta : Nat) (tb : Nat) : Statement (.mmaMxE2m1 acc clr ta tb) := fun h => encMmaBf16_lt h (by decide)
theorem tseqBf16 (acc : Nat) (clr : Bool) (ta : Nat) (tb : Nat) : Statement (.tseqBf16 acc clr ta tb) := fun h => encMmaBf16_lt h (by decide)
theorem tseqF16 (acc : Nat) (clr : Bool) (ta : Nat) (tb : Nat) : Statement (.tseqF16 acc clr ta tb) := fun h => encMmaBf16_lt h (by decide)
theorem tseqE4m3 (acc : Nat) (clr : Bool) (ta : Nat) (tb : Nat) : Statement (.tseqE4m3 acc clr ta tb) := fun h => encMmaBf16_lt h (by decide)
theorem tseqE5m2 (acc : Nat) (clr : Bool) (ta : Nat) (tb : Nat) : Statement (.tseqE5m2 acc clr ta tb) := fun h => encMmaBf16_lt h (by decide)
theorem tseqDe8 (acc : Nat) (clr : Bool) (ta : Nat) (tb : Nat) : Statement (.tseqDe8 acc clr ta tb) := fun h => encMmaBf16_lt h (by decide)
theorem tseqS8 (acc : Nat) (clr : Bool) (ta : Nat) (tb : Nat) : Statement (.tseqS8 acc clr ta tb) := fun h => encMmaBf16_lt h (by decide)
theorem tseqE2m1 (acc : Nat) (clr : Bool) (ta : Nat) (tb : Nat) : Statement (.tseqE2m1 acc clr ta tb) := fun h => encMmaBf16_lt h (by decide)
theorem tseqS4 (acc : Nat) (clr : Bool) (ta : Nat) (tb : Nat) : Statement (.tseqS4 acc clr ta tb) := fun h => encMmaBf16_lt h (by decide)
theorem tseqQ4 (acc : Nat) (clr : Bool) (ta : Nat) (tb : Nat) : Statement (.tseqQ4 acc clr ta tb) := fun h => encMmaBf16_lt h (by decide)
theorem tseqSpBf16 (acc : Nat) (clr : Bool) (ta : Nat) (tb : Nat) : Statement (.tseqSpBf16 acc clr ta tb) := fun h => encMmaBf16_lt h (by decide)
theorem tseqSpE4m3 (acc : Nat) (clr : Bool) (ta : Nat) (tb : Nat) : Statement (.tseqSpE4m3 acc clr ta tb) := fun h => encMmaBf16_lt h (by decide)
theorem tseqMxE4m3 (acc : Nat) (clr : Bool) (ta : Nat) (tb : Nat) : Statement (.tseqMxE4m3 acc clr ta tb) := fun h => encMmaBf16_lt h (by decide)
theorem tseqMxE2m1 (acc : Nat) (clr : Bool) (ta : Nat) (tb : Nat) : Statement (.tseqMxE2m1 acc clr ta tb) := fun h => encMmaBf16_lt h (by decide)
theorem accz (acc : Nat) (a : Src) : Statement (.accz acc a) := fun h => encAccz_lt h (by decide)
theorem accld (acc : Nat) (a : Nat) (c : Src) : Statement (.accld acc a c) := fun h => encAccld_lt h (by decide)
theorem accst (acc : Nat) (a : Nat) (c : Src) : Statement (.accst acc a c) := fun h => encAccld_lt h (by decide)
theorem accadd (acc : Nat) (a : Nat) (c : Src) : Statement (.accadd acc a c) := fun h => encAccld_lt h (by decide)
theorem accstsp (acc : Nat) (a : Nat) (c : Src) : Statement (.accstsp acc a c) := fun h => encAccld_lt h (by decide)
theorem accrmax (d : Nat) (acc : Nat) (a : Src) : Statement (.accrmax d acc a) := fun h => encAccrmax_lt h (by decide)
theorem accrscl (acc : Nat) (d : Nat) : Statement (.accrscl acc d) := fun h => encAccrscl_lt h (by decide)
theorem accrowr (d : Nat) (acc : Nat) (a : Src) : Statement (.accrowr d acc a) := fun h => encAccrmax_lt h (by decide)
theorem accroww (acc : Nat) (a : Src) (d : Nat) : Statement (.accroww acc a d) := fun h => encAccroww_lt h (by decide)
theorem accexp (acc : Nat) (d : Nat) (a : Src) : Statement (.accexp acc d a) := fun h => encAccexp_lt h (by decide)
theorem accrsum (d : Nat) (acc : Nat) : Statement (.accrsum d acc) := fun h => encAccrsum_lt h (by decide)
theorem acctot (t : Nat) (acc : Nat) (c : Src) : Statement (.acctot t acc c) := fun h => encAcctot_lt h (by decide)
theorem vld (d : Dst) (a : Src) (b : Nat) : Statement (.vld d a b) := fun h => encVld_lt h (by decide)
theorem vst (a : Src) (b : Nat) (d : Src) : Statement (.vst a b d) := fun h => encVst_lt h (by decide)
theorem vprobe (d : Dst) (a : Src) (b : Nat) : Statement (.vprobe d a b) := fun h => encVld_lt h (by decide)
theorem vadd (a : Src) (b : Nat) (d : Src) : Statement (.vadd a b d) := fun h => encVst_lt h (by decide)
theorem vshoot (a : Src) : Statement (.vshoot a) := fun h => encShaU_lt h (by decide)
theorem vqry (d : Nat) (a : Src) : Statement (.vqry d a) := fun h => encBostat_lt h (by decide)
theorem snap (d : Nat) (sc : Nat) : Statement (.snap d sc) := fun h => encQpopn_lt h (by decide)
theorem snapq (d : Nat) : Statement (.snapq d) := fun h => encTimerd_lt h (by decide)
theorem launch (d : Nat) (a : Nat) (b : Src) : Statement (.launch d a b) := fun h => encLaunch_lt h (by decide)
theorem launchg (d : Nat) (a : Nat) (b : Src) : Statement (.launchg d a b) := fun h => encLaunch_lt h (by decide)
theorem lwait (d : Dst) (a : Src) (b : Src) : Statement (.lwait d a b) := fun h => encBmode_lt h (by decide)
theorem lqry (d : Dst) (a : Src) : Statement (.lqry d a) := fun h => encLqry_lt h (by decide)
theorem xp (ind : Nat) (xs : Nat) (ext : Nat) : Statement (.xp ind xs ext) := fun h => encXp_lt h (by decide)
theorem weltRotation (w : Nat) : Statement (.weltRotation w) := fun _ => (by decide : (0 : Nat) < 2 ^ 32)
theorem loadDataReturn (w : Nat) (sp : Nat) : Statement (.loadDataReturn w sp) := fun _ => (by decide : (0 : Nat) < 2 ^ 32)
theorem stockpotStallResume (w : Nat) (sp : Nat) : Statement (.stockpotStallResume w sp) := fun _ => (by decide : (0 : Nat) < 2 ^ 32)
theorem pageWalk (ctx : Nat) (va : Nat) : Statement (.pageWalk ctx va) := fun _ => (by decide : (0 : Nat) < 2 ^ 32)
theorem phaseBoundaryDone (w : Nat) (sp : Nat) : Statement (.phaseBoundaryDone w sp) := fun _ => (by decide : (0 : Nat) < 2 ^ 32)
theorem wsyncDone (w : Nat) (sp : Nat) : Statement (.wsyncDone w sp) := fun _ => (by decide : (0 : Nat) < 2 ^ 32)
theorem barComplete (team : Nat) (idx : Nat) : Statement (.barComplete team idx) := fun _ => (by decide : (0 : Nat) < 2 ^ 32)
theorem sleepExpire (w : Nat) (sp : Nat) : Statement (.sleepExpire w sp) := fun _ => (by decide : (0 : Nat) < 2 ^ 32)
theorem rclaimGrant (core : Nat) : Statement (.rclaimGrant core) := fun _ => (by decide : (0 : Nat) < 2 ^ 32)
theorem qpushGrant (crew : Nat) (q : Nat) : Statement (.qpushGrant crew q) := fun _ => (by decide : (0 : Nat) < 2 ^ 32)
theorem qpopGrant (crew : Nat) (q : Nat) : Statement (.qpopGrant crew q) := fun _ => (by decide : (0 : Nat) < 2 ^ 32)
theorem bowaitTimeout (w : Nat) (sp : Nat) : Statement (.bowaitTimeout w sp) := fun _ => (by decide : (0 : Nat) < 2 ^ 32)
theorem copyUnpark (w : Nat) (sp : Nat) : Statement (.copyUnpark w sp) := fun _ => (by decide : (0 : Nat) < 2 ^ 32)
theorem copyComplete (cluster : Nat) (k : Nat) : Statement (.copyComplete cluster k) := fun _ => (by decide : (0 : Nat) < 2 ^ 32)
theorem tileLanded (team : Nat) (t : Nat) : Statement (.tileLanded team t) := fun _ => (by decide : (0 : Nat) < 2 ^ 32)
theorem arrayOpComplete (core : Nat) : Statement (.arrayOpComplete core) := fun _ => (by decide : (0 : Nat) < 2 ^ 32)
theorem bmodeSwitch (w : Nat) (sp : Nat) : Statement (.bmodeSwitch w sp) := fun _ => (by decide : (0 : Nat) < 2 ^ 32)
theorem walkPendingRetry (w : Nat) (sp : Nat) : Statement (.walkPendingRetry w sp) := fun _ => (by decide : (0 : Nat) < 2 ^ 32)
theorem vshootDone (w : Nat) (sp : Nat) : Statement (.vshootDone w sp) := fun _ => (by decide : (0 : Nat) < 2 ^ 32)
theorem cutHold : Statement .cutHold := fun _ => by decide
theorem cutSwitch : Statement .cutSwitch := fun _ => by decide
theorem cutQuiesceTimeout : Statement .cutQuiesceTimeout := fun _ => by decide
theorem drainChunk : Statement .drainChunk := fun _ => by decide
theorem drainRingTimeout (unreachable : Bool) : Statement (.drainRingTimeout unreachable) := fun _ => (by decide : (0 : Nat) < 2 ^ 32)
theorem launchDispatch (ctx : Nat) (q : Nat) : Statement (.launchDispatch ctx q) := fun _ => (by decide : (0 : Nat) < 2 ^ 32)
theorem teamBind (launch : Nat) (crew : Nat) (area : Nat) : Statement (.teamBind launch crew area) := fun _ => (by decide : (0 : Nat) < 2 ^ 32)
theorem launchEnd (launch : Nat) : Statement (.launchEnd launch) := fun _ => (by decide : (0 : Nat) < 2 ^ 32)
theorem lwaitTimeout (w : Nat) (sp : Nat) : Statement (.lwaitTimeout w sp) := fun _ => (by decide : (0 : Nat) < 2 ^ 32)
theorem quantumExpire (team : Nat) : Statement (.quantumExpire team) := fun _ => (by decide : (0 : Nat) < 2 ^ 32)
theorem ageTimerExpire (ctx : Nat) (q : Nat) : Statement (.ageTimerExpire ctx q) := fun _ => (by decide : (0 : Nat) < 2 ^ 32)
theorem preemptRequest (team : Nat) : Statement (.preemptRequest team) := fun _ => (by decide : (0 : Nat) < 2 ^ 32)
theorem saveComplete (team : Nat) : Statement (.saveComplete team) := fun _ => (by decide : (0 : Nat) < 2 ^ 32)
theorem drainDeadlineExpire (team : Nat) : Statement (.drainDeadlineExpire team) := fun _ => (by decide : (0 : Nat) < 2 ^ 32)
theorem adminRingPoll : Statement .adminRingPoll := fun _ => by decide
theorem bind (e : Adm) (ccb : Nat) (ckpt : Nat) : Statement (.bind e ccb ckpt) := fun _ => (by decide : (0 : Nat) < 2 ^ 32)
theorem kill (e : Adm) : Statement (.kill e) := fun _ => (by decide : (0 : Nat) < 2 ^ 32)
theorem suspend (e : Adm) (deadline : Nat) : Statement (.suspend e deadline) := fun _ => (by decide : (0 : Nat) < 2 ^ 32)
theorem suspendComplete (ctx : Nat) : Statement (.suspendComplete ctx) := fun _ => (by decide : (0 : Nat) < 2 ^ 32)
theorem resume (e : Adm) : Statement (.resume e) := fun _ => (by decide : (0 : Nat) < 2 ^ 32)
theorem qconf (e : Adm) (q : Nat) : Statement (.qconf e q) := fun _ => (by decide : (0 : Nat) < 2 ^ 32)
theorem quant (e : Adm) : Statement (.quant e) := fun _ => (by decide : (0 : Nat) < 2 ^ 32)
theorem unbind (e : Adm) : Statement (.unbind e) := fun _ => (by decide : (0 : Nat) < 2 ^ 32)
theorem scope (e : Adm) (n : Nat) (wait : Bool) : Statement (.scope e n wait) := fun _ => (by decide : (0 : Nat) < 2 ^ 32)
theorem volshoot (e : Adm) (h : Nat) : Statement (.volshoot e h) := fun _ => (by decide : (0 : Nat) < 2 ^ 32)
theorem region (e : Adm) (sel : Nat) (w0 : Nat) (w1 : Nat) : Statement (.region e sel w0 w1) := fun _ => (by decide : (0 : Nat) < 2 ^ 32)
theorem stock (e : Adm) (units : Nat) : Statement (.stock e units) := fun _ => (by decide : (0 : Nat) < 2 ^ 32)
theorem restore (e : Adm) (addr : Nat) (bytes : Nat) : Statement (.restore e addr bytes) := fun _ => (by decide : (0 : Nat) < 2 ^ 32)
theorem chret (e : Adm) (sel : Nat) : Statement (.chret e sel) := fun _ => (by decide : (0 : Nat) < 2 ^ 32)
theorem wdog (e : Adm) (ms : Nat) : Statement (.wdog e ms) := fun _ => (by decide : (0 : Nat) < 2 ^ 32)
theorem retire (e : Adm) (core : Nat) : Statement (.retire e core) := fun _ => (by decide : (0 : Nat) < 2 ^ 32)
theorem fwcommit (e : Adm) (ver : Nat) : Statement (.fwcommit e ver) := fun _ => (by decide : (0 : Nat) < 2 ^ 32)
theorem wread (e : Adm) (handle : Nat) (tid : Nat) (wid : Nat) (addr : Nat) (bytes : Nat) : Statement (.wread e handle tid wid addr bytes) := fun _ => (by decide : (0 : Nat) < 2 ^ 32)
theorem wrelease (e : Adm) (handle : Nat) (tid : Nat) (wid : Nat) : Statement (.wrelease e handle tid wid) := fun _ => (by decide : (0 : Nat) < 2 ^ 32)
theorem shoot (ctx : Nat) (start : Nat) (pages : Nat) : Statement (.shoot ctx start pages) := fun _ => (by decide : (0 : Nat) < 2 ^ 32)
theorem pooladd (ctx : Nat) (desc : Nat) (list : Nat) (n : Nat) : Statement (.pooladd ctx desc list n) := fun _ => (by decide : (0 : Nat) < 2 ^ 32)
theorem haackWrite (v : Nat) : Statement (.haackWrite v) := fun _ => (by decide : (0 : Nat) < 2 ^ 32)
theorem faultPost (w : Nat) : Statement (.faultPost w) := fun _ => (by decide : (0 : Nat) < 2 ^ 32)
theorem faultRingResume (ctx : Nat) : Statement (.faultRingResume ctx) := fun _ => (by decide : (0 : Nat) < 2 ^ 32)
theorem faultReply (v : Nat) : Statement (.faultReply v) := fun _ => (by decide : (0 : Nat) < 2 ^ 32)
theorem qtailWrite (ctx : Nat) (q : Nat) (v : Nat) : Statement (.qtailWrite ctx q v) := fun _ => (by decide : (0 : Nat) < 2 ^ 32)
theorem ardyWrite (v : Nat) : Statement (.ardyWrite v) := fun _ => (by decide : (0 : Nat) < 2 ^ 32)
theorem registerWrite (off : Nat) (v : Nat) : Statement (.registerWrite off v) := fun _ => (by decide : (0 : Nat) < 2 ^ 32)
theorem hostLoad (ctx : Nat) (va : Nat) (size : Nat) : Statement (.hostLoad ctx va size) := fun _ => (by decide : (0 : Nat) < 2 ^ 32)
theorem hostStore (ctx : Nat) (va : Nat) (size : Nat) (v : Nat) : Statement (.hostStore ctx va size v) := fun _ => (by decide : (0 : Nat) < 2 ^ 32)
theorem hostAtomic (ctx : Nat) (va : Nat) (op : AtomOp) (v : Nat) : Statement (.hostAtomic ctx va op v) := fun _ => (by decide : (0 : Nat) < 2 ^ 32)
theorem apertureLoad (off : Nat) (size : Nat) : Statement (.apertureLoad off size) := fun _ => (by decide : (0 : Nat) < 2 ^ 32)
theorem apertureStore (off : Nat) (size : Nat) (v : Nat) : Statement (.apertureStore off size v) := fun _ => (by decide : (0 : Nat) < 2 ^ 32)
theorem translationQuery (ctx : Nat) (va : Nat) (acc : Nat) : Statement (.translationQuery ctx va acc) := fun _ => (by decide : (0 : Nat) < 2 ^ 32)
theorem getMeasurements : Statement .getMeasurements := fun _ => by decide
theorem dieTeardown (die : Nat) : Statement (.dieTeardown die) := fun _ => (by decide : (0 : Nat) < 2 ^ 32)
theorem linkRetrain (port : Nat) : Statement (.linkRetrain port) := fun _ => (by decide : (0 : Nat) < 2 ^ 32)
theorem laneSpare (port : Nat) (lane : Nat) : Statement (.laneSpare port lane) := fun _ => (by decide : (0 : Nat) < 2 ^ 32)
theorem memoryScrub (stack : Nat) : Statement (.memoryScrub stack) := fun _ => (by decide : (0 : Nat) < 2 ^ 32)
theorem coreSelfTest (core : Nat) (pass : Bool) : Statement (.coreSelfTest core pass) := fun _ => (by decide : (0 : Nat) < 2 ^ 32)
theorem coreRetirement (core : Nat) : Statement (.coreRetirement core) := fun _ => (by decide : (0 : Nat) < 2 ^ 32)
theorem bankSpare (cluster : Nat) (bank : Nat) : Statement (.bankSpare cluster bank) := fun _ => (by decide : (0 : Nat) < 2 ^ 32)
theorem watchdogExpire (w : Nat) : Statement (.watchdogExpire w) := fun _ => (by decide : (0 : Nat) < 2 ^ 32)
theorem fabricKeepalive (peer : Nat) : Statement (.fabricKeepalive peer) := fun _ => (by decide : (0 : Nat) < 2 ^ 32)
theorem keepaliveLapse (peer : Nat) : Statement (.keepaliveLapse peer) := fun _ => (by decide : (0 : Nat) < 2 ^ 32)
theorem domainAccessTimeout (w : Nat) (sp : Nat) : Statement (.domainAccessTimeout w sp) := fun _ => (by decide : (0 : Nat) < 2 ^ 32)
theorem clockStep (up : Bool) : Statement (.clockStep up) := fun _ => (by decide : (0 : Nat) < 2 ^ 32)
theorem clusterClockGate (cluster : Nat) : Statement (.clusterClockGate cluster) := fun _ => (by decide : (0 : Nat) < 2 ^ 32)
theorem clusterWake (cluster : Nat) : Statement (.clusterWake cluster) := fun _ => (by decide : (0 : Nat) < 2 ^ 32)
theorem deviceReset : Statement .deviceReset := fun _ => by decide
theorem powerLoss : Statement .powerLoss := fun _ => by decide
theorem peerAccess (peer : Nat) (kind : PeerKind) (ctx : Nat) (va : Nat) (v : Nat) : Statement (.peerAccess peer kind ctx va v) := fun _ => (by decide : (0 : Nat) < 2 ^ 32)
theorem drainRingResume : Statement .drainRingResume := fun _ => by decide
theorem ageingMonitorReport (core : Nat) : Statement (.ageingMonitorReport core) := fun _ => (by decide : (0 : Nat) < 2 ^ 32)

end Laws.Encodable

end Sys2Proof
end

