-- ==== Sys2Proof/Tests/Slice0.lean ====
section
/-!
SUPPORT. Tests: words written out from the encodings of spec 03 and 05 to 08, ill-formed terms that WellFormed refuses, the
worked examples of the spec, one step from reset, and for each statement a state and operands that meet its hypotheses.
-/

namespace Sys2Proof.Tests

set_option Elab.async false

open Sys2Proof.Machine

/-! ## Decoding (spec 03; the words of spec 05 to 08) -/

theorem test_encode_arithmetic :
    encode (.add false (.win 4) (.win 5) (.win 6)) = 0x00102860 ∧ encode (.shiSar false (.win 7) (.win 8) 3) = 0x1C1C4403 ∧
    encode (.cmpi 2 1 (.win 3) 0xFF9) = 0x2C883FF9 ∧ encode (.cvt false (.win 6) (.win 7) 1 2 5) = 0x3C183925 ∧
    encode (.shw 40 6) = 0x40A3A066 ∧ encode (.rclaim .z 2) = 0x45D3A026 := by decide

theorem test_encode_control :
    encode (.bra 0x3FFFFFD) = 0x5BFFFFFD ∧ encode (.call 30 0x28) = 0x60780028 ∧ encode (.brd 2 true 0x224 0x228) = 0x5D512228 ∧
    encode (.xp 0 0 0x1FFC01) = 0xFC1FFC01 ∧ encode (.bar 1 5) = 0x6807A056 ∧ encode (.rte 1) = 0x55D3A012 := by decide

theorem test_encode_memory :
    encode (.ldg false .w32 (.one (.win 4)) 5 (.win 5) 0) = 0x6C1050B0 ∧ encode (.stg .w32 (.one (.win 5)) 1 (.win 4) 0) = 0x70141090 ∧
    encode (.atomiAdd (.win 6) 5 (.win 7) 2) = 0x8830A1C8 ∧ encode (.phar 4) = 0x9D000004 := by decide

theorem test_encode_engines :
    encode (.boarr 1 (.win 4) (.win 5)) = 0xA0042051 ∧ encode (.qpush (.win 9) 3) = 0xA5D04830 ∧ encode (.cpyx 8) = 0xA9D04741 ∧
    encode (.mmaBf16 2 true 1 2) = 0xBD400820 ∧ encode (.accexp 1 40 (.win 9)) = 0xC0A04819 ∧ encode (.snap 4 2) = 0xCC13A020 := by
  decide

/-- R77, R78: function codes and fields the tables leave unnamed are reserved; opcodes without a name are illegal. -/
theorem test_reserved :
    decodeWord 0xD6000000 = .illegal ∧ decodeWord 0x2F083FF9 = .reserved ∧ decodeTableWord 32 0xD6000000 = none ∧
    decodeBytes (wordBytes 0x00102860) = .ok (.add false (.win 4) (.win 5) (.win 6)) := by decide

/-! ## WellFormed refuses an ill-formed term for each of its checks -/

theorem test_wf_registers :
    ∀ i ∈ ([.add false (.win 112) .z .z, .add false .z (.win 112) .z, .add false .z .z (.bp 4), .clz false .z (.win 112),
      .shw 112 1, .shw 0 0, .shw 0 17, .shn false (.win 112), .brx 112, .call 112 0, .callx 0 112, .tqry 112 0, .cpy 112,
      .ldg false .w32 (.one .z) 56 .z 0, .ldg false .w32 (.one .z) 0 (.win 112) 0, .ldg true .w64 (.group 0) 0 .z 0,
      .ldg false .w64 (.one .z) 0 .z 0, .ldg false .w32 (.group 4) 0 .z 0, .ldg false .w128 (.group 112) 0 .z 0,
      .stg .w64 (.one .z) 0 .z 0, .stg .w32 (.group 4) 0 .z 0, .atomsAdd true .z .z .z, .svldMx false .z 0 112] : List Instr),
      i.wf = false := by decide

theorem test_wf_fields :
    ∀ i ∈ ([.addi false .z .z 2048, .shiShl false .z .z 32, .li false .z 262144, .cmp 12 0 .z .z 0 0, .cmp 0 8 .z .z 0 0,
      .cmp 0 0 .z .z 8 1, .cmp 0 0 .z .z 0 3, .cmp 0 0 .z .z 1 0, .cmpi 0 0 .z 4096, .fcmp 8 0 .z .z 0 0,
      .cvt false .z .z 6 0 0, .cvt false .z .z 0 15 0, .cvt false .z .z 0 0 15, .sel false .z .z .z 8 false, .ixset .z 4,
      .wbasei 128, .mfs false .z 16384, .rclaim .z 128, .pand 8 0 0, .voteAny 0 8 false, .bra 67108864, .brd 8 false 0 0,
      .brd 0 false 2048 0, .brd 0 false 0 2048, .xp 8 0 0, .xp 0 4 0, .xp 0 0 2097152, .trap 32, .bar 8 0, .bar 0 16,
      .pref 0 .z 4, .atomiAdd .z 0 .z 16, .phrel 16, .rte 2, .tagrd false .z 4, .qpush .z 16, .mmaBf16 4 false 0 0,
      .mmaBf16 0 false 16 0, .accz 4 .z, .tshape 16 .z, .acctot 16 0 .z, .waitf .z 0 3, .snap 0 16] : List Instr),
      i.wf = false := by decide

theorem test_wf_events :
    ∀ i ∈ ([.sleepExpire 0 (2 + 65536), .barComplete 0 16, .pageWalk 64 0, .launchDispatch 0 64, .bind { slot := 0, ctx := 64 } 0 0,
      .hostLoad 64 0 4, .hostLoad 0 0 3, .apertureLoad 0 5, .dieTeardown 4, .memoryScrub 12, .coreSelfTest 768 true,
      .bankSpare 192 0, .bankSpare 0 32, .laneSpare 0 72, .clusterWake 192] : List Instr), i.wf = false := by decide

/-! ## Worked examples of the spec -/

/-- R153: the example of RBAL. -/
theorem test_rbal :
    let counts : Reg := .v (([3, 0, 2, 4, 0, 1].map fun n => BitVec.ofNat 32 n) ++ List.replicate 26 0#32)
    (List.range 12).map (ownerOf 32 allLanes counts) =
      [(0, 0), (0, 1), (0, 2), (2, 0), (2, 1), (3, 0), (3, 1), (3, 2), (3, 3), (5, 0), (32, 0), (32, 1)] := by decide

/-- R136: a plain fit and an odd distance. -/
theorem test_fit :
    (let a : Reg := .v ((List.range 32).map fun l => BitVec.ofNat 32 (100 + 6 * l))
     (fit 0x444#32 a).toOption = some (.a 100#32 6#32)) ∧
    (let a : Reg := .v ((List.range 32).map fun l => if l = 4 then 1#32 else 0#32)
     (fit 0x12#32 a).toOption = some (.a 0x55555555#32 0xAAAAAAAB#32)) := by decide

/-- R111: the columns the example keeps. -/
theorem test_kept :
    keptColumns (.bin fF32) 3 (fun j => if j = 5 then 0xC0400000#32 else if j = 9 then 0x40400000#32
      else if j = 20 then 0x7FC00000#32 else if j = 30 then 0x40E00000#32 else 0x3F800000#32) = [5, 20, 30] := by decide +kernel

/-- Spec 15: the object in round 1, in round 5 with its overrun, and BOINIT. -/
theorem test_object :
    oInitial 96 = 0x0100600600000000 ∧ (oArrive 0x0100600600000000 1 0).1 = 0x01006005F0000000 ∧
    (oArrive 0x0100600010000000 1 0).1 = 0x0110600600000000 ∧
    oArrive 0x0140600010000000 3 0 = (0x0150600600000000 + 2 ^ 64 * 0x0040000100000000, true, false) := by decide

/-- R238: the example of a lookup. -/
theorem test_volume :
    let v : Vol := { words := [0, 0, 127 + 3 * 2 ^ 24, 127 + 3 * 2 ^ 24, 127 + 3 * 2 ^ 24, 2 + 2 * 4] }
    v.tileOf (100, 37, 9) = (12, 4, 1) ∧ nodeIndex (12, 4, 1) 1 = 1 ∧ nodeIndex (12, 4, 1) 0 = 100 ∧
      v.offset (100, 37, 9) = 0x1B0 := by decide

/-- R355, R358: the page worked through. -/
theorem test_page :
    let l := leafOf 0x00000006400C009B false 37
    (l.frame, l.key, l.rd, l.wr, l.cmpr, l.cls) = (100, 3, true, true, true, 0) ∧ physAddr 0 l 0x259ABC = 0x1000086ABC := by decide

/-! ## Steps from reset (log 2) -/

/-- What a word, placed where the first step after reset fetches, leaves of the warp. -/
noncomputable def ran (w : Nat) : Option Warp :=
  match step (State.reset.withFetchWord 32 w) with
  | .next s => s.warps[0]?
  | _ => none

/-- `li w4, 5` (R124): LI is opcode 0x08. -/
theorem test_step_li :
    (ran (0x08 * 2 ^ 26 + 4 * 2 ^ 18 + 5)).map (fun x => (x.regs[4]?, x.split0.map Split.pc)) = some (some (.u 5#32), some 0x400004) := by
  decide +kernel

/-- `add w4, ln, tid` (R26): affine, base tid. -/
theorem test_step_add :
    (ran (4 * 2 ^ 18 + 117 * 2 ^ 11 + 119 * 2 ^ 4)).map (fun x => x.regs[4]?) = some (some (.a 0#32 1#32)) := by decide +kernel

/-- An illegal word raises 0x01 and enters the handler (R90, R44). -/
theorem test_step_illegal :
    (ran 0xD4000000).map (fun x => (x.trap.tcause, x.trap.tpc, x.sup, x.split0.map Split.pc)) =
      some (0x01#32, 0x400000, true, some 0x401000) := by decide +kernel

/-! ## The hypotheses of the statements can be met

`base` is a device of one cluster with one context, launch, team and warp, its split about to issue at the first word of its page;
`on f` the same with another warp. -/

def job : Launch :=
  { ctx := 0, queue := 0, seq := 0, record := bootRecord, grp := false, st := .dispatched, teams := 1, halted := false, dispatchAt := 0
    kept := [] }

def base : State :=
  { State.reset with
    ctxs := [{ Context.reset with st := 1, asid := 0xFFFF, gen := 1, root := 0x10000, tvec := 0x401000, pkr := 2 ^ 64 - 1
                                  pmap := List.replicate 64 2#32, fring := 0x402000, grant := [1, 0, 0, 0], scopetab := 0x404000
                                  voltab := 0x405000, ftdesc := 0x407000, ftbmap := 0x407800 }]
    launches := [job]
    crews := [{ Crew.none0 with launch := 0, teams := [0], begun := true, resident := true, queues := List.replicate 16 Queue.closed }]
    teams := [{ Team.none0 with launch := 0, crew := 0, core := 0, warps := 1, res := .running
                                tiles := List.replicate 16 Tile.blank, accs := List.replicate 4 Acc.blank }]
    warps := [{ freshWarp State.reset job 0 0 0x8000 0 with pkr := 2 ^ 64 - 1, privBase := 0x408080, weltBase := 0x408200 }]
    cores := [{ Core.reset with slotsFree := 3984, pool := 1984, table := { st := 2, words := [], team := 0 } :: List.replicate 7 SlotEntry.free, warpsFree := 30, tilesFree := 0 }]
    clusters := [{ Cluster.reset with banks := (⟨1, some 0⟩ :: List.replicate 30 ⟨0, none⟩) ++ [⟨2, some 0⟩] }]
    mem := { State.reset.mem with home :=
      [(0x10000, 1#8), (0x10002, 2#8), (0x20000, 1#8), (0x20002, 3#8), (0x30200, 0x3B#8), (0x30201, 8#8), (0x30204, 4#8)] }
    sched := { issue := some (0, 0), tape := [], agenda := [], quiet := 0, turn := 0, late := false, differ := false } }

def on (f : Warp → Warp) : State := base.mapWarp 0 f
def split (f : Split → Split) (x : Warp) : Warp := x.mapSplit 0 f
def inTeam (f : Team → Team) (s : State) : State := s.mapTeam 0 f

/-- The split at issue passes the checks of a form and has a property. -/
def meets (s : State) (f : Form) (p : Iss → Bool) : Bool :=
  match issuing s with
  | some c => (c.preTrap s f).isNone && p c
  | none => false

theorem meets_issues {s f p} (h : meets s f p = true) : ∃ c, Issues s c f ∧ p c = true := by
  unfold meets at h
  split at h
  · rename_i c hc
    simp only [Bool.and_eq_true, Option.isNone_iff_eq_none] at h
    exact ⟨c, ⟨hc, h.1⟩, h.2⟩
  · exact absurd h (by decide)

/-- A split of a warp has a property. -/
def stands (s : State) (w sp : Nat) (p : Iss → Bool) : Bool :=
  match issOf s w sp with
  | some c => p c
  | none => false

theorem stands_iss {s w sp p} (h : stands s w sp p = true) : ∃ c, issOf s w sp = some c ∧ p c = true := by
  unfold stands at h
  split at h
  · rename_i c hc
    exact ⟨c, hc, h⟩
  · exact absurd h (by decide)

def passes (r : Except Trap α) : Bool :=
  match r with
  | .ok _ => true
  | .error _ => false

def d4 : Opnd := dstOp (.win 4)
def a5 : Opnd := srcOp (.win 5)
def b6 : Opnd := srcOp (.bp 0)
def p4 : Opnd := pairOp 4
def p8 : Opnd := pairOp 8
def put (k : Nat) (r : Reg) (x : Warp) : Warp := { x with regs := x.regs.set k r }
def vreg : Reg := .v ((List.range 32).map fun l => BitVec.ofNat 32 (l * l))
def partEm (x : Warp) : Warp := split (fun t => { t with em := 0x7#32 }) x
def noEm (x : Warp) : Warp := split (fun t => { t with em := 0#32 }) x
def prefixed (ind ext : Nat) (x : Warp) : Warp := split (fun t => { t with xp := some { ind := ind, xs := 1, ext := ext } }) x
def handler (x : Warp) : Warp := { x with sup := true }

/-- Arithmetic under a full, a partial and an empty em, and with indirect fields (IntegerResults, FloatResults,
PackedAndConvertResults, ComparisonAndSelectResults). -/
theorem witness_arithmetic :
    (∃ c, Issues base c { d := d4, a := a5, b := b6, cob := true } ∧ (c.em == c.live && c.em != 0#32) = true) ∧
    (∃ c, Issues (on partEm) c { d := d4, a := a5, b := b6, cob := true } ∧ (c.em != c.live && c.em != 0#32) = true) ∧
    (∃ c, Issues (on noEm) c { d := d4, a := a5 } ∧ (c.em == 0#32) = true) ∧
    (∃ c, Issues (on (prefixed 6 0)) c { d := d4, a := a5, b := b6 } ∧ (c.ind .d && c.ind .a) = true) :=
  ⟨meets_issues (by decide +kernel), meets_issues (by decide +kernel), meets_issues (by decide +kernel), meets_issues (by decide +kernel)⟩

/-- A warp with no free slot and a V result (the 0x07 arm of Yields). -/
theorem witness_no_slot :
    ∃ c, Issues (on fun x => { put 5 vreg x with free := 0 }) c { d := d4, a := a5, b := b6 } ∧
      (decide (c.warp.free < c.needs [(c.dst (.win 4), vreg)])) = true := meets_issues (by decide +kernel)

/-- ImmediateResults: with and without extension bits. -/
theorem witness_immediate :
    (∃ c, Issues base c { d := d4, a := a5, ext := .bits 21, cob := true } ∧ (c.imm 2047 11 == 0xFFFFFFFF#32) = true) ∧
    (∃ c, Issues (on (prefixed 0 0x1FFFFF)) c { d := d4, a := a5, ext := .bits 21, cob := true } ∧ (c.imm 0 11 == 0xFFFFF800#32) = true) ∧
    (∃ c, Issues base c { d := d4, ext := .bits 14, cob := true } ∧ true = true) :=
  ⟨meets_issues (by decide +kernel), meets_issues (by decide +kernel), meets_issues (by decide +kernel)⟩

/-- ComparisonAndSelectResults: the three arms of SEL. -/
theorem witness_select :
    (∃ c, Issues base c { d := d4, a := a5, b := b6 } ∧ (c.em &&& c.pred 0 true == c.em) = true) ∧
    (∃ c, Issues base c { d := d4, a := a5, b := b6 } ∧ (c.em != 0#32 && c.em &&& c.pred 0 false == 0#32) = true) ∧
    (∃ c, Issues (on fun x => { x with preds := x.preds.set 0 0xFF#32 }) c { d := d4, a := a5, b := b6 } ∧
      (c.em &&& c.pred 0 false != c.em && c.em &&& c.pred 0 false != 0#32) = true) :=
  ⟨meets_issues (by decide +kernel), meets_issues (by decide +kernel), meets_issues (by decide +kernel)⟩

/-- ShapeResults: em zero; lanes that fit and lanes that do not. -/
theorem witness_shapes :
    (∃ c, Issues (on noEm) c { d := d4, a := a5 } ∧ (c.em == 0#32) = true) ∧
    (∃ c, Issues (on partEm) c { d := d4, a := a5 } ∧ (c.em == 0x7#32) = true) :=
  ⟨meets_issues (by decide +kernel), meets_issues (by decide +kernel)⟩

theorem witness_fits : FitsLanes 0x1#32 (.u 5#32) 5#32 0#32 :=
  ⟨fun l _ _ => by simp [Reg.lane], fun _ => rfl, fun h => absurd (by decide) h⟩

theorem witness_no_fit (b st : Word) : ¬ FitsLanes 0x7#32 vreg b st := by
  intro h
  have h0 := h.1 0 (by decide) (by decide)
  have h1 := h.1 1 (by decide) (by decide)
  have h2 := h.1 2 (by decide) (by decide)
  have e0 : vreg.lane 0 = 0#32 := by decide
  have e1 : vreg.lane 1 = 1#32 := by decide
  have e2 : vreg.lane 2 = 4#32 := by decide
  rw [e0] at h0; rw [e1] at h1; rw [e2] at h2
  simp only [Reg.lane] at h0 h1 h2
  bv_omega

/-- WidenAndCompact: too few slots, enough, SHN of a V register that is uniform and one with no fit. -/
theorem witness_widen :
    (∃ c, Issues (on fun x => { x with free := 0 }) c { d := .win 8 4 1 1 } ∧ (decide (c.warp.free < 4)) = true) ∧
    (∃ c, Issues base c { d := .win 8 4 1 1 } ∧ (decide (4 ≤ c.warp.free)) = true) ∧
    (∃ c, Issues (on (put 4 (.v (List.replicate 32 9#32)))) c { d := d4 } ∧
      ((c.warp.getReg (c.place .d 4 0)).isV && c.live != 0#32) = true) ∧
    (∃ c, Issues (on (put 4 vreg)) c { d := d4 } ∧ ((c.warp.getReg (c.place .d 4 0)).isV && c.dst .z == none) = true) :=
  ⟨meets_issues (by decide +kernel), meets_issues (by decide +kernel), meets_issues (by decide +kernel), meets_issues (by decide +kernel)⟩

/-- WindowAndQuota: the operand U and not, the highest delta. -/
theorem witness_window :
    (∃ c, Issues base c { a := a5 } ∧ (c.read .a (.win 5) == .u 0#32) = true) ∧
    (∃ c, Issues (on (put 5 vreg)) c { a := a5 } ∧ (!(c.read .a (.win 5)).isU) = true) ∧
    (∃ c, Issues base c {} ∧ (decide (127 < 128 ∧ c.warp.allot = 112)) = true) :=
  ⟨meets_issues (by decide +kernel), meets_issues (by decide +kernel), meets_issues (by decide +kernel)⟩

/-- WindowAndQuota: slots to give, too few, a claim beyond the core, one that parks, a count of 0. -/
theorem witness_quota :
    (∃ c, Issues (on fun x => { x with q := x.floor + 8, free := 8 }) c { a := a5 } ∧
      (decide (8 ≤ c.warp.free ∧ c.warp.floor + 8 ≤ c.warp.q)) = true) ∧
    (∃ c, Issues (on fun x => { x with free := 0 }) c { a := a5 } ∧ (decide (c.warp.free < 1)) = true) ∧
    (∃ c, Issues base c { a := a5 } ∧ (decide (2048 < c.warp.q + 127 + 1900 + otherFloors base c.w c.warp.core)) = true) ∧
    (∃ c, Issues base c { a := a5 } ∧ (decide (c.warp.q + 1 + otherFloors base c.w c.warp.core ≤ 2048)) = true) :=
  ⟨meets_issues (by decide +kernel), meets_issues (by decide +kernel), meets_issues (by decide +kernel), meets_issues (by decide +kernel)⟩

/-- LaneExchangeResults and PredicateResults: the forms, with a pair. -/
theorem witness_lanes :
    (∃ c, Issues (on (put 5 vreg)) c { d := p4, a := a5, b := b6 } ∧ (c.em != 0#32) = true) ∧
    (∃ c, Issues base c {} ∧ (c.warp.lanes == 32) = true) ∧
    (∃ c, Issues (on fun x => { x with prot := true, live := 0xFFFF#32 }) c { d := d4, a := a5 } ∧ (c.warp.lanes == 16) = true) :=
  ⟨meets_issues (by decide +kernel), meets_issues (by decide +kernel), meets_issues (by decide +kernel)⟩

/-- One live lane, and an address of the page in the pair at w8. -/
def solo (x : Warp) : Warp :=
  put 8 (.u 0x400100#32) { split (fun t => { t with em := 1#32, entry := 1#32 }) x with live := 1#32 }

theorem holds_pair {s f} {p : Iss → Bool} {n v : Nat} (h : meets s f (fun c => p c && (match c.regAt .a n 0, c.regAt .a n 1 with
    | .u lo, .u hi => v == lo.toNat + 2 ^ 32 * hi.toNat
    | _, _ => false)) = true) : ∃ c, Issues s c f ∧ p c = true ∧ c.HoldsPair .a n v := by
  obtain ⟨c, hc, h⟩ := meets_issues h
  rw [Bool.and_eq_true] at h
  obtain ⟨h1, h2⟩ := h
  split at h2
  · rename_i lo hi e0 e1
    exact ⟨c, hc, h1, lo, hi, e0, e1, by simpa using h2⟩
  · exact absurd h2 (by decide)

/-- BranchResults: a prefix, a BRD that does not divide (with and without a reconvergence distance, under em zero), and pairs at
the boundary values of a target. -/
theorem witness_branches :
    (∃ c, Issues base c { ext := .none, cob := true } ∧ true = true) ∧
    (∃ c, Issues base c { ext := .bits 21, cob := true } ∧ (!c.divides 0 false && c.rcvDist 0 == 0 && c.rcvDist 2047 != 0) = true) ∧
    (∃ c, Issues (on noEm) c { ext := .bits 21, cob := true } ∧ (!c.divides 0 false && c.em == 0#32) = true) ∧
    (∃ c, Issues base c { d := p4, ext := .bits 14 } ∧ true = true) ∧
    (∃ c, Issues (on (put 8 (.u 0x400002#32))) c { d := p4, a := p8 } ∧ true = true ∧ c.HoldsPair .a 8 0x400002) ∧
    (∃ c, Issues (on fun x => put 8 (.u 0xFFFFFFFC#32) (put 9 (.u 0xFFFFFF#32) x)) c { a := p8 } ∧ true = true ∧ c.HoldsPair .a 8 (2 ^ 56 - 4)) ∧
    (∃ c, Issues (on (put 9 (.u 0x1000000#32))) c { a := p8 } ∧ true = true ∧ c.HoldsPair .a 8 (2 ^ 56)) :=
  ⟨meets_issues (by decide +kernel), meets_issues (by decide +kernel), meets_issues (by decide +kernel), meets_issues (by decide +kernel),
    holds_pair (by decide +kernel), holds_pair (by decide +kernel), holds_pair (by decide +kernel)⟩

def halves (x : Warp) : Warp := { x with preds := x.preds.set 0 0xFFFF#32 }

/-- DivisionMakesTwoSplits: a predicate of half the lanes, with room in a Welt whose memory is not mapped. -/
theorem witness_division :
    let s := on fun x => { halves x with weltBase := 0 }
    ∃ c, Issues s c { ext := .bits 21, cob := true } ∧
      (c.divides 0 false && c.rcvDist 5 != 0 && decide (c.split.depth < 255) && c.warp.split? (otherSlot c.sp) == none &&
        (weltFree c.warp).head? == some 0 && !weltMapped s c.warp 0 && c.brdTarget 2 != wordsFrom c.split.pc (c.rcvDist 5) &&
        (c.split.pc + 4) % 2 ^ 64 != wordsFrom c.split.pc (c.rcvDist 5)) = true := meets_issues (by decide +kernel)

/-- The division that traps: in the handler, and without a Welt. -/
theorem witness_division_traps :
    (∃ c, Issues (on fun x => handler (halves x)) c {} ∧ (c.divides 0 false && c.warp.sup) = true) ∧
    (∃ c, Issues (on fun x => { halves x with welt := [] }) c { ext := .bits 21, cob := true } ∧
      (c.divides 0 false && decide ((weltFree c.warp).length < c.weltNeed)) = true) :=
  ⟨meets_issues (by decide +kernel), meets_issues (by decide +kernel)⟩

/-- A second split in the other slot. -/
def second (f : Split → Split) (x : Warp) : Warp := { x with split1 := x.split0.map f }

/-- DivisionMakesTwoSplits: at depth 255, in the Cobbler, at a reconvergence distance of 0, with a Welt that is mapped, and with an
occupant of the other slot that is suspended, or that is deeper. -/
theorem witness_division_bounds :
    let form : Form := { ext := .bits 21, cob := true }
    (∃ c, Issues (on fun x => split (fun t => { t with depth := 255 }) (halves x)) c form ∧
      (c.divides 0 false && c.rcvDist 5 != 0 && c.split.depth == 255) = true) ∧
    (∃ c, Issues (on fun x => { halves x with cobbler := true }) c form ∧ (c.divides 0 false && c.warp.cobbler) = true) ∧
    (∃ c, Issues (on halves) c form ∧ (c.divides 0 false && c.rcvDist 0 == 0 && weltMapped (on halves) c.warp 0 &&
      (weltFree c.warp).head? == some 0 && c.rcvDist 5 != 0) = true) ∧
    (let s := fun (d : Nat) => on fun x => { second (fun t => { t with depth := d }) (halves x) with weltBase := 0 }
     let other := fun (d : Nat) (c : Iss) => c.divides 0 false && decide (2 ≤ (weltFree c.warp).length) && !weltMapped (s d) c.warp 0 &&
       !weltMapped (s d) c.warp 1 && (c.warp.split? (otherSlot c.sp)).any fun e => e.depth == d && e.rcv != some e.pc && e.entry != 0#32
     (∃ c, Issues (s 1) c form ∧ (other 1 c) = true) ∧ (∃ c, Issues (s 2) c form ∧ (other 2 c) = true)) :=
  ⟨meets_issues (by decide +kernel), meets_issues (by decide +kernel), meets_issues (by decide +kernel), meets_issues (by decide +kernel),
    meets_issues (by decide +kernel)⟩

/-- ArrivalsAndMerges: a split at its reconvergence PC whose record waits for two, with nothing suspended and with a split that comes
back; the second arrival; a split with no lane and no record. -/
theorem witness_arrivals :
    let w := fun (arr : Bool) (order : List Nat) => ((on fun x => { second (fun t => { t with rcv := none, join := none }) x with
      weltBase := 0, weltOrder := order, welt := [.join 0x400100 none none 0 arr 0xF#32, .split (x.split0.getD Split.none0)] }).mapWarp 0
        (split fun t => { t with rcv := some t.pc, join := some 0 }))
    let at_ := fun (s : State) => stands s 0 0 fun c => c.split.late.isNone && c.split.rcv == some c.split.pc && !c.warp.sup &&
      c.warp.st == .running && (c.warp.split? 1).isSome && !weltMapped s c.warp 0 && !weltMapped s c.warp 1
    (at_ (w false []) && at_ (w false [1]) && at_ (w true [])) = true ∧
    stands (on fun x => second (fun t => { t with rcv := none }) (split (fun t => { t with entry := 0#32 }) x)) 0 0 (fun c =>
      c.split.entry == 0#32 && c.split.join == none && c.warp.weltOrder == []) = true := by decide +kernel

def sibling (pc : Nat) (x : Warp) : Warp :=
  { x with split1 := x.split0.map fun t => { t with park := .bar pc 3 0 0 } }

/-- ControlResults: em part of the live mask and all of it, a sibling at a barrier, one that is not, a debugged context, a team
with a halted warp. -/
theorem witness_control :
    (∃ c, Issues (on partEm) c {} ∧ (c.live &&& ~~~c.em != 0#32 && c.siblingBar == none && !c.debug base) = true) ∧
    (∃ c, Issues base c {} ∧ (c.live &&& ~~~c.em == 0#32 && !abandoned base c.warp.team) = true) ∧
    (∃ c, Issues (on (sibling 0)) c {} ∧ (c.em != 0#32 && c.siblingBar == some (0, 3) && c.split.pc != 0) = true) ∧
    (∃ c, Issues (base.mapCtx 0 fun x => { x with flags := 2 }) c {} ∧ (c.debug (base.mapCtx 0 fun x => { x with flags := 2 })) = true) ∧
    (let s := { base with warps := base.warps ++ [{ base.warps.headD Warp.blank with st := .halted false }] }
     ∃ c, Issues s c {} ∧ (abandoned s c.warp.team) = true) ∧
    (∃ c, Issues (on (put 5 (.u 9#32))) c { a := a5, cob := true } ∧ (c.read .a (.win 5) == .u 9#32) = true) :=
  ⟨meets_issues (by decide +kernel), meets_issues (by decide +kernel), meets_issues (by decide +kernel), meets_issues (by decide +kernel),
    meets_issues (by decide +kernel), meets_issues (by decide +kernel)⟩

def reaches (s : State) (c : Iss) (k : Space) (kind : Access) (n : Nat) (addr : Nat → Nat) : Bool :=
  passes (c.checkAccess s k kind n addr) && (c.waitRemote s addr fun l => c.byteAddrs k n l (addr l)).isNone

/-- LoadsComplete, StoresComplete and AtomicsComplete: a lane that reaches its address, one that does not, one in the scratchpad
and one beyond it; private memory; a group of registers. -/
theorem witness_memory :
    let s := on solo
    (∃ c, Issues s c (loadForm .w32 (.one (.win 4)) 4 .z true) ∧ (reaches s c .global .read 4 (c.address 4 .z)) = true) ∧
    (∃ c, Issues s c (storeForm .w128 (.group 4) 4 .z) ∧ (reaches s c .global .write 16 (c.address 4 .z)) = true) ∧
    (∃ c, Issues s c (loadForm .w32 (.one (.win 4)) 5 .z true) ∧ (!reaches s c .global .read 4 (c.address 5 .z)) = true) ∧
    (∃ c, Issues s c (loadForm .w32 (.one (.win 4)) 5 .z true) ∧ (passes (c.checkScratch s 4 (c.address 5 .z))) = true) ∧
    (∃ c, Issues s c (storeForm .w32 (.one (.win 4)) 4 .z) ∧ (!passes (c.checkScratch s 4 (c.address 4 .z))) = true) ∧
    (∃ c, Issues s c (loadForm .w32 (.one (.win 4)) 5 .z false) ∧ (reaches s c .priv .read 4 (c.address 5 .z)) = true) :=
  ⟨meets_issues (by decide +kernel), meets_issues (by decide +kernel), meets_issues (by decide +kernel), meets_issues (by decide +kernel),
    meets_issues (by decide +kernel), meets_issues (by decide +kernel)⟩

/-- AtomicsComplete: a usable scope and one that is not; a scratchpad offset. -/
theorem witness_atomics :
    let s := on solo
    (∃ c, Issues s c { d := d4, a := pair6 4, b := a5, ext := .bits 21 } ∧
      ((scopeOf s c.cluster (s.ctxOf c.warp) 2).usable && reaches s c .global .both 4 (c.address 4 .z)) = true) ∧
    (∃ c, Issues s c { d := d4, a := pair6 4, b := a5, ext := .bits 21 } ∧ (!(scopeOf s c.cluster (s.ctxOf c.warp) 5).usable) = true) ∧
    (∃ c, Issues s c { d := d4, a := a5, b := b6, ext := .bits 21 } ∧
      (passes (c.checkScratch s 4 (c.scratchOffset (.win 5))) && c.em == 1#32) = true) :=
  ⟨meets_issues (by decide +kernel), meets_issues (by decide +kernel), meets_issues (by decide +kernel)⟩

/-- The cause that a check comes to. -/
def causeOf (r : Except Trap Unit) : Nat :=
  match r with
  | .ok _ => 0
  | .error t => t.cause

/-- AccessChecks: each check at its boundary (R169): an address of 57 bits and the last one of 56, one that is not aligned, private and
scratchpad bounds, a page that is not there, a right, a key, the world; an access that waits for a peer, and one that does not. -/
theorem witness_checks :
    let cause := fun (s : State) (k : Space) (kind : Access) (n a : Nat) =>
      match issOf s 0 0 with
      | some c => causeOf (c.checkAccess s k kind n fun _ => a)
      | none => 0
    let rows := fun (r : List (Nat × Nat)) => match issOf base 0 0 with
      | some c => causeOf (c.checkRows base false .read r)
      | none => 0
    let held := fun (f : Leaf → Leaf) => base.mapCluster 0 fun k => { k with l1 := [
      { asid := 0xFFFF, ctx := 0, va := 0x400100, leaf := f (leafAt base 0 0x400100), bytes := List.replicate 128 0#8
        dirty := List.replicate 128 false, poison := [false, false, false, false], mark := 0, form := 0 }] }
    let away := { base.mapCtx 0 fun x => { x with pmap := List.replicate 64 (4 + 3 * 256 : Word) } with
      fw := { base.fw with inRecovery := [⟨3, 0, 0⟩] } }
    cause base .global .read 4 (2 ^ 56) = 0x1A ∧ cause base .global .read 4 (2 ^ 56 - 4) = 0x0A ∧ cause base .global .read 4 0x400102 = 0x09 ∧
    cause base .global .read 4 0x400100 = 0 ∧ cause base .priv .read 4 0 = 0 ∧ cause base .priv .read 4 (2 ^ 24) = 0x0B ∧
    cause (on fun x => { x with pkr := 0 }) .global .read 4 0x400100 = 0x0C ∧
    cause (held fun l => { l with rd := false }) .global .read 4 0x400100 = 0x0B ∧ cause (held fun l => { l with world := true }) .global .read 4 0x400100 = 0x0D ∧
    rows [(0x400000, 16), (0x800000, 16)] = 0x0A ∧ rows [(0x800000, 0)] = 0 ∧
    remoteWait away 0 0 0x500000 = some 3 ∧ remoteWait base 0 0 0x500000 = none := by decide +kernel

/-- AtomicEffects and LoadsComplete: a word in a line of the cluster's L1, one in a line that the L2 slice holds, and a scratchpad whose
offsets do not meet. -/
theorem witness_effects :
    let l : Line := { asid := 0xFFFF, ctx := 0, va := 0x400100, leaf := leafAt base 0 0x400100, bytes := List.replicate 128 0#8
                      dirty := List.replicate 128 false, poison := [false, false, false, false], mark := 0, form := 0 }
    let s := base.mapCluster 0 fun k => { k with l1 := [l] }
    let u : State := { base with mem := { base.mem with l2 := [{ l with dirty := [false] }] } }
    l1Line? s 0 0 (lineOf 0x400104) = some l ∧ l.bytes.length = 128 ∧ l1Ways (s.cluster 0) ≠ 0 ∧ (grantedLeaf s 0 0 0x400104).sysa = false ∧
    l1Line? u 0 0 (lineOf 0x400104) = none ∧ (u.l2Line? (u.asid 0) (lineOf 0x400104)).any (fun x => x.form == 0 && !x.leaf.cmpr &&
      homeInL2 u 0 x.leaf (lineOf 0x400104)) = true ∧ grantedLeaf u 0 0 0x400104 = grantedLeaf u 0 0 (lineOf 0x400104) ∧
    fencedStack u (ctlOf ((u.ctx 0).placement (lineOf 0x400104)) (lineOf 0x400104)) = false ∧ u.snap.cut ≠ 2 ∧ u.snap.st ≠ 2 ∧
    homeOf ((base.ctx 0).placement 0x400100) 0x400100 = .stack 0 ∧
    homeOf (({ base.ctx 0 with pmap := [3#32] } : Context).placement 0x400100) 0x400100 = .hub ∧ crewScratch base 0 = Config.bankBytes ∧
    ((crewBanks base 0 1).getD 0 0, (crewBanks base 0 1).length) = (0, 1) := by decide +kernel

/-- CacheLines: a line in the L1 and none. -/
theorem witness_lines :
    let l : Line := { asid := 0xFFFF, ctx := 0, va := 0x400000, leaf := peerLeaf 0, bytes := List.replicate 128 0#8
                      dirty := List.replicate 128 false, poison := [false, false, false, false], mark := 0, form := 0 }
    lineOf 0x400000 = 0x400000 ∧ l.bytes.length = 128 ∧
      l1Line? (base.mapCluster 0 fun k => { k with l1 := [l] }) 0 0 0x400000 = some l ∧ l1Line? base 0 0 0x400000 = none ∧
      l1Ways (({ base with clusters := [{ Cluster.reset with banks := [] }] } : State).cluster 0) = 0 := by decide +kernel

/-- StoresComplete and CacheLines: the frames' premises, a line of 128 bytes in the L1 that is dirty, and one held by the L2 slice with
no bank in L1 mode; the form of the CACHE instructions. -/
theorem witness_store_frames :
    let l : Line := { asid := 0xFFFF, ctx := 0, va := 0x400100, leaf := leafAt base 0 0x400100, bytes := List.replicate 128 0#8
                      dirty := List.replicate 128 true, poison := [false, false, false, false], mark := 2, form := 0 }
    let s := (on solo).mapCluster 0 fun k => { k with l1 := [l] }
    let u : State := { (on solo).mapCluster 0 fun k => { k with banks := [] } with mem := { (on solo).mem with l2 := [{ l with dirty := [false] }] } }
    (meets s (storeForm .w32 (.one (.win 4)) 4 .z) fun c => l1Line? s c.cluster (s.ctxOf c.warp) (lineOf 0x400100) == some l &&
      reaches s c .global .write 4 (c.address 4 .z) && !refusedNow s l && homeInL2 s 0 (wbLeaf s l) 0x400100) = true ∧
    (meets u (storeForm .w32 (.one (.win 4)) 4 .z) fun c => l1Ways (u.cluster c.cluster) == 0 && l1Line? u c.cluster 0 0x400100 == none &&
      !fencedStack u (ctlOf ((u.ctx 0).placement 0x400100) 0x400100) && u.snap.cut != 2 && u.snap.st != 2 &&
      (u.l2Line? (u.asid 0) 0x400100).any fun x => homeInL2 u 0 x.leaf 0x400100) = true ∧
    (meets s { a := pair6 4, b := srcOp (.win 5), ext := .bits 21 } fun c => c.namedLines 4 (.win 5) == [0x400100] &&
      leafCheck s 0 c.warp.pkr .read 0x400100 (accessLeaf s c.cluster 0 0x400100) == none) = true ∧
    l2Room s (ctlOf ((s.ctx 0).placement 0x400100) 0x400100) = true := by decide +kernel

/-- BoundariesBegin: a scope of the issuing cluster alone, one that reaches further, one not valid. -/
theorem witness_boundaries :
    let s := base.mapCtx 0 fun x => { x with grant := [3, 0, 0, 0] }
    ∃ c, Issues s c { ext := .none } ∧
      (let k := fun n => scopeOf s c.cluster (s.ctxOf c.warp) n
       (k 0).usable && (k 0).onlyHome c.cluster && (k 2).usable && !(k 2).onlyHome c.cluster && !(k 15).usable) = true :=
  meets_issues (by decide +kernel)

/-- UserSpecials and SystemRegisters: user mode, the handler, numbers in the table and not. -/
theorem witness_specials :
    (∃ c, Issues base c { d := d4, ext := .bits 14 } ∧ (!c.warp.sup && !c.warp.cobbler && !c.hasXp) = true) ∧
    (∃ c, Issues (on handler) c { d := d4, priv := true } ∧ (c.warp.sup) = true) ∧
    (∃ c, Issues (on handler) c { d := a5, priv := true } ∧ (c.read .d (.win 5) == .u 0#32) = true) ∧
    (∃ c, Issues (on fun x => handler (put 5 vreg x)) c { d := a5, priv := true } ∧ (!(c.read .d (.win 5)).isU) = true) :=
  ⟨meets_issues (by decide +kernel), meets_issues (by decide +kernel), meets_issues (by decide +kernel), meets_issues (by decide +kernel)⟩

/-- TrapReturn: a saved PC that is aligned, one that is not, one that is not canonical. -/
theorem witness_return :
    let s := fun (pc : Nat) => on fun x => { handler x with trap := { x.trap with tpc := pc } }
    (∃ c, Issues (s (2 ^ 56 - 8)) c { priv := true } ∧ (decide (c.warp.trap.tpc + 4 < 2 ^ 56) && (c.warp.trap.tpc + 4) % 4 == 0) = true) ∧
    (∃ c, Issues (s 0x400002) c { priv := true } ∧ (c.warp.trap.tpc % 4 != 0) = true) ∧
    (∃ c, Issues (s (2 ^ 56 - 4)) c { priv := true } ∧ (decide (2 ^ 56 ≤ c.warp.trap.tpc + 4)) = true) :=
  ⟨meets_issues (by decide +kernel), meets_issues (by decide +kernel), meets_issues (by decide +kernel)⟩

/-- SystemEffects: the pair U; a post pending and none. -/
theorem witness_system :
    (∃ c, Issues (on handler) c { d := d4, a := p8, priv := true } ∧ (!c.warp.ftokPend) = true ∧ c.HoldsPair .a 8 0) ∧
    (∃ c, Issues (on fun x => { handler x with ftokPend := true }) c { d := d4, a := p8, priv := true } ∧ (c.warp.ftokPend) = true ∧
      c.HoldsPair .a 8 0) ∧
    (∃ c, Issues base c { a := p8 } ∧ true = true ∧ c.HoldsPair .a 8 0) :=
  ⟨holds_pair (by decide +kernel), holds_pair (by decide +kernel), holds_pair (by decide +kernel)⟩

/-- SystemEffects: a descriptor that serves an address whose entry is absent, with a frame and without; a reply that has come. -/
theorem witness_map :
    let put := fun (s : State) (a v : Nat) =>
      { s with mem := { s.mem with home := memWrite s.mem.home (physAddr 2 (leafAt s 0 a) a) (leBytes v 4) } }
    let words := fun (count : Nat) =>
      [(0x40700C, 0x403000), (0x407014, count), (0x407030, 0x800000), (0x403000, 76)].foldl (fun s e => put s e.1 e.2) (on handler)
    let v := 0x430000
    let count := fun (s : State) => (servingDesc s 0 v).map fun e => (e.1, e.2.getD (3 * (v / 2 ^ 16 % 3) + 2) 0#32)
    (leafEntryAddr base 0x10000 v).any (fun e => tableEntry base e % 2 == 0) = true ∧
    (leafEntryAddr base 0x10000 0x400000).any (fun e => tableEntry base e % 2 == 1) = true ∧
    count (words 1) = some (0, 1#32) ∧ count (words 0) = some (0, 0#32) ∧ servingDesc (words 1) 0 0x800000 = none ∧
    ctxWords (words 1) 0 0x403000 1 = some [76#32] ∧ badFrame (words 1) ((base.ctx 0).placement v) 0 76 v = false ∧
    badFrame base ((base.ctx 0).placement v) 0 77 v = true ∧
    (let s := on fun x => { handler x with ftokPend := true, ftokReply := some 1 }
     meets s { d := d4, a := p8, priv := true } fun c => c.warp.ftokReply == some 1) = true := by decide +kernel

/-- QueriesAndBanks: BMODE for a bank of another mode that is free or the crew's, one that has the mode, another crew's. -/
theorem witness_banks :
    let s := base.mapCluster 0 fun k => { k with banks := (k.banks.set 1 ⟨1, some 7⟩).set 2 ⟨2, some 0⟩ }
    let k := fun (c : Iss) b => (s.cluster c.cluster).banks.getD b ⟨0, none⟩
    ∃ c, Issues s c { d := d4, a := a5, b := b6 } ∧
      (c.read .a (.win 5) == .u 0#32 && c.read .b (.bp 0) == .u 0#32 && (k c 5).mode == 0 && (k c 1).mode != 0 &&
        (k c 1).owner != some (s.crewNo c.warp) && (k c 2).owner == some (s.crewNo c.warp)) = true := meets_issues (by decide +kernel)

def cob (x : Warp) : Warp := { x with cobbler := true }

/-- CobblerResults: a descriptor that can be read, with the core's Cobbler idle and with slots to spare; a Cobbler. -/
theorem witness_cobbler :
    let s := on solo
    (∃ c, Issues s c { d := d4, a := p8, b := a5 } ∧
      (c.em != 0#32 && passes (c.checkAccess s .global .read 64 fun _ => 0x400100) && (s.core c.warp.core).cobSt != 1 &&
        decide (112 ≤ (s.core c.warp.core).slotsFree) && decide (16 + claimSum s c.warp.core ≤ (s.core c.warp.core).pool)) = true ∧
      c.HoldsPair .a 8 0x400100) ∧
    (∃ c, Issues (on cob) c { cob := true } ∧ (c.warp.cobbler) = true) ∧
    cobblerOk (fun i => if i = 2 then 2 ^ 6 else if i = 3 then 112 else if i = 4 then 16 else 0) = true :=
  ⟨holds_pair (by decide +kernel), meets_issues (by decide +kernel), by decide⟩

/-- ObjectResults: em whole, an object of the crew and one beyond it, each operand at its bounds. -/
theorem witness_objects :
    (∃ c, Issues (on (put 6 (.u 4095#32))) c { a := a5, b := srcOp (.win 6) } ∧
      (c.em == c.live && c.read .a (.win 5) == .u 0#32 && c.read .b (.win 6) == .u 4095#32 &&
        decide (0 < 16 * (base.launchOf c.warp).bobjs)) = true) ∧
    (∃ c, Issues (on (put 5 (.u 16#32))) c { d := p4, a := a5 } ∧ (decide (16 < 16 * (base.launchOf c.warp).bobjs)) = true) ∧
    (∃ c, Issues (on (put 5 (.u 0x1000#32))) c { a := a5, b := b6 } ∧ (decide (16 * (base.launchOf c.warp).bobjs ≤ 0x1000)) = true) :=
  ⟨meets_issues (by decide +kernel), meets_issues (by decide +kernel), meets_issues (by decide +kernel)⟩

def withQueue (q : Queue) : State := base.mapCrew 0 fun x => { x with queues := [q] }
def q0 : Queue := { bank := 31, esz := 0, depth := 4, off := 0, entries := [], allow := 2, st := 1, bad := [] }

/-- QueueResults: a queue that takes a push, one without allowance, one with an entry, one that is closed, none. -/
theorem witness_queues :
    (∃ c, Issues (withQueue q0) c { d := p4, a := a5, cob := true } ∧
      (c.em == c.live && (queueOf (withQueue q0) ((withQueue q0).crewNo c.warp) 0).canPush && pushParked (withQueue q0) 0 0 == []) = true) ∧
    (∃ c, Issues (withQueue { q0 with allow := 0, entries := [[10#32]] }) c { d := d4 } ∧
      (c.live != 0#32 && popParked (withQueue { q0 with allow := 0, entries := [[10#32]] }) 0 0 == []) = true) ∧
    (∃ c, Issues (withQueue { q0 with st := 0 }) c {} ∧ (decide (1 < 16)) = true) ∧
    (∃ c, Issues (on (put 8 (.u 0x41F#32))) c { a := p8 } ∧ (31 ∈ crewBanks base 0 2 && c.regAt .a 8 0 == .u 0x41F#32) = true) :=
  ⟨meets_issues (by decide +kernel), meets_issues (by decide +kernel), meets_issues (by decide +kernel), meets_issues (by decide +kernel)⟩

/-! ### Engines (spec 07) -/

def puts (k : Nat) (ws : List Nat) (x : Warp) : Warp := ws.zipIdx.foldl (fun x e => put (k + e.2) (.u (BitVec.ofNat 32 e.1)) x) x

/-- A descriptor of a copy of one f32 from the page to the page. -/
def copyWords : List Nat := [0x400100, 0, 0x400200, 0, 0x10001, 4, 0x22, 0xFFFF0004]

/-- CopiesIssue: a descriptor that passes every check; one that faults in word 4; a full tag map and an empty mask. -/
theorem witness_copy :
    (∃ c, Issues (on (puts 8 copyWords)) c { a := .win 8 8 4 4 } ∧
      (c.em == c.live && (List.range 8).all (fun j => c.regAt .a 8 j == .u (BitVec.ofNat 32 (copyWords.getD j 0))) &&
        (copyBadWord copyWords false).isNone && passes (c.copyResources base (copyD copyWords false)) &&
        (copyD copyWords false).aligned && !c.copyMustWait base (copyD copyWords false)) = true) ∧
    copyBadWord (copyWords.set 4 0) false = some 4 ∧ (∀ w ∈ copyWords, w < 2 ^ 32) ∧
    (∃ c, Issues base c { a := p8 } ∧ (0 &&& tagmapOf base c.warp.core == 0) = true ∧ c.HoldsPair .a 8 0) :=
  ⟨meets_issues (by decide +kernel), by decide, by decide, holds_pair (by decide +kernel)⟩

/-- A tensor of one f32 element at 0x400200, its descriptor at 0x400100 (physical 0x400100 of the boot leaf's frame). -/
def tensorWords : List Nat := [0x400200, 0, 1 + 2 * 2 ^ 24, 1, 1, 4, 4] ++ List.replicate 9 0

theorem witness_tensor :
    tensorBadWord .plain (fun i => tensorWords.getD i 0) = none ∧ tensorBadWord .plain (fun i => (tensorWords.set 3 0).getD i 0) = some 3 ∧
      (tensorOf fun i => tensorWords.getD i 0).ext = (1, 1, 1) := by decide

/-- SieveLoadsComplete: a descriptor address that passes, one that is not aligned, one that is not canonical; em zero. -/
theorem witness_sieve :
    (∃ c, Issues (on solo) c { d := d4, a := p8, b := .win 12 3 1 1, cob := true } ∧
      (c.em != 0#32 && passes (c.sieveTrap (on solo) fun _ => [(0x400100, 64)]) &&
        (c.sieveWaits (on solo) fun _ => [(0x400100, 64)]).isNone) = true ∧ c.HoldsPair .a 8 0x400100) ∧
    (∃ c, Issues (on (put 8 (.u 0x400120#32))) c { d := d4, a := p8, b := .win 12 3 1 1 } ∧ true = true ∧ c.HoldsPair .a 8 0x400120) ∧
    (∃ c, Issues (on (put 9 (.u 0x1000000#32))) c { d := d4, a := p8, b := .win 12 3 1 1 } ∧ true = true ∧ c.HoldsPair .a 8 (2 ^ 56)) ∧
    (∃ c, Issues (on noEm) c { d := d4, a := p8, b := .win 12 3 1 1 } ∧ (c.em == 0#32) = true) :=
  ⟨holds_pair (by decide +kernel), holds_pair (by decide +kernel), holds_pair (by decide +kernel), meets_issues (by decide +kernel)⟩

/-- SieveLoadsComplete and TileDataResults: operands that are not U. -/
theorem witness_not_u :
    (meets (on (put 8 vreg)) { d := d4, a := p8, b := .win 12 3 1 1 } fun c => c.em != 0#32 && !(c.regAt .a 8 0).isU) = true ∧
    (meets (on (put 9 vreg)) { d := d4, a := p8, b := .win 12 3 1 1 } fun c => (c.regAt .a 8 0).isU && !(c.regAt .a 8 1).isU) = true ∧
    (meets (on (put 5 vreg)) { a := a5 } fun c => c.em == c.live && !(c.read .a (.win 5)).isU) = true := by decide +kernel

def tile (r b f : Nat) : Tile := { Tile.blank with rows := r, rowb := b, fmt := f }
def withTiles (t : List Tile) (s : State) : State := inTeam (fun x => { x with tiles := t }) s

/-- CopiesIssue: a tile destination that fits and one that does not, a follow-on that begins with a whole operation, an older access
that holds the copy back, and a full engine. -/
theorem witness_copy_tile :
    let ws := (copyWords.set 2 3).set 3 (2 * 2 ^ 24) |>.set 7 0xFFFF0000
    let fits := withTiles (List.replicate 16 { Tile.blank with rows := 1, rowb := 16, fmt := 2 })
    let s := fits (on (puts 8 ws))
    let issues := fun (s : State) (p : Iss → Bool) => meets s { a := .win 8 8 4 4 } fun c =>
      c.em == c.live && passes (c.copyResources s (copyD ws false)) && (copyD ws false).dkind == 2 && p c
    copyBadWord ws false = none ∧
    issues s (fun c => (copyD ws false).fitsTile ((c.team s).tile 3) && (copyD ws false).aligned && passes (c.follow 0) &&
      !c.copyMustWait s (copyD ws false) && !c.warp.accessOpen (.slot c.sp) && decide (3 < (c.team s).tiles.length)) = true ∧
    (let s := withTiles (List.replicate 16 { Tile.blank with rows := 0 }) (on (puts 8 ws))
     issues s fun c => !(copyD ws false).fitsTile ((c.team s).tile 3)) = true ∧
    (let s := fits (on fun x => second (fun t => { t with park := .cutHold }) (puts 8 ws x))
     issues s fun c => c.warp.accessOpen (.slot c.sp)) = true ∧
    (let s := s.mapCore 0 fun k => { k with tagCount := List.replicate 64 255 }
     issues s fun c => c.copyMustWait s (copyD ws false)) = true := by decide +kernel

/-- TileControlResults: operands at the bounds of TSHAPE, TSCALE and TFMT, a tile that is landing, a tile that is not there. -/
theorem witness_tiles :
    (∃ c, Issues (on (put 5 (.u (BitVec.ofNat 32 (64 + 256 * 256))))) c { a := a5 } ∧
      (c.em == c.live && c.read .a (.win 5) == .u (BitVec.ofNat 32 (64 + 256 * 256)) && decide (15 < (c.team base).tiles.length) &&
        !((c.team base).tile 15).land && !(c.team base).arrayReads 15) = true) ∧
    (∃ c, Issues (withTiles [{ tile 1 16 2 with land := true }] base) c { d := p4 } ∧
      (((c.team (withTiles [{ tile 1 16 2 with land := true }] base)).tile 0).land) = true) ∧
    (BitVec.ofNat 32 127 : Word).toInt ≤ 127 ∧ (24 * 2 ^ 14 + 14) % 2 ^ 4 ≠ 15 := 
  ⟨meets_issues (by decide +kernel), meets_issues (by decide +kernel), by decide, by decide⟩

/-- TileDataResults: two tiles that fit TTRN and TCVT, a row that TROWR reads, rows that TLD and TST reach. -/
theorem witness_tile_data :
    let s := withTiles [tile 4 16 2, tile 4 16 2] (on solo)
    (∃ c, Issues s c {} ∧ (let x := (c.team s).tile 0; let y := (c.team s).tile 1
      c.em == c.live && !(c.team s).writeWait 0 && !y.land && x.fmt == y.fmt && x.rows == y.k && x.k == y.rows && x.rows != 0) = true) ∧
    (∃ c, Issues s c { d := d4, a := a5 } ∧ (c.read .a (.win 5) == .u 0#32 && decide (0 < ((c.team s).tile 0).rows)) = true) ∧
    (∃ c, Issues s c { a := p8, b := a5, ext := .bits 1 } ∧
      (let rows := (List.range 4).map fun r => ((0x400100 + r * 0) % 2 ^ 64, 16)
       passes (c.checkRows s false .read rows) && passes (c.checkRows s false .write rows) && (c.waitRows s false rows).isNone) = true) :=
  ⟨meets_issues (by decide +kernel), meets_issues (by decide +kernel), meets_issues (by decide +kernel)⟩

def bf16Tiles : List Tile := [tile 4 16 3, tile 4 16 3]
def withAcc (x : Acc) (s : State) : State := inTeam (fun t => { t with accs := [x] }) s
def acc44 : Acc := { rows := 4, cols := 4, isInt := false, elems := [], poison := false }

/-- TileDataResults: a tile that is not configured, a row beyond ROWS, writes that overlap, an address and a pitch that are no multiple of 16. -/
theorem witness_tile_traps :
    (∃ c, Issues base c {} ∧ (c.em == c.live && ((c.team base).tile 0).rows == 0 && decide (1 < (c.team base).tiles.length) &&
      !((c.team base).tile 0).land && !(c.team base).arrayReads 0) = true) ∧
    (∃ c, Issues (withTiles [tile 4 16 2] (on (put 5 (.u 4#32)))) c { d := d4, a := a5 } ∧ (c.read .a (.win 5) == .u 4#32) = true) ∧
    (∀ w ∈ [(⟨0, 255, 7⟩ : BitWrite), ⟨0, 15, 3⟩], w.mask < 256 ∧ w.val &&& w.mask = w.val) ∧ ¬ 0x400108 % 16 = 0 ∧
    ((tile 4 16 2).overwrite [⟨0, 255, 7⟩, ⟨0, 15, 3⟩]).byte 0 = 3#8 :=
  ⟨meets_issues (by decide +kernel), meets_issues (by decide +kernel), by decide, by decide, by decide⟩

/-- MatrixAccepted: an operation that the array accepts and one that does not fit; TSEQ with a prefix and without. -/
theorem witness_matrix :
    let s := withAcc acc44 (withTiles bf16Tiles base)
    let o : MatOp := { kind := 0, acc := 0, clr := true, ta := 0, tb := 1, later := false }
    (∃ c, Issues s c {} ∧ (c.em == c.live && passes (Team.acceptAll s (c.team s) [o]) && !(c.team s).opPoison [o] &&
      !passes (Team.acceptAll s (c.team s) [{ o with kind := 5 }])) = true) ∧
    (∃ c, Issues (on (prefixed 0 1)) c { ext := .bits 4 } ∧ (c.hasXp && c.ext == 1) = true) ∧
    (∃ c, Issues base c { ext := .bits 4 } ∧ (!c.hasXp) = true) :=
  ⟨meets_issues (by decide +kernel), meets_issues (by decide +kernel), meets_issues (by decide +kernel)⟩

/-- ArrayComputes and IntegerMatrixSaturates: a team with one operation, and the formats of the integer kinds. -/
theorem witness_array :
    let o : MatOp := { kind := 0, acc := 0, clr := false, ta := 0, tb := 1, later := false }
    let t : Team := { Team.none0 with tiles := bf16Tiles, accs := [acc44], ops := [o] }
    (t.ops = [o] ∧ o.acc < t.accs.length ∧ (t.tile o.ta).rows ≤ 64 ∧ (t.tile o.tb).rows ≤ 64 ∧ mmaIsInt o.kind = false ∧
      t.spBad o 3 (t.tile o.tb).k = false ∧ ¬ (63 < (t.tile o.ta).rows)) ∧
    (mmaFmts 5).1 = (mmaFmts 5).2 ∧ (mmaFmts 7).1 = (mmaFmts 7).2 := by decide +kernel

/-- AccumulatorMemory and AccumulatorRows: control words at their bounds, an accumulator whose rows reach the page, a pair of lanes. -/
theorem witness_accumulator :
    let s := withAcc acc44 (on fun x => put 4 (.u 0x20010#32) (solo x))
    (∃ c, Issues s c { d := srcOp (.win 4), a := p8 } ∧
      (c.em == c.live && c.read .d (.win 4) == .u 0x20010#32 && accCtlOk 0x20010 false false && !(c.team s).accWait 0 &&
        passes (c.checkRows s false .read ((List.range 4).map fun i => ((0x400100 + 16 * i) % 2 ^ 64, 16))) &&
        passes (c.checkRows s false .both ((List.range 4).map fun i => ((0x400100 + 16 * i) % 2 ^ 64, 16)))) = true) ∧
    accCtlOk (24 * 2 ^ 24 + 0x20010) true false = true ∧
    accCtlOk (2 * 2 ^ 16) false true = true ∧
    (∃ c, Issues s c { d := p4, a := a5 } ∧ (c.read .a (.win 5) == .u 0#32 && decide (0 < ((c.team s).acc 0).rows) &&
      !((c.team s).acc 0).isInt && !((c.team s).acc 0).poison) = true) ∧
    (64 + 64 * 2 ^ 8 + 2 ^ 16) % 2 ^ 7 ≤ 64 :=
  ⟨meets_issues (by decide +kernel), by decide, by decide, meets_issues (by decide +kernel), by decide⟩

/-- AccumulatorMemory: ACCTOT to a tile that fits; ACCSTSP on 48 columns. -/
theorem witness_acctot :
    (let s := withAcc acc44 (withTiles [tile 4 16 2] (on (put 4 (.u (BitVec.ofNat 32 (2 * 2 ^ 16))))))
     ∃ c, Issues s c { d := d4, dread := true } ∧ (c.em == c.live && c.read .d (.win 4) == .u (BitVec.ofNat 32 (2 * 2 ^ 16)) &&
       accCtlOk (2 * 2 ^ 16) false true && ((c.team s).acc 0).rows != 0 && !(c.team s).writeWait 0 && !(c.team s).accWait 0 &&
       (let y := (c.team s).tile 0; y.rows == 4 && y.nkeep == 0 && y.k == 4 && y.fmt == 2) && !((c.team s).acc 0).poison) = true) ∧
    accCtlOk (24 * 2 ^ 24 + 2 * 2 ^ 16) true false = true := ⟨meets_issues (by decide +kernel), by decide⟩

/-! ### Volumes, snapshots, launches (spec 08) -/

/-- A volume of one level, 8×8×8 tiles of f32 (2 KiB), extents 8, at handle 0, with nothing mapped: its root at 0x406000. -/
def volumeBytes : List (Nat × Nat) :=
  [(0, 0x406000), (2, 7 + 3 * 2 ^ 24), (3, 7 + 3 * 2 ^ 24), (4, 7 + 3 * 2 ^ 24), (5, 2 + 1 * 4 + 2 ^ 9 + 2 ^ 10)]

def volumeState : State :=
  let s := on fun x => put 12 (.u 1#32) (solo x)
  let pa := physAddr 2 (leafAt s 0 0x405000) 0x405000
  { s with mem := { s.mem with home := volumeBytes.foldl (fun m e => memWrite m (pa + 4 * e.1) (leBytes e.2 4)) s.mem.home } }

/-- The same with its one tile present at 0x408800. -/
def volumeFull : State :=
  let pa := physAddr 2 (leafAt volumeState 0 0x406000) 0x406000
  { volumeState with mem := { volumeState.mem with home := memWrite volumeState.mem.home pa (leBytes 0x408800 8) } }

/-- What a volume instruction comes to: none when a walk is left, else what was found. -/
def finds (s : State) (c : Iss) (op : VolOp) (p : Option Found → Bool) : Bool :=
  match c.volume? s op 0 with
  | .ok v =>
    let r := c.resolveAll (((lanesOf c.em).map fun l => v.tileOf (c.coords 12 l)).eraseDups) s (VolWalk.start op 0 v)
    match r.2.2, c.found r.1 r.2.1 with
    | true, .ok (.inr f) => p (some f)
    | false, _ => p none
    | _, _ => false
  | .error _ => false

/-- VolumeResults: a lookup that finds its tile absent and one that finds it; a store and an addition to a tile that is there, and a
store that must allocate one; a load that traps beyond the extents. -/
theorem witness_volume :
    let here := fun (o : Option Found) => match o with | some f => (f.addr 0).isSome | none => false
    (∃ c, Issues volumeState c (volForm d4 false true (.win 5) 12) ∧
      (c.em == c.live && finds volumeState c (.load (.win 4) 12) fun o => match o with | some f => (f.addr 0).isNone | none => false) = true) ∧
    (∃ c, Issues volumeFull c (volForm d4 false true (.win 5) 12) ∧
      (c.em == c.live && finds volumeFull c (.load (.win 4) 12) here) = true) ∧
    (∃ c, Issues volumeFull c (volForm d4 false false (.win 5) 12) ∧ (c.em == c.live && finds volumeFull c (.probe (.win 4) 12) here) = true) ∧
    (∃ c, Issues volumeFull c (volForm d4 true true (.win 5) 12) ∧
      (c.em == c.live && finds volumeFull c (.store 12 (.win 4)) here && finds volumeFull c (.add 12 (.win 4)) here) = true) ∧
    (∃ c, Issues volumeState c (volForm d4 true true (.win 5) 12) ∧
      (c.em == c.live && finds volumeState c (.store 12 (.win 4)) Option.isNone) = true) ∧
    (let s := volumeState.mapWarp 0 (put 12 (.u 8#32))
     ∃ c, Issues s c (volForm d4 false true (.win 5) 12) ∧ (c.em == c.live && !passes (c.volume? s (.load (.win 4) 12) 0)) = true) :=
  ⟨meets_issues (by decide +kernel), meets_issues (by decide +kernel), meets_issues (by decide +kernel), meets_issues (by decide +kernel), meets_issues (by decide +kernel),
    meets_issues (by decide +kernel)⟩

/-- VolumeResults: the accesses of a walk at each of its steps, and one that fails; a pool with no object left. -/
theorem witness_walker :
    ∃ c, Issues volumeFull c {} ∧ (let next := c.homeNat volumeFull 0x40600C 4
      decide (next = 0) && c.homeNat volumeFull 0x406000 8 == 0x408800 && c.homeNat volumeFull 0x406008 4 == 0 &&
        (c.walkerCheck volumeFull [] .both 0x406000 8).isNone && (c.walkerCheck volumeFull [] .both 0x406000 32).isNone &&
        (c.walkerCheck volumeFull [] .write 0x400000 4096).isNone && (c.walkerCheck volumeFull [] .both 0 32).any WalkEnd.failed) = true := meets_issues (by decide +kernel)

/-- VSHOOT and VQRY: a descriptor that is read, a handle beyond the table. -/
theorem witness_handles :
    (∃ c, Issues volumeState c { d := p4, a := a5 } ∧ (c.read .a (.win 5) == .u 0#32 && passes (c.volume volumeState 0) &&
      passes (c.checkRows volumeState false .both [(0x405030, 4)])) = true) ∧
    (∃ c, Issues (on (put 5 (.u 256#32))) c { a := a5 } ∧ (c.read .a (.win 5) == .u 256#32) = true) :=
  ⟨meets_issues (by decide +kernel), meets_issues (by decide +kernel)⟩

/-- SnapResults: with the right and without; another cut under way; a scope that cannot be used. -/
theorem witness_snap :
    let s := base.mapCtx 0 fun x => { x with flags := 1 }
    (∃ c, Issues s c { d := p4 } ∧ (c.em == c.live && (s.ctx (s.ctxOf c.warp)).flags % 2 == 1 && s.snap.cut == 0 && s.snap.st == 0 &&
      (scopeOf s c.cluster (s.ctxOf c.warp) 2).usable && !(scopeOf s c.cluster (s.ctxOf c.warp) 5).usable) = true) ∧
    (∃ c, Issues base c { d := p4 } ∧ ((base.ctx (base.ctxOf c.warp)).flags % 2 == 0) = true) ∧
    (∃ c, Issues { s with snap := { s.snap with st := 2 } } c { d := p4 } ∧ true = true) :=
  ⟨meets_issues (by decide +kernel), meets_issues (by decide +kernel), meets_issues (by decide +kernel)⟩

def launching : State :=
  let q : LQueue := { LQueue.reset with ring := 0x403000, logsz := 2, en := true, dev := true, tail := 1 }
  (on fun x => put 8 (.u 0x400100#32) (solo x)).mapCtx 0 fun x => { x with queues := q :: x.queues }

/-- LaunchResults: a queue with room, one that is not enabled, a queue number beyond the table, a record that is not aligned; LWAIT
of a launch that runs. -/
theorem witness_launch :
    (∃ c, Issues launching c { d := p4, a := p8, b := a5 } ∧
      (let k := (launching.ctx 0).queue 0
       c.em == c.live && k.en && k.dev && (k.tail + 2 ^ 32 - k.head) % 2 ^ 32 != 2 ^ k.logsz && !((launching.ctx 0).queue 4).en &&
        passes (c.checkRows launching false .read [(0x400100, 128)])) = true ∧ c.HoldsPair .a 8 0x400100) ∧
    (∃ c, Issues (on (put 8 (.u 0x400140#32))) c { d := p4, a := p8, b := a5 } ∧ (0x400140 % 128 != 0) = true ∧ c.HoldsPair .a 8 0x400140) ∧
    (∃ c, Issues launching c { d := d4, a := a5, b := b6 } ∧ (launchCode launching (launching.ctxOf c.warp) 0 == 4) = true) ∧ ¬ (64 : Nat) < 64 :=
  ⟨holds_pair (by decide +kernel), holds_pair (by decide +kernel), meets_issues (by decide +kernel), by decide⟩

/-! ### Events -/

def parked (p : Park) : State := on (split fun t => { t with park := p })

/-- SplitEvents: each kind of park, with its time come and not. -/
theorem witness_parks :
    (∃ c, issOf (parked (.sleep 0)) 0 0 = some c ∧ (c.split.park == .sleep 0 && decide (0 ≤ (parked (.sleep 0)).clk.cycle)) = true) ∧
    (∃ c, issOf (parked (.sleep 9)) 0 0 = some c ∧ (decide ((parked (.sleep 9)).clk.cycle < 9)) = true) ∧
    (∃ c, issOf (parked (.bowait 0 1 (some 5))) 0 0 = some c ∧ (c.split.park == .bowait 0 1 (some 5)) = true) ∧
    (∃ c, issOf (parked .wsync) 0 0 = some c ∧ ((seats c.warp).all fun k => ((seated c.warp k).all fun t => t.late.isNone)) = true) ∧
    (∃ c, issOf (parked (.walk (VolWalk.start (.store 12 .z) 0 { words := [] }))) 0 0 = some c ∧ (c.split.park.access && decide (0 ≤ (parked .wsync).clk.cycle)) = true) ∧
    (∃ c, issOf (parked .copyIssue) 0 0 = some c ∧ (c.split.park == .copyIssue) = true) ∧
    (∃ c, issOf (parked .stockpot) 0 0 = some c ∧ (!stockFull (parked .stockpot)) = true) ∧
    (∃ c, issOf (parked (.vshoot 0)) 0 0 = some c ∧ (c.split.park == .vshoot 0) = true) ∧
    (∃ c, issOf (parked (.boundary true false 0 0)) 0 0 = some c ∧ (c.split.park == .boundary true false 0 0) = true) ∧
    (∃ c, issOf (parked (.lwait none 0 (some 0))) 0 0 = some c ∧ (c.split.park == .lwait none 0 (some 0)) = true) ∧
    (∃ c, issOf (parked (.bmode none 5 1 0)) 0 0 = some c ∧
      (noScratchCopy (parked (.bmode none 5 1 0)) c.cluster && !olderBmode (parked (.bmode none 5 1 0)) c.cluster 0 &&
        passes (c.bankAnswer (parked (.bmode none 5 1 0)) 5 1)) = true) ∧
    (∃ c, issOf (parked (.domain [⟨3, some 0, 1#32, []⟩])) 0 0 = some c ∧ (c.split.park == .domain [⟨3, some 0, 1#32, []⟩]) = true) :=
  ⟨stands_iss (by decide +kernel), stands_iss (by decide +kernel), stands_iss (by decide +kernel), stands_iss (by decide +kernel),
    stands_iss (by decide +kernel), stands_iss (by decide +kernel), stands_iss (by decide +kernel), stands_iss (by decide +kernel),
    stands_iss (by decide +kernel), stands_iss (by decide +kernel), stands_iss (by decide +kernel), stands_iss (by decide +kernel)⟩

/-- SplitEvents: a load whose data is late; a rotation that is due. -/
theorem witness_late :
    (∃ c, issOf (on (split fun t => { t with park := .data, late := some ⟨[(.slot 4, .u 7#32)], false, 0⟩ })) 0 0 = some c ∧
      (c.split.park == .data && c.split.late == some ⟨[(.slot 4, .u 7#32)], false, 0⟩) = true) ∧
    (let s := on fun x => { x with issued := 1024, weltBase := 0, weltOrder := [0], welt := [Welt.split (x.split0.getD
        Split.none0)] }
     ∃ c, issOf s 0 0 = some c ∧ (rotationDue c.warp && noPair c.warp && oldestSlot c.warp == 0 && !weltMapped s c.warp 0) = true) :=
  ⟨stands_iss (by decide +kernel), stands_iss (by decide +kernel)⟩

/-- SplitEvents: late data under NW with em whole and empty; a split that waits for an older access, and one that no longer does. -/
theorem witness_late_masks :
    let late := fun (x : Warp) => split (fun t => { t with park := .data, late := some ⟨[(.slot 4, vreg)], true, 1⟩ }) x
    let waits := fun (f : Split → Split) => on fun x => second f (split (fun t => { t with park := .older }) x)
    (stands (on late) 0 0 fun c => c.warp.lives && c.em != 0#32) = true ∧ (stands (on fun x => noEm (late x)) 0 0 fun c => c.em == 0#32) = true ∧
    (stands (waits fun t => { t with park := .stockpot }) 0 0 fun c => c.warp.accessOpen (.slot 0)) = true ∧
    (stands (waits id) 0 0 fun c => !c.warp.accessOpen (.slot 0)) = true := by decide +kernel

/-- CoreEvents: a barrier at which every warp stands, a claim at the head of its queue, a parked push and pop, a copy, a landing
tile, an operation of the array, a watchdog that has run out, a peer in recovery. -/
theorem witness_core_events :
    (let s := parked (.bar 0x400000 3 1 0)
     (s.team 0).res = .running ∧ countedWarps s 0 = [0] ∧ arrivedAt (s.warps.getD 0 Warp.blank) = some (0x400000, 3)) ∧
    (let s := parked (.claim 8 0)
     deadClaim s 0 = none ∧ claimQueue s 0 = [(0, .slot 0, 8)] ∧ 8 ≤ (s.core 0).pool) ∧
    (let s := (parked (.push [5#32] 0 0)).mapCrew 0 fun x => { x with queues := [q0] }
     oldestParked s (pushParked s 0 0) = some (0, .slot 0) ∧ (queueOf s 0 0).st = 1 ∧ (queueOf s 0 0).allow ≠ 0) ∧
    (let s := (parked (.pop false none 0 0)).mapCrew 0 fun x => { x with queues := [{ q0 with entries := [[10#32]] }] }
     oldestParked s (popParked s 0 0) = some (0, .slot 0) ∧ (queueOf s 0 0).entries ≠ []) ∧
    (let s := withTiles [{ tile 1 16 2 with land := true }] base
     ((s.team 0).tile 0).land = true ∧ copyLanding s 0 0 = false) ∧
    (let o : MatOp := { kind := 0, acc := 0, clr := false, ta := 0, tb := 1, later := false }
     let s := inTeam (fun t => { t with ops := [o] }) (withAcc acc44 (withTiles bf16Tiles base))
     (s.team 0).ops = [o] ∧ ∀ n ∈ (s.team 0).opTiles o, ((s.team 0).tile n).land = false) ∧
    (let s := { base with clk := { base.clk with ns := 2000000000 } }
     let x := s.warps.getD 0 Warp.blank
     barExpired (watched s x) s.clk.ns (1000000 * x.wdog) = none ∧ x.st = .running ∧ (watched s x).lastRetire + 1000000 * x.wdog ≤ s.clk.ns) := by
  decide +kernel

def copyAt (stage code : Nat) (o : Option Nat) (f : Follow) : State :=
  let x : Copy := { team := 0, core := 0, crew := 0, ctx := 0, warp := 0, words := copyWords.map (BitVec.ofNat 32), x := false, pkr := 0
                    rowb := 0, queue := none, broken := false, kept := [], seed := 0#32, tag := 0, bobj := o, follow := f, sent := 0, age := none, stage := stage, code := code, count := 4 }
  (withTiles [tile 1 16 2] base).mapCluster 0 fun k => { k with copies := [x] }

/-- CoreEvents: a copy in flight, one whose object step is next, with an object and without, and one whose follow-on is next: none,
a matrix operation, and a load of a tile that can be written. -/
theorem witness_copies :
    let it := fun (s : State) => (s.cluster 0).copies[0]?
    let o : MatOp := { kind := 0, acc := 0, clr := false, ta := 0, tb := 0, later := false }
    ((it (copyAt 0 0 none .none)).any fun x => x.stage == 0 && x.d.elements.all fun e => (x.elementWaits (copyAt 0 0 none .none) e.1 e.2).isEmpty) = true ∧
    ((it (copyAt 1 0 none .none)).map fun x => (x.stage, x.bobj)) = some (1, none) ∧
    ((it (copyAt 1 0 (some 3) .none)).any fun x => x.stage == 1 && decide (16 * 3 + 16 ≤ crewScratch (copyAt 2 0 (some 3) .none) x.crew)) = true ∧
    ((it (copyAt 2 0 none (.mma o))).map fun x => (x.stage, x.code, x.follow)) = some (2, 0, .mma o) ∧
    (let s := copyAt 2 0 none (.tld 0 0x400100 16 0)
     (it s).map (fun x => x.follow) = some (.tld 0 0x400100 16 0) ∧ (s.team 0).writeWait 0 = false ∧ (s.team 0).res ≠ .ended) := by
  decide +kernel

/-- CopiesLand: a copy of one element of which nothing fails; the same to a queue with room, and to one that has closed. -/
theorem witness_copy_lands :
    let x : Copy := { team := 0, core := 0, crew := 0, ctx := 0, warp := 0, words := copyWords.map (BitVec.ofNat 32), x := false, seed := 0#32
                      pkr := 2 ^ 64 - 1, tag := 0, bobj := none, follow := .none, rowb := 0, queue := none, broken := false, kept := []
                      sent := 0, age := none, stage := 0, code := 0, count := 0 }
    let s := base.mapCluster 0 fun k => { k with copies := [x] }
    let q := { x with words := (((copyWords.set 2 0).set 3 (3 * 2 ^ 24)).set 7 0xFFFF0000).map (BitVec.ofNat 32), queue := some 0 }
    let u := s.mapCrew 0 fun k => { k with queues := [q0] }
    (s.cluster 0).copies[0]? = some x ∧ copyBadWord (x.words.map BitVec.toNat) x.x = none ∧ x.stage = 0 ∧ x.d.elements = [(0, 0)] ∧ x.elementCauses s 0 0 = [] ∧
      x.poisoned (x.readSource s [(0, 0)]).2 0 0 = false ∧ x.elementCauses (s.mapCtx 0 fun k => { k with root := 0 }) 0 0 ≠ [] ∧ q.d.dkind = 3 ∧
      copyBadWord (q.words.map BitVec.toNat) q.x = none ∧ (queueOf u 0 0).st = 1 ∧ olderPush u 0 0 0 = false ∧
      (q.queueEntries u [(0, 0, 5)]) = [[5#32]] ∧ (queueOf s 0 0).st ≠ 1 := by decide +kernel

/-- CoreEvents: a claim that has become impossible, a poisoned entry, a push behind an older copy. -/
theorem witness_claims :
    (let s := { parked (.claim 8 0) with warps := (parked (.claim 8 0)).warps ++ [{ freshWarp State.reset job 0 0 0x8000 1 with floor := 2048 }] }
     (deadClaim s 0).map (fun e => (e.1, e.2.1)) = some (0, .slot 0) ∧ (issOf s 0 0).isSome = true) ∧
    (let s := (parked (.pop false none 0 0)).mapCrew 0 fun x => { x with queues := [{ q0 with entries := [[10#32]], bad := [0] }] }
     oldestParked s (popParked s 0 0) = some (0, .slot 0) ∧ 0 ∈ (queueOf s 0 0).bad) ∧
    (let c : Copy := { team := 0, core := 0, crew := 0, ctx := 0, warp := 0
                       words := ((copyWords.set 2 0).set 3 (3 * 2 ^ 24)).map (BitVec.ofNat 32), x := false, pkr := 0, seed := 0#32, tag := 0, rowb := 0, queue := some 0, broken := false, kept := []
                       bobj := none, follow := .none, sent := 0, age := some 2, stage := 0, code := 0, count := 0 }
     let s := ((parked (.push [5#32] 0 3)).mapCrew 0 fun x => { x with queues := [q0] }).mapCluster 0 fun k => { k with copies := [c] }
     copyWaits s 0 0 (fun m => decide (m < 3)) = true ∧ (queueOf s 0 0).st = 1) := by decide +kernel

/-- CoreEvents: a peer in recovery whose keep-alives go on, or have lapsed; a write-back that waits for it. -/
theorem witness_peers :
    let s := { base with fw := { base.fw with inRecovery := [⟨3, 5, 5⟩], remoteWb := [⟨3, 0, 0, 0x500000, some 5⟩] }
                         clk := { base.clk with ns := 40000000000 } }
    (s.fw.inRecovery.find? fun r => r.peer == 3) = some ⟨3, 5, 5⟩ ∧ 5 + 20000000 ≤ s.clk.ns ∧ (∀ e ∈ s.fw.remoteWb, e.peer ≠ 4) ∧
      (∃ e ∈ s.fw.remoteWb, e.peer = 3) := by decide +kernel

/-- SnapshotEvents: an entry that waits for room, a ring that is full, the time of an entry that has waited. -/
theorem witness_drain :
    let s := { base with ctxs := base.ctxs.map fun x => { x with flags := 1, ckpt := 0x1000 }
                         snap := { base.snap with st := 2, started := true, held := some (List.replicate 64 0#8, none), heldAt := 0, widx := 2 ^ 12 }
                         mem := { base.mem with home := memWrite base.mem.home 0x1008 (leBytes (2 ^ 8 * 12) 4) }
                         clk := { base.clk with ns := 70000000000 } }
    snapCtx s = some 0 ∧ s.snap.held = some (List.replicate 64 0#8, none) ∧
      (ckptOf s 0).ridx s + 2 ^ (ckptOf s 0).log < s.snap.widx + (List.replicate 64 0#8).length ∧
      s.snap.heldAt + (ckptOf s 0).tfull * 1000000 ≤ s.clk.ns := by decide +kernel

/-- SnapshotEvents: a context with the right, a drain under way; the hold and its time. -/
theorem witness_snapshot :
    let s := { base with ctxs := base.ctxs.map fun x => { x with flags := 1 }
                         snap := { base.snap with st := 2, started := true, drain := [256] } }
    snapCtx s = some 0 ∧ nextChunk s = some 256 ∧ s.snap.held = none ∧ snapCtx base = none ∧
      ({ s.snap with cut := 2, holdAt := 0 } : Snap).holdAt + 3500 ≥ s.clk.ns := by decide +kernel

/-- SchedulerEvents: a page that a walk finds, one that it does not, one that no table describes. -/
theorem witness_walk :
    (match walkTables base 0x10000 2 0x400000 with | .leaf l => l.ex | _ => false) = true ∧ walkTables base 0x10000 2 0x800000 = .absent ∧
      (base.ctx 0).st = 1 ∧ base.mp.tlb = [] := by decide +kernel

/-- SchedulerEvents: a launch waiting in its queue, a crew waiting for its core, a team past its quantum, a team being saved. -/
theorem witness_schedule :
    (let s := { base with launches := [{ job with st := .queued }] }
     queuedLaunch s 0 0 0 = some 0) ∧
    (let s := (inTeam (fun t => { t with res := .waiting }) { base with warps := [] }).mapCrew 0 fun x => { x with resident := false }
     bindSet { s with clusters := [Cluster.reset], cores := [Core.reset] } 0 = some [0] ∧ bindSet base 0 = none) ∧
    (let s := { base with clk := { base.clk with ns := 1000000 } }
     (s.team 0).res = .running ∧ (s.team 0).quantumUsed = false ∧ (s.team 0).since + (s.ctx 0).quant * 1000 ≤ s.clk.ns) ∧
    (let s := inTeam (fun t => { t with res := .saving }) base
     savable s 0 = true ∧ (s.ctx 0).suspendBy = none) := by decide +kernel

/-- AdministrativeCommands: a WDOG entry that a poll has found, and operands at their bounds. -/
theorem witness_admin :
    let put := fun (m : ByteMem) (i v : Nat) => memWrite m (0x1000 + 64 + 4 * i) (leBytes v 4)
    let s := { base with win := { base.win with admbase := 0x1000, ardy := true, kstat := 3 }
                         fw := { base.fw with admHead := 1 }
                         mem := { base.mem with host := put (put base.mem.host 0 0x0E) 2 600000 } }
    admDue s { slot := 0, ctx := 0 } 0x0E [] = true ∧ admWord s 0 2 = 600000 ∧ (s.ctx 0).st = 1 ∧ s.win.kstat / 2 % 2 = 1 ∧
      admDue base { slot := 0, ctx := 0 } 0x0E [] = false ∧ warpNamed s 0 0 0 0 = some 0 ∧ stopped s 0 = false ∧
      warpNamed s 0 64 0 0 = none ∧ readQueue s 0 0 = none ∧ channelUsed s 11 31 = false := by decide +kernel

/-- ProcessorCommands: a SHOOT that the window holds, a post, a reply, a queue's tail. -/
theorem witness_processor :
    let s := { base with win := { base.win with kstat := 5, mpcmd := [1#32, 0x400000#32, 0#32, 1#32, 0#32, 0#32, 0#32, 0#32] }
                         mp := { base.mp with posts := [(0, 0x800000, 0, 1)] } }
    mpWord s 0 % 2 ^ 8 = 1 ∧ mpWord s 1 + 2 ^ 32 * mpWord s 2 = 0x400000 ∧ mpWord s 3 = 1 ∧ s.win.kstat / 4 % 2 = 1 ∧
      s.mp.posts.find? (fun p => p.1 == 0) = some (0, 0x800000, 0, 1) ∧ storeReg s.win 0x2C 1 ≠ none ∧ storeReg s.win 0 1 = none := by
  decide +kernel

/-- OutsideAccesses: an address of a unified range that the host reaches, one of a range with no leaf, one outside. -/
theorem witness_outside :
    let s := base.mapCtx 0 fun x => { x with urange := [(0x400000, 0x900000)] }
    hostLocal s 0 0x400000 = false ∧ (hostLeaf s 0 0x400000 .read).isSome = true ∧ (hostLeaf s 0 0x400000 .write).isSome = true ∧
      hostLeaf s 0 0x800000 .read = none ∧ ¬ (0x400000 ≤ 0x100000) ∧ physOk s 0x1000 1 = true ∧ physOk s (12 * 2 ^ 36) 1 = false ∧
      (peerAccessLeaf s 0 0x800000 .read) = none := by decide +kernel

/-- FleetEvents: a die, a port and a core that are there, and a cluster no context uses. -/
theorem witness_fleet :
    3 < 4 ∧ 3 ∉ base.fuses.fenced ∧ 36 ∉ base.fuses.portsRetired ∧ 1 ∉ granted (base.ctx 0) ∧ 0 ∈ granted (base.ctx 0) ∧
      State.reset.mem.blocked = 0 ∧ 1000 ≤ base.win.pstate ∧ (1000 : Nat) + 100 ≤ 1800 ∧ (base.cluster 0).copies = [] := by decide +kernel

/-- FleetEvents: an error beyond correction in a clean line; a bank past the threshold. -/
theorem witness_upsets :
    let l : Line := { asid := 0xFFFF, ctx := 0, va := 0x400000, leaf := peerLeaf 0, bytes := List.replicate 128 0#8
                      dirty := List.replicate 128 false, poison := [false, false, false, false], mark := 0, form := 0 }
    let s := { base.mapCluster 0 fun k => { k with l1 := [l] } with fuses := { base.fuses with bankErrors := [(0, 5, base.fuses.threshold + 1)] } }
    ((s.cluster 0).l1.find? (isLine 0xFFFF (lineOf 0x400004))).any (fun x => !x.isDirty) = true ∧ s.fuses.threshold < bankErrors s 0 5 ∧
      (s.fuses.spareBanks.filter fun e => e.1 == 0).length < 2 := by decide +kernel

/-- OutsideAccesses: a write that waits at the hub, which a cut holds and which may go on. -/
theorem witness_hub :
    let i := Instr.hostStore 0 0x400000 4 7
    let s := { base with snap := { base.snap with hub := [i], hubGoes := false } }
    i.isWord = false ∧ s.snap.hub = [i] ∧ s.snap.hubGoes = false ∧ hubEvent { s with snap := { s.snap with cut := 2 } } = none ∧
      (∃ t, t = { s with snap := { s.snap with hub := [], hubGoes := true } } ∧ t.snap.hubGoes = true) :=
  ⟨by decide, rfl, rfl, by decide +kernel, ⟨_, rfl, rfl⟩⟩

/-- AdministrativeCommands: a control block that can be read and is not good; a grant that meets another's; a die that is fenced. -/
theorem witness_bind :
    let x := base.ctx 0
    ccbReadable base 0x1000 = true ∧ ccbOk base 0 0x1000 = false ∧
      bindRefused { base with fuses := { base.fuses with fenced := [0] } } 1 x = some 1 ∧
      bindRefused base 1 { x with flags := 4 } = some 2 ∧ bindRefused base 1 { x with flags := 1 } = some 1 ∧ bindRefused base 1 x = none := by
  decide +kernel

/-- SchedulerEvents: a walk under way whose sequence is the controller's, and one whose sequence has moved on. -/
theorem witness_walk_state :
    let ctl := ctlOf ((base.ctx 0).placement 0x410000) 0x410000
    let s := fun (n : Nat) => { base with mp := { base.mp with walks := [{ ctl := ctl, ctx := 0, va := 0x410000, seq := n }] } }
    shootSeqOf (s 0) ctl 0xFFFF = 0 ∧ (s 7).mp.walks.find? (fun k => k.ctl == ctl && k.ctx == 0 && k.va == 0x410000) =
      some { ctl := ctl, ctx := 0, va := 0x410000, seq := 7 } := by decide +kernel

/-- EngineChecks: an em that is not whole; operands that are not U, the first one and a later one; TSEQ with a whole em. -/
theorem witness_engine_checks :
    (meets (on partEm) { a := a5, b := b6 } fun c => c.em != c.live) = true ∧
    (meets (on (put 5 vreg)) { a := a5, b := srcOp (.win 6) } fun c => c.em == c.live && !(c.read .a (.win 5)).isU) = true ∧
    (meets (on (put 6 vreg)) { a := a5, b := srcOp (.win 6) } fun c => (c.read .a (.win 5)).isU && !(c.read .b (.win 6)).isU) = true ∧
    (meets (on fun x => partEm (prefixed 0 1 x)) { ext := .bits 4 } fun c => c.split.xp.isSome && c.em != c.live) = true := by decide +kernel

/-! ### Sources, latches, traps, steps -/

/-- SplitEvents: a split of a warp that has halted. SourcesAndLatches: a pending full write, at an instruction that had parked.
TrapEntry: a protected warp whose copies differ, and one whose do not. -/
theorem witness_states :
    let l : Latch := { res := .u 7#32, val := .u 7#32, dst := some (.slot 4), nw := true, em := 1#32, full := true, lost := false }
    let p := on fun x => { x with prot := true }
    (stands (on fun x => { x with st := .halted false }) 0 0 fun c => !c.warp.lives) = true ∧
    (stands (on (split fun t => { t with latches := [l], held := some ⟨0, false, [], none⟩ })) 0 0 fun c =>
      c.split.latches.filter (fun l => l.nw) == [l] && c.split.held.isSome && decide (4 < c.warp.regs.length)) = true ∧
    (meets { p with sched := { p.sched with differ := true } } {} fun c => c.warp.differs { p with sched := { p.sched with differ := true } }) = true ∧
    (meets p {} fun c => !c.warp.differs p && !c.warp.cobbler) = true := by decide +kernel

/-- FleetEvents: what an error beyond correction meets: a dirty line of an L1 and of L2 whose home is a stack, a queue's entry, a tile, an
accumulator; a core of the device. -/
theorem witness_marks :
    let l : Line := { asid := 0xFFFF, ctx := 0, va := 0x400100, leaf := leafAt base 0 0x400100, bytes := List.replicate 128 0#8
                      dirty := List.replicate 128 true, poison := [false, false, false, false], mark := 0, form := 0 }
    let s := { base.mapCluster 0 fun k => { k with l1 := [l] } with mem := { base.mem with l2 := [l] } }
    ((s.cluster 0).l1.find? (isLine 0xFFFF (lineOf 0x400104))).map (fun x => (x.va, x.isDirty)) = some (0x400100, true) ∧
    (s.l2Line? 0xFFFF (lineOf 0x400104)).isSome = true ∧ homeOf ((s.ctx l.ctx).placement l.va) l.va = .stack 0 ∧
    0 < (base.team 0).tiles.length ∧ 0 < (base.team 0).accs.length ∧ 0 < base.cores.length ∧ base.warps.length = 1 ∧
    (((withQueue { q0 with entries := [[10#32]] }).crew 0).queues[0]?.map fun y => y.entries.length) = some 1 := by decide +kernel

/-- SchedulerEvents: a unit whose record is loaded, one whose core has an entry for it, and one whose core has none; a team in the way
that is not decided; a save whose image has room, and one for which there is none. -/
theorem witness_units :
    let away := (inTeam (fun t => { t with res := .waiting }) { base with warps := [] }).mapCrew 0 fun x => { x with resident := false }
    let s := { away with clusters := [Cluster.reset], cores := [Core.reset], ctxs := away.ctxs.map fun x => { x with spool := 0x500000, spoolsz := 4096 } }
    let full := { s with cores := [{ Core.reset with table := List.replicate 8 { st := 2, words := [], team := 7 } }] }
    let a := firstArea s job 1
    let two := { base with teams := base.teams ++ [{ Team.none0 with launch := 0, crew := 1, core := 0, warps := 30, res := .waiting, pendAt := 0 }]
                           crews := base.crews ++ [{ Crew.none0 with launch := 0, index := 1, teams := [1], resident := true }] }
    let saving := inTeam (fun t => { t with res := .saving }) base
    unitLoaded s [0] = false ∧ entriesFree s [0] = true ∧ areaOk s job a (areaLess s [0]).length = true ∧ outranked s [0] = false ∧
    mustWait s 0 [0] = false ∧ unitLoaded (loadTeams s [0] a) [0] = true ∧ entriesFree full [0] = false ∧
    victims (two.mapTeam 0 fun t => { t with quantumUsed := true }) 1 = some [0] ∧ (two.team 0).undecided 0 0 = true ∧
    imageFits saving 0 = false ∧ imageFits { saving with ctxs := s.ctxs } 0 = true ∧
    (({ base with launches := [{ job with st := .queued }] } : State).launch 0).waits base = [] := by decide +kernel

/-- SourcesAndLatches: a latch that is held and one that is lost; one pending write-back. -/
theorem witness_latches :
    let l : Latch := { res := .u 7#32, val := .u 7#32, dst := some (.slot 4), nw := true, em := 0xFFFFFFFF#32, full := false, lost := false }
    let s := on (split fun t => { t with latches := [l, { l with nw := false, lost := true }] })
    ∃ c, issOf s 0 0 = some c ∧ (c.split.latches[0]? == some l && c.split.latches[2]? == none &&
      c.split.latches.filter (fun l => l.nw) == [l]) = true := stands_iss (by decide +kernel)

/-- TrapEntry: user mode, the handler, a cause that halts. -/
theorem witness_trap :
    (∃ c, Issues base c {} ∧ (!c.warp.sup && !c.warp.cobbler && decide (2 ≤ c.warp.bank.length)) = true) ∧
    (∃ c, Issues (on handler) c {} ∧ (c.warp.sup) = true) := ⟨meets_issues (by decide +kernel), meets_issues (by decide +kernel)⟩

/-- StepKeepsQuota: a warp with a V register, a load in flight that has taken a slot, and a pending full write. -/
theorem witness_quota_kept :
    let l : Latch := { res := .u 7#32, val := .u 7#32, dst := some (.slot 4), nw := true, em := 0xFFFFFFFF#32, full := true, lost := false }
    QuotaInv (on fun x => put 5 vreg (split (fun t => { t with park := .data, late := some ⟨[(.slot 6, vreg)], false, 1⟩, latches := [l] })
      { x with free := x.q - 2 })) := by
  intro l x hx _
  obtain rfl : x = _ := List.mem_singleton.1 hx
  exact ⟨by decide +kernel, fun _ => ⟨by decide +kernel, by decide +kernel, by decide +kernel, by decide +kernel⟩⟩

/-- StepKeepsMemory: a state with the invariant, from which a step goes on. -/
theorem witness_memory_form : base.mem.wf = true ∧ (base.clusters.all fun k => ByteMem.wf k.sram) = true := by decide +kernel

/-- StepRunsDecoded: a split about to fetch a word that decodes; one between a prefix and its word. -/
theorem witness_step :
    (∃ c, Issues base c {} ∧ (!c.split.xp.isSome && (hubEvent base).isNone && (dueEvent base).isNone && (rotation base).isNone && (waited base).isNone &&
      decide (c.split.pc < 2 ^ 56) &&
      (match translate base (base.ctxOf c.warp) c.split.pc with
       | .leaf l => l.ex && !(fetchWord base (clusterOf c.warp.core) (base.ctxOf c.warp) l c.split.pc).2.2
       | _ => false)) = true) ∧
    (∃ c, Issues (on (prefixed 4 0)) c { d := d4 } ∧ (c.split.xp.isSome) = true) :=
  ⟨meets_issues (by decide +kernel), meets_issues (by decide +kernel)⟩

/-- StepRunsDecoded: a poisoned word, a page that is absent, a rotation that is due. -/
theorem witness_fetch :
    (let s := { base with mem := { base.mem with poison := [physAddr 2 (leafAt base 0 0x400000) 0x400000 / 32] } }
     (fetchWord s 0 0 (leafAt s 0 0x400000) 0x400000).2.2 = true) ∧
    (match translate base 0 0x800000 with | .absent => true | _ => false) = true ∧
    (meets (on fun x => { x with issued := 1024, weltOrder := [0], welt := [.split (x.split0.getD Split.none0)] }) {} fun c =>
      rotationDue c.warp && noPair c.warp) = true := by decide +kernel

/-- EncodeDecode: a well-formed instruction of a word, and a word that decodes. -/
theorem witness_encode : WellFormed (.cvt true (.win 111) (.bp 3) 5 14 14) ∧ (Instr.cvt true (.win 111) (.bp 3) 5 14 14).isWord = true ∧
    decodeWord (encode (.cvt true (.win 111) (.bp 3) 5 14 14)) = .ok (.cvt true (.win 111) (.bp 3) 5 14 14) := by decide

end Sys2Proof.Tests
end

section
/-!
The state after reset, field by field, and what a warp holds that dispatch creates (O60; spec R3, R15, R185, R204, R352, R374, R396, R417).
-/

namespace Sys2Proof.Machine

/-! ## The state after reset -/

/-- Every context after reset, also at an index no context has, is an unbound one. -/
@[simp] theorem reset_ctx (c : Nat) : State.reset.ctx c = Context.reset :=
  List.getElem?_getD_replicate_default_eq Context.reset 64 c

@[simp] theorem reset_core (k : Nat) : State.reset.core k = Core.reset :=
  List.getElem?_getD_replicate_default_eq Core.reset 768 k

@[simp] theorem reset_cluster (k : Nat) : State.reset.cluster k = Cluster.reset :=
  List.getElem?_getD_replicate_default_eq Cluster.reset 192 k

/-- R204: the tag map all ones and no tag's copy in error; no descriptor slot and no vector slot is taken. -/
theorem core_reset_resources : Core.reset.tagmap = List.replicate 64 true ∧ Core.reset.errmap = List.replicate 64 false ∧
    Core.reset.slotsFree = 4096 ∧ Core.reset.pool = 2048 := ⟨rfl, rfl, rfl, rfl⟩

/-- Every bank of a cluster starts in L1 mode, with no owner. -/
theorem cluster_reset_bank {b : Nat} (h : b < 32) : Cluster.reset.banks[b]? = some ⟨0, none⟩ :=
  List.getElem?_replicate_of_lt h

/-- R352: the registers of the window that the spec gives a reset value are zero. -/
theorem reset_window : State.reset.win.kstat = 0 ∧ State.reset.win.mpcmd = List.replicate 8 0#32 ∧
    State.reset.win.freply = [0#32, 0#32, 0#32] ∧ State.reset.win.haack = 0#32 ∧ State.reset.win.papbase = 0 ∧
    State.reset.win.msiaddr = List.replicate 16 0 ∧ State.reset.win.msidata = List.replicate 16 0#32 ∧
    State.reset.mp.busy = false ∧ State.reset.mp.result = 0 := ⟨rfl, rfl, rfl, rfl, rfl, rfl, rfl, rfl, rfl⟩

/-! ## The warp after dispatch (R15) -/

section
variable (s : State) (l : Launch) (team core area wid : Nat)

/-- R15: slots, window, index registers, predicates and live mask of a fresh warp. -/
theorem freshWarp_registers : (freshWarp s l team core area wid).regs = List.replicate l.regs (.u 0#32) ∧
    (freshWarp s l team core area wid).allot = l.regs ∧ (freshWarp s l team core area wid).winBase = 0 ∧
    (freshWarp s l team core area wid).xs = [0#32, 0#32, 0#32, 0#32] ∧
    (freshWarp s l team core area wid).preds = List.replicate 8 0#32 ∧
    (freshWarp s l team core area wid).live = if l.prot then 0xFFFF#32 else 0xFFFFFFFF#32 :=
  ⟨rfl, rfl, rfl, rfl, rfl, rfl⟩

/-- R15: split slot 0 starts at the entry PC with every live lane, outside any divergence, its latches empty. -/
theorem freshWarp_split0 : ∃ t, (freshWarp s l team core area wid).split0 = some t ∧ t.pc = l.entry ∧
    t.entry = (freshWarp s l team core area wid).live ∧ t.em = (freshWarp s l team core area wid).live ∧
    t.rcv = none ∧ t.join = none ∧ t.depth = 0 ∧ t.latches = [] :=
  ⟨_, rfl, rfl, rfl, rfl, rfl, rfl, rfl, rfl⟩

/-- R15: the Welt of a fresh warp is empty. -/
theorem freshWarp_welt_free : ∀ e ∈ (freshWarp s l team core area wid).welt, e = .free :=
  fun _ he => List.eq_of_mem_replicate he

/-- R15: quota, mode and supervisor bank of a fresh warp. -/
theorem freshWarp_quota_mode : (freshWarp s l team core area wid).q = l.vfloor ∧
    (freshWarp s l team core area wid).free = l.vfloor ∧ (freshWarp s l team core area wid).sup = false ∧
    (freshWarp s l team core area wid).bank = List.replicate 16 (.u 0#32) := ⟨rfl, rfl, rfl, rfl⟩

@[simp] theorem freshWarp_trap : (freshWarp s l team core area wid).trap = TrapRec.reset := rfl

/-- R15: the generator of lane i starts at i + 1, so that no lane's is zero. -/
theorem freshWarp_srng {i : Nat} (h : i < 32) : (freshWarp s l team core area wid).srng[i]? = some (BitVec.ofNat 32 (i + 1)) := by
  have range_get : (List.range 32)[i]? = some i := List.getElem?_range h
  simp [freshWarp, range_get]

end

/-- R15: the trap record's registers start at zero. -/
theorem trapRec_reset_zero : TrapRec.reset.tcause = 0#32 ∧ TrapRec.reset.tpc = 0 ∧ TrapRec.reset.tval = 0#32 ∧
    TrapRec.reset.tlanes = 0#32 ∧ TrapRec.reset.tem = 0#32 ∧ TrapRec.reset.twb = 0 := ⟨rfl, rfl, rfl, rfl, rfl, rfl⟩

/-- Settles O60: the device's fields one by one, then a fresh warp's items in the order of R15's table. -/
theorem resetValues : Obligations.ResetValues := by
  unfold Obligations.ResetValues
  refine ⟨reset_memInv, ⟨rfl, rfl, rfl⟩, fun _ => rfl, rfl, rfl, rfl, ?contexts, ?cores, ?banks, reset_window, ?warp⟩
  case contexts =>
    intro c _
    rw [reset_ctx]
    rfl
  case cores =>
    intro k _
    rw [reset_core]
    exact core_reset_resources
  case banks =>
    intro k b _ hb
    rw [reset_cluster]
    exact cluster_reset_bank hb
  case warp =>
    intro s l team core area wid x
    obtain ⟨hregs, hallot, hbase, hxs, hpreds, hlive⟩ := freshWarp_registers s l team core area wid
    obtain ⟨hq, hfree, hsup, hbank⟩ := freshWarp_quota_mode s l team core area wid
    exact ⟨hregs, hallot, hbase, hxs, hpreds, hlive, rfl, freshWarp_split0 s l team core area wid,
      freshWarp_welt_free s l team core area wid, hq, hfree, hsup, hbank, trapRec_reset_zero,
      fun _ hi => freshWarp_srng s l team core area wid hi⟩

end Sys2Proof.Machine
end

section
/-!
A warp's two slots, and what a write-back, a group switch and the end of an instruction do to a warp: the layer under the statements on
latches, traps, divergence and the vector quota (spec 01 R21 to R24, R27 to R30, R40).
-/

namespace Sys2Proof.Machine

/-! ## The two slots -/

theorem split?_some {x : Warp} {sp : Nat} {t : Split} (h : x.split? sp = some t) : sp = 0 ∨ sp = 1 := by
  unfold Warp.split? at h
  split at h
  · exact .inl ‹_›
  · split at h
    · exact .inr ‹_›
    · cases h

@[simp] theorem split?_zero (x : Warp) : x.split? 0 = x.split0 := rfl
@[simp] theorem split?_one (x : Warp) : x.split? 1 = x.split1 := rfl

theorem split?_setSplit_same (x : Warp) {sp : Nat} (h : sp = 0 ∨ sp = 1) (t : Option Split) : (x.setSplit sp t).split? sp = t := by
  obtain rfl | rfl := h <;> rfl

theorem split?_setSplit_other (x : Warp) {sp q : Nat} (h : q ≠ sp) (t : Option Split) : (x.setSplit sp t).split? q = x.split? q := by
  unfold Warp.setSplit Warp.split?
  by_cases h0 : sp = 0
  · subst h0; simp [h]
  · by_cases h1 : sp = 1
    · subst h1; simp [h]
    · simp [h0, h1]

theorem split?_mapSplit_same (x : Warp) (sp : Nat) (f : Split → Split) : (x.mapSplit sp f).split? sp = (x.split? sp).map f := by
  cases h : x.split? sp with
  | some t => rw [Warp.mapSplit, split?_setSplit_same _ (split?_some h), h]
  | none =>
    by_cases hs : sp = 0 ∨ sp = 1
    · rw [Warp.mapSplit, split?_setSplit_same _ hs, h]
    · obtain ⟨h0, h1⟩ := not_or.1 hs
      simp [Warp.split?, h0, h1]

theorem split?_mapSplit_other (x : Warp) {sp q : Nat} (h : q ≠ sp) (f : Split → Split) : (x.mapSplit sp f).split? q = x.split? q :=
  split?_setSplit_other x h _

/-- The slots 0 and 1 exchanged. -/
theorem otherSlot_ne {sp : Nat} (h : sp = 0 ∨ sp = 1) : otherSlot sp ≠ sp ∧ (otherSlot sp = 0 ∨ otherSlot sp = 1) := by
  obtain rfl | rfl := h <;> simp [otherSlot]

/-- What is left of a warp without its registers and the splits in its slots: what no write-back and no group switch changes. -/
def Warp.frame (x : Warp) : Warp :=
  { x with regs := [], bank := [], free := 0, bad := [], split0 := none, split1 := none }

theorem setSplit_frame (x : Warp) (sp : Nat) (t : Option Split) : (x.setSplit sp t).frame = x.frame := by
  unfold Warp.setSplit
  split
  · rfl
  · split <;> rfl

theorem mapSplit_frame (x : Warp) (sp : Nat) (f : Split → Split) : (x.mapSplit sp f).frame = x.frame := setSplit_frame ..

@[simp] theorem setSplit_live (x : Warp) (sp : Nat) (t : Option Split) : (x.setSplit sp t).live = x.live :=
  (congrArg Warp.live (setSplit_frame x sp t) :)
@[simp] theorem setSplit_preds (x : Warp) (sp : Nat) (t : Option Split) : (x.setSplit sp t).preds = x.preds :=
  (congrArg Warp.preds (setSplit_frame x sp t) :)
@[simp] theorem setSplit_welt (x : Warp) (sp : Nat) (t : Option Split) : (x.setSplit sp t).welt = x.welt :=
  (congrArg Warp.welt (setSplit_frame x sp t) :)
@[simp] theorem setSplit_weltOrder (x : Warp) (sp : Nat) (t : Option Split) : (x.setSplit sp t).weltOrder = x.weltOrder :=
  (congrArg Warp.weltOrder (setSplit_frame x sp t) :)
@[simp] theorem setSplit_weltBase (x : Warp) (sp : Nat) (t : Option Split) : (x.setSplit sp t).weltBase = x.weltBase :=
  (congrArg Warp.weltBase (setSplit_frame x sp t) :)
@[simp] theorem setSplit_team (x : Warp) (sp : Nat) (t : Option Split) : (x.setSplit sp t).team = x.team :=
  (congrArg Warp.team (setSplit_frame x sp t) :)

theorem setSplit_regs (x : Warp) (sp : Nat) (t : Option Split) :
    (x.setSplit sp t).regs = x.regs ∧ (x.setSplit sp t).bank = x.bank ∧ (x.setSplit sp t).free = x.free ∧
      (x.setSplit sp t).bad = x.bad := by
  unfold Warp.setSplit
  split
  · exact ⟨rfl, rfl, rfl, rfl⟩
  · split <;> exact ⟨rfl, rfl, rfl, rfl⟩

theorem mapSplit_regs (x : Warp) (sp : Nat) (f : Split → Split) :
    (x.mapSplit sp f).regs = x.regs ∧ (x.mapSplit sp f).bank = x.bank ∧ (x.mapSplit sp f).free = x.free ∧
      (x.mapSplit sp f).bad = x.bad := setSplit_regs ..

/-! ## Write-backs and group switches (R22, R23) -/

/-- A write-back changes registers, free slots and poison alone. -/
theorem writeBack_rest (x : Warp) (l : Latch) :
    { x.writeBack l with regs := x.regs, bank := x.bank, free := x.free, bad := x.bad } = x := by
  unfold Warp.writeBack
  split
  · rfl
  · rename_i p _
    split
    · rfl
    · split
      · unfold Warp.fullWrite Warp.clean
        split <;> cases p <;> rfl
      · split
        · rw [commit_put]; exact put_rest ..
        · rfl

/-- No pending write-back: nothing is written. -/
theorem writeBack_idle (x : Warp) {l : Latch} (h : l.nw = false) : x.writeBack l = x := by
  unfold Warp.writeBack
  split
  · rfl
  · simp [h]

theorem writeBacks_rest : ∀ (ls : List Latch) (x : Warp),
    { ls.foldl Warp.writeBack x with regs := x.regs, bank := x.bank, free := x.free, bad := x.bad } = x
  | [], _ => rfl
  | l :: ls, x =>
    (congrArg (fun y : Warp => { y with regs := x.regs, bank := x.bank, free := x.free, bad := x.bad })
      (writeBacks_rest ls (x.writeBack l))).trans (writeBack_rest x l)

theorem writeBacks_idle : ∀ (ls : List Latch) (x : Warp), (∀ l ∈ ls, l.nw = false) → ls.foldl Warp.writeBack x = x
  | [], _, _ => rfl
  | l :: ls, x, h => by
    rw [List.foldl_cons, writeBack_idle x (h l (List.mem_cons_self ..))]
    exact writeBacks_idle ls x fun m hm => h m (List.mem_cons_of_mem _ hm)

/-- A split whose latches a group switch has lost (R24). -/
def Split.switched (t : Split) : Split := { t with latches := t.latches.map fun l => { l with nw := false, lost := true } }

theorem switched_latches {t : Split} {l : Latch} (h : l ∈ t.switched.latches) : l.lost = true ∧ l.nw = false := by
  obtain ⟨m, -, rfl⟩ := List.mem_map.1 h
  exact ⟨rfl, rfl⟩

theorem groupSwitch_none {x : Warp} {sp : Nat} (h : x.split? sp = none) : x.groupSwitch sp = x := by
  simp [Warp.groupSwitch, h]

theorem groupSwitch_some {x : Warp} {sp : Nat} {t : Split} (h : x.split? sp = some t) :
    x.groupSwitch sp = (t.latches.reverse.foldl Warp.writeBack x).mapSplit sp Split.switched := by
  simp only [Warp.groupSwitch, h]
  rfl

theorem writeBacks_split? (ls : List Latch) (x : Warp) (sp : Nat) : (ls.foldl Warp.writeBack x).split? sp = x.split? sp :=
  (congrArg (fun y : Warp => y.split? sp) (writeBacks_rest ls x) :)

theorem groupSwitch_split_same (x : Warp) (sp : Nat) : (x.groupSwitch sp).split? sp = (x.split? sp).map Split.switched := by
  cases h : x.split? sp with
  | none => rw [groupSwitch_none h, h]; rfl
  | some t => rw [groupSwitch_some h, split?_mapSplit_same, writeBacks_split?, h]

theorem groupSwitch_split_other (x : Warp) {sp q : Nat} (h : q ≠ sp) : (x.groupSwitch sp).split? q = x.split? q := by
  cases ht : x.split? sp with
  | none => rw [groupSwitch_none ht]
  | some t => rw [groupSwitch_some ht, split?_mapSplit_other _ h, writeBacks_split?]

theorem groupSwitch_frame (x : Warp) (sp : Nat) : (x.groupSwitch sp).frame = x.frame := by
  cases h : x.split? sp with
  | none => rw [groupSwitch_none h]
  | some t =>
    rw [groupSwitch_some h, mapSplit_frame]
    exact (congrArg Warp.frame (writeBacks_rest t.latches.reverse x) :)

/-- With no pending write-back a group switch leaves every register as it is. -/
theorem groupSwitch_idle {x : Warp} {sp : Nat} (h : ∀ t, x.split? sp = some t → ∀ l ∈ t.latches, l.nw = false) :
    (x.groupSwitch sp).regs = x.regs ∧ (x.groupSwitch sp).bank = x.bank := by
  cases ht : x.split? sp with
  | none => rw [groupSwitch_none ht]; exact ⟨rfl, rfl⟩
  | some t =>
    rw [groupSwitch_some ht, writeBacks_idle _ _ fun l hl => h t ht l (List.mem_reverse.1 hl)]
    exact ⟨(mapSplit_regs ..).1, (mapSplit_regs ..).2.1⟩

@[simp] theorem groupSwitch_live (x : Warp) (sp : Nat) : (x.groupSwitch sp).live = x.live :=
  (congrArg Warp.live (groupSwitch_frame x sp) :)
@[simp] theorem groupSwitch_preds (x : Warp) (sp : Nat) : (x.groupSwitch sp).preds = x.preds :=
  (congrArg Warp.preds (groupSwitch_frame x sp) :)
@[simp] theorem groupSwitch_welt (x : Warp) (sp : Nat) : (x.groupSwitch sp).welt = x.welt :=
  (congrArg Warp.welt (groupSwitch_frame x sp) :)
@[simp] theorem groupSwitch_weltOrder (x : Warp) (sp : Nat) : (x.groupSwitch sp).weltOrder = x.weltOrder :=
  (congrArg Warp.weltOrder (groupSwitch_frame x sp) :)
@[simp] theorem groupSwitch_weltBase (x : Warp) (sp : Nat) : (x.groupSwitch sp).weltBase = x.weltBase :=
  (congrArg Warp.weltBase (groupSwitch_frame x sp) :)
@[simp] theorem groupSwitch_trap (x : Warp) (sp : Nat) : (x.groupSwitch sp).trap = x.trap :=
  (congrArg Warp.trap (groupSwitch_frame x sp) :)
@[simp] theorem groupSwitch_team (x : Warp) (sp : Nat) : (x.groupSwitch sp).team = x.team :=
  (congrArg Warp.team (groupSwitch_frame x sp) :)

end Sys2Proof.Machine
end

section
/-!
The end of an instruction, and trap return (spec 01 R21, R22, R47; 08 R229).
-/

namespace Sys2Proof.Machine

/-! ## The end of an instruction (R21, R22) -/

/-- A warp without what an instruction's end counts, besides its registers and splits. -/
def Warp.uncounted (x : Warp) : Warp := { x.frame with retired := 0, issued := 0, lastRetire := 0 }

/-- A split after its instruction; one that had parked has a group switch (R22). -/
def Split.after (t : Split) (pc : Nat) (l : Latch) (written : List Place) : Split :=
  if t.held.isSome then (t.done pc l written).switched else t.done pc l written

theorem after_fields (t : Split) (pc : Nat) (l : Latch) (written : List Place) :
    (t.after pc l written).pc = pc % 2 ^ 64 ∧ (t.after pc l written).entry = t.entry ∧ (t.after pc l written).em = t.em ∧
    (t.after pc l written).rcv = t.rcv ∧ (t.after pc l written).join = t.join ∧ (t.after pc l written).depth = t.depth ∧
    (t.after pc l written).xp = none ∧ (t.after pc l written).park = .no ∧ (t.after pc l written).held = none ∧
    (t.after pc l written).late = none := by
  unfold Split.after
  split <;> exact ⟨rfl, rfl, rfl, rfl, rfl, rfl, rfl, rfl, rfl, rfl⟩

section
variable (x : Warp) (sp pc : Nat) (l : Latch) (written : List Place) (ns : Nat)

theorem retire_frame : (x.retire sp pc l written ns).uncounted = x.uncounted := by
  have done_frame := mapSplit_frame x sp fun t => t.done pc l written
  have h : (if x.hasParked sp then (x.mapSplit sp fun t => t.done pc l written).groupSwitch sp
      else x.mapSplit sp fun t => t.done pc l written).frame = x.frame := by
    split
    · rw [groupSwitch_frame, done_frame]
    · exact done_frame
  exact (congrArg (fun y : Warp => { y with retired := 0, issued := 0, lastRetire := 0 }) h :)

theorem retire_split_same : (x.retire sp pc l written ns).split? sp = (x.split? sp).map fun t => t.after pc l written := by
  show (if x.hasParked sp then (x.mapSplit sp fun t => t.done pc l written).groupSwitch sp
      else x.mapSplit sp fun t => t.done pc l written).split? sp = _
  unfold Warp.hasParked
  cases h : x.split? sp with
  | none => simp [split?_mapSplit_same, h]
  | some t =>
    unfold Split.after
    cases ht : t.held.isSome <;> simp [groupSwitch_split_same, split?_mapSplit_same, h, ht]

variable {sp} in
theorem retire_split_other {q : Nat} (h : q ≠ sp) : (x.retire sp pc l written ns).split? q = x.split? q := by
  show (if x.hasParked sp then (x.mapSplit sp fun t => t.done pc l written).groupSwitch sp
      else x.mapSplit sp fun t => t.done pc l written).split? q = _
  split
  · rw [groupSwitch_split_other _ h, split?_mapSplit_other _ h]
  · rw [split?_mapSplit_other _ h]

@[simp] theorem retire_live : (x.retire sp pc l written ns).live = x.live := (congrArg Warp.live (retire_frame x sp pc l written ns) :)
@[simp] theorem retire_preds : (x.retire sp pc l written ns).preds = x.preds := (congrArg Warp.preds (retire_frame x sp pc l written ns) :)
@[simp] theorem retire_trap : (x.retire sp pc l written ns).trap = x.trap := (congrArg Warp.trap (retire_frame x sp pc l written ns) :)

end

/-- A latch of the chain after an instruction is the new entry, or an older one, whose pending write-back may be cancelled (R21, R23). -/
theorem done_latch {t : Split} {pc : Nat} {l m : Latch} {written : List Place} (h : m ∈ (t.done pc l written).latches) :
    m = l ∨ ∃ o ∈ t.latches, m = o ∨ m = { o with nw := false } := by
  have older : ∀ (ps : List Place) (ls : List Latch), m ∈ supersedeAll ls ps →
      ∃ o ∈ ls, m = o ∨ m = { o with nw := false } := by
    intro ps
    induction ps with
    | nil => exact fun ls hm => ⟨m, hm, .inl rfl⟩
    | cons p ps ih =>
      intro ls hm
      obtain ⟨o, ho, hmo⟩ := ih (supersede ls p) hm
      obtain ⟨k, hk, rfl⟩ := List.mem_map.1 ho
      refine ⟨k, hk, ?_⟩
      split at hmo
      · exact .inr (hmo.elim id id)
      · exact hmo
  obtain h | h := List.mem_cons.1 (List.mem_of_mem_take h)
  · exact .inl h
  · exact .inr (older _ _ h)

theorem after_idle {t : Split} {pc : Nat} {l : Latch} {written : List Place} (hl : l.nw = false) (h : ∀ m ∈ t.latches, m.nw = false) :
    ∀ m ∈ (t.after pc l written).latches, m.nw = false := by
  intro m hm
  unfold Split.after at hm
  split at hm
  · exact (switched_latches hm).2
  · obtain rfl | ⟨o, ho, rfl | rfl⟩ := done_latch hm
    · exact hl
    · exact h _ ho
    · rfl

/-- With no pending write-back an instruction's end leaves every register as it is. -/
theorem retire_idle {x : Warp} {sp pc ns : Nat} {l : Latch} {written : List Place} (hl : l.nw = false)
    (h : ∀ t, x.split? sp = some t → ∀ m ∈ t.latches, m.nw = false) :
    (x.retire sp pc l written ns).regs = x.regs ∧ (x.retire sp pc l written ns).bank = x.bank := by
  obtain ⟨hr, hb, -, -⟩ := mapSplit_regs x sp fun t => t.done pc l written
  unfold Warp.retire
  dsimp only
  split
  · have hi := groupSwitch_idle (x := x.mapSplit sp fun t => t.done pc l written) (sp := sp) (by
      intro t ht m hm
      rw [split?_mapSplit_same] at ht
      obtain ⟨u, hu, rfl⟩ := Option.map_eq_some_iff.1 ht
      obtain rfl | ⟨o, ho, rfl | rfl⟩ := done_latch hm
      · exact hl
      · exact h u hu m ho
      · rfl)
    exact ⟨hi.1.trans hr, hi.2.trans hb⟩
  · exact ⟨hr, hb⟩

/-! ## Trap return (R47, R229) -/

/-- Where RTE resumes, as R47 words it. -/
theorem target_eq (r : TrapRec) {skip : Nat} (h : skip ≤ 1) : r.target skip =
    r.tpc + if skip = 0 then 0 else if r.tcause.toNat / 2 ^ 8 % 2 ^ 8 = 1 then 8 else 4 := by
  obtain rfl | rfl : skip = 0 ∨ skip = 1 := by omega
  · rfl
  · rfl

/-- The warp RTE leaves: its handler's instruction over, and both splits' latches switched back (R22, R47). -/
def Iss.resumes (c : Iss) (ns t : Nat) : Warp :=
  (((c.warp.retire c.sp t Latch.empty [] ns).groupSwitch 0).groupSwitch 1).leaveTrap c.sp t

theorem leaveTrap_frame (x : Warp) (sp t : Nat) : (x.leaveTrap sp t).frame = { x.frame with sup := false } :=
  (congrArg (fun y : Warp => { y with sup := false }) (mapSplit_frame x sp _) :)

theorem leaveTrap_regs (x : Warp) (sp t : Nat) : (x.leaveTrap sp t).regs = x.regs ∧ (x.leaveTrap sp t).bank = x.bank :=
  ⟨(mapSplit_regs x sp _).1, (mapSplit_regs x sp _).2.1⟩

theorem leaveTrap_split_same (x : Warp) (sp t : Nat) : (x.leaveTrap sp t).split? sp = (x.split? sp).map fun q =>
    { q with pc := t, entry := x.trap.savedEntry, em := x.trap.tem &&& x.trap.savedEntry &&& x.live } :=
  split?_mapSplit_same x sp _

theorem leaveTrap_split_other (x : Warp) {sp q : Nat} (h : q ≠ sp) (t : Nat) : (x.leaveTrap sp t).split? q = x.split? q :=
  split?_mapSplit_other x h _

/-- Both splits switched: each slot keeps its split, but for its latches. -/
theorem bothSwitched_split (x : Warp) {sp : Nat} (h : sp = 0 ∨ sp = 1) :
    ((x.groupSwitch 0).groupSwitch 1).split? sp = (x.split? sp).map Split.switched := by
  obtain rfl | rfl := h
  · rw [groupSwitch_split_other _ (by decide), groupSwitch_split_same]
  · rw [groupSwitch_split_same, groupSwitch_split_other _ (by decide)]

theorem bothSwitched_idle {x : Warp} (h : ∀ sp t, x.split? sp = some t → ∀ l ∈ t.latches, l.nw = false) :
    ((x.groupSwitch 0).groupSwitch 1).regs = x.regs ∧ ((x.groupSwitch 0).groupSwitch 1).bank = x.bank := by
  have first := groupSwitch_idle (x := x) (sp := 0) (h 0)
  have second := groupSwitch_idle (x := x.groupSwitch 0) (sp := 1) (by
    intro t ht
    rw [groupSwitch_split_other _ (by decide)] at ht
    exact h 1 t ht)
  exact ⟨second.1.trans first.1, second.2.trans first.2⟩

/-- The interrupted split after RTE. -/
theorem resumes_split {c : Iss} (ns t : Nat) (hsp : c.sp = 0 ∨ c.sp = 1) (h : c.warp.split? c.sp = some c.split) :
    (c.resumes ns t).split? c.sp = some { (c.split.after t Latch.empty []).switched with
      pc := t, entry := c.warp.trap.savedEntry, em := c.warp.trap.tem &&& c.warp.trap.savedEntry &&& c.warp.live } := by
  rw [Iss.resumes, leaveTrap_split_same, bothSwitched_split _ hsp, retire_split_same, h]
  simp

/-- The warp's other split after RTE has lost its latches and nothing else. -/
theorem resumes_other {c : Iss} (ns t : Nat) (hsp : c.sp = 0 ∨ c.sp = 1) :
    (c.resumes ns t).split? (otherSlot c.sp) = (c.warp.split? (otherSlot c.sp)).map Split.switched := by
  obtain ⟨hne, hslot⟩ := otherSlot_ne hsp
  rw [Iss.resumes, leaveTrap_split_other _ hne, bothSwitched_split _ hslot, retire_split_other _ _ _ _ _ hne]

theorem resumes_rest (c : Iss) (ns t : Nat) : (c.resumes ns t).sup = false ∧ (c.resumes ns t).live = c.warp.live ∧
    (c.resumes ns t).preds = c.warp.preds ∧ (c.resumes ns t).trap = c.warp.trap := by
  have h := leaveTrap_frame (((c.warp.retire c.sp t Latch.empty [] ns).groupSwitch 0).groupSwitch 1) c.sp t
  refine ⟨rfl, (congrArg Warp.live h :).trans ?_, (congrArg Warp.preds h :).trans ?_, (congrArg Warp.trap h :).trans ?_⟩
  · simp [Warp.frame]
  · simp [Warp.frame]
  · simp [Warp.frame]

/-- With no pending write-back in either slot RTE leaves every register as it is. -/
theorem resumes_idle {c : Iss} (ns t : Nat) (hsp : c.sp = 0 ∨ c.sp = 1) (h : c.warp.split? c.sp = some c.split)
    (mine : ∀ l ∈ c.split.latches, l.nw = false)
    (theirs : ∀ q, c.warp.split? (otherSlot c.sp) = some q → ∀ l ∈ q.latches, l.nw = false) :
    (c.resumes ns t).regs = c.warp.regs ∧ (c.resumes ns t).bank = c.warp.bank := by
  have retired := retire_idle (x := c.warp) (sp := c.sp) (pc := t) (ns := ns) (l := Latch.empty) (written := []) rfl
    fun q hq => by rw [h] at hq; cases hq; exact mine
  have idle : ∀ sp q, (c.warp.retire c.sp t Latch.empty [] ns).split? sp = some q → ∀ l ∈ q.latches, l.nw = false := by
    intro sp q hq l hl
    by_cases hs : sp = c.sp
    · subst hs
      rw [retire_split_same, h] at hq
      cases hq
      exact after_idle rfl mine l hl
    · rw [retire_split_other _ _ _ _ _ hs] at hq
      have : sp = otherSlot c.sp := by
        have := split?_some hq
        unfold otherSlot
        omega
      subst this
      exact theirs q hq l hl
  have switched := bothSwitched_idle idle
  obtain ⟨lregs, lbank⟩ := leaveTrap_regs (((c.warp.retire c.sp t Latch.empty [] ns).groupSwitch 0).groupSwitch 1) c.sp t
  exact ⟨lregs.trans (switched.1.trans retired.1), lbank.trans (switched.2.trans retired.2)⟩

/-- Settles O24: the two failing targets first, then the warp that resumes, slot by slot. -/
theorem trapReturn : Obligations.TrapReturn := by
  unfold Obligations.TrapReturn
  intro s c skip hi hskip
  obtain ⟨-, hw, hs, hsp, -⟩ := issuing_spec hi.1
  dsimp only
  rw [← target_eq c.warp.trap hskip]
  refine ⟨fun hal => execute_error hi ?_, fun hal hcan => execute_error hi ?_, fun hal hcan => ?_⟩
  · rw [if_pos hal]; rfl
  · rw [if_neg (not_not.2 hal), if_pos hcan]; rfl
  · generalize ht : c.warp.trap.target skip = t at hal hcan ⊢
    obtain ⟨hsup, hlive, hpreds, htrap⟩ := resumes_rest c s.clk.ns t
    have hother := resumes_other (c := c) s.clk.ns t hsp
    refine ⟨c.resumes s.clk.ns t, _, ?_, hsup, hlive, hpreds, htrap, resumes_split s.clk.ns t hsp hs, rfl, rfl, rfl, ?_, ?_, ?_, ?_,
      ?_, ?_, resumes_idle s.clk.ns t hsp hs⟩
    · refine execute_ok hi ?_
      dsimp only
      rw [ht, if_neg (not_not.2 hal), if_neg (Nat.not_le.2 hcan), mapWarp_withWarp hw]
      rfl
    · exact (after_fields ..).2.2.2.2.2.2.1
    · exact (after_fields ..).2.2.2.2.2.1
    · exact (after_fields ..).2.2.2.1
    · exact (after_fields ..).2.2.2.2.1
    · intro hq
      rw [hother, hq]
      rfl
    · intro q hq
      refine ⟨q.switched, by rw [hother, hq]; rfl, rfl, fun l hl => switched_latches hl⟩

end Sys2Proof.Machine
end

section
/-!
Two statements of spec 01 that fail as they stand: what a source field of a parked instruction reads (R140), and the poison that a
write-back at trap entry takes away (R403).
-/

namespace Sys2Proof.Machine

/-! ## Source fields of a parked instruction -/

/-- A warp with a register of its own in each of the slots 0 and 1. -/
def twoRegs : Warp := { Warp.blank with regs := [.u 0#32, .u 1#32] }

/-- An instruction that has parked when its window began at slot 1; the window begins at slot 0 now. -/
def movedWindow : Iss :=
  { w := 0, sp := 0, warp := twoRegs, tid := 0
    split := { Split.none0 with held := some { base := 1, sup := false, xs := [], scope := none } } }

/-- Refutes O52: once an instruction has parked its fields are decoded under the window base it issued with (R140), not under the warp's
present one, so field 0 of `movedWindow` reads slot 1 where the statement says slot 0. -/
theorem not_sourcesAndLatches : ¬ Obligations.SourcesAndLatches := by
  unfold Obligations.SourcesAndLatches
  rintro ⟨reads, -⟩
  obtain ⟨-, -, -, -, window, -⟩ := reads movedWindow .a 0 0
  have slot0 : movedWindow.read .a (.win 0) = twoRegs.regs.getD 0 (.u 0#32) := (window rfl).1 (.inl rfl)
  have slot1 : movedWindow.read .a (.win 0) = .u 1#32 := rfl
  rw [slot1] at slot0
  exact absurd slot0 (by decide)

/-! ## Trap entry -/

theorem withWarp_inj {s : State} {w : Nat} {x y : Warp} (hw : w < s.warps.length) (h : s.withWarp w x = s.withWarp w y) : x = y := by
  have get := congrArg (fun u : State => u.warps[w]?) h
  simpa [State.withWarp, hw] using get

@[simp] theorem unlessBlocked_withWarp (s : State) (c : Iss) (w : Nat) (y : Warp) : unlessBlocked s c (s.withWarp w y) = s.withWarp w y :=
  unlessBlocked_same rfl

/-- A warp whose split can issue lives. -/
theorem ready_lives {s : State} {c : Iss} (h : c.ready s = true) : c.warp.lives = true := by
  unfold Iss.ready at h
  simp only [Bool.and_eq_true] at h
  simp [Warp.lives, h.1.1.1.1.1.1]

/-- A trap of a user warp that halts nothing enters the handler (R44). -/
theorem traps_enters {s : State} {c : Iss} {t : Trap} (hi : issuing s = some c) (hb : t.base = none) (hc : c.warp.cobbler = false)
    (hd : c.warp.differs s = false) (hu : c.warp.sup = false) (hh : haltCause t.cause = false) :
    traps s c t = .next (s.withWarp c.w (c.warp.enterTrap s c.sp t (s.ctx (s.ctxOf c.warp)).tvec)) := by
  obtain ⟨-, hw, hs, -, hr⟩ := issuing_spec hi
  have entered : doTrap s c.w c.sp t = (s.withWarp c.w (c.warp.enterTrap s c.sp t (s.ctx (s.ctxOf c.warp)).tvec), []) := by
    simp [doTrap, hw, hs, ready_lives hr, hu, hc, hh, mapWarp_withWarp hw]
  have ran : s.run [.trap c.w c.sp t] = s.withWarp c.w (c.warp.enterTrap s c.sp t (s.ctx (s.ctxOf c.warp)).tvec) := by
    simp [State.run, taskFuel, runTasks, doTask, entered]
  simp only [traps, raise, agreed, hd, hb, Bool.false_eq_true, if_false, Option.getD_none, ran, unlessBlocked_withWarp]

/-- A pending write-back of slot 0. -/
def pendingSlot0 : Latch :=
  { res := .u 7#32, val := .u 7#32, dst := some (.slot 0), nw := true, em := 1#32, full := true, lost := false }

/-- A warp in user mode whose slot 0 is poisoned and about to be overwritten whole. -/
def markedWarp : Warp :=
  { Warp.blank with
    st := .running, allot := 1, regs := [.u 0#32], bad := [.slot 0], live := 1#32
    split0 := some { Split.none0 with entry := 1#32, em := 1#32, latches := [pendingSlot0] } }

/-- The device with this warp alone, its split chosen to issue. -/
def markedState : State :=
  { State.reset with
    warps := [markedWarp], teams := [{ Team.none0 with res := .running }], sched := { State.reset.sched with issue := some (0, 0) } }

def markedIss : Iss :=
  { w := 0, sp := 0, warp := markedWarp, split := { Split.none0 with entry := 1#32, em := 1#32, latches := [pendingSlot0] }, tid := 0 }

theorem marked_issues : issuing markedState = some markedIss := by decide +kernel

/-- Refutes O53: a trap's group switch writes the pending full write of `markedWarp` to its poisoned slot 0, which takes the poison away
(R403), while the statement has trap entry leave the poison marks as they were. -/
theorem not_trapEntry : ¬ Obligations.TrapEntry := by
  unfold Obligations.TrapEntry
  intro h
  let t : Trap := { cause := 0x08, val := .word 0 }
  obtain ⟨-, agree⟩ := h markedState markedIss t marked_issues rfl rfl
  obtain ⟨enters, -⟩ := agree rfl
  obtain ⟨y, hy, -, -, -, -, -, -, -, -, -, -, -, -, -, -, rest, -⟩ := enters rfl (by decide)
  rw [traps_enters marked_issues rfl rfl rfl rfl rfl] at hy
  have entered := withWarp_inj (by decide) (Host.Outcome.next.inj hy)
  have cleaned : y.bad = [] := by
    rw [← entered]
    rfl
  have kept : y.bad = [.slot 0] := (congrArg Warp.bad rest :)
  rw [cleaned] at kept
  exact absurd kept (by decide)

end Sys2Proof.Machine
end

section
/-!
The Welt served from the core (log 14), the tasks that follow a step, and arrivals (spec 01 R38 to R41, R48).
-/

namespace Sys2Proof.Machine

/-! ## One warp changed -/

theorem withWarp_get {s : State} {w : Nat} {x : Warp} (h : s.warps[w]? = some x) (y : Warp) : (s.withWarp w y).warps[w]? = some y := by
  simp [State.withWarp, (List.getElem?_eq_some_iff.1 h).1]

@[simp] theorem withWarp_withWarp (s : State) (w : Nat) (x y : Warp) : (s.withWarp w x).withWarp w y = s.withWarp w y := by
  simp [State.withWarp]

theorem mapWarp_withWarp_same {s : State} {w : Nat} {x : Warp} (h : s.warps[w]? = some x) (y : Warp) (f : Warp → Warp) :
    (s.withWarp w y).mapWarp w f = s.withWarp w (f y) := by
  rw [mapWarp_withWarp (withWarp_get h y), withWarp_withWarp]

/-! ## The Welt on the core (R41, log 14) -/

/-- What an entry served from the core depends on: the team and the Welt's base, no other part of the warp. -/
theorem OnCore.congr {s : State} {x y : Warp} {i : Nat} (h : OnCore s x i) (ht : y.team = x.team) (hb : y.weltBase = x.weltBase)
    (w : Nat) (z : Warp) : OnCore (s.withWarp w z) y i := by
  have ha : weltAddr y i = weltAddr x i := by simp only [weltAddr, hb]
  have hc : (s.withWarp w z).ctxOf y = s.ctxOf x := by
    show (s.launch (s.team y.team).launch).ctx = (s.launch (s.team x.team).launch).ctx
    rw [ht]
  obtain ⟨unmapped, sound⟩ := h
  constructor
  · rw [← unmapped]
    unfold weltMapped
    rw [ha, hc]
    rfl
  · intro pa lev e
    rw [ha, hc]
    exact sound pa lev e

theorem postMalformed_none {s : State} {c va : Nat} {who : Who} (h : ∀ pa lev e, translate s c va ≠ .malformed pa lev e) :
    postMalformed s c [va] who = s := by
  unfold postMalformed
  cases ht : translate s c va with
  | leaf l => simp [ht]
  | absent => simp [ht]
  | malformed pa lev e => exact absurd ht (h pa lev e)

theorem weltPut_onCore {s : State} {w i : Nat} {x : Warp} (hw : s.warps[w]? = some x) (hc : OnCore s x i) (e : Welt) :
    weltPut s w i e = s.withWarp w { x with welt := x.welt.set i e } := by
  obtain ⟨unmapped, sound⟩ := hc.congr rfl rfl w { x with welt := x.welt.set i e }
  unfold weltPut
  rw [hw]
  dsimp only
  rw [mapWarp_withWarp hw, unmapped]
  exact postMalformed_none sound

theorem weltGet_onCore {s : State} {w i : Nat} {x : Warp} (hw : s.warps[w]? = some x) (hc : OnCore s x i) :
    weltGet s w i = (s, some (x.welt.getD i .free)) := by
  obtain ⟨unmapped, sound⟩ := hc
  unfold weltGet
  simp only [hw, unmapped, Bool.false_eq_true, if_false]
  rw [postMalformed_none sound]

/-! ## Tasks -/

section
variable {s u : State} {w sp n : Nat} {ts rest : List Task}

theorem runTasks_nil (s : State) : ∀ n, runTasks s [] n = s
  | 0 => rfl
  | _ + 1 => rfl

theorem runTasks_settle (h : doSettle s w sp = (u, ts)) (hn : 0 < n) :
    runTasks s (.settle w sp :: rest) n = runTasks u (rest ++ ts) (n - 1) := by
  obtain ⟨n, rfl⟩ := Nat.exists_eq_succ_of_ne_zero hn.ne'
  simp [runTasks, doTask, h]

theorem runTasks_fill (h : doFill s w = (u, ts)) (hn : 0 < n) :
    runTasks s (.fill w :: rest) n = runTasks u (rest ++ ts) (n - 1) := by
  obtain ⟨n, rfl⟩ := Nat.exists_eq_succ_of_ne_zero hn.ne'
  simp [runTasks, doTask, h]

end

theorem doSettle_stays {s : State} {w sp : Nat} {x : Warp} (hw : s.warps[w]? = some x)
    (h : ∀ t, x.split? sp = some t → (∀ f, t.park ≠ .fail f) ∧ reached x t = false) : doSettle s w sp = (s, []) := by
  unfold doSettle
  rw [hw]
  dsimp only
  cases ht : x.split? sp with
  | none => rfl
  | some t =>
    obtain ⟨fits, away⟩ := h t ht
    dsimp only
    split
    · exact absurd ‹_› (fits _)
    · rw [away]
      rfl

theorem doFill_noSlot {s : State} {w : Nat} {x : Warp} (hw : s.warps[w]? = some x) (h0 : x.split0.isSome = true)
    (h1 : x.split1.isSome = true) : doFill s w = (s, []) := by
  obtain ⟨t0, ht0⟩ := Option.isSome_iff_exists.1 h0
  obtain ⟨t1, ht1⟩ := Option.isSome_iff_exists.1 h1
  simp [doFill, hw, ht0, ht1]

theorem doFill_noSplit {s : State} {w : Nat} {x : Warp} (hw : s.warps[w]? = some x) (h : x.weltOrder = []) : doFill s w = (s, []) := by
  unfold doFill
  rw [hw]
  dsimp only
  rw [h]
  generalize (if x.split0.isNone then some 0 else if x.split1.isNone then some 1 else none) = slot
  cases slot <;> rfl

/-- The one free slot of a warp is the one that `doFill` fills. -/
theorem freeSlot_eq {x : Warp} {sp : Nat} (hsp : sp = 0 ∨ sp = 1) (h : x.split? sp = none)
    (ho : (x.split? (otherSlot sp)).isSome = true) :
    (if x.split0.isNone then some 0 else if x.split1.isNone then some 1 else none) = some sp := by
  obtain rfl | rfl := hsp
  · simp_all
  · obtain ⟨t, ht⟩ := Option.isSome_iff_exists.1 (show x.split0.isSome = true from ho)
    have h1 : x.split1 = none := h
    simp [ht, h1]

/-- A warp whose slot `sp` has taken the split `t` from its Welt entry `i`. -/
def Warp.refilled (x : Warp) (sp i : Nat) (t : Split) (rest : List Nat) (ns : Nat) : Warp :=
  { x.setSplit sp (some { t with since := ns }) with welt := x.welt.set i .free, weltOrder := rest, issued := 0 }

theorem refilled_split_same (x : Warp) {sp : Nat} (h : sp = 0 ∨ sp = 1) (i : Nat) (t : Split) (rest : List Nat) (ns : Nat) :
    (x.refilled sp i t rest ns).split? sp = some { t with since := ns } := split?_setSplit_same x h _

theorem refilled_split_other (x : Warp) {sp q : Nat} (h : q ≠ sp) (i : Nat) (t : Split) (rest : List Nat) (ns : Nat) :
    (x.refilled sp i t rest ns).split? q = x.split? q := split?_setSplit_other x h _

/-- The longest suspended split comes back from an entry on the core. -/
theorem doFill_onCore {s : State} {w sp i : Nat} {x : Warp} {rest : List Nat} {t : Split} (hw : s.warps[w]? = some x)
    (hsp : sp = 0 ∨ sp = 1) (hfree : x.split? sp = none) (ho : (x.split? (otherSlot sp)).isSome = true) (hu : x.sup = false)
    (hl : x.lives = true) (horder : x.weltOrder = i :: rest) (ht : x.welt[i]? = some (.split t)) (hc : OnCore s x i) :
    doFill s w = (s.withWarp w (x.refilled sp i t rest s.clk.ns), [.settle w sp, .fill w]) := by
  have entry : x.welt.getD i .free = .split t := by rw [List.getD_eq_getElem?_getD, ht]; rfl
  unfold doFill
  simp only [hw, freeSlot_eq hsp hfree ho, horder, hu, hl, weltGet_onCore hw hc, entry, Bool.not_true, Bool.or_false,
    Bool.false_eq_true, if_false]
  rw [mapWarp_withWarp hw]
  refine congrArg (·, _) ((weltPut_onCore (withWarp_get hw _) (hc.congr (by simp) (by simp) w _) .free).trans ?_)
  rw [withWarp_withWarp]
  simp only [setSplit_welt]
  rfl

/-! ## Arrivals (R38) -/

/-- What `reached` asks of a split, as R38 words it. -/
theorem reached_iff {x : Warp} {t : Split} : reached x t = true ↔
    x.lives = true ∧ x.sup = false ∧ t.late = none ∧ (t.rcv = some t.pc ∨ t.entry = 0#32) := by
  simp [reached, and_assoc]

theorem not_reached {x : Warp} {t : Split} (hr : t.rcv ≠ some t.pc) (he : t.entry ≠ 0#32) : reached x t = false := by
  simp [reached, hr, he]

theorem issOf_some {s : State} {w sp : Nat} {x : Warp} {t : Split} (hw : s.warps[w]? = some x) (ht : x.split? sp = some t) :
    issOf s w sp = some { w := w, sp := sp, warp := x, split := t, tid := (s.team x.team).tid } := by
  simp [issOf, hw, ht]

/-- A split that has reached its join arrives. -/
theorem settle_arrives {s : State} {w sp : Nat} {x : Warp} {t : Split} (hw : s.warps[w]? = some x) (ht : x.split? sp = some t)
    (hr : reached x t = true) (hf : ∀ f, t.park ≠ .fail f) :
    settle s w sp = runTasks (doArrive s w sp x t).1 (doArrive s w sp x t).2 (taskFuel - 1) := by
  have arrives : doSettle s w sp = doArrive s w sp x t := by
    unfold doSettle
    simp only [hw, ht, hr, if_true]
  unfold settle
  simp only [issOf_some hw ht, hr, if_true]
  exact runTasks_settle arrives (by decide)

/-- A warp whose split in `sp` has left its slot, its Welt entry `j` changed to `e`. -/
def Warp.departed (x : Warp) (sp j : Nat) (e : Welt) : Warp := { (x.groupSwitch sp).setSplit sp none with welt := x.welt.set j e }

/-- What a departure changes: registers, the slot, and one Welt entry. -/
theorem departed_frame (x : Warp) (sp j : Nat) (e : Welt) :
    ({ x.departed sp j e with welt := [] } : Warp).frame = ({ x with welt := [] } : Warp).frame :=
  (congrArg (fun z : Warp => { z with welt := [] }) ((setSplit_frame (x.groupSwitch sp) sp none).trans (groupSwitch_frame x sp)) :)

theorem departed_split_same (x : Warp) {sp : Nat} (h : sp = 0 ∨ sp = 1) (j : Nat) (e : Welt) : (x.departed sp j e).split? sp = none :=
  split?_setSplit_same (x.groupSwitch sp) h none

theorem departed_split_other (x : Warp) {sp q : Nat} (h : q ≠ sp) (j : Nat) (e : Welt) :
    (x.departed sp j e).split? q = x.split? q :=
  (split?_setSplit_other (x.groupSwitch sp) h none).trans (groupSwitch_split_other x h)

theorem departed_weltOrder (x : Warp) (sp j : Nat) (e : Welt) : (x.departed sp j e).weltOrder = x.weltOrder :=
  (congrArg Warp.weltOrder (departed_frame x sp j e) :)

/-- The first of a record's two arrives, where the record is on the core. -/
theorem doArrive_first {s : State} {w sp j rp d : Nat} {x : Warp} {t : Split} {rcv up : Option Nat} {m : Mask}
    (hw : s.warps[w]? = some x) (hj : t.join = some j) (hrec : x.welt[j]? = some (.join rp rcv up d false m)) (hc : OnCore s x j) :
    doArrive s w sp x t = (s.withWarp w (x.departed sp j (.join rp rcv up d true (m ||| t.entry))), [.fill w]) := by
  have switched : OnCore (s.withWarp w (x.groupSwitch sp)) (x.groupSwitch sp) j := hc.congr (by simp) (by simp) _ _
  have entry : (x.groupSwitch sp).welt.getD j .free = .join rp rcv up d false m := by
    rw [groupSwitch_welt, List.getD_eq_getElem?_getD, hrec]; rfl
  unfold doArrive
  simp only [hj, mapWarp_withWarp hw, weltGet_onCore (withWarp_get hw _) switched, entry, Bool.not_false, if_true]
  rw [mapWarp_withWarp_same hw]
  refine congrArg (·, _) ((weltPut_onCore (withWarp_get hw _) (hc.congr (by simp) (by simp) w _) _).trans ?_)
  rw [withWarp_withWarp]
  simp only [setSplit_welt, groupSwitch_welt]
  rfl

/-- A split that goes on for both of a join record. -/
def Split.joined (t : Split) (rp : Nat) (rcv up : Option Nat) (d : Nat) (m : Mask) : Split :=
  { t.switched with pc := rp, entry := m ||| t.entry, em := m ||| t.entry, rcv := rcv, join := up, depth := d, xp := none, park := .no
                    held := none }

/-- The second goes on for both. -/
theorem doArrive_second {s : State} {w sp j rp d : Nat} {x : Warp} {t : Split} {rcv up : Option Nat} {m : Mask}
    (hw : s.warps[w]? = some x) (ht : x.split? sp = some t) (hj : t.join = some j)
    (hrec : x.welt[j]? = some (.join rp rcv up d true m)) (hc : OnCore s x j) :
    ∃ y, doArrive s w sp x t = (s.withWarp w y, [.settle w sp]) ∧ y.split? sp = some (t.joined rp rcv up d m) ∧
      y.split? (otherSlot sp) = x.split? (otherSlot sp) ∧ y.welt = x.welt.set j .free ∧ y.live = x.live ∧
      y.weltOrder = x.weltOrder := by
  have hsp := split?_some ht
  have switched : OnCore (s.withWarp w (x.groupSwitch sp)) (x.groupSwitch sp) j := hc.congr (by simp) (by simp) _ _
  have entry : (x.groupSwitch sp).welt.getD j .free = .join rp rcv up d true m := by
    rw [groupSwitch_welt, List.getD_eq_getElem?_getD, hrec]; rfl
  unfold doArrive
  simp only [hj, mapWarp_withWarp hw, weltGet_onCore (withWarp_get hw _) switched, entry, Bool.not_true, Bool.false_eq_true, if_false]
  rw [mapWarp_withWarp_same hw]
  generalize hg : (x.groupSwitch sp).mapSplit sp (fun t' =>
    { t' with pc := rp, entry := m ||| t.entry, em := m ||| t.entry, rcv := rcv, join := up, depth := d, xp := none, park := .no
              held := none }) = y
  have hy : y.frame = x.frame := by rw [← hg, mapSplit_frame, groupSwitch_frame]
  have welt : y.welt = x.welt := (congrArg Warp.welt hy :)
  have team : y.team = x.team := (congrArg Warp.team hy :)
  have base : y.weltBase = x.weltBase := (congrArg Warp.weltBase hy :)
  refine ⟨{ y with welt := x.welt.set j .free }, congrArg (·, _)
    ((weltPut_onCore (withWarp_get hw y) (hc.congr team base w y) _).trans ?_), ?_, ?_, rfl, (congrArg Warp.live hy :),
    (congrArg Warp.weltOrder hy :)⟩
  · rw [withWarp_withWarp, welt]
  · show y.split? sp = _
    rw [← hg, split?_mapSplit_same, groupSwitch_split_same, ht]
    rfl
  · show y.split? _ = _
    rw [← hg, split?_mapSplit_other _ (otherSlot_ne hsp).1, groupSwitch_split_other _ (otherSlot_ne hsp).1]

/-- Both slots are taken when `sp` and the other one are. -/
theorem bothSlots {y : Warp} {sp : Nat} (hsp : sp = 0 ∨ sp = 1) (hy : (y.split? sp).isSome = true)
    (ho : (y.split? (otherSlot sp)).isSome = true) : y.split0.isSome = true ∧ y.split1.isSome = true := by
  obtain rfl | rfl := hsp
  · exact ⟨hy, ho⟩
  · exact ⟨ho, hy⟩

/-- A first arrival whose slot no suspended split takes. -/
theorem settle_first_alone {s : State} {w sp j rp d : Nat} {x : Warp} {t : Split} {rcv up : Option Nat} {m : Mask}
    (hw : s.warps[w]? = some x) (ht : x.split? sp = some t) (hr : reached x t = true) (hf : ∀ f, t.park ≠ .fail f)
    (hj : t.join = some j) (hrec : x.welt[j]? = some (.join rp rcv up d false m)) (hc : OnCore s x j) (horder : x.weltOrder = []) :
    settle s w sp = s.withWarp w (x.departed sp j (.join rp rcv up d true (m ||| t.entry))) := by
  rw [settle_arrives hw ht hr hf, doArrive_first hw hj hrec hc,
    runTasks_fill (doFill_noSplit (withWarp_get hw _) ((departed_weltOrder ..).trans horder)) (by decide)]
  exact runTasks_nil ..

/-- A first arrival whose slot takes the split suspended longest, which does not arrive in its turn. -/
theorem settle_first_fills {s : State} {w sp j k rp d : Nat} {x : Warp} {t v : Split} {rest : List Nat} {rcv up : Option Nat} {m : Mask}
    (hw : s.warps[w]? = some x) (ht : x.split? sp = some t) (hr : reached x t = true) (hf : ∀ f, t.park ≠ .fail f)
    (ho : (x.split? (otherSlot sp)).isSome = true) (hj : t.join = some j) (hrec : x.welt[j]? = some (.join rp rcv up d false m))
    (hc : OnCore s x j) (horder : x.weltOrder = k :: rest) (hv : x.welt[k]? = some (.split v)) (hk : OnCore s x k)
    (hvr : v.rcv ≠ some v.pc) (hve : v.entry ≠ 0#32) (hvf : ∀ f, v.park ≠ .fail f) :
    settle s w sp =
      s.withWarp w ((x.departed sp j (.join rp rcv up d true (m ||| t.entry))).refilled sp k v rest s.clk.ns) := by
  have hsp := split?_some ht
  obtain ⟨hne, -⟩ := otherSlot_ne hsp
  obtain ⟨hlives, hsup, -, -⟩ := reached_iff.1 hr
  have hjk : j ≠ k := by
    rintro rfl
    rw [hrec] at hv
    cases hv
  rw [settle_arrives hw ht hr hf, doArrive_first hw hj hrec hc]
  generalize hy : x.departed sp j (.join rp rcv up d true (m ||| t.entry)) = y
  have frame : ({ y with welt := [] } : Warp).frame = ({ x with welt := [] } : Warp).frame := hy ▸ departed_frame ..
  have other : y.split? (otherSlot sp) = x.split? (otherSlot sp) := hy ▸ departed_split_other x hne ..
  have entry : y.welt[k]? = some (.split v) := by
    rw [← hy]
    exact (List.getElem?_set_ne hjk).trans hv
  have fills := doFill_onCore (withWarp_get hw y) hsp (hy ▸ departed_split_same x hsp ..) (other ▸ ho)
    ((congrArg Warp.sup frame :).trans hsup) ((congrArg Warp.lives frame :).trans hlives)
    ((congrArg Warp.weltOrder frame :).trans horder) entry (hk.congr (congrArg Warp.team frame :) (congrArg Warp.weltBase frame :) w y)
  rw [runTasks_fill fills (by decide), withWarp_withWarp, withWarp_clk, List.nil_append]
  have seat : (y.refilled sp k v rest s.clk.ns).split? sp = some { v with since := s.clk.ns } := refilled_split_same y hsp ..
  have stays := doSettle_stays (withWarp_get hw (y.refilled sp k v rest s.clk.ns)) (sp := sp) fun u hu => by
    rw [seat] at hu
    cases hu
    exact ⟨hvf, not_reached hvr hve⟩
  have slots := bothSlots (y := y.refilled sp k v rest s.clk.ns) hsp (by rw [seat]; rfl)
    (by rw [refilled_split_other y hne, other]; exact ho)
  rw [runTasks_settle stays (by decide), List.append_nil,
    runTasks_fill (doFill_noSlot (withWarp_get hw _) slots.1 slots.2) (by decide)]
  exact runTasks_nil ..

/-- A second arrival that goes on away from a join of its own. -/
theorem settle_second {s : State} {w sp j rp d : Nat} {x : Warp} {t : Split} {rcv up : Option Nat} {m : Mask}
    (hw : s.warps[w]? = some x) (ht : x.split? sp = some t) (hr : reached x t = true) (hf : ∀ f, t.park ≠ .fail f)
    (hj : t.join = some j) (hrec : x.welt[j]? = some (.join rp rcv up d true m)) (hc : OnCore s x j) (hrcv : rcv ≠ some rp)
    (hm : m ||| t.entry ≠ 0#32) :
    ∃ y, settle s w sp = s.withWarp w y ∧ y.split? sp = some (t.joined rp rcv up d m) ∧
      y.split? (otherSlot sp) = x.split? (otherSlot sp) ∧ y.welt = x.welt.set j .free ∧ y.live = x.live ∧
      y.weltOrder = x.weltOrder := by
  obtain ⟨y, harrive, hy, rest⟩ := doArrive_second hw ht hj hrec hc
  refine ⟨y, ?_, hy, rest⟩
  have stays := doSettle_stays (withWarp_get hw y) (sp := sp) fun u hu => by
    rw [hy] at hu
    cases hu
    exact ⟨nofun, not_reached hrcv hm⟩
  rw [settle_arrives hw ht hr hf, harrive, runTasks_settle stays (by decide)]
  exact runTasks_nil ..

/-- A split that has lost every lane outside any divergence leaves its slot. -/
theorem settle_empty {s : State} {w sp : Nat} {x : Warp} {t : Split} (hw : s.warps[w]? = some x) (ht : x.split? sp = some t)
    (hr : reached x t = true) (hf : ∀ f, t.park ≠ .fail f) (hj : t.join = none) (horder : x.weltOrder = []) :
    settle s w sp = s.withWarp w ((x.groupSwitch sp).setSplit sp none) := by
  have leaves : doArrive s w sp x t = (s.withWarp w ((x.groupSwitch sp).setSplit sp none), [.fill w]) := by
    simp only [doArrive, hj, mapWarp_withWarp hw, mapWarp_withWarp_same hw]
  have order : ((x.groupSwitch sp).setSplit sp none).weltOrder = [] := by simp [horder]
  rw [settle_arrives hw ht hr hf, leaves, runTasks_fill (doFill_noSplit (withWarp_get hw _) order) (by decide)]
  exact runTasks_nil ..

/-- Settles O12: no arrival where R38 asks for none, then the first and the second of a record's two, then a split without a record. -/
theorem arrivalsAndMerges : Obligations.ArrivalsAndMerges := by
  unfold Obligations.ArrivalsAndMerges
  intro s w sp x t hw ht
  dsimp only
  refine ⟨fun h => settle_stays fun c hc => ?_, fun ⟨hlate, harr⟩ hf hsup hlives ho j rp rcv up d arr m hj hrec hc => ?_,
    fun hlate hentry hf hsup hlives _ hj horder => ?_⟩
  · rw [issOf_some hw ht] at hc
    cases hc
    refine Bool.eq_false_iff.2 fun hr => ?_
    obtain ⟨hlives, hsup, hlate, harr⟩ := reached_iff.1 hr
    rcases h with h | h | h
    · exact h ⟨hlate, harr⟩
    · exact Bool.false_ne_true (hsup.symm.trans h)
    · exact Bool.false_ne_true (h.symm.trans hlives)
  · have hr := reached_iff.2 ⟨hlives, hsup, hlate, harr⟩
    refine ⟨fun harr horder => ?_, fun harr k rest v horder hv hk hvr hve hvf => ?_, fun harr hrcv hm => ?_⟩
    · subst harr
      exact settle_first_alone hw ht hr hf hj hrec hc horder
    · subst harr
      rw [settle_first_fills hw ht hr hf ho hj hrec hc horder hv hk hvr hve hvf]
      obtain rfl | rfl := split?_some ht <;> rfl
    · subst harr
      obtain ⟨y, hsettle, hy, hother, hwelt, hlive, hworder⟩ := settle_second hw ht hr hf hj hrec hc hrcv hm
      exact ⟨y, _, hsettle, hy, rfl, rfl, rfl, rfl, rfl, rfl, hwelt, hother, hlive, hworder⟩
  · exact settle_empty hw ht (reached_iff.2 ⟨hlives, hsup, hlate, .inr hentry⟩) hf hj horder

end Sys2Proof.Machine
end

section
/-!
The division of a split by BRD (spec 01 R37, R39, R41, R48; 06 R157).
-/

namespace Sys2Proof.Machine

/-! ## Free entries -/

/-- Once the lowest free entry is taken the others are free still. -/
theorem weltFree_taken {x y : Warp} {j : Nat} {rest : List Nat} {e : Welt} (h : weltFree x = j :: rest) (he : (e == .free) = false)
    (hy : y.welt = x.welt.set j e) : weltFree y = rest := by
  have nodup : (j :: rest).Nodup := h ▸ List.nodup_range.filter _
  have still : weltFree y = (weltFree x).filter fun i => i != j := by
    unfold weltFree
    rw [List.filter_filter, hy, List.length_set]
    refine List.filter_congr fun i hi => ?_
    by_cases hij : i = j
    · subst hij
      simp [List.getD_eq_getElem?_getD, List.getElem?_set_self (List.mem_range.1 hi), he]
    · simp [List.getD_eq_getElem?_getD, List.getElem?_set_ne (Ne.symm hij), hij]
  rw [still, h, List.filter_cons]
  simp only [bne_self_eq_false, Bool.false_eq_true, if_false]
  refine List.filter_eq_self.2 fun i hi => ?_
  have hij : i ≠ j := fun hij => (List.nodup_cons.1 nodup).1 (hij ▸ hi)
  simpa using hij

/-! ## The children -/

/-- What the two children of a division have in common (R37). -/
def Iss.child (c : Iss) (ns pc reconv j : Nat) : Split :=
  { (c.split.after pc Latch.empty []).switched with rcv := some reconv, join := some j, depth := c.split.depth + 1, since := ns }

/-- The child that takes the branch. -/
def Iss.takenChild (c : Iss) (ns pc reconv j : Nat) (t : Mask) : Split := { c.child ns pc reconv j with entry := t, em := t }

/-- The child that falls through. -/
def Iss.otherChild (c : Iss) (ns pc reconv j : Nat) (t : Mask) : Split :=
  { c.child ns pc reconv j with pc := (c.split.pc + 4) % 2 ^ 64, entry := c.split.entry &&& ~~~t, em := c.split.em &&& ~~~t }

/-- The warp at a division, its taken child in its slot. -/
def Iss.branched (c : Iss) (ns pc reconv j : Nat) (t : Mask) : Warp :=
  ((c.warp.retire c.sp pc Latch.empty [] ns).groupSwitch c.sp).setSplit c.sp (some (c.takenChild ns pc reconv j t))

theorem branched_frame (c : Iss) (ns pc reconv j : Nat) (t : Mask) : (c.branched ns pc reconv j t).uncounted = c.warp.uncounted :=
  (congrArg (fun y : Warp => { y with retired := 0, issued := 0, lastRetire := 0 })
    ((setSplit_frame _ c.sp _).trans (groupSwitch_frame (c.warp.retire c.sp pc Latch.empty [] ns) c.sp)) :).trans
    (retire_frame c.warp c.sp pc Latch.empty [] ns)

theorem branched_split_other (c : Iss) {q : Nat} (h : q ≠ c.sp) (ns pc reconv j : Nat) (t : Mask) :
    (c.branched ns pc reconv j t).split? q = c.warp.split? q :=
  (split?_setSplit_other _ h _).trans ((groupSwitch_split_other _ h).trans (retire_split_other _ _ _ _ _ h))

/-- The record a division writes. -/
def Iss.joinRecord (c : Iss) (reconv : Nat) : Welt := .join reconv c.split.rcv c.split.join c.split.depth false 0#32

/-- A division, by what stands in the other slot. -/
theorem divide_eq {c : Iss} (h : c.warp.split? c.sp = some c.split) (s : State) (pc reconv : Nat) (t : Mask) :
    c.divide s pc reconv t =
      let j := (weltFree c.warp).headD 0
      let o := otherSlot c.sp
      let ft := c.otherChild s.clk.ns pc reconv j t
      let s1 := weltPut (s.mapWarp c.w fun _ => c.branched s.clk.ns pc reconv j t) c.w j (c.joinRecord reconv)
      State.run (match c.warp.split? o with
        | none => s1.mapWarp c.w fun x => x.setSplit o (some ft)
        | some other =>
          if other.depth ≤ c.split.depth + 1 then (suspendSplit s1 c.w o).mapWarp c.w fun x => x.setSplit o (some ft)
          else
            let i := (weltFree (s1.warps.getD c.w Warp.blank)).headD 0
            weltPut (s1.mapWarp c.w fun x => { x with weltOrder := x.weltOrder ++ [i] }) c.w i (.split ft))
        [.settle c.w c.sp, .settle c.w o] := by
  have seat : ((c.warp.retire c.sp pc Latch.empty [] s.clk.ns).groupSwitch c.sp).split? c.sp =
      some (c.split.after pc Latch.empty []).switched := by
    rw [groupSwitch_split_same, retire_split_same, h]
    rfl
  unfold Iss.divide
  dsimp only
  rw [seat]
  rfl

/-- A child that does not stand at its reconvergence address does not arrive. -/
theorem child_stays {x : Warp} {u : Split} {r : Nat} (hpark : u.park = .no) (hr : u.rcv = some r) (hpc : u.pc ≠ r)
    (he : u.entry ≠ 0#32) : (∀ f, u.park ≠ .fail f) ∧ reached x u = false :=
  ⟨fun f hf => (by rw [hpark] at hf; cases hf), not_reached (by rw [hr]; exact fun heq => hpc (Option.some.inj heq).symm) he⟩

/-- Where neither occupant arrives or has a trap to take, the two settles leave the state as it is. -/
theorem run_settles {s : State} {w p q : Nat} {x : Warp} (hw : s.warps[w]? = some x)
    (hp : ∀ t, x.split? p = some t → (∀ f, t.park ≠ .fail f) ∧ reached x t = false)
    (hq : ∀ t, x.split? q = some t → (∀ f, t.park ≠ .fail f) ∧ reached x t = false) :
    s.run [.settle w p, .settle w q] = s := by
  unfold State.run
  rw [runTasks_settle (doSettle_stays hw hp) (by decide), List.append_nil, runTasks_settle (doSettle_stays hw hq) (by decide)]
  exact runTasks_nil ..

/-! ## The Welt written (R39, R41) -/

/-- The memory that holds entry `i` of a warp's Welt takes the entry `e`; where it is not mapped only a malformed table entry is
reported (log 14). -/
def weltStore (s u : State) (x : Warp) (i : Nat) (e : Welt) : State :=
  if weltMapped s x i then storeRun u (clusterOf x.core) (s.ctxOf x) (weltAddr x i) (wordsBytes (weltWords e))
  else postMalformed u (s.ctxOf x) [weltAddr x i] (whoIs s x 1)

theorem weltStore_warps (s u : State) (x : Warp) (i : Nat) (e : Welt) : (weltStore s u x i e).warps = u.warps := by
  unfold weltStore
  split
  · exact (storeBytes_only ..).warps
  · exact (postMalformed_only ..).warps

/-- An entry of a warp that stands where `x` stood is written on the core and to the memory of `x`'s entry. -/
theorem weltPut_store {s : State} {w : Nat} {x y : Warp} (hw : s.warps[w]? = some x) (hy : y.uncounted = x.uncounted) (i : Nat) (e : Welt) :
    weltPut (s.withWarp w y) w i e = weltStore s (s.withWarp w { y with welt := y.welt.set i e }) x i e := by
  have team : y.team = x.team := (congrArg Warp.team hy :)
  have base : y.weltBase = x.weltBase := (congrArg Warp.weltBase hy :)
  have core : y.core = x.core := (congrArg Warp.core hy :)
  have wid : y.wid = x.wid := (congrArg Warp.wid hy :)
  have addr : weltAddr y i = weltAddr x i := by simp only [weltAddr, base]
  have ctx : ∀ z, (s.withWarp w z).ctxOf y = s.ctxOf x := fun z => by
    show (s.launch (s.team y.team).launch).ctx = (s.launch (s.team x.team).launch).ctx
    rw [team]
  have who : ∀ z, whoIs (s.withWarp w z) y 1 = whoIs s x 1 := fun z => by
    unfold whoIs
    rw [ctx, core, wid, team]
    rfl
  have mapped : ∀ z, weltMapped (s.withWarp w z) y i = weltMapped s x i := fun z => by
    unfold weltMapped
    rw [ctx, addr]
    rfl
  unfold weltPut weltStore
  rw [withWarp_get hw]
  dsimp only
  rw [mapWarp_withWarp_same hw, mapped, ctx, addr, core, who]

/-- The eight words of a fresh join record (R41). -/
theorem join_words (recv : Nat) (rcv join : Option Nat) (d : Nat) : weltWords (.join recv rcv join d false 0#32) =
    [BitVec.ofNat 32 (2 + 4 * d), (match join with
        | some k => BitVec.ofNat 32 k
        | none => 0xFFFF#32), BitVec.ofNat 32 recv, BitVec.ofNat 32 (recv % 2 ^ 56 / 2 ^ 32),
      BitVec.ofNat 32 (match rcv with | some a => a | none => 2 ^ 56 - 1),
      BitVec.ofNat 32 ((match rcv with | some a => a | none => 2 ^ 56 - 1) % 2 ^ 56 / 2 ^ 32), 0#32, 0#32] := by
  cases rcv <;> cases join <;> rfl

/-- The occupant of a slot is suspended to an entry on the core. -/
theorem suspendSplit_onCore {s : State} {w sp k : Nat} {ks : List Nat} {x : Warp} {e : Split} (hw : s.warps[w]? = some x)
    (he : x.split? sp = some e) (hfree : weltFree x = k :: ks) (hc : OnCore s x k) :
    suspendSplit s w sp = s.withWarp w { (x.groupSwitch sp).setSplit sp none with
      weltOrder := x.weltOrder ++ [k], welt := x.welt.set k (.split e.switched) } := by
  have seat : (x.groupSwitch sp).split? sp = some e.switched := by rw [groupSwitch_split_same, he]; rfl
  have free : weltFree (x.groupSwitch sp) = k :: ks := by
    rw [← hfree]
    unfold weltFree
    rw [groupSwitch_welt]
  unfold suspendSplit
  simp only [hw, seat, free, mapWarp_withWarp hw]
  refine (weltPut_onCore (withWarp_get hw _) (hc.congr (by simp) (by simp) w _) _).trans ?_
  rw [withWarp_withWarp, groupSwitch_weltOrder]
  simp only [setSplit_welt, groupSwitch_welt]

/-! ## The three divisions -/

section
variable {s : State} {c : Iss} {pc reconv j k : Nat} {rest ks : List Nat} {t : Mask} {e : Split}

/-- The warp at a division, with its join record. -/
def Iss.recorded (c : Iss) (ns pc reconv j : Nat) (t : Mask) : Warp :=
  { c.branched ns pc reconv j t with welt := c.warp.welt.set j (c.joinRecord reconv) }

theorem recorded_split_same (ns : Nat) (hsp : c.sp = 0 ∨ c.sp = 1) :
    (c.recorded ns pc reconv j t).split? c.sp = some (c.takenChild ns pc reconv j t) := split?_setSplit_same _ hsp _

theorem recorded_split_other (ns : Nat) {q : Nat} (h : q ≠ c.sp) : (c.recorded ns pc reconv j t).split? q = c.warp.split? q :=
  branched_split_other c h ns pc reconv j t

theorem recorded_frame (ns : Nat) : ({ c.recorded ns pc reconv j t with welt := [] } : Warp).uncounted =
    ({ c.warp with welt := [] } : Warp).uncounted :=
  (congrArg (fun y : Warp => { y with welt := [] }) (branched_frame c ns pc reconv j t) :)

/-- The split away from its reconvergence address after a division, in either slot. -/
theorem takenChild_stays {x : Warp} (ns : Nat) (hpc : pc % 2 ^ 64 ≠ reconv) (ht : t ≠ 0#32) :
    (∀ f, (c.takenChild ns pc reconv j t).park ≠ .fail f) ∧ reached x (c.takenChild ns pc reconv j t) = false := by
  obtain ⟨hp, -, -, -, -, -, -, hpark, -, -⟩ := after_fields c.split pc Latch.empty []
  exact child_stays hpark rfl (by rw [show (c.takenChild ns pc reconv j t).pc = pc % 2 ^ 64 from hp]; exact hpc) ht

theorem otherChild_stays {x : Warp} (ns : Nat) (hpc : (c.split.pc + 4) % 2 ^ 64 ≠ reconv) (ht : c.split.entry &&& ~~~t ≠ 0#32) :
    (∀ f, (c.otherChild ns pc reconv j t).park ≠ .fail f) ∧ reached x (c.otherChild ns pc reconv j t) = false := by
  obtain ⟨-, -, -, -, -, -, -, hpark, -, -⟩ := after_fields c.split pc Latch.empty []
  exact child_stays hpark rfl hpc ht

/-- With both slots taken the state after the record is written, where the Welt is on the core. -/
theorem record_onCore (hw : s.warps[c.w]? = some c.warp) (hfree : weltFree c.warp = j :: k :: ks) (hj : OnCore s c.warp j)
    (hk : OnCore s c.warp k) :
    weltPut (s.mapWarp c.w fun _ => c.branched s.clk.ns pc reconv j t) c.w j (c.joinRecord reconv) =
      s.withWarp c.w (c.recorded s.clk.ns pc reconv j t) ∧
    weltFree (c.recorded s.clk.ns pc reconv j t) = k :: ks ∧
    OnCore (s.withWarp c.w (c.recorded s.clk.ns pc reconv j t)) (c.recorded s.clk.ns pc reconv j t) k := by
  have frame := branched_frame c s.clk.ns pc reconv j t
  have team : (c.branched s.clk.ns pc reconv j t).team = c.warp.team := (congrArg Warp.team frame :)
  have base : (c.branched s.clk.ns pc reconv j t).weltBase = c.warp.weltBase := (congrArg Warp.weltBase frame :)
  have welt : (c.branched s.clk.ns pc reconv j t).welt = c.warp.welt := (congrArg Warp.welt frame :)
  refine ⟨?_, weltFree_taken hfree rfl rfl, hk.congr team base _ _⟩
  rw [mapWarp_withWarp hw, weltPut_onCore (withWarp_get hw _) (hj.congr team base _ _), withWarp_withWarp, welt]
  rfl

variable (hw : s.warps[c.w]? = some c.warp) (hs : c.warp.split? c.sp = some c.split) (hsp : c.sp = 0 ∨ c.sp = 1)
  (hfree : weltFree c.warp = j :: rest) (htaken : pc % 2 ^ 64 ≠ reconv) (ht : t ≠ 0#32) (hnext : (c.split.pc + 4) % 2 ^ 64 ≠ reconv)
  (hleft : c.split.entry &&& ~~~t ≠ 0#32)

include hw hs hsp hfree htaken ht hnext hleft

/-- With the other slot free both children take a slot. -/
theorem divide_free (ho : c.warp.split? (otherSlot c.sp) = none) : c.divide s pc reconv t =
    (weltStore s (s.withWarp c.w (c.recorded s.clk.ns pc reconv j t)) c.warp j (c.joinRecord reconv)).withWarp c.w
      ((c.recorded s.clk.ns pc reconv j t).setSplit (otherSlot c.sp) (some (c.otherChild s.clk.ns pc reconv j t))) := by
  obtain ⟨hne, hslot⟩ := otherSlot_ne hsp
  have welt : (c.branched s.clk.ns pc reconv j t).welt = c.warp.welt := (congrArg Warp.welt (branched_frame ..) :)
  have put : weltPut (s.mapWarp c.w fun _ => c.branched s.clk.ns pc reconv j t) c.w j (c.joinRecord reconv) =
      weltStore s (s.withWarp c.w (c.recorded s.clk.ns pc reconv j t)) c.warp j (c.joinRecord reconv) := by
    rw [mapWarp_withWarp hw, weltPut_store hw (branched_frame ..), welt]
    rfl
  have stored : (weltStore s (s.withWarp c.w (c.recorded s.clk.ns pc reconv j t)) c.warp j (c.joinRecord reconv)).warps[c.w]? =
      some (c.recorded s.clk.ns pc reconv j t) := by
    rw [weltStore_warps]
    exact withWarp_get hw _
  rw [divide_eq hs]
  simp only [hfree, List.headD_cons, ho]
  rw [put, mapWarp_withWarp stored]
  refine run_settles (withWarp_get stored _) (fun u hu => ?_) (fun u hu => ?_)
  · rw [split?_setSplit_other _ (Ne.symm hne), recorded_split_same _ hsp] at hu
    cases hu
    exact takenChild_stays _ htaken ht
  · rw [split?_setSplit_same _ hslot] at hu
    cases hu
    exact otherChild_stays _ hnext hleft

variable (hrest : rest = k :: ks) (ho : c.warp.split? (otherSlot c.sp) = some e) (hj : OnCore s c.warp j) (hk : OnCore s c.warp k)
include hrest ho hj hk

/-- An occupant that is not deeper than the children is suspended. -/
theorem divide_suspends (hdepth : e.depth ≤ c.split.depth + 1) : c.divide s pc reconv t = s.withWarp c.w
    (({ ((c.recorded s.clk.ns pc reconv j t).groupSwitch (otherSlot c.sp)).setSplit (otherSlot c.sp) none with
        weltOrder := c.warp.weltOrder ++ [k]
        welt := (c.warp.welt.set j (c.joinRecord reconv)).set k (.split e.switched) } : Warp).setSplit (otherSlot c.sp)
      (some (c.otherChild s.clk.ns pc reconv j t))) := by
  obtain ⟨hne, hslot⟩ := otherSlot_ne hsp
  obtain ⟨put, free, core⟩ := record_onCore (pc := pc) (reconv := reconv) (t := t) hw (hrest ▸ hfree) hj hk
  have order : (c.recorded s.clk.ns pc reconv j t).weltOrder = c.warp.weltOrder := (congrArg Warp.weltOrder (recorded_frame s.clk.ns) :)
  rw [divide_eq hs]
  simp only [hfree, List.headD_cons, ho, hdepth, if_true]
  rw [put,
    suspendSplit_onCore (withWarp_get hw _) ((recorded_split_other _ hne).trans ho) free core, withWarp_withWarp,
    mapWarp_withWarp_same hw, order]
  refine run_settles (withWarp_get hw _) (fun u hu => ?_) (fun u hu => ?_)
  · rw [split?_setSplit_other _ (Ne.symm hne)] at hu
    have seat := (split?_setSplit_other ((c.recorded s.clk.ns pc reconv j t).groupSwitch (otherSlot c.sp)) (Ne.symm hne) none).trans
      ((groupSwitch_split_other _ (Ne.symm hne)).trans (recorded_split_same s.clk.ns hsp))
    cases seat.symm.trans hu
    exact takenChild_stays _ htaken ht
  · rw [split?_setSplit_same _ hslot] at hu
    cases hu
    exact otherChild_stays _ hnext hleft

omit hnext hleft in
/-- Before a deeper occupant the child that falls through is suspended. -/
theorem divide_yields (hdepth : ¬ e.depth ≤ c.split.depth + 1) (hrcv : e.rcv ≠ some e.pc) (he : e.entry ≠ 0#32)
    (hpark : ∀ f, e.park ≠ .fail f) : c.divide s pc reconv t = s.withWarp c.w
    { c.recorded s.clk.ns pc reconv j t with
      weltOrder := c.warp.weltOrder ++ [k]
      welt := (c.warp.welt.set j (c.joinRecord reconv)).set k (.split (c.otherChild s.clk.ns pc reconv j t)) } := by
  obtain ⟨hne, hslot⟩ := otherSlot_ne hsp
  obtain ⟨put, free, core⟩ := record_onCore (pc := pc) (reconv := reconv) (t := t) hw (hrest ▸ hfree) hj hk
  have order : (c.recorded s.clk.ns pc reconv j t).weltOrder = c.warp.weltOrder := (congrArg Warp.weltOrder (recorded_frame s.clk.ns) :)
  have team : (c.recorded s.clk.ns pc reconv j t).team = c.warp.team := (congrArg Warp.team (recorded_frame s.clk.ns) :)
  have base : (c.recorded s.clk.ns pc reconv j t).weltBase = c.warp.weltBase := (congrArg Warp.weltBase (recorded_frame s.clk.ns) :)
  have stands : (s.withWarp c.w (c.recorded s.clk.ns pc reconv j t)).warps.getD c.w Warp.blank = c.recorded s.clk.ns pc reconv j t := by
    rw [List.getD_eq_getElem?_getD, withWarp_get hw]
    rfl
  rw [divide_eq hs]
  simp only [hfree, List.headD_cons, ho, hdepth, if_false]
  rw [put, stands, free,
    mapWarp_withWarp_same hw, List.headD_cons, order]
  rw [weltPut_onCore (withWarp_get hw _)
    (hk.congr (y := { c.recorded s.clk.ns pc reconv j t with weltOrder := c.warp.weltOrder ++ [k] }) team base _ _), withWarp_withWarp]
  refine run_settles (withWarp_get hw _) (fun u hu => ?_) (fun u hu => ?_)
  · cases (recorded_split_same s.clk.ns hsp).symm.trans hu
    exact takenChild_stays _ htaken ht
  · cases ((recorded_split_other s.clk.ns hne).trans ho).symm.trans hu
    exact ⟨hpark, not_reached hrcv he⟩

end

/-- The words of R37's children. -/
theorem takenChild_fields (c : Iss) (ns pc reconv j : Nat) (t : Mask) : (c.takenChild ns pc reconv j t).pc = pc % 2 ^ 64 ∧
    (c.takenChild ns pc reconv j t).em = t ∧ (c.takenChild ns pc reconv j t).entry = t ∧
    (c.takenChild ns pc reconv j t).rcv = some reconv ∧ (c.takenChild ns pc reconv j t).join = some j ∧
    (c.takenChild ns pc reconv j t).depth = c.split.depth + 1 :=
  ⟨(after_fields c.split pc Latch.empty []).1, rfl, rfl, rfl, rfl, rfl⟩

theorem wordsFrom_mod (pc : Nat) (n : Int) : wordsFrom pc n % 2 ^ 64 = wordsFrom pc n := by
  refine Nat.mod_eq_of_lt ?_
  unfold wordsFrom modPow
  omega

/-- What a dividing BRD comes to outside supervisor mode and the Cobbler: a trap or the division. -/
theorem execBrd_divides {s : State} {c : Iss} {p tgt rcv : Nat} {n : Bool}
    (hi : Issues s c { ext := .bits 21, cob := true, valued := true })
    (hd : c.divides p n = true) (hu : c.warp.sup = false) (hc : c.warp.cobbler = false) :
    (c.rcvDist rcv = 0 → execBrd p n tgt rcv s = traps s c { cause := 0x02 }) ∧
    (c.rcvDist rcv ≠ 0 → c.split.depth = 255 ∨ (weltFree c.warp).length < c.weltNeed →
      execBrd p n tgt rcv s = traps s c { cause := 0x13 }) ∧
    (c.rcvDist rcv ≠ 0 → ¬ (c.split.depth = 255 ∨ (weltFree c.warp).length < c.weltNeed) → execBrd p n tgt rcv s =
      .next (unlessBlocked s c (c.divide s (c.brdTarget tgt) (wordsFrom c.split.pc (c.rcvDist rcv)) (c.taken p n)))) := by
  obtain ⟨some_, notAll⟩ : c.taken p n ≠ 0#32 ∧ c.taken p n ≠ c.em := by simpa [Iss.divides] using hd
  have lanes : c.em ≠ 0#32 := fun h0 => some_ (by simp [Iss.taken, h0])
  unfold execBrd
  simp only [hi.1, hu, hc, Bool.or_self, Bool.and_false, Bool.false_eq_true, if_false]
  refine ⟨fun hr => execute_error hi ?_, fun hr hroom => execute_error hi ?_, fun hr hroom => execute_ok hi ?_⟩
  · simp only [hr, if_true]
    rfl
  · simp only [if_neg hr, if_neg lanes, if_neg some_, if_neg notAll, if_pos hroom]
    rfl
  · simp only [if_neg hr, if_neg lanes, if_neg some_, if_neg notAll, if_neg hroom]

theorem otherChild_fields (c : Iss) (ns pc reconv j : Nat) (t : Mask) : (c.otherChild ns pc reconv j t).pc = (c.split.pc + 4) % 2 ^ 64 ∧
    (c.otherChild ns pc reconv j t).em = c.em &&& ~~~t ∧ (c.otherChild ns pc reconv j t).entry = c.split.entry &&& ~~~t ∧
    (c.otherChild ns pc reconv j t).rcv = some reconv ∧ (c.otherChild ns pc reconv j t).join = some j ∧
    (c.otherChild ns pc reconv j t).depth = c.split.depth + 1 := ⟨rfl, rfl, rfl, rfl, rfl, rfl⟩

theorem recorded_rest (c : Iss) (ns pc reconv j : Nat) (t : Mask) : (c.recorded ns pc reconv j t).live = c.warp.live ∧
    (c.recorded ns pc reconv j t).preds = c.warp.preds :=
  ⟨(congrArg Warp.live (recorded_frame (c := c) (t := t) ns) :), (congrArg Warp.preds (recorded_frame (c := c) (t := t) ns) :)⟩

/-- Settles O11: the traps, then the division by what stands in the other slot. -/
theorem divisionMakesTwoSplits : Obligations.DivisionMakesTwoSplits := by
  unfold Obligations.DivisionMakesTwoSplits
  intro s c p tgt rcv n hi hd
  obtain ⟨-, hw, hs, hsp, -⟩ := issuing_spec hi
  obtain ⟨hne, hslot⟩ := otherSlot_ne hsp
  dsimp only
  refine ⟨fun h => ?_, fun hiss hu hc => ?_⟩
  · have bars : (c.divides p n && (c.warp.sup || c.warp.cobbler)) = true := by simpa [hd] using h
    show execBrd p n tgt rcv s = _
    simp only [execBrd, hi, bars, if_true]
    rfl
  obtain ⟨unplaced, full, divided⟩ := execBrd_divides (tgt := tgt) (rcv := rcv) hiss hd hu hc
  refine ⟨unplaced, full, fun hr hdepth ⟨htaken, hnext, hleft⟩ j rest hfree => ?_⟩
  have ht : c.taken p n ≠ 0#32 := by
    have := hd
    simp only [Iss.divides, Bool.and_eq_true, bne_iff_ne, ne_eq] at this
    exact this.1
  have htgt : c.brdTarget tgt % 2 ^ 64 ≠ wordsFrom c.split.pc (c.rcvDist rcv) := by
    rw [Iss.brdTarget, wordsFrom_mod]
    exact htaken
  have fields := takenChild_fields c s.clk.ns (c.brdTarget tgt) (wordsFrom c.split.pc (c.rcvDist rcv)) j (c.taken p n)
  have others := otherChild_fields c s.clk.ns (c.brdTarget tgt) (wordsFrom c.split.pc (c.rcvDist rcv)) j (c.taken p n)
  generalize hx : c.recorded s.clk.ns (c.brdTarget tgt) (wordsFrom c.split.pc (c.rcvDist rcv)) j (c.taken p n) = x
  have seat : x.split? c.sp = some _ := hx ▸ recorded_split_same s.clk.ns hsp
  have beside : x.split? (otherSlot c.sp) = c.warp.split? (otherSlot c.sp) := hx ▸ recorded_split_other s.clk.ns hne
  obtain ⟨live, preds⟩ : x.live = c.warp.live ∧ x.preds = c.warp.preds := hx ▸ recorded_rest ..
  refine ⟨fun ho => ?_, fun e k ks ho hrest hj hk hrcv he hpark => ?_⟩
  · have room : ¬ (c.split.depth = 255 ∨ (weltFree c.warp).length < c.weltNeed) := by
      simp only [Iss.weltNeed, ho, hfree, List.length_cons, Option.isSome_none, Bool.false_eq_true, if_false]
      omega
    have both := divided hr room
    rw [divide_free hw hs hsp hfree htgt ht hnext hleft ho, hx, weltStore, Iss.joinRecord, join_words] at both
    exact ⟨x, _, both, ⟨⟨_, (split?_setSplit_other x (Ne.symm hne) _).trans seat, fields⟩,
      (setSplit_live ..).trans live, (setSplit_preds ..).trans preds⟩, ⟨_, split?_setSplit_same x hslot _, others⟩,
      (setSplit_welt ..).trans (hx ▸ rfl)⟩
  · have room : ¬ (c.split.depth = 255 ∨ (weltFree c.warp).length < c.weltNeed) := by
      simp only [Iss.weltNeed, ho, hfree, hrest, List.length_cons, Option.isSome_some, if_true]
      omega
    have both := divided hr room
    by_cases deep : e.depth ≤ c.split.depth + 1
    · rw [divide_suspends hw hs hsp hfree htgt ht hnext hleft hrest ho hj hk deep, hx, unlessBlocked_withWarp] at both
      have stays := ((split?_setSplit_other (x.groupSwitch (otherSlot c.sp)) (Ne.symm hne) none).trans
        (groupSwitch_split_other x (Ne.symm hne))).trans seat
      refine ⟨_, both, ⟨⟨_, (split?_setSplit_other _ (Ne.symm hne) _).trans stays, fields⟩, ?_, ?_⟩, setSplit_weltOrder ..,
        fun _ => ⟨⟨_, split?_setSplit_same _ hslot _, others⟩, e.switched, setSplit_welt .., rfl⟩,
        fun h => absurd deep (Nat.not_le.2 h)⟩
      · simp [live]
      · simp [preds]
    · rw [divide_yields hw hs hsp hfree htgt ht hrest ho hj hk deep hrcv he hpark, hx, unlessBlocked_withWarp] at both
      exact ⟨_, both, ⟨⟨_, seat, fields⟩, live, preds⟩, rfl, fun h => absurd h deep,
        fun _ => ⟨beside.trans ho, _, rfl, others⟩⟩

end Sys2Proof.Machine
end

section
/-!
The user special registers as a table (spec 01 R51; 05 R125).
-/

namespace Sys2Proof.Machine

/-! ## The maps of a context -/

theorem mapWord_at (maps : Nat → Nat) (base e : Nat) {k : Nat} (hk : k < 6) :
    mapWord maps base (base + 6 * e + k) = maps e / 2 ^ (32 * k) % 2 ^ 32 := by
  unfold mapWord halfOf
  rw [show (base + 6 * e + k - base) / 6 = e by omega, show (base + 6 * e + k - base) % 6 = k by omega]

/-- A map number lies in one of the four tables. -/
theorem mapSpecial_iff (c : Iss) (s : State) (n v : Nat) : c.mapSpecial s n = some v ↔ (n, v) ∈ mapTable s (s.ctxOf c.warp) := by
  have die : ∀ base, base ≤ n → n < base + 24 → ∃ e k, e < 4 ∧ k < 6 ∧ n = base + 6 * e + k := fun base hl hu =>
    ⟨(n - base) / 6, (n - base) % 6, by omega, by omega, by omega⟩
  simp only [mapTable, List.mem_append, List.mem_flatMap, List.mem_range, List.mem_map, List.mem_cons, List.not_mem_nil, or_false,
    Prod.mk.injEq]
  constructor
  · intro h
    unfold Iss.mapSpecial at h
    dsimp only at h
    split at h
    · cases h
    split at h
    · obtain ⟨e, k, he, hk, rfl⟩ := die 0x40 (by omega) (by omega)
      rw [mapWord_at _ _ _ hk] at h
      exact .inl ⟨e, he, k, hk, .inl ⟨rfl, (Option.some.inj h).symm⟩⟩
    split at h
    · obtain ⟨e, k, he, hk, rfl⟩ := die 0x58 (by omega) (by omega)
      rw [mapWord_at _ _ _ hk] at h
      exact .inl ⟨e, he, k, hk, .inr (.inl ⟨rfl, (Option.some.inj h).symm⟩)⟩
    split at h
    · obtain ⟨e, k, he, hk, rfl⟩ := die 0x70 (by omega) (by omega)
      rw [mapWord_at _ _ _ hk] at h
      exact .inl ⟨e, he, k, hk, .inr (.inr ⟨rfl, (Option.some.inj h).symm⟩)⟩
    split at h
    · cases h
    split at h
    · exact .inr ⟨n - 0x100, by omega, by omega, Option.some.inj h⟩
    · cases h
  · rintro (⟨e, he, k, hk, ⟨rfl, rfl⟩ | ⟨rfl, rfl⟩ | ⟨rfl, rfl⟩⟩ | ⟨i, hi, rfl, rfl⟩)
    · simp only [Iss.mapSpecial, show ¬ 0x40 + 6 * e + k < 0x40 by omega, show 0x40 + 6 * e + k < 0x58 by omega, if_true, if_false,
        mapWord_at _ _ _ hk]
    · simp only [Iss.mapSpecial, show ¬ 0x58 + 6 * e + k < 0x40 by omega, show ¬ 0x58 + 6 * e + k < 0x58 by omega,
        show 0x58 + 6 * e + k < 0x70 by omega, if_true, if_false, mapWord_at _ _ _ hk]
    · simp only [Iss.mapSpecial, show ¬ 0x70 + 6 * e + k < 0x40 by omega, show ¬ 0x70 + 6 * e + k < 0x58 by omega,
        show ¬ 0x70 + 6 * e + k < 0x70 by omega, show 0x70 + 6 * e + k < 0x88 by omega, if_true, if_false, mapWord_at _ _ _ hk]
    · simp only [Iss.mapSpecial, show ¬ 0x100 + i < 0x40 by omega, show ¬ 0x100 + i < 0x58 by omega,
        show ¬ 0x100 + i < 0x70 by omega, show ¬ 0x100 + i < 0x88 by omega, show ¬ 0x100 + i < 0x100 by omega,
        show 0x100 + i < 0x400 by omega, if_true, if_false, Nat.add_sub_cancel_left]
      rfl

/-! ## The table of R51 -/

/-- R51's table of user special registers, with the number and the word of each. -/
def Iss.userTable (c : Iss) (s : State) : List (Nat × Nat) :=
  let x := s.ctx (s.ctxOf c.warp)
  let t := s.team c.warp.team
  let l := s.launchOf c.warp
  let w := c.warp
  [(0x00, (logicalCores x).length), (0x01, indexOf (logicalCores x) w.core), (0x02, indexOf (granted x) c.cluster),
    (0x03, t.tid % max 1 l.tpc), (0x04, l.tpc), (0x05, t.warps), (0x06, l.teams), (0x07, t.tid / max 1 l.tpc), (0x08, t.gidx),
    (0x09, t.grow0), (0x0A, t.grows), (0x0D, w.live.toNat), (0x0E, c.split.entry.toNat), (0x0F, w.allot),
    (0x10, w.winBase), (0x11, w.q), (0x12, w.free), (0x13, x.gen), (0x18, c.sp), (0x19, c.split.depth),
    (0x1E, w.welt.length), (0x1F, (if l.prot then 1 else 0) + if l.restart then 2 else 0)] ++
  twoWords 0x0B l.param ++ twoWords 0x14 s.clk.cycle ++ twoWords 0x16 w.retired ++ twoWords 0x1A w.privBase ++
  twoWords 0x1C w.weltBase ++ twoWords 0x20 (bitsNat (s.core w.core).tagmap) ++ mapTable s (s.ctxOf w)

/-- The two halves of a word of 64 bits under the numbers `a` and `a + 1`. -/
theorem mem_twoWords {n v a x : Nat} : (n, v) ∈ twoWords a x ↔ (n = a ∧ v = halfOf x 0) ∨ (n = a + 1 ∧ v = halfOf x 1) := by
  simp [twoWords, halfOf]

/-- Numbers from 0x22 on are those of the maps. -/
theorem userSpecial_map (c : Iss) (s : State) {n : Nat} (h : 0x22 ≤ n) : c.userSpecial s n = c.mapSpecial s n := by
  obtain ⟨m, rfl⟩ := Nat.exists_eq_add_of_le' h
  rfl

/-- MOVS reads what the table says, and nothing else. -/
theorem userSpecial_iff (c : Iss) (s : State) (n v : Nat) : c.userSpecial s n = some v ↔ (n, v) ∈ c.userTable s := by
  unfold Iss.userTable
  simp only [List.mem_append, mem_twoWords, List.mem_cons, Prod.mk.injEq, List.not_mem_nil, or_false, ← mapSpecial_iff]
  by_cases h : 0x22 ≤ n
  · rw [userSpecial_map c s h]
    exact ⟨.inr, fun hv => hv.elim (fun hv => by omega) id⟩
  · have noMap : c.mapSpecial s n = none := if_pos (by omega)
    rw [noMap]
    have hn : n < 0x22 := Nat.not_le.1 h
    clear noMap h
    interval_cases n <;> simp [Iss.userSpecial, Iss.cluster] <;> exact eq_comm

/-- Settles O22: the number's word by the table, or the trap of a number the table lacks. -/
theorem userSpecials : Obligations.UserSpecials := by
  unfold Obligations.UserSpecials
  intro s c nw d imm v0 hi hop
  have hv : v0 = c.imm imm 18 := by
    obtain ⟨plain, prefixed⟩ := hop
    obtain ⟨plain', prefixed'⟩ := imm_operand c imm 18
    cases hx : c.split.xp with
    | none => rw [plain hx, plain' hx]
    | some x => rw [prefixed x hx, prefixed' x hx]
  subst hv
  refine ⟨fun v hmem => ?_, fun hnone => ?_⟩
  · have read := (userSpecial_iff c s _ v).2 hmem
    exact result_yields hi (fun _ => rfl) (by simp only [read])
  · have unread : c.userSpecial s (c.imm imm 18).toNat = none :=
      Option.eq_none_iff_forall_ne_some.2 fun v hread => hnone v ((userSpecial_iff c s _ v).1 hread)
    exact execute_error hi (by simp only [unread]; rfl)

end Sys2Proof.Machine
end

section
/-!
A step that breaks the vector quota: a load whose data is late counts its slots before its own group switch takes one (spec 01 R22,
R23, R28, R30; log 3).
-/

namespace Sys2Proof.Machine

/-! ## The state before the load -/

/-- `LDS w4, [w8:w9]`, of one lane. -/
def lateLoad : Instr := .lds false .w32 (.one (.win 4)) 4 .z

/-- A pending write-back that makes slot 6 a V register. -/
def pendingWiden : Latch :=
  { res := .u 7#32, val := vec fun l => if l = 0 then 7#32 else 0#32, dst := some (.slot 6), nw := true, em := 1#32, full := false
    lost := false }

/-- A warp with one free vector slot and no V register, about to load lane 0 of register 4, which holds another value. -/
def lateWarp : Warp :=
  { Warp.blank with
    st := .running, allot := 112, regs := (List.replicate 112 (.u 0#32)).set 4 (.u 5#32), xs := List.replicate 4 0#32, live := allLanes
    floor := 1, q := 1, free := 1
    split0 := some { Split.none0 with pc := bootVa, entry := allLanes, em := 1#32, latches := [pendingWiden] } }

/-- The device with this warp alone, its load in memory where the warp stands, and the load's data late. -/
def lateState : State :=
  { State.reset with
    ctxs := [{ Context.reset with st := 1, asid := 0xFFFF, root := 0x10000, pmap := List.replicate 64 2#32, grant := [1, 0, 0, 0] }]
    launches := [{ Launch.none0 with record := bootRecord, st := .dispatched, teams := 1 }]
    crews := [{ Crew.none0 with teams := [0], begun := true, resident := true }]
    teams := [{ Team.none0 with warps := 1, res := .running }]
    warps := [lateWarp]
    clusters := [{ Cluster.reset with banks := ⟨1, some 0⟩ :: List.replicate 31 ⟨0, none⟩ }]
    mem := { State.reset.mem with home := memWrite (bootTables []) bootVa (leBytes (encode lateLoad) 4) }
    sched := { State.reset.sched with issue := some (0, 0), late := true } }

theorem lateState_quota : QuotaInv lateState := by
  intro x hx _
  obtain rfl : x = lateWarp := List.mem_singleton.1 hx
  exact ⟨by decide +kernel, fun _ => ⟨by decide +kernel, by decide +kernel, by decide +kernel, by decide +kernel⟩⟩

/-! ## The state after it -/

/-- A running warp whose V registers, free slots and slots of late loads are more than its quota. -/
def Warp.overdrawn (x : Warp) : Bool :=
  x.st == .running && decide (x.q < x.free + (x.regs.filter Reg.isV).length + (x.splits.map Split.lateSlots).sum)

/-- A step that leaves such a warp in a team that has not ended. -/
def overdraws (o : Host.Outcome State Fault Refusal) : Bool :=
  match o with
  | .next t => t.warps.any fun x => x.overdrawn && (t.team x.team).res != .ended
  | _ => false

theorem overdraws_not_quota {t : State} (h : overdraws (.next t) = true) : ¬ QuotaInv t := by
  intro inv
  obtain ⟨x, hx, hdrawn⟩ := List.any_eq_true.1 h
  simp only [Warp.overdrawn, Bool.and_eq_true, beq_iff_eq, decide_eq_true_eq, bne_iff_ne, ne_eq] at hdrawn
  obtain ⟨⟨running, excess⟩, goesOn⟩ := hdrawn
  have sum := ((inv x hx (by rw [running]; exact nofun)).2 goesOn).sum
  omega

/-- `Iss.finishLoad` counts one slot while one is free; the group switch with which its split parks then widens slot 6 with that same slot (R23), so
that the load and slot 6 hold two slots of a quota of one. -/
theorem lateState_overdraws : overdraws (step lateState) = true := by decide +kernel

/-- Refutes O56: the step of `lateState` runs the load of a split whose pending write-back takes the slot the load has been promised. -/
theorem not_stepKeepsQuota : ¬ Obligations.StepKeepsQuota := by
  unfold Obligations.StepKeepsQuota
  rintro ⟨-, keeps⟩
  have excess := lateState_overdraws
  cases ht : step lateState with
  | next t =>
    rw [ht] at excess
    exact overdraws_not_quota excess (keeps lateState t lateState_quota ht)
  | fault f =>
    rw [ht] at excess
    exact Bool.false_ne_true excess
  | refused r =>
    rw [ht] at excess
    exact Bool.false_ne_true excess

end Sys2Proof.Machine
end

section
/-!
A statement on events that fails as it stands: a load whose data returns may name one register twice (spec 06 R169).
-/

namespace Sys2Proof.Machine

/-- A load in flight with two results for slot 0. -/
def twiceLate : Late := { writes := [(.slot 0, .u 1#32), (.slot 0, .u 2#32)], nw := false, slots := 0 }

/-- A warp of one register whose only split waits for such a load. -/
def twiceWarp : Warp :=
  { Warp.blank with
    st := .running, allot := 1, regs := [.u 0#32], live := 1#32
    split0 := some { Split.none0 with entry := 1#32, em := 1#32, park := .data, late := some twiceLate } }

def twiceState : State := { State.reset with warps := [twiceWarp], teams := [{ Team.none0 with res := .running }] }

def twiceIss : Iss :=
  { w := 0, sp := 0, warp := twiceWarp, tid := 0
    split := { Split.none0 with entry := 1#32, em := 1#32, park := .data, late := some twiceLate } }

theorem twice_iss : issOf twiceState 0 0 = some twiceIss := by decide +kernel

/-- A whole write leaves its own result in the register, so no register holds what two unequal writes ask for. -/
theorem Merged.unique {em live : Mask} {unif : Bool} {old r r' v : Reg} (h : Merged em live unif old r v)
    (h' : Merged em live unif old r' v) (hem : em ≠ 0#32) (hlive : em = live) : r = r' :=
  (h.whole hem hlive).symm.trans (h'.whole hem hlive)

/-- Refutes O44: `twiceLate` writes 1 and 2 to slot 0 under a whole mask, and the statement, which does not ask that the results of a load
have places of their own, has slot 0 hold both. -/
theorem not_splitEvents : ¬ Obligations.SplitEvents := by
  unfold Obligations.SplitEvents
  intro h
  obtain ⟨-, living⟩ := h twiceState twiceIss 0 0 twice_iss
  obtain ⟨-, -, -, -, -, -, -, -, -, -, -, -, returns, -⟩ := living rfl
  obtain ⟨-, -, written⟩ := returns twiceLate rfl rfl
  obtain ⟨o, yields, -⟩ := written nofun rfl
  unfold YieldsAll at yields
  rw [if_neg (by decide)] at yields
  obtain ⟨l, x, -, merged, -⟩ := yields
  have first := merged (.slot 0, .u 1#32) (by decide) Nat.zero_lt_one
  have second := merged (.slot 0, .u 2#32) (by decide) Nat.zero_lt_one
  exact absurd (first.unique second (by decide) (by decide)) (by decide)

end Sys2Proof.Machine
end

section
/-!
Decoding an encoded instruction gives it back, and every word that decodes is an encoding (O54; spec R60 to R79, R84).
A layout's word is a list of fields, packed; so the encoder of the layout gives `w` exactly when `w` holds these fields, and the
decoder of the layout reads these fields of `w`.
-/

namespace Sys2Proof

/-! ## Fields of a word -/

theorem fld_lt (w lo n : Nat) : fld w lo n < 2 ^ n := Nat.mod_lt _ (Nat.two_pow_pos n)

/-- The number with `hi` above the fields `fs`, each a width and a value, the lowest first. -/
def pack (hi : Nat) : List (Nat × Nat) → Nat
  | [] => hi
  | f :: fs => pack hi fs * 2 ^ f.1 + f.2

/-- Each value fits its field. -/
def Fits : List (Nat × Nat) → Prop
  | [] => True
  | f :: fs => f.2 < 2 ^ f.1 ∧ Fits fs

/-- From bit `lo` on `w` holds the fields `fs`, and above them `hi`. -/
def Holds (w hi : Nat) : Nat → List (Nat × Nat) → Prop
  | lo, [] => hi = w / 2 ^ lo
  | lo, f :: fs => f.2 = fld w lo f.1 ∧ Holds w hi (lo + f.1) fs

theorem pack_eq_div_iff {w hi : Nat} {fs : List (Nat × Nat)} (h : Fits fs) (lo : Nat) :
    pack hi fs = w / 2 ^ lo ↔ Holds w hi lo fs := by
  induction fs generalizing lo with
  | nil => rfl
  | cons f fs ih =>
    obtain ⟨lt, h⟩ := h
    rw [pack, Holds, ← ih h, fld, Nat.pow_add, ← Nat.div_div_eq_div_mul]
    generalize w / 2 ^ lo = v
    constructor
    · rintro rfl
      rw [Nat.mul_comm, Nat.mul_add_mod, Nat.mod_eq_of_lt lt, Nat.mul_add_div (Nat.two_pow_pos f.1), Nat.div_eq_of_lt lt]
      exact ⟨rfl, rfl⟩
    · rintro ⟨low, high⟩
      rw [low, high, Nat.mul_comm, Nat.div_add_mod]

/-- Fields packed give `w` exactly when `w` holds each of them. -/
theorem pack_eq_iff {w hi : Nat} {fs : List (Nat × Nat)} (h : Fits fs) : pack hi fs = w ↔ Holds w hi 0 fs := by
  rw [← pack_eq_div_iff h, Nat.pow_zero, Nat.div_one]

/-- `base` holds an opcode and a function code, the field of `n` bits at `lo`, and no other bit. -/
def Clean (lo n base : Nat) : Prop := base = base / 2 ^ 26 * 2 ^ 26 + fld base lo n * 2 ^ lo

/-- `w` has the opcode and the function code of `base`. -/
def Keyed (lo n base w : Nat) : Prop := w / 2 ^ 26 = base / 2 ^ 26 ∧ fld w lo n = fld base lo n

/-- A word is keyed by the number that holds its opcode and its function code alone. -/
theorem keyed_of {op lo n f w : Nat} (hop : w / 2 ^ 26 = op) (hf : fld w lo n = f) (inside : lo + n ≤ 26) :
    Keyed lo n (op * 2 ^ 26 + f * 2 ^ lo) w := by
  have split : 2 ^ 26 = 2 ^ (26 - (lo + n)) * 2 ^ n * 2 ^ lo := by
    rw [← Nat.pow_add, ← Nat.pow_add]
    congr 1
    omega
  have lt : f < 2 ^ n := hf ▸ fld_lt w lo n
  have low : f * 2 ^ lo < 2 ^ 26 := by
    rw [split, Nat.mul_lt_mul_right (Nat.two_pow_pos lo)]
    exact lt.trans_le (Nat.le_mul_of_pos_left _ (Nat.two_pow_pos _))
  constructor
  · omega
  · rw [hf, fld, split, ← Nat.mul_assoc, ← Nat.mul_assoc, ← Nat.add_mul, Nat.mul_div_cancel _ (Nat.two_pow_pos lo),
      Nat.mul_add_mod', Nat.mod_eq_of_lt lt]

/-- Where the opcode alone names the instruction there is no function code. -/
theorem keyed_zero {base w : Nat} : Keyed 0 0 base w ↔ w / 2 ^ 26 = base / 2 ^ 26 := by
  simp [Keyed, fld, Nat.mod_one]

theorem keyed_zero_of {op w : Nat} (hop : w / 2 ^ 26 = op) : Keyed 0 0 (op * 2 ^ 26) w := by
  rw [keyed_zero]
  omega

/-! ## The decoder's parts -/

theorem Dec.need_eq_ok {c : Bool} {o : Option Instr} {i : Instr} : Dec.need c o = .ok i ↔ c = true ∧ o = some i := by
  unfold Dec.need
  cases c <;> cases o <;> simp

theorem Src.ofCode_eq_some {n : Nat} {a : Src} : Src.ofCode n = some a ↔ a.wf = true ∧ a.code = n := by
  unfold Src.ofCode
  split_ifs <;> cases a <;> simp [Src.wf, Src.code] <;> omega

theorem Dst.ofCode_eq_some {n : Nat} {d : Dst} : Dst.ofCode n = some d ↔ d.wf = true ∧ d.code = n := by
  unfold Dst.ofCode
  split_ifs <;> cases d <;> simp [Dst.wf, Dst.code] <;> omega

theorem MemWidth.ofCode_eq_some {n : Nat} {mw : MemWidth} : MemWidth.ofCode n = some mw ↔ mw.code = n := by
  constructor
  · intro h
    unfold MemWidth.ofCode at h
    split at h <;> cases h <;> rfl
  · rintro rfl
    cases mw <;> rfl

theorem MemWidth.narrow_eq (mw : MemWidth) : mw.narrow = decide (mw.code < 5) := by cases mw <;> rfl

theorem LdReg.ofCode_eq_some {mw : MemWidth} {n : Nat} {d : LdReg} :
    LdReg.ofCode mw.code n = some d ↔ d.wf mw = true ∧ d.code = n := by
  unfold LdReg.ofCode LdReg.wf
  rw [mw.narrow_eq]
  cases d <;> split_ifs with narrow <;> simp [narrow, LdReg.code, Dst.ofCode_eq_some] <;> omega

theorem StReg.ofCode_eq_some {mw : MemWidth} {n : Nat} {d : StReg} :
    StReg.ofCode mw.code n = some d ↔ d.wf mw = true ∧ d.code = n := by
  unfold StReg.ofCode StReg.wf
  rw [mw.narrow_eq]
  cases d <;> split_ifs with narrow <;> simp [narrow, StReg.code, Src.ofCode_eq_some] <;> omega

theorem Src.bind_eq_some {n : Nat} {f : Src → Option Instr} {i : Instr} :
    (Src.ofCode n >>= f) = some i ↔ ∃ a : Src, a.wf = true ∧ a.code = n ∧ f a = some i := by
  simp only [Option.bind_eq_bind, Option.bind_eq_some_iff, Src.ofCode_eq_some, and_assoc]

theorem Dst.bind_eq_some {n : Nat} {f : Dst → Option Instr} {i : Instr} :
    (Dst.ofCode n >>= f) = some i ↔ ∃ d : Dst, d.wf = true ∧ d.code = n ∧ f d = some i := by
  simp only [Option.bind_eq_bind, Option.bind_eq_some_iff, Dst.ofCode_eq_some, and_assoc]

/-- The width of a load and the register it names are read together. -/
theorem LdReg.bind_eq_some {n m : Nat} {f : MemWidth → LdReg → Option Instr} {i : Instr} :
    (MemWidth.ofCode n >>= fun mw => LdReg.ofCode n m >>= f mw) = some i ↔
      ∃ (mw : MemWidth) (d : LdReg), mw.code = n ∧ d.wf mw = true ∧ d.code = m ∧ f mw d = some i := by
  simp only [Option.bind_eq_bind, Option.bind_eq_some_iff, MemWidth.ofCode_eq_some]
  constructor
  · rintro ⟨mw, rfl, d, hd, h⟩
    obtain ⟨hwf, hm⟩ := LdReg.ofCode_eq_some.mp hd
    exact ⟨mw, d, rfl, hwf, hm, h⟩
  · rintro ⟨mw, d, rfl, hwf, hm, h⟩
    exact ⟨mw, rfl, d, LdReg.ofCode_eq_some.mpr ⟨hwf, hm⟩, h⟩

/-- The width of a store and the register it names are read together. -/
theorem StReg.bind_eq_some {n m : Nat} {f : MemWidth → StReg → Option Instr} {i : Instr} :
    (MemWidth.ofCode n >>= fun mw => StReg.ofCode n m >>= f mw) = some i ↔
      ∃ (mw : MemWidth) (d : StReg), mw.code = n ∧ d.wf mw = true ∧ d.code = m ∧ f mw d = some i := by
  simp only [Option.bind_eq_bind, Option.bind_eq_some_iff, MemWidth.ofCode_eq_some]
  constructor
  · rintro ⟨mw, rfl, d, hd, h⟩
    obtain ⟨hwf, hm⟩ := StReg.ofCode_eq_some.mp hd
    exact ⟨mw, d, rfl, hwf, hm, h⟩
  · rintro ⟨mw, d, rfl, hwf, hm, h⟩
    exact ⟨mw, rfl, d, StReg.ofCode_eq_some.mpr ⟨hwf, hm⟩, h⟩

/-- A flag read from a bit is the flag whose code the bit is. -/
theorem fld_bit {w lo : Nat} {b : Bool} : (fld w lo 1 == 1) = b ↔ b2n b = fld w lo 1 := by
  have h : fld w lo 1 < 2 := fld_lt w lo 1
  interval_cases fld w lo 1 <;> cases b <;> decide

theorem Dst.code_eq_z {d : Dst} (h : d.wf = true) : d.code = 116 ↔ d = .z := by
  cases d with
  | win n => simp only [Dst.wf, decide_eq_true_eq] at h; simp only [Dst.code, reduceCtorEq, iff_false]; omega
  | z => exact ⟨fun _ => rfl, fun _ => rfl⟩

/-! ## One layout after another: the fields of its words, and what decodes -/

section
variable {base : Nat} {i : Instr}

theorem encAdd_eq (hb : Clean 0 4 base) (w : Nat) (nw : Bool) (d : Dst) (a : Src) (b : Src)
    (hwf : (d.wf && a.wf && b.wf) = true) :
    encAdd base nw d a b = w ↔
      Holds w (base / 2 ^ 26) 0 [(4, fld base 0 4), (7, b.code), (7, a.code), (7, d.code), (1, b2n nw)] := by
  rw [← pack_eq_iff (by grind [Fits, fld, b2n_lt, Dst.code_lt, Src.code_lt])]
  simp only [encAdd, pack, fld, Clean] at *
  omega

theorem likeAdd_iff {k : Bool → Dst → Src → Src → Instr} (hb : Clean 0 4 base) {w : Nat} :
    Keyed 0 4 base w ∧ likeAdd k w = .ok i ↔
      ∃ nw d a b, (d.wf && a.wf && b.wf) = true ∧ encAdd base nw d a b = w ∧ k nw d a b = i := by
  have e := encAdd_eq hb w
  simp only [likeAdd, Dec.need_eq_ok, Dst.bind_eq_some, Src.bind_eq_some, Option.some.injEq, Holds] at *
  grind [Keyed, fld_bit]

theorem likeAtoms_iff {k : Bool → Dst → Src → Src → Instr} (hb : Clean 0 4 base) {w : Nat} :
    Keyed 0 4 base w ∧ likeAtoms k w = .ok i ↔
      ∃ nw d a b, (nwAllowed nw d && d.wf && a.wf && b.wf) = true ∧ encAdd base nw d a b = w ∧ k nw d a b = i := by
  have e := encAdd_eq hb w
  simp only [likeAtoms, Dec.need_eq_ok, Dst.bind_eq_some, Src.bind_eq_some, Option.some.injEq, Holds] at *
  grind [Keyed, fld_bit, nwAllowed, atomsNw, Dst.code_eq_z, b2n]

theorem encClz_eq (hb : Clean 0 4 base) (w : Nat) (nw : Bool) (d : Dst) (a : Src) (hwf : (d.wf && a.wf) = true) :
    encClz (base + 0x740) nw d a = w ↔
      Holds w (base / 2 ^ 26) 0 [(4, fld base 0 4), (7, 116), (7, a.code), (7, d.code), (1, b2n nw)] := by
  rw [← pack_eq_iff (by grind [Fits, fld, b2n_lt, Dst.code_lt, Src.code_lt])]
  simp only [encClz, pack, fld, Clean] at *
  omega

theorem likeClz_iff {k : Bool → Dst → Src → Instr} (hb : Clean 0 4 base) {w : Nat} :
    Keyed 0 4 base w ∧ likeClz k w = .ok i ↔
      ∃ nw d a, (d.wf && a.wf) = true ∧ encClz (base + 0x740) nw d a = w ∧ k nw d a = i := by
  have e := encClz_eq hb w
  simp only [likeClz, Dec.need_eq_ok, Dst.bind_eq_some, Src.bind_eq_some, Option.some.injEq, Holds] at *
  grind [Keyed, fld_bit]

theorem encAddi_eq (hb : Clean 0 0 base) (w : Nat) (nw : Bool) (d : Dst) (a : Src) (imm : Nat)
    (hwf : (d.wf && a.wf && decide (imm < 2048)) = true) :
    encAddi base nw d a imm = w ↔ Holds w (base / 2 ^ 26) 0 [(11, imm), (7, a.code), (7, d.code), (1, b2n nw)] := by
  rw [← pack_eq_iff (by grind [Fits, fld, b2n_lt, Dst.code_lt, Src.code_lt])]
  simp only [encAddi, pack, fld, Clean] at *
  omega

theorem likeAddi_iff {k : Bool → Dst → Src → Nat → Instr} (hb : Clean 0 0 base) {w : Nat} :
    Keyed 0 0 base w ∧ likeAddi k w = .ok i ↔
      ∃ nw d a imm, (d.wf && a.wf && decide (imm < 2048)) = true ∧ encAddi base nw d a imm = w ∧ k nw d a imm = i := by
  have e := encAddi_eq hb w
  simp only [keyed_zero, likeAddi, Dec.need_eq_ok, Dst.bind_eq_some, Src.bind_eq_some, Option.some.injEq, Holds] at *
  grind [fld_bit, fld_lt w 0 11]

theorem encShiShl_eq (hb : Clean 9 2 base) (w : Nat) (nw : Bool) (d : Dst) (a : Src) (amt : Nat)
    (hwf : (d.wf && a.wf && decide (amt < 32)) = true) :
    encShiShl base nw d a amt = w ↔
      Holds w (base / 2 ^ 26) 0 [(5, amt), (4, 0), (2, fld base 9 2), (7, a.code), (7, d.code), (1, b2n nw)] := by
  rw [← pack_eq_iff (by grind [Fits, fld, b2n_lt, Dst.code_lt, Src.code_lt])]
  simp only [encShiShl, pack, fld, Clean] at *
  omega

theorem likeShiShl_iff {k : Bool → Dst → Src → Nat → Instr} (hb : Clean 9 2 base) {w : Nat} :
    Keyed 9 2 base w ∧ likeShiShl k w = .ok i ↔
      ∃ nw d a amt, (d.wf && a.wf && decide (amt < 32)) = true ∧ encShiShl base nw d a amt = w ∧ k nw d a amt = i := by
  have e := encShiShl_eq hb w
  simp only [likeShiShl, Dec.need_eq_ok, Dst.bind_eq_some, Src.bind_eq_some, Option.some.injEq, Holds] at *
  grind [Keyed, fld_bit, fld_lt w 0 5]

theorem encLi_eq (hb : Clean 0 0 base) (w : Nat) (nw : Bool) (d : Dst) (imm : Nat)
    (hwf : (d.wf && decide (imm < 262144)) = true) :
    encLi base nw d imm = w ↔ Holds w (base / 2 ^ 26) 0 [(18, imm), (7, d.code), (1, b2n nw)] := by
  rw [← pack_eq_iff (by grind [Fits, fld, b2n_lt, Dst.code_lt])]
  simp only [encLi, pack, fld, Clean] at *
  omega

theorem likeLi_iff {k : Bool → Dst → Nat → Instr} (hb : Clean 0 0 base) {w : Nat} :
    Keyed 0 0 base w ∧ likeLi k w = .ok i ↔
      ∃ nw d imm, (d.wf && decide (imm < 262144)) = true ∧ encLi base nw d imm = w ∧ k nw d imm = i := by
  have e := encLi_eq hb w
  simp only [keyed_zero, likeLi, Dec.need_eq_ok, Dst.bind_eq_some, Option.some.injEq, Holds] at *
  grind [fld_bit, fld_lt w 0 18]

theorem encCmp_eq (hb : Clean 0 0 base) (w : Nat) (cond : Nat) (pd : Nat) (a : Src) (b : Src) (pc : Nat) (cmb : Nat)
    (hwf : (decide (cond < 12) && decide (pd < 8) && a.wf && b.wf && decide (pc < 8) && decide (cmb < 3) &&
      (cmb != 0 || pc == 0)) = true) :
    encCmp base cond pd a b pc cmb = w ↔
      Holds w (base / 2 ^ 26) 0 [(2, cmb), (3, pc), (7, b.code), (7, a.code), (3, pd), (4, cond)] := by
  rw [← pack_eq_iff (by grind [Fits, fld, Src.code_lt])]
  simp only [encCmp, pack, fld, Clean] at *
  omega

theorem likeCmp_iff {k : Nat → Nat → Src → Src → Nat → Nat → Instr} (hb : Clean 0 0 base) {w : Nat} :
    Keyed 0 0 base w ∧ likeCmp k w = .ok i ↔
      ∃ cond pd a b pc cmb, (decide (cond < 12) && decide (pd < 8) && a.wf && b.wf && decide (pc < 8) &&
        decide (cmb < 3) && (cmb != 0 || pc == 0)) = true ∧
        encCmp base cond pd a b pc cmb = w ∧ k cond pd a b pc cmb = i := by
  have e := encCmp_eq hb w
  simp only [keyed_zero, likeCmp, Dec.need_eq_ok, Src.bind_eq_some, Option.some.injEq, Holds] at *
  constructor
  · grind [fld_lt w 0 2, fld_lt w 2 3, fld_lt w 19 3, fld_lt w 22 4]
  · rintro ⟨cond, pd, a, b, pc, cmb, hwf, h, rfl⟩
    obtain ⟨rfl, rfl, eb, ea, rfl, rfl, top⟩ := (e _ _ _ _ _ _ hwf).mp h
    simp only [Bool.and_eq_true] at hwf
    obtain ⟨⟨⟨⟨⟨⟨hcond, -⟩, ha⟩, hb⟩, -⟩, hcmb⟩, hpc⟩ := hwf
    exact ⟨top.symm, by rw [hcond, hcmb, hpc]; rfl, a, ha, ea, b, hb, eb, rfl⟩

theorem encCmpi_eq (hb : Clean 0 0 base) (w : Nat) (cond : Nat) (pd : Nat) (a : Src) (imm : Nat)
    (hwf : (decide (cond < 12) && decide (pd < 8) && a.wf && decide (imm < 4096)) = true) :
    encCmpi base cond pd a imm = w ↔ Holds w (base / 2 ^ 26) 0 [(12, imm), (7, a.code), (3, pd), (4, cond)] := by
  rw [← pack_eq_iff (by grind [Fits, fld, Src.code_lt])]
  simp only [encCmpi, pack, fld, Clean] at *
  omega

theorem likeCmpi_iff {k : Nat → Nat → Src → Nat → Instr} (hb : Clean 0 0 base) {w : Nat} :
    Keyed 0 0 base w ∧ likeCmpi k w = .ok i ↔
      ∃ cond pd a imm, (decide (cond < 12) && decide (pd < 8) && a.wf && decide (imm < 4096)) = true ∧
        encCmpi base cond pd a imm = w ∧ k cond pd a imm = i := by
  have e := encCmpi_eq hb w
  simp only [keyed_zero, likeCmpi, Dec.need_eq_ok, Src.bind_eq_some, Option.some.injEq, Holds] at *
  grind [fld_lt w 0 12, fld_lt w 19 3, fld_lt w 22 4]

theorem encFcmp_eq (hb : Clean 0 0 base) (w : Nat) (cond : Nat) (pd : Nat) (a : Src) (b : Src) (pc : Nat) (cmb : Nat)
    (hwf : (decide (cond < 8) && decide (pd < 8) && a.wf && b.wf && decide (pc < 8) && decide (cmb < 3) &&
      (cmb != 0 || pc == 0)) = true) :
    encFcmp base cond pd a b pc cmb = w ↔
      Holds w (base / 2 ^ 26) 0 [(2, cmb), (3, pc), (7, b.code), (7, a.code), (3, pd), (4, cond)] := by
  rw [← pack_eq_iff (by grind [Fits, fld, Src.code_lt])]
  simp only [encFcmp, pack, fld, Clean] at *
  omega

theorem likeFcmp_iff {k : Nat → Nat → Src → Src → Nat → Nat → Instr} (hb : Clean 0 0 base) {w : Nat} :
    Keyed 0 0 base w ∧ likeFcmp k w = .ok i ↔
      ∃ cond pd a b pc cmb, (decide (cond < 8) && decide (pd < 8) && a.wf && b.wf && decide (pc < 8) &&
        decide (cmb < 3) && (cmb != 0 || pc == 0)) = true ∧
        encFcmp base cond pd a b pc cmb = w ∧ k cond pd a b pc cmb = i := by
  have e := encFcmp_eq hb w
  simp only [keyed_zero, likeFcmp, Dec.need_eq_ok, Src.bind_eq_some, Option.some.injEq, Holds] at *
  constructor
  · grind [fld_lt w 0 2, fld_lt w 2 3, fld_lt w 19 3, fld_lt w 22 4]
  · rintro ⟨cond, pd, a, b, pc, cmb, hwf, h, rfl⟩
    obtain ⟨rfl, rfl, eb, ea, rfl, rfl, top⟩ := (e _ _ _ _ _ _ hwf).mp h
    simp only [Bool.and_eq_true] at hwf
    obtain ⟨⟨⟨⟨⟨⟨hcond, -⟩, ha⟩, hb⟩, -⟩, hcmb⟩, hpc⟩ := hwf
    exact ⟨top.symm, by rw [hcond, hcmb, hpc]; rfl, a, ha, ea, b, hb, eb, rfl⟩

theorem encCvt_eq (hb : Clean 0 0 base) (w : Nat) (nw : Bool) (d : Dst) (a : Src) (rnd : Nat) (src : Nat) (dst : Nat)
    (hwf : (d.wf && a.wf && decide (rnd < 6) && decide (src < 15) && decide (dst < 15)) = true) :
    encCvt base nw d a rnd src dst = w ↔
      Holds w (base / 2 ^ 26) 0 [(4, dst), (4, src), (3, rnd), (7, a.code), (7, d.code), (1, b2n nw)] := by
  rw [← pack_eq_iff (by grind [Fits, fld, b2n_lt, Dst.code_lt, Src.code_lt])]
  simp only [encCvt, pack, fld, Clean] at *
  omega

theorem likeCvt_iff {k : Bool → Dst → Src → Nat → Nat → Nat → Instr} (hb : Clean 0 0 base) {w : Nat} :
    Keyed 0 0 base w ∧ likeCvt k w = .ok i ↔
      ∃ nw d a rnd src dst, (d.wf && a.wf && decide (rnd < 6) && decide (src < 15) && decide (dst < 15)) = true ∧
        encCvt base nw d a rnd src dst = w ∧ k nw d a rnd src dst = i := by
  have e := encCvt_eq hb w
  simp only [keyed_zero, likeCvt, Dec.need_eq_ok, Dst.bind_eq_some, Src.bind_eq_some, Option.some.injEq, Holds] at *
  grind [fld_bit, fld_lt w 0 4, fld_lt w 4 4, fld_lt w 8 3]

theorem encSel_eq (hb : Clean 0 0 base) (w : Nat) (nw : Bool) (d : Dst) (a : Src) (b : Src) (p : Nat) (inv : Bool)
    (hwf : (d.wf && a.wf && b.wf && decide (p < 8)) = true) :
    encSel base nw d a b p inv = w ↔
      Holds w (base / 2 ^ 26) 0 [(3, p), (1, b2n inv), (7, b.code), (7, a.code), (7, d.code), (1, b2n nw)] := by
  rw [← pack_eq_iff (by grind [Fits, fld, b2n_lt, Dst.code_lt, Src.code_lt])]
  simp only [encSel, pack, fld, Clean] at *
  omega

theorem likeSel_iff {k : Bool → Dst → Src → Src → Nat → Bool → Instr} (hb : Clean 0 0 base) {w : Nat} :
    Keyed 0 0 base w ∧ likeSel k w = .ok i ↔
      ∃ nw d a b p inv, (d.wf && a.wf && b.wf && decide (p < 8)) = true ∧
        encSel base nw d a b p inv = w ∧ k nw d a b p inv = i := by
  have e := encSel_eq hb w
  simp only [keyed_zero, likeSel, Dec.need_eq_ok, Dst.bind_eq_some, Src.bind_eq_some, Option.some.injEq, Holds] at *
  grind [fld_bit, fld_lt w 0 3]

theorem encShaU_eq (hb : Clean 0 4 base) (w : Nat) (a : Src) (hwf : a.wf = true) :
    encShaU (base + 0x1D00740) a = w ↔ Holds w (base / 2 ^ 26) 0 [(4, fld base 0 4), (7, 116), (7, a.code), (8, 116)] := by
  rw [← pack_eq_iff (by grind [Fits, fld, Src.code_lt])]
  simp only [encShaU, pack, fld, Clean] at *
  omega

theorem likeShaU_iff {k : Src → Instr} (hb : Clean 0 4 base) {w : Nat} :
    Keyed 0 4 base w ∧ likeShaU k w = .ok i ↔
      ∃ a, a.wf = true ∧ encShaU (base + 0x1D00740) a = w ∧ k a = i := by
  have e := encShaU_eq hb w
  simp only [likeShaU, Dec.need_eq_ok, Src.bind_eq_some, Option.some.injEq, Holds] at *
  grind [Keyed]

theorem encShw_eq (hb : Clean 0 4 base) (w : Nat) (d : Nat) (n : Nat)
    (hwf : (decide (d < 112) && decide (1 ≤ n) && decide (n ≤ 16)) = true) :
    encShw (base + 0x3A000) d n = w ↔ Holds w (base / 2 ^ 26) 0 [(4, fld base 0 4), (7, n), (7, 116), (7, d), (1, 0)] := by
  rw [← pack_eq_iff (by grind [Fits, fld])]
  simp only [encShw, pack, fld, Clean] at *
  omega

theorem likeShw_iff {k : Nat → Nat → Instr} (hb : Clean 0 4 base) {w : Nat} :
    Keyed 0 4 base w ∧ likeShw k w = .ok i ↔
      ∃ d n, (decide (d < 112) && decide (1 ≤ n) && decide (n ≤ 16)) = true ∧
        encShw (base + 0x3A000) d n = w ∧ k d n = i := by
  have e := encShw_eq hb w
  simp only [likeShw, Dec.need_eq_ok, Option.some.injEq, Holds] at *
  grind [Keyed, fld_lt w 4 7, fld_lt w 18 7]

theorem encShn_eq (hb : Clean 0 4 base) (w : Nat) (nw : Bool) (d : Dst) (hwf : d.wf = true) :
    encShn (base + 0x3A740) nw d = w ↔
      Holds w (base / 2 ^ 26) 0 [(4, fld base 0 4), (14, 14964), (7, d.code), (1, b2n nw)] := by
  rw [← pack_eq_iff (by grind [Fits, fld, b2n_lt, Dst.code_lt])]
  simp only [encShn, pack, fld, Clean] at *
  omega

theorem likeShn_iff {k : Bool → Dst → Instr} (hb : Clean 0 4 base) {w : Nat} :
    Keyed 0 4 base w ∧ likeShn k w = .ok i ↔
      ∃ nw d, d.wf = true ∧ encShn (base + 0x3A740) nw d = w ∧ k nw d = i := by
  have e := encShn_eq hb w
  simp only [likeShn, Dec.need_eq_ok, Dst.bind_eq_some, Option.some.injEq, Holds] at *
  grind [Keyed, fld_bit]

theorem encWbasei_eq (hb : Clean 0 4 base) (w : Nat) (delta : Nat) (hwf : decide (delta < 128) = true) :
    encWbasei (base + 0x1D3A000) delta = w ↔ Holds w (base / 2 ^ 26) 0 [(4, fld base 0 4), (7, delta), (15, 14964)] := by
  rw [← pack_eq_iff (by grind [Fits, fld])]
  simp only [encWbasei, pack, fld, Clean] at *
  omega

theorem likeWbasei_iff {k : Nat → Instr} (hb : Clean 0 4 base) {w : Nat} :
    Keyed 0 4 base w ∧ likeWbasei k w = .ok i ↔
      ∃ delta, decide (delta < 128) = true ∧ encWbasei (base + 0x1D3A000) delta = w ∧ k delta = i := by
  have e := encWbasei_eq hb w
  simp only [likeWbasei, Dec.need_eq_ok, Option.some.injEq, Holds] at *
  grind [Keyed, fld_lt w 4 7]

theorem encIxset_eq (hb : Clean 0 4 base) (w : Nat) (a : Src) (idx : Nat) (hwf : (a.wf && decide (idx < 4)) = true) :
    encIxset (base + 0x1D00000) a idx = w ↔
      Holds w (base / 2 ^ 26) 0 [(4, fld base 0 4), (2, idx), (5, 0), (7, a.code), (8, 116)] := by
  rw [← pack_eq_iff (by grind [Fits, fld, Src.code_lt])]
  simp only [encIxset, pack, fld, Clean] at *
  omega

theorem likeIxset_iff {k : Src → Nat → Instr} (hb : Clean 0 4 base) {w : Nat} :
    Keyed 0 4 base w ∧ likeIxset k w = .ok i ↔
      ∃ a idx, (a.wf && decide (idx < 4)) = true ∧ encIxset (base + 0x1D00000) a idx = w ∧ k a idx = i := by
  have e := encIxset_eq hb w
  simp only [likeIxset, Dec.need_eq_ok, Src.bind_eq_some, Option.some.injEq, Holds] at *
  grind [Keyed, fld_lt w 4 2]

theorem encIxget_eq (hb : Clean 0 4 base) (w : Nat) (nw : Bool) (d : Dst) (idx : Nat)
    (hwf : (d.wf && decide (idx < 4)) = true) :
    encIxget (base + 0x3A000) nw d idx = w ↔
      Holds w (base / 2 ^ 26) 0 [(4, fld base 0 4), (2, idx), (12, 3712), (7, d.code), (1, b2n nw)] := by
  rw [← pack_eq_iff (by grind [Fits, fld, b2n_lt, Dst.code_lt])]
  simp only [encIxget, pack, fld, Clean] at *
  omega

theorem likeIxget_iff {k : Bool → Dst → Nat → Instr} (hb : Clean 0 4 base) {w : Nat} :
    Keyed 0 4 base w ∧ likeIxget k w = .ok i ↔
      ∃ nw d idx, (d.wf && decide (idx < 4)) = true ∧ encIxget (base + 0x3A000) nw d idx = w ∧ k nw d idx = i := by
  have e := encIxget_eq hb w
  simp only [likeIxget, Dec.need_eq_ok, Dst.bind_eq_some, Option.some.injEq, Holds] at *
  grind [Keyed, fld_bit, fld_lt w 4 2]

theorem encRgive_eq (hb : Clean 0 4 base) (w : Nat) (a : Src) (imm : Nat) (hwf : (a.wf && decide (imm < 128)) = true) :
    encRgive (base + 0x1D00000) a imm = w ↔ Holds w (base / 2 ^ 26) 0 [(4, fld base 0 4), (7, imm), (7, a.code), (8, 116)] := by
  rw [← pack_eq_iff (by grind [Fits, fld, Src.code_lt])]
  simp only [encRgive, pack, fld, Clean] at *
  omega

theorem likeRgive_iff {k : Src → Nat → Instr} (hb : Clean 0 4 base) {w : Nat} :
    Keyed 0 4 base w ∧ likeRgive k w = .ok i ↔
      ∃ a imm, (a.wf && decide (imm < 128)) = true ∧ encRgive (base + 0x1D00000) a imm = w ∧ k a imm = i := by
  have e := encRgive_eq hb w
  simp only [likeRgive, Dec.need_eq_ok, Src.bind_eq_some, Option.some.injEq, Holds] at *
  grind [Keyed, fld_lt w 4 7]

theorem encVoteBal_eq (hb : Clean 0 4 base) (w : Nat) (nw : Bool) (d : Dst) (p : Nat) (inv : Bool)
    (hwf : (d.wf && decide (p < 8)) = true) :
    encVoteBal (base + 0x3A000) nw d p inv = w ↔
      Holds w (base / 2 ^ 26) 0 [(4, fld base 0 4), (3, p), (1, b2n inv), (10, 928), (7, d.code), (1, b2n nw)] := by
  rw [← pack_eq_iff (by grind [Fits, fld, b2n_lt, Dst.code_lt])]
  simp only [encVoteBal, pack, fld, Clean] at *
  omega

theorem likeVoteBal_iff {k : Bool → Dst → Nat → Bool → Instr} (hb : Clean 0 4 base) {w : Nat} :
    Keyed 0 4 base w ∧ likeVoteBal k w = .ok i ↔
      ∃ nw d p inv, (d.wf && decide (p < 8)) = true ∧ encVoteBal (base + 0x3A000) nw d p inv = w ∧ k nw d p inv = i := by
  have e := encVoteBal_eq hb w
  simp only [likeVoteBal, Dec.need_eq_ok, Dst.bind_eq_some, Option.some.injEq, Holds] at *
  grind [Keyed, fld_bit, fld_lt w 4 3]

theorem encVoteAny_eq (hb : Clean 0 4 base) (w : Nat) (pd : Nat) (p : Nat) (inv : Bool)
    (hwf : (decide (pd < 8) && decide (p < 8)) = true) :
    encVoteAny (base + 0x3A000) pd p inv = w ↔
      Holds w (base / 2 ^ 26) 0 [(4, fld base 0 4), (3, p), (1, b2n inv), (10, 928), (3, pd), (5, 0)] := by
  rw [← pack_eq_iff (by grind [Fits, fld, b2n_lt])]
  simp only [encVoteAny, pack, fld, Clean] at *
  omega

theorem likeVoteAny_iff {k : Nat → Nat → Bool → Instr} (hb : Clean 0 4 base) {w : Nat} :
    Keyed 0 4 base w ∧ likeVoteAny k w = .ok i ↔
      ∃ pd p inv, (decide (pd < 8) && decide (p < 8)) = true ∧
        encVoteAny (base + 0x3A000) pd p inv = w ∧ k pd p inv = i := by
  have e := encVoteAny_eq hb w
  simp only [likeVoteAny, Dec.need_eq_ok, Option.some.injEq, Holds] at *
  grind [Keyed, fld_bit, fld_lt w 4 3, fld_lt w 18 3]

theorem encReduxMin_eq (hb : Clean 0 4 base) (w : Nat) (nw : Bool) (d : Dst) (a : Src) (natural : Bool)
    (hwf : (d.wf && a.wf) = true) :
    encReduxMin base nw d a natural = w ↔
      Holds w (base / 2 ^ 26) 0 [(4, fld base 0 4), (1, b2n natural), (6, 0), (7, a.code), (7, d.code), (1, b2n nw)] := by
  rw [← pack_eq_iff (by grind [Fits, fld, b2n_lt, Dst.code_lt, Src.code_lt])]
  simp only [encReduxMin, pack, fld, Clean] at *
  omega

theorem likeReduxMin_iff {k : Bool → Dst → Src → Bool → Instr} (hb : Clean 0 4 base) {w : Nat} :
    Keyed 0 4 base w ∧ likeReduxMin k w = .ok i ↔
      ∃ nw d a natural, (d.wf && a.wf) = true ∧ encReduxMin base nw d a natural = w ∧ k nw d a natural = i := by
  have e := encReduxMin_eq hb w
  simp only [likeReduxMin, Dec.need_eq_ok, Dst.bind_eq_some, Src.bind_eq_some, Option.some.injEq, Holds] at *
  grind [Keyed, fld_bit]

theorem encRbal_eq (hb : Clean 0 4 base) (w : Nat) (d : Nat) (a : Src) (b : Src)
    (hwf : (decide (d < 112) && a.wf && b.wf) = true) :
    encRbal base d a b = w ↔ Holds w (base / 2 ^ 26) 0 [(4, fld base 0 4), (7, b.code), (7, a.code), (7, d), (1, 0)] := by
  rw [← pack_eq_iff (by grind [Fits, fld, Src.code_lt])]
  simp only [encRbal, pack, fld, Clean] at *
  omega

theorem likeRbal_iff {k : Nat → Src → Src → Instr} (hb : Clean 0 4 base) {w : Nat} :
    Keyed 0 4 base w ∧ likeRbal k w = .ok i ↔
      ∃ d a b, (decide (d < 112) && a.wf && b.wf) = true ∧ encRbal base d a b = w ∧ k d a b = i := by
  have e := encRbal_eq hb w
  simp only [likeRbal, Dec.need_eq_ok, Src.bind_eq_some, Option.some.injEq, Holds] at *
  grind [Keyed, fld_lt w 18 7]

theorem encPand_eq (hb : Clean 0 4 base) (w : Nat) (pd : Nat) (pa : Nat) (pb : Nat)
    (hwf : (decide (pd < 8) && decide (pa < 8) && decide (pb < 8)) = true) :
    encPand base pd pa pb = w ↔
      Holds w (base / 2 ^ 26) 0 [(4, fld base 0 4), (3, pb), (4, 0), (3, pa), (4, 0), (3, pd), (5, 0)] := by
  rw [← pack_eq_iff (by grind [Fits, fld])]
  simp only [encPand, pack, fld, Clean] at *
  omega

theorem likePand_iff {k : Nat → Nat → Nat → Instr} (hb : Clean 0 4 base) {w : Nat} :
    Keyed 0 4 base w ∧ likePand k w = .ok i ↔
      ∃ pd pa pb, (decide (pd < 8) && decide (pa < 8) && decide (pb < 8)) = true ∧
        encPand base pd pa pb = w ∧ k pd pa pb = i := by
  have e := encPand_eq hb w
  simp only [likePand, Dec.need_eq_ok, Option.some.injEq, Holds] at *
  grind [Keyed, fld_lt w 4 3, fld_lt w 11 3, fld_lt w 18 3]

theorem encPnot_eq (hb : Clean 0 4 base) (w : Nat) (pd : Nat) (pa : Nat) (hwf : (decide (pd < 8) && decide (pa < 8)) = true) :
    encPnot (base + 0x740) pd pa = w ↔
      Holds w (base / 2 ^ 26) 0 [(4, fld base 0 4), (7, 116), (3, pa), (4, 0), (3, pd), (5, 0)] := by
  rw [← pack_eq_iff (by grind [Fits, fld])]
  simp only [encPnot, pack, fld, Clean] at *
  omega

theorem likePnot_iff {k : Nat → Nat → Instr} (hb : Clean 0 4 base) {w : Nat} :
    Keyed 0 4 base w ∧ likePnot k w = .ok i ↔
      ∃ pd pa, (decide (pd < 8) && decide (pa < 8)) = true ∧ encPnot (base + 0x740) pd pa = w ∧ k pd pa = i := by
  have e := encPnot_eq hb w
  simp only [likePnot, Dec.need_eq_ok, Option.some.injEq, Holds] at *
  grind [Keyed, fld_lt w 11 3, fld_lt w 18 3]

theorem encEmset_eq (hb : Clean 0 4 base) (w : Nat) (p : Nat) (inv : Bool) (hwf : decide (p < 8) = true) :
    encEmset (base + 0x1D00740) p inv = w ↔
      Holds w (base / 2 ^ 26) 0 [(4, fld base 0 4), (7, 116), (3, p), (1, b2n inv), (11, 928)] := by
  rw [← pack_eq_iff (by grind [Fits, fld, b2n_lt])]
  simp only [encEmset, pack, fld, Clean] at *
  omega

theorem likeEmset_iff {k : Nat → Bool → Instr} (hb : Clean 0 4 base) {w : Nat} :
    Keyed 0 4 base w ∧ likeEmset k w = .ok i ↔
      ∃ p inv, decide (p < 8) = true ∧ encEmset (base + 0x1D00740) p inv = w ∧ k p inv = i := by
  have e := encEmset_eq hb w
  simp only [likeEmset, Dec.need_eq_ok, Option.some.injEq, Holds] at *
  grind [Keyed, fld_bit, fld_lt w 11 3]

theorem encEmget_eq (hb : Clean 0 4 base) (w : Nat) (pd : Nat) (hwf : decide (pd < 8) = true) :
    encEmget (base + 0x3A740) pd = w ↔ Holds w (base / 2 ^ 26) 0 [(4, fld base 0 4), (14, 14964), (3, pd), (5, 0)] := by
  rw [← pack_eq_iff (by grind [Fits, fld])]
  simp only [encEmget, pack, fld, Clean] at *
  omega

theorem likeEmget_iff {k : Nat → Instr} (hb : Clean 0 4 base) {w : Nat} :
    Keyed 0 4 base w ∧ likeEmget k w = .ok i ↔
      ∃ pd, decide (pd < 8) = true ∧ encEmget (base + 0x3A740) pd = w ∧ k pd = i := by
  have e := encEmget_eq hb w
  simp only [likeEmget, Dec.need_eq_ok, Option.some.injEq, Holds] at *
  grind [Keyed, fld_lt w 18 3]

theorem encPfromw_eq (hb : Clean 0 4 base) (w : Nat) (pd : Nat) (a : Src) (bitsForm : Bool)
    (hwf : (decide (pd < 8) && a.wf) = true) :
    encPfromw base pd a bitsForm = w ↔
      Holds w (base / 2 ^ 26) 0 [(4, fld base 0 4), (1, b2n bitsForm), (6, 0), (7, a.code), (3, pd), (5, 0)] := by
  rw [← pack_eq_iff (by grind [Fits, fld, b2n_lt, Src.code_lt])]
  simp only [encPfromw, pack, fld, Clean] at *
  omega

theorem likePfromw_iff {k : Nat → Src → Bool → Instr} (hb : Clean 0 4 base) {w : Nat} :
    Keyed 0 4 base w ∧ likePfromw k w = .ok i ↔
      ∃ pd a bitsForm, (decide (pd < 8) && a.wf) = true ∧ encPfromw base pd a bitsForm = w ∧ k pd a bitsForm = i := by
  have e := encPfromw_eq hb w
  simp only [likePfromw, Dec.need_eq_ok, Src.bind_eq_some, Option.some.injEq, Holds] at *
  grind [Keyed, fld_bit, fld_lt w 18 3]

theorem encPtow_eq (hb : Clean 0 4 base) (w : Nat) (nw : Bool) (d : Dst) (p : Nat) (bitsForm : Bool)
    (hwf : (d.wf && decide (p < 8)) = true) :
    encPtow base nw d p bitsForm = w ↔
      Holds w (base / 2 ^ 26) 0 [(4, fld base 0 4), (1, b2n bitsForm), (6, 0), (3, p), (4, 0), (7, d.code), (1, b2n nw)] := by
  rw [← pack_eq_iff (by grind [Fits, fld, b2n_lt, Dst.code_lt])]
  simp only [encPtow, pack, fld, Clean] at *
  omega

theorem likePtow_iff {k : Bool → Dst → Nat → Bool → Instr} (hb : Clean 0 4 base) {w : Nat} :
    Keyed 0 4 base w ∧ likePtow k w = .ok i ↔
      ∃ nw d p bitsForm, (d.wf && decide (p < 8)) = true ∧ encPtow base nw d p bitsForm = w ∧ k nw d p bitsForm = i := by
  have e := encPtow_eq hb w
  simp only [likePtow, Dec.need_eq_ok, Dst.bind_eq_some, Option.some.injEq, Holds] at *
  grind [Keyed, fld_bit, fld_lt w 11 3]

theorem encPpopc_eq (hb : Clean 0 4 base) (w : Nat) (nw : Bool) (d : Dst) (p : Nat) (hwf : (d.wf && decide (p < 8)) = true) :
    encPpopc (base + 0x740) nw d p = w ↔
      Holds w (base / 2 ^ 26) 0 [(4, fld base 0 4), (7, 116), (3, p), (4, 0), (7, d.code), (1, b2n nw)] := by
  rw [← pack_eq_iff (by grind [Fits, fld, b2n_lt, Dst.code_lt])]
  simp only [encPpopc, pack, fld, Clean] at *
  omega

theorem likePpopc_iff {k : Bool → Dst → Nat → Instr} (hb : Clean 0 4 base) {w : Nat} :
    Keyed 0 4 base w ∧ likePpopc k w = .ok i ↔
      ∃ nw d p, (d.wf && decide (p < 8)) = true ∧ encPpopc (base + 0x740) nw d p = w ∧ k nw d p = i := by
  have e := encPpopc_eq hb w
  simp only [likePpopc, Dec.need_eq_ok, Dst.bind_eq_some, Option.some.injEq, Holds] at *
  grind [Keyed, fld_bit, fld_lt w 11 3]

theorem emrest_eq (hb : Clean 0 4 base) (w : Nat) :
    base + 0x1D3A740 = w ↔ Holds w (base / 2 ^ 26) 0 [(4, fld base 0 4), (22, 1915508)] := by
  rw [← pack_eq_iff (by grind [Fits, fld])]
  simp only [pack, fld, Clean] at *
  omega

theorem likeEmrest_iff {k : Instr} (hb : Clean 0 4 base) {w : Nat} :
    Keyed 0 4 base w ∧ likeEmrest k w = .ok i ↔
      base + 0x1D3A740 = w ∧ k = i := by
  have e := emrest_eq hb w
  simp only [likeEmrest, Dec.need_eq_ok, Option.some.injEq, Holds] at *
  grind [Keyed]

theorem encMfs_eq (hb : Clean 0 4 base) (w : Nat) (nw : Bool) (d : Dst) (num : Nat)
    (hwf : (d.wf && decide (num < 16384)) = true) :
    encMfs base nw d num = w ↔ Holds w (base / 2 ^ 26) 0 [(4, fld base 0 4), (14, num), (7, d.code), (1, b2n nw)] := by
  rw [← pack_eq_iff (by grind [Fits, fld, b2n_lt, Dst.code_lt])]
  simp only [encMfs, pack, fld, Clean] at *
  omega

theorem likeMfs_iff {k : Bool → Dst → Nat → Instr} (hb : Clean 0 4 base) {w : Nat} :
    Keyed 0 4 base w ∧ likeMfs k w = .ok i ↔
      ∃ nw d num, (d.wf && decide (num < 16384)) = true ∧ encMfs base nw d num = w ∧ k nw d num = i := by
  have e := encMfs_eq hb w
  simp only [likeMfs, Dec.need_eq_ok, Dst.bind_eq_some, Option.some.injEq, Holds] at *
  grind [Keyed, fld_bit, fld_lt w 4 14]

theorem encMts_eq (hb : Clean 0 4 base) (w : Nat) (d : Src) (num : Nat) (hwf : (d.wf && decide (num < 16384)) = true) :
    encMts base d num = w ↔ Holds w (base / 2 ^ 26) 0 [(4, fld base 0 4), (14, num), (7, d.code), (1, 0)] := by
  rw [← pack_eq_iff (by grind [Fits, fld, Src.code_lt])]
  simp only [encMts, pack, fld, Clean] at *
  omega

theorem likeMts_iff {k : Src → Nat → Instr} (hb : Clean 0 4 base) {w : Nat} :
    Keyed 0 4 base w ∧ likeMts k w = .ok i ↔
      ∃ d num, (d.wf && decide (num < 16384)) = true ∧ encMts base d num = w ∧ k d num = i := by
  have e := encMts_eq hb w
  simp only [likeMts, Dec.need_eq_ok, Src.bind_eq_some, Option.some.injEq, Holds] at *
  grind [Keyed, fld_lt w 4 14]

theorem encRte_eq (hb : Clean 0 4 base) (w : Nat) (skip : Nat) (hwf : decide (skip < 2) = true) :
    encRte (base + 0x1D3A000) skip = w ↔ Holds w (base / 2 ^ 26) 0 [(4, fld base 0 4), (1, skip), (21, 957696)] := by
  rw [← pack_eq_iff (by grind [Fits, fld])]
  simp only [encRte, pack, fld, Clean] at *
  omega

theorem likeRte_iff {k : Nat → Instr} (hb : Clean 0 4 base) {w : Nat} :
    Keyed 0 4 base w ∧ likeRte k w = .ok i ↔
      ∃ skip, decide (skip < 2) = true ∧ encRte (base + 0x1D3A000) skip = w ∧ k skip = i := by
  have e := encRte_eq hb w
  simp only [likeRte, Dec.need_eq_ok, Option.some.injEq, Holds] at *
  grind [Keyed, fld_lt w 4 1]

theorem encPkset_eq (hb : Clean 0 4 base) (w : Nat) (a : Nat) (hwf : decide (a < 112) = true) :
    encPkset (base + 0x1D00740) a = w ↔ Holds w (base / 2 ^ 26) 0 [(4, fld base 0 4), (7, 116), (7, a), (8, 116)] := by
  rw [← pack_eq_iff (by grind [Fits, fld])]
  simp only [encPkset, pack, fld, Clean] at *
  omega

theorem likePkset_iff {k : Nat → Instr} (hb : Clean 0 4 base) {w : Nat} :
    Keyed 0 4 base w ∧ likePkset k w = .ok i ↔
      ∃ a, decide (a < 112) = true ∧ encPkset (base + 0x1D00740) a = w ∧ k a = i := by
  have e := encPkset_eq hb w
  simp only [likePkset, Dec.need_eq_ok, Option.some.injEq, Holds] at *
  grind [Keyed, fld_lt w 11 7]

theorem encPmap_eq (hb : Clean 0 4 base) (w : Nat) (d : Dst) (a : Nat) (hwf : (d.wf && decide (a < 112)) = true) :
    encPmap (base + 0x740) d a = w ↔ Holds w (base / 2 ^ 26) 0 [(4, fld base 0 4), (7, 116), (7, a), (7, d.code), (1, 0)] := by
  rw [← pack_eq_iff (by grind [Fits, fld, Dst.code_lt])]
  simp only [encPmap, pack, fld, Clean] at *
  omega

theorem likePmap_iff {k : Dst → Nat → Instr} (hb : Clean 0 4 base) {w : Nat} :
    Keyed 0 4 base w ∧ likePmap k w = .ok i ↔
      ∃ d a, (d.wf && decide (a < 112)) = true ∧ encPmap (base + 0x740) d a = w ∧ k d a = i := by
  have e := encPmap_eq hb w
  simp only [likePmap, Dec.need_eq_ok, Dst.bind_eq_some, Option.some.injEq, Holds] at *
  grind [Keyed, fld_lt w 11 7]

theorem encWaitf_eq (hb : Clean 0 4 base) (w : Nat) (d : Dst) (a : Nat) (access : Nat)
    (hwf : (d.wf && decide (a < 112) && decide (access < 3)) = true) :
    encWaitf base d a access = w ↔
      Holds w (base / 2 ^ 26) 0 [(4, fld base 0 4), (2, access), (5, 0), (7, a), (7, d.code), (1, 0)] := by
  rw [← pack_eq_iff (by grind [Fits, fld, Dst.code_lt])]
  simp only [encWaitf, pack, fld, Clean] at *
  omega

theorem likeWaitf_iff {k : Dst → Nat → Nat → Instr} (hb : Clean 0 4 base) {w : Nat} :
    Keyed 0 4 base w ∧ likeWaitf k w = .ok i ↔
      ∃ d a access, (d.wf && decide (a < 112) && decide (access < 3)) = true ∧
        encWaitf base d a access = w ∧ k d a access = i := by
  have e := encWaitf_eq hb w
  simp only [likeWaitf, Dec.need_eq_ok, Dst.bind_eq_some, Option.some.injEq, Holds] at *
  grind [Keyed, fld_lt w 4 2, fld_lt w 11 7]

theorem encScpq_eq (hb : Clean 0 4 base) (w : Nat) (nw : Bool) (d : Dst) (n : Nat) (hwf : (d.wf && decide (n < 16)) = true) :
    encScpq (base + 0x3A000) nw d n = w ↔
      Holds w (base / 2 ^ 26) 0 [(4, fld base 0 4), (4, n), (10, 928), (7, d.code), (1, b2n nw)] := by
  rw [← pack_eq_iff (by grind [Fits, fld, b2n_lt, Dst.code_lt])]
  simp only [encScpq, pack, fld, Clean] at *
  omega

theorem likeScpq_iff {k : Bool → Dst → Nat → Instr} (hb : Clean 0 4 base) {w : Nat} :
    Keyed 0 4 base w ∧ likeScpq k w = .ok i ↔
      ∃ nw d n, (d.wf && decide (n < 16)) = true ∧ encScpq (base + 0x3A000) nw d n = w ∧ k nw d n = i := by
  have e := encScpq_eq hb w
  simp only [likeScpq, Dec.need_eq_ok, Dst.bind_eq_some, Option.some.injEq, Holds] at *
  grind [Keyed, fld_bit, fld_lt w 4 4]

theorem encTimerd_eq (hb : Clean 0 4 base) (w : Nat) (d : Nat) (hwf : decide (d < 112) = true) :
    encTimerd (base + 0x3A740) d = w ↔ Holds w (base / 2 ^ 26) 0 [(4, fld base 0 4), (14, 14964), (7, d), (1, 0)] := by
  rw [← pack_eq_iff (by grind [Fits, fld])]
  simp only [encTimerd, pack, fld, Clean] at *
  omega

theorem likeTimerd_iff {k : Nat → Instr} (hb : Clean 0 4 base) {w : Nat} :
    Keyed 0 4 base w ∧ likeTimerd k w = .ok i ↔
      ∃ d, decide (d < 112) = true ∧ encTimerd (base + 0x3A740) d = w ∧ k d = i := by
  have e := encTimerd_eq hb w
  simp only [likeTimerd, Dec.need_eq_ok, Option.some.injEq, Holds] at *
  grind [Keyed, fld_lt w 18 7]

theorem encBmode_eq (hb : Clean 0 4 base) (w : Nat) (d : Dst) (a : Src) (b : Src) (hwf : (d.wf && a.wf && b.wf) = true) :
    encBmode base d a b = w ↔ Holds w (base / 2 ^ 26) 0 [(4, fld base 0 4), (7, b.code), (7, a.code), (7, d.code), (1, 0)] := by
  rw [← pack_eq_iff (by grind [Fits, fld, Dst.code_lt, Src.code_lt])]
  simp only [encBmode, pack, fld, Clean] at *
  omega

theorem likeBmode_iff {k : Dst → Src → Src → Instr} (hb : Clean 0 4 base) {w : Nat} :
    Keyed 0 4 base w ∧ likeBmode k w = .ok i ↔
      ∃ d a b, (d.wf && a.wf && b.wf) = true ∧ encBmode base d a b = w ∧ k d a b = i := by
  have e := encBmode_eq hb w
  simp only [likeBmode, Dec.need_eq_ok, Dst.bind_eq_some, Src.bind_eq_some, Option.some.injEq, Holds] at *
  grind [Keyed]

theorem encBra_eq (hb : Clean 0 0 base) (w : Nat) (off : Nat) (hwf : decide (off < 67108864) = true) :
    encBra base off = w ↔ Holds w (base / 2 ^ 26) 0 [(26, off)] := by
  rw [← pack_eq_iff (by grind [Fits, fld])]
  simp only [encBra, pack, fld, Clean] at *
  omega

theorem likeBra_iff {k : Nat → Instr} (hb : Clean 0 0 base) {w : Nat} :
    Keyed 0 0 base w ∧ likeBra k w = .ok i ↔
      ∃ off, decide (off < 67108864) = true ∧ encBra base off = w ∧ k off = i := by
  have e := encBra_eq hb w
  simp only [keyed_zero, likeBra, Dec.need_eq_ok, Option.some.injEq, Holds] at *
  grind [fld_lt w 0 26]

theorem encBrd_eq (hb : Clean 0 0 base) (w : Nat) (p : Nat) (n : Bool) (tgt : Nat) (rcv : Nat)
    (hwf : (decide (p < 8) && decide (tgt < 2048) && decide (rcv < 2048)) = true) :
    encBrd base p n tgt rcv = w ↔ Holds w (base / 2 ^ 26) 0 [(11, rcv), (11, tgt), (1, b2n n), (3, p)] := by
  rw [← pack_eq_iff (by grind [Fits, fld, b2n_lt])]
  simp only [encBrd, pack, fld, Clean] at *
  omega

theorem likeBrd_iff {k : Nat → Bool → Nat → Nat → Instr} (hb : Clean 0 0 base) {w : Nat} :
    Keyed 0 0 base w ∧ likeBrd k w = .ok i ↔
      ∃ p n tgt rcv, (decide (p < 8) && decide (tgt < 2048) && decide (rcv < 2048)) = true ∧
        encBrd base p n tgt rcv = w ∧ k p n tgt rcv = i := by
  have e := encBrd_eq hb w
  simp only [keyed_zero, likeBrd, Dec.need_eq_ok, Option.some.injEq, Holds] at *
  grind [fld_bit, fld_lt w 0 11, fld_lt w 11 11, fld_lt w 23 3]

theorem encCall_eq (hb : Clean 0 0 base) (w : Nat) (d : Nat) (imm : Nat)
    (hwf : (decide (d < 112) && decide (imm < 262144)) = true) :
    encCall base d imm = w ↔ Holds w (base / 2 ^ 26) 0 [(18, imm), (7, d), (1, 0)] := by
  rw [← pack_eq_iff (by grind [Fits, fld])]
  simp only [encCall, pack, fld, Clean] at *
  omega

theorem likeCall_iff {k : Nat → Nat → Instr} (hb : Clean 0 0 base) {w : Nat} :
    Keyed 0 0 base w ∧ likeCall k w = .ok i ↔
      ∃ d imm, (decide (d < 112) && decide (imm < 262144)) = true ∧ encCall base d imm = w ∧ k d imm = i := by
  have e := encCall_eq hb w
  simp only [keyed_zero, likeCall, Dec.need_eq_ok, Option.some.injEq, Holds] at *
  grind [fld_lt w 0 18, fld_lt w 18 7]

theorem encCallx_eq (hb : Clean 0 4 base) (w : Nat) (d : Nat) (a : Nat) (hwf : (decide (d < 112) && decide (a < 112)) = true) :
    encCallx (base + 0x740) d a = w ↔ Holds w (base / 2 ^ 26) 0 [(4, fld base 0 4), (7, 116), (7, a), (7, d), (1, 0)] := by
  rw [← pack_eq_iff (by grind [Fits, fld])]
  simp only [encCallx, pack, fld, Clean] at *
  omega

theorem likeCallx_iff {k : Nat → Nat → Instr} (hb : Clean 0 4 base) {w : Nat} :
    Keyed 0 4 base w ∧ likeCallx k w = .ok i ↔
      ∃ d a, (decide (d < 112) && decide (a < 112)) = true ∧ encCallx (base + 0x740) d a = w ∧ k d a = i := by
  have e := encCallx_eq hb w
  simp only [likeCallx, Dec.need_eq_ok, Option.some.injEq, Holds] at *
  grind [Keyed, fld_lt w 11 7, fld_lt w 18 7]

theorem encTrap_eq (hb : Clean 0 4 base) (w : Nat) (code : Nat) (hwf : decide (code < 32) = true) :
    encTrap (base + 0x1D3A000) code = w ↔ Holds w (base / 2 ^ 26) 0 [(4, fld base 0 4), (5, code), (17, 59856)] := by
  rw [← pack_eq_iff (by grind [Fits, fld])]
  simp only [encTrap, pack, fld, Clean] at *
  omega

theorem likeTrap_iff {k : Nat → Instr} (hb : Clean 0 4 base) {w : Nat} :
    Keyed 0 4 base w ∧ likeTrap k w = .ok i ↔
      ∃ code, decide (code < 32) = true ∧ encTrap (base + 0x1D3A000) code = w ∧ k code = i := by
  have e := encTrap_eq hb w
  simp only [likeTrap, Dec.need_eq_ok, Option.some.injEq, Holds] at *
  grind [Keyed, fld_lt w 4 5]

theorem encBar_eq (hb : Clean 0 4 base) (w : Nat) (pd : Nat) (idx : Nat) (hwf : (decide (pd < 8) && decide (idx < 16)) = true) :
    encBar (base + 0x3A000) pd idx = w ↔
      Holds w (base / 2 ^ 26) 0 [(4, fld base 0 4), (4, idx), (10, 928), (3, pd), (5, 0)] := by
  rw [← pack_eq_iff (by grind [Fits, fld])]
  simp only [encBar, pack, fld, Clean] at *
  omega

theorem likeBar_iff {k : Nat → Nat → Instr} (hb : Clean 0 4 base) {w : Nat} :
    Keyed 0 4 base w ∧ likeBar k w = .ok i ↔
      ∃ pd idx, (decide (pd < 8) && decide (idx < 16)) = true ∧ encBar (base + 0x3A000) pd idx = w ∧ k pd idx = i := by
  have e := encBar_eq hb w
  simp only [likeBar, Dec.need_eq_ok, Option.some.injEq, Holds] at *
  grind [Keyed, fld_lt w 4 4, fld_lt w 18 3]

theorem encCbrun_eq (hb : Clean 0 4 base) (w : Nat) (nw : Bool) (d : Dst) (a : Nat) (b : Src)
    (hwf : (d.wf && decide (a < 112) && b.wf) = true) :
    encCbrun base nw d a b = w ↔
      Holds w (base / 2 ^ 26) 0 [(4, fld base 0 4), (7, b.code), (7, a), (7, d.code), (1, b2n nw)] := by
  rw [← pack_eq_iff (by grind [Fits, fld, b2n_lt, Dst.code_lt, Src.code_lt])]
  simp only [encCbrun, pack, fld, Clean] at *
  omega

theorem likeCbrun_iff {k : Bool → Dst → Nat → Src → Instr} (hb : Clean 0 4 base) {w : Nat} :
    Keyed 0 4 base w ∧ likeCbrun k w = .ok i ↔
      ∃ nw d a b, (d.wf && decide (a < 112) && b.wf) = true ∧ encCbrun base nw d a b = w ∧ k nw d a b = i := by
  have e := encCbrun_eq hb w
  simp only [likeCbrun, Dec.need_eq_ok, Dst.bind_eq_some, Src.bind_eq_some, Option.some.injEq, Holds] at *
  grind [Keyed, fld_bit, fld_lt w 11 7]

theorem encLdg_eq (hb : Clean 0 0 base) (w : Nat) (nw : Bool) (mw : MemWidth) (d : LdReg) (a : Nat) (b : Src) (hint : Nat)
    (hwf : (d.wf mw && (!nw || mw.narrow) && decide (a < 56) && b.wf && decide (hint < 4)) = true) :
    encLdg base nw mw d a b hint = w ↔
      Holds w (base / 2 ^ 26) 0 [(2, hint), (3, mw.code), (7, b.code), (6, a), (7, d.code), (1, b2n nw)] := by
  rw [← pack_eq_iff (by grind [Fits, fld, b2n_lt, Src.code_lt, LdReg.code_lt, MemWidth.code_lt])]
  simp only [encLdg, pack, fld, Clean] at *
  omega

theorem likeLdg_iff {k : Bool → MemWidth → LdReg → Nat → Src → Nat → Instr} (hb : Clean 0 0 base) {w : Nat} :
    Keyed 0 0 base w ∧ likeLdg k w = .ok i ↔
      ∃ nw mw d a b hint, (d.wf mw && (!nw || mw.narrow) && decide (a < 56) && b.wf && decide (hint < 4)) = true ∧
        encLdg base nw mw d a b hint = w ∧ k nw mw d a b hint = i := by
  have e := encLdg_eq hb w
  simp only [keyed_zero, likeLdg, Dec.need_eq_ok, LdReg.bind_eq_some, Src.bind_eq_some, Option.some.injEq, Holds] at *
  grind [fld_bit, MemWidth.narrow_eq, b2n, fld_lt w 0 2, fld_lt w 12 6]

theorem encStg_eq (hb : Clean 0 0 base) (w : Nat) (mw : MemWidth) (d : StReg) (a : Nat) (b : Src) (hint : Nat)
    (hwf : (d.wf mw && decide (a < 56) && b.wf && decide (hint < 4)) = true) :
    encStg base mw d a b hint = w ↔
      Holds w (base / 2 ^ 26) 0 [(2, hint), (3, mw.code), (7, b.code), (6, a), (7, d.code), (1, 0)] := by
  rw [← pack_eq_iff (by grind [Fits, fld, Src.code_lt, StReg.code_lt, MemWidth.code_lt])]
  simp only [encStg, pack, fld, Clean] at *
  omega

theorem likeStg_iff {k : MemWidth → StReg → Nat → Src → Nat → Instr} (hb : Clean 0 0 base) {w : Nat} :
    Keyed 0 0 base w ∧ likeStg k w = .ok i ↔
      ∃ mw d a b hint, (d.wf mw && decide (a < 56) && b.wf && decide (hint < 4)) = true ∧
        encStg base mw d a b hint = w ∧ k mw d a b hint = i := by
  have e := encStg_eq hb w
  simp only [keyed_zero, likeStg, Dec.need_eq_ok, StReg.bind_eq_some, Src.bind_eq_some, Option.some.injEq, Holds] at *
  grind [MemWidth.narrow_eq, b2n, fld_lt w 0 2, fld_lt w 12 6]

theorem encLds_eq (hb : Clean 0 0 base) (w : Nat) (nw : Bool) (mw : MemWidth) (d : LdReg) (a : Nat) (b : Src)
    (hwf : (d.wf mw && (!nw || mw.narrow) && decide (a < 56) && b.wf) = true) :
    encLds base nw mw d a b = w ↔
      Holds w (base / 2 ^ 26) 0 [(2, 0), (3, mw.code), (7, b.code), (6, a), (7, d.code), (1, b2n nw)] := by
  rw [← pack_eq_iff (by grind [Fits, fld, b2n_lt, Src.code_lt, LdReg.code_lt, MemWidth.code_lt])]
  simp only [encLds, pack, fld, Clean] at *
  omega

theorem likeLds_iff {k : Bool → MemWidth → LdReg → Nat → Src → Instr} (hb : Clean 0 0 base) {w : Nat} :
    Keyed 0 0 base w ∧ likeLds k w = .ok i ↔
      ∃ nw mw d a b, (d.wf mw && (!nw || mw.narrow) && decide (a < 56) && b.wf) = true ∧
        encLds base nw mw d a b = w ∧ k nw mw d a b = i := by
  have e := encLds_eq hb w
  simp only [keyed_zero, likeLds, Dec.need_eq_ok, LdReg.bind_eq_some, Src.bind_eq_some, Option.some.injEq, Holds] at *
  grind [fld_bit, MemWidth.narrow_eq, b2n, fld_lt w 12 6]

theorem encSts_eq (hb : Clean 0 0 base) (w : Nat) (mw : MemWidth) (d : StReg) (a : Nat) (b : Src)
    (hwf : (d.wf mw && decide (a < 56) && b.wf) = true) :
    encSts base mw d a b = w ↔ Holds w (base / 2 ^ 26) 0 [(2, 0), (3, mw.code), (7, b.code), (6, a), (7, d.code), (1, 0)] := by
  rw [← pack_eq_iff (by grind [Fits, fld, Src.code_lt, StReg.code_lt, MemWidth.code_lt])]
  simp only [encSts, pack, fld, Clean] at *
  omega

theorem likeSts_iff {k : MemWidth → StReg → Nat → Src → Instr} (hb : Clean 0 0 base) {w : Nat} :
    Keyed 0 0 base w ∧ likeSts k w = .ok i ↔
      ∃ mw d a b, (d.wf mw && decide (a < 56) && b.wf) = true ∧ encSts base mw d a b = w ∧ k mw d a b = i := by
  have e := encSts_eq hb w
  simp only [keyed_zero, likeSts, Dec.need_eq_ok, StReg.bind_eq_some, Src.bind_eq_some, Option.some.injEq, Holds] at *
  grind [MemWidth.narrow_eq, b2n, fld_lt w 12 6]

theorem encPref_eq (hb : Clean 2 3 base) (w : Nat) (a : Nat) (b : Src) (hint : Nat)
    (hwf : (decide (a < 56) && b.wf && decide (hint < 4)) = true) :
    encPref (base + 0x1D00000) a b hint = w ↔
      Holds w (base / 2 ^ 26) 0 [(2, hint), (3, fld base 2 3), (7, b.code), (6, a), (8, 116)] := by
  rw [← pack_eq_iff (by grind [Fits, fld, Src.code_lt])]
  simp only [encPref, pack, fld, Clean] at *
  omega

theorem likePref_iff {k : Nat → Src → Nat → Instr} (hb : Clean 2 3 base) {w : Nat} :
    Keyed 2 3 base w ∧ likePref k w = .ok i ↔
      ∃ a b hint, (decide (a < 56) && b.wf && decide (hint < 4)) = true ∧
        encPref (base + 0x1D00000) a b hint = w ∧ k a b hint = i := by
  have e := encPref_eq hb w
  simp only [likePref, Dec.need_eq_ok, Src.bind_eq_some, Option.some.injEq, Holds] at *
  grind [Keyed, fld_lt w 0 2, fld_lt w 12 6]

theorem encAtomiAdd_eq (hb : Clean 0 2 base) (w : Nat) (d : Dst) (a : Nat) (b : Src) (sc : Nat)
    (hwf : (d.wf && decide (a < 56) && b.wf && decide (sc < 16)) = true) :
    encAtomiAdd base d a b sc = w ↔
      Holds w (base / 2 ^ 26) 0 [(2, fld base 0 2), (4, sc), (7, b.code), (6, a), (7, d.code)] := by
  rw [← pack_eq_iff (by grind [Fits, fld, Dst.code_lt, Src.code_lt])]
  simp only [encAtomiAdd, pack, fld, Clean] at *
  omega

theorem likeAtomiAdd_iff {k : Dst → Nat → Src → Nat → Instr} (hb : Clean 0 2 base) {w : Nat} :
    Keyed 0 2 base w ∧ likeAtomiAdd k w = .ok i ↔
      ∃ d a b sc, (d.wf && decide (a < 56) && b.wf && decide (sc < 16)) = true ∧
        encAtomiAdd base d a b sc = w ∧ k d a b sc = i := by
  have e := encAtomiAdd_eq hb w
  simp only [likeAtomiAdd, Dec.need_eq_ok, Dst.bind_eq_some, Src.bind_eq_some, Option.some.injEq, Holds] at *
  grind [Keyed, fld_lt w 2 4, fld_lt w 13 6]

theorem encAtomlCas_eq (hb : Clean 0 2 base) (w : Nat) (d : Dst) (a : Nat) (b : Nat) (sc : Nat)
    (hwf : (d.wf && decide (a < 56) && decide (b < 112) && decide (sc < 16)) = true) :
    encAtomlCas base d a b sc = w ↔ Holds w (base / 2 ^ 26) 0 [(2, fld base 0 2), (4, sc), (7, b), (6, a), (7, d.code)] := by
  rw [← pack_eq_iff (by grind [Fits, fld, Dst.code_lt])]
  simp only [encAtomlCas, pack, fld, Clean] at *
  omega

theorem likeAtomlCas_iff {k : Dst → Nat → Nat → Nat → Instr} (hb : Clean 0 2 base) {w : Nat} :
    Keyed 0 2 base w ∧ likeAtomlCas k w = .ok i ↔
      ∃ d a b sc, (d.wf && decide (a < 56) && decide (b < 112) && decide (sc < 16)) = true ∧
        encAtomlCas base d a b sc = w ∧ k d a b sc = i := by
  have e := encAtomlCas_eq hb w
  simp only [likeAtomlCas, Dec.need_eq_ok, Dst.bind_eq_some, Option.some.injEq, Holds] at *
  grind [Keyed, fld_lt w 2 4, fld_lt w 6 7, fld_lt w 13 6]

theorem encAtomsCas_eq (hb : Clean 0 4 base) (w : Nat) (nw : Bool) (d : Dst) (a : Src) (b : Nat)
    (hwf : (nwAllowed nw d && d.wf && a.wf && decide (b < 112)) = true) :
    encAtomsCas base nw d a b = w ↔
      Holds w (base / 2 ^ 26) 0 [(4, fld base 0 4), (7, b), (7, a.code), (7, d.code), (1, b2n nw)] := by
  rw [← pack_eq_iff (by grind [Fits, fld, b2n_lt, Dst.code_lt, Src.code_lt])]
  simp only [encAtomsCas, pack, fld, Clean] at *
  omega

theorem likeAtomsCas_iff {k : Bool → Dst → Src → Nat → Instr} (hb : Clean 0 4 base) {w : Nat} :
    Keyed 0 4 base w ∧ likeAtomsCas k w = .ok i ↔
      ∃ nw d a b, (nwAllowed nw d && d.wf && a.wf && decide (b < 112)) = true ∧
        encAtomsCas base nw d a b = w ∧ k nw d a b = i := by
  have e := encAtomsCas_eq hb w
  simp only [likeAtomsCas, Dec.need_eq_ok, Dst.bind_eq_some, Src.bind_eq_some, Option.some.injEq, Holds] at *
  grind [Keyed, fld_bit, nwAllowed, atomsNw, Dst.code_eq_z, b2n, fld_lt w 4 7]

theorem encPhrel_eq (hb : Clean 23 3 base) (w : Nat) (sc : Nat) (hwf : decide (sc < 16) = true) :
    encPhrel base sc = w ↔ Holds w (base / 2 ^ 26) 0 [(4, sc), (19, 0), (3, fld base 23 3)] := by
  rw [← pack_eq_iff (by grind [Fits, fld])]
  simp only [encPhrel, pack, fld, Clean] at *
  omega

theorem likePhrel_iff {k : Nat → Instr} (hb : Clean 23 3 base) {w : Nat} :
    Keyed 23 3 base w ∧ likePhrel k w = .ok i ↔
      ∃ sc, decide (sc < 16) = true ∧ encPhrel base sc = w ∧ k sc = i := by
  have e := encPhrel_eq hb w
  simp only [likePhrel, Dec.need_eq_ok, Option.some.injEq, Holds] at *
  grind [Keyed, fld_lt w 0 4]

theorem encBoinit_eq (hb : Clean 0 4 base) (w : Nat) (a : Src) (b : Src) (hwf : (a.wf && b.wf) = true) :
    encBoinit (base + 0x1D00000) a b = w ↔
      Holds w (base / 2 ^ 26) 0 [(4, fld base 0 4), (7, b.code), (7, a.code), (8, 116)] := by
  rw [← pack_eq_iff (by grind [Fits, fld, Src.code_lt])]
  simp only [encBoinit, pack, fld, Clean] at *
  omega

theorem likeBoinit_iff {k : Src → Src → Instr} (hb : Clean 0 4 base) {w : Nat} :
    Keyed 0 4 base w ∧ likeBoinit k w = .ok i ↔
      ∃ a b, (a.wf && b.wf) = true ∧ encBoinit (base + 0x1D00000) a b = w ∧ k a b = i := by
  have e := encBoinit_eq hb w
  simp only [likeBoinit, Dec.need_eq_ok, Src.bind_eq_some, Option.some.injEq, Holds] at *
  grind [Keyed]

theorem encBoarr_eq (hb : Clean 0 4 base) (w : Nat) (pd : Nat) (a : Src) (b : Src)
    (hwf : (decide (pd < 8) && a.wf && b.wf) = true) :
    encBoarr base pd a b = w ↔ Holds w (base / 2 ^ 26) 0 [(4, fld base 0 4), (7, b.code), (7, a.code), (3, pd), (5, 0)] := by
  rw [← pack_eq_iff (by grind [Fits, fld, Src.code_lt])]
  simp only [encBoarr, pack, fld, Clean] at *
  omega

theorem likeBoarr_iff {k : Nat → Src → Src → Instr} (hb : Clean 0 4 base) {w : Nat} :
    Keyed 0 4 base w ∧ likeBoarr k w = .ok i ↔
      ∃ pd a b, (decide (pd < 8) && a.wf && b.wf) = true ∧ encBoarr base pd a b = w ∧ k pd a b = i := by
  have e := encBoarr_eq hb w
  simp only [likeBoarr, Dec.need_eq_ok, Src.bind_eq_some, Option.some.injEq, Holds] at *
  grind [Keyed, fld_lt w 18 3]

theorem encBostat_eq (hb : Clean 0 4 base) (w : Nat) (d : Nat) (a : Src) (hwf : (decide (d < 112) && a.wf) = true) :
    encBostat (base + 0x740) d a = w ↔
      Holds w (base / 2 ^ 26) 0 [(4, fld base 0 4), (7, 116), (7, a.code), (7, d), (1, 0)] := by
  rw [← pack_eq_iff (by grind [Fits, fld, Src.code_lt])]
  simp only [encBostat, pack, fld, Clean] at *
  omega

theorem likeBostat_iff {k : Nat → Src → Instr} (hb : Clean 0 4 base) {w : Nat} :
    Keyed 0 4 base w ∧ likeBostat k w = .ok i ↔
      ∃ d a, (decide (d < 112) && a.wf) = true ∧ encBostat (base + 0x740) d a = w ∧ k d a = i := by
  have e := encBostat_eq hb w
  simp only [likeBostat, Dec.need_eq_ok, Src.bind_eq_some, Option.some.injEq, Holds] at *
  grind [Keyed, fld_lt w 18 7]

theorem encQpush_eq (hb : Clean 0 4 base) (w : Nat) (a : Src) (q : Nat) (hwf : (a.wf && decide (q < 16)) = true) :
    encQpush (base + 0x1D00000) a q = w ↔
      Holds w (base / 2 ^ 26) 0 [(4, fld base 0 4), (4, q), (3, 0), (7, a.code), (8, 116)] := by
  rw [← pack_eq_iff (by grind [Fits, fld, Src.code_lt])]
  simp only [encQpush, pack, fld, Clean] at *
  omega

theorem likeQpush_iff {k : Src → Nat → Instr} (hb : Clean 0 4 base) {w : Nat} :
    Keyed 0 4 base w ∧ likeQpush k w = .ok i ↔
      ∃ a q, (a.wf && decide (q < 16)) = true ∧ encQpush (base + 0x1D00000) a q = w ∧ k a q = i := by
  have e := encQpush_eq hb w
  simp only [likeQpush, Dec.need_eq_ok, Src.bind_eq_some, Option.some.injEq, Holds] at *
  grind [Keyed, fld_lt w 4 4]

theorem encQpushn_eq (hb : Clean 0 4 base) (w : Nat) (d : Nat) (a : Src) (q : Nat)
    (hwf : (decide (d < 112) && a.wf && decide (q < 16)) = true) :
    encQpushn base d a q = w ↔ Holds w (base / 2 ^ 26) 0 [(4, fld base 0 4), (4, q), (3, 0), (7, a.code), (7, d), (1, 0)] := by
  rw [← pack_eq_iff (by grind [Fits, fld, Src.code_lt])]
  simp only [encQpushn, pack, fld, Clean] at *
  omega

theorem likeQpushn_iff {k : Nat → Src → Nat → Instr} (hb : Clean 0 4 base) {w : Nat} :
    Keyed 0 4 base w ∧ likeQpushn k w = .ok i ↔
      ∃ d a q, (decide (d < 112) && a.wf && decide (q < 16)) = true ∧ encQpushn base d a q = w ∧ k d a q = i := by
  have e := encQpushn_eq hb w
  simp only [likeQpushn, Dec.need_eq_ok, Src.bind_eq_some, Option.some.injEq, Holds] at *
  grind [Keyed, fld_lt w 4 4, fld_lt w 18 7]

theorem encQpopn_eq (hb : Clean 0 4 base) (w : Nat) (d : Nat) (q : Nat) (hwf : (decide (d < 112) && decide (q < 16)) = true) :
    encQpopn (base + 0x3A000) d q = w ↔ Holds w (base / 2 ^ 26) 0 [(4, fld base 0 4), (4, q), (10, 928), (7, d), (1, 0)] := by
  rw [← pack_eq_iff (by grind [Fits, fld])]
  simp only [encQpopn, pack, fld, Clean] at *
  omega

theorem likeQpopn_iff {k : Nat → Nat → Instr} (hb : Clean 0 4 base) {w : Nat} :
    Keyed 0 4 base w ∧ likeQpopn k w = .ok i ↔
      ∃ d q, (decide (d < 112) && decide (q < 16)) = true ∧ encQpopn (base + 0x3A000) d q = w ∧ k d q = i := by
  have e := encQpopn_eq hb w
  simp only [likeQpopn, Dec.need_eq_ok, Option.some.injEq, Holds] at *
  grind [Keyed, fld_lt w 4 4, fld_lt w 18 7]

theorem encQcfg_eq (hb : Clean 0 4 base) (w : Nat) (a : Nat) (q : Nat) (hwf : (decide (a < 112) && decide (q < 16)) = true) :
    encQcfg (base + 0x1D00000) a q = w ↔ Holds w (base / 2 ^ 26) 0 [(4, fld base 0 4), (4, q), (3, 0), (7, a), (8, 116)] := by
  rw [← pack_eq_iff (by grind [Fits, fld])]
  simp only [encQcfg, pack, fld, Clean] at *
  omega

theorem likeQcfg_iff {k : Nat → Nat → Instr} (hb : Clean 0 4 base) {w : Nat} :
    Keyed 0 4 base w ∧ likeQcfg k w = .ok i ↔
      ∃ a q, (decide (a < 112) && decide (q < 16)) = true ∧ encQcfg (base + 0x1D00000) a q = w ∧ k a q = i := by
  have e := encQcfg_eq hb w
  simp only [likeQcfg, Dec.need_eq_ok, Option.some.injEq, Holds] at *
  grind [Keyed, fld_lt w 4 4, fld_lt w 11 7]

theorem encQbreak_eq (hb : Clean 0 4 base) (w : Nat) (q : Nat) (hwf : decide (q < 16) = true) :
    encQbreak (base + 0x1D3A000) q = w ↔ Holds w (base / 2 ^ 26) 0 [(4, fld base 0 4), (4, q), (18, 119712)] := by
  rw [← pack_eq_iff (by grind [Fits, fld])]
  simp only [encQbreak, pack, fld, Clean] at *
  omega

theorem likeQbreak_iff {k : Nat → Instr} (hb : Clean 0 4 base) {w : Nat} :
    Keyed 0 4 base w ∧ likeQbreak k w = .ok i ↔
      ∃ q, decide (q < 16) = true ∧ encQbreak (base + 0x1D3A000) q = w ∧ k q = i := by
  have e := encQbreak_eq hb w
  simp only [likeQbreak, Dec.need_eq_ok, Option.some.injEq, Holds] at *
  grind [Keyed, fld_lt w 4 4]

theorem encWtff_eq (hb : Clean 0 4 base) (w : Nat) (nw : Bool) (d : Dst) (a : Nat) (hwf : (d.wf && decide (a < 112)) = true) :
    encWtff (base + 0x740) nw d a = w ↔
      Holds w (base / 2 ^ 26) 0 [(4, fld base 0 4), (7, 116), (7, a), (7, d.code), (1, b2n nw)] := by
  rw [← pack_eq_iff (by grind [Fits, fld, b2n_lt, Dst.code_lt])]
  simp only [encWtff, pack, fld, Clean] at *
  omega

theorem likeWtff_iff {k : Bool → Dst → Nat → Instr} (hb : Clean 0 4 base) {w : Nat} :
    Keyed 0 4 base w ∧ likeWtff k w = .ok i ↔
      ∃ nw d a, (d.wf && decide (a < 112)) = true ∧ encWtff (base + 0x740) nw d a = w ∧ k nw d a = i := by
  have e := encWtff_eq hb w
  simp only [likeWtff, Dec.need_eq_ok, Dst.bind_eq_some, Option.some.injEq, Holds] at *
  grind [Keyed, fld_bit, fld_lt w 11 7]

theorem encSvldPlain_eq (hb : Clean 0 4 base) (w : Nat) (nw : Bool) (d : Dst) (a : Nat) (b : Nat)
    (hwf : (d.wf && decide (a < 112) && decide (b < 112)) = true) :
    encSvldPlain base nw d a b = w ↔
      Holds w (base / 2 ^ 26) 0 [(4, fld base 0 4), (7, b), (7, a), (7, d.code), (1, b2n nw)] := by
  rw [← pack_eq_iff (by grind [Fits, fld, b2n_lt, Dst.code_lt])]
  simp only [encSvldPlain, pack, fld, Clean] at *
  omega

theorem likeSvldPlain_iff {k : Bool → Dst → Nat → Nat → Instr} (hb : Clean 0 4 base) {w : Nat} :
    Keyed 0 4 base w ∧ likeSvldPlain k w = .ok i ↔
      ∃ nw d a b, (d.wf && decide (a < 112) && decide (b < 112)) = true ∧
        encSvldPlain base nw d a b = w ∧ k nw d a b = i := by
  have e := encSvldPlain_eq hb w
  simp only [likeSvldPlain, Dec.need_eq_ok, Dst.bind_eq_some, Option.some.injEq, Holds] at *
  grind [Keyed, fld_bit, fld_lt w 4 7, fld_lt w 11 7]

theorem encTshape_eq (hb : Clean 0 4 base) (w : Nat) (t : Nat) (a : Src) (hwf : (decide (t < 16) && a.wf) = true) :
    encTshape (base + 0x740) t a = w ↔
      Holds w (base / 2 ^ 26) 0 [(4, fld base 0 4), (7, 116), (7, a.code), (4, t), (4, 0)] := by
  rw [← pack_eq_iff (by grind [Fits, fld, Src.code_lt])]
  simp only [encTshape, pack, fld, Clean] at *
  omega

theorem likeTshape_iff {k : Nat → Src → Instr} (hb : Clean 0 4 base) {w : Nat} :
    Keyed 0 4 base w ∧ likeTshape k w = .ok i ↔
      ∃ t a, (decide (t < 16) && a.wf) = true ∧ encTshape (base + 0x740) t a = w ∧ k t a = i := by
  have e := encTshape_eq hb w
  simp only [likeTshape, Dec.need_eq_ok, Src.bind_eq_some, Option.some.injEq, Holds] at *
  grind [Keyed, fld_lt w 18 4]

theorem encTzero_eq (hb : Clean 0 4 base) (w : Nat) (t : Nat) (hwf : decide (t < 16) = true) :
    encTzero (base + 0x3A740) t = w ↔ Holds w (base / 2 ^ 26) 0 [(4, fld base 0 4), (14, 14964), (4, t), (4, 0)] := by
  rw [← pack_eq_iff (by grind [Fits, fld])]
  simp only [encTzero, pack, fld, Clean] at *
  omega

theorem likeTzero_iff {k : Nat → Instr} (hb : Clean 0 4 base) {w : Nat} :
    Keyed 0 4 base w ∧ likeTzero k w = .ok i ↔
      ∃ t, decide (t < 16) = true ∧ encTzero (base + 0x3A740) t = w ∧ k t = i := by
  have e := encTzero_eq hb w
  simp only [likeTzero, Dec.need_eq_ok, Option.some.injEq, Holds] at *
  grind [Keyed, fld_lt w 18 4]

theorem encTtrn_eq (hb : Clean 0 4 base) (w : Nat) (t : Nat) (u : Nat) (hwf : (decide (t < 16) && decide (u < 16)) = true) :
    encTtrn (base + 0x3A000) t u = w ↔ Holds w (base / 2 ^ 26) 0 [(4, fld base 0 4), (4, u), (10, 928), (4, t), (4, 0)] := by
  rw [← pack_eq_iff (by grind [Fits, fld])]
  simp only [encTtrn, pack, fld, Clean] at *
  omega

theorem likeTtrn_iff {k : Nat → Nat → Instr} (hb : Clean 0 4 base) {w : Nat} :
    Keyed 0 4 base w ∧ likeTtrn k w = .ok i ↔
      ∃ t u, (decide (t < 16) && decide (u < 16)) = true ∧ encTtrn (base + 0x3A000) t u = w ∧ k t u = i := by
  have e := encTtrn_eq hb w
  simp only [likeTtrn, Dec.need_eq_ok, Option.some.injEq, Holds] at *
  grind [Keyed, fld_lt w 4 4, fld_lt w 18 4]

theorem encTcvt_eq (hb : Clean 0 4 base) (w : Nat) (t : Nat) (a : Src) (u : Nat)
    (hwf : (decide (t < 16) && a.wf && decide (u < 16)) = true) :
    encTcvt base t a u = w ↔ Holds w (base / 2 ^ 26) 0 [(4, fld base 0 4), (4, u), (3, 0), (7, a.code), (4, t), (4, 0)] := by
  rw [← pack_eq_iff (by grind [Fits, fld, Src.code_lt])]
  simp only [encTcvt, pack, fld, Clean] at *
  omega

theorem likeTcvt_iff {k : Nat → Src → Nat → Instr} (hb : Clean 0 4 base) {w : Nat} :
    Keyed 0 4 base w ∧ likeTcvt k w = .ok i ↔
      ∃ t a u, (decide (t < 16) && a.wf && decide (u < 16)) = true ∧ encTcvt base t a u = w ∧ k t a u = i := by
  have e := encTcvt_eq hb w
  simp only [likeTcvt, Dec.need_eq_ok, Src.bind_eq_some, Option.some.injEq, Holds] at *
  grind [Keyed, fld_lt w 4 4, fld_lt w 18 4]

theorem encTrowr_eq (hb : Clean 0 4 base) (w : Nat) (d : Dst) (a : Src) (t : Nat)
    (hwf : (d.wf && a.wf && decide (t < 16)) = true) :
    encTrowr base d a t = w ↔
      Holds w (base / 2 ^ 26) 0 [(4, fld base 0 4), (4, t), (3, 0), (7, a.code), (7, d.code), (1, 0)] := by
  rw [← pack_eq_iff (by grind [Fits, fld, Dst.code_lt, Src.code_lt])]
  simp only [encTrowr, pack, fld, Clean] at *
  omega

theorem likeTrowr_iff {k : Dst → Src → Nat → Instr} (hb : Clean 0 4 base) {w : Nat} :
    Keyed 0 4 base w ∧ likeTrowr k w = .ok i ↔
      ∃ d a t, (d.wf && a.wf && decide (t < 16)) = true ∧ encTrowr base d a t = w ∧ k d a t = i := by
  have e := encTrowr_eq hb w
  simp only [likeTrowr, Dec.need_eq_ok, Dst.bind_eq_some, Src.bind_eq_some, Option.some.injEq, Holds] at *
  grind [Keyed, fld_lt w 4 4]

theorem encTroww_eq (hb : Clean 0 4 base) (w : Nat) (t : Nat) (a : Src) (b : Src)
    (hwf : (decide (t < 16) && a.wf && b.wf) = true) :
    encTroww base t a b = w ↔ Holds w (base / 2 ^ 26) 0 [(4, fld base 0 4), (7, b.code), (7, a.code), (4, t), (4, 0)] := by
  rw [← pack_eq_iff (by grind [Fits, fld, Src.code_lt])]
  simp only [encTroww, pack, fld, Clean] at *
  omega

theorem likeTroww_iff {k : Nat → Src → Src → Instr} (hb : Clean 0 4 base) {w : Nat} :
    Keyed 0 4 base w ∧ likeTroww k w = .ok i ↔
      ∃ t a b, (decide (t < 16) && a.wf && b.wf) = true ∧ encTroww base t a b = w ∧ k t a b = i := by
  have e := encTroww_eq hb w
  simp only [likeTroww, Dec.need_eq_ok, Src.bind_eq_some, Option.some.injEq, Holds] at *
  grind [Keyed, fld_lt w 18 4]

theorem encTld_eq (hb : Clean 0 4 base) (w : Nat) (t : Nat) (a : Nat) (b : Src)
    (hwf : (decide (t < 16) && decide (a < 112) && b.wf) = true) :
    encTld base t a b = w ↔ Holds w (base / 2 ^ 26) 0 [(4, fld base 0 4), (7, b.code), (7, a), (4, t), (4, 0)] := by
  rw [← pack_eq_iff (by grind [Fits, fld, Src.code_lt])]
  simp only [encTld, pack, fld, Clean] at *
  omega

theorem likeTld_iff {k : Nat → Nat → Src → Instr} (hb : Clean 0 4 base) {w : Nat} :
    Keyed 0 4 base w ∧ likeTld k w = .ok i ↔
      ∃ t a b, (decide (t < 16) && decide (a < 112) && b.wf) = true ∧ encTld base t a b = w ∧ k t a b = i := by
  have e := encTld_eq hb w
  simp only [likeTld, Dec.need_eq_ok, Src.bind_eq_some, Option.some.injEq, Holds] at *
  grind [Keyed, fld_lt w 11 7, fld_lt w 18 4]

theorem encMmaBf16_eq (hb : Clean 0 4 base) (w : Nat) (acc : Nat) (clr : Bool) (ta : Nat) (tb : Nat)
    (hwf : (decide (acc < 4) && decide (ta < 16) && decide (tb < 16)) = true) :
    encMmaBf16 base acc clr ta tb = w ↔
      Holds w (base / 2 ^ 26) 0 [(4, fld base 0 4), (4, tb), (3, 0), (4, ta), (7, 0), (1, b2n clr), (2, acc), (1, 0)] := by
  rw [← pack_eq_iff (by grind [Fits, fld, b2n_lt])]
  simp only [encMmaBf16, pack, fld, Clean] at *
  omega

theorem likeMmaBf16_iff {k : Nat → Bool → Nat → Nat → Instr} (hb : Clean 0 4 base) {w : Nat} :
    Keyed 0 4 base w ∧ likeMmaBf16 k w = .ok i ↔
      ∃ acc clr ta tb, (decide (acc < 4) && decide (ta < 16) && decide (tb < 16)) = true ∧
        encMmaBf16 base acc clr ta tb = w ∧ k acc clr ta tb = i := by
  have e := encMmaBf16_eq hb w
  simp only [likeMmaBf16, Dec.need_eq_ok, Option.some.injEq, Holds] at *
  grind [Keyed, fld_bit, fld_lt w 4 4, fld_lt w 11 4, fld_lt w 23 2]

theorem encAccz_eq (hb : Clean 0 4 base) (w : Nat) (acc : Nat) (a : Src) (hwf : (decide (acc < 4) && a.wf) = true) :
    encAccz (base + 0x1D00000) acc a = w ↔
      Holds w (base / 2 ^ 26) 0 [(4, fld base 0 4), (2, acc), (5, 0), (7, a.code), (8, 116)] := by
  rw [← pack_eq_iff (by grind [Fits, fld, Src.code_lt])]
  simp only [encAccz, pack, fld, Clean] at *
  omega

theorem likeAccz_iff {k : Nat → Src → Instr} (hb : Clean 0 4 base) {w : Nat} :
    Keyed 0 4 base w ∧ likeAccz k w = .ok i ↔
      ∃ acc a, (decide (acc < 4) && a.wf) = true ∧ encAccz (base + 0x1D00000) acc a = w ∧ k acc a = i := by
  have e := encAccz_eq hb w
  simp only [likeAccz, Dec.need_eq_ok, Src.bind_eq_some, Option.some.injEq, Holds] at *
  grind [Keyed, fld_lt w 4 2]

theorem encAccld_eq (hb : Clean 0 4 base) (w : Nat) (acc : Nat) (a : Nat) (c : Src)
    (hwf : (decide (acc < 4) && decide (a < 112) && c.wf) = true) :
    encAccld base acc a c = w ↔
      Holds w (base / 2 ^ 26) 0 [(4, fld base 0 4), (2, acc), (5, 0), (7, a), (7, c.code), (1, 0)] := by
  rw [← pack_eq_iff (by grind [Fits, fld, Src.code_lt])]
  simp only [encAccld, pack, fld, Clean] at *
  omega

theorem likeAccld_iff {k : Nat → Nat → Src → Instr} (hb : Clean 0 4 base) {w : Nat} :
    Keyed 0 4 base w ∧ likeAccld k w = .ok i ↔
      ∃ acc a c, (decide (acc < 4) && decide (a < 112) && c.wf) = true ∧ encAccld base acc a c = w ∧ k acc a c = i := by
  have e := encAccld_eq hb w
  simp only [likeAccld, Dec.need_eq_ok, Src.bind_eq_some, Option.some.injEq, Holds] at *
  grind [Keyed, fld_lt w 4 2, fld_lt w 11 7]

theorem encAccrmax_eq (hb : Clean 0 4 base) (w : Nat) (d : Nat) (acc : Nat) (a : Src)
    (hwf : (decide (d < 112) && decide (acc < 4) && a.wf) = true) :
    encAccrmax base d acc a = w ↔
      Holds w (base / 2 ^ 26) 0 [(4, fld base 0 4), (2, acc), (5, 0), (7, a.code), (7, d), (1, 0)] := by
  rw [← pack_eq_iff (by grind [Fits, fld, Src.code_lt])]
  simp only [encAccrmax, pack, fld, Clean] at *
  omega

theorem likeAccrmax_iff {k : Nat → Nat → Src → Instr} (hb : Clean 0 4 base) {w : Nat} :
    Keyed 0 4 base w ∧ likeAccrmax k w = .ok i ↔
      ∃ d acc a, (decide (d < 112) && decide (acc < 4) && a.wf) = true ∧ encAccrmax base d acc a = w ∧ k d acc a = i := by
  have e := encAccrmax_eq hb w
  simp only [likeAccrmax, Dec.need_eq_ok, Src.bind_eq_some, Option.some.injEq, Holds] at *
  grind [Keyed, fld_lt w 4 2, fld_lt w 18 7]

theorem encAccrscl_eq (hb : Clean 0 4 base) (w : Nat) (acc : Nat) (d : Nat)
    (hwf : (decide (acc < 4) && decide (d < 112)) = true) :
    encAccrscl (base + 0x3A000) acc d = w ↔
      Holds w (base / 2 ^ 26) 0 [(4, fld base 0 4), (2, acc), (12, 3712), (7, d), (1, 0)] := by
  rw [← pack_eq_iff (by grind [Fits, fld])]
  simp only [encAccrscl, pack, fld, Clean] at *
  omega

theorem likeAccrscl_iff {k : Nat → Nat → Instr} (hb : Clean 0 4 base) {w : Nat} :
    Keyed 0 4 base w ∧ likeAccrscl k w = .ok i ↔
      ∃ acc d, (decide (acc < 4) && decide (d < 112)) = true ∧ encAccrscl (base + 0x3A000) acc d = w ∧ k acc d = i := by
  have e := encAccrscl_eq hb w
  simp only [likeAccrscl, Dec.need_eq_ok, Option.some.injEq, Holds] at *
  grind [Keyed, fld_lt w 4 2, fld_lt w 18 7]

theorem encAccroww_eq (hb : Clean 0 4 base) (w : Nat) (acc : Nat) (a : Src) (d : Nat)
    (hwf : (decide (acc < 4) && a.wf && decide (d < 112)) = true) :
    encAccroww base acc a d = w ↔
      Holds w (base / 2 ^ 26) 0 [(4, fld base 0 4), (2, acc), (5, 0), (7, a.code), (7, d), (1, 0)] := by
  rw [← pack_eq_iff (by grind [Fits, fld, Src.code_lt])]
  simp only [encAccroww, pack, fld, Clean] at *
  omega

theorem likeAccroww_iff {k : Nat → Src → Nat → Instr} (hb : Clean 0 4 base) {w : Nat} :
    Keyed 0 4 base w ∧ likeAccroww k w = .ok i ↔
      ∃ acc a d, (decide (acc < 4) && a.wf && decide (d < 112)) = true ∧ encAccroww base acc a d = w ∧ k acc a d = i := by
  have e := encAccroww_eq hb w
  simp only [likeAccroww, Dec.need_eq_ok, Src.bind_eq_some, Option.some.injEq, Holds] at *
  grind [Keyed, fld_lt w 4 2, fld_lt w 18 7]

theorem encAccexp_eq (hb : Clean 0 4 base) (w : Nat) (acc : Nat) (d : Nat) (a : Src)
    (hwf : (decide (acc < 4) && decide (d < 112) && a.wf) = true) :
    encAccexp base acc d a = w ↔
      Holds w (base / 2 ^ 26) 0 [(4, fld base 0 4), (2, acc), (5, 0), (7, a.code), (7, d), (1, 0)] := by
  rw [← pack_eq_iff (by grind [Fits, fld, Src.code_lt])]
  simp only [encAccexp, pack, fld, Clean] at *
  omega

theorem likeAccexp_iff {k : Nat → Nat → Src → Instr} (hb : Clean 0 4 base) {w : Nat} :
    Keyed 0 4 base w ∧ likeAccexp k w = .ok i ↔
      ∃ acc d a, (decide (acc < 4) && decide (d < 112) && a.wf) = true ∧ encAccexp base acc d a = w ∧ k acc d a = i := by
  have e := encAccexp_eq hb w
  simp only [likeAccexp, Dec.need_eq_ok, Src.bind_eq_some, Option.some.injEq, Holds] at *
  grind [Keyed, fld_lt w 4 2, fld_lt w 18 7]

theorem encAccrsum_eq (hb : Clean 0 4 base) (w : Nat) (d : Nat) (acc : Nat)
    (hwf : (decide (d < 112) && decide (acc < 4)) = true) :
    encAccrsum (base + 0x3A000) d acc = w ↔
      Holds w (base / 2 ^ 26) 0 [(4, fld base 0 4), (2, acc), (12, 3712), (7, d), (1, 0)] := by
  rw [← pack_eq_iff (by grind [Fits, fld])]
  simp only [encAccrsum, pack, fld, Clean] at *
  omega

theorem likeAccrsum_iff {k : Nat → Nat → Instr} (hb : Clean 0 4 base) {w : Nat} :
    Keyed 0 4 base w ∧ likeAccrsum k w = .ok i ↔
      ∃ d acc, (decide (d < 112) && decide (acc < 4)) = true ∧ encAccrsum (base + 0x3A000) d acc = w ∧ k d acc = i := by
  have e := encAccrsum_eq hb w
  simp only [likeAccrsum, Dec.need_eq_ok, Option.some.injEq, Holds] at *
  grind [Keyed, fld_lt w 4 2, fld_lt w 18 7]

theorem encAcctot_eq (hb : Clean 0 4 base) (w : Nat) (t : Nat) (acc : Nat) (c : Src)
    (hwf : (decide (t < 16) && decide (acc < 4) && c.wf) = true) :
    encAcctot base t acc c = w ↔
      Holds w (base / 2 ^ 26) 0 [(4, fld base 0 4), (2, acc), (5, 0), (4, t), (3, 0), (7, c.code), (1, 0)] := by
  rw [← pack_eq_iff (by grind [Fits, fld, Src.code_lt])]
  simp only [encAcctot, pack, fld, Clean] at *
  omega

theorem likeAcctot_iff {k : Nat → Nat → Src → Instr} (hb : Clean 0 4 base) {w : Nat} :
    Keyed 0 4 base w ∧ likeAcctot k w = .ok i ↔
      ∃ t acc c, (decide (t < 16) && decide (acc < 4) && c.wf) = true ∧ encAcctot base t acc c = w ∧ k t acc c = i := by
  have e := encAcctot_eq hb w
  simp only [likeAcctot, Dec.need_eq_ok, Src.bind_eq_some, Option.some.injEq, Holds] at *
  grind [Keyed, fld_lt w 4 2, fld_lt w 11 4]

theorem encVld_eq (hb : Clean 0 4 base) (w : Nat) (d : Dst) (a : Src) (b : Nat)
    (hwf : (d.wf && a.wf && decide (b < 112)) = true) :
    encVld base d a b = w ↔ Holds w (base / 2 ^ 26) 0 [(4, fld base 0 4), (7, b), (7, a.code), (7, d.code), (1, 0)] := by
  rw [← pack_eq_iff (by grind [Fits, fld, Dst.code_lt, Src.code_lt])]
  simp only [encVld, pack, fld, Clean] at *
  omega

theorem likeVld_iff {k : Dst → Src → Nat → Instr} (hb : Clean 0 4 base) {w : Nat} :
    Keyed 0 4 base w ∧ likeVld k w = .ok i ↔
      ∃ d a b, (d.wf && a.wf && decide (b < 112)) = true ∧ encVld base d a b = w ∧ k d a b = i := by
  have e := encVld_eq hb w
  simp only [likeVld, Dec.need_eq_ok, Dst.bind_eq_some, Src.bind_eq_some, Option.some.injEq, Holds] at *
  grind [Keyed, fld_lt w 4 7]

theorem encVst_eq (hb : Clean 0 4 base) (w : Nat) (a : Src) (b : Nat) (d : Src)
    (hwf : (a.wf && decide (b < 112) && d.wf) = true) :
    encVst base a b d = w ↔ Holds w (base / 2 ^ 26) 0 [(4, fld base 0 4), (7, b), (7, a.code), (7, d.code), (1, 0)] := by
  rw [← pack_eq_iff (by grind [Fits, fld, Src.code_lt])]
  simp only [encVst, pack, fld, Clean] at *
  omega

theorem likeVst_iff {k : Src → Nat → Src → Instr} (hb : Clean 0 4 base) {w : Nat} :
    Keyed 0 4 base w ∧ likeVst k w = .ok i ↔
      ∃ a b d, (a.wf && decide (b < 112) && d.wf) = true ∧ encVst base a b d = w ∧ k a b d = i := by
  have e := encVst_eq hb w
  simp only [likeVst, Dec.need_eq_ok, Src.bind_eq_some, Option.some.injEq, Holds] at *
  grind [Keyed, fld_lt w 4 7]

theorem encLaunch_eq (hb : Clean 0 4 base) (w : Nat) (d : Nat) (a : Nat) (b : Src)
    (hwf : (decide (d < 112) && decide (a < 112) && b.wf) = true) :
    encLaunch base d a b = w ↔ Holds w (base / 2 ^ 26) 0 [(4, fld base 0 4), (7, b.code), (7, a), (7, d), (1, 0)] := by
  rw [← pack_eq_iff (by grind [Fits, fld, Src.code_lt])]
  simp only [encLaunch, pack, fld, Clean] at *
  omega

theorem likeLaunch_iff {k : Nat → Nat → Src → Instr} (hb : Clean 0 4 base) {w : Nat} :
    Keyed 0 4 base w ∧ likeLaunch k w = .ok i ↔
      ∃ d a b, (decide (d < 112) && decide (a < 112) && b.wf) = true ∧ encLaunch base d a b = w ∧ k d a b = i := by
  have e := encLaunch_eq hb w
  simp only [likeLaunch, Dec.need_eq_ok, Src.bind_eq_some, Option.some.injEq, Holds] at *
  grind [Keyed, fld_lt w 11 7, fld_lt w 18 7]

theorem encLqry_eq (hb : Clean 0 4 base) (w : Nat) (d : Dst) (a : Src) (hwf : (d.wf && a.wf) = true) :
    encLqry (base + 0x740) d a = w ↔
      Holds w (base / 2 ^ 26) 0 [(4, fld base 0 4), (7, 116), (7, a.code), (7, d.code), (1, 0)] := by
  rw [← pack_eq_iff (by grind [Fits, fld, Dst.code_lt, Src.code_lt])]
  simp only [encLqry, pack, fld, Clean] at *
  omega

theorem likeLqry_iff {k : Dst → Src → Instr} (hb : Clean 0 4 base) {w : Nat} :
    Keyed 0 4 base w ∧ likeLqry k w = .ok i ↔
      ∃ d a, (d.wf && a.wf) = true ∧ encLqry (base + 0x740) d a = w ∧ k d a = i := by
  have e := encLqry_eq hb w
  simp only [likeLqry, Dec.need_eq_ok, Dst.bind_eq_some, Src.bind_eq_some, Option.some.injEq, Holds] at *
  grind [Keyed]

theorem encXp_eq (hb : Clean 0 0 base) (w : Nat) (ind : Nat) (xs : Nat) (ext : Nat)
    (hwf : (decide (ind < 8) && decide (xs < 4) && decide (ext < 2097152)) = true) :
    encXp base ind xs ext = w ↔ Holds w (base / 2 ^ 26) 0 [(21, ext), (2, xs), (3, ind)] := by
  rw [← pack_eq_iff (by grind [Fits, fld])]
  simp only [encXp, pack, fld, Clean] at *
  omega

theorem likeXp_iff {k : Nat → Nat → Nat → Instr} (hb : Clean 0 0 base) {w : Nat} :
    Keyed 0 0 base w ∧ likeXp k w = .ok i ↔
      ∃ ind xs ext, (decide (ind < 8) && decide (xs < 4) && decide (ext < 2097152)) = true ∧
        encXp base ind xs ext = w ∧ k ind xs ext = i := by
  have e := encXp_eq hb w
  simp only [keyed_zero, likeXp, Dec.need_eq_ok, Option.some.injEq, Holds] at *
  grind [fld_lt w 0 21, fld_lt w 21 2, fld_lt w 23 3]

end
/-! ## Every word that decodes is an encoding -/

/-- `w` is the word of `i`, an instruction the encodings allow. -/
def Encodes (i : Instr) (w : Nat) : Prop := WellFormed i ∧ i.isWord = true ∧ encode i = w

theorem decIntr_sound {w : Nat} {i : Instr} (hop : w / 2 ^ 26 = 0) (h : decIntr w = .ok i) : Encodes i w := by
  unfold decIntr at h
  split at h
  case h_1 hf | h_2 hf | h_3 hf | h_4 hf | h_5 hf | h_6 hf | h_7 hf | h_8 hf | h_9 hf | h_10 hf | h_11 hf | h_12 hf | h_13 hf |
    h_14 hf | h_15 hf | h_16 hf =>
    obtain ⟨_, _, _, _, hwf, e, rfl⟩ := (likeAdd_iff (by rfl)).mp ⟨keyed_of hop hf (by decide), h⟩
    exact ⟨hwf, rfl, e⟩
  case h_17 => cases h

theorem decLogr_sound {w : Nat} {i : Instr} (hop : w / 2 ^ 26 = 1) (h : decLogr w = .ok i) : Encodes i w := by
  unfold decLogr at h
  split at h
  case h_1 hf | h_2 hf | h_3 hf | h_4 hf | h_5 hf | h_6 hf | h_7 hf | h_8 hf | h_9 hf | h_10 hf | h_14 hf | h_15 hf | h_16 hf =>
    obtain ⟨_, _, _, _, hwf, e, rfl⟩ := (likeAdd_iff (by rfl)).mp ⟨keyed_of hop hf (by decide), h⟩
    exact ⟨hwf, rfl, e⟩
  case h_11 hf | h_12 hf | h_13 hf =>
    obtain ⟨_, _, _, hwf, e, rfl⟩ := (likeClz_iff (by rfl)).mp ⟨keyed_of hop hf (by decide), h⟩
    exact ⟨hwf, rfl, e⟩
  case h_17 => cases h

theorem decShi_sound {w : Nat} {i : Instr} (hop : w / 2 ^ 26 = 7) (h : decShi w = .ok i) : Encodes i w := by
  unfold decShi at h
  split at h
  case h_1 hf | h_2 hf | h_3 hf | h_4 hf =>
    obtain ⟨_, _, _, _, hwf, e, rfl⟩ := (likeShiShl_iff (by rfl)).mp ⟨keyed_of hop hf (by decide), h⟩
    exact ⟨hwf, rfl, e⟩
  case h_5 => cases h

theorem decFpr_sound {w : Nat} {i : Instr} (hop : w / 2 ^ 26 = 12) (h : decFpr w = .ok i) : Encodes i w := by
  unfold decFpr at h
  split at h
  case h_1 hf | h_2 hf | h_3 hf | h_4 hf | h_5 hf | h_6 hf | h_7 hf =>
    obtain ⟨_, _, _, _, hwf, e, rfl⟩ := (likeAdd_iff (by rfl)).mp ⟨keyed_of hop hf (by decide), h⟩
    exact ⟨hwf, rfl, e⟩
  case h_8 hf | h_9 hf | h_10 hf | h_11 hf | h_12 hf | h_13 hf | h_14 hf | h_15 hf | h_16 hf =>
    obtain ⟨_, _, _, hwf, e, rfl⟩ := (likeClz_iff (by rfl)).mp ⟨keyed_of hop hf (by decide), h⟩
    exact ⟨hwf, rfl, e⟩
  case h_17 => cases h

theorem decPk16_sound {w : Nat} {i : Instr} (hop : w / 2 ^ 26 = 14) (h : decPk16 w = .ok i) : Encodes i w := by
  unfold decPk16 at h
  split at h
  case h_1 hf | h_2 hf | h_3 hf | h_4 hf | h_5 hf | h_6 hf | h_7 hf | h_8 hf | h_9 hf | h_10 hf | h_11 hf =>
    obtain ⟨_, _, _, _, hwf, e, rfl⟩ := (likeAdd_iff (by rfl)).mp ⟨keyed_of hop hf (by decide), h⟩
    exact ⟨hwf, rfl, e⟩
  case h_12 hf | h_13 hf =>
    obtain ⟨_, _, _, hwf, e, rfl⟩ := (likeClz_iff (by rfl)).mp ⟨keyed_of hop hf (by decide), h⟩
    exact ⟨hwf, rfl, e⟩
  case h_14 => cases h

theorem decShape_sound {w : Nat} {i : Instr} (hop : w / 2 ^ 26 = 16) (h : decShape w = .ok i) : Encodes i w := by
  unfold decShape at h
  split at h
  case h_1 hf | h_5 hf | h_6 hf =>
    obtain ⟨_, _, _, hwf, e, rfl⟩ := (likeClz_iff (by rfl)).mp ⟨keyed_of hop hf (by decide), h⟩
    exact ⟨hwf, rfl, e⟩
  case h_2 hf | h_3 hf | h_4 hf =>
    obtain ⟨_, hwf, e, rfl⟩ := (likeShaU_iff (by rfl)).mp ⟨keyed_of hop hf (by decide), h⟩
    exact ⟨hwf, rfl, e⟩
  case h_7 hf =>
    obtain ⟨_, _, hwf, e, rfl⟩ := (likeShw_iff (by rfl)).mp ⟨keyed_of hop hf (by decide), h⟩
    exact ⟨hwf, rfl, e⟩
  case h_8 hf =>
    obtain ⟨_, _, hwf, e, rfl⟩ := (likeShn_iff (by rfl)).mp ⟨keyed_of hop hf (by decide), h⟩
    exact ⟨hwf, rfl, e⟩
  case h_9 => cases h

theorem decWin_sound {w : Nat} {i : Instr} (hop : w / 2 ^ 26 = 17) (h : decWin w = .ok i) : Encodes i w := by
  unfold decWin at h
  split at h
  case h_1 hf =>
    obtain ⟨_, hwf, e, rfl⟩ := (likeShaU_iff (by rfl)).mp ⟨keyed_of hop hf (by decide), h⟩
    exact ⟨hwf, rfl, e⟩
  case h_2 hf =>
    obtain ⟨_, hwf, e, rfl⟩ := (likeWbasei_iff (by rfl)).mp ⟨keyed_of hop hf (by decide), h⟩
    exact ⟨hwf, rfl, e⟩
  case h_3 hf | h_8 hf | h_9 hf =>
    obtain ⟨_, _, hwf, e, rfl⟩ := (likeShn_iff (by rfl)).mp ⟨keyed_of hop hf (by decide), h⟩
    exact ⟨hwf, rfl, e⟩
  case h_4 hf =>
    obtain ⟨_, _, hwf, e, rfl⟩ := (likeIxset_iff (by rfl)).mp ⟨keyed_of hop hf (by decide), h⟩
    exact ⟨hwf, rfl, e⟩
  case h_5 hf =>
    obtain ⟨_, _, _, hwf, e, rfl⟩ := (likeIxget_iff (by rfl)).mp ⟨keyed_of hop hf (by decide), h⟩
    exact ⟨hwf, rfl, e⟩
  case h_6 hf | h_7 hf =>
    obtain ⟨_, _, hwf, e, rfl⟩ := (likeRgive_iff (by rfl)).mp ⟨keyed_of hop hf (by decide), h⟩
    exact ⟨hwf, rfl, e⟩
  case h_10 => cases h

theorem decLanex_sound {w : Nat} {i : Instr} (hop : w / 2 ^ 26 = 18) (h : decLanex w = .ok i) : Encodes i w := by
  unfold decLanex at h
  split at h
  case h_1 hf | h_2 hf | h_3 hf | h_4 hf =>
    obtain ⟨_, _, _, _, hwf, e, rfl⟩ := (likeAdd_iff (by rfl)).mp ⟨keyed_of hop hf (by decide), h⟩
    exact ⟨hwf, rfl, e⟩
  case h_5 hf =>
    obtain ⟨_, _, _, _, hwf, e, rfl⟩ := (likeVoteBal_iff (by rfl)).mp ⟨keyed_of hop hf (by decide), h⟩
    exact ⟨hwf, rfl, e⟩
  case h_6 hf | h_7 hf =>
    obtain ⟨_, _, _, hwf, e, rfl⟩ := (likeVoteAny_iff (by rfl)).mp ⟨keyed_of hop hf (by decide), h⟩
    exact ⟨hwf, rfl, e⟩
  case h_8 hf | h_11 hf | h_12 hf | h_13 hf | h_15 hf | h_16 hf =>
    obtain ⟨_, _, _, hwf, e, rfl⟩ := (likeClz_iff (by rfl)).mp ⟨keyed_of hop hf (by decide), h⟩
    exact ⟨hwf, rfl, e⟩
  case h_9 hf | h_10 hf =>
    obtain ⟨_, _, _, _, hwf, e, rfl⟩ := (likeReduxMin_iff (by rfl)).mp ⟨keyed_of hop hf (by decide), h⟩
    exact ⟨hwf, rfl, e⟩
  case h_14 hf =>
    obtain ⟨_, _, _, hwf, e, rfl⟩ := (likeRbal_iff (by rfl)).mp ⟨keyed_of hop hf (by decide), h⟩
    exact ⟨hwf, rfl, e⟩
  case h_17 => cases h

theorem decPred_sound {w : Nat} {i : Instr} (hop : w / 2 ^ 26 = 19) (h : decPred w = .ok i) : Encodes i w := by
  unfold decPred at h
  split at h
  case h_1 hf | h_2 hf | h_3 hf | h_4 hf =>
    obtain ⟨_, _, _, hwf, e, rfl⟩ := (likePand_iff (by rfl)).mp ⟨keyed_of hop hf (by decide), h⟩
    exact ⟨hwf, rfl, e⟩
  case h_5 hf | h_6 hf =>
    obtain ⟨_, _, hwf, e, rfl⟩ := (likePnot_iff (by rfl)).mp ⟨keyed_of hop hf (by decide), h⟩
    exact ⟨hwf, rfl, e⟩
  case h_7 hf =>
    obtain ⟨_, _, hwf, e, rfl⟩ := (likeEmset_iff (by rfl)).mp ⟨keyed_of hop hf (by decide), h⟩
    exact ⟨hwf, rfl, e⟩
  case h_8 hf | h_12 hf =>
    obtain ⟨_, hwf, e, rfl⟩ := (likeEmget_iff (by rfl)).mp ⟨keyed_of hop hf (by decide), h⟩
    exact ⟨hwf, rfl, e⟩
  case h_9 hf =>
    obtain ⟨_, _, _, hwf, e, rfl⟩ := (likePfromw_iff (by rfl)).mp ⟨keyed_of hop hf (by decide), h⟩
    exact ⟨hwf, rfl, e⟩
  case h_10 hf =>
    obtain ⟨_, _, _, _, hwf, e, rfl⟩ := (likePtow_iff (by rfl)).mp ⟨keyed_of hop hf (by decide), h⟩
    exact ⟨hwf, rfl, e⟩
  case h_11 hf =>
    obtain ⟨_, _, _, hwf, e, rfl⟩ := (likePpopc_iff (by rfl)).mp ⟨keyed_of hop hf (by decide), h⟩
    exact ⟨hwf, rfl, e⟩
  case h_13 hf =>
    obtain ⟨e, rfl⟩ := (likeEmrest_iff (by rfl)).mp ⟨keyed_of hop hf (by decide), h⟩
    exact ⟨rfl, rfl, e⟩
  case h_14 => cases h

theorem decSys_sound {w : Nat} {i : Instr} (hop : w / 2 ^ 26 = 21) (h : decSys w = .ok i) : Encodes i w := by
  unfold decSys at h
  split at h
  case h_1 hf =>
    obtain ⟨_, _, _, hwf, e, rfl⟩ := (likeMfs_iff (by rfl)).mp ⟨keyed_of hop hf (by decide), h⟩
    exact ⟨hwf, rfl, e⟩
  case h_2 hf =>
    obtain ⟨_, _, hwf, e, rfl⟩ := (likeMts_iff (by rfl)).mp ⟨keyed_of hop hf (by decide), h⟩
    exact ⟨hwf, rfl, e⟩
  case h_3 hf =>
    obtain ⟨_, hwf, e, rfl⟩ := (likeRte_iff (by rfl)).mp ⟨keyed_of hop hf (by decide), h⟩
    exact ⟨hwf, rfl, e⟩
  case h_4 hf | h_5 hf =>
    obtain ⟨_, hwf, e, rfl⟩ := (likePkset_iff (by rfl)).mp ⟨keyed_of hop hf (by decide), h⟩
    exact ⟨hwf, rfl, e⟩
  case h_6 hf =>
    obtain ⟨_, _, hwf, e, rfl⟩ := (likePmap_iff (by rfl)).mp ⟨keyed_of hop hf (by decide), h⟩
    exact ⟨hwf, rfl, e⟩
  case h_7 hf =>
    obtain ⟨_, _, _, hwf, e, rfl⟩ := (likeWaitf_iff (by rfl)).mp ⟨keyed_of hop hf (by decide), h⟩
    exact ⟨hwf, rfl, e⟩
  case h_8 hf =>
    obtain ⟨_, hwf, e, rfl⟩ := (likeShaU_iff (by rfl)).mp ⟨keyed_of hop hf (by decide), h⟩
    exact ⟨hwf, rfl, e⟩
  case h_9 hf =>
    obtain ⟨_, _, _, hwf, e, rfl⟩ := (likeScpq_iff (by rfl)).mp ⟨keyed_of hop hf (by decide), h⟩
    exact ⟨hwf, rfl, e⟩
  case h_10 hf =>
    obtain ⟨_, hwf, e, rfl⟩ := (likeTimerd_iff (by rfl)).mp ⟨keyed_of hop hf (by decide), h⟩
    exact ⟨hwf, rfl, e⟩
  case h_11 hf =>
    obtain ⟨_, _, _, hwf, e, rfl⟩ := (likeBmode_iff (by rfl)).mp ⟨keyed_of hop hf (by decide), h⟩
    exact ⟨hwf, rfl, e⟩
  case h_12 => cases h

theorem decJmpx_sound {w : Nat} {i : Instr} (hop : w / 2 ^ 26 = 25) (h : decJmpx w = .ok i) : Encodes i w := by
  unfold decJmpx at h
  split at h
  case h_1 hf | h_3 hf =>
    obtain ⟨_, hwf, e, rfl⟩ := (likePkset_iff (by rfl)).mp ⟨keyed_of hop hf (by decide), h⟩
    exact ⟨hwf, rfl, e⟩
  case h_2 hf =>
    obtain ⟨_, _, hwf, e, rfl⟩ := (likeCallx_iff (by rfl)).mp ⟨keyed_of hop hf (by decide), h⟩
    exact ⟨hwf, rfl, e⟩
  case h_4 => cases h

theorem decCtrl_sound {w : Nat} {i : Instr} (hop : w / 2 ^ 26 = 26) (h : decCtrl w = .ok i) : Encodes i w := by
  unfold decCtrl at h
  split at h
  case h_1 hf | h_2 hf | h_3 hf | h_4 hf | h_8 hf | h_10 hf =>
    obtain ⟨e, rfl⟩ := (likeEmrest_iff (by rfl)).mp ⟨keyed_of hop hf (by decide), h⟩
    exact ⟨rfl, rfl, e⟩
  case h_5 hf | h_12 hf =>
    obtain ⟨_, hwf, e, rfl⟩ := (likeShaU_iff (by rfl)).mp ⟨keyed_of hop hf (by decide), h⟩
    exact ⟨hwf, rfl, e⟩
  case h_6 hf =>
    obtain ⟨_, hwf, e, rfl⟩ := (likeTrap_iff (by rfl)).mp ⟨keyed_of hop hf (by decide), h⟩
    exact ⟨hwf, rfl, e⟩
  case h_7 hf =>
    obtain ⟨_, _, hwf, e, rfl⟩ := (likeBar_iff (by rfl)).mp ⟨keyed_of hop hf (by decide), h⟩
    exact ⟨hwf, rfl, e⟩
  case h_9 hf =>
    obtain ⟨_, _, _, _, hwf, e, rfl⟩ := (likeCbrun_iff (by rfl)).mp ⟨keyed_of hop hf (by decide), h⟩
    exact ⟨hwf, rfl, e⟩
  case h_11 hf =>
    obtain ⟨_, _, hwf, e, rfl⟩ := (likeShn_iff (by rfl)).mp ⟨keyed_of hop hf (by decide), h⟩
    exact ⟨hwf, rfl, e⟩
  case h_13 => cases h

theorem decCache_sound {w : Nat} {i : Instr} (hop : w / 2 ^ 26 = 33) (h : decCache w = .ok i) : Encodes i w := by
  unfold decCache at h
  split at h
  case h_1 hf | h_2 hf | h_3 hf | h_4 hf =>
    obtain ⟨_, _, _, hwf, e, rfl⟩ := (likePref_iff (by rfl)).mp ⟨keyed_of hop hf (by decide), h⟩
    exact ⟨hwf, rfl, e⟩
  case h_5 => cases h

theorem decAtomi_sound {w : Nat} {i : Instr} (hop : w / 2 ^ 26 = 34) (h : decAtomi w = .ok i) : Encodes i w := by
  unfold decAtomi at h
  split at h
  case h_1 hf | h_2 hf | h_3 hf | h_4 hf =>
    obtain ⟨_, _, _, _, hwf, e, rfl⟩ := (likeAtomiAdd_iff (by rfl)).mp ⟨keyed_of hop hf (by decide), h⟩
    exact ⟨hwf, rfl, e⟩
  case h_5 => cases h

theorem decAtoml_sound {w : Nat} {i : Instr} (hop : w / 2 ^ 26 = 35) (h : decAtoml w = .ok i) : Encodes i w := by
  unfold decAtoml at h
  split at h
  case h_1 hf | h_2 hf | h_3 hf =>
    obtain ⟨_, _, _, _, hwf, e, rfl⟩ := (likeAtomiAdd_iff (by rfl)).mp ⟨keyed_of hop hf (by decide), h⟩
    exact ⟨hwf, rfl, e⟩
  case h_4 hf =>
    obtain ⟨_, _, _, _, hwf, e, rfl⟩ := (likeAtomlCas_iff (by rfl)).mp ⟨keyed_of hop hf (by decide), h⟩
    exact ⟨hwf, rfl, e⟩
  case h_5 => cases h

theorem decAtomm_sound {w : Nat} {i : Instr} (hop : w / 2 ^ 26 = 36) (h : decAtomm w = .ok i) : Encodes i w := by
  unfold decAtomm at h
  split at h
  case h_1 hf | h_2 hf | h_3 hf | h_4 hf =>
    obtain ⟨_, _, _, _, hwf, e, rfl⟩ := (likeAtomiAdd_iff (by rfl)).mp ⟨keyed_of hop hf (by decide), h⟩
    exact ⟨hwf, rfl, e⟩
  case h_5 => cases h

theorem decAtomf_sound {w : Nat} {i : Instr} (hop : w / 2 ^ 26 = 37) (h : decAtomf w = .ok i) : Encodes i w := by
  unfold decAtomf at h
  split at h
  case h_1 hf | h_2 hf | h_3 hf | h_4 hf =>
    obtain ⟨_, _, _, _, hwf, e, rfl⟩ := (likeAtomiAdd_iff (by rfl)).mp ⟨keyed_of hop hf (by decide), h⟩
    exact ⟨hwf, rfl, e⟩
  case h_5 => cases h

theorem decAtoms_sound {w : Nat} {i : Instr} (hop : w / 2 ^ 26 = 38) (h : decAtoms w = .ok i) : Encodes i w := by
  unfold decAtoms at h
  split at h
  case h_1 hf | h_2 hf | h_3 hf | h_4 hf | h_5 hf | h_6 hf | h_7 hf | h_9 hf | h_10 hf | h_11 hf | h_12 hf | h_13 hf | h_14 hf =>
    obtain ⟨_, _, _, _, hwf, e, rfl⟩ := (likeAtoms_iff (by rfl)).mp ⟨keyed_of hop hf (by decide), h⟩
    exact ⟨hwf, rfl, e⟩
  case h_8 hf =>
    obtain ⟨_, _, _, _, hwf, e, rfl⟩ := (likeAtomsCas_iff (by rfl)).mp ⟨keyed_of hop hf (by decide), h⟩
    exact ⟨hwf, rfl, e⟩
  case h_15 => cases h

theorem decPhase_sound {w : Nat} {i : Instr} (hop : w / 2 ^ 26 = 39) (h : decPhase w = .ok i) : Encodes i w := by
  unfold decPhase at h
  split at h
  case h_1 hf | h_2 hf | h_3 hf =>
    obtain ⟨_, hwf, e, rfl⟩ := (likePhrel_iff (by rfl)).mp ⟨keyed_of hop hf (by decide), h⟩
    exact ⟨hwf, rfl, e⟩
  case h_4 => cases h

theorem decBobj_sound {w : Nat} {i : Instr} (hop : w / 2 ^ 26 = 40) (h : decBobj w = .ok i) : Encodes i w := by
  unfold decBobj at h
  split at h
  case h_1 hf | h_3 hf =>
    obtain ⟨_, _, hwf, e, rfl⟩ := (likeBoinit_iff (by rfl)).mp ⟨keyed_of hop hf (by decide), h⟩
    exact ⟨hwf, rfl, e⟩
  case h_2 hf | h_4 hf | h_5 hf | h_6 hf =>
    obtain ⟨_, _, _, hwf, e, rfl⟩ := (likeBoarr_iff (by rfl)).mp ⟨keyed_of hop hf (by decide), h⟩
    exact ⟨hwf, rfl, e⟩
  case h_7 hf =>
    obtain ⟨_, _, hwf, e, rfl⟩ := (likeBostat_iff (by rfl)).mp ⟨keyed_of hop hf (by decide), h⟩
    exact ⟨hwf, rfl, e⟩
  case h_8 => cases h

theorem decQueue_sound {w : Nat} {i : Instr} (hop : w / 2 ^ 26 = 41) (h : decQueue w = .ok i) : Encodes i w := by
  unfold decQueue at h
  split at h
  case h_1 hf | h_5 hf =>
    obtain ⟨_, _, hwf, e, rfl⟩ := (likeQpush_iff (by rfl)).mp ⟨keyed_of hop hf (by decide), h⟩
    exact ⟨hwf, rfl, e⟩
  case h_2 hf | h_7 hf =>
    obtain ⟨_, _, _, hwf, e, rfl⟩ := (likeScpq_iff (by rfl)).mp ⟨keyed_of hop hf (by decide), h⟩
    exact ⟨hwf, rfl, e⟩
  case h_3 hf =>
    obtain ⟨_, _, _, hwf, e, rfl⟩ := (likeQpushn_iff (by rfl)).mp ⟨keyed_of hop hf (by decide), h⟩
    exact ⟨hwf, rfl, e⟩
  case h_4 hf =>
    obtain ⟨_, _, hwf, e, rfl⟩ := (likeQpopn_iff (by rfl)).mp ⟨keyed_of hop hf (by decide), h⟩
    exact ⟨hwf, rfl, e⟩
  case h_6 hf =>
    obtain ⟨_, _, hwf, e, rfl⟩ := (likeQcfg_iff (by rfl)).mp ⟨keyed_of hop hf (by decide), h⟩
    exact ⟨hwf, rfl, e⟩
  case h_8 hf =>
    obtain ⟨_, hwf, e, rfl⟩ := (likeQbreak_iff (by rfl)).mp ⟨keyed_of hop hf (by decide), h⟩
    exact ⟨hwf, rfl, e⟩
  case h_9 => cases h

theorem decCopy_sound {w : Nat} {i : Instr} (hop : w / 2 ^ 26 = 42) (h : decCopy w = .ok i) : Encodes i w := by
  unfold decCopy at h
  split at h
  case h_1 hf | h_2 hf | h_3 hf | h_4 hf | h_6 hf =>
    obtain ⟨_, hwf, e, rfl⟩ := (likePkset_iff (by rfl)).mp ⟨keyed_of hop hf (by decide), h⟩
    exact ⟨hwf, rfl, e⟩
  case h_5 hf =>
    obtain ⟨_, _, _, hwf, e, rfl⟩ := (likeWtff_iff (by rfl)).mp ⟨keyed_of hop hf (by decide), h⟩
    exact ⟨hwf, rfl, e⟩
  case h_7 hf =>
    obtain ⟨_, _, _, hwf, e, rfl⟩ := (likeIxget_iff (by rfl)).mp ⟨keyed_of hop hf (by decide), h⟩
    exact ⟨hwf, rfl, e⟩
  case h_8 hf =>
    obtain ⟨_, _, hwf, e, rfl⟩ := (likeShn_iff (by rfl)).mp ⟨keyed_of hop hf (by decide), h⟩
    exact ⟨hwf, rfl, e⟩
  case h_9 => cases h

theorem decSvld_sound {w : Nat} {i : Instr} (hop : w / 2 ^ 26 = 43) (h : decSvld w = .ok i) : Encodes i w := by
  unfold decSvld at h
  split at h
  case h_1 hf | h_2 hf | h_3 hf | h_4 hf =>
    obtain ⟨_, _, _, _, hwf, e, rfl⟩ := (likeSvldPlain_iff (by rfl)).mp ⟨keyed_of hop hf (by decide), h⟩
    exact ⟨hwf, rfl, e⟩
  case h_5 => cases h

theorem decTcfg_sound {w : Nat} {i : Instr} (hop : w / 2 ^ 26 = 44) (h : decTcfg w = .ok i) : Encodes i w := by
  unfold decTcfg at h
  split at h
  case h_1 hf | h_2 hf | h_3 hf =>
    obtain ⟨_, _, hwf, e, rfl⟩ := (likeTshape_iff (by rfl)).mp ⟨keyed_of hop hf (by decide), h⟩
    exact ⟨hwf, rfl, e⟩
  case h_4 hf =>
    obtain ⟨_, _, hwf, e, rfl⟩ := (likeQpopn_iff (by rfl)).mp ⟨keyed_of hop hf (by decide), h⟩
    exact ⟨hwf, rfl, e⟩
  case h_5 hf =>
    obtain ⟨_, hwf, e, rfl⟩ := (likeTzero_iff (by rfl)).mp ⟨keyed_of hop hf (by decide), h⟩
    exact ⟨hwf, rfl, e⟩
  case h_6 hf =>
    obtain ⟨_, _, hwf, e, rfl⟩ := (likeTtrn_iff (by rfl)).mp ⟨keyed_of hop hf (by decide), h⟩
    exact ⟨hwf, rfl, e⟩
  case h_7 hf =>
    obtain ⟨_, _, _, hwf, e, rfl⟩ := (likeTcvt_iff (by rfl)).mp ⟨keyed_of hop hf (by decide), h⟩
    exact ⟨hwf, rfl, e⟩
  case h_8 hf =>
    obtain ⟨_, _, _, hwf, e, rfl⟩ := (likeTrowr_iff (by rfl)).mp ⟨keyed_of hop hf (by decide), h⟩
    exact ⟨hwf, rfl, e⟩
  case h_9 hf =>
    obtain ⟨_, _, _, hwf, e, rfl⟩ := (likeTroww_iff (by rfl)).mp ⟨keyed_of hop hf (by decide), h⟩
    exact ⟨hwf, rfl, e⟩
  case h_10 => cases h

theorem decTld_sound {w : Nat} {i : Instr} (hop : w / 2 ^ 26 = 45) (h : decTld w = .ok i) : Encodes i w := by
  unfold decTld at h
  split at h
  case h_1 hf =>
    obtain ⟨_, _, _, hwf, e, rfl⟩ := (likeTld_iff (by rfl)).mp ⟨keyed_of hop hf (by decide), h⟩
    exact ⟨hwf, rfl, e⟩
  case h_2 => cases h

theorem decTst_sound {w : Nat} {i : Instr} (hop : w / 2 ^ 26 = 46) (h : decTst w = .ok i) : Encodes i w := by
  unfold decTst at h
  split at h
  case h_1 hf =>
    obtain ⟨_, _, _, hwf, e, rfl⟩ := (likeTld_iff (by rfl)).mp ⟨keyed_of hop hf (by decide), h⟩
    exact ⟨hwf, rfl, e⟩
  case h_2 => cases h

theorem decMma_sound {w : Nat} {i : Instr} (hop : w / 2 ^ 26 = 47) (h : decMma w = .ok i) : Encodes i w := by
  unfold decMma at h
  split at h
  case h_1 hf | h_2 hf | h_3 hf | h_4 hf | h_5 hf | h_6 hf | h_7 hf | h_8 hf | h_9 hf | h_10 hf | h_11 hf | h_12 hf | h_13 hf =>
    obtain ⟨_, _, _, _, hwf, e, rfl⟩ := (likeMmaBf16_iff (by rfl)).mp ⟨keyed_of hop hf (by decide), h⟩
    exact ⟨hwf, rfl, e⟩
  case h_14 => cases h

theorem decAcc_sound {w : Nat} {i : Instr} (hop : w / 2 ^ 26 = 48) (h : decAcc w = .ok i) : Encodes i w := by
  unfold decAcc at h
  split at h
  case h_1 hf =>
    obtain ⟨_, _, hwf, e, rfl⟩ := (likeAccz_iff (by rfl)).mp ⟨keyed_of hop hf (by decide), h⟩
    exact ⟨hwf, rfl, e⟩
  case h_2 hf | h_3 hf | h_4 hf | h_5 hf =>
    obtain ⟨_, _, _, hwf, e, rfl⟩ := (likeAccld_iff (by rfl)).mp ⟨keyed_of hop hf (by decide), h⟩
    exact ⟨hwf, rfl, e⟩
  case h_6 hf | h_8 hf =>
    obtain ⟨_, _, _, hwf, e, rfl⟩ := (likeAccrmax_iff (by rfl)).mp ⟨keyed_of hop hf (by decide), h⟩
    exact ⟨hwf, rfl, e⟩
  case h_7 hf =>
    obtain ⟨_, _, hwf, e, rfl⟩ := (likeAccrscl_iff (by rfl)).mp ⟨keyed_of hop hf (by decide), h⟩
    exact ⟨hwf, rfl, e⟩
  case h_9 hf =>
    obtain ⟨_, _, _, hwf, e, rfl⟩ := (likeAccroww_iff (by rfl)).mp ⟨keyed_of hop hf (by decide), h⟩
    exact ⟨hwf, rfl, e⟩
  case h_10 hf =>
    obtain ⟨_, _, _, hwf, e, rfl⟩ := (likeAccexp_iff (by rfl)).mp ⟨keyed_of hop hf (by decide), h⟩
    exact ⟨hwf, rfl, e⟩
  case h_11 hf =>
    obtain ⟨_, _, hwf, e, rfl⟩ := (likeAccrsum_iff (by rfl)).mp ⟨keyed_of hop hf (by decide), h⟩
    exact ⟨hwf, rfl, e⟩
  case h_12 hf =>
    obtain ⟨_, _, _, hwf, e, rfl⟩ := (likeAcctot_iff (by rfl)).mp ⟨keyed_of hop hf (by decide), h⟩
    exact ⟨hwf, rfl, e⟩
  case h_13 => cases h

theorem decTseq_sound {w : Nat} {i : Instr} (hop : w / 2 ^ 26 = 49) (h : decTseq w = .ok i) : Encodes i w := by
  unfold decTseq at h
  split at h
  case h_1 hf | h_2 hf | h_3 hf | h_4 hf | h_5 hf | h_6 hf | h_7 hf | h_8 hf | h_9 hf | h_10 hf | h_11 hf | h_12 hf | h_13 hf =>
    obtain ⟨_, _, _, _, hwf, e, rfl⟩ := (likeMmaBf16_iff (by rfl)).mp ⟨keyed_of hop hf (by decide), h⟩
    exact ⟨hwf, rfl, e⟩
  case h_14 => cases h

theorem decVol_sound {w : Nat} {i : Instr} (hop : w / 2 ^ 26 = 50) (h : decVol w = .ok i) : Encodes i w := by
  unfold decVol at h
  split at h
  case h_1 hf | h_3 hf =>
    obtain ⟨_, _, _, hwf, e, rfl⟩ := (likeVld_iff (by rfl)).mp ⟨keyed_of hop hf (by decide), h⟩
    exact ⟨hwf, rfl, e⟩
  case h_2 hf | h_4 hf =>
    obtain ⟨_, _, _, hwf, e, rfl⟩ := (likeVst_iff (by rfl)).mp ⟨keyed_of hop hf (by decide), h⟩
    exact ⟨hwf, rfl, e⟩
  case h_5 hf =>
    obtain ⟨_, hwf, e, rfl⟩ := (likeShaU_iff (by rfl)).mp ⟨keyed_of hop hf (by decide), h⟩
    exact ⟨hwf, rfl, e⟩
  case h_6 hf =>
    obtain ⟨_, _, hwf, e, rfl⟩ := (likeBostat_iff (by rfl)).mp ⟨keyed_of hop hf (by decide), h⟩
    exact ⟨hwf, rfl, e⟩
  case h_7 => cases h

theorem decSnap_sound {w : Nat} {i : Instr} (hop : w / 2 ^ 26 = 51) (h : decSnap w = .ok i) : Encodes i w := by
  unfold decSnap at h
  split at h
  case h_1 hf =>
    obtain ⟨_, _, hwf, e, rfl⟩ := (likeQpopn_iff (by rfl)).mp ⟨keyed_of hop hf (by decide), h⟩
    exact ⟨hwf, rfl, e⟩
  case h_2 hf =>
    obtain ⟨_, hwf, e, rfl⟩ := (likeTimerd_iff (by rfl)).mp ⟨keyed_of hop hf (by decide), h⟩
    exact ⟨hwf, rfl, e⟩
  case h_3 => cases h

theorem decLaunch_sound {w : Nat} {i : Instr} (hop : w / 2 ^ 26 = 52) (h : decLaunch w = .ok i) : Encodes i w := by
  unfold decLaunch at h
  split at h
  case h_1 hf | h_2 hf =>
    obtain ⟨_, _, _, hwf, e, rfl⟩ := (likeLaunch_iff (by rfl)).mp ⟨keyed_of hop hf (by decide), h⟩
    exact ⟨hwf, rfl, e⟩
  case h_3 hf =>
    obtain ⟨_, _, _, hwf, e, rfl⟩ := (likeBmode_iff (by rfl)).mp ⟨keyed_of hop hf (by decide), h⟩
    exact ⟨hwf, rfl, e⟩
  case h_4 hf =>
    obtain ⟨_, _, hwf, e, rfl⟩ := (likeLqry_iff (by rfl)).mp ⟨keyed_of hop hf (by decide), h⟩
    exact ⟨hwf, rfl, e⟩
  case h_5 => cases h

/-- Every word that decodes is the encoding of what it decodes to. -/
theorem decodeWord_sound {w : Nat} {i : Instr} (lt : w < 2 ^ 32) (h : decodeWord w = .ok i) : Encodes i w := by
  have opcode : fld w 26 6 = w / 2 ^ 26 := Nat.mod_eq_of_lt (by omega)
  rw [decodeWord, opcode] at h
  split at h
  case h_1 hop => exact decIntr_sound hop h
  case h_2 hop => exact decLogr_sound hop h
  case h_8 hop => exact decShi_sound hop h
  case h_13 hop => exact decFpr_sound hop h
  case h_15 hop => exact decPk16_sound hop h
  case h_17 hop => exact decShape_sound hop h
  case h_18 hop => exact decWin_sound hop h
  case h_19 hop => exact decLanex_sound hop h
  case h_20 hop => exact decPred_sound hop h
  case h_22 hop => exact decSys_sound hop h
  case h_26 hop => exact decJmpx_sound hop h
  case h_27 hop => exact decCtrl_sound hop h
  case h_34 hop => exact decCache_sound hop h
  case h_35 hop => exact decAtomi_sound hop h
  case h_36 hop => exact decAtoml_sound hop h
  case h_37 hop => exact decAtomm_sound hop h
  case h_38 hop => exact decAtomf_sound hop h
  case h_39 hop => exact decAtoms_sound hop h
  case h_40 hop => exact decPhase_sound hop h
  case h_41 hop => exact decBobj_sound hop h
  case h_42 hop => exact decQueue_sound hop h
  case h_43 hop => exact decCopy_sound hop h
  case h_44 hop => exact decSvld_sound hop h
  case h_45 hop => exact decTcfg_sound hop h
  case h_46 hop => exact decTld_sound hop h
  case h_47 hop => exact decTst_sound hop h
  case h_48 hop => exact decMma_sound hop h
  case h_49 hop => exact decAcc_sound hop h
  case h_50 hop => exact decTseq_sound hop h
  case h_51 hop => exact decVol_sound hop h
  case h_52 hop => exact decSnap_sound hop h
  case h_53 hop => exact decLaunch_sound hop h
  case h_3 hop | h_4 hop | h_5 hop | h_6 hop | h_7 hop =>
    obtain ⟨_, _, _, _, hwf, e, rfl⟩ := (likeAddi_iff (by rfl)).mp ⟨keyed_zero_of hop, h⟩
    exact ⟨hwf, rfl, e⟩
  case h_9 hop | h_10 hop =>
    obtain ⟨_, _, _, hwf, e, rfl⟩ := (likeLi_iff (by rfl)).mp ⟨keyed_zero_of hop, h⟩
    exact ⟨hwf, rfl, e⟩
  case h_11 hop =>
    obtain ⟨_, _, _, _, _, _, hwf, e, rfl⟩ := (likeCmp_iff (by rfl)).mp ⟨keyed_zero_of hop, h⟩
    exact ⟨hwf, rfl, e⟩
  case h_12 hop =>
    obtain ⟨_, _, _, _, hwf, e, rfl⟩ := (likeCmpi_iff (by rfl)).mp ⟨keyed_zero_of hop, h⟩
    exact ⟨hwf, rfl, e⟩
  case h_14 hop =>
    obtain ⟨_, _, _, _, _, _, hwf, e, rfl⟩ := (likeFcmp_iff (by rfl)).mp ⟨keyed_zero_of hop, h⟩
    exact ⟨hwf, rfl, e⟩
  case h_16 hop =>
    obtain ⟨_, _, _, _, _, _, hwf, e, rfl⟩ := (likeCvt_iff (by rfl)).mp ⟨keyed_zero_of hop, h⟩
    exact ⟨hwf, rfl, e⟩
  case h_21 hop =>
    obtain ⟨_, _, _, _, _, _, hwf, e, rfl⟩ := (likeSel_iff (by rfl)).mp ⟨keyed_zero_of hop, h⟩
    exact ⟨hwf, rfl, e⟩
  case h_23 hop =>
    obtain ⟨_, hwf, e, rfl⟩ := (likeBra_iff (by rfl)).mp ⟨keyed_zero_of hop, h⟩
    exact ⟨hwf, rfl, e⟩
  case h_24 hop =>
    obtain ⟨_, _, _, _, hwf, e, rfl⟩ := (likeBrd_iff (by rfl)).mp ⟨keyed_zero_of hop, h⟩
    exact ⟨hwf, rfl, e⟩
  case h_25 hop =>
    obtain ⟨_, _, hwf, e, rfl⟩ := (likeCall_iff (by rfl)).mp ⟨keyed_zero_of hop, h⟩
    exact ⟨hwf, rfl, e⟩
  case h_28 hop | h_32 hop =>
    obtain ⟨_, _, _, _, _, _, hwf, e, rfl⟩ := (likeLdg_iff (by rfl)).mp ⟨keyed_zero_of hop, h⟩
    exact ⟨hwf, rfl, e⟩
  case h_29 hop | h_33 hop =>
    obtain ⟨_, _, _, _, _, hwf, e, rfl⟩ := (likeStg_iff (by rfl)).mp ⟨keyed_zero_of hop, h⟩
    exact ⟨hwf, rfl, e⟩
  case h_30 hop =>
    obtain ⟨_, _, _, _, _, hwf, e, rfl⟩ := (likeLds_iff (by rfl)).mp ⟨keyed_zero_of hop, h⟩
    exact ⟨hwf, rfl, e⟩
  case h_31 hop =>
    obtain ⟨_, _, _, _, hwf, e, rfl⟩ := (likeSts_iff (by rfl)).mp ⟨keyed_zero_of hop, h⟩
    exact ⟨hwf, rfl, e⟩
  case h_54 hop =>
    obtain ⟨_, _, _, hwf, e, rfl⟩ := (likeXp_iff (by rfl)).mp ⟨keyed_zero_of hop, h⟩
    exact ⟨hwf, rfl, e⟩
  case h_55 => cases h

/-! ## Every encoding decodes -/

/-- A word with the key of `base`, which the decoder hands to `dec` by that key, decodes as `dec` says. -/
theorem decodeWord_of_keyed {lo n base w : Nat} {i : Instr} {dec : Nat → Dec} (hb : base < 2 ^ 32)
    (h : Keyed lo n base w ∧ dec w = .ok i) (sel : ∀ v, Keyed lo n base v → decodeWord v = dec v) :
    w < 2 ^ 32 ∧ decodeWord w = .ok i := by
  obtain ⟨key, ok⟩ := h
  have top := key.1
  exact ⟨by omega, (sel w key).trans ok⟩

/-- Every instruction the encodings allow has a word, which decodes to it. -/
theorem decodeWord_encode {i : Instr} (hwf : WellFormed i) (word : i.isWord = true) :
    encode i < 2 ^ 32 ∧ decodeWord (encode i) = .ok i := by
  cases i
  case add nw d a b | sub nw d a b | mul nw d a b | mulhS nw d a b | mulhN nw d a b | mad nw d a b | divS nw d a b |
    divN nw d a b | remS nw d a b | remN nw d a b | minS nw d a b | minN nw d a b | maxS nw d a b | maxN nw d a b |
    addsS nw d a b | subsS nw d a b =>
    exact decodeWord_of_keyed (by decide) ((likeAdd_iff (by rfl)).mpr ⟨nw, d, a, b, hwf, rfl, rfl⟩)
      fun v key => by rw [decodeWord, fld, key.1, decIntr, key.2]; rfl
  case andR nw d a b | orR nw d a b | xorR nw d a b | andn nw d a b | orn nw d a b | xnor nw d a b | shl nw d a b |
    shr nw d a b | sar nw d a b | rotl nw d a b | bfxN nw d a b | bfxS nw d a b | bfi nw d a b =>
    exact decodeWord_of_keyed (by decide) ((likeAdd_iff (by rfl)).mpr ⟨nw, d, a, b, hwf, rfl, rfl⟩)
      fun v key => by rw [decodeWord, fld, key.1, decLogr, key.2]; rfl
  case clz nw d a | popc nw d a | brev nw d a =>
    exact decodeWord_of_keyed (by decide) ((likeClz_iff (by rfl)).mpr ⟨nw, d, a, hwf, rfl, rfl⟩)
      fun v key => by rw [decodeWord, fld, key.1, decLogr, key.2]; rfl
  case shiShl nw d a amt | shiShr nw d a amt | shiSar nw d a amt | shiRotl nw d a amt =>
    exact decodeWord_of_keyed (by decide) ((likeShiShl_iff (by rfl)).mpr ⟨nw, d, a, amt, hwf, rfl, rfl⟩)
      fun v key => by rw [decodeWord, fld, key.1, decShi, key.2]; rfl
  case fadd nw d a b | fsub nw d a b | fmul nw d a b | fma nw d a b | fms nw d a b | fmin nw d a b | fmax nw d a b =>
    exact decodeWord_of_keyed (by decide) ((likeAdd_iff (by rfl)).mpr ⟨nw, d, a, b, hwf, rfl, rfl⟩)
      fun v key => by rw [decodeWord, fld, key.1, decFpr, key.2]; rfl
  case fneg nw d a | fabs nw d a | frcp nw d a | frsq nw d a | fsqrt nw d a | fexp2 nw d a | flog2 nw d a | fsin nw d a |
    ftanh nw d a =>
    exact decodeWord_of_keyed (by decide) ((likeClz_iff (by rfl)).mpr ⟨nw, d, a, hwf, rfl, rfl⟩)
      fun v key => by rw [decodeWord, fld, key.1, decFpr, key.2]; rfl
  case hadd2Bf16 nw d a b | hmul2Bf16 nw d a b | hfma2Bf16 nw d a b | hmin2Bf16 nw d a b | hmax2Bf16 nw d a b |
    hadd2F16 nw d a b | hmul2F16 nw d a b | hfma2F16 nw d a b | hmin2F16 nw d a b | hmax2F16 nw d a b | pack2 nw d a b =>
    exact decodeWord_of_keyed (by decide) ((likeAdd_iff (by rfl)).mpr ⟨nw, d, a, b, hwf, rfl, rfl⟩)
      fun v key => by rw [decodeWord, fld, key.1, decPk16, key.2]; rfl
  case unpkLo nw d a | unpkHi nw d a =>
    exact decodeWord_of_keyed (by decide) ((likeClz_iff (by rfl)).mpr ⟨nw, d, a, hwf, rfl, rfl⟩)
      fun v key => by rw [decodeWord, fld, key.1, decPk16, key.2]; rfl
  case shq nw d a | shfU nw d a | shfA nw d a =>
    exact decodeWord_of_keyed (by decide) ((likeClz_iff (by rfl)).mpr ⟨nw, d, a, hwf, rfl, rfl⟩)
      fun v key => by rw [decodeWord, fld, key.1, decShape, key.2]; rfl
  case shaU a | shaA a | shaC a =>
    exact decodeWord_of_keyed (by decide) ((likeShaU_iff (by rfl)).mpr ⟨a, hwf, rfl, rfl⟩)
      fun v key => by rw [decodeWord, fld, key.1, decShape, key.2]; rfl
  case shw d n =>
    exact decodeWord_of_keyed (by decide) ((likeShw_iff (by rfl)).mpr ⟨d, n, hwf, rfl, rfl⟩)
      fun v key => by rw [decodeWord, fld, key.1, decShape, key.2]; rfl
  case shn nw d =>
    exact decodeWord_of_keyed (by decide) ((likeShn_iff (by rfl)).mpr ⟨nw, d, hwf, rfl, rfl⟩)
      fun v key => by rw [decodeWord, fld, key.1, decShape, key.2]; rfl
  case wbase a =>
    exact decodeWord_of_keyed (by decide) ((likeShaU_iff (by rfl)).mpr ⟨a, hwf, rfl, rfl⟩)
      fun v key => by rw [decodeWord, fld, key.1, decWin, key.2]; rfl
  case wbasei delta =>
    exact decodeWord_of_keyed (by decide) ((likeWbasei_iff (by rfl)).mpr ⟨delta, hwf, rfl, rfl⟩)
      fun v key => by rw [decodeWord, fld, key.1, decWin, key.2]; rfl
  case wqry nw d | rquota nw d | allotq nw d =>
    exact decodeWord_of_keyed (by decide) ((likeShn_iff (by rfl)).mpr ⟨nw, d, hwf, rfl, rfl⟩)
      fun v key => by rw [decodeWord, fld, key.1, decWin, key.2]; rfl
  case ixset a idx =>
    exact decodeWord_of_keyed (by decide) ((likeIxset_iff (by rfl)).mpr ⟨a, idx, hwf, rfl, rfl⟩)
      fun v key => by rw [decodeWord, fld, key.1, decWin, key.2]; rfl
  case ixget nw d idx =>
    exact decodeWord_of_keyed (by decide) ((likeIxget_iff (by rfl)).mpr ⟨nw, d, idx, hwf, rfl, rfl⟩)
      fun v key => by rw [decodeWord, fld, key.1, decWin, key.2]; rfl
  case rgive a imm | rclaim a imm =>
    exact decodeWord_of_keyed (by decide) ((likeRgive_iff (by rfl)).mpr ⟨a, imm, hwf, rfl, rfl⟩)
      fun v key => by rw [decodeWord, fld, key.1, decWin, key.2]; rfl
  case shflIdx nw d a b | shflUp nw d a b | shflDn nw d a b | shflXor nw d a b =>
    exact decodeWord_of_keyed (by decide) ((likeAdd_iff (by rfl)).mpr ⟨nw, d, a, b, hwf, rfl, rfl⟩)
      fun v key => by rw [decodeWord, fld, key.1, decLanex, key.2]; rfl
  case voteBal nw d p inv =>
    exact decodeWord_of_keyed (by decide) ((likeVoteBal_iff (by rfl)).mpr ⟨nw, d, p, inv, hwf, rfl, rfl⟩)
      fun v key => by rw [decodeWord, fld, key.1, decLanex, key.2]; rfl
  case voteAny pd p inv | voteAll pd p inv =>
    exact decodeWord_of_keyed (by decide) ((likeVoteAny_iff (by rfl)).mpr ⟨pd, p, inv, hwf, rfl, rfl⟩)
      fun v key => by rw [decodeWord, fld, key.1, decLanex, key.2]; rfl
  case reduxAdd nw d a | reduxFadd nw d a | pfxInc nw d a | pfxExc nw d a | matchLanes nw d a | firstLane nw d a =>
    exact decodeWord_of_keyed (by decide) ((likeClz_iff (by rfl)).mpr ⟨nw, d, a, hwf, rfl, rfl⟩)
      fun v key => by rw [decodeWord, fld, key.1, decLanex, key.2]; rfl
  case reduxMin nw d a natural | reduxMax nw d a natural =>
    exact decodeWord_of_keyed (by decide) ((likeReduxMin_iff (by rfl)).mpr ⟨nw, d, a, natural, hwf, rfl, rfl⟩)
      fun v key => by rw [decodeWord, fld, key.1, decLanex, key.2]; rfl
  case rbal d a b =>
    exact decodeWord_of_keyed (by decide) ((likeRbal_iff (by rfl)).mpr ⟨d, a, b, hwf, rfl, rfl⟩)
      fun v key => by rw [decodeWord, fld, key.1, decLanex, key.2]; rfl
  case pand pd pa pb | por pd pa pb | pxor pd pa pb | pandn pd pa pb =>
    exact decodeWord_of_keyed (by decide) ((likePand_iff (by rfl)).mpr ⟨pd, pa, pb, hwf, rfl, rfl⟩)
      fun v key => by rw [decodeWord, fld, key.1, decPred, key.2]; rfl
  case pnot pd pa | pmov pd pa =>
    exact decodeWord_of_keyed (by decide) ((likePnot_iff (by rfl)).mpr ⟨pd, pa, hwf, rfl, rfl⟩)
      fun v key => by rw [decodeWord, fld, key.1, decPred, key.2]; rfl
  case emset p inv =>
    exact decodeWord_of_keyed (by decide) ((likeEmset_iff (by rfl)).mpr ⟨p, inv, hwf, rfl, rfl⟩)
      fun v key => by rw [decodeWord, fld, key.1, decPred, key.2]; rfl
  case emget pd | liveget pd =>
    exact decodeWord_of_keyed (by decide) ((likeEmget_iff (by rfl)).mpr ⟨pd, hwf, rfl, rfl⟩)
      fun v key => by rw [decodeWord, fld, key.1, decPred, key.2]; rfl
  case pfromw pd a bitsForm =>
    exact decodeWord_of_keyed (by decide) ((likePfromw_iff (by rfl)).mpr ⟨pd, a, bitsForm, hwf, rfl, rfl⟩)
      fun v key => by rw [decodeWord, fld, key.1, decPred, key.2]; rfl
  case ptow nw d p bitsForm =>
    exact decodeWord_of_keyed (by decide) ((likePtow_iff (by rfl)).mpr ⟨nw, d, p, bitsForm, hwf, rfl, rfl⟩)
      fun v key => by rw [decodeWord, fld, key.1, decPred, key.2]; rfl
  case ppopc nw d p =>
    exact decodeWord_of_keyed (by decide) ((likePpopc_iff (by rfl)).mpr ⟨nw, d, p, hwf, rfl, rfl⟩)
      fun v key => by rw [decodeWord, fld, key.1, decPred, key.2]; rfl
  case emrest =>
    exact decodeWord_of_keyed (by decide) ((likeEmrest_iff (by rfl)).mpr ⟨rfl, rfl⟩)
      fun v key => by rw [decodeWord, fld, key.1, decPred, key.2]; rfl
  case mfs nw d num =>
    exact decodeWord_of_keyed (by decide) ((likeMfs_iff (by rfl)).mpr ⟨nw, d, num, hwf, rfl, rfl⟩)
      fun v key => by rw [decodeWord, fld, key.1, decSys, key.2]; rfl
  case mts d num =>
    exact decodeWord_of_keyed (by decide) ((likeMts_iff (by rfl)).mpr ⟨d, num, hwf, rfl, rfl⟩)
      fun v key => by rw [decodeWord, fld, key.1, decSys, key.2]; rfl
  case rte skip =>
    exact decodeWord_of_keyed (by decide) ((likeRte_iff (by rfl)).mpr ⟨skip, hwf, rfl, rfl⟩)
      fun v key => by rw [decodeWord, fld, key.1, decSys, key.2]; rfl
  case pkset a | pkdrop a =>
    exact decodeWord_of_keyed (by decide) ((likePkset_iff (by rfl)).mpr ⟨a, hwf, rfl, rfl⟩)
      fun v key => by rw [decodeWord, fld, key.1, decSys, key.2]; rfl
  case pmap d a =>
    exact decodeWord_of_keyed (by decide) ((likePmap_iff (by rfl)).mpr ⟨d, a, hwf, rfl, rfl⟩)
      fun v key => by rw [decodeWord, fld, key.1, decSys, key.2]; rfl
  case waitf d a access =>
    exact decodeWord_of_keyed (by decide) ((likeWaitf_iff (by rfl)).mpr ⟨d, a, access, hwf, rfl, rfl⟩)
      fun v key => by rw [decodeWord, fld, key.1, decSys, key.2]; rfl
  case haltw a =>
    exact decodeWord_of_keyed (by decide) ((likeShaU_iff (by rfl)).mpr ⟨a, hwf, rfl, rfl⟩)
      fun v key => by rw [decodeWord, fld, key.1, decSys, key.2]; rfl
  case scpq nw d n =>
    exact decodeWord_of_keyed (by decide) ((likeScpq_iff (by rfl)).mpr ⟨nw, d, n, hwf, rfl, rfl⟩)
      fun v key => by rw [decodeWord, fld, key.1, decSys, key.2]; rfl
  case timerd d =>
    exact decodeWord_of_keyed (by decide) ((likeTimerd_iff (by rfl)).mpr ⟨d, hwf, rfl, rfl⟩)
      fun v key => by rw [decodeWord, fld, key.1, decSys, key.2]; rfl
  case bmode d a b =>
    exact decodeWord_of_keyed (by decide) ((likeBmode_iff (by rfl)).mpr ⟨d, a, b, hwf, rfl, rfl⟩)
      fun v key => by rw [decodeWord, fld, key.1, decSys, key.2]; rfl
  case brx a | ret a =>
    exact decodeWord_of_keyed (by decide) ((likePkset_iff (by rfl)).mpr ⟨a, hwf, rfl, rfl⟩)
      fun v key => by rw [decodeWord, fld, key.1, decJmpx, key.2]; rfl
  case callx d a =>
    exact decodeWord_of_keyed (by decide) ((likeCallx_iff (by rfl)).mpr ⟨d, a, hwf, rfl, rfl⟩)
      fun v key => by rw [decodeWord, fld, key.1, decJmpx, key.2]; rfl
  case nop | exit | yield | brk | wsync | cbend =>
    exact decodeWord_of_keyed (by decide) ((likeEmrest_iff (by rfl)).mpr ⟨rfl, rfl⟩)
      fun v key => by rw [decodeWord, fld, key.1, decCtrl, key.2]; rfl
  case sleep a | prog a =>
    exact decodeWord_of_keyed (by decide) ((likeShaU_iff (by rfl)).mpr ⟨a, hwf, rfl, rfl⟩)
      fun v key => by rw [decodeWord, fld, key.1, decCtrl, key.2]; rfl
  case trap code =>
    exact decodeWord_of_keyed (by decide) ((likeTrap_iff (by rfl)).mpr ⟨code, hwf, rfl, rfl⟩)
      fun v key => by rw [decodeWord, fld, key.1, decCtrl, key.2]; rfl
  case bar pd idx =>
    exact decodeWord_of_keyed (by decide) ((likeBar_iff (by rfl)).mpr ⟨pd, idx, hwf, rfl, rfl⟩)
      fun v key => by rw [decodeWord, fld, key.1, decCtrl, key.2]; rfl
  case cbrun nw d a b =>
    exact decodeWord_of_keyed (by decide) ((likeCbrun_iff (by rfl)).mpr ⟨nw, d, a, b, hwf, rfl, rfl⟩)
      fun v key => by rw [decodeWord, fld, key.1, decCtrl, key.2]; rfl
  case cbstat nw d =>
    exact decodeWord_of_keyed (by decide) ((likeShn_iff (by rfl)).mpr ⟨nw, d, hwf, rfl, rfl⟩)
      fun v key => by rw [decodeWord, fld, key.1, decCtrl, key.2]; rfl
  case pref a b hint | demote a b hint | cleanl a b hint | invl a b hint =>
    exact decodeWord_of_keyed (by decide) ((likePref_iff (by rfl)).mpr ⟨a, b, hint, hwf, rfl, rfl⟩)
      fun v key => by rw [decodeWord, fld, key.1, decCache, key.2]; rfl
  case atomiAdd d a b sc | atomiInc d a b sc | atomiDec d a b sc | atomiXchg d a b sc =>
    exact decodeWord_of_keyed (by decide) ((likeAtomiAdd_iff (by rfl)).mpr ⟨d, a, b, sc, hwf, rfl, rfl⟩)
      fun v key => by rw [decodeWord, fld, key.1, decAtomi, key.2]; rfl
  case atomlAnd d a b sc | atomlOr d a b sc | atomlXor d a b sc =>
    exact decodeWord_of_keyed (by decide) ((likeAtomiAdd_iff (by rfl)).mpr ⟨d, a, b, sc, hwf, rfl, rfl⟩)
      fun v key => by rw [decodeWord, fld, key.1, decAtoml, key.2]; rfl
  case atomlCas d a b sc =>
    exact decodeWord_of_keyed (by decide) ((likeAtomlCas_iff (by rfl)).mpr ⟨d, a, b, sc, hwf, rfl, rfl⟩)
      fun v key => by rw [decodeWord, fld, key.1, decAtoml, key.2]; rfl
  case atommMinS d a b sc | atommMinN d a b sc | atommMaxS d a b sc | atommMaxN d a b sc =>
    exact decodeWord_of_keyed (by decide) ((likeAtomiAdd_iff (by rfl)).mpr ⟨d, a, b, sc, hwf, rfl, rfl⟩)
      fun v key => by rw [decodeWord, fld, key.1, decAtomm, key.2]; rfl
  case atomfFaddF32 d a b sc | atomfFaddBf16x2 d a b sc | atomfFminF32 d a b sc | atomfFmaxF32 d a b sc =>
    exact decodeWord_of_keyed (by decide) ((likeAtomiAdd_iff (by rfl)).mpr ⟨d, a, b, sc, hwf, rfl, rfl⟩)
      fun v key => by rw [decodeWord, fld, key.1, decAtomf, key.2]; rfl
  case atomsAdd nw d a b | atomsInc nw d a b | atomsDec nw d a b | atomsXchg nw d a b | atomsAnd nw d a b | atomsOr nw d a b |
    atomsXor nw d a b | atomsMinS nw d a b | atomsMinN nw d a b | atomsMaxS nw d a b | atomsMaxN nw d a b |
    atomsFaddF32 nw d a b | atomsFaddBf16x2 nw d a b =>
    exact decodeWord_of_keyed (by decide) ((likeAtoms_iff (by rfl)).mpr ⟨nw, d, a, b, hwf, rfl, rfl⟩)
      fun v key => by rw [decodeWord, fld, key.1, decAtoms, key.2]; rfl
  case atomsCas nw d a b =>
    exact decodeWord_of_keyed (by decide) ((likeAtomsCas_iff (by rfl)).mpr ⟨nw, d, a, b, hwf, rfl, rfl⟩)
      fun v key => by rw [decodeWord, fld, key.1, decAtoms, key.2]; rfl
  case phrel sc | phacq sc | phar sc =>
    exact decodeWord_of_keyed (by decide) ((likePhrel_iff (by rfl)).mpr ⟨sc, hwf, rfl, rfl⟩)
      fun v key => by rw [decodeWord, fld, key.1, decPhase, key.2]; rfl
  case boinit a b | boexp a b =>
    exact decodeWord_of_keyed (by decide) ((likeBoinit_iff (by rfl)).mpr ⟨a, b, hwf, rfl, rfl⟩)
      fun v key => by rw [decodeWord, fld, key.1, decBobj, key.2]; rfl
  case boarr pd a b | boarx pd a b | bowait pd a b | botest pd a b =>
    exact decodeWord_of_keyed (by decide) ((likeBoarr_iff (by rfl)).mpr ⟨pd, a, b, hwf, rfl, rfl⟩)
      fun v key => by rw [decodeWord, fld, key.1, decBobj, key.2]; rfl
  case bostat d a =>
    exact decodeWord_of_keyed (by decide) ((likeBostat_iff (by rfl)).mpr ⟨d, a, hwf, rfl, rfl⟩)
      fun v key => by rw [decodeWord, fld, key.1, decBobj, key.2]; rfl
  case qpush a q | qallow a q =>
    exact decodeWord_of_keyed (by decide) ((likeQpush_iff (by rfl)).mpr ⟨a, q, hwf, rfl, rfl⟩)
      fun v key => by rw [decodeWord, fld, key.1, decQueue, key.2]; rfl
  case qpop nw d n | qstat nw d n =>
    exact decodeWord_of_keyed (by decide) ((likeScpq_iff (by rfl)).mpr ⟨nw, d, n, hwf, rfl, rfl⟩)
      fun v key => by rw [decodeWord, fld, key.1, decQueue, key.2]; rfl
  case qpushn d a q =>
    exact decodeWord_of_keyed (by decide) ((likeQpushn_iff (by rfl)).mpr ⟨d, a, q, hwf, rfl, rfl⟩)
      fun v key => by rw [decodeWord, fld, key.1, decQueue, key.2]; rfl
  case qpopn d q =>
    exact decodeWord_of_keyed (by decide) ((likeQpopn_iff (by rfl)).mpr ⟨d, q, hwf, rfl, rfl⟩)
      fun v key => by rw [decodeWord, fld, key.1, decQueue, key.2]; rfl
  case qcfg a q =>
    exact decodeWord_of_keyed (by decide) ((likeQcfg_iff (by rfl)).mpr ⟨a, q, hwf, rfl, rfl⟩)
      fun v key => by rw [decodeWord, fld, key.1, decQueue, key.2]; rfl
  case qbreak q =>
    exact decodeWord_of_keyed (by decide) ((likeQbreak_iff (by rfl)).mpr ⟨q, hwf, rfl, rfl⟩)
      fun v key => by rw [decodeWord, fld, key.1, decQueue, key.2]; rfl
  case cpy a | cpyx a | wtany a | wtall a | tagclr a =>
    exact decodeWord_of_keyed (by decide) ((likePkset_iff (by rfl)).mpr ⟨a, hwf, rfl, rfl⟩)
      fun v key => by rw [decodeWord, fld, key.1, decCopy, key.2]; rfl
  case wtff nw d a =>
    exact decodeWord_of_keyed (by decide) ((likeWtff_iff (by rfl)).mpr ⟨nw, d, a, hwf, rfl, rfl⟩)
      fun v key => by rw [decodeWord, fld, key.1, decCopy, key.2]; rfl
  case tagrd nw d idx =>
    exact decodeWord_of_keyed (by decide) ((likeIxget_iff (by rfl)).mpr ⟨nw, d, idx, hwf, rfl, rfl⟩)
      fun v key => by rw [decodeWord, fld, key.1, decCopy, key.2]; rfl
  case cpyq nw d =>
    exact decodeWord_of_keyed (by decide) ((likeShn_iff (by rfl)).mpr ⟨nw, d, hwf, rfl, rfl⟩)
      fun v key => by rw [decodeWord, fld, key.1, decCopy, key.2]; rfl
  case svldPlain nw d a b | svldN48 nw d a b | svldQ4 nw d a b | svldMx nw d a b =>
    exact decodeWord_of_keyed (by decide) ((likeSvldPlain_iff (by rfl)).mpr ⟨nw, d, a, b, hwf, rfl, rfl⟩)
      fun v key => by rw [decodeWord, fld, key.1, decSvld, key.2]; rfl
  case tshape t a | tfmt t a | tscale t a =>
    exact decodeWord_of_keyed (by decide) ((likeTshape_iff (by rfl)).mpr ⟨t, a, hwf, rfl, rfl⟩)
      fun v key => by rw [decodeWord, fld, key.1, decTcfg, key.2]; rfl
  case tqry d q =>
    exact decodeWord_of_keyed (by decide) ((likeQpopn_iff (by rfl)).mpr ⟨d, q, hwf, rfl, rfl⟩)
      fun v key => by rw [decodeWord, fld, key.1, decTcfg, key.2]; rfl
  case tzero t =>
    exact decodeWord_of_keyed (by decide) ((likeTzero_iff (by rfl)).mpr ⟨t, hwf, rfl, rfl⟩)
      fun v key => by rw [decodeWord, fld, key.1, decTcfg, key.2]; rfl
  case ttrn t u =>
    exact decodeWord_of_keyed (by decide) ((likeTtrn_iff (by rfl)).mpr ⟨t, u, hwf, rfl, rfl⟩)
      fun v key => by rw [decodeWord, fld, key.1, decTcfg, key.2]; rfl
  case tcvt t a u =>
    exact decodeWord_of_keyed (by decide) ((likeTcvt_iff (by rfl)).mpr ⟨t, a, u, hwf, rfl, rfl⟩)
      fun v key => by rw [decodeWord, fld, key.1, decTcfg, key.2]; rfl
  case trowr d a t =>
    exact decodeWord_of_keyed (by decide) ((likeTrowr_iff (by rfl)).mpr ⟨d, a, t, hwf, rfl, rfl⟩)
      fun v key => by rw [decodeWord, fld, key.1, decTcfg, key.2]; rfl
  case troww t a b =>
    exact decodeWord_of_keyed (by decide) ((likeTroww_iff (by rfl)).mpr ⟨t, a, b, hwf, rfl, rfl⟩)
      fun v key => by rw [decodeWord, fld, key.1, decTcfg, key.2]; rfl
  case tld t a b =>
    exact decodeWord_of_keyed (by decide) ((likeTld_iff (by rfl)).mpr ⟨t, a, b, hwf, rfl, rfl⟩)
      fun v key => by rw [decodeWord, fld, key.1, decTld, key.2]; rfl
  case tst t a b =>
    exact decodeWord_of_keyed (by decide) ((likeTld_iff (by rfl)).mpr ⟨t, a, b, hwf, rfl, rfl⟩)
      fun v key => by rw [decodeWord, fld, key.1, decTst, key.2]; rfl
  case mmaBf16 acc clr ta tb | mmaF16 acc clr ta tb | mmaE4m3 acc clr ta tb | mmaE5m2 acc clr ta tb | mmaDe8 acc clr ta tb |
    mmaS8 acc clr ta tb | mmaE2m1 acc clr ta tb | mmaS4 acc clr ta tb | mmaQ4 acc clr ta tb | mmaSpBf16 acc clr ta tb |
    mmaSpE4m3 acc clr ta tb | mmaMxE4m3 acc clr ta tb | mmaMxE2m1 acc clr ta tb =>
    exact decodeWord_of_keyed (by decide) ((likeMmaBf16_iff (by rfl)).mpr ⟨acc, clr, ta, tb, hwf, rfl, rfl⟩)
      fun v key => by rw [decodeWord, fld, key.1, decMma, key.2]; rfl
  case accz acc a =>
    exact decodeWord_of_keyed (by decide) ((likeAccz_iff (by rfl)).mpr ⟨acc, a, hwf, rfl, rfl⟩)
      fun v key => by rw [decodeWord, fld, key.1, decAcc, key.2]; rfl
  case accld acc a c | accst acc a c | accadd acc a c | accstsp acc a c =>
    exact decodeWord_of_keyed (by decide) ((likeAccld_iff (by rfl)).mpr ⟨acc, a, c, hwf, rfl, rfl⟩)
      fun v key => by rw [decodeWord, fld, key.1, decAcc, key.2]; rfl
  case accrmax d acc a | accrowr d acc a =>
    exact decodeWord_of_keyed (by decide) ((likeAccrmax_iff (by rfl)).mpr ⟨d, acc, a, hwf, rfl, rfl⟩)
      fun v key => by rw [decodeWord, fld, key.1, decAcc, key.2]; rfl
  case accrscl acc d =>
    exact decodeWord_of_keyed (by decide) ((likeAccrscl_iff (by rfl)).mpr ⟨acc, d, hwf, rfl, rfl⟩)
      fun v key => by rw [decodeWord, fld, key.1, decAcc, key.2]; rfl
  case accroww acc a d =>
    exact decodeWord_of_keyed (by decide) ((likeAccroww_iff (by rfl)).mpr ⟨acc, a, d, hwf, rfl, rfl⟩)
      fun v key => by rw [decodeWord, fld, key.1, decAcc, key.2]; rfl
  case accexp acc d a =>
    exact decodeWord_of_keyed (by decide) ((likeAccexp_iff (by rfl)).mpr ⟨acc, d, a, hwf, rfl, rfl⟩)
      fun v key => by rw [decodeWord, fld, key.1, decAcc, key.2]; rfl
  case accrsum d acc =>
    exact decodeWord_of_keyed (by decide) ((likeAccrsum_iff (by rfl)).mpr ⟨d, acc, hwf, rfl, rfl⟩)
      fun v key => by rw [decodeWord, fld, key.1, decAcc, key.2]; rfl
  case acctot t acc c =>
    exact decodeWord_of_keyed (by decide) ((likeAcctot_iff (by rfl)).mpr ⟨t, acc, c, hwf, rfl, rfl⟩)
      fun v key => by rw [decodeWord, fld, key.1, decAcc, key.2]; rfl
  case tseqBf16 acc clr ta tb | tseqF16 acc clr ta tb | tseqE4m3 acc clr ta tb | tseqE5m2 acc clr ta tb |
    tseqDe8 acc clr ta tb | tseqS8 acc clr ta tb | tseqE2m1 acc clr ta tb | tseqS4 acc clr ta tb | tseqQ4 acc clr ta tb |
    tseqSpBf16 acc clr ta tb | tseqSpE4m3 acc clr ta tb | tseqMxE4m3 acc clr ta tb | tseqMxE2m1 acc clr ta tb =>
    exact decodeWord_of_keyed (by decide) ((likeMmaBf16_iff (by rfl)).mpr ⟨acc, clr, ta, tb, hwf, rfl, rfl⟩)
      fun v key => by rw [decodeWord, fld, key.1, decTseq, key.2]; rfl
  case vld d a b | vprobe d a b =>
    exact decodeWord_of_keyed (by decide) ((likeVld_iff (by rfl)).mpr ⟨d, a, b, hwf, rfl, rfl⟩)
      fun v key => by rw [decodeWord, fld, key.1, decVol, key.2]; rfl
  case vst a b d | vadd a b d =>
    exact decodeWord_of_keyed (by decide) ((likeVst_iff (by rfl)).mpr ⟨a, b, d, hwf, rfl, rfl⟩)
      fun v key => by rw [decodeWord, fld, key.1, decVol, key.2]; rfl
  case vshoot a =>
    exact decodeWord_of_keyed (by decide) ((likeShaU_iff (by rfl)).mpr ⟨a, hwf, rfl, rfl⟩)
      fun v key => by rw [decodeWord, fld, key.1, decVol, key.2]; rfl
  case vqry d a =>
    exact decodeWord_of_keyed (by decide) ((likeBostat_iff (by rfl)).mpr ⟨d, a, hwf, rfl, rfl⟩)
      fun v key => by rw [decodeWord, fld, key.1, decVol, key.2]; rfl
  case snap d q =>
    exact decodeWord_of_keyed (by decide) ((likeQpopn_iff (by rfl)).mpr ⟨d, q, hwf, rfl, rfl⟩)
      fun v key => by rw [decodeWord, fld, key.1, decSnap, key.2]; rfl
  case snapq d =>
    exact decodeWord_of_keyed (by decide) ((likeTimerd_iff (by rfl)).mpr ⟨d, hwf, rfl, rfl⟩)
      fun v key => by rw [decodeWord, fld, key.1, decSnap, key.2]; rfl
  case launch d a b | launchg d a b =>
    exact decodeWord_of_keyed (by decide) ((likeLaunch_iff (by rfl)).mpr ⟨d, a, b, hwf, rfl, rfl⟩)
      fun v key => by rw [decodeWord, fld, key.1, decLaunch, key.2]; rfl
  case lwait d a b =>
    exact decodeWord_of_keyed (by decide) ((likeBmode_iff (by rfl)).mpr ⟨d, a, b, hwf, rfl, rfl⟩)
      fun v key => by rw [decodeWord, fld, key.1, decLaunch, key.2]; rfl
  case lqry d a =>
    exact decodeWord_of_keyed (by decide) ((likeLqry_iff (by rfl)).mpr ⟨d, a, hwf, rfl, rfl⟩)
      fun v key => by rw [decodeWord, fld, key.1, decLaunch, key.2]; rfl
  case addi nw d a imm | muli nw d a imm | andi nw d a imm | ori nw d a imm | xori nw d a imm =>
    exact decodeWord_of_keyed (by decide) ((likeAddi_iff (by rfl)).mpr ⟨nw, d, a, imm, hwf, rfl, rfl⟩)
      fun v key => by rw [decodeWord, fld, key.1]; rfl
  case li nw d imm | movs nw d imm =>
    exact decodeWord_of_keyed (by decide) ((likeLi_iff (by rfl)).mpr ⟨nw, d, imm, hwf, rfl, rfl⟩)
      fun v key => by rw [decodeWord, fld, key.1]; rfl
  case cmp cond pd a b pc cmb =>
    exact decodeWord_of_keyed (by decide) ((likeCmp_iff (by rfl)).mpr ⟨cond, pd, a, b, pc, cmb, hwf, rfl, rfl⟩)
      fun v key => by rw [decodeWord, fld, key.1]; rfl
  case cmpi cond pd a imm =>
    exact decodeWord_of_keyed (by decide) ((likeCmpi_iff (by rfl)).mpr ⟨cond, pd, a, imm, hwf, rfl, rfl⟩)
      fun v key => by rw [decodeWord, fld, key.1]; rfl
  case fcmp cond pd a b pc cmb =>
    exact decodeWord_of_keyed (by decide) ((likeFcmp_iff (by rfl)).mpr ⟨cond, pd, a, b, pc, cmb, hwf, rfl, rfl⟩)
      fun v key => by rw [decodeWord, fld, key.1]; rfl
  case cvt nw d a rnd src dst =>
    exact decodeWord_of_keyed (by decide) ((likeCvt_iff (by rfl)).mpr ⟨nw, d, a, rnd, src, dst, hwf, rfl, rfl⟩)
      fun v key => by rw [decodeWord, fld, key.1]; rfl
  case sel nw d a b p inv =>
    exact decodeWord_of_keyed (by decide) ((likeSel_iff (by rfl)).mpr ⟨nw, d, a, b, p, inv, hwf, rfl, rfl⟩)
      fun v key => by rw [decodeWord, fld, key.1]; rfl
  case bra off =>
    exact decodeWord_of_keyed (by decide) ((likeBra_iff (by rfl)).mpr ⟨off, hwf, rfl, rfl⟩)
      fun v key => by rw [decodeWord, fld, key.1]; rfl
  case brd p n tgt rcv =>
    exact decodeWord_of_keyed (by decide) ((likeBrd_iff (by rfl)).mpr ⟨p, n, tgt, rcv, hwf, rfl, rfl⟩)
      fun v key => by rw [decodeWord, fld, key.1]; rfl
  case call d imm =>
    exact decodeWord_of_keyed (by decide) ((likeCall_iff (by rfl)).mpr ⟨d, imm, hwf, rfl, rfl⟩)
      fun v key => by rw [decodeWord, fld, key.1]; rfl
  case ldg nw mw d a b hint | ldp nw mw d a b hint =>
    exact decodeWord_of_keyed (by decide) ((likeLdg_iff (by rfl)).mpr ⟨nw, mw, d, a, b, hint, hwf, rfl, rfl⟩)
      fun v key => by rw [decodeWord, fld, key.1]; rfl
  case stg mw d a b hint | stp mw d a b hint =>
    exact decodeWord_of_keyed (by decide) ((likeStg_iff (by rfl)).mpr ⟨mw, d, a, b, hint, hwf, rfl, rfl⟩)
      fun v key => by rw [decodeWord, fld, key.1]; rfl
  case lds nw mw d a b =>
    exact decodeWord_of_keyed (by decide) ((likeLds_iff (by rfl)).mpr ⟨nw, mw, d, a, b, hwf, rfl, rfl⟩)
      fun v key => by rw [decodeWord, fld, key.1]; rfl
  case sts mw d a b =>
    exact decodeWord_of_keyed (by decide) ((likeSts_iff (by rfl)).mpr ⟨mw, d, a, b, hwf, rfl, rfl⟩)
      fun v key => by rw [decodeWord, fld, key.1]; rfl
  case xp ind xs ext =>
    exact decodeWord_of_keyed (by decide) ((likeXp_iff (by rfl)).mpr ⟨ind, xs, ext, hwf, rfl, rfl⟩)
      fun v key => by rw [decodeWord, fld, key.1]; rfl
  all_goals exact absurd word Bool.false_ne_true

theorem bytesWord_wordBytes {w : Nat} (lt : w < 2 ^ 32) : bytesWord ((wordBytes w).take 4) = w := by
  simp only [wordBytes, bytesWord, List.take, List.foldr]
  omega

end Sys2Proof

namespace Sys2Proof.Machine

/-- Settles O54: layout by layout, a word's fields are what its decoder reads, forwards (`decodeWord_encode`) and backwards
(`decodeWord_sound`). -/
theorem encodeDecode : Obligations.EncodeDecode := by
  unfold Obligations.EncodeDecode
  constructor
  · intro i hwf word
    obtain ⟨lt, ok⟩ := decodeWord_encode hwf word
    refine ⟨lt, ok, ?_⟩
    rw [decodeTableWord, if_pos rfl, decodeBytes, bytesWord_wordBytes lt, ok]
  · intro w i lt h
    exact decodeWord_sound lt h

end Sys2Proof.Machine
end

section
/-!
The tasks that follow an instruction queue no claim for vector slots (R36 to R50, R144).
-/

namespace Sys2Proof.Machine

/-! ## Warps and cores on which no split waits for vector slots -/

/-- A split parked for this reason waits for vector slots (R144). -/
def Park.isClaim (p : Park) : Bool :=
  match p with
  | .claim _ _ => true
  | _ => false

/-- No split of the warp, in its slots or suspended, has a claim queued. -/
structure Warp.Unclaimed (x : Warp) : Prop where
  slots : ∀ sp t, x.split? sp = some t → t.park.isClaim = false
  suspended : ∀ i ∈ x.weltOrder, ∀ t, x.welt.getD i .free = .split t → t.park.isClaim = false

/-- No claim is queued on the core: none of a warp that lives, of a team that is on its core. -/
structure State.Unclaimed (s : State) (core : Nat) : Prop where
  warp : ∀ (w : Nat) (x : Warp), s.warps[w]? = some x → x.core = core → x.lives = true → (s.team x.team).here = true → x.Unclaimed

theorem unclaimed_iff {x : Warp} : x.Unclaimed ↔ ∀ k ∈ seats x, (seatPark x k).isClaim = false := by
  simp only [seats, List.mem_append, List.mem_cons, List.not_mem_nil, or_false, List.mem_map]
  constructor
  · rintro ⟨slots, suspended⟩ k ((rfl | rfl) | ⟨i, hi, rfl⟩) <;> unfold seatPark
    · cases h : seated x (.slot 0) with
      | none => rfl
      | some t => exact slots 0 t h
    · cases h : seated x (.slot 1) with
      | none => rfl
      | some t => exact slots 1 t h
    · unfold seated
      split
      · rename_i t h
        dsimp only at h
        split at h
        · cases h
          exact suspended i hi _ ‹_›
        · cases h
      · rfl
  · intro h
    refine ⟨fun sp t ht => ?_, fun i hi t ht => ?_⟩
    · obtain rfl | rfl := split?_some ht
      · simpa [seatPark, seated, ht] using h (.slot 0) (.inl (.inl rfl))
      · simpa [seatPark, seated, ht] using h (.slot 1) (.inl (.inr rfl))
    · simpa only [seatPark, seated, ht] using h (.welt i) (.inr ⟨i, hi, rfl⟩)

theorem claimsOn_eq (s : State) (core : Nat) : claimsOn s core = parkedSeats s fun x p => p.isClaim && (x.core == core) := by
  unfold claimsOn
  congr 1
  funext x p
  cases p <;> rfl

theorem claimsOn_nil {s : State} {core : Nat} : claimsOn s core = [] ↔ s.Unclaimed core := by
  have range : ∀ {w : Nat} {x : Warp}, s.warps[w]? = some x → w < s.warps.length := fun h => (List.getElem?_eq_some_iff.1 h).1
  rw [claimsOn_eq]
  unfold parkedSeats
  simp only [List.flatMap_eq_nil_iff, List.mem_range]
  constructor
  · refine fun h => ⟨fun w x hw hc hl ht => ?_⟩
    have := h w (range hw)
    simp only [hw, hl, ht, hc, Bool.and_self, if_true, List.map_eq_nil_iff, List.filter_eq_nil_iff, beq_self_eq_true, Bool.and_true,
      Bool.not_eq_true] at this
    exact unclaimed_iff.2 this
  · intro h w _
    split
    · rfl
    · rename_i x hw
      split
      · rename_i hx
        obtain ⟨hl, ht⟩ := Bool.and_eq_true_iff.1 hx
        rw [List.map_eq_nil_iff, List.filter_eq_nil_iff]
        intro k hk
        cases hc : x.core == core with
        | false => simp
        | true => simp [unclaimed_iff.1 (h.warp w x hw (by simpa using hc) hl ht) k hk]
      · rfl

/-! ## Changes of a warp that queue no claim -/

/-- The warp `y` stands where `x` stood, and no claim of a split has appeared in it. -/
structure Warp.NoNewClaim (x y : Warp) : Prop where
  core : y.core = x.core
  team : y.team = x.team
  lives : y.lives = true → x.lives = true
  unclaimed : x.Unclaimed → y.Unclaimed

namespace Warp.NoNewClaim

theorem refl (x : Warp) : x.NoNewClaim x := ⟨rfl, rfl, id, id⟩

theorem trans {x y z : Warp} (h : x.NoNewClaim y) (k : y.NoNewClaim z) : x.NoNewClaim z :=
  ⟨k.core.trans h.core, k.team.trans h.team, fun i => h.lives (k.lives i), fun i => k.unclaimed (h.unclaimed i)⟩

/-- A change that leaves the suspended splits alone, and each slot's split parked as it was or for no claim. -/
theorem of_slots {x y : Warp} (h : y.uncounted = x.uncounted)
    (hs : ∀ sp t, y.split? sp = some t → t.park.isClaim = false ∨ ∃ u, x.split? sp = some u ∧ t.park = u.park) : x.NoNewClaim y := by
  have hst : y.st = x.st := (congrArg Warp.st h :)
  have hwelt : y.welt = x.welt := (congrArg Warp.welt h :)
  have horder : y.weltOrder = x.weltOrder := (congrArg Warp.weltOrder h :)
  refine ⟨(congrArg Warp.core h :), (congrArg Warp.team h :), by simp [Warp.lives, hst], fun i => ⟨fun sp t ht => ?_, ?_⟩⟩
  · obtain h | ⟨u, hu, ht⟩ := hs sp t ht
    · exact h
    · exact ht ▸ i.slots sp u hu
  · rw [hwelt, horder]
    exact i.suspended

theorem setSplit_none (x : Warp) (sp : Nat) : x.NoNewClaim (x.setSplit sp none) := by
  refine of_slots (congrArg Warp.uncounted (setSplit_frame x sp none) :) fun q t ht => .inr ?_
  by_cases hq : q = sp
  · subst hq
    rw [split?_setSplit_same _ (split?_some ht)] at ht
    cases ht
  · exact ⟨t, by rwa [split?_setSplit_other _ hq] at ht, rfl⟩

theorem mapSplit (x : Warp) (sp : Nat) {f : Split → Split} (hf : ∀ t, (f t).park.isClaim = false ∨ (f t).park = t.park) :
    x.NoNewClaim (x.mapSplit sp f) := by
  refine of_slots (congrArg Warp.uncounted (mapSplit_frame x sp f) :) fun q t ht => ?_
  by_cases hq : q = sp
  · subst hq
    rw [split?_mapSplit_same] at ht
    obtain ⟨u, hu, rfl⟩ := Option.map_eq_some_iff.1 ht
    exact (hf u).imp_right fun h => ⟨u, hu, h⟩
  · exact .inr ⟨t, by rwa [split?_mapSplit_other _ hq] at ht, rfl⟩

theorem groupSwitch (x : Warp) (sp : Nat) : x.NoNewClaim (x.groupSwitch sp) := by
  refine of_slots (congrArg Warp.uncounted (groupSwitch_frame x sp) :) fun q t ht => .inr ?_
  by_cases hq : q = sp
  · subst hq
    rw [groupSwitch_split_same] at ht
    obtain ⟨u, hu, rfl⟩ := Option.map_eq_some_iff.1 ht
    exact ⟨u, hu, rfl⟩
  · exact ⟨t, by rwa [groupSwitch_split_other _ hq] at ht, rfl⟩

theorem retire (x : Warp) (sp pc : Nat) (l : Latch) (ps : List Place) (ns : Nat) : x.NoNewClaim (x.retire sp pc l ps ns) := by
  refine of_slots (retire_frame ..) fun q t ht => ?_
  by_cases hq : q = sp
  · subst hq
    rw [retire_split_same] at ht
    obtain ⟨u, -, rfl⟩ := Option.map_eq_some_iff.1 ht
    obtain ⟨-, -, -, -, -, -, -, hpark, -, -⟩ := after_fields u pc l ps
    exact .inl (by rw [hpark]; rfl)
  · exact .inr ⟨t, by rwa [retire_split_other _ _ _ _ _ hq] at ht, rfl⟩

/-- A change of other fields than the splits, the place and the state of the warp. -/
theorem of_same {x y : Warp} (hc : y.core = x.core) (ht : y.team = x.team) (hst : y.st = x.st) (h0 : y.split0 = x.split0)
    (h1 : y.split1 = x.split1) (hw : y.welt = x.welt) (ho : y.weltOrder = x.weltOrder) : x.NoNewClaim y := by
  refine ⟨hc, ht, by simp [Warp.lives, hst], fun i => ⟨fun sp t => ?_, ?_⟩⟩
  · rw [show y.split? sp = x.split? sp by simp [Warp.split?, h0, h1]]
    exact i.slots sp t
  · rw [hw, ho]
    exact i.suspended

/-- A warp that does not live has no claim queued (R144). -/
theorem of_dead {x y : Warp} (hc : y.core = x.core) (ht : y.team = x.team) (hl : y.lives = false) (h : x.Unclaimed → y.Unclaimed) :
    x.NoNewClaim y :=
  ⟨hc, ht, by simp [hl], h⟩

/-- An entry of the Welt takes something that is no claim. -/
theorem welt (x : Warp) (i : Nat) {e : Welt} (he : ∀ t, e = .split t → t.park.isClaim = false) :
    x.NoNewClaim { x with welt := x.welt.set i e } := by
  refine ⟨rfl, rfl, id, fun h => ⟨h.slots, fun j hj t ht => ?_⟩⟩
  simp only [List.getD_eq_getElem?_getD, List.getElem?_set] at ht
  split at ht
  · split at ht
    · exact he t ht
    · cases ht
  · exact h.suspended j hj t (by rwa [List.getD_eq_getElem?_getD])

theorem dropLate (x : Warp) (sp : Nat) : x.NoNewClaim (x.dropLate sp) := by
  unfold Warp.dropLate
  split
  · exact (mapSplit x sp (f := fun t => { t with late := none }) fun _ => .inr rfl).trans (.of_same rfl rfl rfl rfl rfl rfl rfl)
  · exact refl x

theorem enterTrap (x : Warp) (s : State) (sp : Nat) (t : Trap) (tvec : Nat) : x.NoNewClaim (x.enterTrap s sp t tvec) := by
  unfold Warp.enterTrap
  split
  · exact refl x
  · exact (((dropLate x sp).trans (groupSwitch _ 0)).trans (groupSwitch _ 1)).trans
      ((mapSplit _ sp fun _ => .inl rfl).trans (.of_same rfl rfl rfl rfl rfl rfl rfl))

end Warp.NoNewClaim

/-! ## Changes of the state that queue no claim on a core -/

namespace State.Unclaimed

variable {s : State} {core : Nat}

theorem same {t : State} (h : s.Unclaimed core) (hw : t.warps = s.warps) (ht : t.teams = s.teams) : t.Unclaimed core := by
  refine ⟨fun w x hx hc hl hh => h.warp w x (hw ▸ hx) hc hl ?_⟩
  unfold State.team at hh ⊢
  rwa [← ht]

theorem memory {t : State} (h : s.Unclaimed core) (m : MemoryOnly s t) : t.Unclaimed core := h.same m.warps m.teams

theorem mapWarp (h : s.Unclaimed core) {w : Nat} {f : Warp → Warp} (hf : ∀ x, s.warps[w]? = some x → x.NoNewClaim (f x)) :
    (s.mapWarp w f).Unclaimed core := by
  refine ⟨fun v y hv hc hl ht => ?_⟩
  simp only [mapWarp_warps, updAt_get] at hv
  split at hv
  · subst v
    obtain ⟨x, hx, rfl⟩ := Option.map_eq_some_iff.1 hv
    have k := hf x hx
    exact k.unclaimed (h.warp w x hx (k.core ▸ hc) (k.lives hl) (k.team ▸ ht))
  · exact h.warp v y hv hc hl ht

theorem mapTeam (h : s.Unclaimed core) {t : Nat} {f : Team → Team} (hf : ∀ x, (f x).here = true → x.here = true) :
    (s.mapTeam t f).Unclaimed core := by
  refine ⟨fun w x hw hc hl ht => h.warp w x hw hc hl ?_⟩
  simp only [State.team, mapTeam_teams, List.getD_eq_getElem?_getD, updAt_get] at ht ⊢
  split at ht
  · subst t
    cases hs : s.teams[x.team]? with
    | none => simpa [hs] using ht
    | some y => exact hf y (by simpa [hs] using ht)
  · exact ht

/-- A warp is added that has no claim queued. -/
theorem append {t : State} {x : Warp} (h : s.Unclaimed core) (hx : x.Unclaimed) (hw : t.warps = s.warps ++ [x])
    (ht : t.teams = s.teams) : t.Unclaimed core := by
  refine ⟨fun w y hy hc hl hh => ?_⟩
  have hteam : t.team y.team = s.team y.team := by unfold State.team; rw [ht]
  rw [hw, List.getElem?_append] at hy
  split at hy
  · exact h.warp w y hy hc hl (hteam ▸ hh)
  · obtain rfl : x = y := by
      rw [List.getElem?_singleton] at hy
      split at hy
      · exact Option.some.inj hy
      · cases hy
    exact hx

theorem foldl {α β : Type} {f : β → α → β} {p : β → State} (hf : ∀ b a, (p b).Unclaimed core → (p (f b a)).Unclaimed core) :
    ∀ (xs : List α) (b : β), (p b).Unclaimed core → (p (xs.foldl f b)).Unclaimed core
  | [], _, h => h
  | x :: xs, b, h => foldl hf xs (f b x) (hf b x h)

end State.Unclaimed

/-! ## The operations of the tasks -/

section
variable {s : State} {core : Nat}

theorem weltPut_unclaimed (h : s.Unclaimed core) (w i : Nat) {e : Welt} (he : ∀ t, e = .split t → t.park.isClaim = false) :
    (weltPut s w i e).Unclaimed core := by
  unfold weltPut
  split
  · exact h
  · have put := h.mapWarp (w := w) fun x _ => Warp.NoNewClaim.welt x i he
    dsimp only
    split
    · exact put.memory (storeBytes_only ..)
    · exact put.memory (postMalformed_only ..)

theorem weltGet_only (s : State) (w i : Nat) : MemoryOnly s (weltGet s w i).1 := by
  unfold weltGet
  split
  · exact .refl s
  · dsimp only
    split
    · exact loadBytes_only ..
    · exact postMalformed_only ..

/-- A suspended split that is read back is parked as it was suspended, or no longer. -/
theorem weltRead_park {m : Mask} {e : Welt} {ws : List Nat} {t : Split} (h : weltRead m e ws = some (.split t)) :
    ∃ u, e = .split u ∧ (t.park = u.park ∨ t.park = .no) := by
  unfold weltRead at h
  cases e with
  | free => dsimp only at h; split at h <;> cases h
  | join => dsimp only at h; split at h <;> cases h
  | split u =>
    refine ⟨u, rfl, ?_⟩
    dsimp only at h
    split at h
    · cases h
      dsimp only
      split
      · exact .inl rfl
      · exact .inr rfl
    · cases h

theorem weltGet_park {w i : Nat} {x : Warp} {t : Split} (hw : s.warps[w]? = some x) (h : (weltGet s w i).2 = some (.split t)) :
    ∃ u, x.welt.getD i .free = .split u ∧ (t.park = u.park ∨ t.park = .no) := by
  unfold weltGet at h
  simp only [hw] at h
  split at h
  · exact weltRead_park h
  · exact ⟨t, Option.some.inj h, .inl rfl⟩

/-! ### Releases and failures -/

theorem setPred_noNewClaim (x : Warp) (em : Mask) (pd : Nat) (bits : Mask) : x.NoNewClaim (x.setPred em pd bits) :=
  .of_same rfl rfl rfl rfl rfl rfl rfl

theorem releasePred_unclaimed (h : s.Unclaimed core) (w sp pd : Nat) (ok : Bool) : (releasePred s w sp pd ok).Unclaimed core := by
  refine h.mapWarp fun x _ => ?_
  split
  · exact .refl x
  · exact (setPred_noNewClaim ..).trans (.retire ..)

theorem releaseWelt_unclaimed (h : s.Unclaimed core) (w i pd : Nat) (t : Split) (ok : Bool) :
    (releaseWelt s w i pd t ok).Unclaimed core := by
  refine weltPut_unclaimed (State.Unclaimed.mapWarp h fun x _ => ?_) w i fun u hu => ?_
  · exact .of_same rfl rfl rfl rfl rfl rfl rfl
  · cases hu
    rfl

theorem releaseParked_unclaimed (h : s.Unclaimed core) (w : Nat) (p : Park → Option (Nat × Bool)) :
    (releaseParked s w p).1.Unclaimed core := by
  unfold releaseParked
  split
  · exact h
  · split
    · exact h
    · refine State.Unclaimed.foldl (p := id) (fun u i hu => ?_) _ _
        (State.Unclaimed.foldl (p := id) (fun u e hu => releasePred_unclaimed hu ..) _ s h)
      show State.Unclaimed _ core
      split
      · split
        · exact releaseWelt_unclaimed hu ..
        · exact hu
      · exact hu

theorem releaseWaiters_unclaimed (h : s.Unclaimed core) (crew : Nat) (off : Option Nat) (ok : Bool) :
    (releaseWaiters s crew off ok).1.Unclaimed core := by
  refine State.Unclaimed.foldl (p := Prod.fst) (fun acc w hu => ?_) _ (s, []) h
  dsimp only
  split
  · exact hu
  · split
    · exact releaseParked_unclaimed hu ..
    · exact hu

theorem failWelt_unclaimed (h : s.Unclaimed core) (w i : Nat) (t : Split) (tr : Trap) : (failWelt s w i t tr).Unclaimed core := by
  refine weltPut_unclaimed (State.Unclaimed.mapWarp h fun x _ => ?_) w i fun u hu => ?_
  · exact .of_same rfl rfl rfl rfl rfl rfl rfl
  · cases hu
    rfl

theorem failAt_unclaimed (h : s.Unclaimed core) (w : Nat) (k : Seat) (tr : Trap) : (failAt s w k tr).1.Unclaimed core := by
  unfold failAt
  cases k with
  | slot sp => exact h
  | welt i =>
    dsimp only
    split
    · split
      · exact h
      · exact failWelt_unclaimed h ..
    · exact h

theorem failAll_unclaimed (h : s.Unclaimed core) (es : List (Nat × Seat × Trap)) : (failAll s es).1.Unclaimed core := by
  refine State.Unclaimed.foldl (p := Prod.fst) (fun acc e hu => ?_) _ (s, []) h
  dsimp only
  split
  · exact hu.mapWarp fun x _ => .mapSplit x 1 fun _ => .inl rfl
  · exact failAt_unclaimed hu ..

theorem breakQueue_unclaimed (h : s.Unclaimed core) (crew q : Nat) : (breakQueue s crew q).1.Unclaimed core := by
  refine failAll_unclaimed (State.Unclaimed.same h ?_ ?_) _
  · rfl
  · rfl

/-! ### Return and arrival -/

/-- The split suspended longest comes back to a free slot. -/
theorem returned_noNewClaim {x : Warp} {i sp : Nat} {rest : List Nat} {t u : Split} (horder : x.weltOrder = i :: rest)
    (hi : x.welt.getD i .free = .split u) (ht : t.park = u.park ∨ t.park = .no) :
    x.NoNewClaim { x.setSplit sp (some t) with weltOrder := rest, issued := 0 } := by
  have hf := setSplit_frame x sp (some t)
  have hst : (x.setSplit sp (some t)).st = x.st := (congrArg Warp.st hf :)
  refine ⟨(congrArg Warp.core hf :), (congrArg Warp.team hf :), by simp [Warp.lives, hst], fun h => ⟨fun q v hv => ?_, fun j hj v hv => ?_⟩⟩
  · have hv : (x.setSplit sp (some t)).split? q = some v := hv
    by_cases hq : q = sp
    · subst hq
      rw [split?_setSplit_same _ (split?_some hv)] at hv
      cases hv
      obtain ht | ht := ht
      · exact ht ▸ h.suspended i (horder ▸ List.mem_cons_self ..) u hi
      · rw [ht]; rfl
    · exact h.slots q v (by rwa [split?_setSplit_other _ hq] at hv)
  · exact h.suspended j (horder ▸ List.mem_cons_of_mem _ hj) v (by simpa using hv)

theorem doFill_unclaimed (h : s.Unclaimed core) (w : Nat) : (doFill s w).1.Unclaimed core := by
  unfold doFill
  split
  · exact h
  · rename_i x hw
    dsimp only
    split
    · rename_i horder
      split
      · exact h
      · have m := weltGet_only s w
        split
        · rename_i t hget
          obtain ⟨u, hi, ht⟩ := weltGet_park hw hget
          refine weltPut_unclaimed ((h.memory (m _)).mapWarp fun y hy => ?_) w _ fun _ hu => nomatch hu
          obtain rfl : x = y := by
            rw [(m _).warps, hw] at hy
            exact Option.some.inj hy
          exact returned_noNewClaim horder hi ht
        · exact h.memory (m _)
    · exact h

theorem doArrive_unclaimed (h : s.Unclaimed core) {w sp : Nat} {x : Warp} (hw : s.warps[w]? = some x) (t : Split) :
    (doArrive s w sp x t).1.Unclaimed core := by
  have h0 : (s.mapWarp w fun _ => x.groupSwitch sp).Unclaimed core := h.mapWarp fun y hy => by
    obtain rfl : x = y := Option.some.inj (hw.symm.trans hy)
    exact .groupSwitch x sp
  have leaves : ∀ {u : State}, u.Unclaimed core → (u.mapWarp w fun x => x.setSplit sp none).Unclaimed core :=
    fun hu => hu.mapWarp fun y _ => .setSplit_none y sp
  unfold doArrive
  dsimp only
  split
  · exact leaves h0
  · rename_i j _
    have hr := h0.memory (weltGet_only _ w j)
    split
    · split
      · exact weltPut_unclaimed (leaves hr) w _ fun _ hu => nomatch hu
      · exact weltPut_unclaimed (hr.mapWarp fun y _ => .mapSplit y sp fun _ => .inl rfl) w _ fun _ hu => nomatch hu
    · exact hr

theorem doSettle_unclaimed (h : s.Unclaimed core) (w sp : Nat) : (doSettle s w sp).1.Unclaimed core := by
  unfold doSettle
  split
  · exact h
  · split
    · exact h
    · split
      · exact h
      · split
        · exact doArrive_unclaimed h ‹_› _
        · exact h

/-! ### Ends, halts and traps -/

/-- A warp that ends keeps no more splits than it had. -/
theorem cobblerOff_unclaimed (h : s.Unclaimed core) (k st cause : Nat) : (cobblerOff s k st cause).Unclaimed core := by
  unfold cobblerOff
  split
  · exact h
  · split
    · exact h
    · refine (h.mapWarp (f := fun x => { x with st := .ended, split0 := none, q := 0, free := 0 }) fun x _ => ?_).same rfl rfl
      refine .of_dead rfl rfl rfl fun i => ⟨fun sp t ht => ?_, i.suspended⟩
      obtain rfl | rfl := split?_some ht
      · cases ht
      · exact i.slots 1 t ht

theorem doWarpEnd_unclaimed (h : s.Unclaimed core) (w : Nat) : (doWarpEnd s w).1.Unclaimed core := by
  unfold doWarpEnd
  split
  · exact h
  · dsimp only
    refine State.Unclaimed.same (s := State.mapWarp _ w _) (.mapWarp (h.memory (.trans (mapL1_only ..) (mapL1_only ..))) fun x _ => ?_) rfl rfl
    refine .of_dead rfl rfl rfl fun i => ⟨fun sp t ht => ?_, fun j hj => nomatch hj⟩
    obtain rfl | rfl := split?_some ht <;> cases ht

theorem freeTeam_unclaimed (h : s.Unclaimed core) (t : Nat) : (freeTeam s t).Unclaimed core := by
  have off : (if (s.core (s.team t).core).cobTeam == some t && (s.core (s.team t).core).cobSt == 1
      then cobblerOff s (s.team t).core 2 0 else s).Unclaimed core := by
    split
    · exact cobblerOff_unclaimed h ..
    · exact h
  unfold freeTeam
  dsimp only
  refine State.Unclaimed.same (State.Unclaimed.foldl (p := id) (fun u w hu => ?_) _ _ off) rfl rfl
  exact State.Unclaimed.mapWarp hu fun x _ => .of_same rfl rfl rfl rfl rfl rfl rfl

theorem crewEnd_unclaimed (h : s.Unclaimed core) (crew : Nat) : (crewEnd s crew).Unclaimed core := by
  unfold crewEnd
  dsimp only
  split
  · exact h.same rfl rfl
  · split
    · exact h.same rfl rfl
    · exact h

theorem doTeamEnd_unclaimed (h : s.Unclaimed core) (t : Nat) : (doTeamEnd s t).1.Unclaimed core := by
  unfold doTeamEnd
  dsimp only
  split
  · exact h
  · exact crewEnd_unclaimed ((freeTeam_unclaimed h t).mapTeam fun _ hx => by simp [Team.here] at hx) _

theorem abandonObjects_only (s : State) (crew : Nat) : MemoryOnly s (abandonObjects s crew) := by
  refine MemoryOnly.foldl (p := id) (fun u i => ?_) _ s
  exact .ite (objPut_only ..) (.refl u)

theorem doHalt_unclaimed (h : s.Unclaimed core) (w : Nat) (i : HaltInfo) : (doHalt s w i).1.Unclaimed core := by
  unfold doHalt
  split
  · exact h
  · rename_i x hw
    split
    · exact h
    · dsimp only
      refine releaseWaiters_unclaimed (State.Unclaimed.memory ?_ (abandonObjects_only ..)) ..
      refine State.Unclaimed.same (State.Unclaimed.memory (h.mapWarp fun y hy => ?_) (postGroup_only ..)) rfl rfl
      obtain rfl : x = y := Option.some.inj (hw.symm.trans hy)
      have switched := (Warp.NoNewClaim.groupSwitch x 0).trans (.groupSwitch _ 1)
      exact .of_dead switched.core switched.team rfl fun hx =>
        ⟨(switched.unclaimed hx).slots, (switched.unclaimed hx).suspended⟩

theorem doBars_unclaimed (h : s.Unclaimed core) (t : Nat) : (doBars s t).1.Unclaimed core := by
  refine State.Unclaimed.foldl (p := Prod.fst) (fun acc w hu => ?_) _ (s, []) h
  exact releaseParked_unclaimed hu ..

theorem doTrap_unclaimed (h : s.Unclaimed core) (w sp : Nat) (t : Trap) : (doTrap s w sp t).1.Unclaimed core := by
  unfold doTrap
  split
  · exact h
  · split
    · exact h
    · split
      · exact h
      · split
        · exact h.mapWarp fun x _ => (Warp.NoNewClaim.dropLate x sp).trans (.mapSplit _ sp fun _ => .inl rfl)
        · split
          · refine State.Unclaimed.foldl (p := Prod.fst) (fun acc q hu => ?_) _ (_, _) (cobblerOff_unclaimed h ..)
            exact breakQueue_unclaimed hu ..
          · split
            · exact h
            · exact h.mapWarp fun x _ => .enterTrap x ..

/-! ### Every task -/

theorem doTask_unclaimed (h : s.Unclaimed core) (t : Task) : (doTask s t).1.Unclaimed core := by
  cases t with
  | settle w sp => exact doSettle_unclaimed h ..
  | fill w => exact doFill_unclaimed h ..
  | trap w sp t => exact doTrap_unclaimed h ..
  | halt w i => exact doHalt_unclaimed h ..
  | bars t => exact doBars_unclaimed h ..
  | warpEnd w => exact doWarpEnd_unclaimed h ..
  | teamEnd t => exact doTeamEnd_unclaimed h ..

end

theorem runTasks_unclaimed {core : Nat} (n : Nat) : ∀ {s : State} (ts : List Task), s.Unclaimed core → (runTasks s ts n).Unclaimed core := by
  induction n with
  | zero => exact fun _ h => h
  | succ n ih =>
    intro s ts h
    cases ts with
    | nil => exact h
    | cons t rest => exact ih _ (doTask_unclaimed h t)

theorem settle_unclaimed {s : State} {core : Nat} (h : s.Unclaimed core) (w sp : Nat) : (settle s w sp).Unclaimed core := by
  unfold settle
  split
  · exact h
  · split
    · exact runTasks_unclaimed _ _ h
    · exact h

end Sys2Proof.Machine
end

section
/-!
The Cobbler's instructions: CBRUN, CBEND and CBSTAT (R70, R165, R166, R312).
-/

namespace Sys2Proof.Machine

/-! ## A register result in a state with more warps -/

/-- What the result operation comes to where the warp can pay for it: what `Yields` says, whatever stands beside the warp. -/
theorem result_comes {s u : State} {c : Iss} {nw : Bool} {d : Dst} {unif : Bool} {r : Reg} (hu : unif = true → r.isU = true)
    (hw : u.warps[c.w]? = some c.warp) (hc : u.clk = s.clk) (hn : c.versions (c.dst d) r ≤ c.warp.free) :
    ∃ x pc l ps, c.result u nw d unif r = .ok (c.retireTo u x pc l ps) ∧ c.warp.NoNewClaim x ∧
      YieldsFrom s u c c.warp nw d unif r (.next (unlessBlocked s c (c.retireTo u x pc l ps))) := by
  have comes : ∀ x pc l ps, .next (unlessBlocked s c (c.retireTo u x pc l ps)) = completesIn s u c x pc l ps := by
    intro x pc l ps
    rw [retireTo_eq hw hc]
    rfl
  unfold Iss.result Iss.resultW Iss.resultAt Iss.afford YieldsFrom YieldsAt
  have affords := Nat.not_lt.2 hn
  simp only [needs_one, if_pos hn, if_neg affords]
  cases hd : c.dst d with
  | none => exact ⟨_, _, _, _, rfl, .refl _, comes ..⟩
  | some q =>
    rw [hd, versions_place] at hn
    dsimp only
    cases ha : c.acts unif (some q) with
    | false => exact ⟨_, _, _, _, rfl, .refl _, comes ..⟩
    | true =>
      have latched : Latched c (c.latch unif nw q r) nw q unif r := ⟨rfl, rfl, rfl, rfl, rfl, commitVal_merged ..⟩
      cases nw with
      | true => exact ⟨_, _, _, _, rfl, .refl _, _, latched, comes ..⟩
      | false =>
        have wrote := put_wrote (b := c.warp) (unif := unif) rfl rfl rfl rfl hu hn
        refine ⟨_, _, _, _, rfl, ?_, _, latched, _, wrote, comes ..⟩
        have rest := put_rest c.warp c.em c.live q (commitVal c.em c.live unif (c.warp.getReg q) r)
        exact .of_same (congrArg Warp.core rest :) (congrArg Warp.team rest :) (congrArg Warp.st rest :) (congrArg Warp.split0 rest :)
          (congrArg Warp.split1 rest :) (congrArg Warp.welt rest :) (congrArg Warp.weltOrder rest :)

/-- Where the warp cannot pay, the result operation is the trap of R28. -/
theorem result_short {u : State} {c : Iss} {nw : Bool} {d : Dst} {unif : Bool} {r : Reg} (hn : c.warp.free < c.versions (c.dst d) r) :
    c.result u nw d unif r = .error { cause := 0x07, val := .word (c.versions (c.dst d) r - c.warp.free) } := by
  unfold Iss.result Iss.resultW Iss.resultAt Iss.afford
  rw [needs_one, if_neg (Nat.not_le.2 hn)]
  rfl

/-- The step that the result of an instruction's body makes. -/
def Iss.outcome (c : Iss) (s : State) (r : Res) : Host.Outcome State Fault Refusal :=
  match r with
  | .ok t => .next (unlessBlocked s c t)
  | .error t => traps s c t

theorem execute_outcome {s : State} {c : Iss} {f : Form} {body : Iss → Res} (h : Issues s c f) :
    execute s f body = c.outcome s (body c) := by
  cases hb : body c with
  | ok t => exact execute_ok h hb
  | error t => exact execute_error h hb

theorem result_outcome {s u : State} {c : Iss} {nw : Bool} {d : Dst} {unif : Bool} {r : Reg} (hu : unif = true → r.isU = true)
    (hw : u.warps[c.w]? = some c.warp) (hc : u.clk = s.clk) :
    YieldsFrom s u c c.warp nw d unif r (c.outcome s (c.result u nw d unif r)) := by
  by_cases hn : c.versions (c.dst d) r ≤ c.warp.free
  · obtain ⟨x, pc, l, ps, ht, -, comes⟩ := result_comes (nw := nw) hu hw hc hn
    rw [ht]
    exact comes
  · have short := Nat.lt_of_not_le hn
    rw [result_short short]
    exact (if_pos short).mpr rfl

theorem external_unclaimed {s : State} {c : Iss} {core : Nat} (h : s.Unclaimed core) : (c.external s).Unclaimed core := by
  refine State.Unclaimed.mapTeam h ?_
  exact fun _ hx => hx

theorem retireTo_unclaimed {u : State} {c : Iss} {core : Nat} {x : Warp} (h : u.Unclaimed core) (hw : u.warps[c.w]? = some c.warp)
    (hx : c.warp.NoNewClaim x) (pc : Nat) (l : Latch) (ps : List Place) : (c.retireTo u x pc l ps).Unclaimed core := by
  refine settle_unclaimed (h.mapWarp fun y hy => ?_) ..
  obtain rfl : c.warp = y := Option.some.inj (hw.symm.trans hy)
  exact hx.trans (.retire ..)

/-- With no claim queued on the core, none can have become impossible (R144). -/
theorem lateClaims_unclaimed {s : State} {core : Nat} (h : s.Unclaimed core) : lateClaims s [core] = s := by
  have empty : claimQueue s core = [] := by simp [claimQueue, claimsOn_nil.2 h]
  have dead : ([core].eraseDups.flatMap fun k => (claimQueue s k).filterMap fun e =>
      (claimLimit s e.1 (s.warps.getD e.1 Warp.blank) e.2.2).map fun m =>
        (e.1, e.2.1, ({ cause := 0x19, val := .word m } : Trap))) = [] := by simp [empty]
  unfold lateClaims
  rw [dead]
  exact runTasks_nil ..

/-! ## CBRUN (R165) -/

/-- Word `i` of a descriptor as its bytes are read. -/
def descWord (bs : List (Byte × Bool)) (i : Nat) : Nat := leNat (((bs.map Prod.fst).drop (4 * i)).take 4)

/-- CBRUN reads the 64 bytes of its descriptor. -/
def Iss.readDesc (c : Iss) (s : State) (va : Nat) : State × List (Byte × Bool) :=
  loadBytes s c.cluster (s.ctxOf c.warp) 0 ((List.range 64).map fun i => (va + i, grantedLeaf s c.cluster (s.ctxOf c.warp) (va + i)))

/-- The state in which the Cobbler that a descriptor asks for has started. -/
def Iss.cobblerRuns (c : Iss) (r : State × List (Byte × Bool)) (v : Word) : State :=
  c.external (c.startCobbler r.1 (descWord r.2 0 + 2 ^ 32 * (descWord r.2 1 % 2 ^ 24)) (descWord r.2 3 % 2 ^ 11) (descWord r.2 4 % 2 ^ 12)
    v.toNat)

/-- What CBRUN comes to once its descriptor is read, poison apart: the status it writes, and what it does with it. -/
def Iss.cobblerStatus (c : Iss) (s : State) (nw : Bool) (d : Dst) (r : State × List (Byte × Bool)) (v : Word) : Res :=
  let k := s.core c.warp.core
  if k.cobSt = 1 then c.result (c.external r.1) nw d true (.u 1#32)
  else if cobblerOk (descWord r.2) = false then c.result (c.external r.1) nw d true (.u 3#32)
  else if k.slotsFree < descWord r.2 3 % 2 ^ 11 ∨ k.pool < descWord r.2 4 % 2 ^ 12 + claimSum s c.warp.core then
    c.result (c.external r.1) nw d true (.u 2#32)
  else do
    let t ← c.result (c.cobblerRuns r v) nw d true (.u 0#32)
    return lateClaims t [c.warp.core]

section
variable {s : State} {c : Iss} {nw : Bool} {d : Dst} {r : State × List (Byte × Bool)} {v : Word}

theorem cobblerStatus_running (hrun : (s.core c.warp.core).cobSt = 1) :
    c.cobblerStatus s nw d r v = c.result (c.external r.1) nw d true (.u 1#32) := if_pos hrun

variable (hrun : (s.core c.warp.core).cobSt ≠ 1)
include hrun

theorem cobblerStatus_malformed (hbad : cobblerOk (descWord r.2) = false) :
    c.cobblerStatus s nw d r v = c.result (c.external r.1) nw d true (.u 3#32) := by
  rw [Iss.cobblerStatus, if_neg hrun, if_pos hbad]

variable (hok : cobblerOk (descWord r.2) = true)
include hok

theorem cobblerStatus_unfit (h : (s.core c.warp.core).slotsFree < descWord r.2 3 % 2 ^ 11 ∨
    (s.core c.warp.core).pool < descWord r.2 4 % 2 ^ 12 + claimSum s c.warp.core) :
    c.cobblerStatus s nw d r v = c.result (c.external r.1) nw d true (.u 2#32) := by
  rw [Iss.cobblerStatus, if_neg hrun, if_neg (by simp [hok]), if_pos h]

theorem cobblerStatus_starts (hslots : descWord r.2 3 % 2 ^ 11 ≤ (s.core c.warp.core).slotsFree)
    (hpool : descWord r.2 4 % 2 ^ 12 + claimSum s c.warp.core ≤ (s.core c.warp.core).pool) :
    c.cobblerStatus s nw d r v = (do
      let t ← c.result (c.cobblerRuns r v) nw d true (.u 0#32)
      return lateClaims t [c.warp.core]) := by
  rw [Iss.cobblerStatus, if_neg hrun, if_neg (by simp [hok]), if_neg (by omega)]

end

section
variable {s : State} {c : Iss} {nw : Bool} {d : Dst} {a : Nat} {b : Src} {va : Nat} {v : Word}

theorem pairU_ok {f : Fld} {n m : Nat} (h : c.HoldsPair f n m) : c.pairU f n = .ok m := by
  obtain ⟨lo, hi, hlo, hhi, rfl⟩ := h
  simp only [Iss.pairU, hlo, hhi]
  rfl

theorem readDesc_pieces : (loadBytes s c.cluster (s.ctxOf c.warp) 0 (((List.range 64).map fun i => va + i).map fun va =>
    (va, grantedLeaf s c.cluster (s.ctxOf c.warp) va))) = c.readDesc s va := by
  rw [List.map_map]
  rfl

theorem lanesOf_ne_nil {m : Mask} (h : m ≠ 0#32) : lanesOf m ≠ [] := by
  intro hm
  refine h (BitVec.eq_of_getLsbD_eq fun i hi => ?_)
  simpa [hi] using List.filter_eq_nil_iff.1 hm i (List.mem_range.2 hi)

theorem bitsN_low (x n : Nat) : bitsN x 0 n = x % 2 ^ n := by simp [bitsN]

/-! ### By what its operands and checks give -/
theorem execCbrun_idle (h : Issues s c { d := dstOp d, a := pairOp a, b := srcOp b, valued := true }) (hem : c.em = 0#32) :
    exec (.cbrun nw d a b) s = finishes s c c.warp :=
  execute_complete h (by rw [if_pos hem])

variable (h : Issues s c { d := dstOp d, a := pairOp a, b := srcOp b, valued := true }) (hem : c.em ≠ 0#32)
  (hp : c.HoldsPair .a a va) (hv : c.read .b b = .u v)
include h hem hp hv

theorem execCbrun_fails {t : Trap} (hck : c.checkAccess s .global .read 64 (fun _ => va) = .error t) :
    exec (.cbrun nw d a b) s = traps s c t := by
  refine execute_error h ?_
  rw [if_neg hem, pairU_ok hp, hv]
  simp [needU, hck, bind, Except.bind]

variable (hck : c.checkAccess s .global .read 64 (fun _ => va) = .ok ())
include hck

theorem execCbrun_parks (hopen : c.warp.accessOpen (.slot c.sp) = true) : exec (.cbrun nw d a b) s = parksAs s c .older := by
  refine execute_park h rfl ?_
  rw [if_neg hem, pairU_ok hp, hv]
  simp [needU, hck, hopen, bind, Except.bind, pure, Except.pure]

variable (hopen : c.warp.accessOpen (.slot c.sp) = false)
  (hwait : c.waitRemote s (fun _ => va) (fun _ => (List.range 64).map fun i => va + i) = none)
include hopen hwait

theorem execCbrun_poisoned (hbad : (c.readDesc s va).2.any Prod.snd = true) : exec (.cbrun nw d a b) s = traps s c
    { cause := 0x15, val := .addrs (List.replicate 32 va), lanes := some (maskWhere (lanesOf c.em).contains) } := by
  have trap : c.poisonTrap (fun _ => va) (lanesOf c.em) = .error
      { cause := 0x15, val := .addrs (List.replicate 32 va), lanes := some (maskWhere (lanesOf c.em).contains) } :=
    if_neg (by simpa using lanesOf_ne_nil hem)
  refine execute_error h ?_
  rw [if_neg hem, pairU_ok hp, hv]
  simp only [needU, hck, hopen, hwait, readDesc_pieces, hbad, trap, bind, Except.bind, pure, Except.pure, Bool.false_eq_true,
    if_false, if_true]

theorem execCbrun_reads (hbad : (c.readDesc s va).2.any Prod.snd = false) :
    exec (.cbrun nw d a b) s = c.outcome s (c.cobblerStatus s nw d (c.readDesc s va) v) := by
  have clean : c.poisonTrap (fun _ => va) [] = .ok () := rfl
  refine (execute_outcome h).trans (congrArg _ ?_)
  rw [if_neg hem, pairU_ok hp, hv]
  simp only [needU, hck, hopen, hwait, readDesc_pieces, hbad, clean, bind, Except.bind, pure, Except.pure, Bool.false_eq_true,
    if_false, bitsN_low, Bool.not_eq_true']
  rfl

end

/-! ### The Cobbler that starts -/

section
variable {s : State} {c : Iss} {nw : Bool} {d : Dst} {v : Word} {r : State × List (Byte × Bool)}

theorem cobblerWarp_unclaimed (c : Iss) (s : State) (entry regs floor b : Nat) : (c.cobblerWarp s entry regs floor b).Unclaimed := by
  refine ⟨fun sp t ht => ?_, fun i hi => nomatch hi⟩
  obtain rfl | rfl := split?_some ht <;> cases ht
  rfl

variable (hw : r.1.warps[c.w]? = some c.warp)
include hw

theorem cobblerRuns_warp : (c.cobblerRuns r v).warps[c.w]? = some c.warp := by
  have hlt := (List.getElem?_eq_some_iff.1 hw).1
  exact (List.getElem?_append_left hlt).trans hw

omit hw in
theorem cobblerRuns_unclaimed {core : Nat} (h : r.1.Unclaimed core) : (c.cobblerRuns r v).Unclaimed core := by
  refine external_unclaimed (external_unclaimed ?_)
  exact h.append (cobblerWarp_unclaimed c r.1 _ _ _ _) rfl rfl

variable (hc : r.1.clk = s.clk)
include hc

/-- The status of a Cobbler that starts, where no claim is queued on its core. -/
theorem cobblerRuns_yields (hnone : r.1.Unclaimed c.warp.core) :
    YieldsFrom s (c.cobblerRuns r v) c c.warp nw d true (.u 0#32) (c.outcome s (do
      let t ← c.result (c.cobblerRuns r v) nw d true (.u 0#32)
      return lateClaims t [c.warp.core])) := by
  have running := cobblerRuns_warp (v := v) hw
  by_cases hn : c.versions (c.dst d) (.u 0#32) ≤ c.warp.free
  · obtain ⟨x, pc, l, ps, ht, hx, comes⟩ := result_comes (nw := nw) (d := d) (unif := true) (r := .u 0#32) (fun _ => rfl) running hc hn
    have quiet := retireTo_unclaimed (cobblerRuns_unclaimed (v := v) hnone) running hx pc l ps
    rw [ht]
    show YieldsFrom s _ c c.warp nw d true (.u 0#32) (.next (unlessBlocked s c (lateClaims (c.retireTo _ x pc l ps) [c.warp.core])))
    rw [lateClaims_unclaimed quiet]
    exact comes
  · have short := Nat.lt_of_not_le hn
    rw [result_short short]
    exact (if_pos short).mpr rfl

/-- Claims that the Cobbler's floor makes impossible follow its status (R144). -/
theorem cobblerRuns_claims (hn : c.versions (c.dst d) (.u 0#32) ≤ c.warp.free) :
    ∃ t, YieldsFrom s (c.cobblerRuns r v) c c.warp nw d true (.u 0#32) (.next (unlessBlocked s c t)) ∧
      c.outcome s (do
        let t ← c.result (c.cobblerRuns r v) nw d true (.u 0#32)
        return lateClaims t [c.warp.core]) = .next (unlessBlocked s c (lateClaims t [c.warp.core])) := by
  obtain ⟨x, pc, l, ps, ht, -, comes⟩ :=
    result_comes (nw := nw) (d := d) (unif := true) (r := .u 0#32) (fun _ => rfl) (cobblerRuns_warp (v := v) hw) hc hn
  refine ⟨_, comes, ?_⟩
  rw [ht]
  rfl

end

/-- The core on which a Cobbler has started. -/
theorem cobblerRuns_core {c : Iss} {r : State × List (Byte × Bool)} {v : Word} (h : c.warp.core < r.1.cores.length) :
    (c.cobblerRuns r v).core c.warp.core = { r.1.core c.warp.core with
      slotsFree := (r.1.core c.warp.core).slotsFree - descWord r.2 3 % 2 ^ 11, pool := (r.1.core c.warp.core).pool - descWord r.2 4 % 2 ^ 12
      cobSt := 1, cobCause := 0, cobTeam := some c.warp.team, cobWarp := some r.1.warps.length } := by
  show (updAt r.1.cores c.warp.core _).getD c.warp.core Core.reset = _
  rw [List.getD_eq_getElem?_getD, updAt_get_same, List.getElem?_eq_getElem h]
  simp [State.core, h]

/-- B is in the Cobbler's w0 (R165). -/
theorem cobblerWarp_w0 (c : Iss) (s : State) (entry floor : Nat) {regs : Nat} (v : Word) (h : 0 < regs) :
    (c.cobblerWarp s entry regs floor v.toNat).getReg (.slot 0) = .u v := by
  simp [Iss.cobblerWarp, Warp.getReg, h]

/-! ## The statement -/

/-- Settles O27: what CBRUN answers is a result in the state its descriptor's read leaves, with the Cobbler beside its warp when it
starts; no task that follows the result queues a claim, so with no claim on the core none becomes impossible. -/
theorem cobblerResults : Obligations.CobblerResults := by
  intro s c nw d a b
  refine ⟨fun h => ⟨execCbrun_idle h, fun hem va v hp hv => ⟨fun t ht => execCbrun_fails h hem hp hv ht,
    fun hck hopen => execCbrun_parks h hem hp hv hck hopen, fun hck hopen hwait => ?_⟩⟩, fun h => ⟨fun hcob => ?_, fun hcob => ?_⟩,
    fun s c h => ?_⟩
  · refine ⟨execCbrun_poisoned h hem hp hv hck hopen hwait, fun hbad => ?_⟩
    have reads := execCbrun_reads (nw := nw) (d := d) h hem hp hv hck hopen hwait hbad
    have only : MemoryOnly s (c.readDesc s va).1 := loadBytes_only ..
    have hw : (c.readDesc s va).1.warps[c.w]? = some c.warp := only.warps ▸ (issuing_spec h.1).2.1
    have answers : ∀ n : Word, YieldsFrom s (c.external (c.readDesc s va).1) c c.warp nw d true (.u n)
        (c.outcome s (c.result (c.external (c.readDesc s va).1) nw d true (.u n))) :=
      fun n => result_outcome (fun _ => rfl) hw only.clk
    refine ⟨fun hrun => ?_, fun hrun hbad => ?_, fun hrun hok hfit => ?_, fun hrun hok hslots hpool hregs hcore => ?_⟩
    · rw [reads, cobblerStatus_running hrun]
      exact answers 1#32
    · rw [reads, cobblerStatus_malformed (r := c.readDesc s va) hrun hbad]
      exact answers 3#32
    · rw [reads, cobblerStatus_unfit (r := c.readDesc s va) hrun hok hfit]
      exact answers 2#32
    · rw [reads, cobblerStatus_starts (r := c.readDesc s va) hrun hok hslots hpool]
      refine ⟨c.cobblerRuns (c.readDesc s va) v, _, _, fun hnone => ?_, cobblerRuns_claims hw only.clk, rfl, rfl, rfl,
        cobblerWarp_w0 c _ _ _ v hregs, rfl, rfl, rfl, rfl, rfl, rfl, rfl, rfl, rfl, rfl, ?_⟩
      · exact cobblerRuns_yields hw only.clk ((claimsOn_nil.1 hnone).memory only)
      · have hcores : (c.readDesc s va).1.core c.warp.core = s.core c.warp.core := by unfold State.core; rw [only.cores]
        rw [cobblerRuns_core (only.cores ▸ hcore), hcores, only.warps]
        rfl
  · exact execute_ok h (if_pos hcob)
  · exact execute_error h (if_neg (by simp [hcob]))
  · exact result_yields h (fun _ => rfl) rfl

end Sys2Proof.Machine
end

section
/-!
Every entry of the opcode table comes to a next state, a word where a split issues; so does every step (O57; spec R90, log 1).
-/

namespace Sys2Proof.Machine

/-! ## What an entry of the opcode table comes to -/

/-- A next state. -/
def GoesOn (o : Host.Outcome State Fault Refusal) : Prop := ∃ t, o = .next t

/-- An event comes to a next state. A word does where a split issues, and is else the fault that none does. -/
def Answers (s : State) (word : Bool) (o : Host.Outcome State Fault Refusal) : Prop :=
  match word with
  | true => (issuing s = none → o = .fault .noIssuingSplit) ∧ ∀ c, issuing s = some c → GoesOn o
  | false => GoesOn o

theorem execute_answers (s : State) (f : Form) (body : Iss → Res) : Answers s true (execute s f body) :=
  ⟨fun h => by simp only [execute, h], fun _ h => execute_next f body h⟩

theorem latching_answers (s : State) (sc : Nat) {o : Host.Outcome State Fault Refusal} (ho : Answers s true o) :
    Answers s true (latching s sc o) := by
  obtain ⟨stops, goes⟩ := ho
  refine ⟨fun h => by simp only [latching, h, stops h], fun c h => ?_⟩
  obtain ⟨t, rfl⟩ := goes c h
  simp only [latching, h]
  exact ⟨_, rfl⟩


theorem predLogic_answers (s : State) (pd pa pb : Nat) (f : Mask → Mask → Mask) : Answers s true (predLogic s pd pa pb f) := by
  unfold predLogic
  exact execute_answers ..

theorem cacheOp_answers (s : State) (a : Nat) (b : Src) (f : Iss → State → Nat → State) : Answers s true (cacheOp s a b f) := by
  unfold cacheOp
  exact execute_answers ..

/-- BRD's trap in supervisor mode comes before the checks of its form. -/
theorem execBrd_answers (p : Nat) (n : Bool) (tgt rcv : Nat) (s : State) : Answers s true (execBrd p n tgt rcv s) := by
  refine ⟨fun h => by simp only [execBrd, h], fun c h => ?_⟩
  simp only [execBrd, h]
  split
  · exact ⟨_, rfl⟩
  · exact execute_next _ _ h

theorem event_answers (s : State) (enabled : Bool) (effect : State) : Answers s false (event s enabled effect) := ⟨_, rfl⟩

theorem outside_answers (s : State) (enabled : Bool) (effect : State) : Answers s false (outside s enabled effect) := by
  unfold outside
  split
  · exact ⟨_, rfl⟩
  · exact event_answers ..

theorem hostAccess_answers {s : State} {c va size acc : Nat} {k : Access} {f : Leaf → Host.Outcome State Fault Refusal}
    {refused : State → State} (hf : ∀ l, Answers s false (f l)) : Answers s false (hostAccess s c va size acc k f refused) := by
  unfold hostAccess
  split
  · exact event_answers ..
  · split
    · exact event_answers ..
    · split
      · exact hf _
      · exact event_answers ..

theorem peerDo_answers (s : State) (c va n : Nat) (k : Access) (f : Leaf → State) : Answers s false (peerDo s c va n k f) := by
  unfold peerDo
  split
  · exact event_answers ..
  · exact outside_answers ..
  · exact event_answers ..

theorem execPeerAccess_answers (peer : Nat) (kind : PeerKind) (ctx va v : Nat) (s : State) :
    Answers s false (execPeerAccess peer kind ctx va v s) := by
  unfold execPeerAccess
  split
  · exact event_answers ..
  · cases kind with
    | fence => exact event_answers ..
    | load | store | atomic => exact peerDo_answers ..

/-- Every entry of the table, by the operation its meaning is built on. The longest arm is the events whose condition is read off a
case split, with an `event` in every case; the last is the words that are no more than `execute`. -/
theorem exec_answers (i : Instr) (s : State) : Answers s i.isWord (exec i s) := by
  cases i with
  | brd => exact execBrd_answers ..
  | atomiAdd | atomiInc | atomiDec | atomiXchg | atomlAnd | atomlOr | atomlXor | atomlCas | atommMinS | atommMinN | atommMaxS
  | atommMaxN | atomfFaddF32 | atomfFaddBf16x2 | atomfFminF32 | atomfFmaxF32 | phrel | phacq | phar | snap =>
    exact latching_answers _ _ (execute_answers ..)
  | pand | por | pxor | pandn | pnot | pmov => dsimp only [exec]; exact predLogic_answers ..
  | pref | demote | cleanl | invl => dsimp only [exec]; exact cacheOp_answers ..
  | weltRotation | stockpotStallResume | pageWalk | wsyncDone | barComplete | copyUnpark | tileLanded | cutHold | cutSwitch
  | cutQuiesceTimeout | launchEnd | quantumExpire | ageTimerExpire | adminRingPoll | bind | kill | suspend | resume | qconf | quant
  | unbind | volshoot | region | stock | restore | chret | wdog | retire | fwcommit | wread | wrelease | faultRingResume
  | translationQuery | getMeasurements | dieTeardown | linkRetrain | laneSpare | memoryScrub | coreSelfTest | coreRetirement
  | bankSpare | fabricKeepalive | clockStep | clusterClockGate | clusterWake | deviceReset | powerLoss | ageingMonitorReport =>
    exact event_answers ..
  | shoot | pooladd | haackWrite | faultReply | qtailWrite | ardyWrite | apertureLoad | apertureStore => exact outside_answers ..
  | hostLoad => dsimp only [exec]; exact hostAccess_answers fun _ => event_answers ..
  | hostStore => dsimp only [exec]; exact hostAccess_answers fun _ => outside_answers ..
  | hostAtomic =>
    dsimp only [exec]
    refine hostAccess_answers fun _ => ?_
    split <;> exact outside_answers ..
  | peerAccess => exact execPeerAccess_answers ..
  | registerWrite =>
    dsimp only [exec, execRegisterWrite]
    split <;> exact outside_answers ..
  | loadDataReturn | phaseBoundaryDone | sleepExpire | rclaimGrant | qpushGrant | qpopGrant | bowaitTimeout | copyComplete
  | arrayOpComplete | bmodeSwitch | walkPendingRetry | vshootDone | drainChunk | drainRingTimeout | launchDispatch | teamBind
  | lwaitTimeout | preemptRequest | saveComplete | drainDeadlineExpire | suspendComplete | scope | faultPost | watchdogExpire
  | keepaliveLapse | domainAccessTimeout | drainRingResume =>
    dsimp only [exec, execLoadDataReturn, execPhaseBoundaryDone, execSleepExpire, execRclaimGrant, execQpushGrant, execQpopGrant,
      execBowaitTimeout, execCopyComplete, execArrayOpComplete, execBmodeSwitch, execWalkPendingRetry, execVshootDone,
      execDrainChunk, execDrainRingTimeout, execLaunchDispatch, execTeamBind, execLwaitTimeout, execPreemptRequest,
      execSaveComplete, execDrainDeadlineExpire, execSuspendComplete, execScope, execFaultPost, execWatchdogExpire,
      execKeepaliveLapse, execDomainAccessTimeout, execDrainRingResume]
    repeat' split
    all_goals exact event_answers ..
  | _ => dsimp only [exec]; exact execute_answers ..

/-! ## What a step runs -/

theorem exec_event {i : Instr} (word : i.isWord = false) (s : State) : GoesOn (exec i s) := by
  have answers := exec_answers i s
  rwa [word] at answers

theorem exec_word {i : Instr} (word : i.isWord = true) (s : State) :
    (issuing s = none → exec i s = .fault .noIssuingSplit) ∧ ∀ c, issuing s = some c → GoesOn (exec i s) := by
  have answers := exec_answers i s
  rwa [word] at answers

theorem exec_issues {s : State} {c : Iss} (h : issuing s = some c) (i : Instr) : GoesOn (exec i s) := by
  cases word : i.isWord with
  | true => exact (exec_word word s).2 c h
  | false => exact exec_event word s

theorem GoesOn.andThen {o : Host.Outcome State Fault Refusal} (h : GoesOn o) (f : State → State) : GoesOn (andThen f o) := by
  obtain ⟨t, rfl⟩ := h
  exact ⟨f t, rfl⟩

/-! ### The events that wait -/

/-- No word is among them. -/
def AllEvents (is : List Instr) : Prop := ∀ i ∈ is, i.isWord = false

namespace AllEvents

theorem nil : AllEvents [] := fun _ h => absurd h List.not_mem_nil

theorem cons {i : Instr} {is : List Instr} (h : i.isWord = false) (k : AllEvents is) : AllEvents (i :: is) :=
  List.forall_mem_cons.2 ⟨h, k⟩

theorem append_iff {is js : List Instr} : AllEvents (is ++ js) ↔ AllEvents is ∧ AllEvents js := List.forall_mem_append

theorem ite {is js : List Instr} {p : Prop} [Decidable p] (h : AllEvents is) (k : AllEvents js) :
    AllEvents (if p then is else js) := by
  split
  · exact h
  · exact k

theorem map {α : Type} {f : α → Instr} (xs : List α) (h : ∀ x, (f x).isWord = false) : AllEvents (xs.map f) :=
  List.forall_mem_map.2 fun x _ => h x

theorem filterMap {α : Type} {f : α → Option Instr} (xs : List α) (h : ∀ x, ∀ i ∈ f x, i.isWord = false) :
    AllEvents (xs.filterMap f) := by
  intro i hi
  obtain ⟨x, -, hx⟩ := List.mem_filterMap.1 hi
  exact h x i hx

theorem flatMap {α : Type} {f : α → List Instr} (xs : List α) (h : ∀ x, AllEvents (f x)) : AllEvents (xs.flatMap f) := by
  intro i hi
  obtain ⟨x, -, hx⟩ := List.mem_flatMap.1 hi
  exact h x i hx

end AllEvents

/-- An event that is there under a condition. -/
theorem ite_some_event {p : Prop} [Decidable p] {i : Instr} (h : i.isWord = false) :
    ∀ j ∈ (if p then some i else none), j.isWord = false := by
  intro j hj
  split at hj
  · cases hj
    exact h
  · cases hj

theorem ite_none_event {p : Prop} [Decidable p] {i : Instr} (h : i.isWord = false) :
    ∀ j ∈ (if p then none else some i), j.isWord = false := by
  intro j hj
  split at hj
  · cases hj
  · cases hj
    exact h

theorem cutEvent_event (s : State) : (cutEvent s).isWord = false := by
  unfold cutEvent
  split
  · rfl
  · split <;> rfl

theorem parkEvent_event (p : Park) (w sp : Nat) (s : State) : ∀ i ∈ parkEvent p w sp s, i.isWord = false := by
  intro i h
  cases p with
  | no | fail => cases h
  | snap | cutHold => exact Option.some.inj h ▸ cutEvent_event s
  | _ => exact Option.some.inj h ▸ rfl

theorem queueEvents_event (s : State) : AllEvents (queueEvents s) :=
  .flatMap _ fun _ => .ite (.flatMap _ fun _ => .ite (.cons rfl (.cons rfl .nil)) .nil) .nil

theorem bindEvents_event (s : State) : AllEvents (bindEvents s) := by
  refine .filterMap _ fun ci i h => ?_
  split at h
  · cases h
    rfl
  · cases h

theorem teamEvents_event (s : State) : AllEvents (teamEvents s) := by
  refine .flatMap _ fun t => ?_
  unfold teamEvent
  split
  · exact .cons rfl .nil
  · exact .ite (.cons rfl .nil) (.cons rfl .nil)
  · exact .cons rfl .nil
  · exact .cons rfl .nil
  · exact .nil

theorem faultEvents_event (s : State) : AllEvents (faultEvents s) :=
  AllEvents.append_iff.2 ⟨.map _ fun _ => rfl, .flatMap _ fun _ =>
    AllEvents.append_iff.2 ⟨.ite .nil (.cons rfl .nil), .ite (.cons rfl .nil) .nil⟩⟩

theorem admInstr_event (s : State) (n : Nat) : ∀ i ∈ admInstr s n, i.isWord = false := by
  intro i h
  simp only [admInstr] at h
  split at h <;> cases h <;> rfl

theorem adminEvents_event (s : State) : AllEvents (adminEvents s) :=
  AllEvents.append_iff.2 ⟨.ite (.cons rfl .nil) .nil, .filterMap _ fun _ => admInstr_event s _⟩

theorem waitingEvents_event (s : State) : AllEvents (waitingEvents s) := by
  simp only [waitingEvents, AllEvents.append_iff, and_assoc]
  refine ⟨?parked, ?copies, ?arrays, ?tiles, ?ends, ?drain, queueEvents_event s, bindEvents_event s, teamEvents_event s,
    faultEvents_event s, adminEvents_event s, ?dogs, ?worn, ?recovery⟩
  case parked => exact .flatMap _ fun _ => .filterMap _ fun _ => parkEvent_event _ _ _ s
  case copies => exact .flatMap _ fun _ => .map _ fun _ => rfl
  case arrays => exact .filterMap _ fun _ => ite_none_event rfl
  case tiles => exact .flatMap _ fun _ => .filterMap _ fun _ => ite_some_event rfl
  case ends | dogs | worn => exact .filterMap _ fun _ => ite_some_event rfl
  case drain => exact .ite .nil (.ite (.cons rfl .nil) (.cons rfl (.cons rfl .nil)))
  case recovery => exact .map _ fun _ => rfl

theorem waited_event {s : State} : ∀ e ∈ waited s, e.1.isWord = false := by
  intro e h
  unfold waited at h
  split at h
  · obtain ⟨i, hi, rfl⟩ := Option.map_eq_some_iff.1 h
    exact waitingEvents_event s i (List.mem_of_getElem? hi)
  · cases h

/-! ### The events that come before an instruction -/

theorem hubEvent_event {s : State} : ∀ e ∈ hubEvent s, e.1.isWord = false := by
  intro e h
  unfold hubEvent at h
  split at h
  · split at h
    · cases h
    · rename_i open_
      cases h
      simp only [not_or, Bool.not_eq_true] at open_
      exact open_.2.1
  · cases h

theorem dueEvent_event {s : State} : ∀ e ∈ dueEvent s, e.1.isWord = false := by
  intro e h
  unfold dueEvent at h
  split at h
  · split at h
    · cases h
    · rename_i word
      cases h
      exact Bool.eq_false_iff.2 word
  · cases h

theorem rotation_some {s : State} {e : Instr × State} (h : e ∈ rotation s) :
    ∃ w, w < s.warps.length ∧ rotates s w = true ∧ e = (.weltRotation w, s) := by
  obtain ⟨w, found, rfl⟩ := Option.map_eq_some_iff.1 h
  exact ⟨w, List.mem_range.1 (List.mem_of_find?_eq_some found), List.find?_some found, rfl⟩

/-- The event whose turn comes before the next instruction, unless that is the second word of a pair (R83). -/
noncomputable def turnOf (s : State) : Option (Instr × State) :=
  (hubEvent s).orElse fun _ => (dueEvent s).orElse fun _ => (rotation s).orElse fun _ => waited s

theorem turnOf_event {s : State} : ∀ e ∈ turnOf s, e.1.isWord = false := by
  intro e h
  simp only [turnOf, Option.orElse_eq_or, Option.mem_def, Option.or_eq_some_iff] at h
  obtain hub | ⟨-, due | ⟨-, rot | ⟨-, wait⟩⟩⟩ := h
  · exact hubEvent_event e hub
  · exact dueEvent_event e due
  · obtain ⟨w, -, -, rfl⟩ := rotation_some rot
    rfl
  · exact waited_event e wait

theorem midPair_issuing {s : State} {c : Iss} (h : midPair s = some c) : issuing s = some c ∧ c.hasXp = true := by
  unfold midPair at h
  split at h
  · split at h
    · cases h
      exact ⟨‹_›, ‹_›⟩
    · cases h
  · cases h

theorem nextUp_insn {s : State} {c : Iss} (h : nextUp s = .insn c) : issuing s = some c := by
  unfold nextUp at h
  split at h
  · cases h
    exact (midPair_issuing ‹_›).1
  · split at h
    · cases h
    · split at h
      · cases h
        assumption
      · cases h

theorem nextUp_event {s t : State} {i : Instr} (h : nextUp s = .event i t) : i.isWord = false := by
  unfold nextUp at h
  split at h
  · cases h
  · split at h
    · cases h
      exact turnOf_event _ ‹_›
    · split at h <;> cases h

/-! ### A fetch leaves the split that issues -/

theorem issuing_congr {s t : State} (hsched : t.sched = s.sched) (hwarps : t.warps = s.warps) (hteams : t.teams = s.teams)
    (hsnap : t.snap = s.snap) : issuing t = issuing s := by
  unfold issuing issOf Iss.ready Iss.unordered State.team
  rw [hsched, hwarps, hteams, hsnap]

theorem evictL2_snap (s : State) (asid va : Nat) : (evictL2 s asid va).snap = s.snap := by
  unfold evictL2
  refine List.foldlRecOn (motive := fun t : State => t.snap = s.snap) _ _ rfl fun t h x _ => ?_
  dsimp only
  split <;> exact h

theorem makeRoomL2_snap (s : State) (k h : Nat) : (makeRoomL2 s k h).snap = s.snap := by
  unfold makeRoomL2
  dsimp only
  split
  · rfl
  · split
    · rfl
    · exact evictL2_snap ..

theorem touchL2_snap (s : State) (c : Nat) (l : Leaf) (va : Nat) : (touchL2 s c l va).snap = s.snap := by
  unfold touchL2 touchL2By
  split
  · rfl
  · split
    · rfl
    · dsimp only
      split <;> exact makeRoomL2_snap ..

theorem fetchWord_snap (s : State) (k c : Nat) (l : Leaf) (va : Nat) : (fetchWord s k c l va).1.snap = s.snap := by
  unfold fetchWord
  split
  · rfl
  · exact touchL2_snap ..

theorem fetchWord_issuing (s : State) (k c : Nat) (l : Leaf) (va : Nat) : issuing (fetchWord s k c l va).1 = issuing s :=
  have only := fetchWord_only s k c l va
  issuing_congr only.sched only.warps only.teams (fetchWord_snap ..)

theorem fetch_ok {s : State} {c : Iss} {r : State × Nat} (h : fetch s c = .ok r) :
    ∃ l, r.1 = (fetchWord s (clusterOf c.warp.core) (s.ctxOf c.warp) l c.split.pc).1 := by
  simp only [fetch] at h
  split at h
  · cases h
  · split at h
    · cases h
    · cases h
    · split at h
      · cases h
      · split at h
        · cases h
        · cases h
          exact ⟨_, rfl⟩

/-! ### The step -/

theorem runWord_goesOn {s : State} {c d : Iss} (h : issuing s = some c) (w : Nat) : GoesOn (runWord s d w) := by
  unfold runWord
  split
  · exact exec_issues h _
  · exact ⟨_, rfl⟩

theorem stepInsn_goesOn {s : State} {c : Iss} (h : issuing s = some c) : GoesOn (stepInsn s c) := by
  unfold stepInsn
  split
  · exact ⟨_, rfl⟩
  · obtain ⟨l, hl⟩ := fetch_ok ‹_›
    exact (runWord_goesOn (c := c) (hl ▸ (fetchWord_issuing ..).trans h) _).andThen finish

theorem step_goesOn (s : State) : GoesOn (step s) := by
  unfold step
  split
  · exact stepInsn_goesOn (nextUp_insn ‹_›)
  · exact (exec_event (nextUp_event ‹_›) _).andThen _
  · exact ⟨_, rfl⟩

/-- Settles O57: a step runs an event, which always comes to a next state, or a word with a split that issues, whose fetch has changed
nothing that `issuing` reads. -/
theorem everyStepGoesOn : Obligations.EveryStepGoesOn :=
  ⟨step_goesOn, fun _ s word => (exec_word word s).1, fun _ s word => exec_event word s, fun i _ _ h => exec_issues h i⟩

end Sys2Proof.Machine
end

section
/-!
What a fetch reads when it fills L2, and the state in which this is not what its home held before (O58; spec R76, R77, R307, R308).
-/

namespace Sys2Proof.Machine

/-! ## A fetch that fills L2 -/

theorem heldL2_none {s : State} {c va : Nat} (l : Leaf) (h : s.l2Line? (s.ctx c).asid va = none) : heldL2 s c l va = none := by
  unfold heldL2
  rw [h, ite_self]

/-- A line put first in L2 is what its home holds, where the slice is the home. -/
theorem heldL2_cons {s : State} {c va : Nat} {l : Leaf} {x : Line} (ls : List Line)
    (reached : (l.sysa || fencedHome s c va) = false) (asid : x.asid = (s.ctx c).asid) (hva : x.va = va) :
    heldL2 { s with mem := { s.mem with l2 := x :: ls } } c l va = some x := by
  have home : (l.sysa || fencedHome { s with mem := { s.mem with l2 := x :: ls } } c va) = false := reached
  unfold heldL2
  rw [if_neg (Bool.eq_false_iff.1 home)]
  exact List.find?_cons_of_pos (by simp [asid, hva, State.ctx])

/-- A fetch that misses the instruction cache and L2 reads the line of its home as it stands once L2 has made room. -/
theorem fetchWord_filled {s t : State} {k c : Nat} {l : Leaf} {va : Nat}
    (missed : (s.cluster k).icache.find? (isLine (s.asid c) (lineOf va)) = none) (inL2 : homeInL2 s c l (lineOf va) = true)
    (absent : s.l2Line? (s.ctx c).asid (lineOf va) = none)
    (made : makeRoomL2 s (ctlOf ((s.ctx c).placement (lineOf va)) (lineOf va)) 0 = t)
    (room : l2Room t (ctlOf ((s.ctx c).placement (lineOf va)) (lineOf va)) = true)
    (reached : (l.sysa || fencedHome t c (lineOf va)) = false) :
    (fetchWord s k c l va).2.1 = leNat (((homeLine t c l (lineOf va)).1.drop (va % 128)).take 4) := by
  simp only [fetchWord, missed]
  simp only [touchL2, touchL2By, inL2, absent, made, room, Bool.not_true, Bool.false_eq_true, if_false, if_true]
  rw [freshLine]
  dsimp only
  rw [homeLine, heldL2_cons _ reached rfl rfl]

/-! ## A frame under two pages -/

/-- The leaf of frame 0x40 of stack 0. -/
def sharedLeaf : Leaf :=
  { world := false, rd := true, wr := true, ex := true, sysa := false, cmpr := false, snx := false, cls := 2, home := 0, key := 0
    frame := 0x40, big := false }

/-- A line of that frame under page 0x50, written, and marked evict-first. -/
def synonymLine : Line :=
  { asid := 1, ctx := 0, va := 0x500000, leaf := sharedLeaf, bytes := List.replicate 128 1#8, dirty := [true]
    poison := List.replicate 4 false, mark := 1, form := 0 }

/-- Line `j` of the pages from 0x100 on, each page on the frame of its own number, as memory holds it. -/
def cleanLine (j : Nat) : Line :=
  let va := 0x1000000 + 128 * j
  { asid := 1, ctx := 0, va := va, leaf := { sharedLeaf with frame := va / 65536 }, bytes := List.replicate 128 0#8, dirty := [false]
    poison := List.replicate 4 false, mark := 0, form := 0 }

/-- The lines that fill the slice of stack 0 but for one. -/
def cleanLines : List Line := (List.range (Config.l2Lines - 1)).map cleanLine

/-- A split about to fetch at 0x400000. -/
def fetchingSplit : Split := { Split.none0 with pc := 0x400000, entry := 1#32, em := 1#32 }

def fetchingIss : Iss :=
  { w := 0, sp := 0, warp := { Warp.blank with st := .running, live := 1#32, split0 := some fetchingSplit }, split := fetchingSplit
    tid := 0 }

/-- A context with all its memory on stack 0. -/
def crowdedCtx : Context := { Context.reset with st := 1, asid := 1, pmap := List.replicate 64 2#32 }

/-- A device whose pages 0x40 and 0x50 lie on one frame, with the line of page 0x50 and `ls` in L2. -/
def crowdedState (ls : List Line) : State :=
  { State.reset with
    ctxs := [crowdedCtx]
    teams := [{ Team.none0 with res := .running }]
    warps := [fetchingIss.warp]
    mp := { State.reset.mp with
      tlb := [{ ctl := 0, asid := 1, page := 0x40, leaf := sharedLeaf }, { ctl := 0, asid := 1, page := 0x50, leaf := sharedLeaf }] }
    mem := { State.reset.mem with l2 := synonymLine :: ls }
    sched := { State.reset.sched with issue := some (0, 0) } }

/-- The same once the line of page 0x50 has been written back and has left; the marks of blocks do not matter. -/
def writtenBackState (ls : List Line) (poison : List Nat) (blocks : List (Nat × Nat)) : State :=
  { crowdedState ls with
    mem := { (crowdedState ls).mem with
      home := memWrite [] 0x400000 synonymLine.bytes, poison := poison, blocks := blocks, l2 := ls } }

/-- What matters of `cleanLines`, which is too long a list to be evaluated. -/
structure FillsSlice (ls : List Line) : Prop where
  length : ls.length = Config.l2Lines - 1
  form : ∀ x ∈ ls, x.form = 0
  mark : ∀ x ∈ ls, x.mark = 0
  ctx : ∀ x ∈ ls, x.ctx = 0
  far : ∀ x ∈ ls, 0x1000000 ≤ x.va

theorem cleanLines_fill : FillsSlice cleanLines where
  length := by simp [cleanLines]
  form := List.forall_mem_map.2 fun _ _ => rfl
  mark := List.forall_mem_map.2 fun _ _ => rfl
  ctx := List.forall_mem_map.2 fun _ _ => rfl
  far := List.forall_mem_map.2 fun _ _ => Nat.le_add_right ..

theorem crowdedCtx_placement (va : Nat) : crowdedCtx.placement va = 2 := by
  have lt : bitsN va 50 6 < 64 := Nat.mod_lt _ (by decide)
  show ((List.replicate 64 2#32).getD (bitsN va 50 6) 0#32).toNat = 2
  rw [List.getD_eq_getElem?_getD, List.getElem?_replicate, if_pos lt]
  rfl

theorem lineStack_crowdedCtx {s : State} {x : Line} (hs : s.ctx 0 = crowdedCtx) (h : x.ctx = 0) : lineStack s x = 0 := by
  unfold lineStack
  rw [h, hs, crowdedCtx_placement]
  rfl

section
variable {ls : List Line}

theorem crowded_ctx : (crowdedState ls).ctx 0 = crowdedCtx := rfl

theorem writtenBack_ctx (poison : List Nat) (blocks : List (Nat × Nat)) : (writtenBackState ls poison blocks).ctx 0 = crowdedCtx := rfl

theorem crowded_issues : issuing (crowdedState ls) = some fetchingIss := rfl

/-- Both pages lie on the frame. -/
theorem crowded_translates : translate (crowdedState ls) 0 0x400000 = .leaf sharedLeaf ∧
    translate (crowdedState ls) 0 0x500000 = .leaf sharedLeaf := by
  simp only [translate, crowded_ctx, crowdedCtx_placement]
  exact ⟨rfl, rfl⟩

/-- Memory holds what has been written under the other page. -/
theorem writtenBack_byte (poison : List Nat) (blocks : List (Nat × Nat)) {i : Nat} (h : i < 128) :
    byteBelow (writtenBackState ls poison blocks) 0 sharedLeaf (0x400000 + i) = 1#8 := by
  have frame : physAddr 2 sharedLeaf (0x400000 + i) = 0x400000 + i := by
    have page : bitsN (0x400000 + i) 12 4 = 0 := by unfold bitsN; omega
    show 0 * 2 ^ 36 + (4096 * ((16 * 0x40 + bitsN (0x400000 + i) 12 4) / 1) + (0x400000 + i) % 4096) = _
    omega
  unfold byteBelow
  rw [writtenBack_ctx, crowdedCtx_placement]
  show memGet (memWrite [] 0x400000 (List.replicate 128 1#8)) (physAddr 2 sharedLeaf (0x400000 + i)) = 1#8
  rw [frame, memGet_memWrite rfl, if_pos (by rw [List.length_replicate]; omega), Nat.add_sub_cancel_left,
    List.getD_eq_getElem?_getD, List.getElem?_replicate, if_pos h]
  rfl

variable (full : FillsSlice ls)
include full

/-! ### The slice is full, and the line of page 0x50 leaves -/

theorem fills_inStack {s : State} (hs : s.ctx 0 = crowdedCtx) : (ls.filter fun x => x.form == 0 && lineStack s x == 0) = ls := by
  refine List.filter_eq_self.2 fun x hx => ?_
  simp [full.form x hx, lineStack_crowdedCtx hs (full.ctx x hx)]

theorem fills_absent {va : Nat} (h : va < 0x1000000) : (ls.find? fun x => x.asid == 1 && x.va == va) = none := by
  refine List.find?_eq_none.2 fun x hx => ?_
  have far := full.far x hx
  simp only [Bool.and_eq_true, beq_iff_eq, not_and]
  omega

theorem crowded_inStack :
    ((synonymLine :: ls).filter fun x => x.form == 0 && lineStack (crowdedState ls) x == 0) = synonymLine :: ls := by
  have synonym : (synonymLine.form == 0 && lineStack (crowdedState ls) synonymLine == 0) = true := by
    rw [lineStack_crowdedCtx crowded_ctx rfl]
    rfl
  rw [List.filter_cons_of_pos (p := fun x => x.form == 0 && lineStack (crowdedState ls) x == 0) synonym,
    fills_inStack full crowded_ctx]

/-- No line is marked evict-last, so the mark that counts of each is its own. -/
theorem crowded_blockMark (x : Line) : blockMark (crowdedState ls) x = x.mark := by
  have none : ∀ y ∈ (crowdedState ls).mem.l2, y.mark ≠ 2 := by
    refine List.forall_mem_cons.2 ⟨by decide, fun y hy => ?_⟩
    rw [full.mark y hy]
    decide
  unfold blockMark
  rw [if_neg]
  simp only [List.any_eq_true, Bool.and_eq_true, beq_iff_eq, not_exists, not_and]
  exact fun y hy _ => none y hy

theorem crowded_victim (tick : Nat) : victimOf tick 0 (synonymLine :: ls) = some synonymLine := by
  have keep : (synonymLine :: ls).filter (fun x => x.mark != 2) = synonymLine :: ls := by
    refine List.filter_eq_self.2 (List.forall_mem_cons.2 ⟨rfl, fun x hx => ?_⟩)
    rw [full.mark x hx]
    rfl
  have first : (synonymLine :: ls).filter (fun x => x.mark == 1) = [synonymLine] := by
    rw [List.filter_cons_of_pos rfl, List.filter_eq_nil_iff.2]
    intro x hx
    rw [full.mark x hx]
    decide
  unfold victimOf
  simp only [keep, first, Nat.mod_one, List.length_singleton]
  rfl

theorem crowded_evictL2 : ∃ poison blocks, evictL2 (crowdedState ls) 1 0x500000 = writtenBackState ls poison blocks := by
  have block : (crowdedState ls).mem.l2.filter (fun x => x.asid == 1 && x.va / 256 * 256 == 0x500000) = [synonymLine] := by
    show (synonymLine :: ls).filter _ = _
    rw [List.filter_cons_of_pos (by decide), List.filter_eq_nil_iff.2]
    intro x hx
    have far := full.far x hx
    simp only [Bool.and_eq_true, beq_iff_eq, not_and]
    omega
  have others : (crowdedState ls).mem.l2.filter (fun x => !(x.asid == 1 && x.va / 256 * 256 == 0x500000)) = ls := by
    show (synonymLine :: ls).filter _ = _
    rw [List.filter_cons_of_neg (by decide), List.filter_eq_self.2]
    intro x hx
    have far := full.far x hx
    simp only [Bool.not_eq_true', Bool.and_eq_false_imp, beq_iff_eq, beq_eq_false_iff_ne, ne_eq]
    omega
  have frame : physAddr (((crowdedState ls).ctx synonymLine.ctx).placement synonymLine.va) synonymLine.leaf synonymLine.va =
      0x400000 := by
    rw [show synonymLine.ctx = 0 from rfl, crowded_ctx, crowdedCtx_placement]
    decide
  have written : (synonymLine.dirty == [true] && !fencedStack (crowdedState ls) (0x400000 / 2 ^ 36)) = true := rfl
  unfold evictL2
  simp only [Nat.reduceDiv, Nat.reduceMul, block, List.foldl_cons, List.foldl_nil, frame, if_pos written, others]
  exact ⟨_, _, rfl⟩

theorem crowded_makeRoomL2 : ∃ poison blocks, makeRoomL2 (crowdedState ls) 0 0 = writtenBackState ls poison blocks := by
  have taken : ¬ (synonymLine :: ls).length < Config.l2Lines := by
    rw [List.length_cons, full.length]
    simp [Config.l2Lines]
  unfold makeRoomL2
  rw [show (crowdedState ls).mem.l2 = synonymLine :: ls from rfl]
  simp only [crowded_inStack full, crowded_blockMark full, List.map_id', taken, if_false, crowded_victim full]
  exact crowded_evictL2 full

theorem writtenBack_room (poison : List Nat) (blocks : List (Nat × Nat)) : l2Room (writtenBackState ls poison blocks) 0 = true := by
  unfold l2Room
  rw [show (writtenBackState ls poison blocks).mem.l2 = ls from rfl, fills_inStack full (writtenBack_ctx ..), full.length]
  simp [Config.l2Lines]

/-! ### What the fetch reads, and what its home held -/

theorem crowded_absent : (crowdedState ls).l2Line? ((crowdedState ls).ctx 0).asid 0x400000 = none := by
  show (synonymLine :: ls).find? (fun x => x.asid == 1 && x.va == 0x400000) = none
  rw [List.find?_cons_of_neg (by decide), fills_absent full (by decide)]

/-- The line of page 0x40 is then the one that has been written under page 0x50. -/
theorem writtenBack_line (poison : List Nat) (blocks : List (Nat × Nat)) :
    (homeLine (writtenBackState ls poison blocks) 0 sharedLeaf 0x400000).1.take 4 = List.replicate 4 1#8 := by
  have absent : (writtenBackState ls poison blocks).l2Line? ((writtenBackState ls poison blocks).ctx 0).asid 0x400000 = none :=
    fills_absent full (va := 0x400000) (by simp)
  unfold homeLine
  rw [heldL2_none _ absent]
  dsimp only [belowL2]
  rw [← List.map_take, List.take_range]
  refine List.map_eq_replicate_iff.2 fun i hi => writtenBack_byte _ _ ?_
  have lt := List.mem_range.1 hi
  omega

theorem crowded_fetches : (fetchWord (crowdedState ls) 0 0 sharedLeaf 0x400000).2.1 = 0x01010101 := by
  obtain ⟨poison, blocks, made⟩ := crowded_makeRoomL2 full
  have stack : ctlOf (((crowdedState ls).ctx 0).placement 0x400000) 0x400000 = 0 := by
    rw [crowded_ctx, crowdedCtx_placement]
    rfl
  have inL2 : homeInL2 (crowdedState ls) 0 sharedLeaf 0x400000 = true := by
    unfold homeInL2
    rw [crowded_ctx, crowdedCtx_placement]
    rfl
  have reached : (sharedLeaf.sysa || fencedHome (writtenBackState ls poison blocks) 0 0x400000) = false := by
    unfold fencedHome
    rw [writtenBack_ctx, crowdedCtx_placement]
    rfl
  have filled := fetchWord_filled (s := crowdedState ls) (t := writtenBackState ls poison blocks) (k := 0) (c := 0) (l := sharedLeaf)
    (va := 0x400000)
  rw [show lineOf 0x400000 = 0x400000 from rfl, stack] at filled
  rw [filled rfl inL2 (crowded_absent full) made (writtenBack_room full ..) reached, show 0x400000 % 128 = 0 from rfl,
    List.drop_zero, writtenBack_line full]
  rfl

theorem crowded_home {i : Nat} (h : i < 4) : homeByte (crowdedState ls) 0 sharedLeaf (0x400000 + i) = 0#8 := by
  have line : lineOf (0x400000 + i) = 0x400000 := by unfold lineOf; omega
  unfold homeByte
  rw [line, heldL2_none _ (crowded_absent full)]
  dsimp only [byteBelow]
  rw [crowded_ctx, crowdedCtx_placement]
  rfl

end

/-! ## The statement -/

/-- Refutes O58: what a fetch reads is the home's word after L2 has made room for it, not before. In `crowdedState cleanLines` the line
that leaves is a written one of the same frame under another page, so the fetch reads 0x01010101 where the home held zero. -/
theorem not_stepRunsDecoded : ¬ Obligations.StepRunsDecoded := by
  unfold Obligations.StepRunsDecoded
  intro h
  obtain ⟨-, fetches, -⟩ := h (crowdedState cleanLines) fetchingIss crowded_issues
  have fetched := (fetches sharedLeaf crowded_translates.1 rfl).2 rfl
  have zeros : (List.range 4).map (fun i => homeByte (crowdedState cleanLines) 0 sharedLeaf (0x400000 + i)) = List.replicate 4 0#8 :=
    List.map_eq_replicate_iff.2 fun i hi => crowded_home cleanLines_fill (List.mem_range.1 hi)
  have differ := (crowded_fetches cleanLines_fill).symm.trans (fetched.trans (congrArg leNat zeros))
  exact absurd differ (by decide)

end Sys2Proof.Machine
end

section
/-!
The FP32 instructions, the packed halves and CVT complete with their function of the lane values (O4; spec 04 R102, R104, R107, 05 R128 to R131).
-/

namespace Sys2Proof.Machine

/-! ## Lane by lane -/

section
variable {i : Instr} {cob nw : Bool} {d : Dst} {a b : Src}

theorem yields1_of_map1 {f : Word → Word} (runs : ∀ s, exec i s = unary cob s nw d a (map1 f)) : Yields1 i cob nw d a f := by
  intro s c h
  refine ⟨map1 f (c.read .a a), map1_shape .., fun l hl => map1_lane _ _ hl, ?_⟩
  rw [runs]
  exact unary_yields h fun hu => shape_isU (map1_shape ..) hu

theorem yields2_of_map2 {f : Word → Word → Word} (runs : ∀ s, exec i s = binary cob s nw d a b (map2 f)) :
    Yields2 i cob nw d a b shapePlain f := by
  intro s c h
  refine ⟨map2 f (c.read .a a) (c.read .b b), map2_shape .., fun l hl => map2_lane _ _ _ hl, ?_⟩
  rw [runs]
  exact binary_yields h fun ha hb => shape_isU (map2_shape ..) (by rw [ha, hb]; rfl)

theorem yields3_of_map3 {f : Word → Word → Word → Word} (runs : ∀ s, exec i s = ternary cob s nw d a b f) :
    Yields3 i cob nw d a b f := by
  intro s c h
  refine ⟨map3 f (c.read .a a) (c.read .b b) (c.oldD d), map3_shape .., fun l hl => map3_lane _ _ _ _ hl, ?_⟩
  rw [runs]
  exact ternary_yields h

end

/-! ## CVT (R130, R131) -/

theorem cvt_unary {rnd : Nat} (det : rnd ≠ 5) (nw : Bool) (d : Dst) (a : Src) (src dst : Nat) (s : State) :
    exec (.cvt nw d a rnd src dst) s = unary true s nw d a (map1 (cvtWord rnd src dst 0#32)) := by
  show execCvt nw d a rnd src dst s = _
  simp only [execCvt, unary, if_neg det]

/-- R104: the generators of the lanes of em have stepped, those of the others have not. -/
theorem stepSrng_lane (em : Mask) (g : List Word) {l : Nat} (hl : l < 32) :
    (stepSrng em g).getD l 0#32 = if em.getLsbD l then srngStep (g.getD l 0#32) else g.getD l 0#32 := by
  simp [stepSrng, List.getD, hl]

/-- A register write does not look at the generators. -/
theorem put_withSrng (x : Warp) (g : List Word) (em live : Mask) (p : Place) (v : Reg) :
    { x.put em live p v with srng := g } = { x with srng := g }.put em live p v := by
  have set : { x.setReg p v with srng := g } = { x with srng := g }.setReg p v := by cases p <;> rfl
  have cleaned (y : Warp) : { y.clean p with srng := g } = { y with srng := g }.clean p := by
    unfold Warp.clean
    split <;> rfl
  unfold Warp.put
  split
  · rw [cleaned, set]
  · exact set

/-- Under rounding code 5 the generators step with the result, whatever becomes of it. -/
theorem cvt_stochastic {s : State} {c : Iss} {nw : Bool} {d : Dst} {a : Src} {src dst : Nat}
    (h : Issues s c { d := dstOp d, a := srcOp a, cob := true }) :
    Yields s c { c.warp with srng := stepSrng c.em c.warp.srng } nw d false
      (cvtStochastic src dst (stepSrng c.em c.warp.srng) (c.read .a a)) (exec (.cvt nw d a 5 src dst) s) :=
  resultW_yieldsFrom (x0 := fun w => { w with srng := stepSrng c.em c.warp.srng }) h (fun hu => nomatch hu)
    (fun p v => put_withSrng c.warp _ c.em c.live p v) rfl rfl rfl rfl rfl rfl rfl

/-- Settles O4: each instruction is the unary, binary or ternary of its function; CVT under code 5 is a result beside new generators. -/
theorem packedAndConvertResults : Obligations.PackedAndConvertResults := by
  unfold Obligations.PackedAndConvertResults
  refine ⟨fun nw d a b => ?floats, fun nw d a b rnd src dst => ?packed⟩
  case floats =>
    have two {i : Instr} {f} := yields2_of_map2 (i := i) (cob := false) (nw := nw) (d := d) (a := a) (b := b) (f := f)
    have three {i : Instr} {f} := yields3_of_map3 (i := i) (cob := false) (nw := nw) (d := d) (a := a) (b := b) (f := f)
    have one {i : Instr} {f} := yields1_of_map1 (i := i) (cob := false) (nw := nw) (d := d) (a := a) (f := f)
    exact ⟨two fun _ => rfl, two fun _ => rfl, two fun _ => rfl, three fun _ => rfl, three fun _ => rfl, two fun _ => rfl, two fun _ => rfl,
      one fun _ => rfl, one fun _ => rfl, one fun _ => rfl, one fun _ => rfl, one fun _ => rfl, one fun _ => rfl, one fun _ => rfl,
      one fun _ => rfl, one fun _ => rfl⟩
  case packed =>
    have two {i : Instr} {f} := yields2_of_map2 (i := i) (cob := false) (nw := nw) (d := d) (a := a) (b := b) (f := f)
    have three {i : Instr} {f} := yields3_of_map3 (i := i) (cob := false) (nw := nw) (d := d) (a := a) (b := b) (f := f)
    have one {i : Instr} {f} := yields1_of_map1 (i := i) (cob := false) (nw := nw) (d := d) (a := a) (f := f)
    refine ⟨two fun _ => rfl, two fun _ => rfl, three fun _ => rfl, two fun _ => rfl, two fun _ => rfl, two fun _ => rfl, two fun _ => rfl,
      three fun _ => rfl, two fun _ => rfl, two fun _ => rfl, two fun _ => rfl, one fun _ => rfl, one fun _ => rfl,
      fun det => yields1_of_map1 (cvt_unary det nw d a src dst), fun s c h => ?_⟩
    have stepped : ∀ l, l < 32 → _ := fun l hl => stepSrng_lane c.em c.warp.srng hl
    exact ⟨_, stepSrng c.em c.warp.srng, rfl, by simp [stepSrng], stepped, fun l hl => vec_lane _ hl, cvt_stochastic h⟩

end Sys2Proof.Machine
end

section
/-!
Exact values as rational numbers: what the model's exact arithmetic means, sign of zero included (spec 04 R97, R106, R112).
-/

namespace Sys2Proof.Machine

/-! ## Signed magnitudes -/

/-- A magnitude under a sign. -/
def signedRat (s : Bool) (q : ℚ) : ℚ := if s then -q else q

@[simp] theorem signedRat_true (q : ℚ) : signedRat true q = -q := rfl
@[simp] theorem signedRat_false (q : ℚ) : signedRat false q = q := rfl

theorem signedRat_mul (s : Bool) (p q : ℚ) : signedRat s p * q = signedRat s (p * q) := by cases s <;> simp

theorem signedRat_not (s : Bool) (q : ℚ) : signedRat (!s) q = -signedRat s q := by cases s <;> simp

theorem signedRat_xor (s t : Bool) (p q : ℚ) : signedRat (s != t) (p * q) = signedRat s p * signedRat t q := by
  cases s <;> cases t <;> simp

theorem signedRat_add (s : Bool) (p q : ℚ) : signedRat s (p + q) = signedRat s p + signedRat s q := by
  cases s
  · rfl
  · exact neg_add p q

theorem signedRat_abs (s : Bool) {q : ℚ} (h : 0 ≤ q) : |signedRat s q| = q := by cases s <;> simp [abs_of_nonneg h]

theorem signedRat_neg_iff {s : Bool} {q : ℚ} (h : 0 < q) : signedRat s q < 0 ↔ s = true := by
  cases s <;> simp [h, h.le]

theorem signedRat_inj {s : Bool} {p q : ℚ} : signedRat s p = signedRat s q ↔ p = q := by cases s <;> simp

theorem signedRat_eq_zero {s : Bool} {q : ℚ} : signedRat s q = 0 ↔ q = 0 := by cases s <;> simp

theorem ratDist_abs (a b : ℚ) : ratDist a b = |a - b| := by
  unfold ratDist
  split
  · rename_i lt
    rw [abs_sub_comm, abs_of_pos (by linarith)]
  · rename_i ge
    rw [abs_of_nonneg (by linarith)]

/-- Under one sign two numbers are as far apart as their magnitudes, under different signs as their sum. -/
theorem signedRat_dist (s t : Bool) {p q : ℚ} (hp : 0 ≤ p) (hq : 0 ≤ q) :
    |signedRat s p - signedRat t q| = if s = t then |p - q| else p + q := by
  cases s <;> cases t <;> simp [signedRat]
  · positivity
  · rw [show -p - q = -(p + q) by ring, abs_neg, abs_of_nonneg (by linarith)]
  · rw [show -p + q = -(p - q) by ring, abs_neg]

/-- `x` is the number `q` with the sign `s`, which a zero has too. -/
def Ex.Is (x : Ex) (s : Bool) (q : ℚ) : Prop := ∃ n d : Nat, x = .fin s n d ∧ 0 < d ∧ q = signedRat s (n / d)

theorem Ex.is_fin (s : Bool) (n : Nat) {d : Nat} (h : 0 < d) : (Ex.fin s n d).Is s (signedRat s (n / d)) := ⟨n, d, rfl, h, rfl⟩

theorem Ex.is_zero (s : Bool) : (Ex.fin s 0 1).Is s 0 := ⟨0, 1, rfl, Nat.one_pos, by simp [signedRat]⟩

/-- A number that is not zero fixes its sign. -/
theorem Ex.Is.sign {x : Ex} {s : Bool} {q : ℚ} (h : x.Is s q) (hq : q ≠ 0) : s = true ↔ q < 0 := by
  obtain ⟨n, d, -, -, rfl⟩ := h
  have mag : (0 : ℚ) < n / d := lt_of_le_of_ne (by positivity) fun e => hq (signedRat_eq_zero.2 e.symm)
  exact (signedRat_neg_iff mag).symm

/-- Lowest terms are the same number. -/
theorem Ex.is_mk (s : Bool) (n : Nat) {d : Nat} (h : 0 < d) : (Ex.mk s n d).Is s (signedRat s (n / d)) := by
  unfold Ex.mk
  dsimp only
  split
  · exact Ex.is_fin s n h
  · rename_i large
    have divides := Nat.gcd_dvd_right n d
    refine ⟨n / n.gcd d, d / n.gcd d, rfl, Nat.div_pos (Nat.le_of_dvd h divides) (by omega), ?_⟩
    have nonzero : (n.gcd d : ℚ) ≠ 0 := by
      have := Nat.gcd_pos_of_pos_right n h
      positivity
    rw [Nat.cast_div (Nat.gcd_dvd_left n d) nonzero, Nat.cast_div divides nonzero, div_div_div_cancel_right₀ nonzero]

/-! ## The operations -/

section
variable {x y : Ex} {s t : Bool} {p q : ℚ}

theorem Ex.Is.neg (h : x.Is s q) : x.neg.Is (!s) (-q) := by
  obtain ⟨n, d, rfl, hd, rfl⟩ := h
  exact ⟨n, d, rfl, hd, (signedRat_not ..).symm⟩

theorem Ex.Is.scale2 (h : x.Is s q) (k : Int) : (x.scale2 k).Is s (q * 2 ^ k) := by
  obtain ⟨n, d, rfl, hd, rfl⟩ := h
  unfold Ex.scale2
  dsimp only
  rw [signedRat_mul]
  split
  · rename_i up
    convert Ex.is_mk s (n * 2 ^ k.toNat) hd using 2
    obtain ⟨j, rfl⟩ := Int.eq_ofNat_of_zero_le up
    push_cast [Int.toNat_natCast, zpow_natCast]
    ring
  · rename_i down
    have pos : 0 < d * 2 ^ (-k).toNat := by positivity
    convert Ex.is_mk s n pos using 2
    obtain ⟨j, hj⟩ := Int.eq_ofNat_of_zero_le (show 0 ≤ -k by omega)
    rw [hj, show k = -(j : Int) by omega]
    push_cast [Int.toNat_natCast, zpow_neg, zpow_natCast]
    field_simp

theorem Ex.Is.mul (hx : x.Is s p) (hy : y.Is t q) : (x.mul y).Is (s != t) (p * q) := by
  obtain ⟨n, d, rfl, hd, rfl⟩ := hx
  obtain ⟨m, e, rfl, he, rfl⟩ := hy
  have pos : 0 < d * e := Nat.mul_pos hd he
  show (Ex.mk (s != t) (n * m) (d * e)).Is _ _
  rw [← signedRat_xor]
  convert Ex.is_mk (s != t) (n * m) pos using 2
  rw [Nat.cast_mul, Nat.cast_mul, div_mul_div_comm]

/-- The sum of magnitudes under one sign, and their difference under the larger one's. -/
theorem Ex.Is.add (hx : x.Is s p) (hy : y.Is t q) : ∃ u, (x.add y).Is u (p + q) ∧ (p + q = 0 → u = (s && t)) := by
  obtain ⟨n, d, rfl, hd, rfl⟩ := hx
  obtain ⟨m, e, rfl, he, rfl⟩ := hy
  have pos : 0 < d * e := Nat.mul_pos hd he
  have hd' : (d : ℚ) ≠ 0 := by positivity
  have he' : (e : ℚ) ≠ 0 := by positivity
  have cross : ∀ a b : Nat, ((a : ℚ) / d = b / e ↔ a * e = b * d) := fun a b => by
    rw [div_eq_div_iff hd' he']; exact_mod_cast Iff.rfl
  unfold Ex.add
  dsimp only
  by_cases same : s = t
  · subst same
    refine ⟨s, ?_, fun _ => by cases s <;> rfl⟩
    rw [if_pos (by simp), ← signedRat_add]
    convert Ex.is_mk s (n * e + m * d) pos using 2
    push_cast
    field_simp
  · rw [if_neg (by simpa using same)]
    obtain rfl : t = !s := by cases s <;> cases t <;> simp_all
    rw [signedRat_not]
    by_cases equal : n * e = m * d
    · rw [if_pos equal, (cross n m).2 equal, add_neg_cancel]
      exact ⟨false, Ex.is_zero false, fun _ => by cases s <;> rfl⟩
    · have nonzero : signedRat s (n / d) + -signedRat s (m / e) ≠ 0 := by
        rw [← sub_eq_add_neg, sub_ne_zero]
        intro h
        apply equal
        rw [← cross]
        cases s <;> simpa [signedRat] using h
      rw [if_neg equal]
      split
      · rename_i larger
        refine ⟨s, ?_, fun h => absurd h nonzero⟩
        convert Ex.is_mk s (n * e - m * d) pos using 1
        rw [Nat.cast_sub larger.le]
        push_cast
        cases s <;> (simp only [signedRat_true, signedRat_false]; field_simp; ring)
      · refine ⟨!s, ?_, fun h => absurd h nonzero⟩
        convert Ex.is_mk (!s) (m * d - n * e) pos using 1
        rw [Nat.cast_sub (by omega)]
        push_cast
        cases s <;> (simp only [Bool.not_true, Bool.not_false, signedRat_true, signedRat_false]; field_simp; ring)

end

theorem Ex.is_ofInt (z : Int) : (Ex.ofInt z).Is (decide (z < 0)) z := by
  refine ⟨z.natAbs, 1, rfl, Nat.one_pos, ?_⟩
  rw [Nat.cast_one, div_one, Nat.cast_natAbs]
  by_cases h : z < 0
  · simp [h, abs_of_neg h]
  · simp [h, abs_of_nonneg (not_lt.1 h)]

/-! ## Sums (R108, R112) -/

/-- Each of some exact values is the number of the same place. -/
def Ex.AllAre (xs : List Ex) (qs : List ℚ) : Prop := List.Forall₂ (fun x q => ∃ s, x.Is s q) xs qs

theorem foldl_add_is {xs : List Ex} {qs : List ℚ} (h : Ex.AllAre xs qs) : ∀ {x : Ex} {q : ℚ}, (∃ s, x.Is s q) →
    ∃ s, (xs.foldl Ex.add x).Is s (q + qs.sum) := by
  induction h with
  | nil => intro x q hx; simpa using hx
  | @cons y p ys ps hy _ ih =>
    intro x q hx
    obtain ⟨s, hx⟩ := hx
    obtain ⟨t, hy⟩ := hy
    obtain ⟨u, hu, -⟩ := hx.add hy
    rw [List.sum_cons, ← add_assoc]
    exact ih ⟨u, hu⟩

theorem exSum_is {xs : List Ex} {qs : List ℚ} (h : Ex.AllAre xs qs) : ∃ s, (exSum xs).Is s qs.sum := by
  cases h with
  | nil => exact ⟨false, Ex.is_zero false⟩
  | cons hx hxs => rw [List.sum_cons]; exact foldl_add_is hxs hx

/-! ## Binary exponents -/

/-- The fraction of `divPow2` is its number over the power of two. -/
theorem divPow2_spec (n : Nat) {d : Nat} (h : 0 < d) (e : Int) :
    0 < (divPow2 n d e).2 ∧ ((divPow2 n d e).1 : ℚ) / (divPow2 n d e).2 = n / d / 2 ^ e := by
  unfold divPow2
  split
  · rename_i up
    obtain ⟨j, rfl⟩ := Int.eq_ofNat_of_zero_le up
    refine ⟨by positivity, ?_⟩
    push_cast [Int.toNat_natCast, zpow_natCast]
    field_simp
  · obtain ⟨j, hj⟩ := Int.eq_ofNat_of_zero_le (show 0 ≤ -e by omega)
    refine ⟨h, ?_⟩
    dsimp only
    rw [hj, show e = -(j : Int) by omega]
    push_cast [Int.toNat_natCast, zpow_neg, zpow_natCast]
    field_simp

/-- `flog2` is the exponent of the binade. -/
theorem flog2_spec {n d : Nat} (hn : 0 < n) (hd : 0 < d) : (2 : ℚ) ^ flog2 n d ≤ n / d ∧ (n : ℚ) / d < 2 ^ (flog2 n d + 1) := by
  have n_ge : (2 : ℚ) ^ (n.log2 : Int) ≤ n := by exact_mod_cast Nat.log2_self_le hn.ne'
  have n_lt : (n : ℚ) < 2 ^ ((n.log2 : Int) + 1) := by exact_mod_cast Nat.lt_log2_self
  have d_ge : (2 : ℚ) ^ (d.log2 : Int) ≤ d := by exact_mod_cast Nat.log2_self_le hd.ne'
  have d_lt : (d : ℚ) < 2 ^ ((d.log2 : Int) + 1) := by exact_mod_cast Nat.lt_log2_self
  have d_pos : (0 : ℚ) < d := by exact_mod_cast hd
  -- the logarithms fix the exponent but for one
  have two : (2 : ℚ) ≠ 0 := two_ne_zero
  have above : (n : ℚ) / d < 2 ^ ((n.log2 : Int) - d.log2 + 1) := by
    rw [div_lt_iff₀ d_pos]
    calc (n : ℚ) < 2 ^ ((n.log2 : Int) + 1) := n_lt
      _ = 2 ^ ((n.log2 : Int) - d.log2 + 1) * 2 ^ (d.log2 : Int) := by rw [← zpow_add₀ two]; congr 1; ring
      _ ≤ _ := by gcongr
  have below : (2 : ℚ) ^ ((n.log2 : Int) - d.log2 - 1) ≤ n / d := by
    rw [le_div_iff₀ d_pos]
    calc (2 : ℚ) ^ ((n.log2 : Int) - d.log2 - 1) * d ≤ 2 ^ ((n.log2 : Int) - d.log2 - 1) * 2 ^ ((d.log2 : Int) + 1) := by gcongr
      _ = 2 ^ (n.log2 : Int) := by rw [← zpow_add₀ two]; congr 1; ring
      _ ≤ n := n_ge
  have exact_test : ∀ e : Int, e = (n.log2 : Int) - d.log2 →
      (flog2 n d = if (n : ℚ) / d < 2 ^ e then e - 1 else e) := by
    intro e he
    unfold flog2
    rw [← he]
    dsimp only
    split
    · rename_i up
      obtain ⟨j, hj⟩ := Int.eq_ofNat_of_zero_le up
      have : (n : ℚ) / d < 2 ^ e ↔ n < d * 2 ^ e.toNat := by
        rw [hj, div_lt_iff₀ d_pos, mul_comm, Int.toNat_natCast, zpow_natCast]
        exact_mod_cast Iff.rfl
      simp only [this]
    · obtain ⟨j, hj⟩ := Int.eq_ofNat_of_zero_le (show 0 ≤ -e by omega)
      have : (n : ℚ) / d < 2 ^ e ↔ n * 2 ^ (-e).toNat < d := by
        rw [hj, show e = -(j : Int) by omega, div_lt_iff₀ d_pos, Int.toNat_natCast, zpow_neg, zpow_natCast, inv_mul_eq_div,
          lt_div_iff₀ (by positivity)]
        exact_mod_cast Iff.rfl
      simp only [this]
  rw [exact_test _ rfl]
  split
  · rename_i small
    exact ⟨below, by rwa [sub_add_cancel]⟩
  · rename_i large
    exact ⟨not_lt.1 large, above⟩

end Sys2Proof.Machine
end

section
/-!
What the array makes of its oldest operation (O36; spec 04 R112, R113, 07 R214, R215).
-/

namespace Sys2Proof.Machine

/-! ## The team after an operation -/

section
variable (t : Team) (o : MatOp)

@[simp] theorem perform_ops : (t.perform o).ops = t.ops.drop 1 := rfl
@[simp] theorem perform_tiles : (t.perform o).tiles = t.tiles := rfl

theorem perform_acc_other {n : Nat} (h : n ≠ o.acc) : (t.perform o).acc n = t.acc n := by
  simp only [Team.acc, Team.perform, List.getD_eq_getElem?_getD, updAt_get_other _ _ h]

/-- The operation's accumulator keeps its configuration and takes new elements. -/
theorem perform_acc_same (h : o.acc < t.accs.length) : ∃ p, (t.perform o).acc o.acc =
    { t.acc o.acc with
        elems := (List.range (64 * 64)).map fun e =>
          if e / 64 < (t.tile o.ta).rows ∧ e % 64 < (t.tile o.tb).rows then t.element o (e / 64) (e % 64)
          else if o.clr then 0#32 else (t.acc o.acc).elems.getD e 0#32
        poison := p } := by
  refine ⟨((t.opTiles o).any fun k => (t.tile k).poison) || (!o.clr && (t.acc o.acc).poison), ?_⟩
  have present : t.accs[o.acc]? = some (t.acc o.acc) := by simp [Team.acc, List.getD_eq_getElem?_getD, h]
  conv_lhs => rw [Team.acc, Team.perform]
  simp only [List.getD_eq_getElem?_getD, updAt_get_same, present, Option.map_some, Option.getD_some]

/-- R214: inside the shape the element of R112 and R113, outside it the old one, or zero under clear. -/
theorem perform_elem (h : o.acc < t.accs.length) {i j : Nat} (hi : i < 64) (hj : j < 64) :
    ((t.perform o).acc o.acc).elem i j =
      if i < (t.tile o.ta).rows ∧ j < (t.tile o.tb).rows then t.element o i j
      else if o.clr then 0#32 else (t.acc o.acc).elem i j := by
  obtain ⟨p, same⟩ := perform_acc_same t o h
  have place : 64 * i + j < 64 * 64 := by omega
  have row : (64 * i + j) / 64 = i := by omega
  have col : (64 * i + j) % 64 = j := by omega
  rw [same]
  simp only [Acc.elem, List.getD_eq_getElem?_getD, List.getElem?_map, List.getElem?_range place, Option.map_some, Option.getD_some,
    row, col]

end

/-! ## One element -/

section
variable {t : Team} {o : MatOp} {i j : Nat}

theorem element_spBad (h : t.spBad o i (t.tile o.tb).k = true) : t.element o i j = 0x7FC00000#32 := if_pos h

/-- R112, R113: with every mask of its count, the chunks in increasing order. -/
theorem element_chunks (h : t.spBad o i (t.tile o.tb).k = false) : t.element o i j =
    (List.range (((t.tile o.tb).k + 31) / 32)).foldl
      (fun v c => chunkAdd (mmaIsInt o.kind) v (t.products o i j c (t.tile o.tb).k)) (if o.clr then 0#32 else (t.acc o.acc).elem i j) := by
  simp only [Team.element, h, Bool.false_eq_true, if_false, Acc.elem]

/-! ## Operand values -/

theorem aValue_plain {k : Nat} (hi : mmaIsInt o.kind = false) (hs : mmaIsSp o.kind = false) (hx : mmaIsMx o.kind = false) :
    t.aValue o i k = ((fmtCode (t.tile o.ta).fmt).value ((t.tile o.ta).stored i k)).scale2 (t.tile o.ta).scale := by
  simp [Team.aValue, Tile.scaled, hi, hs, hx]

theorem aValue_mx {k : Nat} (hi : mmaIsInt o.kind = false) (hs : mmaIsSp o.kind = false) (hx : mmaIsMx o.kind = true) :
    t.aValue o i k = (mxValue (t.tile o.ta) (t.tile ((t.tile o.ta).sct % 16)) i k).scale2 (t.tile o.ta).scale := by
  simp [Team.aValue, Tile.scaled, hi, hs, hx, bitsN]

theorem aValue_sp {k : Nat} {v : Ex} (hi : mmaIsInt o.kind = false) (hs : mmaIsSp o.kind = true)
    (hv : spValue (t.tile o.ta) (t.tile ((t.tile o.ta).mdt % 16)) i k = some v) :
    t.aValue o i k = v.scale2 (t.tile o.ta).scale := by
  simp [Team.aValue, Tile.scaled, hi, hs, bitsN, hv]

theorem bValue_plain {k : Nat} (hi : mmaIsInt o.kind = false) (hq : mmaIsQ4 o.kind = false) (hx : mmaIsMx o.kind = false) :
    t.bValue o j k = ((fmtCode (t.tile o.tb).fmt).value ((t.tile o.tb).stored j k)).scale2 (t.tile o.tb).scale := by
  simp [Team.bValue, Tile.scaled, hi, hq, hx]

theorem bValue_q4 {k : Nat} (hi : mmaIsInt o.kind = false) (hq : mmaIsQ4 o.kind = true) :
    t.bValue o j k = (q4Value (t.tile o.tb) (t.tile ((t.tile o.tb).sct % 16)) j k).scale2 (t.tile o.tb).scale := by
  simp [Team.bValue, Tile.scaled, hi, hq, bitsN]

theorem bValue_mx {k : Nat} (hi : mmaIsInt o.kind = false) (hq : mmaIsQ4 o.kind = false) (hx : mmaIsMx o.kind = true) :
    t.bValue o j k = (mxValue (t.tile o.tb) (t.tile ((t.tile o.tb).sct % 16)) j k).scale2 (t.tile o.tb).scale := by
  simp [Team.bValue, Tile.scaled, hi, hq, hx, bitsN]

/-- R110: whether a value of an sp operand is there depends on its group alone. -/
theorem spValue_isNone (x m : Tile) (r : Nat) {k l : Nat} (h : k / 48 = l / 48) : (spValue x m r k).isNone = (spValue x m r l).isNone := by
  simp only [spValue, h]
  split
  · rfl
  · split <;> split <;> rfl

/-- Where every group's mask has its count, every element of whole groups has a value. -/
theorem spValue_some {k K : Nat} (hs : mmaIsSp o.kind = true) (whole : K % 48 = 0) (hk : k < K) (good : t.spBad o i K = false) :
    ∃ v, spValue (t.tile o.ta) (t.tile ((t.tile o.ta).mdt % 16)) i k = some v := by
  have group : k / 48 < K / 48 := by omega
  simp only [Team.spBad, hs, Bool.true_and, bitsN, Nat.pow_zero, Nat.div_one, List.any_eq_false, List.mem_range] at good
  have first := good _ group
  rw [spValue_isNone _ _ _ (show 48 * (k / 48) / 48 = k / 48 by omega)] at first
  exact Option.ne_none_iff_exists'.1 fun none => first (Option.isNone_iff_eq_none.2 none)

end

/-! ## The statement -/

/-- The operands of R213: which values an operation's kind reads. -/
theorem operand_values (t : Team) (o : MatOp) (i j k : Nat) (hk : k < (t.tile o.tb).k) :
    let K := (t.tile o.tb).k
    let a := t.tile o.ta
    let b := t.tile o.tb
    let plain := fun (x : Tile) (r : Nat) => ((fmtCode x.fmt).value (x.stored r k)).scale2 x.scale
    let blocks := fun (x : Tile) => t.tile (x.sct % 16)
    (o.kind ∈ [0, 1, 2, 3, 4, 6, 8] → t.aValue o i k = plain a i) ∧
    (o.kind ∈ [0, 1, 2, 3, 4, 6, 9, 10] → t.bValue o j k = plain b j) ∧
    (o.kind = 8 → t.bValue o j k = (q4Value b (blocks b) j k).scale2 b.scale) ∧
    (o.kind ∈ [11, 12] → t.aValue o i k = (mxValue a (blocks a) i k).scale2 a.scale ∧
      t.bValue o j k = (mxValue b (blocks b) j k).scale2 b.scale) ∧
    (o.kind ∈ [9, 10] → K % 48 = 0 → t.spBad o i K = false →
      ∃ v, spValue a (t.tile (a.mdt % 16)) i k = some v ∧ t.aValue o i k = v.scale2 a.scale) := by
  simp only [List.mem_cons, List.not_mem_nil, or_false]
  refine ⟨fun h => aValue_plain ?_ ?_ ?_, fun h => bValue_plain ?_ ?_ ?_, fun h => bValue_q4 ?_ ?_,
    fun h => ⟨aValue_mx ?_ ?_ ?_, bValue_mx ?_ ?_ ?_⟩, fun h whole good => ?sparse⟩
  case sparse =>
    have sparse : mmaIsSp o.kind = true := by simp [mmaIsSp, h]
    obtain ⟨v, hv⟩ := spValue_some sparse whole hk good
    exact ⟨v, hv, aValue_sp (by simp only [mmaIsInt, Bool.or_eq_false_iff, beq_eq_false_iff_ne]; omega) sparse hv⟩
  all_goals
    simp only [mmaIsInt, mmaIsSp, mmaIsMx, mmaIsQ4, Bool.or_eq_false_iff, Bool.or_eq_true, beq_eq_false_iff_ne, beq_iff_eq]
    omega

/-- Settles O36: the team element by element, then an element's chunks, then the operands by their kind. -/
theorem arrayComputes : Obligations.ArrayComputes := by
  unfold Obligations.ArrayComputes
  intro t o rest i j hops hacc hi hj _ _
  have elem := perform_elem t o hacc hi hj
  obtain ⟨p, same⟩ := perform_acc_same t o hacc
  refine ⟨by rw [perform_ops, hops]; rfl, perform_tiles t o, fun n => perform_acc_other t o, by rw [same], fun out => ?_, fun ins fl good => ?_,
    fun ins _ => ?_, fun ins bad => ?_, operand_values t o i j⟩
  · rw [elem, if_neg out]
  · rw [elem, if_pos ins, element_chunks good, fl]
    rfl
  · rw [elem, if_pos ins]
  · rw [elem, if_pos ins, element_spBad bad]

end Sys2Proof.Machine
end

section
/-!
Rounding to an integer and saturating: the integer formats and the integer matrix sums (O37; spec 04 R95, R102, R103, R113).
-/

namespace Sys2Proof.Machine

/-! ## Reading -/

/-- R95: the low bits as a two's complement or a natural number; zero has no sign. -/
theorem intValue_is (signed : Bool) {b : Nat} (hb : 0 < b) (p : Nat) : ∃ s, ((Fmt.int signed b).value p).Is s
    (if signed then ((BitVec.ofNat b p).toInt : ℚ) else (p % 2 ^ b : Nat)) ∧ (s = true → p % 2 ^ b ≠ 0) := by
  have half : 2 ^ b = 2 * 2 ^ (b - 1) := by rw [← pow_succ']; congr 1; omega
  have small : p % 2 ^ b < 2 ^ b := Nat.mod_lt _ (by positivity)
  simp only [Fmt.value, BitVec.toInt_eq_toNat_cond, BitVec.toNat_ofNat]
  cases signed
  · exact ⟨false, by simpa using Ex.is_fin false (p % 2 ^ b) Nat.one_pos, fun hs => nomatch hs⟩
  · by_cases high : 2 ^ (b - 1) ≤ p % 2 ^ b
    · refine ⟨true, ?_, fun _ => by have : 0 < 2 ^ (b - 1) := by positivity
                                    omega⟩
      rw [if_pos (by simpa using high), if_pos rfl, if_neg (by omega)]
      convert Ex.is_fin true (2 ^ b - p % 2 ^ b) Nat.one_pos using 1
      rw [Nat.cast_sub small.le, signedRat_true, Nat.cast_one, div_one, neg_sub, Int.cast_sub]
      push_cast
      rfl
    · refine ⟨false, ?_, fun hs => nomatch hs⟩
      rw [if_neg (by simpa using high), if_pos rfl, if_pos (by omega)]
      convert Ex.is_fin false (p % 2 ^ b) Nat.one_pos using 1
      rw [signedRat_false, Nat.cast_one, div_one, Int.cast_natCast]

/-! ## Rounding (R87, R102) -/

/-- An integer magnitude under a sign. -/
def signedInt (s : Bool) (k : Nat) : Int := if s then -(k : Int) else k

theorem signedInt_cast (s : Bool) (k : Nat) : (signedInt s k : ℚ) = signedRat s k := by cases s <;> simp [signedInt]

theorem floor_ratio (a b : Nat) : Rat.floor ((a : ℚ) / b) = (a / b : Nat) := by
  rw [show Rat.floor ((a : ℚ) / b) = ⌊(a : ℚ) / b⌋ from rfl, Rat.floor_natCast_div_natCast]
  rfl

theorem ceil_ratio (a : Nat) {b : Nat} (hb : 0 < b) : Rat.ceil ((a : ℚ) / b) = (if a % b = 0 then a / b else a / b + 1 : Nat) := by
  have pos : (0 : ℚ) < b := by exact_mod_cast hb
  have rest := Nat.mod_lt a hb
  have parts := Nat.div_add_mod a b
  have mult := Nat.mul_add_one b (a / b)
  refine le_antisymm (Rat.ceil_le_iff.2 ?_) (le_of_not_gt fun small => ?_)
  · rw [div_le_iff₀ pos, mul_comm]
    split
    · exact_mod_cast (by omega : a ≤ b * (a / b))
    · exact_mod_cast (by omega : a ≤ b * (a / b + 1))
  · have bound := Rat.ceil_le_iff.1 (Int.le_sub_one_of_lt small)
    rw [div_le_iff₀ pos, Int.cast_sub, sub_mul, Int.cast_natCast, Int.cast_one, one_mul, le_sub_iff_add_le, mul_comm] at bound
    split at bound
    · have := (by exact_mod_cast bound : a + b ≤ b * (a / b))
      omega
    · have := (by exact_mod_cast bound : a + b ≤ b * (a / b + 1))
      omega

theorem ceil_neg_eq (q : ℚ) : Rat.ceil (-q) = -Rat.floor q := by rw [Rat.ceil_eq_neg_floor_neg, neg_neg]

theorem floor_neg_eq (q : ℚ) : Rat.floor (-q) = -Rat.ceil q := by rw [Rat.ceil_eq_neg_floor_neg, neg_neg]

section
variable (s : Bool) (a : Nat) {b : Nat} (hb : 0 < b)
include hb

/-- A ratio is its integer part and a rest below 1. -/
theorem ratio_split : (a : ℚ) / b = (a / b : Nat) + (a % b : Nat) / b := by
  have pos : (b : ℚ) ≠ 0 := by exact_mod_cast hb.ne'
  rw [div_eq_iff pos, add_mul, div_mul_cancel₀ _ pos, mul_comm]
  exact_mod_cast (Nat.div_add_mod a b).symm

theorem rest_lt_one : ((a % b : Nat) : ℚ) / b < 1 := by
  rw [div_lt_one (by exact_mod_cast hb)]
  exact_mod_cast Nat.mod_lt a hb

/-- How far the integers on both sides are. -/
theorem dist_down : ratDist (signedInt s (a / b)) (signedRat s (a / b)) = (a % b : Nat) / b := by
  rw [ratDist_abs, signedInt_cast, signedRat_dist s s (by positivity) (by positivity), if_pos rfl, ratio_split a hb, sub_add_cancel_left,
    abs_neg, abs_of_nonneg (by positivity)]

theorem dist_up : ratDist (signedInt s (a / b + 1)) (signedRat s (a / b)) = 1 - (a % b : Nat) / b := by
  have := rest_lt_one a hb
  rw [ratDist_abs, signedInt_cast, signedRat_dist s s (by positivity) (by positivity), if_pos rfl, ratio_split a hb, Nat.cast_add_one,
    add_sub_add_left_eq_sub, abs_of_pos (by linarith)]

/-- The rest against one half, as the model tests it. -/
theorem rest_half : (2 * (((a % b : Nat) : ℚ) / b) < 1 ↔ 2 * (a % b) < b) ∧ (2 * (((a % b : Nat) : ℚ) / b) = 1 ↔ 2 * (a % b) = b) := by
  have pos : (0 : ℚ) < b := by exact_mod_cast hb
  rw [← mul_div_assoc, div_lt_one pos, div_eq_one_iff_eq pos.ne']
  exact ⟨by exact_mod_cast Iff.rfl, by exact_mod_cast Iff.rfl⟩

omit hb in
theorem roundsInt_nearest (q : ℚ) (k : Int) : (RoundsInt 0 q k ↔ 2 * ratDist k q ≤ 1 ∧ (2 * ratDist k q = 1 → k % 2 = 0)) ∧
    (RoundsInt 4 q k ↔ 2 * ratDist k q ≤ 1 ∧ (2 * ratDist k q = 1 → ratDist q 0 < ratDist k 0)) := ⟨Iff.rfl, Iff.rfl⟩

theorem rne_rounds (q : Int) : RoundsInt 0 (signedRat s (a / b)) (signedInt s (roundInt s a b q .rne)) := by
  obtain ⟨low, tie⟩ := rest_half a hb
  have even : ∀ k : Nat, k % 2 = 0 → signedInt s k % 2 = 0 := fun k hk => by cases s <;> simp [signedInt] <;> omega
  rw [(roundsInt_nearest ..).1]
  unfold roundInt
  dsimp only
  split
  · rename_i up
    have high := mt low.1 (by omega)
    rw [dist_up s a hb]
    refine ⟨by linarith, fun half => even _ ?_⟩
    have := tie.1 (by linarith)
    omega
  · rename_i down
    rw [dist_down s a hb]
    have no_more : 2 * (((a % b : Nat) : ℚ) / b) ≤ 1 := by
      rcases Nat.lt_or_ge (2 * (a % b)) b with lt | ge
      · exact (low.2 lt).le
      · exact (tie.2 (by omega)).le
    refine ⟨no_more, fun half => even _ ?_⟩
    have := tie.1 half
    omega

theorem rna_rounds (q : Int) : RoundsInt 4 (signedRat s (a / b)) (signedInt s (roundInt s a b q .rna)) := by
  obtain ⟨low, -⟩ := rest_half a hb
  rw [(roundsInt_nearest ..).2]
  unfold roundInt
  dsimp only
  split
  · rename_i up
    have high := mt low.1 (by omega)
    have rest := rest_lt_one a hb
    rw [dist_up s a hb]
    refine ⟨by linarith, fun _ => ?_⟩
    rw [ratDist_abs, ratDist_abs, sub_zero, sub_zero, signedInt_cast, signedRat_abs s (by positivity), signedRat_abs s (by positivity),
      ratio_split a hb]
    push_cast
    linarith
  · rename_i down
    have lt := low.2 (by omega)
    rw [dist_down s a hb]
    exact ⟨lt.le, fun half => absurd half lt.ne⟩

theorem rz_rounds (q : Int) : RoundsInt 1 (signedRat s (a / b)) (signedInt s (roundInt s a b q .rz)) := by
  have ratio : (0 : ℚ) ≤ a / b := by positivity
  unfold RoundsInt roundInt signedInt
  cases s
  · simp only [signedRat_false, not_lt.2 ratio, if_false]
    exact (floor_ratio a b).symm
  · simp only [signedRat_true, Left.neg_neg_iff, if_true]
    split
    · rw [ceil_neg_eq, floor_ratio]
    · rename_i zero
      have : a / b = 0 := by
        have : ((a / b : Nat) : ℚ) ≤ a / b := Nat.cast_div_le
        have : ((a / b : Nat) : ℚ) ≤ 0 := by linarith
        exact_mod_cast le_antisymm this (by positivity)
      have whole : (a : ℚ) / b = 0 := le_antisymm (not_lt.1 zero) ratio
      rw [whole, this]
      rfl

theorem rd_rounds (q : Int) : RoundsInt 2 (signedRat s (a / b)) (signedInt s (roundInt s a b q .rd)) := by
  unfold RoundsInt roundInt signedInt
  cases s
  · simpa using (floor_ratio a b).symm
  · simp only [signedRat_true, floor_neg_eq, ceil_ratio a hb, true_and, if_true, ne_eq, ite_not]

theorem ru_rounds (q : Int) : RoundsInt 3 (signedRat s (a / b)) (signedInt s (roundInt s a b q .ru)) := by
  unfold RoundsInt roundInt signedInt
  cases s
  · simp [ceil_ratio a hb]
  · simp [ceil_neg_eq, floor_ratio]

/-- The rounded magnitude with its sign is the number rounded to an integer, under the codes 0 to 4 of R87. -/
theorem roundInt_rounds {code : Nat} (hcode : code < 5) (q : Int) :
    RoundsInt code (signedRat s (a / b)) (signedInt s (roundInt s a b q (rndOf code))) := by
  interval_cases code
  · exact rne_rounds s a hb q
  · exact rz_rounds s a hb q
  · exact rd_rounds s a hb q
  · exact ru_rounds s a hb q
  · exact rna_rounds s a hb q

end

/-- An integer rounds to itself. -/
theorem roundsInt_whole {z k : Int} (h : RoundsInt 0 z k) : k = z := by
  obtain ⟨near, -⟩ := h
  rw [ratDist_abs] at near
  have : |k - z| < 1 := by
    have : (|k - z| : ℚ) < 1 := by linarith
    exact_mod_cast this
  have := Int.abs_lt_one_iff.1 this
  omega

/-! ## Saturating (R103) -/

/-- The least and the largest integer of a format. -/
def intMin (signed : Bool) (b : Nat) : Int := if signed then -2 ^ (b - 1) else 0
def intMax (signed : Bool) (b : Nat) : Int := if signed then 2 ^ (b - 1) - 1 else 2 ^ b - 1

theorem intMin_le_intMax (signed : Bool) (b : Nat) : intMin signed b ≤ intMax signed b := by
  have half : (1 : Int) ≤ 2 ^ (b - 1) := one_le_pow₀ (by omega)
  have whole : (1 : Int) ≤ 2 ^ b := one_le_pow₀ (by omega)
  cases signed <;> simp only [intMin, intMax, if_true, if_false, Bool.false_eq_true] <;> omega

/-- The pattern of a rounded magnitude in a format's low bits. -/
def intPattern (signed : Bool) (b : Nat) (neg : Bool) (m : Nat) : Nat :=
  if neg then (2 ^ b - min m (if signed then 2 ^ (b - 1) else 0)) % 2 ^ b
  else min m (if signed then 2 ^ (b - 1) - 1 else 2 ^ b - 1)

theorem intRound_fin (signed : Bool) (b : Nat) (s : Bool) (n d : Nat) (r : Rnd) :
    (Fmt.int signed b).round (.fin s n d) r = intPattern signed b s (roundInt s n d 0 r) := by
  cases s <;> rfl

/-- An infinity is written as the end of the range on its side. -/
theorem intRound_inf (signed : Bool) (b : Nat) (s : Bool) (r : Rnd) : ∃ m,
    (Fmt.int signed b).round (.inf s) r = intPattern signed b s m ∧ signedInt s m = if s then intMin signed b else intMax signed b := by
  refine ⟨if s then (if signed then 2 ^ (b - 1) else 0) else if signed then 2 ^ (b - 1) - 1 else 2 ^ b - 1, by cases s <;> rfl, ?_⟩
  cases s <;> cases signed <;> simp [signedInt, intMin, intMax]

/-- As a register value the pattern is the integer saturated to the format's range. -/
theorem intPattern_extend (signed : Bool) {b : Nat} (hb : 0 < b) (wide : b ≤ 32) (s : Bool) (m : Nat) :
    (Fmt.int signed b).extend (intPattern signed b s m) = BitVec.ofInt 32 (max (intMin signed b) (min (signedInt s m) (intMax signed b))) := by
  have half : 2 ^ b = 2 * 2 ^ (b - 1) := by rw [← pow_succ']; congr 1; omega
  have word : 2 ^ b ≤ 2 ^ 32 := Nat.pow_le_pow_right two_pos wide
  have pos : 0 < 2 ^ (b - 1) := by positivity
  have half' : (2 : Int) ^ (b - 1) = (2 ^ (b - 1) : Nat) := by push_cast; rfl
  have whole' : (2 : Int) ^ b = (2 ^ b : Nat) := by push_cast; rfl
  apply BitVec.eq_of_toNat_eq
  unfold intPattern Fmt.extend intMin intMax signedInt
  cases signed <;> simp only [half', whole', BitVec.toNat_ofInt, if_true, if_false, Bool.false_eq_true]
  all_goals
    generalize 2 ^ (b - 1) = H at *
    generalize 2 ^ b = W at *
    subst half
  · cases s <;> simp
    omega
  · have wrap : (2 * H - min m H) % (2 * H) = if m = 0 then 0 else 2 * H - min m H := by
      split
      · rename_i zero
        simp [zero]
      · exact Nat.mod_eq_of_lt (by omega)
    cases s
    · simp
      split <;> simp <;> omega
    · simp only [if_true, wrap]
      split <;> split <;> simp <;> omega

/-- A number rounds to an integer of RoundsInt, saturated to the format's range. -/
theorem intRound_spec (signed : Bool) {b : Nat} (hb : 0 < b) (wide : b ≤ 32) {code : Nat} (hcode : code < 5) {x : Ex} {s : Bool} {q : ℚ}
    (hx : x.Is s q) : ∃ k, RoundsInt code q k ∧ (Fmt.int signed b).extend ((Fmt.int signed b).round x (rndOf code)) =
      BitVec.ofInt 32 (max (intMin signed b) (min k (intMax signed b))) := by
  obtain ⟨n, d, rfl, hd, rfl⟩ := hx
  exact ⟨_, roundInt_rounds s n hd hcode 0, by rw [intRound_fin, intPattern_extend signed hb wide]⟩

/-! ## The integer matrix operations (R113) -/

/-- Saturation to the s32 range. -/
def satS32 (z : Int) : Int := max (-2 ^ 31) (min z (2 ^ 31 - 1))

theorem toInt_satS32 (z : Int) : (BitVec.ofInt 32 (satS32 z)).toInt = satS32 z := by
  apply BitVec.toInt_ofInt_eq_self (by omega) <;> simp only [satS32] <;> omega

/-- A chunk of integer products: the exact sum with the element, saturated. -/
theorem chunkAdd_int (v : Word) {ps : List Ex} {zs : List Int} (hp : Ex.AllAre ps (zs.map fun z : Int => (z : ℚ))) :
    (chunkAdd true v ps).toInt = satS32 (v.toInt + zs.sum) := by
  obtain ⟨s, read, -⟩ := intValue_is true (show 0 < 32 by omega) v.toNat
  rw [if_pos rfl, BitVec.ofNat_toNat, BitVec.setWidth_eq] at read
  obtain ⟨t, sum⟩ := exSum_is hp
  obtain ⟨u, added, -⟩ := read.add sum
  obtain ⟨k, rounds, written⟩ := intRound_spec true (show 0 < 32 by omega) le_rfl (show 0 < 5 by omega) added
  have cast : ((v.toInt : ℚ) + (zs.map fun z : Int => (z : ℚ)).sum) = ((v.toInt + zs.sum : Int) : ℚ) := by
    rw [Int.cast_add, Int.cast_list_sum]
  rw [cast] at rounds
  rw [roundsInt_whole rounds] at written
  have plain : ∀ p, (Fmt.int true 32).extend p = BitVec.ofNat 32 p := fun p => by simp [Fmt.extend]
  rw [plain] at written
  rw [← toInt_satS32]
  exact congrArg BitVec.toInt written

/-- Chunk after chunk. -/
theorem foldl_chunkAdd_int {ps : Nat → List Ex} {zs : Nat → List Int} (hp : ∀ c, Ex.AllAre (ps c) ((zs c).map fun z : Int => (z : ℚ))) :
    ∀ (cs : List Nat) (v : Word), (cs.foldl (fun v c => chunkAdd true v (ps c)) v).toInt =
      cs.foldl (fun z c => satS32 (z + (zs c).sum)) v.toInt
  | [], _ => rfl
  | c :: cs, v => by
    simp only [List.foldl_cons]
    rw [foldl_chunkAdd_int hp cs, chunkAdd_int v (hp c)]

section
variable {t : Team} {o : MatOp} {width : Nat}

/-- The operand values of an integer operation are its stored two's-complement numbers, with no scale (log 18). -/
theorem intOperands (kind : o.kind = 5 ∧ width = 8 ∨ o.kind = 7 ∧ width = 4) (fa : (t.tile o.ta).fmt = (mmaFmts o.kind).1)
    (fb : (t.tile o.tb).fmt = (mmaFmts o.kind).2) (i j k : Nat) :
    (∃ s, (t.aValue o i k).Is s ((BitVec.ofNat width ((t.tile o.ta).stored i k)).toInt : ℚ)) ∧
      ∃ s, (t.bValue o j k).Is s ((BitVec.ofNat width ((t.tile o.tb).stored j k)).toInt : ℚ) := by
  have read : ∀ x : Tile, ∀ r : Nat, fmtCode x.fmt = .int true width → 0 < width →
      ∃ s, ((fmtCode x.fmt).value (x.stored r k)).Is s ((BitVec.ofNat width (x.stored r k)).toInt : ℚ) := fun x r format pos => by
    obtain ⟨s, hs, -⟩ := intValue_is true pos (x.stored r k)
    rw [if_pos rfl] at hs
    exact ⟨s, by rwa [format]⟩
  have formats : fmtCode (t.tile o.ta).fmt = .int true width ∧ fmtCode (t.tile o.tb).fmt = .int true width ∧ 0 < width := by
    rw [fa, fb]
    rcases kind with ⟨hk, rfl⟩ | ⟨hk, rfl⟩ <;> rw [hk] <;> decide
  have plainA : t.aValue o i k = (fmtCode (t.tile o.ta).fmt).value ((t.tile o.ta).stored i k) := by
    rcases kind with ⟨hk, -⟩ | ⟨hk, -⟩ <;> simp [Team.aValue, Tile.scaled, mmaIsInt, mmaIsSp, mmaIsMx, hk]
  have plainB : t.bValue o j k = (fmtCode (t.tile o.tb).fmt).value ((t.tile o.tb).stored j k) := by
    rcases kind with ⟨hk, -⟩ | ⟨hk, -⟩ <;> simp [Team.bValue, Tile.scaled, mmaIsInt, mmaIsQ4, mmaIsMx, hk]
  rw [plainA, plainB]
  exact ⟨read _ i formats.1 formats.2.2, read _ j formats.2.1 formats.2.2⟩

/-- Settles O37: a chunk's products are integers, its rounding is the saturation, and the chunks follow one another. -/
theorem integerMatrixSaturates : Obligations.IntegerMatrixSaturates := by
  unfold Obligations.IntegerMatrixSaturates
  intro t o i j width kind fa fb K a b start chunk
  have whole : mmaIsInt o.kind = true ∧ mmaIsSp o.kind = false := by
    rcases kind with ⟨hk, -⟩ | ⟨hk, -⟩ <;> rw [hk] <;> decide
  have good : t.spBad o i (t.tile o.tb).k = false := by rw [Team.spBad, whole.2, Bool.false_and]
  rw [element_chunks good, whole.1]
  refine foldl_chunkAdd_int (ps := fun c => t.products o i j c K)
    (zs := fun c => ((List.range 32).filter fun k => decide (32 * c + k < K)).map fun k => a (32 * c + k) * b (32 * c + k))
    (fun c => ?_) _ _
  rw [List.map_map]
  unfold Ex.AllAre Team.products
  rw [List.forall₂_map_left_iff, List.forall₂_map_right_iff, List.forall₂_same]
  intro k _
  obtain ⟨⟨s, hs⟩, u, hu⟩ := intOperands kind fa fb i j (32 * c + k)
  exact ⟨_, by simpa using hs.mul hu⟩

end

end Sys2Proof.Machine
end

section
/-!
Rounding to a binary format: the magnitudes of its codes, and the rounded value as the nearest of them (spec 04 R97, R102, R103).
-/

namespace Sys2Proof.Machine

/-! ## The magnitudes of the codes -/

/-- The magnitude of a code without its sign, in units of the smallest subnormal (R97). Past the largest finite code it goes on as if
the exponent field had no end. -/
def codeUnits (fr c : Nat) : Nat := if c / 2 ^ fr = 0 then c else (2 ^ fr + c % 2 ^ fr) * 2 ^ (c / 2 ^ fr - 1)

/-- A significand `k` in the binade `E` above the subnormals; the first significand of the next binade may be written so too. -/
theorem codeUnits_at {fr E k : Nat} (normal : E = 0 ∨ 2 ^ fr ≤ k) (hk : k ≤ 2 ^ (fr + 1)) : codeUnits fr (E * 2 ^ fr + k) = k * 2 ^ E := by
  have pos : 0 < 2 ^ fr := by positivity
  have succ : 2 ^ (fr + 1) = 2 * 2 ^ fr := by ring
  by_cases subnormal : k < 2 ^ fr
  · obtain rfl : E = 0 := normal.resolve_right (by omega)
    simp [codeUnits, Nat.div_eq_of_lt subnormal]
  · obtain ⟨m, rfl⟩ := Nat.exists_eq_add_of_le (not_lt.1 subnormal)
    unfold codeUnits
    rw [show E * 2 ^ fr + (2 ^ fr + m) = m + 2 ^ fr * (E + 1) by ring, Nat.add_mul_mod_self_left, Nat.add_mul_div_left _ _ pos,
      if_neg (show ¬ m / 2 ^ fr + (E + 1) = 0 from Nat.succ_ne_zero _)]
    by_cases top : m = 2 ^ fr
    · subst top
      rw [Nat.mod_self, Nat.div_self pos, show 1 + (E + 1) - 1 = E + 1 by omega]
      ring
    · have fraction : m < 2 ^ fr := by omega
      rw [Nat.mod_eq_of_lt fraction, Nat.div_eq_of_lt fraction, show 0 + (E + 1) - 1 = E by omega]

/-- Every code is a significand in a binade. -/
theorem code_binade (fr c : Nat) : ∃ E k, c = E * 2 ^ fr + k ∧ (E = 0 ∨ 2 ^ fr ≤ k) ∧ k < 2 ^ (fr + 1) := by
  have pos : 0 < 2 ^ fr := by positivity
  have succ : 2 ^ (fr + 1) = 2 * 2 ^ fr := by ring
  have fraction := Nat.mod_lt c pos
  have parts := Nat.div_add_mod' c (2 ^ fr)
  cases h : c / 2 ^ fr with
  | zero => exact ⟨0, c, by omega, .inl rfl, by rw [h] at parts; omega⟩
  | succ E =>
    refine ⟨E, 2 ^ fr + c % 2 ^ fr, ?_, .inr (by omega), by omega⟩
    rw [h, Nat.add_one_mul] at parts
    omega

theorem codeUnits_lt_succ (fr c : Nat) : codeUnits fr c < codeUnits fr (c + 1) := by
  obtain ⟨E, k, rfl, normal, hk⟩ := code_binade fr c
  rw [Nat.add_assoc, codeUnits_at normal hk.le, codeUnits_at (normal.imp_right fun h => by omega) hk]
  exact Nat.mul_lt_mul_of_pos_right (Nat.lt_succ_self k) (by positivity)

theorem codeUnits_strictMono (fr : Nat) : StrictMono (codeUnits fr) := strictMono_nat_of_lt_succ (codeUnits_lt_succ fr)

@[simp] theorem codeUnits_zero (fr : Nat) : codeUnits fr 0 = 0 := by simp [codeUnits]

/-- No code lies between two neighbours. -/
theorem code_outside (fr lo c : Nat) : (codeUnits fr c : ℚ) ≤ codeUnits fr lo ∨ (codeUnits fr (lo + 1) : ℚ) ≤ codeUnits fr c := by
  rcases Nat.lt_or_ge lo c with h | h
  · exact .inr (by exact_mod_cast (codeUnits_strictMono fr).monotone h)
  · exact .inl (by exact_mod_cast (codeUnits_strictMono fr).monotone h)

/-! ## A magnitude rounded -/

/-- What `roundMag` is of a magnitude of `x` units: the code of a binade `E` and the rounded integer `a / b` of its significand. -/
structure Binade (f : BinFmt) (n d : Nat) (x : ℚ) (E a b : Nat) : Prop where
  pos : 0 < b
  value : (a : ℚ) / b * 2 ^ E = x
  fits : a < b * 2 ^ (f.frac + 1)
  normal : E = 0 ∨ b * 2 ^ f.frac ≤ a
  quantum : max (flog2 n d) f.emin = E + f.emin
  code : ∀ neg r, f.roundMag neg n d r = E * 2 ^ f.frac + roundInt neg a b (E + f.emin - f.frac) r

theorem roundMag_binade (f : BinFmt) {n d : Nat} (hn : 0 < n) (hd : 0 < d) :
    ∃ E a b, Binade f n d ((n : ℚ) / d * 2 ^ ((f.frac : Int) - f.emin)) E a b := by
  obtain ⟨low, high⟩ := flog2_spec hn hd
  have two : (2 : ℚ) ≠ 0 := two_ne_zero
  obtain ⟨E, hE⟩ := Int.eq_ofNat_of_zero_le (show 0 ≤ max (flog2 n d) f.emin - f.emin by omega)
  have exponent : max (flog2 n d) f.emin = E + f.emin := by omega
  obtain ⟨pos, quotient⟩ := divPow2_spec n hd (E + f.emin - f.frac)
  have pos' : (0 : ℚ) < (divPow2 n d (E + f.emin - f.frac)).2 := by exact_mod_cast pos
  refine ⟨E, (divPow2 n d (E + f.emin - f.frac)).1, _, pos, ?_, ?_, ?_, exponent, fun neg r => ?_⟩
  · rw [quotient, div_mul_eq_mul_div, div_eq_iff (zpow_ne_zero _ two), mul_assoc, ← zpow_add₀ two, ← zpow_natCast]
    congr 2
    ring
  · have : ((divPow2 n d (E + f.emin - f.frac)).1 : ℚ) / (divPow2 n d (E + f.emin - f.frac)).2 < 2 ^ (f.frac + 1) := by
      rw [quotient, div_lt_iff₀ (zpow_pos two_pos _), ← zpow_natCast, ← zpow_add₀ two]
      refine high.trans_le (zpow_le_zpow_right₀ one_le_two ?_)
      push_cast
      omega
    rw [div_lt_iff₀ pos', mul_comm] at this
    exact_mod_cast this
  · by_cases sub : E = 0
    · exact .inl sub
    · right
      have : (2 : ℚ) ^ f.frac ≤ (divPow2 n d (E + f.emin - f.frac)).1 / (divPow2 n d (E + f.emin - f.frac)).2 := by
        rw [quotient, le_div_iff₀ (zpow_pos two_pos _), ← zpow_natCast, ← zpow_add₀ two]
        refine le_trans (zpow_le_zpow_right₀ one_le_two ?_) low
        omega
      rw [le_div_iff₀ pos', mul_comm] at this
      exact_mod_cast this
  · unfold BinFmt.roundMag
    rw [if_neg hn.ne']
    dsimp only
    rw [exponent, show ((E : Int) + f.emin - f.emin).toNat = E by omega]

section
variable {f : BinFmt} {n d : Nat} {x : ℚ} {E a b : Nat}

/-- The two codes around the magnitude. -/
theorem Binade.codes (h : Binade f n d x E a b) : codeUnits f.frac (E * 2 ^ f.frac + a / b) = a / b * 2 ^ E ∧
    codeUnits f.frac (E * 2 ^ f.frac + a / b + 1) = (a / b + 1) * 2 ^ E := by
  have fits : a / b < 2 ^ (f.frac + 1) := Nat.div_lt_of_lt_mul h.fits
  have normal : E = 0 ∨ 2 ^ f.frac ≤ a / b := h.normal.imp_right fun k => (Nat.le_div_iff_mul_le h.pos).2 (by rwa [mul_comm])
  exact ⟨codeUnits_at normal fits.le, codeUnits_at (normal.imp_right fun k => by omega) fits⟩

/-- The magnitude over the units of its binade is the integer part of the significand and the rest. -/
theorem Binade.split (h : Binade f n d x E a b) : x = ((a / b : Nat) + (a % b : Nat) / (b : ℚ)) * 2 ^ E := by
  have pos : (b : ℚ) ≠ 0 := by exact_mod_cast h.pos.ne'
  have parts : (a : ℚ) = b * (a / b : Nat) + (a % b : Nat) := by exact_mod_cast (Nat.div_add_mod a b).symm
  rw [← h.value]
  congr 1
  rw [div_eq_iff pos, parts]
  field_simp

theorem Binade.below (h : Binade f n d x E a b) : (codeUnits f.frac (E * 2 ^ f.frac + a / b) : ℚ) ≤ x := by
  have rest : (0 : ℚ) ≤ (a % b : Nat) / (b : ℚ) := by positivity
  rw [h.codes.1, h.split]
  push_cast
  gcongr
  linarith

theorem Binade.above (h : Binade f n d x E a b) : x < codeUnits f.frac (E * 2 ^ f.frac + a / b + 1) := by
  have pos : (0 : ℚ) < b := by exact_mod_cast h.pos
  have rest : ((a % b : Nat) : ℚ) / b < 1 := by
    rw [div_lt_one pos]
    exact_mod_cast Nat.mod_lt a h.pos
  rw [h.codes.2, h.split]
  push_cast
  gcongr

end

/-- The rounding codes 0 to 4: none of them leaves an integer. -/
theorem roundInt_exact {code : Nat} (neg : Bool) {a b : Nat} (q : Int) (pos : 0 < b) (exact : a % b = 0) :
    roundInt neg a b q (rndOf code) = a / b := by
  unfold rndOf
  split <;> simp [roundInt, exact] <;> omega

theorem roundInt_rne (neg : Bool) (a b : Nat) (q : Int) :
    roundInt neg a b q .rne = if b < 2 * (a % b) ∨ (2 * (a % b) = b ∧ a / b % 2 = 1) then a / b + 1 else a / b := rfl

/-- R102: a magnitude of `x` units rounds to the nearer of the codes around it, a tie to the even one. -/
theorem roundMag_rne {f : BinFmt} (fraction : 1 ≤ f.frac) (neg : Bool) (n : Nat) {d : Nat} (hd : 0 < d) {x : ℚ}
    (hx : x = (n : ℚ) / d * 2 ^ ((f.frac : Int) - f.emin)) :
    ∃ lo, (codeUnits f.frac lo : ℚ) ≤ x ∧ x < codeUnits f.frac (lo + 1) ∧ f.roundMag neg n d .rne =
      if (codeUnits f.frac lo + codeUnits f.frac (lo + 1) : ℚ) < 2 * x ∨
        ((codeUnits f.frac lo + codeUnits f.frac (lo + 1) : ℚ) = 2 * x ∧ lo % 2 = 1) then lo + 1 else lo := by
  rcases Nat.eq_zero_or_pos n with rfl | hn
  · refine ⟨0, by simp [hx], ?_, ?_⟩
    · have := codeUnits_lt_succ f.frac 0
      rw [codeUnits_zero] at this
      simp only [hx, Nat.cast_zero, zero_div, zero_mul]
      exact_mod_cast this
    · rw [if_neg ?_]
      · simp [BinFmt.roundMag]
      · have zero : 2 * x = 0 := by simp [hx]
        have := Nat.zero_le (codeUnits f.frac 1)
        rw [zero]
        push_cast
        simp
  · subst hx
    obtain ⟨E, a, b, h⟩ := roundMag_binade f hn hd
    refine ⟨_, h.below, h.above, ?_⟩
    have pos : (0 : ℚ) < b := by exact_mod_cast h.pos
    have unit : (0 : ℚ) < 2 ^ E := by positivity
    have from_middle : (2 * (a / b : Nat) + 1 : ℚ) * 2 ^ E - 2 * (((a / b : Nat) + (a % b : Nat) / (b : ℚ)) * 2 ^ E) =
        ((b : ℚ) - 2 * (a % b : Nat)) / b * 2 ^ E := by field_simp; ring
    have middle : (codeUnits f.frac (E * 2 ^ f.frac + a / b) + codeUnits f.frac (E * 2 ^ f.frac + a / b + 1) : ℚ) =
        (2 * (a / b : Nat) + 1) * 2 ^ E := by
      rw [h.codes.1, h.codes.2]
      push_cast
      ring
    have parity : (E * 2 ^ f.frac + a / b) % 2 = a / b % 2 := by
      obtain ⟨j, hj⟩ := Nat.exists_eq_add_of_le fraction
      rw [hj, pow_add, pow_one, show E * (2 * 2 ^ j) + a / b = a / b + 2 * (E * 2 ^ j) by ring, Nat.add_mul_mod_self_left]
    have nearer : (codeUnits f.frac (E * 2 ^ f.frac + a / b) + codeUnits f.frac (E * 2 ^ f.frac + a / b + 1) : ℚ) <
        2 * (n / d * 2 ^ ((f.frac : Int) - f.emin)) ↔ b < 2 * (a % b) := by
      rw [middle, h.split, ← sub_neg, from_middle, mul_neg_iff, div_neg_iff]
      simp only [unit, unit.not_gt, pos, pos.not_gt, and_true, and_false, false_or, sub_neg]
      exact_mod_cast Iff.rfl
    have tie : (codeUnits f.frac (E * 2 ^ f.frac + a / b) + codeUnits f.frac (E * 2 ^ f.frac + a / b + 1) : ℚ) =
        2 * (n / d * 2 ^ ((f.frac : Int) - f.emin)) ↔ 2 * (a % b) = b := by
      rw [middle, h.split, ← sub_eq_zero, from_middle, mul_eq_zero, div_eq_zero_iff]
      simp only [unit.ne', pos.ne', or_false, sub_eq_zero]
      rw [eq_comm]
      exact_mod_cast Iff.rfl
    rw [h.code, roundInt_rne]
    simp only [nearer, tie, parity]
    split <;> rfl

/-- A magnitude that a code has rounds to that code under every deterministic rounding. -/
theorem roundMag_exact {f : BinFmt} (code : Nat) (neg : Bool) (n : Nat) {d c : Nat} (hd : 0 < d)
    (hx : (codeUnits f.frac c : ℚ) = (n : ℚ) / d * 2 ^ ((f.frac : Int) - f.emin)) : f.roundMag neg n d (rndOf code) = c := by
  rcases Nat.eq_zero_or_pos n with rfl | hn
  · have : codeUnits f.frac c = codeUnits f.frac 0 := by
      simp only [Nat.cast_zero, zero_div, zero_mul] at hx
      rw [codeUnits_zero]
      exact_mod_cast hx
    rw [(codeUnits_strictMono f.frac).injective this]
    simp [BinFmt.roundMag]
  · obtain ⟨E, a, b, h⟩ := roundMag_binade f hn hd
    have below := h.below
    have above := h.above
    rw [← hx] at below above
    have place : c = E * 2 ^ f.frac + a / b := by
      have := (codeUnits_strictMono f.frac).le_iff_le.1 (by exact_mod_cast below)
      have := (codeUnits_strictMono f.frac).lt_iff_lt.1 (by exact_mod_cast above)
      omega
    have rest : a % b = 0 := by
      have pos : (b : ℚ) ≠ 0 := by exact_mod_cast h.pos.ne'
      have parts := h.split
      rw [← hx, place, h.codes.1] at parts
      push_cast at parts
      have unit : (2 : ℚ) ^ E ≠ 0 := by positivity
      have : ((a % b : Nat) : ℚ) / b = 0 := by linarith [mul_right_cancel₀ unit parts]
      exact_mod_cast (div_eq_zero_iff.1 this).resolve_right pos
    rw [h.code, roundInt_exact neg _ h.pos rest, place]

/-- The rounded magnitude is a nearest one, and of two nearest ones the one with the even code. -/
theorem nearest_units {fr lo c : Nat} {x : ℚ} (below : (codeUnits fr lo : ℚ) ≤ x) (above : x < codeUnits fr (lo + 1))
    (hc : c = if (codeUnits fr lo + codeUnits fr (lo + 1) : ℚ) < 2 * x ∨
        ((codeUnits fr lo + codeUnits fr (lo + 1) : ℚ) = 2 * x ∧ lo % 2 = 1) then lo + 1 else lo) (e : Nat) :
    |(codeUnits fr c : ℚ) - x| ≤ |(codeUnits fr e : ℚ) - x| ∧
      (|(codeUnits fr c : ℚ) - x| = |(codeUnits fr e : ℚ) - x| → codeUnits fr c ≠ codeUnits fr e → c % 2 = 0) := by
  have lo_dist : |(codeUnits fr lo : ℚ) - x| = x - codeUnits fr lo := by rw [abs_sub_comm, abs_of_nonneg (by linarith)]
  have hi_dist : |(codeUnits fr (lo + 1) : ℚ) - x| = codeUnits fr (lo + 1) - x := abs_of_nonneg (by linarith)
  have e_dist : (|(codeUnits fr e : ℚ) - x| = x - codeUnits fr e ∧ (codeUnits fr e : ℚ) ≤ codeUnits fr lo) ∨
      (|(codeUnits fr e : ℚ) - x| = codeUnits fr e - x ∧ (codeUnits fr (lo + 1) : ℚ) ≤ codeUnits fr e) := by
    rcases code_outside fr lo e with he | he
    · exact .inl ⟨by rw [abs_sub_comm, abs_of_nonneg (by linarith)], he⟩
    · exact .inr ⟨abs_of_nonneg (by linarith), he⟩
  split at hc
  · rename_i up
    subst hc
    rw [hi_dist]
    rcases up with up | ⟨tie, odd⟩
    · rcases e_dist with ⟨he, hle⟩ | ⟨he, hle⟩
      · exact ⟨by linarith, fun eq _ => by linarith⟩
      · refine ⟨by linarith, fun eq ne => absurd ?_ ne⟩
        have : (codeUnits fr (lo + 1) : ℚ) = codeUnits fr e := by linarith
        exact_mod_cast this
    · refine ⟨?_, fun _ _ => by omega⟩
      rcases e_dist with ⟨he, hle⟩ | ⟨he, hle⟩ <;> linarith
  · rename_i down
    rw [not_or, not_lt, not_and] at down
    obtain ⟨near, even⟩ := down
    subst hc
    rw [lo_dist]
    rcases e_dist with ⟨he, hle⟩ | ⟨he, hle⟩
    · refine ⟨by linarith, fun eq ne => absurd ?_ ne⟩
      have : (codeUnits fr c : ℚ) = codeUnits fr e := by linarith
      exact_mod_cast this
    · refine ⟨by linarith, fun eq _ => ?_⟩
      have := even (by linarith)
      omega

end Sys2Proof.Machine
end

section
/-!
The IEEE formats: f32, f16 and bf16. What a code is, and that rounding is the rounding of `Nearest` (spec 04 R97, R98, R102, R103, R106).
-/

namespace Sys2Proof.Machine

/-! ## The formats -/

/-- The magnitude code of an infinity; the finite codes lie below it. -/
def infCode (fr eb : Nat) : Nat := (2 ^ eb - 1) * 2 ^ fr

/-- `f` is the IEEE format of `fr` fraction bits and `eb` exponent bits, with the canonical NaN of R97. -/
structure Ieee (f : BinFmt) (fr eb : Nat) : Prop where
  frac : f.frac = fr
  expBits : f.expBits = eb
  bias : f.bias = 2 ^ (eb - 1) - 1
  maxCode : f.maxCode + 1 = infCode fr eb
  hasInf : f.hasInf = true
  nan : f.nan = some (infCode fr eb + 2 ^ (fr - 1))
  fraction : 1 ≤ fr
  notE5m2 : fr ≠ 2
  exponent : 2 ≤ eb

theorem f32_ieee : Ieee fF32 23 8 := by constructor <;> decide
theorem bf16_ieee : Ieee fBf16 7 8 := by constructor <;> decide
theorem f16_ieee : Ieee fF16 10 5 := by constructor <;> decide

/-- The sign bit of a code. -/
def signBit (fr eb c : Nat) : Bool := decide (c / 2 ^ (fr + eb) % 2 = 1)

/-- How many units of the smallest subnormal make 1. -/
def unitScale (fr eb : Nat) : ℚ := 2 ^ (fr + (2 ^ (eb - 1) - 2))

theorem unitScale_pos (fr eb : Nat) : 0 < unitScale fr eb := by unfold unitScale; positivity

/-- The exponent bias is at least 1. -/
theorem two_le_half {eb : Nat} (h : 2 ≤ eb) : 2 ≤ 2 ^ (eb - 1) :=
  le_trans (by simp) (Nat.pow_le_pow_right two_pos (show 1 ≤ eb - 1 by omega))

section
variable {f : BinFmt} {fr eb : Nat} (h : Ieee f fr eb)
include h

theorem Ieee.unit : (2 : ℚ) ^ ((f.frac : Int) - f.emin) = unitScale fr eb := by
  have := two_le_half h.exponent
  rw [unitScale, ← zpow_natCast, BinFmt.emin, h.bias, h.frac]
  congr 1
  push_cast [Nat.cast_sub this, Nat.cast_sub (show 1 ≤ 2 ^ (eb - 1) by omega)]
  ring

theorem Ieee.width : f.width - 1 = fr + eb := by rw [BinFmt.width, h.frac, h.expBits]; omega

theorem Ieee.lt_infCode {c : Nat} : c ≤ f.maxCode ↔ c < infCode fr eb := by rw [← h.maxCode]; omega

omit h in
/-- A code is finite when its exponent field is not all ones. -/
theorem finite_iff (c : Nat) : c % 2 ^ (fr + eb) < infCode fr eb ↔ c / 2 ^ fr % 2 ^ eb < 2 ^ eb - 1 := by
  rw [infCode, ← Nat.div_lt_iff_lt_mul (by positivity), pow_add, Nat.mod_mul_right_div_self]

omit h in
theorem infCode_lt (fr eb : Nat) : infCode fr eb + 2 ^ fr = 2 ^ (fr + eb) := by
  have : 1 ≤ 2 ^ eb := Nat.one_le_two_pow
  rw [infCode, ← Nat.add_one_mul, Nat.sub_add_cancel this, pow_add, mul_comm]

omit h in
/-- The number of a code is its magnitude in units, with its sign. -/
theorem ratOf_units (two : 2 ≤ eb) (c : Nat) :
    ratOf fr eb c = signedRat (signBit fr eb c) (codeUnits fr (c % 2 ^ (fr + eb)) / unitScale fr eb) := by
  have pos : 0 < 2 ^ fr := by positivity
  have half := two_le_half two
  have field : c % 2 ^ (fr + eb) / 2 ^ fr = c / 2 ^ fr % 2 ^ eb := by rw [pow_add, Nat.mod_mul_right_div_self]
  have rest : c % 2 ^ (fr + eb) % 2 ^ fr = c % 2 ^ fr := Nat.mod_mod_of_dvd _ (pow_dvd_pow 2 (by omega))
  have scale : ((2 ^ (2 ^ (eb - 1) - 1 + fr) : Nat) : ℚ) = 2 * unitScale fr eb := by
    rw [unitScale, ← pow_succ', Nat.cast_pow, Nat.cast_two]
    congr 1
    omega
  have magnitude : (if c / 2 ^ fr % 2 ^ eb = 0 then 2 * (c % 2 ^ fr) else (2 ^ fr + c % 2 ^ fr) * 2 ^ (c / 2 ^ fr % 2 ^ eb)) =
      2 * codeUnits fr (c % 2 ^ (fr + eb)) := by
    unfold codeUnits
    rw [field, rest]
    split
    · rename_i zero
      rw [← rest, Nat.mod_eq_of_lt ((Nat.div_eq_zero_iff_lt pos).1 (field.trans zero))]
    · rename_i normal
      obtain ⟨e, he⟩ := Nat.exists_eq_succ_of_ne_zero normal
      rw [he, Nat.succ_sub_one, Nat.pow_succ]
      ring
  have cancel : ∀ k : Nat, ((2 * k : Nat) : ℚ) / (2 * unitScale fr eb) = k / unitScale fr eb := fun k => by
    push_cast
    rw [mul_div_mul_left _ _ two_ne_zero]
  unfold ratOf
  dsimp only
  rw [magnitude, scale, cancel]
  unfold signedRat signBit
  simp only [decide_eq_true_eq]

/-! ## Reading a code -/

/-- The number of a finite code, with its sign (R97). -/
theorem Ieee.value_finite {c : Nat} (fin : c % 2 ^ (fr + eb) < infCode fr eb) : (f.value c).Is (signBit fr eb c) (ratOf fr eb c) := by
  have pos : 0 < 2 ^ fr := by positivity
  have read : ∀ k : Nat, ∀ e : Int, ((Ex.mk (signBit fr eb c) k 1).scale2 e).Is (signBit fr eb c) (signedRat (signBit fr eb c) (k * 2 ^ e)) := by
    intro k e
    have := (Ex.is_mk (signBit fr eb c) k Nat.one_pos).scale2 e
    rwa [Nat.cast_one, div_one, signedRat_mul] at this
  have unit : (2 : ℚ) ^ (f.emin - f.frac) = (unitScale fr eb)⁻¹ := by rw [← h.unit, ← zpow_neg, neg_sub]
  rw [ratOf_units h.exponent]
  unfold BinFmt.value
  simp only [h.width, h.lt_infCode, fin, if_true, h.frac]
  rw [show (c / 2 ^ (fr + eb) % 2 == 1) = signBit fr eb c by simp [signBit, beq_eq_decide]]
  unfold codeUnits
  split
  · rename_i zero
    have sub := (Nat.div_eq_zero_iff_lt pos).1 zero
    convert read _ _ using 2
    rw [add_zero, ← h.frac, unit, h.frac, Nat.mod_eq_of_lt sub, div_eq_mul_inv]
  · rename_i normal
    obtain ⟨e, he⟩ := Nat.exists_eq_succ_of_ne_zero normal
    convert read _ _ using 2
    rw [he, Nat.succ_sub_one, zpow_add₀ two_ne_zero, ← h.frac, unit, h.frac, Nat.succ_eq_add_one, Nat.cast_add_one, add_sub_cancel_right,
      zpow_natCast]
    push_cast
    ring

theorem Ieee.value_inf {c : Nat} (inf : c % 2 ^ (fr + eb) = infCode fr eb) : f.value c = .inf (signBit fr eb c) := by
  unfold BinFmt.value
  simp [h.width, h.lt_infCode, h.hasInf, h.frac, inf, infCode, signBit, beq_eq_decide]

theorem Ieee.value_nan {c : Nat} (nan : infCode fr eb < c % 2 ^ (fr + eb)) : f.value c = .nan := by
  have top := infCode_lt fr eb
  have small := Nat.mod_lt c (show 0 < 2 ^ (fr + eb) by positivity)
  obtain ⟨q, hq⟩ := Nat.exists_eq_add_of_lt nan
  have payload : c % 2 ^ (fr + eb) % 2 ^ fr ≠ 0 := by
    rw [hq, infCode, Nat.add_assoc, Nat.mul_add_mod', Nat.mod_eq_of_lt (by omega)]
    omega
  unfold BinFmt.value
  simp [h.width, h.lt_infCode, h.hasInf, h.frac, nan.le, payload]

/-! ## Writing a code -/

theorem Ieee.withSign (s : Bool) (c : Nat) : f.withSign s c = if s then c + 2 ^ (fr + eb) else c := by rw [BinFmt.withSign, h.width]

theorem Ieee.round_nan (r : Rnd) : (Fmt.bin f).round .nan r = infCode fr eb + 2 ^ (fr - 1) := by simp [Fmt.round, h.nan]

/-- Past the largest finite code stands the infinity, to nearest and under stochastic rounding (R103). -/
theorem Ieee.round_fin (s : Bool) (n d : Nat) {r : Rnd} (hr : r = .rne ∨ ∃ draw grid, r = .sr draw grid) :
    (Fmt.bin f).round (.fin s n d) r = f.withSign s (min (f.roundMag s n d r) (infCode fr eb)) := by
  have notE5m2 := h.notE5m2
  simp only [Fmt.round, h.lt_infCode]
  split
  · rename_i fits
    rw [min_eq_left fits.le]
  · rename_i beyond
    rw [min_eq_right (not_lt.1 beyond)]
    rcases hr with rfl | ⟨draw, grid, rfl⟩ <;> simp [BinFmt.overflow, h.hasInf, h.frac, h.expBits, infCode, notE5m2]

omit h in
/-- The magnitude and the sign of a code made of both. -/
theorem signed_code {s : Bool} {m : Nat} (hm : m < 2 ^ (fr + eb)) (c : Nat) (hc : c = if s then m + 2 ^ (fr + eb) else m) :
    c % 2 ^ (fr + eb) = m ∧ c / 2 ^ (fr + eb) = (if s then 1 else 0) ∧ signBit fr eb c = s := by
  subst hc
  cases s
  · simp [signBit, Nat.mod_eq_of_lt hm, Nat.div_eq_of_lt hm]
  · have quotient : (m + 2 ^ (fr + eb)) / 2 ^ (fr + eb) = 1 := by
      rw [Nat.add_div_right _ (by positivity), Nat.div_eq_of_lt hm]
    simp [signBit, Nat.mod_eq_of_lt hm, quotient]

omit h in
theorem infCode_pos (fr : Nat) (two : 2 ≤ eb) : 0 < infCode fr eb := by
  have : 2 ^ 1 < 2 ^ eb := Nat.pow_lt_pow_right (by omega) (by omega)
  exact Nat.mul_pos (by omega) (by positivity)

omit h in
/-- The magnitude that an infinity's code would have. -/
theorem codeUnits_infCode (fr : Nat) (two : 2 ≤ eb) : codeUnits fr (infCode fr eb) = 2 ^ (fr + (2 ^ eb - 2)) := by
  have : 2 ^ 2 ≤ 2 ^ eb := Nat.pow_le_pow_right two_pos two
  have place : infCode fr eb = (2 ^ eb - 2) * 2 ^ fr + 2 ^ fr := by
    rw [infCode, ← Nat.add_one_mul]
    congr 1
    omega
  rw [place, codeUnits_at (.inr le_rfl) (Nat.pow_le_pow_right two_pos (Nat.le_succ fr)), ← pow_add]

omit h in
/-- Twice the midpoint of the largest finite magnitude and the next. -/
theorem infCode_midpoint (fr : Nat) (two : 2 ≤ eb) : codeUnits fr (infCode fr eb - 1) + codeUnits fr (infCode fr eb) =
    (2 ^ (fr + 2) - 1) * 2 ^ (2 * (2 ^ (eb - 1) - 2) + 1) := by
  have half := two_le_half two
  have pos : 0 < 2 ^ fr := by positivity
  have whole : 2 ^ eb = 2 * 2 ^ (eb - 1) := by rw [← pow_succ']; congr 1; omega
  have exponents : 2 ^ eb - 3 = 2 * (2 ^ (eb - 1) - 2) + 1 := by omega
  have top : infCode fr eb = (2 ^ eb - 3) * 2 ^ fr + 2 ^ (fr + 1) := by
    rw [infCode, show 2 ^ (fr + 1) = 2 * 2 ^ fr by ring, ← Nat.add_mul, show 2 ^ eb - 3 + 2 = 2 ^ eb - 1 by omega]
  have succ : 2 ^ (fr + 1) = 2 * 2 ^ fr := by ring
  rw [top, Nat.add_sub_assoc (by omega), codeUnits_at (.inr (by omega)) (by omega), codeUnits_at (.inr (by omega)) (by omega),
    exponents, ← Nat.add_mul]
  congr 1
  have : 2 ^ (fr + 2) = 4 * 2 ^ fr := by ring
  omega

omit h in
/-- A magnitude rounds past the largest finite code from the midpoint of it and the next on. -/
theorem infCode_le_iff (fraction : 1 ≤ fr) (two : 2 ≤ eb) {lo c : Nat} {x : ℚ} (below : (codeUnits fr lo : ℚ) ≤ x)
    (above : x < codeUnits fr (lo + 1))
    (rounded : c = if (codeUnits fr lo + codeUnits fr (lo + 1) : ℚ) < 2 * x ∨
        ((codeUnits fr lo + codeUnits fr (lo + 1) : ℚ) = 2 * x ∧ lo % 2 = 1) then lo + 1 else lo) :
    infCode fr eb ≤ c ↔ (codeUnits fr (infCode fr eb - 1) + codeUnits fr (infCode fr eb) : ℚ) ≤ 2 * x := by
  have pos := infCode_pos fr two
  have next : infCode fr eb - 1 + 1 = infCode fr eb := Nat.sub_add_cancel pos
  have odd : (infCode fr eb - 1) % 2 = 1 := by
    obtain ⟨j, rfl⟩ := Nat.exists_eq_add_of_le fraction
    have even : infCode (1 + j) eb = 2 * ((2 ^ eb - 1) * 2 ^ j) := by rw [infCode, pow_add]; ring
    omega
  have mono := (codeUnits_strictMono fr).monotone
  have step : (codeUnits fr (infCode fr eb - 1) : ℚ) < codeUnits fr (infCode fr eb) := by
    exact_mod_cast codeUnits_strictMono fr (by omega)
  rcases Nat.lt_trichotomy lo (infCode fr eb - 1) with lt | rfl | gt
  · have : c ≤ lo + 1 := by rw [rounded]; split <;> omega
    have high : (codeUnits fr (lo + 1) : ℚ) ≤ codeUnits fr (infCode fr eb - 1) := by exact_mod_cast mono (by omega)
    exact iff_of_false (by omega) (by linarith)
  · rw [next] at rounded
    rw [rounded, le_iff_lt_or_eq (b := 2 * x)]
    simp only [odd, and_true]
    split <;> rename_i up
    · exact iff_of_true (by omega) up
    · exact iff_of_false (by omega) up
  · have : lo ≤ c := by rw [rounded]; split <;> omega
    have high : (codeUnits fr (infCode fr eb) : ℚ) ≤ codeUnits fr lo := by exact_mod_cast mono (by omega)
    exact iff_of_true (by omega) (by linarith)

omit h in
/-- The bound of `Nearest` is that midpoint. -/
theorem nearest_bound (two : 2 ≤ eb) (m : ℚ) : ((2 ^ (fr + 2) - 1) * 2 ^ (2 ^ (eb - 1) - 1) : Nat) ≤ 2 ^ (fr + 1) * m ↔
    (codeUnits fr (infCode fr eb - 1) + codeUnits fr (infCode fr eb) : ℚ) ≤ 2 * (m * unitScale fr eb) := by
  have half := two_le_half two
  have factor : (0 : ℚ) < 2 ^ (2 ^ (eb - 1) - 2) := by positivity
  have bound : (codeUnits fr (infCode fr eb - 1) + codeUnits fr (infCode fr eb) : ℚ) =
      ((2 ^ (fr + 2) - 1) * 2 ^ (2 ^ (eb - 1) - 1) : Nat) * 2 ^ (2 ^ (eb - 1) - 2) := by
    have sum := infCode_midpoint fr two
    rw [show 2 * (2 ^ (eb - 1) - 2) + 1 = 2 ^ (eb - 1) - 1 + (2 ^ (eb - 1) - 2) by omega, pow_add 2 (2 ^ (eb - 1) - 1),
      ← Nat.mul_assoc] at sum
    exact_mod_cast sum
  have units : 2 ^ (fr + 1) * m * 2 ^ (2 ^ (eb - 1) - 2) = 2 * (m * unitScale fr eb) := by
    rw [unitScale]
    ring
  rw [← mul_le_mul_iff_left₀ factor, ← bound, units]

omit h in
/-- A nearest magnitude is nearest among the signed numbers too. -/
theorem nearest_signed {s : Bool} {x : ℚ} {c : Nat} (hx : 0 ≤ x) (near : ∀ e, |(codeUnits fr c : ℚ) - x| ≤ |(codeUnits fr e : ℚ) - x| ∧
      (|(codeUnits fr c : ℚ) - x| = |(codeUnits fr e : ℚ) - x| → codeUnits fr c ≠ codeUnits fr e → c % 2 = 0)) (t : Bool) (e : Nat) :
    |signedRat s (codeUnits fr c) - signedRat s x| ≤ |signedRat t (codeUnits fr e) - signedRat s x| ∧
      (|signedRat s (codeUnits fr c) - signedRat s x| = |signedRat t (codeUnits fr e) - signedRat s x| →
        signedRat s (codeUnits fr c) ≠ signedRat t (codeUnits fr e) → c % 2 = 0) := by
  have nonneg : ∀ k : Nat, (0 : ℚ) ≤ codeUnits fr k := fun k => by positivity
  rw [signedRat_dist s s (nonneg c) hx, signedRat_dist t s (nonneg e) hx, if_pos rfl]
  by_cases same : t = s
  · subst same
    rw [if_pos rfl]
    exact ⟨(near e).1, fun eq ne => (near e).2 eq fun units => ne (by rw [units])⟩
  · rw [if_neg same]
    -- a number of the other sign is no nearer than zero
    obtain ⟨le, even⟩ := near 0
    rw [codeUnits_zero, Nat.cast_zero, zero_sub, abs_neg, abs_of_nonneg hx] at le even
    have beyond := nonneg e
    refine ⟨by linarith, fun eq ne => even (by linarith) fun zero => ne ?_⟩
    have : (codeUnits fr e : ℚ) = 0 := by linarith
    rw [this, zero]
    simp [signedRat]

/-- R102, R106: rounding to nearest, ties to even, is the rounding of `Nearest`; `neg` is the sign that an exact zero has. -/
theorem Ieee.round_nearest {x : Ex} {s neg : Bool} {q : ℚ} (hx : x.Is s q) (zero : q = 0 → s = neg) :
    Nearest fr eb q neg ((Fmt.bin f).round x .rne) := by
  have sign := hx.sign
  obtain ⟨n, d, rfl, hd, hq⟩ := hx
  have scale := unitScale_pos fr eb
  have top := infCode_lt fr eb
  have pos : 0 < 2 ^ fr := by positivity
  obtain ⟨lo, below, above, rounded⟩ := roundMag_rne (f := f) (by rw [h.frac]; exact h.fraction) s n hd rfl
  rw [h.unit, h.frac] at below above rounded
  have dist : ratDist q 0 = n / d := by rw [ratDist_abs, sub_zero, hq, signedRat_abs _ (by positivity)]
  have edge := infCode_le_iff h.fraction h.exponent below above rounded
  have nearest := nearest_units below above rounded
  rw [← nearest_bound h.exponent, ← dist] at edge
  rw [h.round_fin _ _ _ (.inl rfl)]
  generalize f.roundMag s n d .rne = c at rounded edge nearest
  obtain ⟨mag, quotient, bit⟩ := signed_code (s := s) (m := min c (infCode fr eb)) (by omega) _ (h.withSign ..)
  generalize f.withSign s (min c (infCode fr eb)) = C at mag quotient bit
  refine ⟨?_, ?_, fun large => ?_, fun small => ?_⟩
  · have : C = C / 2 ^ (fr + eb) * 2 ^ (fr + eb) + C % 2 ^ (fr + eb) := (Nat.div_add_mod' ..).symm
    rw [this, mag, quotient, show 1 + eb + fr = fr + eb + 1 by omega, pow_succ]
    cases s <;> simp <;> omega
  · rw [quotient]
    by_cases hzero : q = 0
    · rw [zero hzero]
      cases neg <;> simp [hzero]
    · rw [← sign hzero]
      cases s <;> simp [hzero]
  · rw [mag, min_eq_right (edge.2 large)]
    rfl
  · have fits : c < infCode fr eb := not_le.1 fun beyond => absurd (edge.1 beyond) (not_le.2 small)
    rw [min_eq_left fits.le] at mag
    refine ⟨(finite_iff C).1 (by omega), fun e _ => ?_⟩
    have number : q = signedRat s (n / d * unitScale fr eb) / unitScale fr eb := by
      rw [hq, ← signedRat_mul, mul_div_cancel_right₀ _ scale.ne']
    have units : ∀ (u : Bool) (k : Nat), signedRat u (codeUnits fr k / unitScale fr eb) = signedRat u (codeUnits fr k) / unitScale fr eb :=
      fun u k => by rw [div_eq_mul_inv, ← signedRat_mul, ← div_eq_mul_inv]
    have apart : ∀ a b : ℚ, ratDist (a / unitScale fr eb) (b / unitScale fr eb) = |a - b| / unitScale fr eb := fun a b => by
      rw [ratDist_abs, ← sub_div, abs_div, abs_of_pos scale]
    obtain ⟨le, even⟩ := nearest_signed (s := s) (by positivity) nearest (signBit fr eb e) (e % 2 ^ (fr + eb))
    rw [ratOf_units h.exponent, ratOf_units h.exponent, number, units, units, apart, apart, bit, mag]
    refine ⟨by gcongr, fun eq ne => ?_⟩
    have parity : C % 2 = c % 2 := by
      rw [← mag, Nat.mod_mod_of_dvd]
      exact dvd_pow_self 2 (by have := h.fraction; omega)
    rw [parity]
    exact even ((div_left_inj' scale.ne').1 eq) fun same => ne (by rw [same])

/-- A number that the format has is not changed, under every deterministic rounding. -/
theorem Ieee.round_exact (code : Nat) {x : Ex} {s : Bool} {q : ℚ} {m : Nat} (hx : x.Is s q) (fin : m < infCode fr eb)
    (mag : |q| = codeUnits fr m / unitScale fr eb) :
    (Fmt.bin f).round x (rndOf code) = f.withSign s m ∧ ratOf fr eb (f.withSign s m) = q := by
  obtain ⟨n, d, rfl, hd, rfl⟩ := hx
  have scale := unitScale_pos fr eb
  have small : m < 2 ^ (fr + eb) := fin.trans_le (infCode_lt fr eb ▸ Nat.le_add_right ..)
  rw [signedRat_abs _ (by positivity)] at mag
  have units : (codeUnits f.frac m : ℚ) = n / d * 2 ^ ((f.frac : Int) - f.emin) := by
    rw [h.unit, h.frac, mag, div_mul_cancel₀ _ scale.ne']
  obtain ⟨magnitude, -, sign⟩ := signed_code small _ (h.withSign s m)
  refine ⟨?_, by rw [ratOf_units h.exponent, sign, magnitude, mag]⟩
  simp only [Fmt.round, roundMag_exact code _ n hd units, h.lt_infCode, fin, if_true]

/-- A finite code is the rounding of its own number. -/
theorem Ieee.round_value {c : Nat} (code : Nat) {x : Ex} (wide : c < 2 ^ (1 + eb + fr)) (fin : c % 2 ^ (fr + eb) < infCode fr eb)
    (hx : x.Is (signBit fr eb c) (ratOf fr eb c)) : (Fmt.bin f).round x (rndOf code) = c := by
  have scale := unitScale_pos fr eb
  have mag : |ratOf fr eb c| = codeUnits fr (c % 2 ^ (fr + eb)) / unitScale fr eb := by
    rw [ratOf_units h.exponent, signedRat_abs _ (by positivity)]
  rw [(h.round_exact code hx fin mag).1, h.withSign]
  have parts := Nat.div_add_mod' c (2 ^ (fr + eb))
  have quotient : c / 2 ^ (fr + eb) < 2 := by
    rw [Nat.div_lt_iff_lt_mul (by positivity), ← pow_succ']
    rwa [show fr + eb + 1 = 1 + eb + fr by omega]
  unfold signBit
  interval_cases hq : c / 2 ^ (fr + eb) <;> simp <;> omega

end

end Sys2Proof.Machine
end

section
/-!
FP32 words: what they are, and the sums, products, fused forms, minima and maxima (spec 04 R97, R98, R106).
-/

namespace Sys2Proof.Machine

/-! ## Words -/

/-- The code of a word without its sign, its sign, and the number it stands for when it is finite. -/
def mag32 (w : Word) : Nat := w.toNat % 2 ^ 31
def neg32 (w : Word) : Bool := w.getLsbD 31
abbrev num32 (w : Word) : ℚ := ratOf 23 8 w.toNat

/-- A word of a sign and a magnitude code. -/
abbrev word32 (n : Bool) (m : Nat) : Word := BitVec.ofNat 32 (m + if n then 2 ^ 31 else 0)

abbrev Fin32 (w : Word) : Prop := mag32 w < 0x7F800000
abbrev Inf32 (w : Word) : Prop := mag32 w = 0x7F800000
abbrev NaN32 (w : Word) : Prop := 0x7F800000 < mag32 w

/-- `w` is the number `q` rounded once; `n` is the sign of an exact zero. -/
abbrev Near32 (q : ℚ) (n : Bool) (w : Word) : Prop := Nearest 23 8 q n w.toNat

theorem signBit_neg32 (w : Word) : signBit 23 8 w.toNat = neg32 w := by
  have top : w.toNat / 2 ^ 31 < 2 := by omega
  simp only [signBit, neg32, BitVec.getLsbD, Nat.testBit_eq_decide_div_mod_eq]

theorem word32_parts (w : Word) : w = word32 (neg32 w) (mag32 w) := by
  have sign := signBit_neg32 w
  apply BitVec.eq_of_toNat_eq
  rw [word32, ← sign, signBit, BitVec.toNat_ofNat, mag32]
  simp only [decide_eq_true_eq]
  split <;> omega

theorem word32_mag {n : Bool} {m : Nat} (h : m < 2 ^ 31) : mag32 (word32 n m) = m := by
  cases n <;> simp [mag32] <;> omega

theorem word32_neg {n : Bool} {m : Nat} (h : m < 2 ^ 31) : neg32 (word32 n m) = n := by
  rw [← signBit_neg32, signBit]
  cases n <;> simp <;> omega

theorem f32_kinds (w : Word) : Fin32 w ∨ Inf32 w ∨ NaN32 w := by
  unfold Fin32 Inf32 NaN32
  omega

/-- The first magnitude past the finite ones, in units. -/
theorem codeUnits_inf32 : codeUnits 23 0x7F800000 = 2 ^ 277 :=
  (codeUnits_infCode (eb := 8) 23 (by omega)).trans (congrArg (2 ^ ·) rfl)

/-! ## Reading and writing -/

theorem f32_fin {w : Word} (h : Fin32 w) : (f32 w).Is (neg32 w) (num32 w) := by
  rw [← signBit_neg32]
  exact f32_ieee.value_finite h

theorem f32_inf {w : Word} (h : Inf32 w) : f32 w = .inf (neg32 w) := by
  rw [← signBit_neg32]
  exact f32_ieee.value_inf h

theorem f32_nan {w : Word} (h : NaN32 w) : f32 w = .nan := f32_ieee.value_nan h

theorem f32_isNan (w : Word) : (f32 w).isNan = decide (NaN32 w) := by
  rcases f32_kinds w with h | h | h
  · obtain ⟨n, d, e, -, -⟩ := f32_fin h
    simp [e, Ex.isNan, h.le]
  · simp [f32_inf h, Ex.isNan, h]
  · simp [f32_nan h, Ex.isNan, h]

theorem f32_isNeg {w : Word} (h : ¬ NaN32 w) : (f32 w).isNeg = neg32 w := by
  rcases f32_kinds w with fin | inf | nan
  · obtain ⟨n, d, e, -, -⟩ := f32_fin fin
    rw [e, Ex.isNeg]
  · rw [f32_inf inf, Ex.isNeg]
  · exact absurd nan h

/-- A number is its magnitude in units of the smallest subnormal. -/
theorem num32_units (w : Word) : num32 w = signedRat (neg32 w) (codeUnits 23 (mag32 w) / unitScale 23 8) := by
  rw [num32, ratOf_units (by omega), signBit_neg32]
  rfl

theorem num32_eq_zero {w : Word} : num32 w = 0 ↔ mag32 w = 0 := by
  have scale := unitScale_pos 23 8
  rw [num32_units, signedRat_eq_zero, div_eq_zero_iff, or_iff_left scale.ne', Nat.cast_eq_zero]
  exact (codeUnits_strictMono 23).injective.eq_iff' (codeUnits_zero 23)

theorem toF32_nan : toF32 .nan = 0x7FC00000#32 := rfl

theorem toF32_inf (s : Bool) : toF32 (.inf s) = word32 s 0x7F800000 := by cases s <;> rfl

theorem toF32_nearest {x : Ex} {s n : Bool} {q : ℚ} (hx : x.Is s q) (zero : q = 0 → s = n) : Near32 q n (toF32 x) := by
  have near := f32_ieee.round_nearest hx zero
  rwa [Near32, toF32, BitVec.toNat_ofNat, Nat.mod_eq_of_lt near.code]

/-- A word that is no NaN is the rounding of its own value. -/
theorem toF32_num {w : Word} (h : Fin32 w) {x : Ex} (hx : x.Is (neg32 w) (num32 w)) : toF32 x = w := by
  rw [← signBit_neg32] at hx
  have := f32_ieee.round_value 0 (c := w.toNat) (by simpa using w.isLt) h hx
  rw [toF32, show Rnd.rne = rndOf 0 from rfl, this, BitVec.ofNat_toNat, BitVec.setWidth_eq]

theorem toF32_f32 {w : Word} (h : ¬ NaN32 w) : toF32 (f32 w) = w := by
  rcases f32_kinds w with fin | inf | nan
  · exact toF32_num fin (f32_fin fin)
  · rw [f32_inf inf, toF32_inf]
    conv_rhs => rw [word32_parts w, inf]
  · exact absurd nan h

theorem f32_word32_inf (s : Bool) : f32 (word32 s 0x7F800000) = .inf s := by
  rw [f32_inf (word32_mag (by omega)), word32_neg (by omega)]

/-! ## The sign turned -/

theorem Ex.mk_neg (s : Bool) (n d : Nat) : (Ex.mk s n d).neg = Ex.mk (!s) n d := by
  unfold Ex.mk
  dsimp only
  split <;> rfl

theorem Ex.scale2_neg (x : Ex) (k : Int) : (x.scale2 k).neg = x.neg.scale2 k := by
  cases x with
  | nan => rfl
  | inf s => rfl
  | fin s n d =>
    show (if 0 ≤ k then Ex.mk s (n * 2 ^ k.toNat) d else Ex.mk s n (d * 2 ^ (-k).toNat)).neg =
      if 0 ≤ k then Ex.mk (!s) (n * 2 ^ k.toNat) d else Ex.mk (!s) n (d * 2 ^ (-k).toNat)
    split <;> exact Ex.mk_neg ..

theorem neg32_flip (w : Word) : neg32 (w ^^^ 0x80000000#32) = !neg32 w := by simp [neg32]

theorem mag32_flip (w : Word) : mag32 (w ^^^ 0x80000000#32) = mag32 w := by
  rw [mag32, BitVec.toNat_xor, Nat.xor_mod_two_pow]
  exact Nat.xor_zero _

theorem f32_flip (w : Word) : f32 (w ^^^ 0x80000000#32) = (f32 w).neg := by
  have sign : ∀ v : Word, (v.toNat / 2 ^ (fF32.width - 1) % 2 == 1) = neg32 v := fun v => by
    rw [← signBit_neg32, signBit, beq_eq_decide]
    rfl
  have mag : (w ^^^ 0x80000000#32).toNat % 2 ^ (fF32.width - 1) = w.toNat % 2 ^ (fF32.width - 1) := mag32_flip w
  unfold f32 BinFmt.value
  simp only [sign, mag, neg32_flip]
  split
  · rw [Ex.scale2_neg]
    split <;> rw [Ex.mk_neg]
  · split <;> rfl

/-! ## NaN and infinities -/

@[simp] theorem Ex.add_nan (x : Ex) : x.add .nan = .nan := by cases x <;> rfl
@[simp] theorem Ex.nan_add (x : Ex) : Ex.nan.add x = .nan := rfl
@[simp] theorem Ex.mul_nan (x : Ex) : x.mul .nan = .nan := by cases x <;> rfl
@[simp] theorem Ex.nan_mul (x : Ex) : Ex.nan.mul x = .nan := rfl
@[simp] theorem Ex.neg_nan : Ex.nan.neg = .nan := rfl

theorem Ex.mul_comm (x y : Ex) : x.mul y = y.mul x := by
  have sign : ∀ s t : Bool, (s != t) = (t != s) := by decide
  cases x <;> cases y <;> simp only [Ex.mul, sign, Nat.mul_comm]

section
variable {x y z : Word}

theorem float_nan (h : NaN32 x ∨ NaN32 y) : fadd32 x y = 0x7FC00000#32 ∧ fsub32 x y = 0x7FC00000#32 ∧ fmul32 x y = 0x7FC00000#32 := by
  unfold fadd32 fsub32 fmul32
  rcases h with h | h <;> simp [f32_nan h, toF32_nan]

theorem fused_nan (h : NaN32 x ∨ NaN32 y ∨ NaN32 z) : fma32 x y z = 0x7FC00000#32 ∧ fms32 x y z = 0x7FC00000#32 := by
  unfold fma32 fms32
  rcases h with h | h | h <;> simp [f32_nan h, toF32_nan]

theorem fsub32_flip (x y : Word) : fsub32 x y = fadd32 x (y ^^^ 0x80000000#32) := by rw [fsub32, fadd32, f32_flip]

theorem fms32_flip (x y z : Word) : fms32 x y z = fma32 x y (z ^^^ 0x80000000#32) := by rw [fms32, fma32, f32_flip]

/-! ## Numbers -/

theorem fadd32_near (hx : Fin32 x) (hy : Fin32 y) : Near32 (num32 x + num32 y) (neg32 x && neg32 y) (fadd32 x y) := by
  obtain ⟨u, sum, zero⟩ := (f32_fin hx).add (f32_fin hy)
  exact toF32_nearest sum zero

theorem num32_flip (w : Word) : num32 (w ^^^ 0x80000000#32) = -num32 w := by
  rw [num32_units, num32_units, neg32_flip, mag32_flip, signedRat_not]

theorem fin32_flip {w : Word} (h : Fin32 w) : Fin32 (w ^^^ 0x80000000#32) := by rwa [Fin32, mag32_flip]

theorem fsub32_near (hx : Fin32 x) (hy : Fin32 y) : Near32 (num32 x - num32 y) (neg32 x && !neg32 y) (fsub32 x y) := by
  have := fadd32_near hx (fin32_flip hy)
  rwa [num32_flip, neg32_flip, ← sub_eq_add_neg, ← fsub32_flip] at this

theorem fmul32_near (hx : Fin32 x) (hy : Fin32 y) : Near32 (num32 x * num32 y) (neg32 x != neg32 y) (fmul32 x y) :=
  toF32_nearest ((f32_fin hx).mul (f32_fin hy)) fun _ => rfl

theorem fma32_near (hx : Fin32 x) (hy : Fin32 y) (hz : Fin32 z) :
    Near32 (num32 x * num32 y + num32 z) ((neg32 x != neg32 y) && neg32 z) (fma32 x y z) := by
  obtain ⟨u, sum, zero⟩ := ((f32_fin hx).mul (f32_fin hy)).add (f32_fin hz)
  exact toF32_nearest sum zero

theorem fms32_near (hx : Fin32 x) (hy : Fin32 y) (hz : Fin32 z) :
    Near32 (num32 x * num32 y - num32 z) ((neg32 x != neg32 y) && !neg32 z) (fms32 x y z) := by
  have := fma32_near hx hy (fin32_flip hz)
  rwa [num32_flip, neg32_flip, ← sub_eq_add_neg, ← fms32_flip] at this

/-! ## Infinities -/

theorem inf32_word {w : Word} (h : Inf32 w) : w = word32 (neg32 w) 0x7F800000 := h ▸ word32_parts w

theorem fma32_inf_addend (hx : Fin32 x) (hy : Fin32 y) (hz : Inf32 z) : fma32 x y z = z := by
  obtain ⟨n, d, product, -, -⟩ := (f32_fin hx).mul (f32_fin hy)
  rw [fma32, product, f32_inf hz]
  exact (toF32_inf _).trans (inf32_word hz).symm

theorem fms32_inf_addend (hx : Fin32 x) (hy : Fin32 y) (hz : Inf32 z) : fms32 x y z = z ^^^ 0x80000000#32 := by
  rw [fms32_flip]
  exact fma32_inf_addend hx hy (by rwa [Inf32, mag32_flip])

/-- The exact sum and product of an infinity and what is no NaN. -/
theorem f32_add_inf (hx : Inf32 x) (hy : ¬ NaN32 y) :
    (f32 x).add (f32 y) = (if Inf32 y ∧ neg32 x ≠ neg32 y then .nan else f32 x) ∧ (f32 y).add (f32 x) = (f32 x).add (f32 y) := by
  rcases f32_kinds y with fin | inf | nan
  · obtain ⟨n, d, hn, -, -⟩ := f32_fin fin
    rw [if_neg (by omega), hn, f32_inf hx]
    exact ⟨rfl, rfl⟩
  · rw [f32_inf hx, f32_inf inf, if_congr (and_iff_right inf) rfl rfl]
    cases neg32 x <;> cases neg32 y <;> exact ⟨rfl, rfl⟩
  · exact absurd nan hy

theorem f32_mul_inf (hx : Inf32 x) (hy : ¬ NaN32 y) :
    (f32 x).mul (f32 y) = if mag32 y = 0 then .nan else .inf (neg32 x != neg32 y) := by
  rcases f32_kinds y with fin | inf | nan
  · obtain ⟨n, d, hn, hd, hq⟩ := f32_fin fin
    have pos : (d : ℚ) ≠ 0 := by exact_mod_cast hd.ne'
    have zero : n = 0 ↔ mag32 y = 0 := by
      rw [← num32_eq_zero, hq, signedRat_eq_zero, div_eq_zero_iff, or_iff_left pos, Nat.cast_eq_zero]
    rw [hn, f32_inf hx, ← if_congr zero rfl rfl]
    rfl
  · rw [if_neg (by omega), f32_inf hx, f32_inf inf]
    rfl
  · exact absurd nan hy

/-- An infinite operand of a sum, a product or a fused form. -/
theorem float_inf (hx : Inf32 x) (hy : ¬ NaN32 y) :
    (fadd32 x y = if Inf32 y ∧ neg32 x ≠ neg32 y then 0x7FC00000#32 else x) ∧ fadd32 y x = fadd32 x y ∧
    (fmul32 x y = if mag32 y = 0 then 0x7FC00000#32 else word32 (neg32 x != neg32 y) 0x7F800000) ∧ fmul32 y x = fmul32 x y ∧
    (fma32 x y z = fadd32 (fmul32 x y) z ∧ fma32 y x z = fadd32 (fmul32 y x) z) := by
  obtain ⟨sum, comm⟩ := f32_add_inf hx hy
  have product := f32_mul_inf hx hy
  have fused : fma32 x y z = fadd32 (fmul32 x y) z := by
    have again : f32 (fmul32 x y) = (f32 x).mul (f32 y) := by
      rw [fmul32, product]
      split
      · exact f32_nan (by decide)
      · rw [toF32_inf, f32_word32_inf]
    rw [fma32, fadd32, again]
  have swapped : fmul32 y x = fmul32 x y := by rw [fmul32, fmul32, Ex.mul_comm]
  refine ⟨?_, by rw [fadd32, fadd32, comm], ?_, swapped, fused, ?_⟩
  · rw [fadd32, sum]
    split
    · rfl
    · exact toF32_f32 (by omega)
  · rw [fmul32, product]
    split
    · rfl
    · exact toF32_inf _
  · rw [swapped, ← fused, fma32, fma32, Ex.mul_comm]

/-! ## The order, minima and maxima -/

theorem Ex.Is.lt {x y : Ex} {s t : Bool} {p q : ℚ} (hx : x.Is s p) (hy : y.Is t q) : x.lt y = decide (p < q) := by
  obtain ⟨n, d, rfl, hd, rfl⟩ := hx
  obtain ⟨m, e, rfl, he, rfl⟩ := hy
  have hd' : (0 : ℚ) < d := by exact_mod_cast hd
  have he' : (0 : ℚ) < e := by exact_mod_cast he
  have clear : ∀ u : Bool, ∀ k : Nat, (if u then -(k : Int) else (k : Int)) = signedInt u k := fun u k => rfl
  unfold Ex.lt
  dsimp only
  rw [clear, clear, decide_eq_decide, ← Int.cast_lt (R := ℚ), signedInt_cast, signedInt_cast,
    show signedRat s ((n * e : Nat) : ℚ) = signedRat s (n / d) * (d * e) by rw [signedRat_mul]; congr 1; push_cast; field_simp,
    show signedRat t ((m * d : Nat) : ℚ) = signedRat t (m / e) * (d * e) by rw [signedRat_mul]; congr 1; push_cast; field_simp,
    mul_lt_mul_iff_left₀ (by positivity)]

/-- Signed numbers compare as their signed codes. -/
theorem signed_lt_iff {g : Nat → ℚ} (mono : StrictMono g) (zero : g 0 = 0) (s t : Bool) (m k : Nat) :
    signedRat s (g m) < signedRat t (g k) ↔ signedInt s m < signedInt t k := by
  have nonneg : ∀ j, 0 ≤ g j := fun j => zero ▸ mono.monotone (Nat.zero_le j)
  have pos : ∀ j, 0 < g j ↔ 0 < j := fun j => by rw [← zero, mono.lt_iff_lt]
  have hm := nonneg m
  have hk := nonneg k
  cases s <;> cases t <;> simp only [signedRat_true, signedRat_false, signedInt, if_true, if_false, Bool.false_eq_true]
  · rw [mono.lt_iff_lt]; omega
  · exact iff_of_false (by linarith) (by omega)
  · rcases Nat.eq_zero_or_pos k with rfl | hk0
    · rw [zero, neg_lt_zero, pos]; omega
    · have := (pos k).2 hk0
      exact iff_of_true (by linarith) (by omega)
  · rw [neg_lt_neg_iff, mono.lt_iff_lt]; omega

theorem f32_lt (hx : ¬ NaN32 x) (hy : ¬ NaN32 y) :
    (f32 x).lt (f32 y) = decide (signedInt (neg32 x) (mag32 x) < signedInt (neg32 y) (mag32 y)) := by
  have scale := unitScale_pos 23 8
  have mono : StrictMono fun m => (codeUnits 23 m : ℚ) / unitScale 23 8 := fun a b h => by
    have : (codeUnits 23 a : ℚ) < codeUnits 23 b := by exact_mod_cast codeUnits_strictMono 23 h
    exact div_lt_div_of_pos_right this scale
  rcases f32_kinds x with finx | infx | nanx
  · rcases f32_kinds y with finy | infy | nany
    · rw [(f32_fin finx).lt (f32_fin finy), num32_units, num32_units, decide_eq_decide]
      exact signed_lt_iff mono (by simp) ..
    · obtain ⟨n, d, hn, -, -⟩ := f32_fin finx
      rw [hn, f32_inf infy, Ex.lt, infy]
      cases neg32 x <;> cases neg32 y <;> simp [signedInt] <;> omega
    · exact absurd nany hy
  · rcases f32_kinds y with finy | infy | nany
    · obtain ⟨n, d, hn, -, -⟩ := f32_fin finy
      rw [hn, f32_inf infx, Ex.lt, infx]
      cases neg32 x <;> cases neg32 y <;> simp [signedInt] <;> omega
    · rw [f32_inf infx, f32_inf infy, Ex.lt, infx, infy]
      cases neg32 x <;> cases neg32 y <;> rfl
    · exact absurd nany hy
  · exact absurd nanx hx

/-- The order of minimumNumber: that of the numbers, with −0 below +0. -/
def orderKey (w : Word) : Int := if neg32 w then -1 - (mag32 w : Int) else (mag32 w : Int)

theorem word32_ext (mag : mag32 x = mag32 y) (neg : neg32 x = neg32 y) : x = y := by
  rw [word32_parts x, word32_parts y, mag, neg]

/-- A smaller number has the smaller key; of the two zeros −0 has. -/
theorem orderKey_lt (less : signedInt (neg32 x) (mag32 x) < signedInt (neg32 y) (mag32 y)) : orderKey x < orderKey y := by
  unfold signedInt at less
  unfold orderKey
  cases hx : neg32 x <;> cases hy : neg32 y <;> simp only [hx, hy, if_true, if_false, Bool.false_eq_true] at less ⊢ <;> omega

theorem orderKey_equal (equal : signedInt (neg32 x) (mag32 x) = signedInt (neg32 y) (mag32 y)) :
    if neg32 x then orderKey x ≤ orderKey y else orderKey y ≤ orderKey x := by
  unfold signedInt at equal
  unfold orderKey
  cases hx : neg32 x <;> cases hy : neg32 y <;> simp only [hx, hy, if_true, if_false, Bool.false_eq_true] at equal ⊢ <;> omega

theorem orderKey_injective (equal : orderKey x = orderKey y) : x = y := by
  unfold orderKey at equal
  have signs : neg32 x = neg32 y := by
    cases hx : neg32 x <;> cases hy : neg32 y <;> simp only [hx, hy, if_true, if_false, Bool.false_eq_true] at equal ⊢ <;> omega
  refine word32_ext ?_ signs
  rw [signs] at equal
  split at equal <;> omega

theorem f32_minmax (hx : ¬ NaN32 x) (hy : ¬ NaN32 y) (mx : Bool) :
    toF32 (Ex.minmax mx (f32 x) (f32 y)) = if orderKey x ≤ orderKey y then (if mx then y else x) else (if mx then x else y) := by
  unfold Ex.minmax
  simp only [f32_isNan, hx, hy, decide_false, Bool.false_eq_true, if_false, f32_lt hx hy, f32_lt hy hx, f32_isNeg hx, decide_eq_true_eq,
    apply_ite toF32, toF32_f32 hx, toF32_f32 hy]
  rcases lt_trichotomy (signedInt (neg32 x) (mag32 x)) (signedInt (neg32 y) (mag32 y)) with less | equal | more
  · rw [if_pos less, if_pos (orderKey_lt less).le]
  · rw [if_neg equal.not_lt, if_neg equal.not_gt]
    have key := orderKey_equal equal
    by_cases negative : neg32 x = true
    · rw [if_pos negative] at key ⊢
      rw [if_pos key]
    · rw [if_neg negative] at key ⊢
      by_cases le : orderKey x ≤ orderKey y
      · rw [orderKey_injective (le_antisymm le key), if_pos le_rfl]
      · rw [if_neg le]
  · rw [if_neg more.not_gt, if_pos more, if_neg (orderKey_lt more).not_ge]

theorem f32_minmax_nan_left (h : NaN32 x) (mx : Bool) : toF32 (Ex.minmax mx (f32 x) (f32 y)) = if NaN32 y then 0x7FC00000#32 else y := by
  rw [f32_nan h]
  show toF32 (f32 y) = _
  split
  · rename_i nan
    rw [f32_nan nan, toF32_nan]
  · rename_i num
    exact toF32_f32 num

theorem f32_minmax_nan_right (h : NaN32 y) (mx : Bool) : toF32 (Ex.minmax mx (f32 x) (f32 y)) = if NaN32 x then 0x7FC00000#32 else x := by
  unfold Ex.minmax
  simp only [f32_isNan, h, decide_true, if_true, decide_eq_true_eq]
  split
  · rw [f32_nan h, toF32_nan]
  · rename_i num
    exact toF32_f32 num

end

end Sys2Proof.Machine
end

section
/-!
The special functions of FP32 at their special values, reciprocals and square roots rounded once, 2^x and log₂ at whole powers, and the
statement on FP32 values (O2; spec 04 R97, R98, R106, R107).
-/

namespace Sys2Proof.Machine

/-! ## Words of special values -/

theorem f32_zero {w : Word} (h : mag32 w = 0) : f32 w = .fin (neg32 w) 0 1 := by
  have zero : w = word32 (neg32 w) 0 := h ▸ word32_parts w
  rw [zero, word32_neg (by omega)]
  cases neg32 w <;> rfl

theorem toF32_zero (s : Bool) : toF32 (.fin s 0 1) = word32 s 0 := by cases s <;> rfl

theorem toF32_one (s : Bool) : toF32 (.fin s 1 1) = word32 s 0x3F800000 := by cases s <;> decide

/-- What is no finite word lies beyond every finite number. -/
theorem fin32_of_small {w : Word} (h : |num32 w| < 2 ^ 128) : Fin32 w := by
  by_contra large
  have beyond : (codeUnits 23 0x7F800000 : ℚ) ≤ codeUnits 23 (mag32 w) := by
    exact_mod_cast (codeUnits_strictMono 23).monotone (not_lt.1 large)
  have scale : unitScale 23 8 = 2 ^ 149 := rfl
  rw [num32_units, scale, signedRat_abs _ (by positivity), div_lt_iff₀ (by positivity), ← pow_add] at h
  rw [codeUnits_inf32, Nat.cast_pow] at beyond
  exact absurd (beyond.trans_lt h) (lt_irrefl _)

/-- The powers of two from the smallest normal on. -/
theorem num32_pow {k : Nat} (low : 1 ≤ k) (high : k ≤ 254) : let w : Word := BitVec.ofNat 32 (k * 2 ^ 23)
    Fin32 w ∧ neg32 w = false ∧ num32 w = 2 ^ ((k : Int) - 127) := by
  have word : (BitVec.ofNat 32 (k * 2 ^ 23) : Word) = word32 false (k * 2 ^ 23) := by simp [word32]
  have mag := word32_mag (n := false) (show k * 2 ^ 23 < 2 ^ 31 by omega)
  have neg := word32_neg (n := false) (show k * 2 ^ 23 < 2 ^ 31 by omega)
  refine ⟨by rw [word]; omega, by rw [word, neg], ?_⟩
  obtain ⟨j, rfl⟩ := Nat.exists_eq_add_of_le' low
  have code : (j + 1) * 2 ^ 23 = j * 2 ^ 23 + 2 ^ 23 := by ring
  have scale : unitScale 23 8 = 2 ^ (149 : Int) := rfl
  rw [word, num32_units, neg, mag, signedRat_false, code, codeUnits_at (.inr le_rfl) (by omega), scale, Nat.cast_mul, Nat.cast_pow, Nat.cast_pow,
    ← zpow_natCast, ← zpow_natCast, Nat.cast_two, ← zpow_add₀ two_ne_zero, ← zpow_sub₀ two_ne_zero]
  congr 1
  push_cast
  ring

theorem toF32_pow {k : Nat} (low : 1 ≤ k) (high : k ≤ 254) {x : Ex} (hx : x.Is false (2 ^ ((k : Int) - 127))) :
    toF32 x = BitVec.ofNat 32 (k * 2 ^ 23) := by
  obtain ⟨fin, neg, num⟩ := num32_pow low high
  exact toF32_num fin (by rw [neg, num]; exact hx)

section
variable {x : Word}

/-! ## Signs -/

theorem fneg32_spec (x : Word) : fneg32 x = if NaN32 x then 0x7FC00000#32 else x ^^^ 0x80000000#32 := by
  simp only [fneg32, f32_isNan, decide_eq_true_eq]

theorem fabs32_spec (x : Word) : fabs32 x = if NaN32 x then 0x7FC00000#32 else x &&& 0x7FFFFFFF#32 := by
  simp only [fabs32, f32_isNan, decide_eq_true_eq]

/-! ## 2^x -/

theorem fxOne_pos : 0 < fxOne := by
  rw [fxOne]
  exact pow_pos two_pos _

theorem fxExpTerms_zero : ∀ k i term acc : Nat, fxExpTerms 0 (k + 1) i term acc = acc + term
  | 0, _, _, _ => rfl
  | k + 1, i, term, acc => by
    rw [fxExpTerms, fxExpTerms_zero k, Nat.mul_zero, Nat.zero_div, Nat.zero_div, Nat.add_zero]

theorem fxExp2_zero (d : Nat) : fxExp2 0 d = fxOne := by
  rw [fxExp2, Nat.mul_zero, Nat.zero_div, fxExp, fxExpTerms_zero, Nat.zero_add]

/-- 2 to a whole power in the range of normal numbers is exact. -/
theorem exp2Ex_whole {s : Bool} {n d i : Nat} (hn : n = i * d) (hd : 0 < d) (low : s = true → i < 200) (high : s = false → i < 128) :
    (exp2Ex s n d).Is false (2 ^ signedInt s i) := by
  subst hn
  unfold exp2Ex
  simp only [Nat.mul_div_cancel _ hd, Nat.mul_mod_left, if_true, fxExp2_zero]
  cases s
  · have one := (Ex.is_mk false fxOne fxOne_pos).scale2 i
    rw [if_neg (by simp), if_neg (not_le.2 (high rfl))]
    rwa [div_self (by exact_mod_cast fxOne_pos.ne'), signedRat_false, one_mul] at one
  · rw [if_pos rfl, if_neg (not_le.2 (low rfl))]
    convert Ex.is_fin false 1 (show 0 < 2 ^ i by positivity) using 1
    simp [signedInt]

/-- An exact integer is a whole number of denominators. -/
theorem whole_of_num {s : Bool} {n d : Nat} {z : Int} (hd : 0 < d) (hz : signedRat s ((n : ℚ) / d) = z) :
    n = z.natAbs * d ∧ signedInt s z.natAbs = z := by
  have pos : (d : ℚ) ≠ 0 := by exact_mod_cast hd.ne'
  have mag : (n : ℚ) / d = z.natAbs := by
    rw [← signedRat_abs s (show (0 : ℚ) ≤ n / d by positivity), hz, Nat.cast_natAbs, Int.cast_abs]
  refine ⟨by rw [div_eq_iff pos] at mag; exact_mod_cast mag, ?_⟩
  rw [mag, ← signedInt_cast] at hz
  exact_mod_cast hz

theorem fexp232_whole {k : Nat} (low : 1 ≤ k) (high : k ≤ 254) (h : num32 x = (k : ℚ) - 127) : fexp232 x = BitVec.ofNat 32 (k * 2 ^ 23) := by
  have exponent : num32 x = ((k - 127 : Int) : ℚ) := by rw [h]; push_cast; rfl
  have fin : Fin32 x := fin32_of_small (by
    rw [exponent, ← Int.cast_abs]
    exact_mod_cast lt_of_le_of_lt (abs_le.2 ⟨by omega, by omega⟩ : |(k - 127 : Int)| ≤ 127) (by norm_num))
  obtain ⟨n, d, read, hd, hq⟩ := f32_fin fin
  obtain ⟨whole, sign⟩ := whole_of_num hd (hq.symm.trans exponent)
  have value := exp2Ex_whole whole hd (s := neg32 x) (fun _ => by omega) (fun pos => by rw [pos, signedInt] at sign; simp at sign; omega)
  rw [sign] at value
  rw [fexp232, read]
  exact toF32_pow low high value

theorem fexp232_large (hx : Fin32 x) (h : 128 ≤ num32 x) : fexp232 x = 0x7F800000#32 := by
  obtain ⟨n, d, read, hd, hq⟩ := f32_fin hx
  have sign := (f32_fin hx).sign (by linarith)
  have positive : neg32 x = false := by
    rw [← Bool.not_eq_true, sign]
    linarith
  rw [hq, positive, signedRat_false, le_div_iff₀ (by exact_mod_cast hd)] at h
  have large : 128 ≤ n / d := (Nat.le_div_iff_mul_le hd).2 (by exact_mod_cast h)
  rw [fexp232, read, positive]
  simp only [exp2Ex, Bool.false_eq_true, if_false, large, if_true]
  exact toF32_inf false

/-! ## log₂ -/

theorem flog232_pow {k : Nat} (low : 1 ≤ k) (high : k ≤ 254) (hx : x = BitVec.ofNat 32 (k * 2 ^ 23)) :
    Near32 ((k : ℚ) - 127) false (flog232 x) := by
  obtain ⟨fin, neg, num⟩ := num32_pow low high
  rw [← hx] at fin neg num
  obtain ⟨n, d, read, hd, hq⟩ := f32_fin fin
  rw [num, neg, signedRat_false] at hq
  have positive : 0 < n := by
    rcases Nat.eq_zero_or_pos n with rfl | h
    · simp at hq
      exact absurd hq.symm (by positivity)
    · exact h
  obtain ⟨below, above⟩ := flog2_spec positive hd
  rw [← hq, zpow_le_zpow_iff_right₀ one_lt_two] at below
  rw [← hq, zpow_lt_zpow_iff_right₀ one_lt_two] at above
  have exponent : flog2 n d = (k : Int) - 127 := by omega
  obtain ⟨pos, quotient⟩ := divPow2_spec n hd (flog2 n d)
  have pos' : ((divPow2 n d (flog2 n d)).2 : ℚ) ≠ 0 := by exact_mod_cast pos.ne'
  rw [← hq, exponent, div_self (by positivity), ← exponent, div_eq_one_iff_eq pos'] at quotient
  have exact : log2Ex n d = .ofInt (flog2 n d) := by
    unfold log2Ex
    exact if_pos (by exact_mod_cast quotient)
  rw [flog232, read]
  simp only [positive.ne', if_false, neg, Bool.false_eq_true, exact]
  have result := toF32_nearest (n := false) (Ex.is_ofInt (flog2 n d)) fun zero => by
    rw [Int.cast_eq_zero.1 zero]; rfl
  rw [exponent] at result ⊢
  push_cast at result
  exact result

/-! ## sin(πx) -/

theorem fsin32_whole (hx : Fin32 x) (h : (num32 x).den = 1) : fsin32 x = word32 (neg32 x) 0 := by
  obtain ⟨n, d, read, hd, hq⟩ := f32_fin hx
  have integer : num32 x = (num32 x).num := (Rat.coe_int_num_of_den_eq_one h).symm
  obtain ⟨whole, -⟩ := whole_of_num hd (hq.symm.trans integer)
  rw [fsin32, read]
  simp only [whole, Nat.mul_mod_left, if_true]
  exact toF32_zero _

/-! ## 1/x -/

theorem frcp32_near (hx : Fin32 x) (nonzero : mag32 x ≠ 0) : Near32 (1 / num32 x) (neg32 x) (frcp32 x) := by
  obtain ⟨n, d, read, hd, hq⟩ := f32_fin hx
  have positive : n ≠ 0 := by
    rintro rfl
    exact nonzero (num32_eq_zero.1 (by rw [hq]; simp [signedRat]))
  have inverse : 1 / num32 x = signedRat (neg32 x) (d / n) := by
    rw [hq]
    cases neg32 x <;> simp [signedRat, div_neg]
  rw [frcp32, read]
  simp only [positive, if_false, inverse]
  exact toF32_nearest (Ex.is_fin _ d (Nat.pos_of_ne_zero positive)) fun _ => rfl

/-! ## Square roots -/

/-- The bits from 2^k down find the greatest root. -/
theorem isqrtBits_spec (n : Nat) : ∀ k r : Nat, r * r ≤ n → n < (r + 2 ^ k) * (r + 2 ^ k) →
    isqrtBits n k r * isqrtBits n k r ≤ n ∧ n < (isqrtBits n k r + 1) * (isqrtBits n k r + 1)
  | 0, r, low, high => ⟨low, high⟩
  | k + 1, r, low, high => by
    unfold isqrtBits
    split
    · rename_i fits
      refine isqrtBits_spec n k _ fits ?_
      rwa [Nat.add_assoc, ← Nat.two_mul, ← pow_succ']
    · rename_i exceeds
      exact isqrtBits_spec n k r low (not_le.1 exceeds)

theorem isqrt_spec (n : Nat) : isqrt n * isqrt n ≤ n ∧ n < (isqrt n + 1) * (isqrt n + 1) := by
  refine isqrtBits_spec n _ 0 (Nat.zero_le n) ?_
  rw [Nat.zero_add, ← pow_add]
  exact Nat.lt_log2_self.trans_le (Nat.pow_le_pow_right two_pos (by omega))

/-- `g` and the root of `q` lie on the same side of every number on the grid of `one` steps to 1. -/
structure RootOnGrid (one : Nat) (g q : ℚ) : Prop where
  nonneg : 0 ≤ g
  below : ∀ m : Nat, (m : ℚ) / one ≤ g → ((m : ℚ) / one) * (m / one) ≤ q
  above : ∀ m : Nat, g ≤ (m : ℚ) / one → q ≤ ((m : ℚ) / one) * (m / one)

/-- The fixed-point root serves for rounding: the half step added to an inexact one keeps it off the grid. -/
theorem sqrtFx_root (n : Nat) {d : Nat} (hd : 0 < d) : ∃ g, (sqrtFx n d).Is false g ∧ RootOnGrid fxOne g (n / d) := by
  have square : 2 ^ 640 = fxOne * fxOne := by rw [fxOne, ← pow_add]
  unfold sqrtFx
  rw [square]
  clear square
  have hF := fxOne_pos
  generalize fxOne = F at hF ⊢
  have pos : (0 : ℚ) < d := by exact_mod_cast hd
  have one : (0 : ℚ) < F := by exact_mod_cast hF
  have grid : ∀ m : ℚ, m / F * (m / F) = m * m / (F * F) := fun m => div_mul_div_comm ..
  have scaled : (n : ℚ) / d = (n * (F * F) / d) / (F * F) := by field_simp
  obtain ⟨low, high⟩ := isqrt_spec (n * (F * F) / d)
  generalize isqrt (n * (F * F) / d) = r at *
  have low' : (r * r : ℚ) ≤ n * (F * F) / d := by
    rw [le_div_iff₀ pos]
    exact_mod_cast (Nat.le_div_iff_mul_le hd).1 low
  have high' : (n : ℚ) * (F * F) / d < (r + 1) * (r + 1) := by
    rw [div_lt_iff₀ pos]
    exact_mod_cast (Nat.div_lt_iff_lt_mul hd).1 high
  dsimp only
  split
  · rename_i exact
    have root : (n : ℚ) * (F * F) / d = r * r := by
      rw [div_eq_iff pos.ne']
      exact_mod_cast exact.symm
    refine ⟨_, Ex.is_mk false r hF, ?_, fun m hm => ?_, fun m hm => ?_⟩
    · rw [signedRat_false]; positivity
    all_goals
      rw [signedRat_false, div_le_div_iff_of_pos_right one] at hm
      rw [grid, scaled, root]
      gcongr
  · have half : (((2 * r + 1 : Nat) : ℚ) / (2 * F : Nat)) = (r + 1 / 2) / F := by
      push_cast
      field_simp
    refine ⟨_, Ex.is_mk false (2 * r + 1) (Nat.mul_pos two_pos hF), ?_, fun m hm => ?_, fun m hm => ?_⟩
    · rw [signedRat_false]; positivity
    · rw [signedRat_false, half, div_le_div_iff_of_pos_right one] at hm
      have : m ≤ r := by
        by_contra more
        have : (r + 1 : ℚ) ≤ m := by exact_mod_cast (not_le.1 more)
        linarith
      rw [grid, scaled]
      refine div_le_div_of_nonneg_right (le_trans ?_ low') (by positivity)
      gcongr
    · rw [signedRat_false, half, div_le_div_iff_of_pos_right one] at hm
      have : r + 1 ≤ m := by
        by_contra less
        have : (m : ℚ) ≤ r := by exact_mod_cast (Nat.le_of_lt_succ (not_le.1 less))
        linarith
      rw [grid, scaled]
      refine div_le_div_of_nonneg_right (high'.le.trans ?_) (by positivity)
      have : (r + 1 : ℚ) ≤ m := by exact_mod_cast this
      gcongr

/-- The number a positive word is nearest to among the words: its square is on the other side of no midpoint. -/
theorem root_near {q g : ℚ} (small : q < 2 ^ 200) (root : RootOnGrid fxOne g q) {w : Word} (near : Near32 g false w) :
    Fin32 w ∧ neg32 w = false ∧ ∀ v : Word, Fin32 v → neg32 v = false →
      (num32 v < num32 w → (num32 v + num32 w) * (num32 v + num32 w) ≤ 4 * q) ∧
      (num32 w < num32 v → 4 * q ≤ (num32 v + num32 w) * (num32 v + num32 w)) := by
  have sign : neg32 w = false := by
    rw [← Bool.not_eq_true, ← signBit_neg32, signBit, decide_eq_true_eq, near.sign]
    simpa using root.nonneg
  have bounded : g < 2 ^ 100 := by
    by_contra large
    have place : ((2 ^ 100 * fxOne : Nat) : ℚ) / fxOne = 2 ^ 100 := by
      have one : (fxOne : ℚ) ≠ 0 := by exact_mod_cast fxOne_pos.ne'
      rw [Nat.cast_mul, mul_div_cancel_right₀ _ one, Nat.cast_pow, Nat.cast_two]
    have := root.below (2 ^ 100 * fxOne) (place ▸ not_lt.1 large)
    rw [place, ← pow_add] at this
    exact absurd (this.trans_lt small) (lt_irrefl _)
  obtain ⟨finite, nearest⟩ := near.near (by
    rw [ratDist_abs, sub_zero, abs_of_nonneg root.nonneg]
    calc (2 : ℚ) ^ (23 + 1) * g < 2 ^ (23 + 1) * 2 ^ 100 := by gcongr
      _ < _ := by norm_num)
  refine ⟨(finite_iff (fr := 23) (eb := 8) w.toNat).2 finite, sign, fun v finv posv => ?_⟩
  obtain ⟨closer, -⟩ := nearest v.toNat ((finite_iff (fr := 23) (eb := 8) v.toNat).1 finv)
  rw [ratDist_abs, ratDist_abs] at closer
  -- the midpoint of two words is on the grid
  have middle : (num32 v + num32 w) / 2 = (((codeUnits 23 (mag32 v) + codeUnits 23 (mag32 w)) * 2 ^ 170 : Nat) : ℚ) / fxOne := by
    have scale : unitScale 23 8 = 2 ^ 149 := rfl
    have one : (fxOne : ℚ) = 2 ^ 149 * 2 * 2 ^ 170 := by rw [fxOne, ← pow_succ, ← pow_add, Nat.cast_pow, Nat.cast_two]
    rw [num32_units, num32_units, sign, posv, signedRat_false, signedRat_false, scale, one, Nat.cast_mul, Nat.cast_add, Nat.cast_pow,
      Nat.cast_two, mul_div_mul_right _ _ (by positivity), ← div_div, ← add_div]
  refine ⟨fun less => ?_, fun more => ?_⟩
  · have mid : (num32 v + num32 w) / 2 ≤ g := by
      by_contra beyond
      rw [not_le] at beyond
      rw [abs_of_pos (show 0 < num32 w - g by linarith)] at closer
      rcases abs_cases (num32 v - g) with ⟨e, -⟩ | ⟨e, -⟩ <;> linarith
    rw [middle] at mid
    have := root.below _ mid
    rw [← middle] at this
    linarith
  · have mid : g ≤ (num32 v + num32 w) / 2 := by
      by_contra beyond
      rw [not_le] at beyond
      rw [abs_of_neg (show num32 w - g < 0 by linarith)] at closer
      rcases abs_cases (num32 v - g) with ⟨e, -⟩ | ⟨e, -⟩ <;> linarith
    rw [middle] at mid
    have := root.above _ mid
    rw [← middle] at this
    linarith

/-- A positive number of the format and its reciprocal. -/
theorem num32_bounds (hx : Fin32 x) (positive : neg32 x = false) (nonzero : mag32 x ≠ 0) : num32 x < 2 ^ 200 ∧ 1 / num32 x < 2 ^ 200 := by
  have scale : unitScale 23 8 = 2 ^ 149 := rfl
  have mono := codeUnits_strictMono 23
  have least : (1 : ℚ) ≤ codeUnits 23 (mag32 x) := by
    have := mono (Nat.pos_of_ne_zero nonzero)
    rw [codeUnits_zero] at this
    exact_mod_cast this
  have most : (codeUnits 23 (mag32 x) : ℚ) < 2 ^ 277 := by
    have := mono hx
    rw [codeUnits_inf32] at this
    exact_mod_cast this
  rw [num32_units, positive, signedRat_false, scale]
  refine ⟨?_, ?_⟩
  · rw [div_lt_iff₀ (by positivity), ← pow_add]
    exact most.trans (pow_lt_pow_right₀ one_lt_two (by norm_num))
  · rw [one_div_div, div_lt_iff₀ (by linarith)]
    linarith [show (2 : ℚ) ^ 149 < 2 ^ 200 by norm_num]

theorem roots_near (hx : Fin32 x) (positive : neg32 x = false) (nonzero : mag32 x ≠ 0) (w : Word) (q : ℚ)
    (h : (w = fsqrt32 x ∧ q = num32 x) ∨ (w = frsq32 x ∧ q = 1 / num32 x)) :
    Fin32 w ∧ neg32 w = false ∧ ∀ v : Word, Fin32 v → neg32 v = false →
      (num32 v < num32 w → (num32 v + num32 w) * (num32 v + num32 w) ≤ 4 * q) ∧
      (num32 w < num32 v → 4 * q ≤ (num32 v + num32 w) * (num32 v + num32 w)) := by
  obtain ⟨n, d, read, hd, hq⟩ := f32_fin hx
  obtain ⟨small, small'⟩ := num32_bounds hx positive nonzero
  rw [positive, signedRat_false] at hq
  have hn : n ≠ 0 := by
    rintro rfl
    exact nonzero (num32_eq_zero.1 (by rw [hq]; simp))
  rcases h with ⟨rfl, rfl⟩ | ⟨rfl, rfl⟩
  · obtain ⟨g, value, root⟩ := sqrtFx_root n hd
    rw [← hq] at root
    refine root_near small root ?_
    rw [fsqrt32, read]
    simp only [hn, if_false, positive, Bool.false_eq_true]
    exact toF32_nearest value fun _ => rfl
  · obtain ⟨g, value, root⟩ := sqrtFx_root d (Nat.pos_of_ne_zero hn)
    rw [← one_div_div, ← hq] at root
    refine root_near small' root ?_
    rw [frsq32, read]
    simp only [hn, if_false, positive, Bool.false_eq_true]
    exact toF32_nearest value fun _ => rfl

theorem negative_nan (hx : Fin32 x) (nonzero : mag32 x ≠ 0) (negative : neg32 x = true) :
    frsq32 x = 0x7FC00000#32 ∧ fsqrt32 x = 0x7FC00000#32 ∧ flog232 x = 0x7FC00000#32 := by
  obtain ⟨n, d, read, hd, hq⟩ := f32_fin hx
  have hn : n ≠ 0 := by
    rintro rfl
    exact nonzero (num32_eq_zero.1 (by rw [hq]; simp [signedRat]))
  simp only [frsq32, fsqrt32, flog232, read, negative, hn, if_true, if_false, toF32_nan, and_self]

/-! ## Special operands -/

theorem special_nan (h : NaN32 x) : ∀ f ∈ [frcp32, frsq32, fsqrt32, fexp232, flog232, fsin32, ftanh32], f x = 0x7FC00000#32 := by
  simp only [List.mem_cons, List.not_mem_nil, or_false, forall_eq_or_imp, forall_eq, frcp32, frsq32, fsqrt32, fexp232, flog232, fsin32,
    ftanh32, f32_nan h, toF32_nan, and_self]

theorem special_zero (h : mag32 x = 0) : frcp32 x = word32 (neg32 x) 0x7F800000 ∧ frsq32 x = word32 (neg32 x) 0x7F800000 ∧
    fsqrt32 x = x ∧ fexp232 x = 0x3F800000#32 ∧ flog232 x = 0xFF800000#32 ∧ fsin32 x = x ∧ ftanh32 x = x := by
  have zero : x = word32 (neg32 x) 0 := h ▸ word32_parts x
  have power : fexp232 x = 0x3F800000#32 := fexp232_whole (k := 127) (by omega) (by omega) (by
    rw [num32_eq_zero.2 h]; norm_num)
  refine ⟨?_, ?_, ?_, power, ?_, ?_, ?_⟩
  · simp only [frcp32, f32_zero h, if_true, toF32_inf]
  · simp only [frsq32, f32_zero h, if_true, toF32_inf]
  · simp only [fsqrt32, f32_zero h, if_true]
  · simp only [flog232, f32_zero h, if_true]
    rfl
  · simp only [fsin32, f32_zero h, Nat.zero_mod, if_true, toF32_zero]
    exact zero.symm
  · simp only [ftanh32, f32_zero h, if_true]

theorem special_inf (h : Inf32 x) : frcp32 x = word32 (neg32 x) 0 ∧ frsq32 x = (if neg32 x then 0x7FC00000#32 else 0#32) ∧
    fsqrt32 x = (if neg32 x then 0x7FC00000#32 else x) ∧ fexp232 x = (if neg32 x then 0#32 else x) ∧
    flog232 x = (if neg32 x then 0x7FC00000#32 else x) ∧ fsin32 x = 0x7FC00000#32 ∧ ftanh32 x = word32 (neg32 x) 0x3F800000 := by
  have word := inf32_word h
  simp only [frcp32, frsq32, fsqrt32, fexp232, flog232, fsin32, ftanh32, f32_inf h, toF32_zero, toF32_one, toF32_nan, toF32_inf, true_and]
  generalize neg32 x = s at word
  subst word
  cases s <;> simp [word32]

end

/-- Settles O2: the operands NaN, numbers, then infinities; the order; then the special functions by their operand. -/
theorem floatValues : Obligations.FloatValues := by
  unfold Obligations.FloatValues
  intro x y z mag neg fin isInf nan r near qnan signed
  refine ⟨float_nan, fused_nan, fun hx hy => ⟨fadd32_near hx hy, fsub32_near hx hy, fmul32_near hx hy,
      fun hz => ⟨fma32_near hx hy hz, fms32_near hx hy hz⟩, fun hz => ⟨fma32_inf_addend hx hy hz, fms32_inf_addend hx hy hz⟩⟩,
    fun hx hy => ?infinite, fsub32_flip x y, fms32_flip x y z, ⟨fun hx hy => ⟨f32_minmax hx hy false, f32_minmax hx hy true⟩,
      fun hx => ⟨f32_minmax_nan_left hx false, f32_minmax_nan_left hx true⟩,
      fun hy => ⟨f32_minmax_nan_right hy false, f32_minmax_nan_right hy true⟩⟩, fneg32_spec x, fabs32_spec x, special_nan, special_zero,
    special_inf, fun hx nonzero => ⟨frcp32_near hx nonzero, negative_nan hx nonzero, fun positive => roots_near hx positive nonzero,
      fexp232_large hx, fsin32_whole hx⟩, fun k low high => fexp232_whole low high, fun k low high => flog232_pow low high⟩
  obtain ⟨sum, sum', product, product', fused⟩ := float_inf (z := z) hx hy
  exact ⟨sum, sum', product, product', fun _ => fused⟩

end Sys2Proof.Machine
end

section
/-!
Packed halves and conversions: each rounded once in its own format, saturation, the special values, the generator (O3; spec 04 R97, R102 to
R104, R106, 05 R129 to R131).
-/

namespace Sys2Proof.Machine

/-! ## Halves (R106, R129) -/

section
variable {f : BinFmt} {fr eb : Nat} (h : Ieee f fr eb) {a b d : Nat}
include h

theorem half_nan (nan : infCode fr eb < a % 2 ^ (fr + eb) ∨ infCode fr eb < b % 2 ^ (fr + eb)) :
    hadd f a b 0 = infCode fr eb + 2 ^ (fr - 1) ∧ hmul f a b 0 = infCode fr eb + 2 ^ (fr - 1) ∧
      hfma f a b d = infCode fr eb + 2 ^ (fr - 1) := by
  unfold hadd hmul hfma
  rcases nan with nan | nan <;> simp [h.value_nan nan, h.round_nan]

theorem half_near (ha : a % 2 ^ (fr + eb) < infCode fr eb) (hb : b % 2 ^ (fr + eb) < infCode fr eb) :
    Nearest fr eb (ratOf fr eb a + ratOf fr eb b) (signBit fr eb a && signBit fr eb b) (hadd f a b 0) ∧
    Nearest fr eb (ratOf fr eb a * ratOf fr eb b) (signBit fr eb a != signBit fr eb b) (hmul f a b 0) := by
  obtain ⟨u, sum, zero⟩ := (h.value_finite ha).add (h.value_finite hb)
  exact ⟨h.round_nearest sum zero, h.round_nearest ((h.value_finite ha).mul (h.value_finite hb)) fun _ => rfl⟩

theorem half_fused (ha : a % 2 ^ (fr + eb) < infCode fr eb) (hb : b % 2 ^ (fr + eb) < infCode fr eb)
    (hd : d % 2 ^ (fr + eb) < infCode fr eb) : Nearest fr eb (ratOf fr eb a * ratOf fr eb b + ratOf fr eb d)
      ((signBit fr eb a != signBit fr eb b) && signBit fr eb d) (hfma f a b d) := by
  obtain ⟨u, sum, zero⟩ := ((h.value_finite ha).mul (h.value_finite hb)).add (h.value_finite hd)
  exact h.round_nearest sum zero

/-- One of two numbers, and the right one when they differ: rounding leaves a code of the format as it is. -/
theorem half_minmax (wa : a < 2 ^ (1 + eb + fr)) (wb : b < 2 ^ (1 + eb + fr)) (ha : a % 2 ^ (fr + eb) < infCode fr eb)
    (hb : b % 2 ^ (fr + eb) < infCode fr eb) : (∀ mx, hminmax f mx a b 0 = a ∨ hminmax f mx a b 0 = b) ∧
      (ratOf fr eb a < ratOf fr eb b → hminmax f false a b 0 = a ∧ hminmax f true a b 0 = b) := by
  have va := h.value_finite ha
  have vb := h.value_finite hb
  have backA : (Fmt.bin f).round (f.value a) .rne = a := h.round_value 0 wa ha va
  have backB : (Fmt.bin f).round (f.value b) .rne = b := h.round_value 0 wb hb vb
  have number : ∀ {x : Ex} {s : Bool} {q : ℚ}, x.Is s q → x.isNan = false := fun hx => by
    obtain ⟨n, m, rfl, -, -⟩ := hx
    rfl
  unfold hminmax Ex.minmax
  simp only [number va, number vb, Bool.false_eq_true, if_false, va.lt vb, vb.lt va, decide_eq_true_eq,
    apply_ite fun x => (Fmt.bin f).round x .rne, backA, backB]
  exact ⟨fun mx => by split_ifs <;> simp, fun less => by simp [less]⟩

end

/-- The sign bit of a 16-bit code. -/
theorem signBit_half {fr eb c : Nat} (width : fr + eb = 15) (hc : c < 2 ^ 16) : signBit fr eb c = decide (2 ^ 15 ≤ c) := by
  rw [signBit, width, decide_eq_decide]
  omega

theorem packed_toNat {f : Nat → Nat → Nat → Nat} (hf : ∀ a b d, f a b d < 2 ^ 16) (x y z : Word) : (packed f x y z).toNat =
    f (x.toNat % 2 ^ 16) (y.toNat % 2 ^ 16) (z.toNat % 2 ^ 16) +
      2 ^ 16 * f (x.toNat / 2 ^ 16) (y.toNat / 2 ^ 16) (z.toNat / 2 ^ 16) := by
  have low := hf (x.toNat % 2 ^ 16) (y.toNat % 2 ^ 16) (z.toNat % 2 ^ 16)
  have high := hf (x.toNat / 2 ^ 16) (y.toNat / 2 ^ 16) (z.toNat / 2 ^ 16)
  simp only [packed, BitVec.toNat_ofNat, Nat.reducePow] at *
  omega

/-! ## What CVT computes (R130) -/

theorem cvtWord_eq {rnd src dst : Nat} {f g : Fmt} (det : rnd < 5) (hf : fmtOf src = some f) (hg : fmtOf dst = some g) (draw w : Word) :
    cvtWord rnd src dst draw w = g.extend (g.round ((f.value (w.toNat % 2 ^ f.width)).scale2 0) (rndOf rnd)) := by
  simp only [cvtWord, hf, hg, convert, if_neg (show rnd ≠ 5 by omega)]

theorem f32_value (w : Word) : (Fmt.bin fF32).value (w.toNat % 2 ^ (Fmt.bin fF32).width) = f32 w := by
  show fF32.value (w.toNat % 2 ^ 32 % 2 ^ 32) = fF32.value w.toNat
  rw [Nat.mod_mod, Nat.mod_eq_of_lt w.isLt]

section
variable {w : Word} {rnd dst : Nat} {g : Fmt} (det : rnd < 5) (hg : fmtOf dst = some g) (draw : Word)
include det hg

theorem cvt_nan (h : NaN32 w) : cvtWord rnd 2 dst draw w = g.extend (g.round .nan (rndOf rnd)) := by
  rw [cvtWord_eq det rfl hg, f32_value, f32_nan h]
  rfl

theorem cvt_inf (h : Inf32 w) : cvtWord rnd 2 dst draw w = g.extend (g.round (.inf (neg32 w)) (rndOf rnd)) := by
  rw [cvtWord_eq det rfl hg, f32_value, f32_inf h]
  rfl

theorem cvt_fin (h : Fin32 w) : ∃ x : Ex, x.Is (neg32 w) (num32 w) ∧ cvtWord rnd 2 dst draw w = g.extend (g.round x (rndOf rnd)) := by
  refine ⟨(f32 w).scale2 0, by simpa using (f32_fin h).scale2 0, ?_⟩
  rw [cvtWord_eq det rfl hg, f32_value]

end

/-! ## To integers (R102, R103) -/

theorem cvt_int {dst b rnd : Nat} {signed : Bool} (hg : fmtOf dst = some (.int signed b)) (hb : 0 < b) (wide : b ≤ 32) (det : rnd < 5)
    (draw w : Word) : (NaN32 w → cvtWord rnd 2 dst draw w = 0#32) ∧
      (Inf32 w → cvtWord rnd 2 dst draw w = BitVec.ofInt 32 (if neg32 w then intMin signed b else intMax signed b)) ∧
      (Fin32 w → ∃ k, RoundsInt rnd (num32 w) k ∧
        cvtWord rnd 2 dst draw w = BitVec.ofInt 32 (max (intMin signed b) (min k (intMax signed b)))) := by
  refine ⟨fun h => ?_, fun h => ?_, fun h => ?_⟩
  · rw [cvt_nan det hg draw h]
    cases signed <;> simp [Fmt.round, Fmt.extend]
  · obtain ⟨m, written, ends⟩ := intRound_inf signed b (neg32 w) (rndOf rnd)
    have order := intMin_le_intMax signed b
    rw [cvt_inf det hg draw h, written, intPattern_extend signed hb wide, ends]
    congr 1
    split <;> omega
  · obtain ⟨x, hx, eq⟩ := cvt_fin det hg draw h
    rw [eq]
    exact intRound_spec signed hb wide det hx

/-! ## To the narrower formats (R103) -/

/-- The narrower formats, each with its NaN and what it has for the infinities and for what lies far beyond its range. -/
def narrowFormats : List (Nat × Nat × Nat × Nat) :=
  [(3, 0x7FC0, 0x7F80, 0xFF80), (4, 0x7E00, 0x7C00, 0xFC00), (5, 0x7F, 0x7E, 0xFE), (6, 0x7E, 0x7B, 0xFB), (7, 0x7, 0x7, 0xF),
    (8, 0x80, 0x7F, 0xFF)]

theorem narrow_special {e : Nat × Nat × Nat × Nat} (he : e ∈ narrowFormats) : ∃ g, fmtOf e.1 = some g ∧
    (∀ r, g.extend (g.round .nan r) = BitVec.ofNat 32 e.2.1) ∧ ∀ s r, g.extend (g.round (.inf s) r) =
      BitVec.ofNat 32 (if e.1 = 6 then (if s then 0xFC else 0x7C) else if s then e.2.2.2 else e.2.2.1) := by
  simp only [narrowFormats, List.mem_cons, List.not_mem_nil, or_false] at he
  rcases he with rfl | rfl | rfl | rfl | rfl | rfl <;> exact ⟨_, rfl, fun _ => rfl, fun s _ => by cases s <;> rfl⟩

/-- A magnitude from 2^20 on is beyond the codes of a format that ends before. -/
theorem roundMag_large {f : BinFmt} (ends : (f.maxCode : Int) < (20 - f.emin) * 2 ^ f.frac) (neg : Bool) {n d : Nat} (hd : 0 < d)
    (large : (2 : ℚ) ^ 20 ≤ n / d) (r : Rnd) : f.maxCode < f.roundMag neg n d r := by
  have hn : 0 < n := by
    rcases Nat.eq_zero_or_pos n with rfl | hn
    · norm_num at large
    · exact hn
  obtain ⟨E, a, b, binade⟩ := roundMag_binade f hn hd
  have high := (flog2_spec hn hd).2
  have exponent : (20 : Int) < flog2 n d + 1 := by
    rw [← zpow_lt_zpow_iff_right₀ (a := (2 : ℚ)) one_lt_two]
    exact lt_of_le_of_lt (by exact_mod_cast large) high
  have quantum := binade.quantum
  have steps : 20 - f.emin ≤ E := by omega
  have enough : (20 - f.emin) * 2 ^ f.frac ≤ (E : Int) * 2 ^ f.frac := by gcongr
  rw [binade.code]
  have : (f.maxCode : Int) < (E * 2 ^ f.frac : Nat) := by push_cast; linarith
  omega

/-- Where no infinity stands for an overflow, the largest finite code does. -/
theorem round_saturates {f : BinFmt} (ends : (f.maxCode : Int) < (20 - f.emin) * 2 ^ f.frac) (flat : f.hasInf = false ∨ f.frac = 2)
    {x : Ex} {s : Bool} {q : ℚ} (hx : x.Is s q) (large : 2 ^ 20 ≤ ratDist q 0) (r : Rnd) :
    (Fmt.bin f).round x r = f.withSign s f.maxCode := by
  obtain ⟨n, d, rfl, hd, rfl⟩ := hx
  rw [ratDist_abs, sub_zero, signedRat_abs _ (by positivity)] at large
  have beyond := roundMag_large ends s hd large r
  simp only [Fmt.round, not_le.2 beyond, if_false]
  rcases flat with flat | flat <;> simp [BinFmt.overflow, flat]

/-- Past 10^6 DE8 has only its largest code. -/
theorem de8_saturates {x : Ex} {s : Bool} {q : ℚ} (hx : x.Is s q) (large : 2 ^ 20 ≤ ratDist q 0) (r : Rnd) :
    Fmt.de8.round x r = if s then 0xFF else 0x7F := by
  obtain ⟨n, d, rfl, hd, rfl⟩ := hx
  have pos : (0 : ℚ) < d := by exact_mod_cast hd
  rw [ratDist_abs, sub_zero, signedRat_abs _ (by positivity), le_div_iff₀ pos] at large
  have covers : 1000000 * d ≤ n * 1 := by
    have : 2 ^ 20 * d ≤ n := by exact_mod_cast large
    omega
  have top : de8Value (126 + 1) = .fin false 1000000 1 := by decide
  have below : de8Below n d 127 = 127 := by
    unfold de8Below
    rw [top]
    exact if_pos covers
  have rounded : de8Round s n d r = 127 := by
    unfold de8Round
    rw [below]
    rfl
  simp only [Fmt.round, rounded]
  cases s <;> rfl

theorem narrow_large {e : Nat × Nat × Nat × Nat} (he : e ∈ narrowFormats) (narrow : 5 ≤ e.1) {w : Word} {rnd : Nat} (det : rnd < 5)
    (draw : Word) (fin : Fin32 w) (large : 2 ^ 20 ≤ ratDist (num32 w) 0) :
    cvtWord rnd 2 e.1 draw w = BitVec.ofNat 32 (if neg32 w then e.2.2.2 else e.2.2.1) := by
  have binary : ∀ {f : BinFmt}, fmtOf e.1 = some (.bin f) → (f.maxCode : Int) < (20 - f.emin) * 2 ^ f.frac → f.hasInf = false ∨ f.frac = 2 →
      cvtWord rnd 2 e.1 draw w = BitVec.ofNat 32 (f.withSign (neg32 w) f.maxCode) := fun hg ends flat => by
    obtain ⟨x, hx, eq⟩ := cvt_fin det hg draw fin
    rw [eq, round_saturates ends flat hx large]
    rfl
  simp only [narrowFormats, List.mem_cons, List.not_mem_nil, or_false] at he
  rcases he with rfl | rfl | rfl | rfl | rfl | rfl
  · exact absurd narrow (by decide)
  · exact absurd narrow (by decide)
  · rw [binary (f := fE4m3) rfl (by decide) (by decide)]
    cases neg32 w <;> rfl
  · rw [binary (f := fE5m2) rfl (by decide) (by decide)]
    cases neg32 w <;> rfl
  · rw [binary (f := fE2m1) rfl (by decide) (by decide)]
    cases neg32 w <;> rfl
  · obtain ⟨x, hx, eq⟩ := cvt_fin det (dst := 8) rfl draw fin
    rw [eq, de8_saturates hx large]
    cases neg32 w <;> rfl

/-! ## To and from the IEEE formats (R102) -/

/-- A pattern of a format no wider than a register is its value there. -/
theorem nearest_word {fr eb : Nat} {q : ℚ} {n : Bool} {c : Nat} (wide : 1 + eb + fr ≤ 32) (near : Nearest fr eb q n c) :
    Nearest fr eb q n (BitVec.ofNat 32 c : Word).toNat := by
  rwa [BitVec.toNat_ofNat, Nat.mod_eq_of_lt (near.code.trans_le (Nat.pow_le_pow_right two_pos wide))]

theorem cvt_half_near {f : BinFmt} {fr eb dst : Nat} (h : Ieee f fr eb) (hg : fmtOf dst = some (.bin f)) (wide : 1 + eb + fr ≤ 32) {w : Word}
    (fin : Fin32 w) (draw : Word) : Nearest fr eb (num32 w) (neg32 w) (cvtWord 0 2 dst draw w).toNat := by
  obtain ⟨x, hx, eq⟩ := cvt_fin (show 0 < 5 by omega) hg draw fin
  rw [eq]
  exact nearest_word wide (h.round_nearest hx fun _ => rfl)

theorem cvt_int_near (signed : Bool) {src : Nat} (hf : fmtOf src = some (.int signed 32)) (draw w : Word) :
    Nearest 23 8 (if signed then (w.toInt : ℚ) else (w.toNat : ℚ)) false (cvtWord 0 src 2 draw w).toNat := by
  rw [cvtWord_eq (show 0 < 5 by omega) hf rfl]
  obtain ⟨s, read, sign⟩ := intValue_is signed (show 0 < 32 by omega) (w.toNat % 2 ^ 32)
  rw [Nat.mod_mod, Nat.mod_eq_of_lt w.isLt, BitVec.ofNat_toNat, BitVec.setWidth_eq] at read
  rw [Nat.mod_mod, Nat.mod_eq_of_lt w.isLt] at sign
  have scaled := read.scale2 0
  rw [zpow_zero, mul_one] at scaled
  refine nearest_word (by omega) (f32_ieee.round_nearest (s := s) ?_ fun zero => ?_)
  · rwa [show (Fmt.int signed 32).width = 32 from rfl, Nat.mod_eq_of_lt w.isLt]
  · have : w.toNat = 0 := by
      cases signed
      · simpa using zero
      · have : w.toInt = 0 := by simpa using zero
        have : w = 0#32 := BitVec.eq_of_toInt_eq this
        rw [this]
        rfl
    exact Bool.eq_false_iff.2 fun hs => sign hs this

/-- Every significand and exponent is a code's, when the exponent field has no end. -/
theorem exists_code (fr : Nat) : ∀ J k : Nat, k < 2 ^ (fr + 1) → ∃ m, codeUnits fr m = k * 2 ^ J
  | 0, k, hk => ⟨k, by simpa using codeUnits_at (E := 0) (.inl rfl) hk.le⟩
  | J + 1, k, hk => by
    by_cases normal : 2 ^ fr ≤ k
    · exact ⟨_, codeUnits_at (.inr normal) hk.le⟩
    · obtain ⟨m, hm⟩ := exists_code fr J (2 * k) (by rw [pow_succ]; omega)
      exact ⟨m, by rw [hm]; ring⟩

/-- A number of a narrower format is one of f32, and stays what it is. -/
theorem cvt_widen {f : BinFmt} {fr eb src rnd J : Nat} (h : Ieee f fr eb) (hf : fmtOf src = some (.bin f)) (det : rnd < 5)
    (width : fr + eb = 15) (fraction : fr < 23) (scale : unitScale 23 8 = unitScale fr eb * 2 ^ J)
    (range : codeUnits fr (infCode fr eb) * 2 ^ J ≤ codeUnits 23 (infCode 23 8)) (draw w : Word) (fin : w.toNat % 2 ^ 15 < infCode fr eb) :
    ratOf 23 8 (cvtWord rnd src 2 draw w).toNat = ratOf fr eb (w.toNat % 2 ^ 16) := by
  have wide : (Fmt.bin f).width = 16 := by
    show f.width = 16
    rw [BinFmt.width, h.frac, h.expBits]
    omega
  have fin' : w.toNat % 2 ^ 16 % 2 ^ (fr + eb) < infCode fr eb := by
    rw [width]
    omega
  have read := (h.value_finite fin').scale2 0
  rw [zpow_zero, mul_one] at read
  have value : (Fmt.bin f).value (w.toNat % 2 ^ (Fmt.bin f).width) = f.value (w.toNat % 2 ^ 16) := by
    show f.value (w.toNat % 2 ^ (Fmt.bin f).width % 2 ^ (Fmt.bin f).width) = _
    rw [wide, Nat.mod_mod]
  rw [cvtWord_eq det hf rfl, value]
  -- the code of f32 with the same magnitude
  obtain ⟨E, k, binade, normal, hk⟩ := code_binade fr (w.toNat % 2 ^ 16 % 2 ^ (fr + eb))
  have units := codeUnits_at normal hk.le
  rw [← binade] at units
  have k_small : k < 2 ^ (23 + 1) := hk.trans_le (Nat.pow_le_pow_right two_pos (Nat.succ_le_succ fraction.le))
  obtain ⟨m, hm⟩ := exists_code 23 (E + J) k k_small
  have finite : m < infCode 23 8 := by
    refine (codeUnits_strictMono 23).lt_iff_lt.1 ?_
    have below := Nat.mul_lt_mul_of_pos_right (codeUnits_strictMono fr fin') (show 0 < 2 ^ J by positivity)
    rw [units, mul_assoc, ← pow_add, ← hm] at below
    exact below.trans_le range
  have same : (codeUnits 23 m : ℚ) / unitScale 23 8 = codeUnits fr (w.toNat % 2 ^ 16 % 2 ^ (fr + eb)) / unitScale fr eb := by
    have pos := unitScale_pos fr eb
    rw [hm, units, scale, pow_add, ← mul_assoc, Nat.cast_mul, Nat.cast_pow, Nat.cast_two, mul_div_mul_right _ _ (by positivity)]
  have mag : |ratOf fr eb (w.toNat % 2 ^ 16)| = codeUnits 23 m / unitScale 23 8 := by
    have pos := unitScale_pos fr eb
    rw [same, ratOf_units h.exponent, signedRat_abs _ (by positivity)]
  obtain ⟨rounded, number⟩ := f32_ieee.round_exact rnd read finite mag
  obtain ⟨-, quotient, -⟩ := signed_code (s := signBit fr eb (w.toNat % 2 ^ 16)) (m := m) (finite.trans (by decide)) _
    (f32_ieee.withSign _ m)
  have word : fF32.withSign (signBit fr eb (w.toNat % 2 ^ 16)) m < 2 ^ 32 := by
    have : fF32.withSign (signBit fr eb (w.toNat % 2 ^ 16)) m / 2 ^ 31 ≤ 1 := by
      rw [quotient]
      split <;> omega
    omega
  rw [rounded]
  show ratOf 23 8 (BitVec.ofNat 32 _ : Word).toNat = _
  rw [BitVec.toNat_ofNat, Nat.mod_eq_of_lt word, number]

/-! ## Stochastic rounding to bf16 (R104) -/

theorem flog2_congr {n d n' d' : Nat} (hn : 0 < n) (hd : 0 < d) (hn' : 0 < n') (hd' : 0 < d') (same : (n : ℚ) / d = n' / d') :
    flog2 n d = flog2 n' d' := by
  obtain ⟨low, high⟩ := flog2_spec hn hd
  obtain ⟨low', high'⟩ := flog2_spec hn' hd'
  rw [same] at low high
  have := (zpow_lt_zpow_iff_right₀ (one_lt_two (α := ℚ))).1 (low.trans_lt high')
  have := (zpow_lt_zpow_iff_right₀ (one_lt_two (α := ℚ))).1 (low'.trans_lt high)
  omega

/-- A significand of 24 bits and its binade are those of the code. -/
theorem binade_unique {E E' k : Nat} {t : ℚ} (fits : t < 2 ^ 24) (normal : E = 0 ∨ 2 ^ 23 ≤ t) (normal' : E' = 0 ∨ 2 ^ 23 ≤ k)
    (fits' : k < 2 ^ 24) (same : t * 2 ^ E = (k : ℚ) * 2 ^ E') : E = E' ∧ t = k := by
  have fits'' : (k : ℚ) < 2 ^ 24 := by exact_mod_cast fits'
  rcases Nat.lt_trichotomy E E' with less | rfl | more
  · obtain ⟨j, rfl⟩ := Nat.exists_eq_add_of_lt less
    have big : (2 : ℚ) ^ 23 ≤ k := by exact_mod_cast normal'.resolve_left (by omega)
    rw [Nat.add_assoc, pow_add, mul_comm ((2 : ℚ) ^ E), ← mul_assoc, mul_left_inj' (by positivity), pow_succ] at same
    have one : (1 : ℚ) ≤ 2 ^ j := one_le_pow₀ one_le_two
    nlinarith
  · exact ⟨rfl, (mul_left_inj' (by positivity)).1 same⟩
  · obtain ⟨j, rfl⟩ := Nat.exists_eq_add_of_lt more
    have big : (2 : ℚ) ^ 23 ≤ t := normal.resolve_left (by omega)
    rw [Nat.add_assoc, pow_add, mul_comm ((2 : ℚ) ^ E'), ← mul_assoc, mul_left_inj' (by positivity), pow_succ] at same
    have one : (1 : ℚ) ≤ 2 ^ j := one_le_pow₀ one_le_two
    nlinarith

/-- The 16 bits that bf16 does not keep, with the draw added. -/
theorem roundMag_stochastic {n d m : Nat} (hn : 0 < n) (hd : 0 < d) (units : (codeUnits 23 m : ℚ) = n / d * unitScale 23 8) (s : Bool)
    (draw : Nat) : fBf16.roundMag s n d (.sr draw (some (fF32.spacing n d))) = (m + draw % 2 ^ 16) / 2 ^ 16 := by
  obtain ⟨E, a, b, binade⟩ := roundMag_binade fBf16 hn hd
  have pos : (0 : ℚ) < b := by exact_mod_cast binade.pos
  obtain ⟨E', k, rfl, normal, hk⟩ := code_binade 23 m
  have value : (a : ℚ) * 2 ^ 16 / b * 2 ^ E = k * 2 ^ E' := by
    have scale : unitScale 23 8 = 2 ^ ((fBf16.frac : Int) - fBf16.emin) * 2 ^ 16 := by
      rw [bf16_ieee.unit]
      show (2 : ℚ) ^ 149 = 2 ^ 133 * 2 ^ 16
      rw [← pow_add]
    rw [codeUnits_at normal hk.le, scale, ← mul_assoc, ← binade.value] at units
    push_cast at units
    rw [units]
    ring
  have fits : (a : ℚ) * 2 ^ 16 / b < 2 ^ 24 := by
    rw [div_lt_iff₀ pos]
    have : (a : ℚ) < b * 2 ^ 8 := by exact_mod_cast binade.fits
    linarith
  have normalE : E = 0 ∨ (2 : ℚ) ^ 23 ≤ a * 2 ^ 16 / b := by
    refine binade.normal.imp_right fun low => ?_
    rw [le_div_iff₀ pos]
    have : (b : ℚ) * 2 ^ 7 ≤ a := by exact_mod_cast low
    linarith
  obtain ⟨rfl, significand⟩ := binade_unique fits normalE normal hk value
  have exact : a * 2 ^ 16 / b = k := by
    rw [div_eq_iff pos.ne'] at significand
    have : a * 2 ^ 16 = k * b := by exact_mod_cast significand
    rw [this, Nat.mul_div_cancel _ binade.pos]
  have quantum : ((E : Int) + fBf16.emin - fBf16.frac - fF32.spacing n d).toNat = 16 := by
    have grid : fF32.spacing n d = E + fBf16.emin - 23 := by
      rw [← binade.quantum]
      rfl
    rw [grid, show (fBf16.frac : Int) = 7 from rfl]
    omega
  rw [binade.code, roundInt]
  rw [quantum, show min 32 16 = 16 from rfl, exact, show (fBf16.frac : Nat) = 7 from rfl]
  omega

theorem cvt_stochastic_bf16 {w : Word} (fin : Fin32 w) (draw : Word) : cvtWord 5 2 3 draw w =
    BitVec.ofNat 32 (min ((mag32 w + draw.toNat % 2 ^ 16) / 2 ^ 16) 0x7F80 + if neg32 w then 2 ^ 15 else 0) := by
  obtain ⟨n, d, read, hd, hq⟩ := f32_fin fin
  obtain ⟨n', d', scaled, hd', hq'⟩ := (f32_fin fin).scale2 0
  have same : (n : ℚ) / d = n' / d' := by
    rw [zpow_zero, mul_one, hq] at hq'
    exact signedRat_inj.1 hq'
  have units : (codeUnits 23 (mag32 w) : ℚ) = n / d * unitScale 23 8 := by
    have pos := unitScale_pos 23 8
    rw [num32_units, signedRat_inj] at hq
    rw [← hq, div_mul_cancel₀ _ pos.ne']
  have rounded : ∀ grid, (0 < n → grid = fF32.spacing n d) →
      fBf16.roundMag (neg32 w) n' d' (.sr draw.toNat (some grid)) = (mag32 w + draw.toNat % 2 ^ 16) / 2 ^ 16 := by
    intro grid spacing
    rcases Nat.eq_zero_or_pos n with rfl | hn
    · have zero : n' = 0 := by
        have pos : (d' : ℚ) ≠ 0 := by exact_mod_cast hd'.ne'
        rw [Nat.cast_zero, zero_div, eq_comm, div_eq_zero_iff, or_iff_left pos] at same
        exact_mod_cast same
      have mag : mag32 w = 0 := num32_eq_zero.1 (by rw [hq]; simp [signedRat])
      rw [zero, mag, BinFmt.roundMag, if_pos rfl]
      omega
    · have hn' : 0 < n' := by
        rcases Nat.eq_zero_or_pos n' with rfl | h
        · have : (0 : ℚ) < n / d := by positivity
          rw [same] at this
          simp at this
        · exact h
      rw [spacing hn, BinFmt.spacing, flog2_congr hn hd hn' hd' same, ← BinFmt.spacing]
      exact roundMag_stochastic hn' hd' (same ▸ units) (neg32 w) draw.toNat
  have value : (Fmt.bin fF32).value (w.toNat % 2 ^ (Fmt.bin fF32).width) = .fin (neg32 w) n d := (f32_value w).trans read
  rw [read] at scaled
  simp only [cvtWord, fmtOf, convert, value, if_true, scaled, Fmt.grid, Option.map_some]
  rw [bf16_ieee.round_fin _ _ _ (.inr ⟨_, _, rfl⟩), rounded _ fun hn => by rw [if_neg hn.ne', add_zero], bf16_ieee.withSign]
  show BitVec.ofNat 32 _ = _
  congr 1
  split <;> rfl

/-! ## The statement -/

/-- The generator's steps (R104). -/
theorem srngStep_nonzero {x : Word} (hx : x ≠ 0#32) : srngStep x =
    (x ^^^ (x <<< 13) ^^^ ((x ^^^ (x <<< 13)) >>> 17)) ^^^ ((x ^^^ (x <<< 13) ^^^ ((x ^^^ (x <<< 13)) >>> 17)) <<< 5) := by
  unfold srngStep
  rw [if_neg hx]

/-- Settles O3: the halves, both halves of a word, the conversions by their destination, then the generator. -/
theorem conversionValues : Obligations.ConversionValues := by
  unfold Obligations.ConversionValues
  refine ⟨fun f fr eb a b d format wa wb wd => ?halves, fun f x y z hf => packed_toNat hf x y z, fun w draw rnd det => ?conversions, rfl,
    fun x hx => srngStep_nonzero hx⟩
  case halves =>
    obtain ⟨h, width⟩ : Ieee f fr eb ∧ fr + eb = 15 := by
      rcases format with ⟨rfl, rfl, rfl⟩ | ⟨rfl, rfl, rfl⟩
      · exact ⟨bf16_ieee, rfl⟩
      · exact ⟨f16_ieee, rfl⟩
    have wide : 16 = 1 + eb + fr := by omega
    intro top fin neg r qnan
    have finite : ∀ c, fin c → c % 2 ^ (fr + eb) < infCode fr eb := fun c hc => by rw [width]; exact hc
    have sign : ∀ c, c < 2 ^ 16 → signBit fr eb c = neg c := fun c hc => signBit_half width hc
    refine ⟨fun nan => half_nan h (by rw [width]; exact nan), fun ha hb => ?_, fun ha hb => ?_⟩
    · obtain ⟨sum, product⟩ := half_near h (finite a ha) (finite b hb)
      rw [sign a wa, sign b wb] at sum product
      refine ⟨sum, product, fun hd => ?_, (half_minmax h (wide ▸ wa) (wide ▸ wb) (finite a ha) (finite b hb)).1⟩
      rw [← sign a wa, ← sign b wb, ← sign d wd]
      exact half_fused h (finite a ha) (finite b hb) (finite d hd)
    · exact (half_minmax h (wide ▸ wa) (wide ▸ wb) (finite a ha) (finite b hb)).2
  case conversions =>
    intro m neg r
    refine ⟨fun e he => ?integers, fun e he => ?narrow, fun fin => ⟨cvt_half_near bf16_ieee rfl (by omega) fin draw,
      cvt_half_near f16_ieee rfl (by omega) fin draw, cvt_stochastic_bf16 fin draw⟩, cvt_int_near true rfl draw w,
      cvt_int_near false rfl draw w, fun fin => cvt_widen (J := 16) bf16_ieee rfl det rfl (by omega) ?_ ?_ draw w fin,
      fun fin => cvt_widen (J := 125) f16_ieee rfl det rfl (by omega) ?_ ?_ draw w fin⟩
    case integers =>
      have format : fmtOf e.1 = some (.int e.2.1 e.2.2) ∧ 0 < e.2.2 ∧ e.2.2 ≤ 32 := by
        revert e
        decide
      exact cvt_int format.1 format.2.1 format.2.2 det draw w
    case narrow =>
      obtain ⟨g, hg, nan, inf⟩ := narrow_special he
      exact ⟨fun h => (cvt_nan det hg draw h).trans (nan _), fun h => (cvt_inf det hg draw h).trans (inf _ _),
        fun h narrow large => narrow_large he narrow det draw h large⟩
    -- the units of bf16 and f16 in those of f32, and the largest magnitude in them
    · rw [unitScale, unitScale, ← pow_add]
      congr 1
    · rw [codeUnits_infCode 7 (by omega), codeUnits_infCode 23 (by omega), ← pow_add]
      exact (pow_right_mono₀ one_le_two) (by norm_num)
    · rw [unitScale, unitScale, ← pow_add]
      congr 1
    · rw [codeUnits_infCode 10 (by omega), codeUnits_infCode 23 (by omega), ← pow_add]
      exact (pow_right_mono₀ one_le_two) (by norm_num)

end Sys2Proof.Machine
end

section
/-!
The integer, shift, bit-field and immediate instructions (O1; spec 01 R26, 03 R81, 05 R119 to R124).
-/

namespace Sys2Proof.Machine

/-! ## Results with a shape rule of their own -/

theorem isU_iff_shape (r : Reg) : r.isU = true ↔ r.shape = 0 := by cases r <;> simp [Reg.isU, Reg.shape]

theorem shapeSum_uniform {x y : Reg} (hx : x.isU = true) (hy : y.isU = true) : shapeSum x y = 0 := by simp [shapeSum, hx, hy]
theorem shapeProduct_uniform {x y : Reg} (hx : x.isU = true) (hy : y.isU = true) : shapeProduct x y = 0 := by
  simp [shapeProduct, hx, hy]
theorem shapeLeft_uniform {x y : Reg} (hx : x.isU = true) (hy : y.isU = true) : shapeLeft x y = 0 := by simp [shapeLeft, hx, hy]

theorem addReg_u_shape (x : Reg) (v : Word) : (addReg x (.u v)).shape = x.shape := by cases x <;> rfl
theorem mulReg_u_shape (x : Reg) (v : Word) : (mulReg x (.u v)).shape = x.shape := by cases x <;> rfl
theorem shlReg_u_shape (x : Reg) (v : Word) : (shlReg x (.u v)).shape = x.shape := by cases x <;> rfl

section
variable {i : Instr} {nw : Bool} {d : Dst} {a b : Src} {imm amt : Nat}

/-- Two sources under a register function whose shape, from U sources, is U. -/
theorem yields2_of_reg {sh : Reg → Reg → Nat} {f : Word → Word → Word} {g : Reg → Reg → Reg}
    (runs : ∀ s, exec i s = binary true s nw d a b g) (shape : ∀ x y, (g x y).shape = sh x y)
    (lanes : ∀ x y l, l < 32 → (g x y).lane l = f (x.lane l) (y.lane l))
    (uniform : ∀ {x y : Reg}, x.isU = true → y.isU = true → sh x y = 0) : Yields2 i true nw d a b sh f := by
  intro s c h
  refine ⟨g (c.read .a a) (c.read .b b), shape .., lanes _ _, ?_⟩
  rw [runs]
  exact binary_yields h fun ha hb => (isU_iff_shape _).2 ((shape ..).trans (uniform ha hb))

/-- A source and the immediate of R81. -/
theorem yieldsImm_of_reg {sh : Reg → Nat} {f : Word → Word → Word} {g : Reg → Word → Reg}
    (runs : ∀ s, exec i s = immediate s nw d a imm g) (shape : ∀ x v, (g x v).shape = sh x)
    (lanes : ∀ x v l, l < 32 → (g x v).lane l = f (x.lane l) v) (uniform : ∀ x : Reg, x.isU = true → sh x = 0) :
    YieldsImm i nw d a imm sh f := by
  intro s c h
  refine ⟨c.imm imm 11, g (c.read .a a) (c.imm imm 11), imm_operand .., shape .., lanes _ _, ?_⟩
  rw [runs]
  exact result_yields h (fun ha => (isU_iff_shape _).2 ((shape ..).trans (uniform _ ha))) rfl

/-- A source shifted by an amount below 32, which is the count that the shift takes (R123). -/
theorem yieldsShift_of_reg {sh : Reg → Nat} {f : Word → Nat → Word} {g : Reg → Word → Reg} (low : amt < 32)
    (runs : ∀ s, exec i s = shiftImm s nw d a amt g) (shape : ∀ x v, (g x v).shape = sh x)
    (lanes : ∀ x v l, l < 32 → (g x v).lane l = f (x.lane l) (v.toNat % 32)) (uniform : ∀ x : Reg, x.isU = true → sh x = 0) :
    YieldsShift i nw d a sh (fun x => f x amt) := by
  intro s c h
  have count : (BitVec.ofNat 32 amt).toNat % 32 = amt := by rw [BitVec.toNat_ofNat]; omega
  refine ⟨g (c.read .a a) (BitVec.ofNat 32 amt), shape .., fun l hl => ?_, ?_⟩
  · rw [lanes _ _ l hl, count]
  · rw [runs]
    exact result_yields h (fun ha => (isU_iff_shape _).2 ((shape ..).trans (uniform _ ha))) rfl

theorem yieldsImm_of_map1 {f : Word → Word → Word}
    (runs : ∀ s, exec i s = immediate s nw d a imm fun x v => map1 (fun w => f w v) x) :
    YieldsImm i nw d a imm (fun x => shapeUV x.isU) f :=
  yieldsImm_of_reg runs (fun x v => map1_shape _ x) (fun x v _ hl => map1_lane _ x hl) fun x hx => by rw [hx]; rfl

theorem yieldsShift_of_map1 {f : Word → Nat → Word} (low : amt < 32)
    (runs : ∀ s, exec i s = shiftImm s nw d a amt fun x v => map1 (fun w => f w (v.toNat % 32)) x) :
    YieldsShift i nw d a (fun x => shapeUV x.isU) (fun x => f x amt) :=
  yieldsShift_of_reg low runs (fun x v => map1_shape _ x) (fun x v _ hl => map1_lane _ x hl) fun x hx => by rw [hx]; rfl

end

/-! ## Minimum, maximum and saturation by their order (R119) -/

theorem minsW_eq : minsW = fun x y => if x.sle y then x else y := by
  funext x y
  simp [minsW, BitVec.sle]
theorem minnW_eq : minnW = fun x y => if x.ule y then x else y := by
  funext x y
  simp [minnW, BitVec.ule]
theorem maxsW_eq : maxsW = fun x y => if y.sle x then x else y := by
  funext x y
  simp [maxsW, BitVec.sle]
theorem maxnW_eq : maxnW = fun x y => if y.ule x then x else y := by
  funext x y
  simp [maxnW, BitVec.ule]
theorem addssW_eq : addssW = fun x y => BitVec.ofInt 32 (max (-2 ^ 31) (min (x.toInt + y.toInt) (2 ^ 31 - 1))) := by
  funext x y
  norm_num [addssW, satS]
theorem subssW_eq : subssW = fun x y => BitVec.ofInt 32 (max (-2 ^ 31) (min (x.toInt - y.toInt) (2 ^ 31 - 1))) := by
  funext x y
  norm_num [subssW, satS]

/-! ## Counts and bits (R121) -/

theorem clzW_toNat (x : Word) : (clzW x).toNat = if x = 0#32 then 32 else 31 - x.toNat.log2 := by
  rw [clzW, BitVec.toNat_ofNat]
  split <;> omega

/-- The count of leading zeros is the number of zeros above the highest one. -/
theorem clzW_iff (x : Word) {n : Nat} (hn : n ≤ 32) :
    (clzW x).toNat = n ↔ (n = 32 ∨ x.getLsbD (31 - n) = true) ∧ ∀ i, i < 32 → 31 < i + n → x.getLsbD i = false := by
  rw [clzW_toNat]
  by_cases hx : x = 0#32
  · subst hx
    simp [eq_comm]
  · rw [if_neg hx]
    have nonzero : x.toNat ≠ 0 := fun h => hx (BitVec.eq_of_toNat_eq h)
    have low : x.toNat.log2 < 32 := (Nat.log2_lt nonzero).2 x.isLt
    have top : x.getLsbD x.toNat.log2 = true := Nat.testBit_log2 nonzero
    have above : ∀ i, x.toNat.log2 < i → x.getLsbD i = false := fun i hi => Nat.testBit_lt_two_pow ((Nat.log2_lt nonzero).1 hi)
    constructor
    · rintro rfl
      refine ⟨.inr ?_, fun i _ h => above i (by omega)⟩
      rwa [show 31 - (31 - x.toNat.log2) = x.toNat.log2 by omega]
    · rintro ⟨one, zeros⟩
      by_contra differ
      rcases Nat.lt_or_gt_of_ne differ with less | more
      · have := zeros _ low (by omega)
        simp [top] at this
      · rcases one with rfl | one
        · omega
        · simp [above (31 - n) (by omega)] at one

theorem popcW_toNat (x : Word) : (popcW x).toNat = ((List.range 32).filter fun i => x.getLsbD i).length := by
  have few : ((List.range 32).filter fun i => x.getLsbD i).length ≤ 32 :=
    (List.length_filter_le ..).trans (List.length_range (n := 32)).le
  rw [popcW, BitVec.toNat_ofNat]
  exact Nat.mod_eq_of_lt (by unfold popc lanesOf; omega)

/-! ## Bit fields (R122) -/

theorem fieldPos_eq (c : Word) : fieldPos c = c.toNat % 32 := by simp [fieldPos, bitsN]
theorem fieldLen_eq (c : Word) : fieldLen c = min (c.toNat / 2 ^ 8 % 2 ^ 6) (32 - c.toNat % 32) := by
  rw [fieldLen, fieldPos_eq]
  rfl

theorem field_fits (c : Word) : fieldPos c + fieldLen c ≤ 32 := by
  have := fieldPos_eq c
  unfold fieldLen
  omega

theorem bfxnW_bit (x c : Word) {i : Nat} (hi : i < 32) :
    (bfxnW x c).getLsbD i = (decide (i < fieldLen c) && x.getLsbD (fieldPos c + i)) := by
  simp only [bfxnW, bitsN, BitVec.getLsbD_ofNat, hi, decide_true, Bool.true_and, Nat.testBit_mod_two_pow, Nat.testBit_div_two_pow]
  rw [Nat.add_comm]
  rfl

theorem bfxsW_bit (x c : Word) {i : Nat} (hi : i < 32) :
    (bfxsW x c).getLsbD i = (decide (0 < fieldLen c) && x.getLsbD (fieldPos c + min i (fieldLen c - 1))) := by
  unfold bfxsW
  by_cases empty : fieldLen c = 0
  · simp [empty]
  · have field : ∀ k, k < fieldLen c →
        (BitVec.ofNat (fieldLen c) (x.toNat / 2 ^ fieldPos c)).getLsbD k = x.getLsbD (fieldPos c + k) := fun k hk => by
      simp only [BitVec.getLsbD_ofNat, hk, decide_true, Bool.true_and, Nat.testBit_div_two_pow]
      rw [Nat.add_comm]
      rfl
    have extended : BitVec.ofInt 32 (sextN (x.toNat / 2 ^ fieldPos c) (fieldLen c)) =
        (BitVec.ofNat (fieldLen c) (x.toNat / 2 ^ fieldPos c)).signExtend 32 := rfl
    rw [if_neg empty, extended, BitVec.getLsbD_signExtend, BitVec.msb_eq_getLsbD_last, field (fieldLen c - 1) (by omega),
      decide_eq_true hi, decide_eq_true (Nat.pos_of_ne_zero empty), Bool.true_and, Bool.true_and]
    by_cases inside : i < fieldLen c
    · rw [field i inside, if_pos inside, Nat.min_eq_left (by omega)]
    · rw [if_neg inside, Nat.min_eq_right (by omega)]

theorem bfiW_bit (x c d : Word) {i : Nat} (hi : i < 32) :
    (bfiW x c d).getLsbD i = if fieldPos c ≤ i ∧ i < fieldPos c + fieldLen c then x.getLsbD (i - fieldPos c) else d.getLsbD i := by
  have mask : (BitVec.ofNat 32 ((2 ^ fieldLen c - 1) * 2 ^ fieldPos c) : Word).getLsbD i =
      decide (fieldPos c ≤ i ∧ i < fieldPos c + fieldLen c) := by
    rw [BitVec.getLsbD_ofNat, Nat.testBit_mul_two_pow, Nat.testBit_two_pow_sub_one]
    simp only [hi, decide_true, Bool.true_and]
    grind
  unfold bfiW
  dsimp only
  rw [BitVec.getLsbD_or, BitVec.getLsbD_and, BitVec.getLsbD_and, BitVec.getLsbD_not, BitVec.getLsbD_shiftLeft, mask]
  by_cases inside : fieldPos c ≤ i ∧ i < fieldPos c + fieldLen c
  · simp [inside, hi, Nat.not_lt.2 inside.1]
  · simp [inside, hi]

/-- Settles O1: each instruction is the unary, binary or ternary of its function, or its immediate form; then the counts and fields. -/
theorem integerResults : Obligations.IntegerResults := by
  unfold Obligations.IntegerResults
  refine ⟨fun nw d a b => ?registers, fun x c d => ?bits, fun nw d a imm amt => ?immediates⟩
  case registers =>
    have two {i : Instr} {f} := yields2_of_map2 (i := i) (cob := true) (nw := nw) (d := d) (a := a) (b := b) (f := f)
    have three {i : Instr} {f} := yields3_of_map3 (i := i) (cob := true) (nw := nw) (d := d) (a := a) (b := b) (f := f)
    have one {i : Instr} {f} := yields1_of_map1 (i := i) (cob := true) (nw := nw) (d := d) (a := a) (f := f)
    rw [← minsW_eq, ← minnW_eq, ← maxsW_eq, ← maxnW_eq, ← addssW_eq, ← subssW_eq]
    exact ⟨yields2_of_reg (fun _ => rfl) addReg_shape (fun x y _ => addReg_lane x y) shapeSum_uniform,
      yields2_of_reg (fun _ => rfl) subReg_shape (fun x y _ => subReg_lane x y) shapeSum_uniform,
      yields2_of_reg (fun _ => rfl) mulReg_shape (fun x y _ => mulReg_lane x y) shapeProduct_uniform,
      two fun _ => rfl, two fun _ => rfl, three fun _ => rfl, two fun _ => rfl, two fun _ => rfl, two fun _ => rfl, two fun _ => rfl,
      two fun _ => rfl, two fun _ => rfl, two fun _ => rfl, two fun _ => rfl, two fun _ => rfl, two fun _ => rfl,
      two fun _ => rfl, two fun _ => rfl, two fun _ => rfl, two fun _ => rfl, two fun _ => rfl, two fun _ => rfl,
      yields2_of_reg (fun _ => rfl) shlReg_shape (fun x y _ => shlReg_lane x y) shapeLeft_uniform,
      two fun _ => rfl, two fun _ => rfl, two fun _ => rfl, one fun _ => rfl, one fun _ => rfl, one fun _ => rfl,
      two fun _ => rfl, two fun _ => rfl, three fun _ => rfl⟩
  case bits =>
    intro pos len
    rw [show pos = fieldPos c from (fieldPos_eq c).symm, show len = fieldLen c from (fieldLen_eq c).symm]
    exact ⟨fun i hi => maskWhere_bit _ hi, fun n hn => clzW_iff x hn, popcW_toNat x, fun i hi => bfxnW_bit x c hi,
      fun i hi => bfxsW_bit x c hi, fun i hi => bfiW_bit x c d hi⟩
  case immediates =>
    have uniform : ∀ x : Reg, x.isU = true → x.shape = 0 := fun x => (isU_iff_shape x).1
    exact ⟨yieldsImm_of_reg (g := fun x v => addReg x (.u v)) (fun _ => rfl) addReg_u_shape (fun x v _ => addReg_lane x (.u v)) uniform,
      yieldsImm_of_reg (g := fun x v => mulReg x (.u v)) (fun _ => rfl) mulReg_u_shape (fun x v _ => mulReg_lane x (.u v)) uniform,
      yieldsImm_of_map1 fun _ => rfl, yieldsImm_of_map1 fun _ => rfl, yieldsImm_of_map1 fun _ => rfl,
      fun low => ⟨yieldsShift_of_reg (f := fun w k => w <<< k) (g := fun x v => shlReg x (.u v)) low (fun _ => rfl) shlReg_u_shape
          (fun x v _ => shlReg_lane x (.u v)) uniform,
        yieldsShift_of_map1 (f := fun w k => w >>> k) low fun _ => rfl, yieldsShift_of_map1 (f := BitVec.sshiftRight) low fun _ => rfl,
        yieldsShift_of_map1 (f := BitVec.rotateLeft) low fun _ => rfl⟩,
      fun s c h => ⟨c.imm imm 18, imm_operand .., result_yields h (fun _ => rfl) rfl⟩⟩

end Sys2Proof.Machine
end

section
/-!
The conditions of comparisons, their predicates, and SEL (O5; spec 03 R87, 05 R126, R127, R132).
-/

namespace Sys2Proof.Machine

/-! ## The conditions of CMP -/

/-- A common bit, by the lanes of a word. -/
theorem and_ne_zero_eq_any (x y : Word) : (x &&& y != 0#32) = (List.range 32).any fun i => x.getLsbD i && y.getLsbD i := by
  rw [Bool.eq_iff_iff, bne_iff_ne, Ne, BitVec.eq_of_getLsbD_eq_iff]
  simp

/-- The two bit tests; the other codes are the orders by definition. -/
theorem cmpCond_bits (x y : Word) :
    cmpCond 10 x y = ((List.range 32).any fun i => x.getLsbD i && y.getLsbD i) ∧
    cmpCond 11 x y = !(List.range 32).any fun i => x.getLsbD i && y.getLsbD i := by
  rw [← and_ne_zero_eq_any]
  exact ⟨rfl, (Bool.not_not _).symm⟩

theorem cmpCond_equal (x y : Word) : cmpCond 0 x y = decide (x = y) ∧ cmpCond 1 x y = decide (x ≠ y) :=
  ⟨rfl, (decide_not ..).symm⟩

/-! ## The conditions of FCMP -/

@[simp] theorem Ex.nan_lt (x : Ex) : Ex.nan.lt x = false := by cases x <;> rfl
@[simp] theorem Ex.lt_nan (x : Ex) : x.lt .nan = false := by cases x <;> rfl

theorem f32_lt_nan {x y : Word} (h : NaN32 x ∨ NaN32 y) : (f32 x).lt (f32 y) = false := by
  rcases h with hx | hy
  · rw [f32_nan hx, Ex.nan_lt]
  · rw [f32_nan hy, Ex.lt_nan]

theorem fcmpCond_nan {x y : Word} (h : NaN32 x ∨ NaN32 y) {cond : Nat} (hc : cond < 8) :
    fcmpCond cond x y = (cond == 1 || cond == 6) := by
  have nan : ((f32 x).isNan || (f32 y).isNan) = true := by simpa [f32_isNan] using h
  have unequal : (f32 x).eqv (f32 y) = false := by
    rw [Ex.eqv, ← Bool.not_or, nan]
    rfl
  simp only [fcmpCond, nan, unequal, f32_lt_nan h, f32_lt_nan h.symm]
  interval_cases cond <;> rfl

/-- The number of a word with its code in the place of its magnitude: no NaN, it orders as the number does. -/
abbrev key32 (w : Word) : Int := signedInt (neg32 w) (mag32 w)

theorem f32_eqv {x y : Word} (hx : ¬ NaN32 x) (hy : ¬ NaN32 y) : (f32 x).eqv (f32 y) = decide (key32 x = key32 y) := by
  simp only [Ex.eqv, f32_isNan, hx, hy, f32_lt hx hy, f32_lt hy hx, decide_false, Bool.not_false, Bool.true_and]
  rw [← decide_not, ← decide_not, ← Bool.decide_and, decide_eq_decide, not_lt, not_lt, le_antisymm_iff, and_comm]

theorem fcmpCond_numbers {x y : Word} (hx : ¬ NaN32 x) (hy : ¬ NaN32 y) {cond : Nat} (hc : cond < 8) :
    fcmpCond cond x y = [decide (key32 x = key32 y), decide (key32 x ≠ key32 y), decide (key32 x < key32 y), decide (key32 x ≤ key32 y),
      decide (key32 y < key32 x), decide (key32 y ≤ key32 x), false, true].getD cond false := by
  have ordered : ((f32 x).isNan || (f32 y).isNan) = false := by simp [f32_isNan, hx, hy]
  simp only [fcmpCond, ordered, f32_eqv hx hy, f32_lt hx hy, f32_lt hy hx, Bool.not_false, Bool.true_and, ← decide_not, not_lt]
  interval_cases cond <;> rfl

theorem num32_lt_iff (x y : Word) : num32 x < num32 y ↔ key32 x < key32 y := by
  have mono : StrictMono fun m => (codeUnits 23 m : ℚ) / unitScale 23 8 := fun a b h =>
    div_lt_div_of_pos_right (by exact_mod_cast codeUnits_strictMono 23 h) (unitScale_pos 23 8)
  rw [num32_units, num32_units]
  exact signed_lt_iff mono (by simp) ..

theorem num32_eq_iff (x y : Word) : num32 x = num32 y ↔ key32 x = key32 y := by
  have less := num32_lt_iff x y
  have more := num32_lt_iff y x
  rw [le_antisymm_iff, le_antisymm_iff, ← not_lt, ← not_lt, ← not_lt, ← not_lt, less, more]

/-! ## Predicates and SEL -/

/-- A comparison completes with its lanes in the predicate (R126, R127). -/
theorem exec_compares {i : Instr} {f : Form} {g : Word → Word → Bool} {pd pc cmb : Nat} {x y : Iss → Reg} {s : State} {c : Iss}
    (runs : exec i s = execute s f fun c => .ok (compareTo s c g pd pc cmb (x c) (y c))) (h : Issues s c f) :
    Compares s c pd (fun l => combine cmb (g ((x c).lane l) ((y c).lane l)) ((c.warp.preds.getD pc 0#32).getLsbD l)) (exec i s) := by
  rw [runs]
  exact ⟨cmpLanes g cmb (c.warp.preds.getD pc 0#32) (x c) (y c), fun _ hl => maskWhere_bit _ hl, execute_complete h rfl⟩

/-- What SEL selects by whether em agrees (R26, R132). -/
theorem selReg_spec (em sel : Mask) (x y : Reg) :
    (em &&& sel = em → selReg em sel x y = x) ∧ (em ≠ 0#32 → em &&& sel = 0#32 → selReg em sel x y = y) ∧
    (em &&& sel ≠ em → em &&& sel ≠ 0#32 → (selReg em sel x y).isV = true ∧
      ∀ l, l < 32 → (selReg em sel x y).lane l = if sel.getLsbD l then x.lane l else y.lane l) := by
  rw [selReg, BitVec.and_comm sel em]
  refine ⟨fun all => if_pos all, fun some none => ?_, fun notAll notNone => ?_⟩
  · rw [if_neg (fun all => some (all.symm.trans none)), if_pos none]
  · rw [if_neg notAll, if_neg notNone]
    exact ⟨rfl, fun l hl => vec_lane _ hl⟩

/-- Settles O5: the conditions code by code, then each instruction. -/
theorem comparisonAndSelectResults : Obligations.ComparisonAndSelectResults := by
  unfold Obligations.ComparisonAndSelectResults
  refine ⟨fun x y => ?conditions, fun now old => ⟨rfl, rfl, rfl⟩, fun s c nw d a b cond pd pc cmb imm p inv => ?instructions⟩
  case conditions =>
    refine ⟨fun cond hc => ?_, fun nan cond hc => fcmpCond_nan nan hc, fun hx hy =>
      ⟨fun cond hc => fcmpCond_numbers hx hy hc, fun _ _ => ⟨(num32_lt_iff x y).symm, (num32_eq_iff x y).symm⟩⟩⟩
    obtain ⟨test, clear⟩ := cmpCond_bits x y
    obtain ⟨equal, differ⟩ := cmpCond_equal x y
    interval_cases cond
    exacts [equal, differ, rfl, rfl, rfl, rfl, rfl, rfl, rfl, rfl, test, clear]
  case instructions =>
    refine ⟨exec_compares (x := (·.read .a a)) (y := (·.read .b b)) rfl, fun h => ⟨c.imm imm 12, imm_operand .., ?_⟩,
      exec_compares (x := (·.read .a a)) (y := (·.read .b b)) rfl, fun h => ?_⟩
    · exact exec_compares (i := .cmpi cond pd a imm) (g := cmpCond cond) (pc := 0) (cmb := 0) (y := fun c => .u (c.imm imm 12)) rfl h
    obtain ⟨all, none, mixed⟩ := selReg_spec c.em (c.pred p inv) (c.read .a a) (c.read .b b)
    exact ⟨_, all, none, mixed, result_yields h nofun rfl⟩

end Sys2Proof.Machine
end

section
/-!
The lowest lanes of a mask, and the base and stride that two lanes fix (spec 01 R52, 05 R136).
-/

namespace Sys2Proof.Machine

/-! ## The lowest lane -/

theorem lowestLane_find (m : Mask) : lowestLane m = ((List.range 32).find? fun l => m.getLsbD l).getD 32 := by
  rw [lowestLane, lanesOf, List.headD_eq_head?_getD, List.head?_filter]

theorem lowestLane_eq {m : Mask} {k : Nat} (hk : k < 32) (bit : m.getLsbD k = true) (below : ∀ j, j < k → m.getLsbD j = false) :
    lowestLane m = k := by
  have found : (List.range 32).find? (fun l => m.getLsbD l) = some k := by
    rw [List.find?_range_eq_some]
    exact ⟨bit, List.mem_range.2 hk, fun j hj => by simp [below j hj]⟩
  rw [lowestLane_find, found]
  rfl

/-- A mask that is not empty has a lowest lane. -/
theorem lowestLane_spec {m : Mask} (h : m ≠ 0#32) : lowestLane m < 32 ∧ m.getLsbD (lowestLane m) = true ∧
    ∀ j, j < lowestLane m → m.getLsbD j = false := by
  cases found : (List.range 32).find? fun l => m.getLsbD l with
  | none =>
    rw [List.find?_eq_none] at found
    refine absurd (BitVec.eq_of_getLsbD_eq fun l hl => ?_) h
    simpa using found l (List.mem_range.2 hl)
  | some k =>
    rw [lowestLane_find, found]
    obtain ⟨bit, mem, below⟩ := List.find?_range_eq_some.1 found
    exact ⟨List.mem_range.1 mem, bit, fun j hj => by simpa using below j hj⟩

@[simp] theorem lowestLane_zero : lowestLane 0#32 = 32 := by decide

/-- A mask without one lane. -/
abbrev without (m : Mask) (l : Nat) : Mask := m &&& ~~~BitVec.ofNat 32 (2 ^ l)

theorem oneLane_bit (k : Nat) {l : Nat} (hl : l < 32) : (BitVec.ofNat 32 (2 ^ k) : Mask).getLsbD l = decide (k = l) := by
  rw [BitVec.getLsbD_ofNat, Nat.testBit_two_pow, decide_eq_true hl, Bool.true_and]

theorem without_bit (m : Mask) (k : Nat) {l : Nat} (hl : l < 32) : (without m k).getLsbD l = (m.getLsbD l && decide (l ≠ k)) := by
  rw [BitVec.getLsbD_and, BitVec.getLsbD_not, oneLane_bit k hl]
  simp [hl, eq_comm]

/-- `l0` and `l1` are the two lowest lanes of `m`. -/
structure TwoLowest (m : Mask) (l0 l1 : Nat) : Prop where
  first : lowestLane m = l0
  second : lowestLane (without m l0) = l1
  lt : l0 < l1
  top : l1 < 32
  bit0 : m.getLsbD l0 = true
  bit1 : m.getLsbD l1 = true

theorem twoLowest {m : Mask} (h : m ≠ 0#32) (more : without m (lowestLane m) ≠ 0#32) :
    TwoLowest m (lowestLane m) (lowestLane (without m (lowestLane m))) := by
  obtain ⟨top0, bit0, below0⟩ := lowestLane_spec h
  obtain ⟨top1, bit1, below1⟩ := lowestLane_spec more
  rw [without_bit _ _ top1] at bit1
  simp only [Bool.and_eq_true, decide_eq_true_eq] at bit1
  obtain ⟨bit1, differ⟩ := bit1
  have notBelow : ¬ lowestLane (without m (lowestLane m)) < lowestLane m := fun lt => by simp [below0 _ lt] at bit1
  exact ⟨rfl, rfl, by omega, top1, bit0, bit1⟩

/-- Of the mask of two lanes they are the two lowest. -/
theorem twoLowest_pair {l0 l1 : Nat} (lt : l0 < l1) (top : l1 < 32) :
    TwoLowest (BitVec.ofNat 32 (2 ^ l0 + 2 ^ l1)) l0 l1 ∧
      ∀ l, l < 32 → (BitVec.ofNat 32 (2 ^ l0 + 2 ^ l1) : Mask).getLsbD l = decide (l = l0 ∨ l = l1) := by
  have bits : ∀ l, l < 32 → (BitVec.ofNat 32 (2 ^ l0 + 2 ^ l1) : Mask).getLsbD l = decide (l = l0 ∨ l = l1) := by
    intro l hl
    have sum : 2 ^ l0 + 2 ^ l1 = 2 ^ l1 ||| 2 ^ l0 := by
      have := Nat.two_pow_add_eq_or_of_lt (Nat.pow_lt_pow_right (by omega) lt) 1
      rw [Nat.add_comm]
      simpa using this
    rw [sum, BitVec.getLsbD_ofNat, Nat.testBit_or, Nat.testBit_two_pow, Nat.testBit_two_pow, decide_eq_true hl, Bool.true_and,
      ← Bool.decide_or, decide_eq_decide]
    omega
  have first : lowestLane (BitVec.ofNat 32 (2 ^ l0 + 2 ^ l1)) = l0 :=
    lowestLane_eq (by omega) (by rw [bits _ (by omega)]; simp) fun j hj => by rw [bits _ (by omega)]; simp; omega
  refine ⟨⟨first, ?_, lt, top, by rw [bits _ (by omega)]; simp, by rw [bits _ top]; simp⟩, bits⟩
  refine lowestLane_eq top ?_ fun j hj => ?_
  · rw [without_bit _ _ top, bits _ top]
    simp; omega
  · rw [without_bit _ _ (by omega), bits _ (by omega)]
    simp; omega

/-! ## The stride that two lanes fix -/

/-- The trailing zeros of a distance are its power of two. -/
theorem trailingZeros_factor {t o : Nat} (h : 2 ^ t * (2 * o + 1) < 2 ^ 32) : trailingZeros (2 ^ t * (2 * o + 1)) = t := by
  have low : t < 32 := (Nat.pow_lt_pow_iff_right (by omega)).1 (lt_of_le_of_lt (Nat.le_mul_of_pos_right _ (by omega)) h)
  refine lowestLane_eq low ?_ fun j hj => ?_
  · rw [BitVec.getLsbD_ofNat, Nat.testBit_two_pow_mul]
    simp [low, Nat.testBit_zero]
  · rw [BitVec.getLsbD_ofNat, Nat.testBit_two_pow_mul]
    simp [hj]

theorem exists_factor {d : Nat} (h : 0 < d) : ∃ t o, d = 2 ^ t * (2 * o + 1) := by
  obtain ⟨t, m, odd, rfl⟩ := Nat.exists_eq_two_pow_mul_odd h.ne'
  obtain ⟨o, rfl⟩ := odd
  exact ⟨t, o, rfl⟩

/-- The inverse of R136, for the odd parts of the distances between lanes. -/
theorem oddInverse_spec : ∀ o, o < 16 → (2 * o + 1) * oddInverse (2 * o + 1) % 2 ^ 32 = 1 := by decide

theorem strideOf_eq_some {dv t o n : Nat} (ho : o < 16) (hd : 2 ^ t * (2 * o + 1) < 2 ^ 32) (hv : dv < 2 ^ 32) :
    strideOf dv (2 ^ t * (2 * o + 1)) = some n ↔ n < 2 ^ (32 - t) ∧ n * (2 ^ t * (2 * o + 1)) % 2 ^ 32 = dv := by
  have low : t < 32 := (Nat.pow_lt_pow_iff_right (by omega)).1 (lt_of_le_of_lt (Nat.le_mul_of_pos_right _ (by omega)) hd)
  have split : 2 ^ 32 = 2 ^ t * 2 ^ (32 - t) := by rw [← pow_add, Nat.add_sub_cancel' low.le]
  have pos : 0 < 2 ^ t := Nat.two_pow_pos t
  have inverse : (2 * o + 1) * oddInverse (2 * o + 1) ≡ 1 [MOD 2 ^ (32 - t)] :=
    Nat.ModEq.of_dvd (Nat.pow_dvd_pow 2 (Nat.sub_le ..)) (show _ % 2 ^ 32 = _ from oddInverse_spec o ho)
  have product : n * (2 ^ t * (2 * o + 1)) % 2 ^ 32 = 2 ^ t * (n * (2 * o + 1) % 2 ^ (32 - t)) := by
    rw [split, ← Nat.mul_mod_mul_left]
    congr 1
    ring
  unfold strideOf
  rw [trailingZeros_factor hd, product]
  dsimp only
  rw [Nat.mul_div_cancel_left _ pos]
  generalize 2 * o + 1 = d at inverse
  by_cases multiple : dv % 2 ^ t = 0
  · obtain ⟨q, rfl⟩ := Nat.dvd_of_mod_eq_zero multiple
    rw [split] at hv
    have small : q < 2 ^ (32 - t) := Nat.lt_of_mul_lt_mul_left hv
    rw [if_neg (not_not.2 multiple), Nat.mul_div_cancel_left _ pos, Option.some_inj, Nat.mul_mod_mod, Nat.mul_right_inj pos.ne']
    constructor
    · rintro rfl
      refine ⟨Nat.mod_lt _ (Nat.two_pow_pos _), ?_⟩
      have back : q * oddInverse d % 2 ^ (32 - t) * d ≡ q [MOD 2 ^ (32 - t)] := calc
        q * oddInverse d % 2 ^ (32 - t) * d ≡ q * oddInverse d * d [MOD 2 ^ (32 - t)] := (Nat.mod_modEq ..).mul_right _
        _ = q * (d * oddInverse d) := by ring
        _ ≡ q * 1 [MOD 2 ^ (32 - t)] := inverse.mul_left _
        _ = q := Nat.mul_one q
      exact Nat.mod_eq_of_modEq back small
    · rintro ⟨bound, rfl⟩
      have back : n * d % 2 ^ (32 - t) * oddInverse d ≡ n [MOD 2 ^ (32 - t)] := calc
        n * d % 2 ^ (32 - t) * oddInverse d ≡ n * d * oddInverse d [MOD 2 ^ (32 - t)] := (Nat.mod_modEq ..).mul_right _
        _ = n * (d * oddInverse d) := by ring
        _ ≡ n * 1 [MOD 2 ^ (32 - t)] := inverse.mul_left _
        _ = n := Nat.mul_one n
      exact Nat.mod_eq_of_modEq back bound
  · rw [if_pos multiple]
    refine iff_of_false nofun fun h => multiple ?_
    rw [← h.2, Nat.mul_mod_right]

end Sys2Proof.Machine
end

section
/-!
The fit of R136: `fit` finds the base and stride that `FitsLanes` asks for, or names the lanes that spoil it (spec 05 R136).
-/

namespace Sys2Proof.Machine

/-! ## Affine lanes -/

theorem affine_step (b st : Word) {l0 l1 : Nat} (h : l0 ≤ l1) :
    (Reg.a b st).lane l1 - (Reg.a b st).lane l0 = st * BitVec.ofNat 32 (l1 - l0) := by
  have apart : BitVec.ofNat 32 l1 = BitVec.ofNat 32 l0 + BitVec.ofNat 32 (l1 - l0) := by
    rw [← BitVec.ofNat_add, Nat.add_sub_cancel' h]
  simp only [Reg.lane, apart]
  ring

/-- The affine register of a stride that has the value `x` in lane `l0`. -/
abbrev affineAt (x : Word) (l0 n : Nat) : Reg := .a (x - BitVec.ofNat 32 (n * l0)) (BitVec.ofNat 32 n)

theorem affineAt_lane (x : Word) (l0 n : Nat) : (affineAt x l0 n).lane l0 = x := by
  simp only [Reg.lane, BitVec.ofNat_mul]
  ring

/-- An affine register is the one of its stride through any of its lanes. -/
theorem affine_eq_at (b st : Word) (l0 : Nat) : Reg.a b st = affineAt ((Reg.a b st).lane l0) l0 st.toNat := by
  simp only [affineAt, Reg.lane, BitVec.ofNat_mul, BitVec.ofNat_toNat, BitVec.setWidth_eq, add_sub_cancel_right]

/-! ## The stride of two lanes -/

theorem strideOf_lanes {d : Nat} (pos : 0 < d) (small : d < 32) (dv st : Word) : strideOf dv.toNat d = some st.toNat ↔
    (∀ t o, d = 2 ^ t * (2 * o + 1) → st.toNat < 2 ^ (32 - t)) ∧ st * BitVec.ofNat 32 d = dv := by
  obtain ⟨t, o, rfl⟩ := exists_factor pos
  have odd : o < 16 := by
    have := Nat.le_mul_of_pos_left (2 * o + 1) (Nat.two_pow_pos t)
    omega
  have bound : (∀ t' o', 2 ^ t * (2 * o + 1) = 2 ^ t' * (2 * o' + 1) → st.toNat < 2 ^ (32 - t')) ↔ st.toNat < 2 ^ (32 - t) := by
    refine ⟨fun h => h t o rfl, fun h t' o' e => ?_⟩
    have same := trailingZeros_factor (t := t) (o := o) (by omega)
    rw [e, trailingZeros_factor (by omega)] at same
    rwa [same]
  rw [strideOf_eq_some odd (by omega) dv.isLt, bound, ← BitVec.toNat_inj, BitVec.toNat_mul, BitVec.toNat_ofNat, Nat.mul_mod_mod]

/-- The stride found is a word. -/
theorem strideOf_word {dv d n : Nat} (h : strideOf dv d = some n) : n = (BitVec.ofNat 32 n).toNat := by
  unfold strideOf at h
  dsimp only at h
  split at h
  · cases h
  · have : n < 2 ^ (32 - trailingZeros d) := Option.some_inj.1 h ▸ Nat.mod_lt _ (Nat.two_pow_pos _)
    have := Nat.pow_le_pow_right (n := 2) (by omega) (Nat.sub_le 32 (trailingZeros d))
    rw [BitVec.toNat_ofNat]
    omega

/-! ## What fits -/

section
variable {m : Mask} {l0 l1 : Nat} (a : Reg)

theorem TwoLowest.stride_some (h : TwoLowest m l0 l1) {b st : Word} (at0 : (Reg.a b st).lane l0 = a.lane l0)
    (at1 : (Reg.a b st).lane l1 = a.lane l1) : strideOf (a.lane l1 - a.lane l0).toNat (l1 - l0) = some st.toNat ↔
      ∀ t o, l1 - l0 = 2 ^ t * (2 * o + 1) → st.toNat < 2 ^ (32 - t) := by
  have lt := h.lt
  have top := h.top
  rw [strideOf_lanes (by omega) (by omega), ← at0, ← at1, affine_step b st lt.le]
  exact and_iff_left rfl

theorem TwoLowest.fits_iff (h : TwoLowest m l0 l1) {b st : Word} : FitsLanes m a b st ↔
    (∀ l, l < 32 → m.getLsbD l = true → (Reg.a b st).lane l = a.lane l) ∧
      strideOf (a.lane l1 - a.lane l0).toNat (l1 - l0) = some st.toNat := by
  have top := h.top
  have lt := h.lt
  have more : without m l0 ≠ 0#32 := fun e => by
    have bit := without_bit m l0 top
    rw [e, h.bit1] at bit
    simp [lt.ne'] at bit
  unfold FitsLanes
  simp only [h.first, h.second, more, ne_eq, not_false_eq_true, false_imp_iff, true_imp_iff, true_and]
  refine and_congr_right fun lanes => ?_
  exact (h.stride_some a (lanes l0 (by omega) h.bit0) (lanes l1 top h.bit1)).symm

/-- The affine register that the stride of the two lanes gives passes through both. -/
theorem TwoLowest.through (h : TwoLowest m l0 l1) {n : Nat} (hs : strideOf (a.lane l1 - a.lane l0).toNat (l1 - l0) = some n) :
    (affineAt (a.lane l0) l0 n).lane l0 = a.lane l0 ∧ (affineAt (a.lane l0) l0 n).lane l1 = a.lane l1 := by
  have lt := h.lt
  have top := h.top
  have at0 := affineAt_lane (a.lane l0) l0 n
  refine ⟨at0, ?_⟩
  rw [strideOf_word hs, strideOf_lanes (by omega) (by omega)] at hs
  have step := affine_step (a.lane l0 - BitVec.ofNat 32 (n * l0)) (BitVec.ofNat 32 n) lt.le
  rw [at0, hs.2] at step
  exact sub_left_inj.1 step

/-! ## What the fit finds -/

/-- The lanes of `m` in which `r` is not `a`. -/
abbrev misfits (m : Mask) (a r : Reg) : Mask := maskWhere fun l => m.getLsbD l && r.lane l != a.lane l

theorem misfits_eq_zero {r : Reg} : misfits m a r = 0#32 ↔ ∀ l, l < 32 → m.getLsbD l = true → r.lane l = a.lane l := by
  rw [BitVec.eq_of_getLsbD_eq_iff]
  refine forall₂_congr fun l hl => ?_
  rw [maskWhere_bit _ hl]
  simp

theorem only_lane (one : without m (lowestLane m) = 0#32) {l : Nat} (hl : l < 32) (bit : m.getLsbD l = true) : l = lowestLane m := by
  have := without_bit m (lowestLane m) hl
  rw [one, bit] at this
  simpa using this

/-- A single lane fits with stride 0. -/
theorem fit_single (one : without m (lowestLane m) = 0#32) : fit m a = .ok (.a (a.lane (lowestLane m)) 0#32) := by
  have alone : misfits m a (affineAt (a.lane (lowestLane m)) (lowestLane m) 0) = 0#32 :=
    (misfits_eq_zero a).2 fun l hl bit => by rw [only_lane one hl bit, affineAt_lane]
  unfold fit
  simp only [one, lowestLane_zero, if_true, alone]
  simp

theorem fits_single (hm : m ≠ 0#32) (one : without m (lowestLane m) = 0#32) (b st : Word) :
    FitsLanes m a b st ↔ b = a.lane (lowestLane m) ∧ st = 0#32 := by
  obtain ⟨top, bit, -⟩ := lowestLane_spec hm
  constructor
  · rintro ⟨lanes, flat, -⟩
    have flat := flat one
    subst flat
    exact ⟨by simpa [Reg.lane] using lanes _ top bit, rfl⟩
  · rintro ⟨rfl, rfl⟩
    exact ⟨fun l hl bit => by simp [Reg.lane, only_lane one hl bit], fun _ => rfl, fun more => absurd one more⟩

theorem TwoLowest.fit_none (h : TwoLowest m l0 l1) (hs : strideOf (a.lane l1 - a.lane l0).toNat (l1 - l0) = none) :
    fit m a = .error (BitVec.ofNat 32 (2 ^ l1)) := by
  unfold fit
  simp only [h.first, h.second, h.top.ne, if_false, hs]

theorem TwoLowest.fit_some (h : TwoLowest m l0 l1) {n : Nat} (hs : strideOf (a.lane l1 - a.lane l0).toNat (l1 - l0) = some n) :
    fit m a = if misfits m a (affineAt (a.lane l0) l0 n) = 0#32 then .ok (affineAt (a.lane l0) l0 n)
      else .error (misfits m a (affineAt (a.lane l0) l0 n)) := by
  unfold fit
  simp only [h.first, h.second, h.top.ne, if_false, hs]

/-! ## The fit and FitsLanes -/

theorem fit_of_fits (hm : m ≠ 0#32) {b st : Word} (h : FitsLanes m a b st) : fit m a = .ok (.a b st) := by
  by_cases one : without m (lowestLane m) = 0#32
  · obtain ⟨rfl, rfl⟩ := (fits_single a hm one b st).1 h
    exact fit_single a one
  · have two := twoLowest hm one
    obtain ⟨lanes, stride⟩ := (two.fits_iff a).1 h
    have same : affineAt (a.lane (lowestLane m)) (lowestLane m) st.toNat = .a b st := by
      rw [affine_eq_at b st (lowestLane m), lanes _ (two.lt.trans two.top) two.bit0]
    rw [two.fit_some a stride, same, if_pos ((misfits_eq_zero a).2 lanes)]

/-- Where nothing fits: the lanes that are named (log 55 for the first two lanes without a stride). -/
theorem fit_of_misfits (hm : m ≠ 0#32) (h : ∀ b st, ¬ FitsLanes m a b st) :
    let second := lowestLane (without m (lowestLane m))
    let two : Mask := BitVec.ofNat 32 (2 ^ lowestLane m + 2 ^ second)
    ∃ bad, bad ≠ 0#32 ∧ fit m a = .error bad ∧
      (∀ b st, FitsLanes two a b st → ∀ l, l < 32 → bad.getLsbD l = (m.getLsbD l && (Reg.a b st).lane l != a.lane l)) ∧
      ((∀ b st, ¬ FitsLanes two a b st) → bad = BitVec.ofNat 32 (2 ^ second)) := by
  have more : without m (lowestLane m) ≠ 0#32 := fun one => h _ _ ((fits_single a hm one _ _).2 ⟨rfl, rfl⟩)
  have low := twoLowest hm more
  generalize lowestLane m = l0 at low
  generalize lowestLane (without m l0) = l1 at low
  obtain ⟨pair, bits⟩ := twoLowest_pair low.lt low.top
  cases hs : strideOf (a.lane l1 - a.lane l0).toNat (l1 - l0) with
  | none =>
    refine ⟨BitVec.ofNat 32 (2 ^ l1), fun e => ?_, low.fit_none a hs, fun b st fits => ?_, fun _ => rfl⟩
    · have := oneLane_bit l1 low.top
      rw [e] at this
      simp at this
    · have stride := ((pair.fits_iff a).1 fits).2
      rw [hs] at stride
      cases stride
  | some n =>
    have misfit : misfits m a (affineAt (a.lane l0) l0 n) ≠ 0#32 := fun e =>
      h _ _ ((low.fits_iff a).2 ⟨(misfits_eq_zero a).1 e, hs.trans (congrArg some (strideOf_word hs))⟩)
    have pairFits : FitsLanes (BitVec.ofNat 32 (2 ^ l0 + 2 ^ l1)) a (a.lane l0 - BitVec.ofNat 32 (n * l0)) (BitVec.ofNat 32 n) := by
      obtain ⟨at0, at1⟩ := low.through a hs
      refine (pair.fits_iff a).2 ⟨fun l hl bit => ?_, hs.trans (congrArg some (strideOf_word hs))⟩
      rw [bits l hl, decide_eq_true_eq] at bit
      rcases bit with rfl | rfl
      · exact at0
      · exact at1
    refine ⟨misfits m a (affineAt (a.lane l0) l0 n), misfit, by rw [low.fit_some a hs, if_neg misfit], fun b st fits l hl => ?_,
      fun none => absurd pairFits (none _ _)⟩
    obtain ⟨lanes, stride⟩ := (pair.fits_iff a).1 fits
    have same : Reg.a b st = affineAt (a.lane l0) l0 n := by
      rw [affine_eq_at b st l0, lanes l0 (low.lt.trans low.top) pair.bit0, Option.some_inj.1 (stride.symm.trans hs)]
    rw [same]
    exact maskWhere_bit _ hl

end

end Sys2Proof.Machine
end

section
/-!
The shape instructions: queries, tests, fits, and the widening and compacting of registers (O6; spec 05 R133 to R138).
-/

namespace Sys2Proof.Machine

/-! ## Storing a content -/

/-- A place the warp lacks takes no content. -/
theorem getReg_setReg_absent {x : Warp} {p : Place} (absent : ¬ x.has p) (r : Reg) (q : Place) : (x.setReg p r).getReg q = x.getReg q := by
  cases p with
  | slot k => rw [Warp.has, not_lt] at absent; cases q <;> simp [Warp.getReg, Warp.setReg, List.set_eq_of_length_le absent]
  | bank k => rw [Warp.has, not_lt] at absent; cases q <;> simp [Warp.getReg, Warp.setReg, List.set_eq_of_length_le absent]

/-- The free slots after a store in a slot of the warp (R27). -/
theorem setReg_free_slot {x : Warp} {k : Nat} (has : x.has (.slot k)) (r : Reg) :
    (x.setReg (.slot k) r).free = if (x.getReg (.slot k)).isV = r.isV then x.free
      else if r.isV then x.free - 1 else x.free + 1 := by
  have inside : ¬ x.regs.length ≤ k := Nat.not_le.2 has
  have old : x.regs.getD k (.u 0#32) = x.getReg (.slot k) := rfl
  simp only [Warp.setReg, inside, if_false, old]
  cases (x.getReg (.slot k)).isV <;> cases r.isV <;> rfl

theorem setReg_stored (x : Warp) (p : Place) (r : Reg) : Stored x (x.setReg p r) p r where
  value h := getReg_setReg_same r h
  others q hq := getReg_setReg_other r hq
  free := by
    rintro has k rfl compact
    rw [setReg_free_slot has, compact]
    cases (x.getReg (.slot k)).isV <;> rfl
  rest := setReg_rest x p r

theorem clean_eq (x : Warp) (p : Place) : x.clean p = { x with bad := x.bad.filter fun q => q != p } := by
  have marks := clean_bad x p
  unfold Warp.clean at marks ⊢
  split
  · rfl
  · rename_i absent
    rw [if_neg absent] at marks
    rw [← marks]

theorem fullWrite_replaced (x : Warp) (p : Place) (r : Reg) : Replaced x (x.fullWrite p r) p r :=
  ⟨x.setReg p r, setReg_stored x p r, by rw [Warp.fullWrite, clean_eq, setReg_bad]⟩

/-- A result written in full (R135, R136). -/
theorem fullResult_writesWhole {s : State} {c : Iss} {f : Form} {body : Iss → Res} {nw : Bool} {d : Dst} {r : Reg} (h : Issues s c f)
    (hb : body c = .ok (c.fullResult s nw d r)) : WritesWhole s c nw d r (execute s f body) := by
  unfold Iss.fullResult at hb
  unfold WritesWhole
  cases hd : c.dst d with
  | none =>
    rw [hd] at hb
    exact execute_complete h hb
  | some p =>
    simp only [hd] at hb ⊢
    split
    · rename_i idle
      rw [if_pos idle] at hb
      exact execute_complete h hb
    · rename_i acting
      rw [if_neg acting] at hb
      cases nw with
      | true => exact execute_retireTo h hb
      | false => exact ⟨_, fullWrite_replaced .., execute_retireTo h hb⟩

/-- Nothing is written in full under em zero. -/
theorem fullResult_idle {s : State} {c : Iss} {nw : Bool} {d : Dst} {r : Reg} (idle : c.em = 0#32) :
    c.fullResult s nw d r = c.complete s c.warp := by
  unfold Iss.fullResult
  cases c.dst d with
  | none => rfl
  | some p => exact if_pos idle

/-! ## Widening (R137) -/

theorem expand_lane (r : Reg) {l : Nat} (h : l < 32) : r.expand.lane l = r.lane l := vec_lane _ h

/-- The warp with the registers of the places `ps` in their V form. -/
abbrev widened (x y : Warp) (ps : List Place) : Warp := ps.foldl (fun y p => y.setReg p (x.getReg p).expand) y

theorem widened_has (x : Warp) : ∀ (ps : List Place) (y : Warp) (q : Place), (widened x y ps).has q ↔ y.has q
  | [], _, _ => Iff.rfl
  | _ :: ps, _, q => (widened_has x ps _ q).trans (setReg_has ..)

theorem widened_rest (x : Warp) : ∀ (ps : List Place) (y : Warp),
    { widened x y ps with regs := y.regs, bank := y.bank, free := y.free } = y
  | [], _ => rfl
  | p :: ps, y => by
    have step := congrArg (fun z : Warp => { z with regs := y.regs, bank := y.bank, free := y.free })
      (widened_rest x ps (y.setReg p (x.getReg p).expand))
    exact step.trans (setReg_rest y p _)

/-- A place outside the list, or one the warp lacks, keeps its content. -/
theorem widened_keeps (x : Warp) : ∀ (ps : List Place) (y : Warp) {q : Place},
    (q ∈ ps → ¬ y.has q) → (widened x y ps).getReg q = y.getReg q
  | [], _, _, _ => rfl
  | p :: ps, y, q, h => by
    refine (widened_keeps x ps _ fun m has => h (List.mem_cons_of_mem _ m) ((setReg_has ..).1 has)).trans ?_
    by_cases same : q = p
    · subst same
      exact getReg_setReg_absent (h (List.mem_cons_self ..)) _ _
    · exact getReg_setReg_other _ same

theorem widened_getReg (x : Warp) {ps : List Place} (nodup : ps.Nodup) {y : Warp} {q : Place} (h : q ∈ ps) (has : y.has q) :
    (widened x y ps).getReg q = (x.getReg q).expand := by
  induction ps generalizing y with
  | nil => cases h
  | cons p ps ih =>
    obtain ⟨fresh, nodup⟩ := List.nodup_cons.1 nodup
    rcases List.mem_cons.1 h with rfl | h
    · exact (widened_keeps x ps _ fun m => absurd m fresh).trans (getReg_setReg_same _ has)
    · exact ih nodup h ((setReg_has ..).2 has)

/-- Each compact slot that widens takes a vector slot. -/
theorem widened_free (x : Warp) {ps : List Place} (nodup : ps.Nodup) {y : Warp} (has : ∀ p ∈ ps, y.has p)
    (compact : ∀ p ∈ ps, (y.getReg p).isV = false) (room : (ps.filter Place.counts).length ≤ y.free) :
    (widened x y ps).free + (ps.filter Place.counts).length = y.free := by
  induction ps generalizing y with
  | nil => rfl
  | cons p ps ih =>
    obtain ⟨fresh, nodup⟩ := List.nodup_cons.1 nodup
    obtain ⟨hasp, has⟩ := List.forall_mem_cons.1 has
    obtain ⟨compactp, compact⟩ := List.forall_mem_cons.1 compact
    have next := ih nodup (y := y.setReg p (x.getReg p).expand) (fun q hq => (setReg_has ..).2 (has q hq)) fun q hq => by
      rw [getReg_setReg_other _ (ne_of_mem_of_not_mem hq fresh)]
      exact compact q hq
    cases p with
    | bank k => exact next room
    | slot k =>
      have counted : ((Place.slot k :: ps).filter Place.counts).length = (ps.filter Place.counts).length + 1 := rfl
      have taken := setReg_free_slot hasp (x.getReg (.slot k)).expand
      rw [compactp] at taken
      change _ = y.free - 1 at taken
      rw [counted] at room ⊢
      rw [taken] at next
      have := next (by omega)
      show (widened x (y.setReg (.slot k) _) ps).free + _ = _
      omega

/-- The slots that a field of an issuing instruction names indirectly lie in the allotment (R20). -/
theorem Issues.islot_nonneg {s : State} {c : Iss} {f : Form} {n cnt al ial : Nat} (h : Issues s c f) (hd : f.d = .win n cnt al ial)
    (ind : c.ind .d = true) : 0 ≤ c.islot n := by
  have passes : c.preTrap s f = none := h.2
  have inside : indirectBad c .d f.d = none := by
    unfold Iss.preTrap at passes
    cases form : checkForm c f with
    | some t => rw [form] at passes; split at passes <;> cases passes
    | none =>
      unfold checkForm at form
      cases bad : indirectBad c .d f.d with
      | none => rfl
      | some k =>
        simp only [bad, Option.orElse_some] at form
        split_ifs at form
  rw [hd] at inside
  simp only [indirectBad, ind, if_true] at inside
  by_contra negative
  rw [decide_eq_false negative] at inside
  cases inside

/-- The places of a group of an issuing instruction differ. -/
theorem places_nodup {s : State} {c : Iss} {f : Form} {n cnt al ial : Nat} (h : Issues s c f) (hd : f.d = .win n cnt al ial) :
    (c.places .d n cnt).Nodup := by
  refine List.Nodup.map_on (fun i _ j _ same => ?_) List.nodup_range
  unfold Iss.place at same
  split at same
  · have := h.islot_nonneg hd ‹_›
    have := Place.slot.inj same
    omega
  · split at same <;> split at same
    · have := Place.bank.inj same
      simp at *
      omega
    · cases same
    · cases same
    · have := Place.slot.inj same
      omega

/-! ## Compacting (R138) -/

theorem lanesOf_all {m : Mask} {p : Nat → Bool} : (lanesOf m).all p = true ↔ ∀ l, l < 32 → m.getLsbD l = true → p l = true := by
  simp only [lanesOf, List.all_eq_true, List.mem_filter, List.mem_range, and_imp]

/-- A compact register, and one of a warp without live lanes, stays as it is. -/
theorem compactForm_same {live : Mask} {r : Reg} (h : r.isV = false ∨ live = 0#32) : compactForm live r = r := by
  unfold compactForm
  rcases h with h | h <;> simp [h]

theorem compactForm_u {live : Mask} {r : Reg} {v : Word} (hr : r.isV = true) (hl : live ≠ 0#32)
    (all : ∀ l, l < 32 → live.getLsbD l = true → r.lane l = v) : compactForm live r = .u v := by
  obtain ⟨top, bit, -⟩ := lowestLane_spec hl
  have lowest := all _ top bit
  have equal : (lanesOf live).all (fun l => r.lane l == v) = true := lanesOf_all.2 fun l hl hb => by rw [all l hl hb, beq_self_eq_true]
  simp only [compactForm, hr, hl, lowest, equal]
  rfl

section
variable {live : Mask} {r : Reg} (hr : r.isV = true) (hl : live ≠ 0#32)
  (differ : ¬ ∃ v, ∀ l, l < 32 → live.getLsbD l = true → r.lane l = v)
include differ

theorem lanes_unequal : ((lanesOf live).all fun l => r.lane l == r.lane (lowestLane live)) = false :=
  Bool.eq_false_iff.2 fun all => differ ⟨_, fun l hl hb => by simpa using lanesOf_all.1 all l hl hb⟩

include hr hl

theorem compactForm_a {b st : Word} (fits : FitsLanes live r b st) : compactForm live r = .a b st := by
  simp only [compactForm, hr, hl, lanes_unequal differ, fit_of_fits r hl fits]
  rfl

theorem compactForm_none (none : ∀ b st, ¬ FitsLanes live r b st) : compactForm live r = r := by
  obtain ⟨bad, -, spoiled, -⟩ := fit_of_misfits r hl none
  simp only [compactForm, hr, hl, lanes_unequal differ, spoiled]
  rfl

end

/-! ## Tests and fits (R134 to R136) -/

theorem assertShape_eq {s : State} {c : Iss} {a : Src} {ok : Reg → Bool} (h : Issues s c { a := srcOp a, em0 := .always }) :
    assertShape s a ok = if ok (c.read .a a) then finishes s c c.warp
      else traps s c { cause := 0x06, val := .word (c.read .a a).shape } := by
  unfold assertShape
  split
  · exact execute_complete h (if_pos ‹_›)
  · exact execute_error h (if_neg ‹_›)

theorem isU_eq_shape (r : Reg) : r.isU = decide (r.shape = 0) := by cases r <;> rfl
theorem isA_eq_shape (r : Reg) : (!r.isU && !r.isV) = decide (r.shape = 1) := by cases r <;> rfl
theorem isCompact_eq_shape (r : Reg) : (!r.isV) = decide (r.shape < 2) := by cases r <;> rfl

section
variable {s : State} {c : Iss} {nw : Bool} {d : Dst} {a : Src} (h : Issues s c { d := dstOp d, a := srcOp a, valued := true })
include h

theorem shfA_idle (idle : c.em = 0#32) : execShfA nw d a s = finishes s c c.warp := execute_complete h (if_pos idle)

theorem shfA_fits (some : c.em ≠ 0#32) {b st : Word} (fits : FitsLanes c.em (c.read .a a) b st) :
    WritesWhole s c nw d (.a b st) (execShfA nw d a s) := by
  refine fullResult_writesWhole h ?_
  simp only [some, if_false, fit_of_fits _ some fits]

theorem shfA_misfits (some : c.em ≠ 0#32) {bad : Mask} (spoiled : fit c.em (c.read .a a) = .error bad) :
    execShfA nw d a s = traps s c { cause := 0x06, val := .word (0x100 + lowestLane bad), lanes := .some bad } := by
  refine execute_error h ?_
  simp only [some, if_false, spoiled]

end

/-- SHF.U (R135). -/
theorem shfU_first {s : State} {c : Iss} {nw : Bool} {d : Dst} {a : Src} (h : Issues s c { d := dstOp d, a := srcOp a }) :
    (c.em = 0#32 → execShfU nw d a s = finishes s c c.warp) ∧
      (c.em ≠ 0#32 → WritesWhole s c nw d (.u ((c.read .a a).lane (lowestLane c.em))) (execShfU nw d a s)) := by
  refine ⟨fun idle => execute_complete h (congrArg Except.ok (fullResult_idle idle)), fun some => ?_⟩
  have first : c.first = lowestLane c.em := if_neg some
  rw [← first]
  exact fullResult_writesWhole h rfl

section
variable {s : State} {c : Iss} {nw : Bool} {d : Dst} {p : Place} (h : Issues s c { d := dstOp d, dread := true, em0 := .always })
  (hp : c.dst d = some p)
include h

theorem shn_discarded (none : c.dst d = none) : execShn nw d s = finishes s c c.warp := execute_complete h (by simp only [none])

include hp

theorem shn_keeps (same : nw = true ∨ compactForm c.live (c.warp.getReg p) = c.warp.getReg p) :
    execShn nw d s = finishes s c c.warp := by
  refine execute_complete h ?_
  simp only [hp]
  exact if_pos (by simpa using same)

theorem shn_stores {r : Reg} (form : compactForm c.live (c.warp.getReg p) = r) (vector : (c.warp.getReg p).isV = true)
    (compact : r.isV = false) :
    ∃ x, Stored c.warp x p r ∧ execShn false d s = completes s c x (c.split.pc + 4) Latch.empty [p] := by
  refine ⟨c.warp.setReg p r, setReg_stored c.warp p r, execute_retireTo h ?_⟩
  have differs : r ≠ c.warp.getReg p := fun e => by rw [e, vector] at compact; cases compact
  simp only [hp, form]
  exact if_neg (by simpa using differs)

end

/-- Settles O6: the queries, tests and fits, then SHW over its group and SHN. -/
theorem shapeResults : Obligations.ShapeResults := by
  unfold Obligations.ShapeResults
  refine ⟨fun nw d a => ⟨fun s c h => result_yields h (fun _ => rfl) rfl, fun s c h => ?tests, fun s c h => ?lowest, fun s c h => ?fits⟩,
    fun s c d nw n k => ⟨fun h => ?widens, fun h => ⟨fun none => ?discarded, fun p hp => ?compacts⟩⟩⟩
  case tests =>
    intro test
    dsimp only [test]
    rw [← isU_eq_shape, ← isA_eq_shape, ← isCompact_eq_shape]
    exact ⟨assertShape_eq (ok := Reg.isU) h, assertShape_eq (ok := fun r => !r.isU && !r.isV) h,
      assertShape_eq (ok := fun r => !r.isV) h⟩
  case lowest => exact shfU_first h
  case fits =>
    refine ⟨shfA_idle h, fun some b st fits => shfA_fits h some fits, fun some none => ?_⟩
    obtain ⟨bad, nonempty, spoiled, named⟩ := fit_of_misfits _ some none
    exact ⟨bad, nonempty, shfA_misfits h some spoiled, named⟩
  case widens =>
    intro ps need
    have nodup : ps.Nodup := (places_nodup h rfl).filter _
    have compact : ∀ p ∈ ps, (c.warp.getReg p).isV = false := fun p hp => by simpa using (List.mem_filter.1 hp).2
    refine ⟨fun short => execute_error h (if_pos short), fun room => ⟨widened c.warp c.warp ps, fun p hp has => ?_, fun p l hl => ?_,
      fun p hp => ?_, fun has => widened_free c.warp nodup has compact room, widened_rest .., execute_retireTo h (if_neg (Nat.not_lt.2 room))⟩⟩
    · by_cases mem : p ∈ ps
      · rw [widened_getReg c.warp nodup mem has]
        rfl
      · rw [widened_keeps _ _ _ fun m => absurd m mem]
        simpa [ps, hp] using mem
    · by_cases mem : p ∈ ps ∧ c.warp.has p
      · rw [widened_getReg c.warp nodup mem.1 mem.2, expand_lane _ hl]
      · rw [widened_keeps _ _ _ fun m has => mem ⟨m, has⟩]
    · exact widened_keeps _ _ _ fun m => absurd (List.mem_of_mem_filter m) hp
  case discarded => exact shn_discarded h none
  case compacts =>
    refine ⟨fun kept => shn_keeps h hp (kept.imp_right compactForm_same), ?_⟩
    rintro rfl vector some
    refine ⟨fun v all => shn_stores h hp (compactForm_u vector some all) vector rfl, fun differ =>
      ⟨fun b st fits => shn_stores h hp (compactForm_a vector some differ fits) vector rfl, fun none =>
        shn_keeps h hp (.inr (compactForm_none vector some differ none))⟩⟩

end Sys2Proof.Machine
end

section
/-!
The window base and the index registers, the vector quota and the claims (O7; spec 01 R17, 05 R139 to R145).
-/

namespace Sys2Proof.Machine

/-! ## Operands that must be U -/

theorem needU_u (v : Word) : needU (.u v) = .ok v.toNat := rfl

theorem needU_other {r : Reg} (h : r.isU = false) : needU r = .error { cause := 0x06, val := .word r.shape } := by
  cases r with
  | u v => cases h
  | a b st => rfl
  | v ls => rfl

/-- An instruction whose operand must be U raises trap 0x06 where it is not. -/
theorem execute_notU {s : State} {c : Iss} {f : Form} {r : Iss → Reg} {body : Iss → Nat → Res} (h : Issues s c f)
    (other : (r c).isU = false) :
    execute s f (fun c => needU (r c) >>= body c) = traps s c { cause := 0x06, val := .word (r c).shape } :=
  execute_error h (by rw [needU_other other]; rfl)

theorem count_u {c : Iss} {a : Src} {v : Word} (h : c.read .a a = .u v) (imm : Nat) : c.count a imm = .ok (v.toNat + imm) := by
  rw [Iss.count, h]
  rfl

theorem count_other {c : Iss} {a : Src} (h : (c.read .a a).isU = false) (imm : Nat) :
    c.count a imm = .error { cause := 0x06, val := .word (c.read .a a).shape } := by
  rw [Iss.count, needU_other h]
  rfl

/-! ## The window (R17, R139) -/

/-- The window moves to a base that the rule allows, or the trap names it. -/
theorem execute_moveWindow {s : State} {c : Iss} {f : Form} {body : Iss → Res} {base : Int} (h : Issues s c f)
    (hb : body c = c.moveWindow s base) :
    execute s f body = if 0 ≤ base ∧ 8 ∣ base ∧ base + 112 ≤ c.warp.allot then finishes s c { c.warp with winBase := base.toNat }
      else traps s c { cause := 0x04, val := .word (base % 2 ^ 32).toNat } := by
  have allowed : 0 ≤ base ∧ 8 ∣ base ∧ base + 112 ≤ c.warp.allot ↔ 0 ≤ base ∧ base % 8 = 0 ∧ base + 112 ≤ c.warp.allot := by
    rw [Int.dvd_iff_emod_eq_zero]
  split
  · rename_i inside
    exact execute_complete h (hb.trans (if_pos (allowed.1 inside)))
  · rename_i outside
    exact execute_error h (hb.trans (if_neg (mt allowed.2 outside)))

section
variable {s : State} {c : Iss} {a : Src}

theorem wbase_u (h : Issues s c { a := srcOp a, em0 := .always, valued := true }) {v : Word} (hv : c.read .a a = .u v) :
    execWbase a s = if 0 ≤ v.toInt ∧ 8 ∣ v.toInt ∧ v.toInt + 112 ≤ c.warp.allot
      then finishes s c { c.warp with winBase := v.toInt.toNat }
      else traps s c { cause := 0x04, val := .word (v.toInt % 2 ^ 32).toNat } := by
  have signed : sextN v.toNat 32 = v.toInt := by rw [sextN, Nat.mod_eq_of_lt v.isLt]; rfl
  exact execute_moveWindow h (by rw [hv, ← signed]; rfl)

theorem ixset_u (h : Issues s c { a := srcOp a, em0 := .always }) {v : Word} (hv : c.read .a a = .u v) (k : Nat) :
    execIxset a k s = finishes s c { c.warp with xs := c.warp.xs.set k v } := by
  refine execute_complete h ?_
  rw [hv, needU_u]
  show Except.ok (c.complete s { c.warp with xs := c.warp.xs.set k (BitVec.ofNat 32 v.toNat) }) = _
  rw [BitVec.ofNat_toNat, BitVec.setWidth_eq]

end

/-! ## The quota (R142 to R145) -/

section
variable {s : State} {c : Iss} {a : Src} {imm : Nat} (h : Issues s c { a := srcOp a, em0 := .always, valued := true })
include h

theorem rgive_other (hr : (c.read .a a).isU = false) :
    execRgive a imm s = traps s c { cause := 0x06, val := .word (c.read .a a).shape } :=
  execute_error h (by rw [count_other hr]; rfl)

theorem rclaim_other (hr : (c.read .a a).isU = false) :
    execRclaim a imm s = traps s c { cause := 0x06, val := .word (c.read .a a).shape } :=
  execute_error h (by rw [count_other hr]; rfl)

variable {n : Nat} (count : c.count a imm = .ok n)
include count

theorem rgive_gives (free : n ≤ c.warp.free) (floor : c.warp.floor + n ≤ c.warp.q) :
    execRgive a imm s = finishesIn s (s.mapCore c.warp.core fun k => { k with pool := k.pool + n }) c
      { c.warp with q := c.warp.q - n, free := c.warp.free - n } := by
  refine execute_completeIn h rfl rfl ?_
  rw [count]
  exact if_neg (by omega)

theorem rgive_traps (short : c.warp.free < n ∨ c.warp.q < c.warp.floor + n) :
    execRgive a imm s = traps s c { cause := 0x18, val := .word (min c.warp.free (c.warp.q - c.warp.floor)) } := by
  refine execute_error h ?_
  rw [count]
  exact if_pos short

theorem rclaim_zero (zero : n = 0) : execRclaim a imm s = finishes s c c.warp := by
  refine execute_complete h ?_
  rw [count]
  exact if_pos zero

variable (some : n ≠ 0)
include some

theorem rclaim_traps (beyond : 2048 < c.warp.q + n + otherFloors s c.w c.warp.core) :
    execRclaim a imm s = traps s c { cause := 0x19, val := .word (2048 - otherFloors s c.w c.warp.core - c.warp.q) } := by
  have limit : claimLimit s c.w c.warp n = .some (2048 - otherFloors s c.w c.warp.core - c.warp.q) := if_pos beyond
  refine execute_error h ?_
  rw [count]
  refine (if_neg some).trans ?_
  rw [limit]
  rfl

theorem rclaim_parks (within : c.warp.q + n + otherFloors s c.w c.warp.core ≤ 2048) :
    execRclaim a imm s = parksIn s (s.mapCore c.warp.core fun k => { k with claims := k.claims + 1 }) c
      (.claim n (s.core c.warp.core).claims) := by
  have limit : claimLimit s c.w c.warp n = none := if_neg (Nat.not_lt.2 within)
  refine execute_park h rfl ?_
  rw [count]
  refine (if_neg some).trans ?_
  rw [limit]
  rfl

end

/-- Settles O7: the window and index registers, then the quota. -/
theorem windowAndQuota : Obligations.WindowAndQuota := by
  unfold Obligations.WindowAndQuota
  refine ⟨fun s c nw d a k delta => ?window, fun s c nw d a imm => ⟨fun h => ⟨fun other => ⟨rgive_other h other, rclaim_other h other⟩,
    fun v n hv hn => ?quota⟩, fun _ _ h => result_yields h (fun _ => rfl) rfl, fun _ _ h => result_yields h (fun _ => rfl) rfl⟩⟩
  case window =>
    refine ⟨fun h => ⟨fun v hv => wbase_u h hv, execute_notU (r := (·.read .a a)) h⟩,
      fun h => ⟨fun v hv => ixset_u h hv k, execute_notU (r := (·.read .a a)) h⟩,
      fun h _ => execute_moveWindow (body := fun c => c.moveWindow s (c.warp.winBase + 8 * sextN delta 7)) h rfl,
      fun _ _ h => result_yields h (fun _ => rfl) rfl, fun _ _ h => result_yields h (fun _ => rfl) rfl⟩
  case quota =>
    have count : c.count a imm = .ok n := by rw [count_u hv, hn]
    exact ⟨rgive_gives h count, rgive_traps h count, rclaim_zero h count, rclaim_traps h count, rclaim_parks h count⟩

end Sys2Proof.Machine
end

section
/-!
A statement on events of a core that fails as it stands: the end of an array operation wakes what waits for it, and the write of a
suspended split's entry can have to wait (spec 01 R39, R41, 07 R215, 08 R246).
-/

namespace Sys2Proof.Machine

/-- An event whose write must wait has no effect, so that none leaves a write waiting (R246, R247). -/
theorem event_blocked {s u t : State} {on : Bool} (h : event s on u = .next t) : t.mem.blocked = s.mem.blocked := by
  obtain rfl := Host.Outcome.next.inj h
  split
  · rename_i goes
    rw [Bool.and_eq_true, beq_iff_eq] at goes
    exact goes.2
  · rfl

/-- An operation on tiles that hold nothing. -/
def waitingOp : MatOp := { kind := 0, acc := 0, clr := true, ta := 0, tb := 1, later := false }

/-- A warp whose one split waits for the array in the Welt, which lies on a mapped page. -/
def suspendedWarp : Warp :=
  { Warp.blank with
    st := .running, live := 1#32, weltOrder := [0], weltBase := 0x400000
    welt := [.split { Split.none0 with entry := 1#32, em := 1#32, park := .array }] }

/-- A device in the hold of a cut, with that warp on a cluster that has no bank in L1 mode, and an operation of its team to perform. -/
def heldArrayState : State :=
  { State.reset with
    ctxs := [crowdedCtx]
    launches := [Launch.none0]
    teams := [{ Team.none0 with res := .running, ops := [waitingOp] }]
    warps := [suspendedWarp]
    clusters := [{ Cluster.reset with banks := List.replicate 32 ⟨1, some 0⟩ }]
    mp := { State.reset.mp with tlb := [{ ctl := 0, asid := 1, page := 0x40, leaf := sharedLeaf }] }
    snap := { State.reset.snap with cut := 2 } }

/-- The entry of the split that wakes is written through, and that write waits at the hold. -/
theorem heldArray_blocks :
    (wakeArray (heldArrayState.mapTeam 0 fun t => t.perform waitingOp) 0).mem.blocked = 1 := by decide +kernel

/-- Refutes O45: in `heldArrayState` the write of the woken split's entry waits at the hold of the cut, so the event has no effect, where
the statement has the operation performed. -/
theorem not_coreEvents : ¬ Obligations.CoreEvents := by
  unfold Obligations.CoreEvents
  intro h
  obtain ⟨-, -, -, -, -, -, -, -, performs, -⟩ := h heldArrayState 0 0 0 0 0 0 0 0 0 0
  have performed := performs waitingOp [] rfl (.inl rfl) (by decide) nofun rfl (by decide +kernel)
  have blocked := event_blocked performed
  rw [heldArray_blocks] at blocked
  exact absurd blocked (by decide)

end Sys2Proof.Machine
end

section
/-!
The scheduler's events: each has its effect when its condition holds (O47; spec 11 R292 to R300, 19 R359, R360, 20 R378 to R384).
-/

namespace Sys2Proof.Machine

/-! ## Events under a condition -/

/-- An event happens under the condition that its check decides. -/
theorem event_happens {s t : State} {on : Bool} {p : Prop} {o : Host.Outcome State Fault Refusal} (runs : o = event s on t)
    (h : on = true ↔ p) : Happens s p t o := by
  subst runs
  exact ⟨fun hp hb => event_on (h.2 hp) hb, fun hp => event_off (Bool.eq_false_iff.2 (mt h.1 hp))⟩

/-! ## Page walks (R359, R360) -/

section
variable (s : State) (c va : Nat)

/-- The controller of an address, and the sequence of its shoot-downs for a context. -/
abbrev walkCtl : Nat := ctlOf ((s.ctx c).placement va) va
abbrev walkSeq : Nat := shootSeqOf s (walkCtl s c va) (s.ctx c).asid

/-- The walk of that address is under way. -/
abbrev isWalk (k : WalkState) : Bool := k.ctl == walkCtl s c va && k.ctx == c && k.va == va

/-- The state in which it has ended, and that in which it has begun. -/
abbrev walkRested : State := { s with mp := { s.mp with walks := s.mp.walks.filter fun k => !isWalk s c va k } }
abbrev walkBegun : State :=
  { s with mp := { s.mp with
    walks := { ctl := walkCtl s c va, ctx := c, va := va, seq := walkSeq s c va } :: s.mp.walks.filter fun k => !isWalk s c va k } }

/-- An address of a bound context whose home is here, and that no entry of the controller's TLB translates. -/
abbrev walkOn : Prop :=
  (s.ctx c).st ≠ 0 ∧ va < 2 ^ 56 ∧ (∀ p, homeOf ((s.ctx c).placement va) va ≠ .peer p) ∧
    homeOf ((s.ctx c).placement va) va ≠ .reserved ∧
    ∀ t ∈ s.mp.tlb, t.ctl ≠ walkCtl s c va ∨ t.asid ≠ (s.ctx c).asid ∨ t.page ≠ va / 65536

/-- The walk has read the tables under the sequence that still holds. -/
abbrev WalkFinds (r : Walk) : Prop :=
  ∃ k, s.mp.walks.find? (isWalk s c va) = some k ∧ k.seq = walkSeq s c va ∧
    walkTables s (s.ctx c).root ((s.ctx c).placement va) va = r

/-- What PAGE_WALK comes to. -/
theorem pageWalk_event : ∃ (on : Bool) (t : State), (on = true ↔ walkOn s c va) ∧ execPageWalk c va s = event s on t ∧
    ((∀ k, s.mp.walks.find? (isWalk s c va) = some k → k.seq ≠ walkSeq s c va) → t = walkBegun s c va) ∧
    (∀ f, WalkFinds s c va (.leaf f) → t = { walkRested s c va with mp := { (walkRested s c va).mp with
      tlb := { ctl := walkCtl s c va, asid := (s.ctx c).asid, page := va / 65536, leaf := f } :: s.mp.tlb } }) ∧
    (∀ pa n e, WalkFinds s c va (.malformed pa n e) → t = postGroup (walkRested s c va) c (malformedRec s c pa n e)) ∧
    (WalkFinds s c va .absent → t = walkRested s c va) := by
  refine ⟨_, _, ?checks, rfl, fun stale => ?begins, fun f => ?fills, fun pa n e => ?reports, ?ends⟩
  case checks =>
    cases home : homeOf ((s.ctx c).placement va) va <;> simp [home, and_assoc, imp_iff_not_or]
  case begins =>
    cases found : s.mp.walks.find? (isWalk s c va) with
    | none => rfl
    | some k => exact if_pos (stale k found)
  all_goals
    rintro ⟨k, found, current, read⟩
    rw [found]
    exact (if_neg (not_not.2 current)).trans (by rw [read])

end

/-! ## Dispatch, binding and the end of a launch (R292, R295, R299, R300) -/

section
variable {s : State}

theorem launchDispatch_none {c q : Nat} (none : queuedLaunch s c q ((s.ctx c).queue q).head = none) :
    execLaunchDispatch c q s = .next s := by
  unfold execLaunchDispatch
  simp only [none]
  exact event_off rfl

theorem launchDispatch_some {c q i : Nat} (some : queuedLaunch s c q ((s.ctx c).queue q).head = some i) :
    Happens s ((s.ctx c).st = 1 ∧ (s.ctx c).suspendBy = none ∧ ((s.ctx c).queue q).en = true ∧ ((s.ctx c).queue q).err = false ∧
        ((s.ctx c).queue q).head ≠ ((s.ctx c).queue q).tail ∧ (s.launch i).waits s = [])
      (dispatchLaunch s c q i ((s.launch i).queued s)) (execLaunchDispatch c q s) := by
  unfold execLaunchDispatch
  simp only [some]
  exact event_happens rfl (by simp [and_assoc])

theorem teamBind_none {li ci area : Nat} (none : bindSet s ci = none) : execTeamBind li ci area s = .next s := by
  unfold execTeamBind
  simp only [none]
  exact event_off rfl

/-- The launch whose crew the event names is dispatched, in a context that schedules. -/
abbrev bindOn (s : State) (li ci : Nat) : Prop :=
  (s.crew ci).launch = li ∧ (s.launch li).st = .dispatched ∧ (s.ctx (s.launch li).ctx).st = 1 ∧
    (s.ctx (s.launch li).ctx).suspendBy = none

theorem schedules_iff {c : Nat} : schedules s c = true ↔ (s.ctx c).st = 1 ∧ (s.ctx c).suspendBy = none := by
  simp [schedules]

section
variable {li ci area : Nat} {ts : List Nat} (unit : bindSet s ci = some ts)
include unit

theorem teamBind_loaded (loaded : unitLoaded s ts = true) : Happens s (bindOn s li ci)
    ((lateClaims (boundQueue (bindTeams s li ci ts) (s.launch li).ctx (s.launch li).queue) (coresOf s ts)).run (ts.map Task.teamEnd))
    (execTeamBind li ci area s) := by
  unfold execTeamBind
  simp only [unit, loaded, if_true]
  exact event_happens rfl (by simp [schedules_iff, and_assoc])

theorem teamBind_unloaded (unloaded : unitLoaded s ts = false) : Happens s
    (bindOn s li ci ∧ areaOk s (s.launch li) area (areaLess s ts).length = true ∧ outranked s ts = false ∧ yields s ts = false ∧
      mustWait s ci ts = false)
    (if entriesFree s ts then loadTeams s ts area else collectFor s ts) (execTeamBind li ci area s) := by
  unfold execTeamBind
  simp only [unit, unloaded]
  exact event_happens rfl (by simp [schedules_iff, and_assoc])

end

theorem launchEnd_happens (li : Nat) : Happens s
    ((s.launch li).st = .dispatched ∧ ∀ t, t < s.teams.length → (s.team t).launch = li → (s.team t).res = .ended)
    (closeLaunch (collectEntries s li) li (if (s.launch li).halted then 1 else 0)) (execLaunchEnd li s) :=
  event_happens rfl (by simp [launchTeams, imp_iff_not_or])

theorem closeLaunch_dispatched {li : Nat} (on : (s.launch li).st = .dispatched) (code : Nat) :
    closeLaunch s li code = endLaunch ((launchClusters s li).foldl (fun u k =>
      releaseDevice u k (s.launch li).ctx (if (s.launch li).done = 0 then 2 else 3)) s) li code := by
  unfold closeLaunch
  rw [on]
  rfl

end

/-! ## Quanta, ages, deadlines and saves (R378 to R384) -/

section
variable (s : State) (team : Nat)

/-- The context of a team. -/
abbrev teamCtx : Context := s.ctx (s.launch (s.team team).launch).ctx

/-- The state in which the quantum of a team is used. -/
abbrev quantumUsed : State := s.mapTeam team fun x => { x with quantumUsed := true }

/-- The quantum of a running team is over. -/
abbrev quantumOver : Prop :=
  (s.team team).res = .running ∧ (s.team team).quantumUsed = false ∧ (s.team team).since + (teamCtx s team).quant * 1000 ≤ s.clk.ns

theorem quantumExpire_plain (none : (teamCtx s team).suspendBy = none) :
    Happens s (quantumOver s team) (quantumUsed s team) (execQuantumExpire team s) := by
  unfold execQuantumExpire
  simp only [none]
  exact event_happens rfl (by simp [and_assoc])

theorem quantumExpire_suspends {d n : Nat} (by_ : (teamCtx s team).suspendBy = some (d, n)) : Happens s (quantumOver s team)
    (dealWith (quantumUsed s team) team d (estimate (quantumUsed s team) team d false)) (execQuantumExpire team s) := by
  unfold execQuantumExpire
  simp only [by_]
  exact event_happens rfl (by simp [and_assoc])

theorem ageTimerExpire_happens (c q : Nat) : Happens s
    ((s.ctx c).st = 1 ∧ (s.ctx c).suspendBy = none ∧ ((s.ctx c).queue q).en = true ∧ ((s.ctx c).queue q).nonEmptyAt ≠ none ∧
      ((s.ctx c).queue q).eff < 7 ∧ ((s.ctx c).queue q).timer + (s.ctx c).age.getD ((s.ctx c).queue q).eff 0 * 1000 ≤ s.clk.ns)
    (s.mapLQueue c q fun k => { k with eff := k.eff + 1, timer := s.clk.ns }) (execAgeTimerExpire c q s) :=
  event_happens rfl (by simp [schedules_iff, and_assoc, Option.isSome_iff_ne_none])

/-- A team that waits under a dispatched launch of a context that schedules. -/
abbrev preemptOn : Prop :=
  ((s.team team).res = .waiting ∨ (s.team team).res = .saved) ∧ (s.launch (s.team team).launch).st = .dispatched ∧
    (teamCtx s team).st = 1 ∧ (teamCtx s team).suspendBy = none

variable {s team} in
theorem preemptRequest_happens {vs : List Nat} {v : Nat} (way : victims s team = some vs)
    (first : (vs.find? fun v => (s.team v).undecided s.clk.ns
      ((teamCtx s team).queue (s.launch (s.team team).launch).queue).deadline) = some v) :
    Happens s (preemptOn s team)
      (dealWith s v ((teamCtx s team).queue (s.launch (s.team team).launch).queue).deadline
        (estimate s v ((teamCtx s team).queue (s.launch (s.team team).launch).queue).deadline false))
      (execPreemptRequest team s) := by
  unfold execPreemptRequest
  simp only [way, Option.getD_some, first]
  exact event_happens rfl (by simp [Team.pending, schedules_iff, and_assoc])

/-- The warps of a team are over, so that it has ended while it was being saved. -/
abbrev teamOver : Prop :=
  ∀ w ∈ teamWarps s team, warpOver (bitsN (teamCtx s team).flags 1 1 == 1) (s.warps.getD w Warp.blank) = true

abbrev saveDone : Prop := (s.team team).res = .saving ∧ savable s team = true

variable {s team} in
theorem saveComplete_lapses (ended : teamOver s team) : Happens s (saveDone s team) (lapseSave s team) (execSaveComplete team s) := by
  have quiet := List.all_eq_true.2 ended
  unfold execSaveComplete
  simp only [quiet, if_true]
  exact event_happens rfl (by simp)

variable {s team} in
theorem saveComplete_vacates (goesOn : ¬ teamOver s team) :
    let stopped := (allWarps s team).foldl (fun s w => s.mapWarp w fun y => (watched s y).saved s.clk.ns) s
    Happens s (saveDone s team)
      (settleQueue (vacate ((writeImage stopped team).mapTeam team fun t => { t with runNs := t.resident s.clk.ns }) team)
        (s.launch (s.team team).launch).ctx (s.launch (s.team team).launch).queue) (execSaveComplete team s) := by
  have quiet := Bool.eq_false_iff.2 (mt List.all_eq_true.1 goesOn)
  unfold execSaveComplete
  simp only [quiet]
  exact event_happens rfl (by simp)

variable {s team} in
theorem drainDeadline_none (none : (s.team team).drainBy = none) : execDrainDeadlineExpire team s = .next s := by
  unfold execDrainDeadlineExpire
  simp only [none]
  exact event_off rfl

variable {s team} in
theorem drainDeadline_some {t : Nat} (by_ : (s.team team).drainBy = some t) :
    Happens s ((s.team team).res = .running ∧ t ≤ s.clk.ns) (dealWith s team 0 (estimate s team 0 true))
      (execDrainDeadlineExpire team s) := by
  unfold execDrainDeadlineExpire
  simp only [by_]
  exact event_happens rfl (by simp)

theorem suspendComplete_none {c : Nat} (none : (s.ctx c).suspendBy = none) : execSuspendComplete c s = .next s := by
  unfold execSuspendComplete
  simp only [none]
  exact event_off rfl

theorem suspendComplete_some {c d slot : Nat} (by_ : (s.ctx c).suspendBy = some (d, slot)) : Happens s
    (∀ t, t < s.teams.length → (s.launch (s.team t).launch).ctx = c → (s.team t).res ≠ .running ∧ (s.team t).res ≠ .saving)
    (finishAdm (ccbPut (s.mapCtx c fun x => { x with st := 2, suspendBy := none }) (s.ctx c).ccb 33 2) slot 0)
    (execSuspendComplete c s) := by
  unfold execSuspendComplete
  simp only [by_]
  refine event_happens rfl ?_
  simp only [ctxTeams, Team.here, Bool.not_eq_true', List.any_eq_false, List.mem_filter, List.mem_range, Bool.and_eq_true, beq_iff_eq,
    bne_iff_ne, and_imp, Bool.or_eq_true, not_or]
  refine forall₃_congr fun t _ _ => ?_
  cases (s.team t).res <;> simp

/-! ## What is decided (R382, R384) -/

variable {s team} in
theorem mapTeam_team_same (h : team < s.teams.length) (f : Team → Team) : (s.mapTeam team f).team team = f (s.team team) := by
  simp [State.team, List.getD_eq_getElem?_getD, List.getElem?_eq_getElem h]

theorem foldl_mapWarp_teams (f : State → Nat → Warp → Warp) (ws : List Nat) :
    (ws.foldl (fun u w => u.mapWarp w (f u w)) s).teams = s.teams := by
  induction ws generalizing s with
  | nil => rfl
  | cons w ws ih => exact ih _

variable {s team} in
theorem beginSave_team (h : team < s.teams.length) : (beginSave s team).team team = { s.team team with
    res := .saving, drainBy := none, image := imageRoom s team (saveBytes s team), room := saveBytes s team
    withCrew := leavesLast s team true } := by
  let mark : Split → Split := fun u => if u.holdsSave then u else u.replay
  have teams := foldl_mapWarp_teams s (fun u _ x => (watched u x).mapSplits mark) (allWarps s team)
  have saved := mapTeam_team_same (s := (allWarps s team).foldl (fun u w => u.mapWarp w fun x => (watched u x).mapSplits mark) s)
    (by rw [teams]; exact h)
    fun x => { x with res := .saving, drainBy := none, image := imageRoom s team (saveBytes s team), room := saveBytes s team
                      withCrew := leavesLast s team true }
  rw [State.team, State.team, teams] at saved
  exact saved

theorem endsInTime_iff {d : Nat} : endsInTime s team d = true ↔ fractionDone s team ≠ none ∧
    ∀ p h, fractionDone s team = some (p, h) → h ≤ p ∨ 0 < p ∧ (s.team team).resident s.clk.ns * (h - p) ≤ d * 1000 * p := by
  unfold endsInTime
  cases fractionDone s team with
  | none => simp
  | some e =>
    obtain ⟨p, h⟩ := e
    simp

variable {s team}

/-- The table of R384, row by row. -/
theorem estimate_wait {d : Nat} {again : Bool} (fresh : (s.team team).quantumUsed = false) : estimate s team d again = .wait := by
  simp [estimate, fresh]

theorem estimate_drain {d : Nat} (used : (s.team team).quantumUsed = true) (inTime : endsInTime s team d = true) :
    estimate s team d false = .drain := by
  simp [estimate, used, inTime]

section
variable {d : Nat} {again : Bool} (used : (s.team team).quantumUsed = true) (late : again = true ∨ endsInTime s team d = false)
include late

theorem notInTime : (!again && endsInTime s team d) = false := by
  rcases late with rfl | late
  · rfl
  · rw [late, Bool.and_false]

include used

theorem estimate_discard (restart : (s.launch (s.team team).launch).restart = true) (none : (s.team team).ext = false) :
    estimate s team d again = .discard := by
  simp [estimate, used, notInTime late, restart, none]

theorem estimate_save (kept : (s.launch (s.team team).launch).restart = false ∨ (s.team team).ext = true) :
    estimate s team d again = if imageFits s team then .save else .drain := by
  have goesOn : ((s.launch (s.team team).launch).restart && !(s.team team).ext) = false := by
    rcases kept with kept | kept <;> simp [kept]
  simp [estimate, used, notInTime late, goesOn]

end

end

/-- Settles O47: event by event, then what the estimator chooses and what is done about it. -/
theorem schedulerEvents : Obligations.SchedulerEvents := by
  unfold Obligations.SchedulerEvents
  intro s c q li ci area team va d again
  refine ⟨?walks, launchDispatch_none, fun i => launchDispatch_some, teamBind_none, fun ts unit => ?binds, launchEnd_happens li,
    fun code on => closeLaunch_dispatched on code, ⟨quantumExpire_plain s team, fun d n => quantumExpire_suspends s team⟩,
    ageTimerExpire_happens s c q, fun vs v way => preemptRequest_happens way, ⟨saveComplete_lapses, saveComplete_vacates⟩,
    drainDeadline_none, fun t => drainDeadline_some, ⟨fun h => ?saves, fun h => mapTeam_team_same h _⟩, suspendComplete_none s,
    fun d slot => suspendComplete_some s, ?estimates⟩
  case walks =>
    obtain ⟨on, t, checks, runs, begins, fills, reports, ends⟩ := pageWalk_event s c va
    have happens {u : State} (e : t = u) : Happens s (walkOn s c va) u (execPageWalk c va s) :=
      event_happens (runs.trans (congrArg (event s on) e)) checks
    exact ⟨fun stale => happens (begins stale), fun f found => happens (fills f found),
      fun pa n e found => happens (reports pa n e found), fun found => happens (ends found)⟩
  case binds =>
    refine ⟨teamBind_loaded unit, fun unloaded free => ?_, fun unloaded full => ?_⟩
    · have bound := teamBind_unloaded (li := li) (area := area) unit unloaded
      rwa [if_pos free] at bound
    · have bound := teamBind_unloaded (li := li) (area := area) unit unloaded
      rwa [if_neg (Bool.eq_false_iff.1 full)] at bound
  case saves =>
    rw [show dealWith s team d .save = beginSave s team from rfl, beginSave_team h]
    exact ⟨rfl, rfl, rfl, rfl, rfl⟩
  case estimates =>
    intro inTime known
    have ends : endsInTime s team d = true ↔ known ∧ inTime := endsInTime_iff s team
    refine ⟨estimate_wait, ?_, fun used late => ?_⟩
    · rintro used rfl hk ht
      exact estimate_drain used (ends.2 ⟨hk, ht⟩)
    · have late := late.imp_right fun h => Bool.eq_false_iff.2 (mt ends.1 h)
      exact ⟨estimate_discard used late, estimate_save used late⟩

end Sys2Proof.Machine
end

section
/-!
Votes and the predicate functions (O9; spec 01 R32, 06 R151, R155), and the functions of the atomic operations (O18; spec 06 R176).
-/

namespace Sys2Proof.Machine

/-! ## The predicate functions (R155) -/

section
variable {s : State} {c : Iss} {i : Instr} {f : Form} {bits : Iss → Mask} (h : Issues s c f)
include h

theorem exec_writesPred {pd : Nat} (runs : exec i s = execute s f fun c => .ok (c.predResult s pd (bits c))) :
    exec i s = writesPred s c pd (bits c) :=
  runs.trans (execute_complete h rfl)

theorem exec_writesPredAll {pd : Nat} (runs : exec i s = execute s f fun c => .ok (c.predAll s pd (bits c))) :
    exec i s = writesPredAll s c pd (bits c) :=
  runs.trans (execute_complete h rfl)

theorem exec_setsEm (runs : exec i s = execute s f fun c => .ok (c.setEm s (bits c))) :
    exec i s = finishes s c (c.warp.mapSplit c.sp fun t => { t with em := bits c }) :=
  runs.trans (execute_complete h rfl)

end

theorem predLogic_writes {s : State} {c : Iss} (h : Issues s c {}) (pd pa pb : Nat) (f : Mask → Mask → Mask) :
    predLogic s pd pa pb f = writesPredAll s c pd (f (c.warp.preds.getD pa 0#32) (c.warp.preds.getD pb 0#32)) :=
  execute_complete h rfl

theorem nonzeroLanes_bit (r : Reg) {l : Nat} (hl : l < 32) : (nonzeroLanes r).getLsbD l = decide (r.lane l ≠ 0#32) := by
  rw [nonzeroLanes, maskWhere_bit _ hl]
  exact Bool.eq_iff_iff.2 (by simp)

/-- Settles O9: the results in a register, the functions of predicates and em, then PFROMW. -/
theorem predicateResults : Obligations.PredicateResults := by
  unfold Obligations.PredicateResults
  intro nw d a pd pa pb inv
  refine ⟨fun s c h => ⟨_, fun _ => rfl, result_yields h nofun rfl⟩,
    fun s c h => ⟨_, rfl, fun l hl _ => vec_lane _ hl, result_yields h nofun rfl⟩,
    fun s c h => result_yields h (fun _ => rfl) rfl, fun s c h => result_yields h (fun _ => rfl) rfl, fun s c h => ?plain,
    fun s c => ⟨fun h => ⟨fun v hv => ?bits, fun other => ?other⟩, fun h => ?lanes⟩⟩
  case plain =>
    refine ⟨?any, ?all, predLogic_writes h pd pa pb (· &&& ·), predLogic_writes h pd pa pb (· ||| ·), predLogic_writes h pd pa pb (· ^^^ ·),
      predLogic_writes h pd pa pb (· &&& ~~~·), predLogic_writes h pd pa pa fun a _ => ~~~a, predLogic_writes h pd pa pa fun a _ => a,
      exec_writesPredAll (bits := Iss.em) h rfl, exec_writesPredAll (bits := Iss.live) h rfl,
      exec_setsEm (bits := fun c => c.em &&& c.pred pa inv) h rfl, exec_setsEm (bits := (·.split.entry)) h rfl⟩
    case any =>
      rw [ite_not]
      exact exec_writesPred (bits := fun c => if c.votes pa inv = 0#32 then 0#32 else allLanes) h rfl
    case all => exact exec_writesPred (bits := fun c => if c.votes pa inv = c.em then allLanes else 0#32) h rfl
  case bits =>
    refine (execute_complete h (x := { c.warp with preds := c.warp.preds.set pd (BitVec.ofNat 32 v.toNat &&& c.warp.laneMask) }) ?_).trans ?_
    · rw [hv]
      rfl
    · rw [BitVec.ofNat_toNat, BitVec.setWidth_eq]
      rfl
  case other => exact execute_notU (r := (·.read .a a)) h other
  case lanes =>
    exact ⟨_, fun _ => nonzeroLanes_bit _, exec_writesPred (bits := fun c => nonzeroLanes (c.read .a a)) h rfl⟩

/-! ## The functions of the atomic operations (R176) -/

/-- A function of packed elements acts on each half, whatever its results' width. -/
theorem packed_halves (f : Nat → Nat → Nat → Nat) (x y z : Word) : (packed f x y z).toNat =
    f (x.toNat % 2 ^ 16) (y.toNat % 2 ^ 16) (z.toNat % 2 ^ 16) % 2 ^ 16 +
      2 ^ 16 * (f (x.toNat / 2 ^ 16) (y.toNat / 2 ^ 16) (z.toNat / 2 ^ 16) % 2 ^ 16) := by
  simp only [packed, BitVec.toNat_ofNat, Nat.reducePow]
  omega

/-- Settles O18: each operation is its row of the table; the signed minimum and maximum by their order, the packed sum half by half. -/
theorem atomicOperations : Obligations.AtomicOperations := by
  unfold Obligations.AtomicOperations
  intro o b b2
  exact ⟨rfl, rfl, rfl, rfl, rfl, rfl, rfl, rfl, congrFun₂ minsW_eq o b, congrFun₂ maxsW_eq o b, rfl, rfl, rfl, rfl, rfl,
    packed_halves (hadd fBf16) o b 0#32⟩

end Sys2Proof.Machine
end

section
/-!
Shuffles, reductions, running sums, RBAL, MATCH and FIRST (O8; spec 06 R150 to R154, 11 R301).
-/

namespace Sys2Proof.Machine

/-! ## The lanes of a mask -/

theorem mem_lanesOf {m : Mask} {l : Nat} : l ∈ lanesOf m ↔ l < 32 ∧ m.getLsbD l = true := by
  simp [lanesOf]

theorem lanesOf_sorted (m : Mask) : (lanesOf m).Pairwise (· < ·) := List.pairwise_lt_range.filter _

theorem lanesOf_below (m : Mask) : (lanesOf m).filter (· < 32) = lanesOf m :=
  List.filter_eq_self.2 fun _ hl => decide_eq_true (mem_lanesOf.1 hl).1

/-! ## Shuffles (R150) -/

section
variable (n : Nat) (em : Mask) (src : Nat → Nat → Nat) (a b : Reg)

theorem shuffle_shape : (shuffle n em src a b).shape = shapePlain a b := by cases a <;> cases b <;> rfl

theorem shuffle_lane {l : Nat} (hl : l < 32) : (shuffle n em src a b).lane l =
    if src l (b.lane l).toNat < n ∧ em.getLsbD (src l (b.lane l).toNat) = true then a.lane (src l (b.lane l).toNat) else a.lane l := by
  cases a <;> cases b <;> simp only [shuffle, vec_lane _ hl]
  exact (ite_self _).symm

end

section
variable {i : Instr} {nw : Bool} {d : Dst} {a b : Src}

theorem yieldsIn_of_shuffle {src : Nat → Nat → Nat} (runs : ∀ s, exec i s = exchange s nw d a b fun n em => shuffle n em src) :
    YieldsIn i { d := dstOp d, a := srcOp a, b := srcOp b } nw d (fun c => shapePlain (c.read .a a) (c.read .b b)) fun c l =>
      let k := src l ((c.read .b b).lane l).toNat
      if k < c.warp.lanes ∧ c.em.getLsbD k = true then (c.read .a a).lane k else (c.read .a a).lane l := by
  intro s c h
  rw [runs]
  exact ⟨_, shuffle_shape .., fun l hl _ => shuffle_lane c.warp.lanes c.em src _ _ hl, result_yields h nofun rfl⟩

theorem yieldsU_of_gather {f : Mask → Reg → Word} {p : Iss → Word → Prop} (runs : ∀ s, exec i s = gather s nw d a fun em x => .u (f em x))
    (spec : ∀ c : Iss, c.em ≠ 0#32 → p c (f c.em (c.read .a a))) : YieldsU i { d := dstOp d, a := srcOp a } nw d p := by
  intro s c h
  rw [runs]
  exact ⟨_, spec c, result_yields h nofun rfl⟩

theorem yieldsIn_of_gather {f : Mask → Reg → Reg} {sh : Iss → Nat} {lane : Iss → Nat → Word} (runs : ∀ s, exec i s = gather s nw d a f)
    (shape : ∀ c : Iss, (f c.em (c.read .a a)).shape = sh c)
    (lanes : ∀ (c : Iss) (l : Nat), l < 32 → c.em.getLsbD l = true → (f c.em (c.read .a a)).lane l = lane c l) :
    YieldsIn i { d := dstOp d, a := srcOp a } nw d sh lane := by
  intro s c h
  rw [runs]
  exact ⟨_, shape c, lanes c, result_yields h nofun rfl⟩

end

/-! ## Reductions (R152) -/

/-- A choice by a key keeps one of the values, and none has a lower key. -/
theorem foldl_pick {f : Word → Word → Word} {key : Word → Int} (hf : ∀ x y, f x y = if key x ≤ key y then x else y) :
    ∀ (ws : List Word) (w : Word), ws.foldl f w ∈ w :: ws ∧ ∀ v ∈ w :: ws, key (ws.foldl f w) ≤ key v
  | [], w => by simp
  | x :: ws, w => by
    obtain ⟨mem, least⟩ := foldl_pick hf ws (f w x)
    have chosen : (f w x = w ∨ f w x = x) ∧ key (f w x) ≤ key w ∧ key (f w x) ≤ key x := by rw [hf]; split <;> simp_all; omega
    obtain ⟨which, low, low'⟩ := chosen
    rw [List.foldl_cons]
    refine ⟨?_, fun v hv => ?_⟩
    · rcases List.mem_cons.1 mem with e | m
      · rw [e]
        rcases which with e | e <;> simp [e]
      · exact List.mem_cons_of_mem _ (List.mem_cons_of_mem _ m)
    · have := least _ (List.mem_cons_self ..)
      rcases List.mem_cons.1 hv with rfl | hv
      · omega
      rcases List.mem_cons.1 hv with rfl | hv
      · omega
      · exact least _ (List.mem_cons_of_mem _ hv)

theorem pickWords_least {f : Word → Word → Word} {key : Word → Int} (hf : ∀ x y, f x y = if key x ≤ key y then x else y) {em : Mask}
    (a : Reg) (some : em ≠ 0#32) : pickWords f (lanesIn em a) ∈ ((lanesOf em).filter (· < 32)).map a.lane ∧
      ∀ v ∈ ((lanesOf em).filter (· < 32)).map a.lane, key (pickWords f (lanesIn em a)) ≤ key v := by
  rw [lanesOf_below, lanesIn]
  cases e : lanesOf em with
  | nil => exact absurd e (lanesOf_ne_nil some)
  | cons l ls => exact foldl_pick hf ..

theorem minnW_key (x y : Word) : minnW x y = if (x.toNat : Int) ≤ y.toNat then x else y := by simp [minnW]
theorem maxnW_key (x y : Word) : maxnW x y = if -(x.toNat : Int) ≤ -y.toNat then x else y := by simp [maxnW]
theorem maxsW_key (x y : Word) : maxsW x y = if -x.toInt ≤ -y.toInt then x else y := by simp [maxsW]

/-! ### The tree of REDUX.FADD -/

/-- The partial sums of R152: at level `j` the sum of the lanes `i` to `i + 2^j - 1`. -/
def treeSum (v : Nat → Word) : Nat → Nat → Word
  | 0, i => v i
  | j + 1, i => fadd32 (treeSum v j i) (treeSum v j (i + 2 ^ j))

theorem pairSums_range (g : Nat → Word) : ∀ n k : Nat, pairSums ((List.range' k (2 * n)).map g) =
    (List.range n).map fun i => fadd32 (g (k + 2 * i)) (g (k + 2 * i + 1))
  | 0, _ => rfl
  | n + 1, k => by
    rw [show 2 * (n + 1) = 2 * n + 1 + 1 by omega, List.range'_succ, List.range'_succ, List.range_succ_eq_map]
    simp only [List.map_cons, pairSums, pairSums_range g n, List.map_map]
    congr 1
    refine List.map_congr_left fun i _ => ?_
    simp only [Function.comp_apply, Nat.mul_succ]
    congr 2 <;> omega

theorem pairSums_tree (v : Nat → Word) (j n : Nat) : pairSums ((List.range (2 * n)).map fun i => treeSum v j (i * 2 ^ j)) =
    (List.range n).map fun i => treeSum v (j + 1) (i * 2 ^ (j + 1)) := by
  rw [List.range_eq_range', pairSums_range]
  refine List.map_congr_left fun i _ => ?_
  simp only [treeSum, Nat.pow_succ, Nat.zero_add]
  congr 2 <;> ring

theorem faddTree_eq (em : Mask) (a : Reg) :
    faddTree em a = treeSum (fun l => if em.getLsbD l then a.lane l else 0x80000000#32) 5 0 := by
  have leaves : ((List.range 32).map fun l => if em.getLsbD l then a.lane l else 0x80000000#32) =
      (List.range (2 * 16)).map fun i => treeSum (fun l => if em.getLsbD l then a.lane l else 0x80000000#32) 0 (i * 2 ^ 0) := by
    simp [treeSum]
  unfold faddTree
  dsimp only
  rw [leaves, pairSums_tree _ 0 16, show (16 : Nat) = 2 * 8 from rfl, pairSums_tree, show (8 : Nat) = 2 * 4 from rfl, pairSums_tree,
    show (4 : Nat) = 2 * 2 from rfl, pairSums_tree, show (2 : Nat) = 2 * 1 from rfl, pairSums_tree]
  rfl

/-! ## RBAL and MATCH (R153, R154) -/

theorem matchReg_shape (em : Mask) (a : Reg) : (matchReg em a).shape = shapeUV a.isU := by cases a <;> rfl

theorem matchReg_lane (em : Mask) (a : Reg) {l : Nat} (hl : l < 32) :
    (matchReg em a).lane l = maskWhere fun k => em.getLsbD k && a.lane k == a.lane l := by
  cases a with
  | u x =>
    refine BitVec.eq_of_getLsbD_eq fun k hk => ?_
    rw [maskWhere_bit _ hk]
    simp [matchReg, Reg.lane]
  | a b st => exact vec_lane _ hl
  | v ls => exact vec_lane _ hl

theorem workBelow_sum (em : Mask) (a : Reg) (n : Nat) :
    workBelow em a n = ((((lanesOf em).filter (· < n)).map a.lane).map BitVec.toNat).sum := by
  rw [workBelow, foldl_add, Nat.zero_add, List.map_map]
  rfl

/-- The runs of two lanes lie one after the other. -/
theorem workBelow_run {em : Mask} (a : Reg) {o k : Nat} (ho : o ∈ lanesOf em) (lt : o < k) :
    workBelow em a o + (a.lane o).toNat ≤ workBelow em a k := by
  rw [workBelow_sum, workBelow_sum]
  have later : ((lanesOf em).filter (· < o) ++ [o]).Sublist ((lanesOf em).filter (· < k)) := by
    obtain ⟨xs, ys, split⟩ := List.append_of_mem ho
    have sorted := lanesOf_sorted em
    rw [split, List.pairwise_append, List.pairwise_cons] at sorted
    obtain ⟨-, ⟨above, -⟩, below⟩ := sorted
    have keeps : xs.filter (· < o) = xs := List.filter_eq_self.2 fun x hx => decide_eq_true (below x hx o (List.mem_cons_self ..))
    have drops : (o :: ys).filter (· < o) = [] := List.filter_eq_nil_iff.2 fun x hx => by
      rcases List.mem_cons.1 hx with rfl | hx
      · simp
      · have := above x hx
        simp; omega
    rw [split, List.filter_append, keeps, drops, List.filter_append, List.append_nil, List.filter_cons_of_pos (by simpa using lt)]
    have keeps' : xs.filter (· < k) = xs := List.filter_eq_self.2 fun x hx =>
      decide_eq_true (Nat.lt_trans (below x hx o (List.mem_cons_self ..)) lt)
    rw [keeps']
    exact List.Sublist.append_left (List.Sublist.cons_cons _ (List.nil_sublist _)) _
  have := ((later.map a.lane).map BitVec.toNat).sum_le_sum fun _ _ => Nat.zero_le _
  simpa using this

theorem ownerOf_beyond {n : Nat} {em : Mask} {a : Reg} {j : Nat} (h : workBelow em a 32 ≤ j) :
    ownerOf n em a j = (n, j - workBelow em a 32) := if_pos h

theorem ownerOf_run {n : Nat} {em : Mask} {a : Reg} {o j : Nat} (ho : o ∈ lanesOf em) (low : workBelow em a o ≤ j)
    (high : j < workBelow em a o + (a.lane o).toNat) : ownerOf n em a j = (o, j - workBelow em a o) := by
  have inside : ¬ workBelow em a 32 ≤ j := by
    have := workBelow_run a ho (mem_lanesOf.1 ho).1
    omega
  have found : ((lanesOf em).find? fun o => decide (workBelow em a o ≤ j) && decide (j < workBelow em a o + (a.lane o).toNat)) = some o := by
    cases e : (lanesOf em).find? fun o => decide (workBelow em a o ≤ j) && decide (j < workBelow em a o + (a.lane o).toNat) with
    | none => 
      have := List.find?_eq_none.1 e o ho
      simp [low, high] at this
    | some p =>
      have hp := List.mem_of_find?_eq_some e
      have run := List.find?_some e
      simp only [Bool.and_eq_true, decide_eq_true_eq] at run
      rcases Nat.lt_trichotomy p o with lt | rfl | lt
      · have := workBelow_run a hp lt
        omega
      · rfl
      · have := workBelow_run a ho lt
        omega
  rw [ownerOf, if_neg inside]
  dsimp only
  rw [found]

theorem rbal_yields {s : State} {c : Iss} {d : Nat} {a b : Src} (h : Issues s c { d := pairOp d, a := srcOp a, b := srcOp b }) :
    let own := fun l => ownerOf c.warp.lanes c.em (c.read .a a) ((c.read .b b).lane l).toNat
    YieldsPair s c d false (vec fun l => BitVec.ofNat 32 (own l).1) (vec fun l => BitVec.ofNat 32 (own l).2) (execRbal d a b s) :=
  results_yieldsAll h (places_nodup h rfl) (by simp) rfl rfl rfl

/-- Settles O8: the shuffles, the reductions and the running sums, then RBAL by the run its item lies in. -/
theorem laneExchangeResults : Obligations.LaneExchangeResults := by
  unfold Obligations.LaneExchangeResults
  intro nw nat d a b n
  refine ⟨yieldsIn_of_shuffle (src := fun _ b => b % 32) fun _ => rfl, yieldsIn_of_shuffle (src := fun l b => if b ≤ l then l - b else 32) fun _ => rfl,
    yieldsIn_of_shuffle (src := fun l b => l + b) fun _ => rfl, yieldsIn_of_shuffle (src := fun l b => l ^^^ (b % 32)) fun _ => rfl,
    yieldsU_of_gather (f := fun em x => sumWords (lanesIn em x)) (fun _ => rfl) fun c _ => ?sum,
    yieldsU_of_gather (f := fun em x => pickWords (if nat then minnW else minsW) (lanesIn em x)) (fun _ => rfl) fun c some => ?least,
    yieldsU_of_gather (f := fun em x => pickWords (if nat then maxnW else maxsW) (lanesIn em x)) (fun _ => rfl) fun c some => ?greatest,
    yieldsU_of_gather (f := faddTree) (fun _ => rfl) fun c _ => ⟨treeSum _, fun i _ => rfl, fun j i _ _ _ => rfl, faddTree_eq ..⟩,
    yieldsIn_of_gather (f := fun em x => vec fun l => sumBelow em x (l + 1)) (fun _ => rfl) (fun _ => rfl) fun c l hl _ => vec_lane _ hl,
    yieldsIn_of_gather (f := fun em x => vec fun l => sumBelow em x l) (fun _ => rfl) (fun _ => rfl) fun c l hl _ => vec_lane _ hl,
    yieldsIn_of_gather (f := matchReg) (fun _ => rfl) (fun c => matchReg_shape ..) fun c l hl _ => matchReg_lane _ _ hl,
    yieldsU_of_gather (f := fun em x => x.lane (lowestLane em)) (fun _ => rfl) fun c _ => rfl, fun s c h => ?work⟩
  case sum => 
    dsimp only
    rw [lanesOf_below]
    rfl
  case least =>
    cases nat with
    | false => exact pickWords_least (key := BitVec.toInt) (fun _ _ => rfl) (c.read .a a) some
    | true => simpa using pickWords_least minnW_key (c.read .a a) some
  case greatest =>
    cases nat with
    | false => simpa using pickWords_least maxsW_key (c.read .a a) some
    | true => simpa using pickWords_least maxnW_key (c.read .a a) some
  case work =>
    refine ⟨_, _, rfl, rfl, fun l hl _ beyond => ?_, fun l o hl ho _ on low high => ?_, rbal_yields h⟩
    · simp only [← workBelow_sum, vec_lane _ hl] at beyond ⊢
      rw [ownerOf_beyond beyond]
      exact ⟨rfl, rfl⟩
    · simp only [← workBelow_sum, vec_lane _ hl] at low high ⊢
      rw [ownerOf_run (mem_lanesOf.2 ⟨ho, on⟩) low high]
      exact ⟨rfl, rfl⟩

end Sys2Proof.Machine
end

section
/-!
Branches, calls and jumps (O10; spec 01 R35, 03 R80, R81, 06 R156 to R159).
-/

namespace Sys2Proof.Machine

/-! ## Branches (R156, R157) -/

section
variable {s : State} {c : Iss} {p tgt rcv : Nat} {n : Bool} (h : Issues s c { ext := .bits 21, cob := true, valued := true })
  (one : c.divides p n = false)
include h one

/-- A BRD that does not divide passes its first check. -/
theorem execBrd_undivided : execBrd p n tgt rcv s = execute s { ext := .bits 21, cob := true, valued := true } fun c =>
    if c.rcvDist rcv = 0 then trapU 0x02
    else if c.em = 0#32 then .ok (c.jump s (wordsFrom c.split.pc (c.rcvDist rcv)))
    else if c.taken p n = c.em then .ok (c.jump s (c.brdTarget tgt))
    else if c.taken p n = 0#32 then .ok (c.jump s (c.split.pc + 4))
    else if c.split.depth = 255 ∨ (weltFree c.warp).length < c.weltNeed then trapU 0x13
    else .ok (c.divide s (c.brdTarget tgt) (wordsFrom c.split.pc (c.rcvDist rcv)) (c.taken p n)) := by
  unfold execBrd
  simp only [h.1, one, Bool.false_and, Bool.false_eq_true, if_false]

theorem brd_noDistance (zero : c.rcvDist rcv = 0) : execBrd p n tgt rcv s = traps s c { cause := 0x02 } :=
  (execBrd_undivided h one).trans (execute_error h (if_pos zero))

variable (far : c.rcvDist rcv ≠ 0)
include far

theorem brd_idle (idle : c.em = 0#32) :
    execBrd p n tgt rcv s = completes s c c.warp (wordsFrom c.split.pc (c.rcvDist rcv)) Latch.empty [] := by
  refine (execBrd_undivided h one).trans (execute_retireTo h ?_)
  rw [if_neg far, if_pos idle]
  rfl

variable (some : c.em ≠ 0#32)
include some

theorem brd_taken (all : c.em &&& c.pred p n = c.em) : execBrd p n tgt rcv s = completes s c c.warp (c.brdTarget tgt) Latch.empty [] := by
  refine (execBrd_undivided h one).trans (execute_retireTo h ?_)
  rw [if_neg far, if_neg some]
  exact if_pos all

theorem brd_falls (none : c.em &&& c.pred p n = 0#32) : execBrd p n tgt rcv s = completes s c c.warp (c.split.pc + 4) Latch.empty [] := by
  have notAll : c.taken p n ≠ c.em := fun all => some (all.symm.trans none)
  refine (execBrd_undivided h one).trans (execute_retireTo h ?_)
  rw [if_neg far, if_neg some, if_neg notAll]
  exact if_pos none

end

/-- An XP waits for the split's next word (R80). -/
theorem xp_waits {s : State} {c : Iss} (h : Issues s c { ext := .none, cob := true }) (ind xs ext : Nat) :
    execXp ind xs ext s = .next (s.withWarp c.w (c.warp.mapSplit c.sp fun q =>
      { q with xp := some { ind := ind, xs := xs, ext := ext }, pc := (q.pc + 4) % 2 ^ 64 })) := by
  obtain ⟨-, hw, -⟩ := issuing_spec h.1
  refine (execute_ok h rfl).trans ?_
  rw [mapWarp_withWarp hw, unlessBlocked_withWarp]

/-! ## Links (R158) -/

/-- A full write of a compact result gives back the slot its place held (R27). -/
theorem fullWrite_free {x : Warp} {p : Place} {r : Reg} (has : x.has p) (compact : r.isV = false) :
    (x.fullWrite p r).free = x.free + x.held [p] := by
  rw [Warp.fullWrite, clean_free]
  cases p with
  | slot k =>
    rw [setReg_free_slot has, compact]
    simp only [Warp.held, Place.counts, Bool.true_and, List.filter_cons, List.filter_nil]
    cases (x.getReg (.slot k)).isV <;> rfl
  | bank k => simp [Warp.setReg, Warp.held, Place.counts]

@[simp] theorem fullWrite_has (x : Warp) (p q : Place) (r : Reg) : (x.fullWrite p r).has q ↔ x.has q := by
  rw [Warp.fullWrite, clean_has, setReg_has]

theorem fullWrite_getReg_same {x : Warp} {p : Place} (has : x.has p) (r : Reg) : (x.fullWrite p r).getReg p = r := by
  rw [Warp.fullWrite, clean_getReg, getReg_setReg_same r has]

theorem fullWrite_getReg_other (x : Warp) {p q : Place} (ne : q ≠ p) (r : Reg) : (x.fullWrite p r).getReg q = x.getReg q := by
  rw [Warp.fullWrite, clean_getReg, getReg_setReg_other r ne]

theorem fullWrite_bad (x : Warp) (p : Place) (r : Reg) : (x.fullWrite p r).bad = x.bad.filter fun q => q != p := by
  rw [Warp.fullWrite, clean_bad, setReg_bad]

theorem fullWrite_rest (x : Warp) (p : Place) (r : Reg) :
    { x.fullWrite p r with regs := x.regs, bank := x.bank, free := x.free, bad := x.bad } = x := by
  rw [Warp.fullWrite, clean_eq]
  cases p <;> rfl

section
variable {s : State} {c : Iss} {f : Form} {d : Nat} (h : Issues s c f) (hd : f.d = pairOp d)
include h hd

/-- The pair and the latch entry that a link leaves. -/
theorem link_linked (pc : Nat) : ∃ x l, Linked c x l d ∧ c.link s d pc = c.retireTo s x pc l [c.place .d d 0, c.place .d d 1] := by
  have differ : c.place .d d 0 ≠ c.place .d d 1 := by
    have nodup := places_nodup h hd
    rw [show c.places .d d 2 = [c.place .d d 0, c.place .d d 1] from rfl] at nodup
    simpa using nodup
  have low : (BitVec.ofNat 32 ((c.split.pc + 4) % 2 ^ 64) : Word) = BitVec.ofNat 32 (c.split.pc + 4) := by
    apply BitVec.eq_of_toNat_eq
    simp only [BitVec.toNat_ofNat]
    omega
  refine ⟨_, _, ?_, rfl⟩
  rw [low]
  show Linked c ((c.warp.fullWrite _ _).fullWrite _ _) _ d
  refine ⟨fun has => ?_, fun has => ?_, fun p p0 p1 => ?_, fun has => ?_, ?_, ?_, rfl, rfl, rfl, rfl, rfl⟩
  · rw [fullWrite_getReg_other _ differ, fullWrite_getReg_same has]
  · rw [fullWrite_getReg_same ((fullWrite_has ..).2 has)]
  · rw [fullWrite_getReg_other _ p1, fullWrite_getReg_other _ p0]
  · have has0 := has (c.place .d d 0) (List.mem_cons_self ..)
    have has1 := has (c.place .d d 1) (List.mem_cons_of_mem _ (List.mem_cons_self ..))
    have kept : (c.warp.fullWrite (c.place .d d 0) (.u (BitVec.ofNat 32 (c.split.pc + 4)))).held [c.place .d d 1] = c.warp.held [c.place .d d 1] :=
      held_congr fun p hp => fullWrite_getReg_other _ (by rw [List.mem_singleton.1 hp]; exact differ.symm) _
    rw [fullWrite_free ((fullWrite_has ..).2 has1) rfl, fullWrite_free has0 rfl, kept,
      show c.places .d d 2 = [c.place .d d 0, c.place .d d 1] from rfl, held_cons c.warp (c.place .d d 0) [_]]
    omega
  · rw [fullWrite_bad, fullWrite_bad, List.filter_filter]
    refine List.filter_congr fun q _ => ?_
    rw [show c.places .d d 2 = [c.place .d d 0, c.place .d d 1] from rfl]
    simp [bne, Bool.and_comm, beq_eq_decide]
  · have first := fullWrite_rest c.warp (c.place .d d 0) (.u (BitVec.ofNat 32 (c.split.pc + 4)))
    have second := congrArg (fun y : Warp => { y with regs := c.warp.regs, bank := c.warp.bank, free := c.warp.free, bad := c.warp.bad })
      (fullWrite_rest (c.warp.fullWrite (c.place .d d 0) (.u (BitVec.ofNat 32 (c.split.pc + 4)))) (c.place .d d 1)
        (.u (BitVec.ofNat 32 ((c.split.pc + 4) % 2 ^ 64 / 2 ^ 32 % 2 ^ 24))))
    exact second.trans first

theorem execute_link {body : Iss → Res} {pc : Nat} (hb : body c = .ok (c.link s d pc)) : ∃ x l, Linked c x l d ∧
    execute s f body = completes s c x pc l [c.place .d d 0, c.place .d d 1] := by
  obtain ⟨x, l, linked, runs⟩ := link_linked h hd pc
  exact ⟨x, l, linked, execute_retireTo h (hb.trans (congrArg Except.ok runs))⟩

end

/-! ## Jumps through a pair (R159) -/

section
variable {c : Iss} {a t : Nat}

theorem target_notU {r : Reg} (other : r.isU = false) (first : c.regAt .a a 0 = r ∨ ((c.regAt .a a 0).isU = true ∧ c.regAt .a a 1 = r)) :
    c.target a = .error { cause := 0x06, val := .word r.shape } := by
  unfold Iss.target Iss.pairU needPair
  rcases first with low | ⟨low, high⟩
  · rw [low, needU_other other]
    rfl
  · rw [high, needU_other other]
    cases e : c.regAt .a a 0 with
    | u v => rfl
    | a b st => simp [e, Reg.isU] at low
    | v ls => simp [e, Reg.isU] at low

variable (holds : c.HoldsPair .a a t)
include holds

/-- The checks of a target that its pair holds. -/
theorem target_pair : c.target a = if t % 4 ≠ 0 then .error { cause := 0x09, val := .addrs (List.replicate 32 t) }
    else if 2 ^ 56 ≤ t then .error { cause := 0x1A, val := .addrs (List.replicate 32 t) } else .ok t := by
  obtain ⟨lo, hi, low, high, rfl⟩ := holds
  unfold Iss.target Iss.pairU
  rw [low, high]
  rfl

end

/-- What a jump through the pair at `a` comes to: a trap for a register that is not U and for a target that the rule forbids, and `done` for
a target `t` it allows. -/
def Jumps (s : State) (c : Iss) (a t : Nat) (o : Host.Outcome State Fault Refusal) (done : Prop) : Prop :=
  (∀ r, r.isU = false → c.regAt .a a 0 = r ∨ ((c.regAt .a a 0).isU = true ∧ c.regAt .a a 1 = r) →
    o = traps s c { cause := 0x06, val := .word r.shape }) ∧
  (c.HoldsPair .a a t →
    (t % 4 ≠ 0 → o = traps s c { cause := 0x09, val := .addrs (List.replicate 32 t) }) ∧
    (t % 4 = 0 → 2 ^ 56 ≤ t → o = traps s c { cause := 0x1A, val := .addrs (List.replicate 32 t) }) ∧
    (t % 4 = 0 → t < 2 ^ 56 → done))

theorem execute_jumps {s : State} {c : Iss} {f : Form} {a t : Nat} {body : Iss → Res} {k : Nat → Res} {done : Prop} (h : Issues s c f)
    (hb : body c = c.target a >>= k) (goes : body c = k t → done) : Jumps s c a t (execute s f body) done := by
  refine ⟨fun r other first => ?_, fun holds => ⟨fun off => ?_, fun aligned wide => ?_, fun aligned canonical => goes ?_⟩⟩
  · exact execute_error h (by rw [hb, target_notU other first]; rfl)
  · exact execute_error h (by rw [hb, target_pair holds, if_pos off]; rfl)
  · exact execute_error h (by rw [hb, target_pair holds, if_neg (not_not.2 aligned), if_pos wide]; rfl)
  · rw [hb, target_pair holds, if_neg (not_not.2 aligned), if_neg (Nat.not_le.2 canonical)]
    rfl

/-! ## Each word -/

section
variable {s : State} {c : Iss}

theorem bra_goes (h : Issues s c { ext := .none, cob := true }) (off : Nat) :
    execBra off s = completes s c c.warp (wordsFrom c.split.pc (sextN off 26)) Latch.empty [] :=
  execute_retireTo h rfl

theorem call_links {d : Nat} (h : Issues s c { d := pairOp d, ext := .bits 14 }) (imm : Nat) : ∃ x l, Linked c x l d ∧
    execCall d imm s = completes s c x (wordsFrom c.split.pc (if c.hasXp then sextN (c.ext * 2 ^ 18 + imm) 32 else sextN imm 18)) l
      [c.place .d d 0, c.place .d d 1] :=
  execute_link h rfl rfl

theorem brx_jumps {a : Nat} (h : Issues s c { a := pairOp a, em0 := .always, valued := true }) (t : Nat) :
    Jumps s c a t (execBrx a s) (execBrx a s = completes s c c.warp t Latch.empty []) :=
  execute_jumps (k := fun t => .ok (c.jump s t)) h rfl fun hb => execute_retireTo h hb

theorem callx_jumps {d a : Nat} (h : Issues s c { d := pairOp d, a := pairOp a, em0 := .always, valued := true }) (t : Nat) :
    Jumps s c a t (execCallx d a s) (∃ x l, Linked c x l d ∧ execCallx d a s = completes s c x t l [c.place .d d 0, c.place .d d 1]) :=
  execute_jumps (k := fun t => .ok (c.link s d t)) h rfl fun hb => execute_link h rfl hb

end

/-- Settles O10: BRA and XP, the BRD that does not divide, the call, then the jumps by what their pair holds. -/
theorem branchResults : Obligations.BranchResults := by
  unfold Obligations.BranchResults
  intro s c off tgt rcv d a imm p ind xs ext t n
  exact ⟨fun h => ⟨bra_goes h off, xp_waits h ind xs ext⟩,
    fun h one => ⟨brd_noDistance h one, brd_idle h one, brd_taken h one, brd_falls h one⟩,
    fun h => call_links h imm, fun h => ⟨brx_jumps h t, brx_jumps h t⟩, fun h => callx_jumps h t⟩

end Sys2Proof.Machine
end

section
/-!
The control instructions (O13; spec 01 R22, 06 R160 to R164).
-/

namespace Sys2Proof.Machine

/-! ## A group switch at the end of an instruction (R22) -/

theorem switchTo_eq {s u : State} {c : Iss} (hw : u.warps[c.w]? = some c.warp) (hc : u.clk = s.clk) (x : Warp) (pc : Nat) :
    c.switchTo u x pc = settle (u.withWarp c.w ((x.retire c.sp pc Latch.empty [] s.clk.ns).groupSwitch c.sp)) c.w c.sp := by
  unfold Iss.switchTo
  rw [mapWarp_withWarp hw, hc]

theorem execute_switch {s u : State} {c : Iss} {f : Form} {body : Iss → Res} {x : Warp} {pc : Nat} (h : Issues s c f)
    (hw : u.warps = s.warps) (hc : u.clk = s.clk) (hb : body c = .ok (c.switchTo u x pc)) :
    execute s f body = switchesIn s u c x pc := by
  rw [execute_ok h hb, switchTo_eq (hw ▸ (issuing_spec h.1).2.1) hc]
  rfl

section
variable {s : State} {c : Iss}

/-! ## SLEEP, PROG and BRK (R160) -/

theorem sleep_u {a : Src} {v : Word} (h : Issues s c { a := srcOp a, em0 := .always }) (hv : c.read .a a = .u v) :
    (v = 0#32 → execSleep a s = switchesIn s s c c.warp (c.split.pc + 4)) ∧
      (v ≠ 0#32 → execSleep a s = parksAs s c (.sleep (s.clk.cycle + v.toNat))) := by
  refine ⟨fun zero => execute_switch h rfl rfl ?_, fun some => execute_park h rfl ?_⟩
  · rw [hv, needU_u, zero]
    rfl
  · have wait : v.toNat ≠ 0 := fun z => some (BitVec.eq_of_toNat_eq z)
    rw [hv, needU_u]
    exact if_neg wait

theorem prog_u {a : Src} {v : Word} (h : Issues s c { a := srcOp a, cob := true, em0 := .always }) (hv : c.read .a a = .u v) :
    execProg a s = finishes s c { c.warp with progress := min (c.warp.progress + v.toNat) (2 ^ 32 - 1) } :=
  execute_complete h (by rw [hv, needU_u]; rfl)

theorem brk_undebugged (h : Issues s c {}) (off : c.debug s = false) : execBrk s = finishes s c c.warp :=
  execute_complete h (by rw [off]; rfl)

theorem brk_holds (h : Issues s c {}) (on : c.debug s = true) :
    execBrk s = .next (unlessBlocked s c ((settle
      ((postGroup s (s.ctxOf c.warp) [mkRecord (warpRec s c.warp 9 c.split.insnPc)]).withWarp c.w
        ((c.warp.retire c.sp (c.split.pc + 4) Latch.empty [] s.clk.ns).groupSwitch c.sp)) c.w c.sp).mapWarp c.w fun x =>
      { x with st := if x.st = .running then .held else x.st, stopAt := s.clk.ns })) := by
  have only := postGroup_only s (s.ctxOf c.warp) [mkRecord (warpRec s c.warp 9 c.split.insnPc)]
  rw [← switchTo_eq (only.warps ▸ (issuing_spec h.1).2.1) only.clk]
  refine execute_ok h ?_
  simp only [on, Bool.not_true, Bool.false_eq_true, if_false, beq_iff_eq]

/-! ## EXIT (R161, R164) -/

/-- EXIT under em zero, or with no split of the warp at a barrier, passes its own check. -/
theorem execExit_free (c : Iss) (free : c.em = 0#32 ∨ c.siblingBar = none) (r : Res) :
    (match c.em == 0#32, c.siblingBar with
      | false, some b => trapW 0x11 b.2
      | _, _ => r) = r := by
  rcases free with idle | none
  · rw [idle]
    rfl
  · rw [none]
    cases c.em == 0#32 <;> rfl

theorem exit_divided (h : Issues s c {}) {b : Nat × Nat} (some : c.em ≠ 0#32) (bar : c.siblingBar = .some b) :
    execExit s = traps s c { cause := 0x11, val := .word b.2 } := by
  refine execute_error h ?_
  rw [bar, beq_false_of_ne some]
  rfl

theorem leave_live (c : Iss) : c.leave.live = c.live &&& ~~~c.em := by
  show (c.warp.mapSplit c.sp _).live &&& _ = _
  rw [Warp.mapSplit, setSplit_live]
  rfl

/-- The warp's split that leaves, and its other fields as they were. -/
theorem leave_frame (c : Iss) :
    (c.warp.mapSplit c.sp fun t => { t with entry := t.entry &&& ~~~c.em, em := 0#32 }).frame = c.warp.frame := mapSplit_frame ..

theorem leave_sup (c : Iss) : c.leave.sup = c.warp.sup := (congrArg Warp.sup (leave_frame c) :)

theorem leave_regs (c : Iss) : c.leave.regs = c.warp.regs := (mapSplit_regs c.warp c.sp _).1

theorem leave_preds (c : Iss) : c.leave.preds = c.warp.preds := (congrArg Warp.preds (leave_frame c) :)

theorem leave_split (issues : issuing s = some c) :
    c.leave.split? c.sp = some { c.split with entry := c.split.entry &&& ~~~c.em, em := 0#32 } := by
  obtain ⟨-, -, split, -⟩ := issuing_spec issues
  exact (split?_mapSplit_same ..).trans (congrArg (Option.map _) split)

theorem leave_trap (c : Iss) : c.leave.trap =
    if c.warp.sup then { c.warp.trap with savedEntry := c.warp.trap.savedEntry &&& ~~~c.em } else c.warp.trap := by
  have sup : (c.warp.mapSplit c.sp fun t => { t with entry := t.entry &&& ~~~c.em, em := 0#32 }).sup = c.warp.sup :=
    (congrArg Warp.sup (leave_frame c) :)
  have trap : (c.warp.mapSplit c.sp fun t => { t with entry := t.entry &&& ~~~c.em, em := 0#32 }).trap = c.warp.trap :=
    (congrArg Warp.trap (leave_frame c) :)
  simp only [Iss.leave, sup, trap]

variable (h : Issues s c {}) (free : c.em = 0#32 ∨ c.siblingBar = none)
include h free

theorem exit_leaves (live : c.live &&& ~~~c.em ≠ 0#32) :
    (¬ (c.warp.sup = true ∧ c.split.entry &&& ~~~c.em = 0#32) → execExit s = finishes s c c.leave) ∧
      (c.warp.sup = true ∧ c.split.entry &&& ~~~c.em = 0#32 → execExit s = switchesIn s s c c.leave (c.split.pc + 4)) := by
  have stays : c.leave.live ≠ 0#32 := by rwa [leave_live]
  have emptied : (c.leave.sup && c.split.entry &&& ~~~c.em == 0#32) = true ↔ c.warp.sup = true ∧ c.split.entry &&& ~~~c.em = 0#32 := by
    rw [leave_sup, Bool.and_eq_true, beq_iff_eq]
  refine ⟨fun more => execute_complete h ?_, fun last => execute_switch h rfl rfl ?_⟩
  · exact (execExit_free c free _).trans ((if_neg stays).trans (if_neg (mt emptied.1 more)))
  · exact (execExit_free c free _).trans ((if_neg stays).trans (if_pos (emptied.2 last)))

theorem exit_ends (dead : c.live &&& ~~~c.em = 0#32) : c.leave.live = 0#32 ∧
    execExit s = .next (unlessBlocked s c
      ((s.withWarp c.w (c.leave.retire c.sp (c.split.pc + 4) Latch.empty [] s.clk.ns)).run [.warpEnd c.w])) := by
  have ends : c.leave.live = 0#32 := by rwa [leave_live]
  refine ⟨ends, ?_⟩
  rw [← mapWarp_withWarp (issuing_spec h.1).2.1 fun _ => c.leave.retire c.sp (c.split.pc + 4) Latch.empty [] s.clk.ns]
  exact execute_ok h ((execExit_free c free _).trans (if_pos ends))

end

/-! ## BAR (R162 to R164) -/

section
variable {s : State} {c : Iss} {pd idx : Nat} (h : Issues s c {})
include h

theorem bar_divided {b : Nat × Nat} (bar : c.siblingBar = some b) (elsewhere : b.1 ≠ c.split.pc) :
    execBar pd idx s = traps s c { cause := 0x11, val := .word b.2 } := by
  refine execute_error h ?_
  rw [bar]
  exact if_pos elsewhere

variable (same : ∀ b, c.siblingBar = some b → b.1 = c.split.pc)
include same

/-- A BAR that no other split of the warp contradicts is reached. -/
theorem execBar_reached : execBar pd idx s = execute s {} fun c => .ok (c.reachBar s pd idx) := by
  refine (execute_ok h ?_).trans (execute_ok h rfl).symm
  cases e : c.siblingBar with
  | none => rfl
  | some b => exact if_neg (not_not.2 (same b e))

theorem bar_parks (going : abandoned s c.warp.team = false) :
    execBar pd idx s = parksIn s (if c.companions s idx then c.external s else s) c (.bar c.split.pc idx pd s.clk.ns) := by
  have warps : (if c.companions s idx then c.external s else s).warps = s.warps := by split <;> rfl
  refine (execBar_reached h same).trans (execute_park h warps ?_)
  rw [Iss.reachBar, going]
  rfl

theorem bar_abandoned (gone : abandoned s c.warp.team = true) :
    execBar pd idx s = switchesIn s (if c.companions s idx then c.external s else s) c (c.warp.setPred c.em pd 0#32)
      (c.split.pc + 4) := by
  have warps : (if c.companions s idx then c.external s else s).warps = s.warps := by split <;> rfl
  have clk : (if c.companions s idx then c.external s else s).clk = s.clk := by split <;> rfl
  refine (execBar_reached h same).trans (execute_switch h warps clk ?_)
  rw [Iss.reachBar, gone]
  rfl

end

/-- Settles O13: the words with no operand first, EXIT by what it leaves, BAR by who else waits, SLEEP and PROG by their operand. -/
theorem controlResults : Obligations.ControlResults := by
  unfold Obligations.ControlResults
  intro s c a code pd idx next
  refine ⟨fun h => execute_complete (body := fun c => .ok (c.complete s c.warp)) h rfl, fun h => ⟨?_, ?_, ?_, brk_undebugged h, brk_holds h, fun b => exit_divided h, fun free live => ?_,
    fun free dead => ⟨c.leave, exit_ends h free dead⟩, fun b => bar_divided h, bar_parks h, bar_abandoned h⟩, ?_, ?_, ?_, ?_⟩
  · exact execute_switch (body := fun c => .ok (c.switchTo s c.warp (c.split.pc + 4))) h rfl rfl rfl
  · exact execute_park (body := fun c => .ok (c.park s .wsync)) h rfl rfl
  · exact execute_error (body := fun _ => trapW (0x20 + code) code) h rfl
  · obtain ⟨finish, switch⟩ := exit_leaves h free live
    exact ⟨c.leave, finish, switch, leave_live c, leave_regs c, leave_preds c, leave_split h.1, leave_trap c⟩
  · exact fun h other => execute_notU (r := fun c => c.read .a a) (body := fun c v =>
      if v = 0 then .ok (c.switchTo s c.warp (c.split.pc + 4)) else .ok (c.park s (.sleep (s.clk.cycle + v)))) h other
  · exact fun h other => execute_notU (r := fun c => c.read .a a) (body := fun c v =>
      .ok (c.complete s { c.warp with progress := min (c.warp.progress + v) (2 ^ 32 - 1) })) h other
  · exact fun h v hv => sleep_u h hv
  · exact fun h v hv => prog_u h hv

end Sys2Proof.Machine
end

section
/-!
Bytes written in order, one cluster of the state, and the scratchpad (spec 01 R12, 06 R171, R172).
-/

namespace Sys2Proof.Machine

/-! ## What writes in order leave at one place -/

/-- What a byte holds after writes `ws` in order, at `a`, where it held `old`. -/
def lastAt (ws : List (Nat × Byte)) (a : Nat) (old : Byte) : Byte :=
  match (ws.filter fun w => w.1 == a).getLast? with
  | some w => w.2
  | none => old

@[simp] theorem lastAt_nil (a : Nat) (old : Byte) : lastAt [] a old = old := rfl

theorem lastAt_append (xs ys : List (Nat × Byte)) (a : Nat) (old : Byte) : lastAt (xs ++ ys) a old = lastAt ys a (lastAt xs a old) := by
  unfold lastAt
  rw [List.filter_append, List.getLast?_append]
  cases (ys.filter fun w => w.1 == a).getLast? <;> rfl

theorem lastAt_cons (w : Nat × Byte) (ws : List (Nat × Byte)) (a : Nat) (old : Byte) :
    lastAt (w :: ws) a old = lastAt ws a (if w.1 = a then w.2 else old) := by
  rw [← List.singleton_append, lastAt_append]
  congr 1
  unfold lastAt
  by_cases h : w.1 = a <;> simp [h]

theorem lastAt_of_forall_ne {ws : List (Nat × Byte)} {a : Nat} (h : ∀ w ∈ ws, w.1 ≠ a) (old : Byte) : lastAt ws a old = old := by
  unfold lastAt
  rw [List.filter_eq_nil_iff.2 fun w m => by simpa using h w m]
  rfl

/-- Places that are renamed without two becoming one. -/
theorem lastAt_map {f : Nat → Nat} {ws : List (Nat × Byte)} {a : Nat} (h : ∀ w ∈ ws, f w.1 = f a → w.1 = a) (old : Byte) :
    lastAt (ws.map fun w => (f w.1, w.2)) (f a) old = lastAt ws a old := by
  unfold lastAt
  have same : (ws.map fun w => (f w.1, w.2)).filter (fun w => w.1 == f a) = (ws.filter fun w => w.1 == a).map fun w => (f w.1, w.2) := by
    rw [List.filter_map]
    congr 1
    refine List.filter_congr fun w m => ?_
    show (f w.1 == f a) = (w.1 == a)
    rw [Bool.eq_iff_iff, beq_iff_eq, beq_iff_eq]
    exact ⟨h w m, congrArg f⟩
  rw [same, List.getLast?_map]
  cases (ws.filter fun w => w.1 == a).getLast? <;> rfl

/-- Of writes to a run of places from `n` on, the one at `n + i`. -/
theorem lastAt_run (n : Nat) (b : Nat → Byte) (k a : Nat) (old : Byte) :
    lastAt ((List.range k).map fun i => (n + i, b i)) a old = if n ≤ a ∧ a < n + k then b (a - n) else old := by
  induction k with
  | zero => rw [if_neg (by omega)]; rfl
  | succ k ih =>
    rw [List.range_succ, List.map_append, lastAt_append, ih]
    show lastAt [(n + k, b k)] a _ = _
    rw [lastAt_cons, lastAt_nil]
    by_cases h : n + k = a
    · rw [if_pos h, if_pos (by omega), ← h, Nat.add_sub_cancel_left]
    · rw [if_neg h]
      exact if_congr (by omega) rfl rfl

theorem memGet_memPut (ws : List (Nat × Byte)) (x : Nat) : ∀ {m : ByteMem}, ByteMem.wf m = true →
    memGet (memPut m ws) x = lastAt ws x (memGet m x) := by
  induction ws with
  | nil => exact fun _ => rfl
  | cons w ws ih =>
    intro m wf
    rw [lastAt_cons]
    refine (ih (memSet_wf w.1 w.2 wf)).trans (congrArg (lastAt ws x) ?_)
    rw [memGet_memSet wf]
    exact if_congr eq_comm rfl rfl

@[simp] theorem putBytes_length (ws : List (Nat × Byte)) : ∀ bs : List Byte, (putBytes bs ws).length = bs.length := by
  induction ws with
  | nil => exact fun _ => rfl
  | cons w ws ih => exact fun bs => (ih _).trans (List.length_set ..)

theorem putBytes_getD (ws : List (Nat × Byte)) (o : Nat) : ∀ {bs : List Byte}, o < bs.length →
    (putBytes bs ws).getD o 0#8 = lastAt ws o (bs.getD o 0#8) := by
  induction ws with
  | nil => exact fun _ => rfl
  | cons w ws ih =>
    intro bs inside
    rw [lastAt_cons]
    refine (ih (by rwa [List.length_set])).trans (congrArg (lastAt ws o) ?_)
    simp only [List.getD_eq_getElem?_getD, List.getElem?_set]
    by_cases h : w.1 = o
    · subst h
      simp [inside]
    · simp [h]

/-! ## Little-endian bytes -/

theorem leBytes_getD (v n i : Nat) (h : i < n) : (leBytes v n).getD i 0#8 = BitVec.ofNat 8 (v / 2 ^ (8 * i)) := by
  induction n generalizing v i with
  | zero => cases h
  | succ n ih =>
    cases i with
    | zero => simp [leBytes]
    | succ i =>
      have step : v / 256 / 2 ^ (8 * i) = v / 2 ^ (8 * (i + 1)) := by
        rw [Nat.div_div_eq_div_mul, show 8 * (i + 1) = 8 + 8 * i by omega, Nat.pow_add]
      rw [leBytes, List.getD_cons_succ, ih _ _ (by omega), step]

/-- A run that holds the bytes of a word reads as the word. -/
theorem leNat_word {byte : Nat → Byte} {v : Word} {x : Nat} (h : ∀ i, i < 4 → byte (x + i) = BitVec.ofNat 8 (v.toNat / 2 ^ (8 * i))) :
    leNat ((List.range 4).map fun i => byte (x + i)) = v.toNat := by
  have bytes : (List.range 4).map (fun i => byte (x + i)) = leBytes v.toNat 4 := by
    refine List.ext_getElem (by simp) fun i hi _ => ?_
    have small : i < 4 := by simpa using hi
    have get := leBytes_getD v.toNat 4 i small
    rw [List.getD_eq_getElem _ _ (by simpa using small)] at get
    rw [List.getElem_map, List.getElem_range, get, h i small]
  rw [bytes, leNat_leBytes, Nat.mod_eq_of_lt (by have := v.isLt; omega)]

theorem ofNat_toNat_self (v : Word) : (BitVec.ofNat 32 v.toNat : Word) = v := by simp

/-! ## One cluster of the state -/

theorem cluster_mapCluster (s : State) (k j : Nat) (f : Cluster → Cluster) :
    (s.mapCluster k f).cluster j = if j = k ∧ k < s.clusters.length then f (s.cluster j) else s.cluster j := by
  unfold State.cluster State.mapCluster
  simp only [List.getD_eq_getElem?_getD, updAt_get]
  by_cases same : j = k
  · subst same
    by_cases inside : j < s.clusters.length <;> simp [inside]
  · simp [same]

theorem cluster_mapCluster_same {s : State} {k : Nat} (f : Cluster → Cluster) (inside : k < s.clusters.length) :
    (s.mapCluster k f).cluster k = f (s.cluster k) := by
  rw [cluster_mapCluster, if_pos ⟨rfl, inside⟩]

theorem cluster_mapCluster_other (s : State) {k j : Nat} (f : Cluster → Cluster) (other : j ≠ k) :
    (s.mapCluster k f).cluster j = s.cluster j := by
  rw [cluster_mapCluster, if_neg fun both => other both.1]

/-- What an update leaves as it is in a cluster, it leaves so in every cluster. -/
theorem cluster_mapCluster_keeps {α : Type} (s : State) (k j : Nat) {f : Cluster → Cluster} (g : Cluster → α) (h : ∀ x, g (f x) = g x) :
    g ((s.mapCluster k f).cluster j) = g (s.cluster j) := by
  rw [cluster_mapCluster]
  split
  · exact h _
  · rfl

/-- A cluster that is not there is one after reset. -/
theorem cluster_outside {s : State} {k : Nat} (outside : s.clusters.length ≤ k) : s.cluster k = Cluster.reset := by
  rw [State.cluster, List.getD_eq_getElem?_getD, List.getElem?_eq_none outside]
  rfl

theorem cluster_mem {s : State} {k : Nat} (inside : k < s.clusters.length) : s.cluster k ∈ s.clusters := by
  rw [State.cluster, List.getD_eq_getElem _ _ inside]
  exact List.getElem_mem inside

/-- Every cluster's SRAM is in its canonical form. -/
theorem sram_wf {s : State} (inv : MemInv s) (k : Nat) : ByteMem.wf (s.cluster k).sram = true := by
  by_cases inside : k < s.clusters.length
  · exact inv.2 _ (cluster_mem inside)
  · rw [cluster_outside (Nat.le_of_not_lt inside)]
    rfl

/-! ## The scratchpad (R171, R172) -/

@[simp] theorem scratchPut_crew (s : State) (crew : Nat) (ws : List (Nat × Byte)) (n : Nat) : (scratchPut s crew ws).crew n = s.crew n := rfl

@[simp] theorem scratchPut_crewBanks (s : State) (crew : Nat) (ws : List (Nat × Byte)) (n mode : Nat) :
    crewBanks (scratchPut s crew ws) n mode = crewBanks s n mode := by
  unfold crewBanks
  rw [scratchPut_crew]
  have banks : ((scratchPut s crew ws).cluster (s.crew n).cluster).banks = (s.cluster (s.crew n).cluster).banks :=
    cluster_mapCluster_keeps s _ _ Cluster.banks fun _ => rfl
  rw [banks]

@[simp] theorem scratchPut_scratchAddr (s : State) (crew : Nat) (ws : List (Nat × Byte)) (n o : Nat) :
    scratchAddr (scratchPut s crew ws) n o = scratchAddr s n o := by
  unfold scratchAddr
  rw [scratchPut_crewBanks]

/-- A byte of a cluster's SRAM after writes to a crew's scratchpad. -/
theorem scratchPut_memGet {s : State} (inv : MemInv s) {crew : Nat} (inside : (s.crew crew).cluster < s.clusters.length)
    (ws : List (Nat × Byte)) (x : Nat) :
    memGet ((scratchPut s crew ws).cluster (s.crew crew).cluster).sram x =
      lastAt (ws.map fun w => (scratchAddr s crew w.1, w.2)) x (memGet (s.cluster (s.crew crew).cluster).sram x) := by
  rw [scratchPut, cluster_mapCluster_same _ inside]
  exact memGet_memPut _ x (sram_wf inv _)

/-- Writes to a crew's scratchpad leave every other byte of SRAM as it was. -/
theorem scratchPut_frame {s : State} (inv : MemInv s) {crew k x : Nat} {ws : List (Nat × Byte)}
    (away : k ≠ (s.crew crew).cluster ∨ ∀ e ∈ ws, scratchAddr s crew e.1 ≠ x) :
    memGet ((scratchPut s crew ws).cluster k).sram x = memGet (s.cluster k).sram x := by
  by_cases same : k = (s.crew crew).cluster
  · subst same
    by_cases inside : (s.crew crew).cluster < s.clusters.length
    · rw [scratchPut_memGet inv inside]
      refine lastAt_of_forall_ne (fun w m => ?_) _
      obtain ⟨e, he, rfl⟩ := List.mem_map.1 m
      exact away.resolve_left (fun ne => ne rfl) e he
    · rw [scratchPut, cluster_mapCluster, if_neg fun both => inside both.2]
  · rw [scratchPut, cluster_mapCluster_other _ _ same]

/-- A byte of a crew's scratchpad after writes to it that no other byte of it shares its place with. -/
theorem scratchPut_scratchByte {s : State} (inv : MemInv s) {crew : Nat} (inside : (s.crew crew).cluster < s.clusters.length)
    {ws : List (Nat × Byte)} {a : Nat} (apart : ∀ w ∈ ws, scratchAddr s crew w.1 = scratchAddr s crew a → w.1 = a) :
    scratchByte (scratchPut s crew ws) crew a = lastAt ws a (scratchByte s crew a) := by
  rw [scratchByte, scratchPut_crew, scratchPut_scratchAddr, scratchPut_memGet inv inside, lastAt_map apart]
  rfl

/-- A word's bytes written to a crew's scratchpad. -/
theorem scratchPutNat_word (s : State) (crew o : Nat) (v : Word) : scratchPutNat s crew o v.toNat 4 =
    scratchPut s crew ((List.range 4).map fun i => (o + i, BitVec.ofNat 8 (v.toNat / 2 ^ (8 * i)))) := by
  unfold scratchPutNat
  congr 1
  refine List.map_congr_left fun i m => ?_
  rw [leBytes_getD _ _ _ (List.mem_range.1 m)]

/-- The four bytes of an aligned word have four places. -/
theorem scratchAddr_word {s : State} {crew x i j : Nat} (aligned : x % 4 = 0) (hi : i < 4) (hj : j < 4)
    (same : scratchAddr s crew (x + i) = scratchAddr s crew (x + j)) : i = j := by
  have bank : (x + i) / 65536 = (x + j) / 65536 := by omega
  have offset : (x + i) % 65536 = (x + j) % 65536 := by
    unfold scratchAddr Config.bankBytes at same
    rw [bank] at same
    omega
  omega

/-- An aligned word written to a crew's scratchpad reads as written. -/
theorem scratchNat_scratchPutNat {s : State} (inv : MemInv s) {crew x : Nat} (inside : (s.crew crew).cluster < s.clusters.length)
    (aligned : x % 4 = 0) (v : Word) : scratchNat (scratchPutNat s crew x v.toNat 4) crew x 4 = v.toNat := by
  refine leNat_word fun i hi => ?_
  rw [scratchPutNat_word, scratchPut_scratchByte inv inside, lastAt_run, if_pos (by omega), Nat.add_sub_cancel_left]
  intro w m same
  obtain ⟨j, hj, rfl⟩ := List.mem_map.1 m
  rw [scratchAddr_word aligned (List.mem_range.1 hj) hi same]

end Sys2Proof.Machine
end

section
/-!
Atomics complete (O20; spec 06 R175 to R179).
-/

namespace Sys2Proof.Machine

/-! ## Poisoned lanes (R403) -/

theorem poisonTrap_sound (c : Iss) (addr : Nat → Nat) {bad : List Nat} (none : bad = []) : c.poisonTrap addr bad = .ok () := by
  rw [none]
  rfl

theorem poisonTrap_poisoned (c : Iss) (addr : Nat → Nat) {bad : List Nat} (poisoned : bad ≠ []) : c.poisonTrap addr bad =
    .error { cause := 0x15, val := .addrs ((List.range 32).map addr), lanes := some (maskWhere bad.contains) } := by
  cases bad with
  | nil => exact absurd rfl poisoned
  | cons b bs => rfl

/-- The results of an instruction that poison may stop. -/
theorem execute_poisoned {s : State} {c : Iss} {f : Form} {body : Iss → Res} {addr : Nat → Nat} {bad : List Nat} {k : Unit → Res}
    (h : Issues s c f) (poisoned : bad ≠ []) (hb : body c = c.poisonTrap addr bad >>= k) : execute s f body =
    traps s c { cause := 0x15, val := .addrs ((List.range 32).map addr), lanes := some (maskWhere bad.contains) } :=
  execute_error h (by rw [hb, poisonTrap_poisoned c addr poisoned]; rfl)

/-! ## Global atomics (R175 to R178) -/

section
variable {s : State} {c : Iss} {op : AtomOp} {d : Dst} {a : Nat} {b : AtomData} {sc : Nat}

theorem atom_idle (idle : c.em = 0#32) : c.atom s op d a b sc = .ok (c.complete s c.warp) := if_pos idle

variable (active : c.em ≠ 0#32)
include active

theorem atom_unusable (bad : ¬ c.scopeOk s sc = true) : c.atom s op d a b sc = .error { cause := 0x10 } := by
  unfold Iss.atom
  rw [if_neg active, if_pos (by simpa using bad)]
  rfl

variable (ok : c.scopeOk s sc = true)
include ok

/-- An atomic at a usable scope checks its lanes, waits for peers, and is then performed. -/
theorem atom_checked : c.atom s op d a b sc = (do
    c.checkAccess s .global .both 4 (c.address a .z)
    match c.waitRemote s (c.address a .z) (fun l => c.byteAddrs .global 4 l (c.address a .z l)) with
    | some t => return t
    | none =>
      let r := c.atomLanes s ((c.scopeAt s sc).onlyHome c.cluster) (c.address a .z) fun l old =>
        atomNew op old (c.atomWords b l).1 (c.atomWords b l).2
      match d with
      | .z => return c.complete (c.external r.1) c.warp
      | .win _ => do
        c.poisonTrap (c.address a .z) r.2.2
        c.result (c.external r.1) false d false (oldValues r.2.1)) := by
  have usable : ¬ (!c.scopeOk s sc) = true := by simp [ok]
  exact (if_neg active).trans ((if_neg usable).trans rfl)

theorem atom_fails {t : Trap} (fails : c.checkAccess s .global .both 4 (c.address a .z) = .error t) :
    c.atom s op d a b sc = .error t := by
  rw [atom_checked active ok, fails]
  rfl

theorem atom_waits {t : State} (passes : c.checkAccess s .global .both 4 (c.address a .z) = .ok ())
    (waits : c.waitRemote s (c.address a .z) (fun l => c.byteAddrs .global 4 l (c.address a .z l)) = some t) :
    c.atom s op d a b sc = .ok t := by
  rw [atom_checked active ok, passes, waits]
  rfl

variable (reaches : Reaches s c .global .both 4 (c.address a .z))
include reaches

theorem atom_z : c.atom s op .z a b sc = .ok (c.complete (c.external
    (c.atomLanes s ((c.scopeAt s sc).onlyHome c.cluster) (c.address a .z) fun l old =>
      atomNew op old (c.atomWords b l).1 (c.atomWords b l).2).1) c.warp) := by
  rw [atom_checked active ok, reaches.1, reaches.2]
  rfl

theorem atom_win (written : d ≠ .z) : c.atom s op d a b sc =
    let r := c.atomLanes s ((c.scopeAt s sc).onlyHome c.cluster) (c.address a .z) fun l old =>
      atomNew op old (c.atomWords b l).1 (c.atomWords b l).2
    c.poisonTrap (c.address a .z) r.2.2 >>= fun _ => c.result (c.external r.1) false d false (oldValues r.2.1) := by
  rw [atom_checked active ok, reaches.1, reaches.2]
  cases d with
  | z => exact absurd rfl written
  | win n => rfl

end

theorem atomic_completes {i : Instr} {op : AtomOp} {d : Dst} {a : Nat} {b : AtomData} {sc : Nat}
    (runs : ∀ s, exec i s = atomic s op d a b sc) : AtomicCompletes i op d a b sc := by
  intro s c h
  simp only [runs]
  have only := atomLanes_only c s ((c.scopeAt s sc).onlyHome c.cluster) (c.address a .z) fun l old =>
    atomNew op old (c.atomWords b l).1 (c.atomWords b l).2
  refine ⟨fun idle => ?_, fun active bad => ?_, fun active ok t fails => ?_, fun active ok passes t waits => ?_, fun active ok reaches =>
    ⟨fun z => ?_, fun written poisoned => ?_, fun written sound => ⟨oldValues _, _, rfl, fun l hl => vec_lane _ hl, ?_, rfl⟩⟩⟩
  · exact congrArg (latching s sc) (execute_complete h (atom_idle idle))
  · exact congrArg (latching s sc) (execute_error h (atom_unusable active bad))
  · exact congrArg (latching s sc) (execute_error h (atom_fails active ok fails))
  · exact congrArg (latching s sc) (execute_ok h (atom_waits active ok passes waits))
  · subst z
    exact congrArg (latching s sc) (execute_completeIn h only.warps only.clk (atom_z active ok reaches))
  · exact congrArg (latching s sc) (execute_poisoned h poisoned (atom_win active ok reaches written))
  · refine result_yieldsFrom h (fun u => absurd u Bool.false_ne_true) only.warps only.clk ((atom_win active ok reaches written).trans ?_)
    dsimp only
    rw [poisonTrap_sound c _ sound]
    rfl

/-! ## Scratchpad atomics (R179) -/

theorem atomsLanes_only (c : Iss) (s : State) (addr : Nat → Nat) (f : Nat → Word → Word) : MemoryOnly s (c.atomsLanes s addr f).1 :=
  MemoryOnly.foldl (p := Prod.fst) (fun acc _ => scratchPut_only acc.1 _ _) _ (s, [])

theorem scratchAtomic_completes {i : Instr} {op : AtomOp} {nw : Bool} {d : Dst} {a : Src} {b : AtomData}
    (runs : ∀ s, exec i s = scratchAtomic s op nw d a b) : ScratchAtomicCompletes i op nw d a b := by
  intro s c h
  simp only [runs]
  have only := atomsLanes_only c s (c.scratchOffset a) fun l old => atomNew op old (c.atomWords b l).1 (c.atomWords b l).2
  refine ⟨fun idle => execute_complete h (if_pos idle), fun active t fails => execute_error h ?_, fun active passes =>
    ⟨fun z => ?_, fun written poisoned => ?_, fun written sound => ⟨oldValues _, rfl, fun l hl => vec_lane _ hl, ?_⟩⟩⟩
  · simp only [if_neg active, fails]
    rfl
  · subst z
    refine execute_completeIn h only.warps only.clk ?_
    simp only [if_neg active, passes]
    rfl
  · refine execute_poisoned h poisoned (k := fun _ => c.result (c.external (c.atomsLanes s (c.scratchOffset a) fun l old =>
      atomNew op old (c.atomWords b l).1 (c.atomWords b l).2).1) nw d false (oldValues (c.atomsLanes s (c.scratchOffset a) fun l old =>
      atomNew op old (c.atomWords b l).1 (c.atomWords b l).2).2)) ?_
    simp only [if_neg active, passes]
    cases d with
    | z => exact absurd rfl written
    | win n => rfl
  · refine result_yieldsFrom h (fun u => absurd u Bool.false_ne_true) only.warps only.clk ?_
    simp only [if_neg active, passes, poisonTrap_sound c _ sound]
    cases d with
    | z => exact absurd rfl written
    | win n => rfl

/-- The one lane of a mask. -/
theorem lanesOf_oneLane {l : Nat} (hl : l < 32) : lanesOf (BitVec.ofNat 32 (2 ^ l)) = [l] := by
  have : ∀ k : Fin 32, lanesOf (BitVec.ofNat 32 (2 ^ k.val)) = [k.val] := by decide
  exact this ⟨l, hl⟩

theorem atomsLanes_one {s : State} {c : Iss} {l x : Nat} {f : Nat → Word → Word} (one : c.em = BitVec.ofNat 32 (2 ^ l)) (hl : l < 32) :
    c.atomsLanes s (fun _ => x) f =
      (scratchPutNat s (s.crewNo c.warp) x (f l (BitVec.ofNat 32 (scratchNat s (s.crewNo c.warp) x 4))).toNat 4,
        [(l, BitVec.ofNat 32 (scratchNat s (s.crewNo c.warp) x 4))]) := by
  unfold Iss.atomsLanes
  rw [one, lanesOf_oneLane hl]
  rfl

/-- Settles O20: each word is one of two bodies, and one lane's scratchpad atomic reads and writes its word. -/
theorem atomicsComplete : Obligations.AtomicsComplete := by
  unfold Obligations.AtomicsComplete
  refine ⟨fun d a n b sc => ?_, fun nw d a n b => ?_⟩
  · exact ⟨atomic_completes fun _ => rfl, atomic_completes fun _ => rfl, atomic_completes fun _ => rfl, atomic_completes fun _ => rfl,
      atomic_completes fun _ => rfl, atomic_completes fun _ => rfl, atomic_completes fun _ => rfl, atomic_completes fun _ => rfl,
      atomic_completes fun _ => rfl, atomic_completes fun _ => rfl, atomic_completes fun _ => rfl, atomic_completes fun _ => rfl,
      atomic_completes fun _ => rfl, atomic_completes fun _ => rfl, atomic_completes fun _ => rfl, atomic_completes fun _ => rfl⟩
  · refine ⟨scratchAtomic_completes fun _ => rfl, scratchAtomic_completes fun _ => rfl, scratchAtomic_completes fun _ => rfl,
      scratchAtomic_completes fun _ => rfl, scratchAtomic_completes fun _ => rfl, scratchAtomic_completes fun _ => rfl,
      scratchAtomic_completes fun _ => rfl, scratchAtomic_completes fun _ => rfl, scratchAtomic_completes fun _ => rfl,
      scratchAtomic_completes fun _ => rfl, scratchAtomic_completes fun _ => rfl, scratchAtomic_completes fun _ => rfl,
      scratchAtomic_completes fun _ => rfl, scratchAtomic_completes fun _ => rfl, ?_⟩
    intro s c l x f inv one hl inside aligned crew r
    have runs : r = _ := atomsLanes_one one hl
    rw [runs]
    exact ⟨rfl, scratchNat_scratchPutNat inv inside aligned _⟩

end Sys2Proof.Machine
end

section
/-!
Phase boundaries begin (O21; spec 06 R180, 09 R255, 21 R389).
-/

namespace Sys2Proof.Machine

/-! ## What an instruction with a scope index keeps (R255, R389) -/

theorem setSplit_self {y : Warp} {sp : Nat} {q : Split} (h : y.split? sp = some q) : y.setSplit sp (some q) = y := by
  obtain rfl | rfl := split?_some h
  · rw [split?_zero] at h
    rw [← h]
    rfl
  · rw [split?_one] at h
    rw [← h]
    rfl

theorem withWarp_self {s : State} {w : Nat} {x : Warp} (h : s.warps[w]? = some x) : s.withWarp w x = s := by
  obtain ⟨inside, rfl⟩ := List.getElem?_eq_some_iff.1 h
  rw [State.withWarp, List.set_getElem_self]

section
variable {s u : State} {c : Iss} {y : Warp} {q : Split} (issues : issuing s = some c) (hw : u.warps[c.w]? = some y)
  (hq : y.split? c.sp = some q) (sc : Nat)
include issues hw hq

theorem latching_next : latching s sc (.next u) = .next (u.withWarp c.w (y.setSplit c.sp
    (some (q.latch c.split.pc sc (latchScope s c.cluster (s.ctxOf c.warp) sc))))) := by
  unfold latching
  rw [issues]
  dsimp only
  rw [mapWarp_withWarp hw, Warp.mapSplit, hq]
  rfl

theorem latching_moves (moves : ¬ (q.pc = c.split.pc ∧ q.park ≠ .no)) : latching s sc (.next u) = .next u := by
  have same : q.latch c.split.pc sc (latchScope s c.cluster (s.ctxOf c.warp) sc) = q := if_neg (by simpa using moves)
  rw [latching_next issues hw hq, same, setSplit_self hq, withWarp_self hw]

theorem latching_stays (stays : q.pc = c.split.pc ∧ q.park ≠ .no) {h : Held} (held : q.held = some h) :
    ∃ z, latching s sc (.next u) = .next (u.withWarp c.w z) ∧ z.split? c.sp = some { q with held := some { h with
      scope := some (h.scope.getD (sc, if 5 ≤ sc then heldScope s c.cluster (s.ctxOf c.warp) sc else [])) } } ∧
      z.split? (otherSlot c.sp) = y.split? (otherSlot c.sp) ∧ { z with split0 := y.split0, split1 := y.split1 } = y := by
  have slot := split?_some hq
  have words : latchScope s c.cluster (s.ctxOf c.warp) sc = if 5 ≤ sc then heldScope s c.cluster (s.ctxOf c.warp) sc else [] := by
    unfold latchScope
    by_cases driver : 5 ≤ sc
    · rw [if_pos driver, if_neg (by omega)]
    · rw [if_neg driver, if_pos (by omega)]
  have kept : q.latch c.split.pc sc (latchScope s c.cluster (s.ctxOf c.warp) sc) = { q with held := some { h with
      scope := some (h.scope.getD (sc, if 5 ≤ sc then heldScope s c.cluster (s.ctxOf c.warp) sc else [])) } } := by
    refine (if_pos (by simpa using stays)).trans ?_
    rw [held, words]
    cases e : h.scope <;> simp [e]
  refine ⟨_, latching_next issues hw hq sc, ?_, split?_setSplit_other y (otherSlot_ne slot).1 _, ?_⟩
  · rw [split?_setSplit_same y slot, kept]
  · obtain at0 | at1 := slot
    · rw [at0]
      rfl
    · rw [at1]
      rfl

end

theorem scopeAt_first {s : State} {c : Iss} (first : c.latched = none) (sc : Nat) :
    c.scopeAt s sc = scopeOf s c.cluster (s.ctxOf c.warp) sc := by
  unfold Iss.scopeAt
  rw [first]

theorem scopeOk_first {s : State} {c : Iss} (first : c.latched = none) (sc : Nat) :
    c.scopeOk s sc = true ↔ (c.scopeAt s sc).usable = true := by
  unfold Iss.scopeOk
  rw [first]
  rfl

theorem scopeAt_latched {s : State} {c : Iss} {ws : List Word} (latched : c.latched = some ws) {sc : Nat} (driver : 5 ≤ sc) :
    c.scopeAt s sc = scopeOfWords (s.ctx (s.ctxOf c.warp)) ws := by
  unfold Iss.scopeAt
  rw [latched]
  exact if_neg (by omega)

theorem scopeOk_latched {s : State} {c : Iss} {ws : List Word} (latched : c.latched = some ws) (sc : Nat) : c.scopeOk s sc = true := by
  unfold Iss.scopeOk
  rw [latched]
  rfl

/-! ## A boundary (R180) -/

section
variable {s : State} {c : Iss} {sc : Nat} {rel acq : Bool} (h : Issues s c { ext := .none })
include h

theorem boundary_unusable (bad : ¬ c.scopeOk s sc = true) : boundary s sc rel acq = latching s sc (traps s c { cause := 0x10 }) := by
  unfold boundary
  refine congrArg (latching s sc) (execute_error h ?_)
  rw [if_pos (by simpa using bad)]
  rfl

variable (ok : c.scopeOk s sc = true)
include ok

theorem boundary_older (older : c.warp.accessOpen (.slot c.sp) = true) :
    boundary s sc rel acq = latching s sc (parksAs s c .older) := by
  unfold boundary
  refine congrArg (latching s sc) (execute_park h rfl ?_)
  rw [if_neg (by simp [ok]), if_pos older]

variable (alone : c.warp.accessOpen (.slot c.sp) = false)
include alone

theorem boundary_atOnce (home : (c.scopeAt s sc).onlyHome c.cluster = true) : boundary s sc rel acq =
    latching s sc (switchesIn s (if rel then c.external s else s) c c.warp (c.split.pc + 4)) := by
  have warps : (if rel then c.external s else s).warps = s.warps := by cases rel <;> rfl
  have clk : (if rel then c.external s else s).clk = s.clk := by cases rel <;> rfl
  unfold boundary
  refine congrArg (latching s sc) (execute_switch h warps clk ?_)
  rw [if_neg (by simp [ok]), if_neg (by simp [alone]), if_pos home]

variable (wide : (c.scopeAt s sc).onlyHome c.cluster = false)
include wide

theorem boundary_acquires : boundary s sc false true = latching s sc (parksAs s c (.boundary false true 0 0)) := by
  unfold boundary
  refine congrArg (latching s sc) (execute_park h rfl ?_)
  rw [if_neg (by simp [ok]), if_neg (by simp [alone]), if_neg (by simp [wide])]
  rfl

theorem boundary_releases : boundary s sc true acq =
    let r := release (c.external s) c.cluster (c.scopeAt s sc) (some (whoIs s c.warp 1))
    latching s sc (parksIn s r.1 c (.boundary true acq r.2.1 r.2.2)) := by
  have only := release_only (c.external s) c.cluster (c.scopeAt s sc) (some (whoIs s c.warp 1))
  unfold boundary
  refine congrArg (latching s sc) (execute_park h only.warps ?_)
  rw [if_neg (by simp [ok]), if_neg (by simp [alone]), if_neg (by simp [wide])]
  rfl

end

/-- Settles O21: the boundary by what stops it, by whom its scope names, and by what it keeps when it parks. -/
theorem boundariesBegin : Obligations.BoundariesBegin := by
  unfold Obligations.BoundariesBegin
  intro s c sc h
  refine ⟨fun bad => ⟨boundary_unusable h bad, boundary_unusable h bad, boundary_unusable h bad⟩,
    fun ok older => ⟨boundary_older h ok older, boundary_older h ok older, boundary_older h ok older⟩,
    fun ok alone home => ⟨boundary_atOnce h ok alone home, boundary_atOnce h ok alone home, boundary_atOnce h ok alone home⟩,
    fun ok alone wide => ⟨boundary_releases h ok alone wide, boundary_acquires h ok alone wide, boundary_releases h ok alone wide⟩,
    fun first => ⟨scopeAt_first first sc, scopeOk_first first sc⟩,
    fun ws latched driver => ⟨scopeAt_latched latched driver, scopeOk_latched latched sc⟩,
    fun u y q hw hq => ⟨latching_moves h.1 hw hq sc, fun stays held keeps => latching_stays h.1 hw hq sc stays keeps⟩⟩

end Sys2Proof.Machine
end

section
/-!
Which access fails which check (O14; spec 06 R167 to R171, 07 R211, 08 R230, 19 R359, 21 R394, 22 R411).
-/

namespace Sys2Proof.Machine

/-! ## The first of some failures -/

/-- `o` is the least number that `p` holds of, if it holds of any. -/
structure FirstOf (p : Nat → Prop) (o : Option Nat) : Prop where
  never : o = none → ∀ j, ¬ p j
  holds : ∀ j, o = some j → p j
  least : ∀ j, o = some j → ∀ i, i < j → ¬ p i

namespace FirstOf

theorem congr {p q : Nat → Prop} {o : Option Nat} (h : FirstOf p o) (same : ∀ j, p j ↔ q j) : FirstOf q o := by
  obtain rfl : p = q := funext fun j => propext (same j)
  exact h

theorem eq_none {p : Nat → Prop} {o : Option Nat} (h : FirstOf p o) (none : ∀ j, ¬ p j) : o = .none := by
  cases e : o with
  | none => rfl
  | some j => exact absurd (h.holds j e) (none j)

theorem eq_some {p : Nat → Prop} {o : Option Nat} {j : Nat} (h : FirstOf p o) (now : p j) (before : ∀ i, i < j → ¬ p i) : o = some j := by
  cases e : o with
  | none => exact absurd now (h.never e j)
  | some i =>
    rcases Nat.lt_trichotomy i j with lt | rfl | gt
    · exact absurd (h.holds i e) (before i lt)
    · rfl
    · exact absurd now (h.least i e j gt)

theorem none : FirstOf (fun _ => False) .none := ⟨fun _ _ => id, nofun, nofun⟩

/-- The number `n` alone, if a condition holds. -/
theorem single (n : Nat) : FirstOf (fun j => j = n) (some n) :=
  ⟨nofun, fun _ e => (Option.some.inj e).symm, fun _ e i lt same => by cases e; omega⟩

/-- A condition that gives `n`, before failures with greater numbers. -/
theorem ite {q : Nat → Prop} {o : Option Nat} (h : FirstOf q o) {c : Prop} [Decidable c] {n : Nat} (after : ∀ j, q j → n < j) :
    FirstOf (fun j => (j = n ∧ c) ∨ q j) (if c then some n else o) := by
  by_cases hc : c
  · rw [if_pos hc]
    refine ⟨nofun, fun _ e => .inl ⟨(Option.some.inj e).symm, hc⟩, fun _ e i lt now => ?_⟩
    cases e
    rcases now with ⟨rfl, -⟩ | later
    · exact lt.false
    · exact Nat.lt_asymm lt (after i later)
  · rw [if_neg hc]
    exact h.congr fun j => ⟨.inr, fun now => now.resolve_left fun both => hc both.2⟩

theorem earlier {p q : Nat → Prop} {a b : Option Nat} (ha : FirstOf p a) (hb : FirstOf q b) :
    FirstOf (fun j => p j ∨ q j) (earlier a b) := by
  cases a with
  | none =>
    refine FirstOf.congr (p := q) ?_ fun j => ⟨.inr, fun now => now.resolve_left (ha.never rfl j)⟩
    cases b <;> exact hb
  | some x =>
    cases b with
    | none => exact ha.congr fun j => ⟨.inl, fun now => now.resolve_right (hb.never rfl j)⟩
    | some y =>
      refine ⟨nofun, fun j e => ?_, fun j e i lt now => ?_⟩
      · obtain rfl : min x y = j := Option.some.inj e
        rcases Nat.le_total x y with le | le
        · exact .inl ((Nat.min_eq_left le).symm ▸ ha.holds x rfl :)
        · exact .inr ((Nat.min_eq_right le).symm ▸ hb.holds y rfl :)
      · obtain rfl : min x y = j := Option.some.inj e
        exact now.elim (ha.least x rfl i (by omega)) (hb.least y rfl i (by omega))

/-- The earliest failure among some things. -/
theorem foldl {α : Type} {p : α → Nat → Prop} {f : α → Option Nat} : ∀ {xs : List α} {q : Nat → Prop} {o : Option Nat},
    (∀ x ∈ xs, FirstOf (p x) (f x)) → FirstOf q o →
    FirstOf (fun j => q j ∨ ∃ x ∈ xs, p x j) (xs.foldl (fun r x => Machine.earlier r (f x)) o)
  | [], _, _, _, ho => ho.congr fun j => by simp
  | x :: xs, _, _, h, ho =>
    (foldl (fun y m => h y (List.mem_cons_of_mem _ m)) (ho.earlier (h x (List.mem_cons_self ..)))).congr fun j => by
      simp [or_assoc]

/-- The earliest failure among some things, from the start. -/
theorem among {α : Type} {p : α → Nat → Prop} {f : α → Option Nat} {xs : List α} (h : ∀ x ∈ xs, FirstOf (p x) (f x)) :
    FirstOf (fun j => ∃ x ∈ xs, p x j) (xs.foldl (fun r x => Machine.earlier r (f x)) .none) :=
  (foldl h none).congr fun j => by simp

end FirstOf

/-! ## The checks of a page (checks 4 to 7 of R169) -/

/-- An access of a kind to the byte at `va`, whose page was found as `w`, fails check `j`, 4 to 7. -/
def Iss.WalkFails (c : Iss) (s : State) (kind : Access) (w : Walk) (j va : Nat) : Prop :=
  let cx := s.ctxOf c.warp
  let reads := kind = .read ∨ kind = .both
  let writes := kind = .write ∨ kind = .both
  let on := fun (p : Leaf → Prop) => ∃ f, w = .leaf f ∧ f.cls ≠ 4 ∧ p f
  (j = 4 ∧ ∀ f, w ≠ .leaf f) ∨
  (j = 5 ∧ on fun f => (reads ∧ f.rd = false) ∨ (writes ∧ f.wr = false)) ∨
  (j = 6 ∧ on fun f => (reads ∧ c.warp.pkr.testBit (2 * f.key) = false) ∨ (writes ∧ c.warp.pkr.testBit (2 * f.key + 1) = false)) ∨
  (j = 7 ∧ on fun f =>
    let region := ∃ k, homeOf ((s.ctx cx).placement va) va = .stack k ∧
      secureAddr s k (physAddr ((s.ctx cx).placement va) f va % 2 ^ 36) = true
    if (s.ctx cx).flags.testBit 2 then ¬ (f.world = true ↔ region) else f.world = true ∨ region)

/-- The byte at `va` fails check `j`, 4 to 7, of an access of a kind. -/
def Iss.LeafFails (c : Iss) (s : State) (kind : Access) (j va : Nat) : Prop :=
  c.WalkFails s kind (accessLeaf s c.cluster (s.ctxOf c.warp) va) j va

theorem bitsN_testBit (v i : Nat) : (bitsN v i 1 == 1) = v.testBit i := by
  rw [Nat.testBit_eq_decide_div_mod_eq, Bool.eq_iff_iff, beq_iff_eq, decide_eq_true_iff]
  rfl

theorem allows_false {l : Leaf} {kind : Access} (data : kind ≠ .execute) : l.allows kind = false ↔
    ((kind = .read ∨ kind = .both) ∧ l.rd = false) ∨ ((kind = .write ∨ kind = .both) ∧ l.wr = false) := by
  cases kind with
  | read => simp [Leaf.allows]
  | write => simp [Leaf.allows]
  | both => cases h : l.rd <;> simp [Leaf.allows, h]
  | execute => exact absurd rfl data

theorem keyOk_false {pkr key : Nat} {kind : Access} (data : kind ≠ .execute) : keyOk pkr key kind = false ↔
    ((kind = .read ∨ kind = .both) ∧ pkr.testBit (2 * key) = false) ∨ ((kind = .write ∨ kind = .both) ∧ pkr.testBit (2 * key + 1) = false) := by
  unfold keyOk
  simp only [bitsN_testBit]
  cases kind with
  | read => simp
  | write => simp
  | both => cases pkr.testBit (2 * key) <;> simp
  | execute => exact absurd rfl data

/-- The address of a leaf lies in a region of the secure world. -/
def secureRegion (s : State) (pl va : Nat) (l : Leaf) : Bool :=
  match homeOf pl va with
  | .stack k => secureAddr s k (physAddr pl l va % 2 ^ 36)
  | _ => false

theorem secureRegion_iff (s : State) (pl va : Nat) (l : Leaf) :
    secureRegion s pl va l = true ↔ ∃ k, homeOf pl va = .stack k ∧ secureAddr s k (physAddr pl l va % 2 ^ 36) = true := by
  unfold secureRegion
  cases homeOf pl va <;> simp

theorem worldOk_false (s : State) (cx va : Nat) (l : Leaf) : worldOk s cx l va = false ↔
    let region := ∃ k, homeOf ((s.ctx cx).placement va) va = .stack k ∧
      secureAddr s k (physAddr ((s.ctx cx).placement va) l va % 2 ^ 36) = true
    if (s.ctx cx).flags.testBit 2 then ¬ (l.world = true ↔ region) else l.world = true ∨ region := by
  have table : worldOk s cx l va = if (s.ctx cx).flags.testBit 2 then l.world == secureRegion s ((s.ctx cx).placement va) va l
      else !l.world && !secureRegion s ((s.ctx cx).placement va) va l := by
    rw [← bitsN_testBit]
    rfl
  rw [table]
  simp only [← secureRegion_iff]
  cases (s.ctx cx).flags.testBit 2 <;> cases l.world <;> cases secureRegion s ((s.ctx cx).placement va) va l <;> decide

theorem walkFails_first (s : State) (c : Iss) {kind : Access} (data : kind ≠ .execute) (w : Walk) (va : Nat) :
    FirstOf (fun j => c.WalkFails s kind w j va) (leafCheck s (s.ctxOf c.warp) c.warp.pkr kind va w) := by
  unfold Iss.WalkFails leafCheck
  cases w with
  | absent => exact (FirstOf.single 4).congr fun j => by simp
  | malformed pa lev e => exact (FirstOf.single 4).congr fun j => by simp
  | leaf l =>
    by_cases peer : l.cls = 4
    · dsimp only
      rw [if_pos peer]
      exact FirstOf.none.congr fun j => by simp [peer]
    · dsimp only
      rw [if_neg peer]
      refine (((FirstOf.none.ite (n := 7) (c := (!worldOk s (s.ctxOf c.warp) l va) = true) fun _ => False.elim).ite (n := 6)
        (c := (!keyOk c.warp.pkr l.key kind) = true) ?_).ite (n := 5) (c := (!l.allows kind) = true) ?_).congr fun j => ?_
      · simp
      · rintro j (⟨rfl, -⟩ | ⟨rfl, -⟩ | impossible)
        · decide
        · decide
        · exact impossible.elim
      · simp only [Bool.not_eq_true', or_false, allows_false data, keyOk_false data, worldOk_false]
        simp [peer]

theorem leafCheck_first (s : State) (c : Iss) {kind : Access} (data : kind ≠ .execute) (va : Nat) :
    FirstOf (fun j => c.LeafFails s kind j va)
      (leafCheck s (s.ctxOf c.warp) c.warp.pkr kind va (accessLeaf s c.cluster (s.ctxOf c.warp) va)) :=
  walkFails_first s c data _ va

/-! ## The checks of a lane (R169, R171) -/

/-- Where the byte `a` of a lane's access lies. -/
def Iss.placeOf (c : Iss) (k : Space) (l a : Nat) : Nat :=
  match k with
  | .global => a
  | .priv => privateAddr c.warp l a

/-- Lane `l`'s access fails check `j`. -/
def Iss.LaneFails (c : Iss) (s : State) (k : Space) (kind : Access) (n : Nat) (addr : Nat → Nat) (j l : Nat) : Prop :=
  (j = 1 ∧ 2 ^ 56 ≤ c.placeOf k l (addr l)) ∨ (j = 2 ∧ addr l % n ≠ 0) ∨
  (j = 3 ∧ k = .priv ∧ (s.launchOf c.warp).private_ < addr l + n) ∨ ∃ i, i < n ∧ c.LeafFails s kind j (c.placeOf k l (addr l + i))

theorem byteAddrs_eq (c : Iss) (k : Space) (n l a : Nat) : c.byteAddrs k n l a = (List.range n).map fun i => c.placeOf k l (a + i) := by
  cases k <;> rfl

theorem leafFails_range {c : Iss} {s : State} {kind : Access} {j va : Nat} (h : c.LeafFails s kind j va) : 4 ≤ j ∧ j ≤ 7 := by
  rcases h with ⟨rfl, -⟩ | ⟨rfl, -⟩ | ⟨rfl, -⟩ | ⟨rfl, -⟩ <;> decide

theorem firstFailure_first (s : State) (c : Iss) (k : Space) {kind : Access} (data : kind ≠ .execute) (n l : Nat) (addr : Nat → Nat) :
    FirstOf (fun j => c.LaneFails s k kind n addr j l) (c.firstFailure s k kind n l (addr l)) := by
  have page : FirstOf (fun j => ∃ va ∈ c.byteAddrs k n l (addr l), c.LeafFails s kind j va) _ :=
    FirstOf.among fun va _ => leafCheck_first s c data va
  have bytes : ∀ j, (∃ va ∈ c.byteAddrs k n l (addr l), c.LeafFails s kind j va) ↔
      ∃ i, i < n ∧ c.LeafFails s kind j (c.placeOf k l (addr l + i)) := fun j => by simp [byteAddrs_eq]
  have chain := (((page.congr bytes).ite (n := 3) (c := k = .priv ∧ (s.launchOf c.warp).private_ < addr l + n)
    fun j ⟨_, _, fails⟩ => (leafFails_range fails).1).ite (n := 2) (c := addr l % n ≠ 0) ?_).ite (n := 1)
    (c := 2 ^ 56 ≤ c.placeOf k l (addr l)) ?_
  · cases k <;> exact chain
  · rintro j (⟨rfl, -⟩ | ⟨_, _, fails⟩)
    · decide
    · exact Nat.lt_of_lt_of_le (by decide) (leafFails_range fails).1
  · rintro j (⟨rfl, -⟩ | ⟨rfl, -⟩ | ⟨_, _, fails⟩)
    · decide
    · decide
    · exact Nat.lt_of_lt_of_le (by decide) (leafFails_range fails).1

/-- The cause that check `j`, 1 to 7, raises. -/
theorem checkCause_table {j : Nat} (h : 1 ≤ j ∧ j ≤ 7) : checkCause j = [0, 0x1A, 0x09, 0x0B, 0x0A, 0x0B, 0x0C, 0x0D].getD j 0 := by
  obtain ⟨h1, h7⟩ := h
  interval_cases j <;> rfl

section
variable {c : Iss} {fails : Nat → Nat → Prop} {bad : Nat → Option Nat} {shown : Nat → Nat} {post : Nat → Mask → Option State}
  (first : ∀ l, FirstOf (fun j => fails j l) (bad l)) (range : ∀ j l, fails j l → 1 ≤ j ∧ j ≤ 7)

theorem lanes_exists {p : Nat → Prop} : (∃ l ∈ lanesOf c.em, p l) ↔ ∃ l, l < 32 ∧ c.em.getLsbD l = true ∧ p l := by
  simp [mem_lanesOf, and_assoc]

include first

/-- No lane fails, and so none traps. -/
theorem laneTrap_passes (none : ∀ j, ¬ ∃ l, l < 32 ∧ c.em.getLsbD l = true ∧ fails j l) : c.laneTrap bad shown post = .ok () := by
  have all := (FirstOf.among fun l (_ : l ∈ lanesOf c.em) => first l).eq_none fun j some => none j (lanes_exists.1 some)
  unfold Iss.laneTrap
  rw [all]

include range

/-- The trap of the first check that any lane fails. -/
theorem laneTrap_fails {j : Nat} (some_ : ∃ l, l < 32 ∧ c.em.getLsbD l = true ∧ fails j l)
    (before : ∀ i, i < j → ¬ ∃ l, l < 32 ∧ c.em.getLsbD l = true ∧ fails i l) : ∃ (m : Mask) (as : List Nat),
    (∀ l, l < 32 → (m.getLsbD l = true ↔ c.em.getLsbD l = true ∧ fails j l) ∧ as.getD l 0 = shown l) ∧
    c.laneTrap bad shown post = .error
      { cause := [0, 0x1A, 0x09, 0x0B, 0x0A, 0x0B, 0x0C, 0x0D].getD j 0, val := .addrs as, lanes := some m, base := post j m } := by
  have all := (FirstOf.among fun l (_ : l ∈ lanesOf c.em) => first l).eq_some (lanes_exists.2 some_)
    fun i lt some => before i lt (lanes_exists.1 some)
  obtain ⟨k, -, -, now⟩ := some_
  refine ⟨maskWhere fun l => c.em.getLsbD l && bad l == some j, (List.range 32).map shown, fun l hl => ⟨?_, by simp [hl]⟩, ?_⟩
  · rw [maskWhere_bit _ hl, Bool.and_eq_true, beq_iff_eq]
    refine and_congr_right fun on => ⟨(first l).holds j, fun fail => (first l).eq_some fail fun i lt other => ?_⟩
    exact before i lt ⟨l, hl, on, other⟩
  · unfold Iss.laneTrap
    rw [all, ← checkCause_table (range j k now)]

end

theorem laneFails_range {c : Iss} {s : State} {k : Space} {kind : Access} {n : Nat} {addr : Nat → Nat} {j l : Nat}
    (h : c.LaneFails s k kind n addr j l) : 1 ≤ j ∧ j ≤ 7 := by
  rcases h with ⟨rfl, -⟩ | ⟨rfl, -⟩ | ⟨rfl, -⟩ | ⟨_, _, fails⟩
  · decide
  · decide
  · decide
  · exact ⟨Nat.le_trans (by decide) (leafFails_range fails).1, (leafFails_range fails).2⟩

/-- Lane `l`'s access to a scratchpad of `size` bytes fails check `j`. -/
def ScratchFails (size n : Nat) (addr : Nat → Nat) (j l : Nat) : Prop := (j = 2 ∧ addr l % n ≠ 0) ∨ (j = 3 ∧ size < addr l + n)

theorem scratchFails_first (size n : Nat) (addr : Nat → Nat) (l : Nat) : FirstOf (fun j => ScratchFails size n addr j l)
    (if addr l % n ≠ 0 then some 2 else if size < addr l + n then some 3 else none) := by
  refine ((FirstOf.none.ite (n := 3) fun _ => False.elim).ite (n := 2) ?_).congr fun j => by simp [ScratchFails]
  rintro j (⟨rfl, -⟩ | impossible)
  · decide
  · exact impossible.elim

theorem scratchFails_range {size n : Nat} {addr : Nat → Nat} {j l : Nat} (h : ScratchFails size n addr j l) : 1 ≤ j ∧ j ≤ 7 := by
  rcases h with ⟨rfl, -⟩ | ⟨rfl, -⟩ <;> decide

/-! ## Rows (R211) -/

/-- A row of `r.2` bytes from `r.1` fails check `j`. -/
def Iss.RowFails (c : Iss) (s : State) (spad : Bool) (kind : Access) (j : Nat) (r : Nat × Nat) : Prop := r.2 ≠ 0 ∧
  if spad then j = 3 ∧ crewScratch s (s.crewNo c.warp) < r.1 + r.2
  else (j = 1 ∧ 2 ^ 56 < r.1 + r.2) ∨ ∃ va, r.1 ≤ va ∧ va < r.1 + r.2 ∧ (va = r.1 ∨ lineOf va = va) ∧ c.LeafFails s kind j va

/-- The first address of a row, and each line that begins in it. -/
theorem mem_lineParts {a n va : Nat} : va ∈ lineParts a n ↔ n ≠ 0 ∧ a ≤ va ∧ va < a + n ∧ (va = a ∨ lineOf va = va) := by
  unfold lineParts lineOf
  split
  · simp [*]
  · rename_i some
    simp only [List.mem_cons, List.mem_filter, List.mem_map, List.mem_range, decide_eq_true_iff]
    constructor
    · rintro (rfl | ⟨⟨i, below, rfl⟩, after⟩) <;> omega
    · rintro ⟨-, above, below, rfl | aligned⟩
      · exact .inl rfl
      · by_cases same : va = a
        · exact .inl same
        · exact .inr ⟨⟨va / 128 - a / 128, by omega, by omega⟩, by omega⟩

theorem failure_first (s : State) (c : Iss) (spad : Bool) {kind : Access} (data : kind ≠ .execute) (r : Nat × Nat) :
    FirstOf (fun j => c.RowFails s spad kind j r) ((c.agent s).failure s spad kind r.1 r.2) := by
  unfold Iss.RowFails Agent.failure
  by_cases empty : r.2 = 0
  · rw [if_pos empty]
    exact FirstOf.none.congr fun j => by simp [empty]
  · rw [if_neg empty]
    cases spad with
    | true => exact (FirstOf.none.ite (n := 3) fun _ => False.elim).congr fun j => by simp [empty, Iss.agent]
    | false =>
      have page : FirstOf (fun j => ∃ va ∈ lineParts r.1 r.2, c.LeafFails s kind j va) _ :=
        FirstOf.among fun va _ => leafCheck_first s c data va
      refine (page.ite (n := 1) (c := 2 ^ 56 < r.1 + r.2) fun j ⟨_, _, fails⟩ =>
        Nat.lt_of_lt_of_le (by decide) (leafFails_range fails).1).congr fun j => ?_
      simp [mem_lineParts, empty, and_assoc]

theorem rowFails_range {c : Iss} {s : State} {spad : Bool} {kind : Access} {j : Nat} {r : Nat × Nat} (h : c.RowFails s spad kind j r) :
    1 ≤ j ∧ j ≤ 7 := by
  obtain ⟨-, fails⟩ := h
  cases spad with
  | true =>
    obtain ⟨rfl, -⟩ := fails
    decide
  | false =>
    rcases fails with ⟨rfl, -⟩ | ⟨_, _, _, _, fails⟩
    · decide
    · exact ⟨Nat.le_trans (by decide) (leafFails_range fails).1, (leafFails_range fails).2⟩

section
variable {s : State} {c : Iss} {spad : Bool} {kind : Access} {rows : List (Nat × Nat)} (data : kind ≠ .execute)
include data

/-- The earliest failure among some rows. -/
theorem rows_first : FirstOf (fun j => ∃ r ∈ rows, c.RowFails s spad kind j r)
    ((rows.map fun r => (r.1, (c.agent s).failure s spad kind r.1 r.2)).foldl (fun r e => earlier r e.2) none) := by
  rw [List.foldl_map]
  exact FirstOf.among fun r _ => failure_first s c spad data r

theorem checkRows_passes (pass : ∀ j, ∀ r ∈ rows, ¬ c.RowFails s spad kind j r) : c.checkRows s spad kind rows = .ok () := by
  have all := (rows_first (s := s) (c := c) (spad := spad) (rows := rows) data).eq_none fun j ⟨r, m, fails⟩ => pass j r m fails
  unfold Iss.checkRows worstRow
  simp only [all]

/-- The trap of the first row that fails the first check that any row fails. -/
theorem checkRows_fails {j : Nat} {pre post : List (Nat × Nat)} {r : Nat × Nat} (split : rows = pre ++ r :: post)
    (now : c.RowFails s spad kind j r) (sooner : ∀ q ∈ pre, ¬ c.RowFails s spad kind j q)
    (before : ∀ i, i < j → ∀ q ∈ rows, ¬ c.RowFails s spad kind i q) : ∃ t, c.checkRows s spad kind rows = .error t ∧
    t.cause = [0, 0x1A, 0x09, 0x0B, 0x0A, 0x0B, 0x0C, 0x0D].getD j 0 ∧ t.val = .addrs (List.replicate 32 r.1) ∧ t.lanes = none ∧
      (j ≠ 4 → t.base = none) := by
  have mine : r ∈ rows := by simp [split]
  have all := (rows_first (s := s) (c := c) (spad := spad) (rows := rows) data).eq_some ⟨r, mine, now⟩
    fun i lt ⟨q, m, fails⟩ => before i lt q m fails
  have found : (rows.map fun q => (q.1, (c.agent s).failure s spad kind q.1 q.2)).find? (fun e => e.2 == some j) =
      some (r.1, (c.agent s).failure s spad kind r.1 r.2) := by
    have here : (c.agent s).failure s spad kind r.1 r.2 = some j :=
      (failure_first s c spad data r).eq_some now fun i lt => before i lt r mine
    have skip : (pre.map fun q => (q.1, (c.agent s).failure s spad kind q.1 q.2)).find? (fun e => e.2 == some j) = none := by
      rw [List.find?_eq_none]
      intro e m
      obtain ⟨q, hq, rfl⟩ := List.mem_map.1 m
      simpa using fun fails => sooner q hq ((failure_first s c spad data q).holds j fails)
    rw [split, List.map_append, List.find?_append, skip]
    simp [here]
  unfold Iss.checkRows worstRow
  simp only [all, found]
  exact ⟨_, rfl, checkCause_table (rowFails_range now), rfl, rfl, fun other => if_neg other⟩

end

/-! ## Peers in recovery (check 8, R411) -/

theorem remoteWait_iff (s : State) (k cx va p : Nat) : remoteWait s k cx va = some p ↔ l1Line? s k cx (lineOf va) = none ∧
    homeOf ((s.ctx cx).placement va) va = .peer p ∧ ∃ r ∈ s.fw.inRecovery, r.peer = p := by
  unfold remoteWait
  cases l1Line? s k cx (lineOf va) with
  | some x => simp
  | none =>
    cases homeOf ((s.ctx cx).placement va) va with
    | peer q =>
      by_cases recovering : s.fw.inRecovery.any fun r => r.peer == q
      · simp only [recovering, if_true]
        simp only [List.any_eq_true, beq_iff_eq] at recovering
        aesop
      · simp only [recovering]
        simp only [List.any_eq_true, beq_iff_eq] at recovering
        aesop
    | stack n => simp
    | hub => simp
    | reserved => simp

theorem postMalformed_sound {s : State} {cx : Nat} {vas : List Nat} (w : Who)
    (sound : ∀ va ∈ vas, ∀ pa lev e, translate s cx va ≠ .malformed pa lev e) : postMalformed s cx vas w = s := by
  unfold postMalformed
  dsimp only
  rw [List.filterMap_eq_nil_iff.2 fun va m => ?_]
  · rfl
  · cases e : translate s cx va with
    | leaf l => rfl
    | absent => rfl
    | malformed pa lev n => exact absurd e (sound va m pa lev n)

theorem nodup_eraseDups {α : Type} [BEq α] [LawfulBEq α] (xs : List α) : xs.eraseDups.Nodup := by
  induction hn : xs.length using Nat.strong_induction_on generalizing xs with
  | _ n ih =>
    cases xs with
    | nil => exact List.nodup_nil
    | cons a as =>
      rw [List.eraseDups_cons, List.nodup_cons]
      refine ⟨fun m => ?_, ih _ ?_ _ rfl⟩
      · simpa using List.mem_filter.1 (List.mem_eraseDups.1 m)
      · subst hn
        exact Nat.lt_succ_of_le (List.length_filter_le ..)

section
variable {es : List (Nat × Nat × Nat)} {w : PeerWait}

theorem peerWaits_peers (es : List (Nat × Nat × Nat)) : (peerWaits es).map PeerWait.peer = (es.map fun e => e.2.1).eraseDups := by
  unfold peerWaits
  rw [List.map_map]
  exact List.map_id _

/-- The entry of a peer: the lanes that wait for it, each with the address of its first wait. -/
theorem peerWaits_entry (m : w ∈ peerWaits es) : w.since = none ∧ ∀ l, l < 32 →
    (w.lanes.getLsbD l = true ↔ ∃ e ∈ es, e.1 = l ∧ e.2.1 = w.peer) ∧
    ∀ a, (∀ e ∈ es, e.1 = l → e.2.2 = a) → w.lanes.getLsbD l = true → w.addrs.getD l 0 = a := by
  obtain ⟨p, -, rfl⟩ := List.mem_map.1 m
  refine ⟨rfl, fun l hl => ⟨?_, fun a same on => ?_⟩⟩
  · rw [maskWhere_bit _ hl]
    simp [List.find?_isSome]
  · rw [maskWhere_bit _ hl] at on
    simp only [Option.isSome_map, Option.isSome_iff_exists] at on
    obtain ⟨e, found⟩ := on
    have lane : e.1 = l := by
      have := List.find?_some found
      simp only [Bool.and_eq_true, beq_iff_eq] at this
      exact this.1
    have at_ : a = e.2.2 := (same e (List.mem_of_find?_eq_some found) lane).symm
    simp [hl, found, at_]

end

/-- The waits of the lanes of em, as (lane, peer, address). -/
def Iss.waitsOf (c : Iss) (s : State) (addr : Nat → Nat) (vas : Nat → List Nat) : List (Nat × Nat × Nat) :=
  (lanesOf c.em).flatMap fun l =>
    (vas l).filterMap fun va => (remoteWait s c.cluster (s.ctxOf c.warp) va).map fun p => (l, p, addr l)

section
variable {s : State} {c : Iss} {addr : Nat → Nat} {vas : Nat → List Nat}

theorem mem_waitsOf {e : Nat × Nat × Nat} : e ∈ c.waitsOf s addr vas ↔ (e.1 < 32 ∧ c.em.getLsbD e.1 = true ∧
    ∃ va ∈ vas e.1, remoteWait s c.cluster (s.ctxOf c.warp) va = some e.2.1) ∧ e.2.2 = addr e.1 := by
  obtain ⟨l, p, a⟩ := e
  simp only [Iss.waitsOf, List.mem_flatMap, List.mem_filterMap, Option.map_eq_some_iff, mem_lanesOf]
  constructor
  · rintro ⟨_, ⟨hl, on⟩, va, m, q, waits, same⟩
    cases same
    exact ⟨⟨hl, on, va, m, waits⟩, rfl⟩
  · rintro ⟨⟨hl, on, va, m, waits⟩, rfl⟩
    exact ⟨l, ⟨hl, on⟩, va, m, p, waits, rfl⟩

theorem waitRemote_none (free : ∀ l p, l < 32 → c.em.getLsbD l = true →
    ¬ ∃ va ∈ vas l, remoteWait s c.cluster (s.ctxOf c.warp) va = some p) : c.waitRemote s addr vas = none := by
  have empty : c.waitsOf s addr vas = [] := List.eq_nil_iff_forall_not_mem.2 fun e m => by
    obtain ⟨⟨hl, on, waits⟩, -⟩ := mem_waitsOf.1 m
    exact free e.1 e.2.1 hl on waits
  show c.awaitPeers s (c.waitsOf s addr vas) = none
  rw [empty]
  rfl

theorem waitRemote_some (some_ : ∃ l p, l < 32 ∧ c.em.getLsbD l = true ∧
    ∃ va ∈ vas l, remoteWait s c.cluster (s.ctxOf c.warp) va = some p) :
    c.waitRemote s addr vas = some (s.mapWarp c.w fun y => y.park c.sp (.domain (peerWaits (c.waitsOf s addr vas)))) := by
  obtain ⟨l, p, hl, on, waits⟩ := some_
  have mine : (l, p, addr l) ∈ c.waitsOf s addr vas := mem_waitsOf.2 ⟨⟨hl, on, waits⟩, rfl⟩
  have full : (c.waitsOf s addr vas).isEmpty = false := List.isEmpty_eq_false_iff.2 (List.ne_nil_of_mem mine)
  show c.awaitPeers s (c.waitsOf s addr vas) = _
  rw [Iss.awaitPeers, full]
  rfl

theorem waitsOf_peers (p : Nat) : p ∈ (peerWaits (c.waitsOf s addr vas)).map PeerWait.peer ↔ ∃ l, l < 32 ∧ c.em.getLsbD l = true ∧
    ∃ va ∈ vas l, remoteWait s c.cluster (s.ctxOf c.warp) va = some p := by
  rw [peerWaits_peers, List.mem_eraseDups, List.mem_map]
  constructor
  · rintro ⟨e, m, rfl⟩
    exact ⟨e.1, (mem_waitsOf.1 m).1⟩
  · rintro ⟨l, hl, on, waits⟩
    exact ⟨(l, p, addr l), mem_waitsOf.2 ⟨⟨hl, on, waits⟩, rfl⟩, rfl⟩

theorem waitsOf_entry {w : PeerWait} (m : w ∈ peerWaits (c.waitsOf s addr vas)) : w.since = none ∧ ∀ l, l < 32 →
    (w.lanes.getLsbD l = true ↔ c.em.getLsbD l = true ∧ ∃ va ∈ vas l, remoteWait s c.cluster (s.ctxOf c.warp) va = some w.peer) ∧
    (w.lanes.getLsbD l = true → w.addrs.getD l 0 = addr l) := by
  obtain ⟨since, lanes⟩ := peerWaits_entry m
  refine ⟨since, fun l hl => ⟨(lanes l hl).1.trans ?_, (lanes l hl).2 (addr l) fun e he lane => ?_⟩⟩
  · constructor
    · rintro ⟨e, he, rfl, peer⟩
      obtain ⟨⟨-, on, waits⟩, -⟩ := mem_waitsOf.1 he
      exact ⟨on, peer ▸ waits⟩
    · rintro ⟨on, waits⟩
      exact ⟨(l, w.peer, addr l), mem_waitsOf.2 ⟨⟨hl, on, waits⟩, rfl⟩, rfl, rfl⟩
  · rw [(mem_waitsOf.1 he).2, lane]

end

/-! ## Addresses (R167) -/

theorem sextN_toInt (v n : Nat) : sextN v n = (BitVec.ofNat n v).toInt := by
  unfold sextN
  rw [BitVec.toInt_eq_toNat_cond, BitVec.toNat_ofNat]

theorem address_eq (c : Iss) (a : Nat) (b : Src) (l : Nat) : c.address a b l =
    ((((c.regAt .a (2 * a) 0).lane l).toNat + 2 ^ 32 * ((c.regAt .a (2 * a) 1).lane l).toNat +
      ((c.read .b b).lane l).toInt + (BitVec.ofNat 21 c.ext).toInt : Int) % 2 ^ 64).toNat := by
  have offset : sextN ((c.read .b b).lane l).toNat 32 = ((c.read .b b).lane l).toInt := by
    rw [sextN_toInt, ofNat_toNat_self]
  unfold Iss.address modPow Iss.pairLane Iss.memOffset
  rw [offset, sextN_toInt]
  push_cast
  rfl

theorem accessLeaf_eq (s : State) (k cx va : Nat) : accessLeaf s k cx va =
    match l1Line? s k cx (lineOf va), s.l2Line? (s.asid cx) (lineOf va) with
      | some y, _ => .leaf y.leaf
      | none, some y => .leaf y.leaf
      | none, none => translate s cx va := by
  unfold accessLeaf
  cases l1Line? s k cx (lineOf va) with
  | some y => rfl
  | none => cases s.l2Line? (s.asid cx) (lineOf va) <;> rfl

/-- Settles O14: addresses, then the checks of lanes and of rows by their first failure, then the peers an access waits for. -/
theorem accessChecks : Obligations.AccessChecks := by
  unfold Obligations.AccessChecks
  intro s c
  refine ⟨address_eq c, fun l o => rfl, accessLeaf_eq s c.cluster _, fun k kind n addr data => ?_, fun n addr => ?_,
    fun spad kind rows data => ⟨fun pass => checkRows_passes data pass, fun j pre r post => checkRows_fails data⟩,
    fun vas w => postMalformed_sound w, remoteWait_iff s c.cluster _, fun addr vas => ⟨waitRemote_none, fun some_ =>
      ⟨_, waitRemote_some some_, ?_, waitsOf_peers, fun w m => ?_⟩⟩⟩
  · have first := fun l => firstFailure_first s c k data n l addr
    refine ⟨fun none => ?_, fun j some_ before => ?_⟩
    · cases k <;> exact laneTrap_passes first none
    · cases k <;> exact laneTrap_fails first (fun _ _ => laneFails_range) some_ before
  · have first := scratchFails_first (crewScratch s (s.crewNo c.warp)) n addr
    exact ⟨fun pass => laneTrap_passes (c := c) (post := fun _ _ => none) first pass, fun j some_ before =>
      laneTrap_fails (post := fun _ _ => none) first (fun _ _ => scratchFails_range) some_ before⟩
  · rw [peerWaits_peers]
    exact nodup_eraseDups _
  · obtain ⟨since, lanes⟩ := waitsOf_entry m
    exact ⟨since, lanes⟩

end Sys2Proof.Machine
end

section
/-!
Lines in the L1 and at their homes: what finds a line after each operation on it, and what operations at the homes leave alone
(spec 06 R169, R173; 09 R258; 12 R303, R307, R308).
-/

namespace Sys2Proof.Machine

/-! ## Finding a line in a list -/

theorem isLine_iff {asid va : Nat} {x : Line} : isLine asid va x = true ↔ x.asid = asid ∧ x.va = va := by simp [isLine]

theorem find_line {ls : List Line} {asid va : Nat} {x : Line} (h : ls.find? (isLine asid va) = some x) :
    x.asid = asid ∧ x.va = va ∧ x ∈ ls := by
  obtain ⟨h1, h2⟩ := isLine_iff.1 (List.find?_some h)
  exact ⟨h1, h2, List.mem_of_find?_eq_some h⟩

/-- Of the lines without one, every other is found as before. -/
theorem find_filter_not (ls : List Line) (asid va a v : Nat) : (ls.filter fun y => !isLine asid va y).find? (isLine a v) =
    if a = asid ∧ v = va then none else ls.find? (isLine a v) := by
  rw [List.find?_filter]
  split
  · rename_i same
    obtain ⟨rfl, rfl⟩ := same
    exact List.find?_eq_none.2 fun y _ => by simp
  · rename_i other
    congr 1
    funext y
    rw [Bool.eq_iff_iff]
    simp only [Bool.not_eq_true', decide_eq_true_eq]
    refine and_iff_right_of_imp fun mine => ?_
    obtain ⟨rfl, rfl⟩ := isLine_iff.1 mine
    exact Bool.eq_false_iff.2 fun theirs => other (isLine_iff.1 theirs)

/-- A line that becomes the first takes the place of the one of its address. -/
theorem find_front (x : Line) (ls : List Line) {asid va : Nat} (h1 : x.asid = asid) (h2 : x.va = va) (a v : Nat) :
    (x :: ls.filter fun y => !isLine asid va y).find? (isLine a v) = if a = asid ∧ v = va then some x else ls.find? (isLine a v) := by
  subst h1 h2
  by_cases same : a = x.asid ∧ v = x.va
  · rw [List.find?_cons_of_pos (isLine_iff.2 ⟨same.1.symm, same.2.symm⟩), if_pos same]
  · rw [List.find?_cons_of_neg fun mine => same ⟨(isLine_iff.1 mine).1.symm, (isLine_iff.1 mine).2.symm⟩, find_filter_not, if_neg same, if_neg same]

theorem find_map {f : Line → Line} (keeps : ∀ y, (f y).asid = y.asid ∧ (f y).va = y.va) (ls : List Line) (a v : Nat) :
    (ls.map f).find? (isLine a v) = (ls.find? (isLine a v)).map f := by
  rw [List.find?_map]
  congr 2
  funext y
  obtain ⟨h1, h2⟩ := keeps y
  simp [isLine, h1, h2]

/-- A line that takes the place of one that counts alike does not add to a count. -/
theorem count_front_le {ls : List Line} {p q : Line → Bool} {x y : Line} (mine : x ∈ ls) (hp : p x = true) (alike : q y = true → q x = true) :
    ((y :: ls.filter fun z => !p z).filter q).length ≤ (ls.filter q).length := by
  have split := (List.filter_append_perm p (ls.filter q)).length_eq
  rw [List.length_append, List.filter_comm] at split
  have rest : ((ls.filter q).filter fun z => !p z).length = ((ls.filter fun z => !p z).filter q).length := by rw [List.filter_comm]
  rw [rest] at split
  by_cases counted : q y = true
  · rw [List.filter_cons_of_pos counted, List.length_cons]
    have : 0 < ((ls.filter p).filter q).length :=
      List.length_pos_of_mem (List.mem_filter.2 ⟨List.mem_filter.2 ⟨mine, hp⟩, alike counted⟩)
    omega
  · rw [List.filter_cons_of_neg counted]
    omega

/-! ## The L1 of a cluster (R303) -/

/-- The line of an address space at an address, in a cluster's L1. -/
def State.l1At (s : State) (j asid va : Nat) : Option Line := (s.cluster j).l1.find? (isLine asid va)

theorem l1Line?_eq (s : State) (k c va : Nat) : l1Line? s k c va = s.l1At k (s.asid c) va := rfl

theorem l1At_inside {s : State} {j asid va : Nat} {x : Line} (h : s.l1At j asid va = some x) : j < s.clusters.length := by
  by_contra outside
  rw [State.l1At, cluster_outside (Nat.le_of_not_lt outside)] at h
  cases h

theorem l1At_mapL1 {s : State} {k : Nat} (inside : k < s.clusters.length) (f : List Line → List Line) (j a v : Nat) :
    (s.mapL1 k f).l1At j a v = if j = k then (f (s.cluster j).l1).find? (isLine a v) else s.l1At j a v := by
  unfold State.l1At State.mapL1
  rw [cluster_mapCluster]
  by_cases same : j = k
  · rw [if_pos ⟨same, inside⟩, if_pos same]
  · rw [if_neg fun both => same both.1, if_neg same]

theorem l1At_l1Put {s : State} {k : Nat} (inside : k < s.clusters.length) (x : Line) (j a v : Nat) :
    (l1Put s k x).l1At j a v = if j = k ∧ a = x.asid ∧ v = x.va then some x else s.l1At j a v := by
  rw [l1Put, l1At_mapL1 inside]
  by_cases same : j = k
  · rw [if_pos same, find_front x _ rfl rfl]
    exact if_congr (by simp [same]) rfl rfl
  · rw [if_neg same, if_neg fun both => same both.1]

theorem l1At_l1Drop (s : State) (k asid va j a v : Nat) :
    (l1Drop s k asid va).l1At j a v = if j = k ∧ a = asid ∧ v = va then none else s.l1At j a v := by
  by_cases inside : k < s.clusters.length
  · rw [l1Drop, l1At_mapL1 inside]
    by_cases same : j = k
    · rw [if_pos same, find_filter_not]
      exact if_congr (by simp [same]) rfl rfl
    · rw [if_neg same, if_neg fun both => same both.1]
  · have same : (l1Drop s k asid va).l1At j a v = s.l1At j a v := by
      unfold State.l1At l1Drop State.mapL1
      rw [cluster_mapCluster, if_neg fun both => inside both.2]
    rw [same]
    split
    · rename_i both
      rw [State.l1At, both.1, cluster_outside (Nat.le_of_not_lt inside)]
      rfl
    · rfl

/-! ## What operations at the homes leave alone -/

/-- `t` comes from `s` by operations at the homes: no cluster changes, and of a context only its fault ring. -/
structure HomeOnly (s t : State) : Prop where
  clusters : t.clusters = s.clusters
  ctx : ∀ c, ∃ w h, t.ctx c = { s.ctx c with widx := w, heldRecs := h }

namespace HomeOnly

theorem refl (s : State) : HomeOnly s s := ⟨rfl, fun _ => ⟨_, _, rfl⟩⟩

theorem trans {s t u : State} (h : HomeOnly s t) (k : HomeOnly t u) : HomeOnly s u := by
  refine ⟨k.clusters.trans h.clusters, fun c => ?_⟩
  obtain ⟨w, r, first⟩ := h.ctx c
  obtain ⟨w', r', second⟩ := k.ctx c
  exact ⟨w', r', by rw [second, first]⟩

theorem foldl {α β : Type} {f : β → α → β} {p : β → State} (h : ∀ b a, HomeOnly (p b) (p (f b a))) :
    ∀ (xs : List α) (b : β), HomeOnly (p b) (p (xs.foldl f b))
  | [], _ => refl _
  | x :: xs, b => (h b x).trans (foldl h xs (f b x))

theorem ite {s t u : State} {p : Prop} [Decidable p] (h : HomeOnly s t) (k : HomeOnly s u) : HomeOnly s (if p then t else u) := by
  split
  · exact h
  · exact k

theorem mem (s : State) (m : Memory) : HomeOnly s { s with mem := m } := ⟨rfl, fun _ => ⟨_, _, rfl⟩⟩

theorem snap (s : State) (x : Snap) : HomeOnly s { s with snap := x } := ⟨rfl, fun _ => ⟨_, _, rfl⟩⟩

theorem fw (s : State) (x : Firmware) : HomeOnly s { s with fw := x } := ⟨rfl, fun _ => ⟨_, _, rfl⟩⟩

/-- A context's fault ring moves on. -/
theorem ring (s : State) (c : Nat) {f : Context → Context} (h : ∀ x, ∃ w r, f x = { x with widx := w, heldRecs := r }) :
    HomeOnly s (s.mapCtx c f) := by
  refine ⟨rfl, fun j => ?_⟩
  unfold State.ctx State.mapCtx
  simp only [List.getD_eq_getElem?_getD, updAt_get]
  by_cases same : j = c
  · subst same
    cases s.ctxs[j]? with
    | none => exact ⟨Context.reset.widx, Context.reset.heldRecs, by simp⟩
    | some x =>
      obtain ⟨w, r, e⟩ := h x
      exact ⟨w, r, by simp [e]⟩
  · exact ⟨_, _, by rw [if_neg same]⟩

section
variable {s t : State} (h : HomeOnly s t)
include h

theorem cluster (k : Nat) : t.cluster k = s.cluster k := by
  unfold State.cluster
  rw [h.clusters]

theorem l1At (j a v : Nat) : t.l1At j a v = s.l1At j a v := by
  unfold State.l1At
  rw [h.cluster]

theorem asid (c : Nat) : t.asid c = s.asid c := by
  obtain ⟨w, r, e⟩ := h.ctx c
  unfold State.asid
  rw [e]

end

end HomeOnly

theorem evictL2_home (s : State) (asid va : Nat) : HomeOnly s (evictL2 s asid va) :=
  (HomeOnly.foldl (p := id) (fun s _ => .ite (.mem s _) (.refl s)) _ s).trans (.mem _ _)

theorem makeRoomL2_home (s : State) (k h : Nat) : HomeOnly s (makeRoomL2 s k h) := by
  unfold makeRoomL2
  refine .ite (.refl s) ?_
  split
  · exact .refl s
  · exact evictL2_home ..

theorem touchL2By_home (s : State) (c : Nat) (l : Leaf) (va h : Nat) : HomeOnly s (touchL2By s c l va h) := by
  unfold touchL2By
  refine .ite (.refl s) ?_
  split
  · exact .mem ..
  · exact .ite ((makeRoomL2_home s _ h).trans (.mem ..)) (makeRoomL2_home s _ h)

theorem copyBlock_home (s : State) (c : Nat) (l : Leaf) (va : Nat) : HomeOnly s (copyBlock s c l va) := by
  unfold copyBlock
  exact .ite (.ite (.mem ..) (.snap ..)) (.refl s)

theorem markChunk_home (s : State) (c : Nat) (l : Leaf) (va : Nat) : HomeOnly s (markChunk s c l va) := by
  unfold markChunk
  exact .ite (.snap ..) (.refl s)

theorem dataWay_home (k : Arrival) (s : State) (c : Nat) (l : Leaf) (va : Nat) (ws : List (Nat × Byte)) (n : Nat) :
    HomeOnly s (dataWay k s c l va ws n) := by
  unfold dataWay
  split
  · exact .refl s
  · have room := makeRoomL2_home s n k.hint
    exact .ite (.ite room (room.trans (evictL2_home ..))) (.refl s)

theorem homeWriteBy_home (k : Arrival) (s : State) (c : Nat) (l : Leaf) (va : Nat) (ws : List (Nat × Byte)) :
    HomeOnly s (homeWriteBy k s c l va ws) := by
  unfold homeWriteBy
  dsimp only
  split
  · refine .ite (.refl s) ?_
    have copied := (copyBlock_home s c l va).trans (markChunk_home _ c l va)
    have ready := (copied.trans (touchL2By_home _ c l va k.hint)).trans (dataWay_home k _ c l va ws ‹Nat›)
    exact .ite (ready.trans (.mem _ _)) (ready.trans (.mem _ _))
  · exact .mem ..
  · exact .refl s

theorem gate_home (s : State) (c : Nat) (l : Leaf) (va : Nat) : HomeOnly s (gate s c l va) := by
  unfold gate
  exact .ite (.mem ..) (.ite (.mem ..) (.refl s))

theorem agentWriteBy_home (k : Arrival) (s : State) (c : Nat) (l : Leaf) (va : Nat) (ws : List (Nat × Byte)) :
    HomeOnly s (agentWriteBy k s c l va ws) := (gate_home s c l va).trans (homeWriteBy_home ..)

theorem ringPut_home (s : State) (c va : Nat) (ws : List Word) : HomeOnly s (ringPut s c va ws) := by
  refine HomeOnly.foldl (p := id) (fun s i => ?_) _ s
  dsimp only [id]
  split
  · exact HomeOnly.foldl (p := id) (fun s _ => homeWriteBy_home _ s c _ _ _) _ s
  · exact .refl s

theorem raiseMsi_home (s : State) (v : Nat) : HomeOnly s (raiseMsi s v) := ⟨rfl, fun _ => ⟨_, _, rfl⟩⟩

theorem writeGroup_home {s t : State} {c : Nat} {g : List (List Word)} (h : writeGroup s c g = some t) : HomeOnly s t := by
  have puts : ∀ (n : Nat) (f : Nat → Nat) (w : Nat → List Word) (s : State),
      HomeOnly s ((List.range n).foldl (fun s i => ringPut s c (f i) (w i)) s) := fun n f w s =>
    HomeOnly.foldl (p := id) (fun s i => ringPut_home s c _ _) _ s
  unfold writeGroup at h
  dsimp only at h
  split at h
  · cases h
  · split at h
    · cases h
    · cases h
      split
      · exact ((((puts _ _ _ s).trans (puts _ _ _ _)).trans (ringPut_home _ c _ _)).trans (.ring _ c fun _ => ⟨_, _, rfl⟩)).trans
          (raiseMsi_home ..)
      · exact (((puts _ _ _ s).trans (puts _ _ _ _)).trans (ringPut_home _ c _ _)).trans (.ring _ c fun _ => ⟨_, _, rfl⟩)

theorem postGroup_home (s : State) (c : Nat) (g : List (List Word)) : HomeOnly s (postGroup s c g) := by
  have hold : HomeOnly s (s.mapCtx c fun x => { x with heldRecs := x.heldRecs ++ [g] }) := .ring s c fun _ => ⟨_, _, rfl⟩
  unfold postGroup
  refine .ite ?_ hold
  cases h : writeGroup s c g with
  | none => exact hold
  | some t => exact writeGroup_home h

theorem offer_home (s : State) (k : Nat) (x : Line) : HomeOnly s (offer s k x).1 := by
  have reported : HomeOnly s (reportCurrent s x) := by
    unfold reportCurrent
    split
    · exact postGroup_home ..
    · exact .refl s
  have awaited : ∀ s, HomeOnly s (awaitPeer s k x) := fun s => by
    unfold awaitPeer
    split
    · exact .ite (.fw ..) (.refl s)
    · exact .refl s
  unfold offer
  split
  · exact .refl s
  · split
    · exact reported
    · exact (agentWriteBy_home ..).trans (awaited _)

/-! ## Evictions from the L1 (R258) -/

/-- A line of a cluster that leaves its L1: the state at the homes, and then the cluster without it. -/
theorem evictL1_drops (s : State) (k : Nat) (x : Line) : ∃ u, HomeOnly s u ∧ evictL1 s k x = l1Drop u k x.asid x.va :=
  ⟨_, .ite ((offer_home s k x).trans (postGroup_home ..)) (offer_home s k x), rfl⟩

theorem evictL1_asid (s : State) (k : Nat) (x : Line) (c : Nat) : (evictL1 s k x).asid c = s.asid c := by
  obtain ⟨u, home, e⟩ := evictL1_drops s k x
  rw [e]
  exact home.asid c

theorem evictL1_l1At (s : State) (k : Nat) (x : Line) (j a v : Nat) :
    (evictL1 s k x).l1At j a v = if j = k ∧ a = x.asid ∧ v = x.va then none else s.l1At j a v := by
  obtain ⟨u, home, e⟩ := evictL1_drops s k x
  rw [e, l1At_l1Drop, home.l1At]

theorem evictL1_cluster (s : State) (k : Nat) (x : Line) (j : Nat) : (evictL1 s k x).cluster j = (l1Drop s k x.asid x.va).cluster j := by
  obtain ⟨u, home, e⟩ := evictL1_drops s k x
  rw [e]
  unfold l1Drop State.mapL1
  rw [cluster_mapCluster, cluster_mapCluster, home.clusters, home.cluster]

/-- The line that a context's own view names leaves that view. -/
theorem evictL1_gone {s : State} {k c va : Nat} {x : Line} (h : l1Line? s k c va = some x) : l1Line? (evictL1 s k x) k c va = none := by
  obtain ⟨asid, at_, -⟩ := find_line h
  rw [l1Line?_eq, evictL1_l1At, evictL1_asid, if_pos ⟨rfl, asid.symm, at_.symm⟩]

/-! ## Lines at their homes (R258, R307) -/

/-- `t` is `s` but for the lines in L2 and what a snapshot keeps of the blocks. -/
structure L2Only (s t : State) : Prop where
  same : ∃ l2 sn, t = { s with mem := { s.mem with l2 := l2 }, snap := sn }
  cut : t.snap.cut = s.snap.cut
  st : t.snap.st = s.snap.st

namespace L2Only

theorem refl (s : State) : L2Only s s := ⟨⟨_, _, rfl⟩, rfl, rfl⟩

theorem trans {s t u : State} (h : L2Only s t) (k : L2Only t u) : L2Only s u := by
  obtain ⟨⟨l2, sn, rfl⟩, c1, s1⟩ := h
  obtain ⟨⟨l2', sn', rfl⟩, c2, s2⟩ := k
  exact ⟨⟨l2', sn', rfl⟩, c2.trans c1, s2.trans s1⟩

theorem l2 (s : State) (ls : List Line) : L2Only s { s with mem := { s.mem with l2 := ls } } := ⟨⟨_, _, rfl⟩, rfl, rfl⟩

section
variable {s t : State} (h : L2Only s t)
include h

theorem clusters : t.clusters = s.clusters := by
  obtain ⟨_, _, rfl⟩ := h.same
  rfl

theorem ctx (c : Nat) : t.ctx c = s.ctx c := by
  obtain ⟨_, _, rfl⟩ := h.same
  rfl

theorem asid (c : Nat) : t.asid c = s.asid c := congrArg Context.asid (h.ctx c)

theorem home : t.mem.home = s.mem.home := by
  obtain ⟨_, _, rfl⟩ := h.same
  rfl

theorem host : t.mem.host = s.mem.host := by
  obtain ⟨_, _, rfl⟩ := h.same
  rfl

theorem l1At (j a v : Nat) : t.l1At j a v = s.l1At j a v := by
  obtain ⟨_, _, rfl⟩ := h.same
  rfl

theorem fencedHome (c va : Nat) : Machine.fencedHome t c va = Machine.fencedHome s c va := by
  obtain ⟨_, _, rfl⟩ := h.same
  rfl

theorem byteBelow (c : Nat) (l : Leaf) (va : Nat) : Machine.byteBelow t c l va = Machine.byteBelow s c l va := by
  obtain ⟨_, _, rfl⟩ := h.same
  rfl

theorem belowL2 (c : Nat) (l : Leaf) (va : Nat) : Machine.belowL2 t c l va = Machine.belowL2 s c l va := by
  obtain ⟨_, _, rfl⟩ := h.same
  rfl

theorem poisonBelow (c : Nat) (l : Leaf) (va : Nat) : Machine.poisonBelow t c l va = Machine.poisonBelow s c l va := by
  obtain ⟨_, _, rfl⟩ := h.same
  rfl

theorem homeInL2 (c : Nat) (l : Leaf) (va : Nat) : Machine.homeInL2 t c l va = Machine.homeInL2 s c l va := by
  obtain ⟨_, _, rfl⟩ := h.same
  rfl

end

end L2Only

/-- A line whose home is an L2 slice: its stack, which can be reached. -/
theorem homeInL2_iff (s : State) (c : Nat) (l : Leaf) (va : Nat) : homeInL2 s c l va = true ↔ l.sysa = false ∧
    ∃ n, homeOf ((s.ctx c).placement va) va = .stack n ∧ fencedStack s n = false := by
  unfold homeInL2
  cases homeOf ((s.ctx c).placement va) va <;> simp

theorem fencedHome_stack {s : State} {c va n : Nat} (h : homeOf ((s.ctx c).placement va) va = .stack n) :
    fencedHome s c va = fencedStack s n := by
  unfold fencedHome
  rw [h]

theorem heldL2_eq (s : State) (c : Nat) (l : Leaf) (va : Nat) :
    heldL2 s c l va = if l.sysa = false ∧ fencedHome s c va = false then s.l2Line? (s.asid c) va else none := by
  unfold heldL2
  cases l.sysa <;> cases fencedHome s c va <;> rfl

theorem heldL2_home {s : State} {c va : Nat} {l : Leaf} (home : homeInL2 s c l va = true) : heldL2 s c l va = s.l2Line? (s.asid c) va := by
  obtain ⟨plain, n, at_, open_⟩ := (homeInL2_iff ..).1 home
  rw [heldL2_eq, if_pos ⟨plain, (fencedHome_stack at_).trans open_⟩]

theorem homeLine_held {s : State} {c va : Nat} {l : Leaf} {x : Line} (h : heldL2 s c l va = some x) :
    homeLine s c l va = (x.bytes, x.poison) := by
  unfold homeLine
  rw [h]

theorem homeLine_below {s : State} {c va : Nat} {l : Leaf} (h : heldL2 s c l va = none) :
    homeLine s c l va = (belowL2 s c l va, poisonBelow s c l va) := by
  unfold homeLine
  rw [h]

/-- The byte at an offset of a line, at its home. -/
theorem homeByte_line (s : State) (c : Nat) (l : Leaf) {va o : Nat} (line : lineOf va = va) (ho : o < 128) :
    homeByte s c l (va + o) = (homeLine s c l va).1.getD o 0#8 := by
  have at_ : lineOf (va + o) = va := by
    unfold lineOf at line ⊢
    omega
  have off : (va + o) % 128 = o := by
    unfold lineOf at line
    omega
  unfold homeByte homeLine
  rw [at_, off]
  cases heldL2 s c l va with
  | some x => rfl
  | none => simp [belowL2, ho]

theorem lineOf_lineOf (va : Nat) : lineOf (lineOf va) = lineOf va := by
  unfold lineOf
  omega

theorem lineOf_add_mod (va : Nat) : lineOf va + va % 128 = va := by
  unfold lineOf
  omega

/-- The byte at an address, in its line at its home. -/
theorem homeByte_eq (s : State) (c : Nat) (l : Leaf) (va : Nat) : homeByte s c l va = (homeLine s c l (lineOf va)).1.getD (va % 128) 0#8 := by
  rw [← homeByte_line s c l (lineOf_lineOf va) (Nat.mod_lt _ (by decide)), lineOf_add_mod]

/-- A line is as long at its home as it is in L2. -/
theorem homeLine_length {s : State} {c va : Nat} {l : Leaf} (all : ∀ x, s.l2Line? (s.asid c) va = some x → x.bytes.length = 128) :
    (homeLine s c l va).1.length = 128 := by
  cases e : heldL2 s c l va with
  | none =>
    rw [homeLine_below e]
    simp [belowL2]
  | some x =>
    rw [homeLine_held e]
    rw [heldL2_eq] at e
    split at e
    · exact all x e
    · cases e

/-! ## A line comes into its L2 slice (R173, R308) -/

theorem touchL2By_skips {s : State} {c va h : Nat} {l : Leaf} (away : homeInL2 s c l va = false) : touchL2By s c l va h = s := by
  unfold touchL2By
  rw [away]
  rfl

/-- The line that an access with hint `h` brings into an L2 slice. -/
def l2Fill (s : State) (c : Nat) (l : Leaf) (va h : Nat) : Line :=
  { asid := s.asid c, ctx := c, va := va, leaf := l, bytes := (homeLine s c l va).1, dirty := [false], poison := (homeLine s c l va).2
    mark := markBy 0 h, form := fillForm s l.cmpr (physAddr ((s.ctx c).placement va) l va) }

/-- The slice of a line's stack has room for it. -/
def State.roomFor (s : State) (c va : Nat) : Prop := l2Room s (ctlOf ((s.ctx c).placement va) va) = true

theorem makeRoomL2_room {s : State} {n h : Nat} (room : l2Room s n = true) : makeRoomL2 s n h = s := if_pos (of_decide_eq_true room)

section
variable {s : State} {c va h : Nat} {l : Leaf} (home : homeInL2 s c l va = true)
include home

theorem touchL2By_held {x : Line} (held : s.l2Line? (s.asid c) va = some x) : touchL2By s c l va h =
    { s with mem := { s.mem with l2 := { x with mark := markBy x.mark h } :: s.mem.l2.filter fun y => !isLine (s.asid c) va y } } := by
  unfold touchL2By
  rw [home]
  change s.l2Line? (s.ctx c).asid va = some x at held
  simp only [Bool.not_true, Bool.false_eq_true, if_false, held]
  rfl

theorem touchL2By_fills (absent : s.l2Line? (s.asid c) va = none) (room : s.roomFor c va) :
    touchL2By s c l va h = { s with mem := { s.mem with l2 := l2Fill s c l va h :: s.mem.l2 } } := by
  unfold touchL2By
  rw [home]
  change s.l2Line? (s.ctx c).asid va = none at absent
  unfold State.roomFor at room
  simp only [Bool.not_true, Bool.false_eq_true, if_false, absent, makeRoomL2_room room, room, if_true]
  rfl

/-- An access brings a line into its slice, as its home holds it, and makes it the first there. -/
theorem touchL2By_brings (ready : (s.l2Line? (s.asid c) va).isSome = true ∨ s.roomFor c va) : ∃ y,
    L2Only s (touchL2By s c l va h) ∧ y.asid = s.asid c ∧ y.va = va ∧ (y.bytes, y.poison) = homeLine s c l va ∧
    (∀ x, s.l2Line? (s.asid c) va = some x → y = { x with mark := markBy x.mark h }) ∧
    ∀ a v, (touchL2By s c l va h).l2Line? a v = if a = s.asid c ∧ v = va then some y else s.l2Line? a v := by
  cases held : s.l2Line? (s.asid c) va with
  | some x =>
    obtain ⟨asid, at_, -⟩ := find_line held
    refine ⟨{ x with mark := markBy x.mark h }, ?_, asid, at_, ?_, fun y e => ?_, fun a v => ?_⟩
    · rw [touchL2By_held home held]
      exact .l2 ..
    · rw [homeLine_held ((heldL2_home home).trans held)]
    · cases e
      rfl
    · rw [touchL2By_held home held]
      exact find_front { x with mark := markBy x.mark h } _ asid at_ a v
  | none =>
    have room := ready.resolve_left (by simp [held])
    refine ⟨l2Fill s c l va h, ?_, rfl, rfl, rfl, nofun, fun a v => ?_⟩
    · rw [touchL2By_fills home held room]
      exact .l2 ..
    · rw [touchL2By_fills home held room]
      show (l2Fill s c l va h :: s.mem.l2).find? (isLine a v) = _
      by_cases same : a = s.asid c ∧ v = va
      · rw [List.find?_cons_of_pos (isLine_iff.2 ⟨same.1.symm, same.2.symm⟩), if_pos same]
      · rw [List.find?_cons_of_neg fun mine => same ⟨(isLine_iff.1 mine).1.symm, (isLine_iff.1 mine).2.symm⟩, if_neg same]
        rfl

/-- A slice that has a data way for a line has one still when the line has come into it. -/
theorem touchL2By_ready (ready : s.roomFor c va ∨ ∃ x, s.l2Line? (s.asid c) va = some x ∧ x.form = 0) :
    (∃ y, (touchL2By s c l va h).l2Line? (s.asid c) va = some y ∧ y.form = 0) ∨ (touchL2By s c l va h).roomFor c va := by
  have some_ : (s.l2Line? (s.asid c) va).isSome = true ∨ s.roomFor c va := by
    rcases ready with room | ⟨x, held, -⟩
    · exact .inr room
    · exact .inl (by rw [held]; rfl)
  obtain ⟨y, -, -, -, -, kept, found⟩ := touchL2By_brings (h := h) home some_
  have mine := found (s.asid c) va
  rw [if_pos ⟨rfl, rfl⟩] at mine
  by_cases stored : y.form = 0
  · exact .inl ⟨y, mine, stored⟩
  · right
    have room : s.roomFor c va := by
      rcases ready with room | ⟨x, held, form⟩
      · exact room
      · refine absurd ?_ stored
        rw [kept x held]
        exact form
    cases held : s.l2Line? (s.asid c) va with
    | some x =>
      obtain ⟨asid, at_, there⟩ := find_line held
      rw [touchL2By_held home held]
      refine decide_eq_true (Nat.lt_of_le_of_lt ?_ (of_decide_eq_true room))
      exact count_front_le (y := { x with mark := markBy x.mark h }) there (isLine_iff.2 ⟨asid, at_⟩) id
    | none =>
      have filled := touchL2By_fills (h := h) home held room
      rw [filled] at mine ⊢
      have first : y = l2Fill s c l va h := by
        change (l2Fill s c l va h :: s.mem.l2).find? (isLine (s.asid c) va) = some y at mine
        rw [List.find?_cons_of_pos (isLine_iff.2 ⟨rfl, rfl⟩ : isLine (s.asid c) va (l2Fill s c l va h) = true)] at mine
        exact (Option.some.inj mine).symm
      rw [first] at stored
      refine decide_eq_true (Nat.lt_of_le_of_lt ?_ (of_decide_eq_true room))
      show ((l2Fill s c l va h :: s.mem.l2).filter _).length ≤ _
      rw [List.filter_cons_of_neg (by simp [stored])]
      exact Nat.le_refl _

end

end Sys2Proof.Machine
end

section
/-!
Writes at the homes, and what a load and a store of one line do (spec 06 R169, R172, R173; 08 R246, R247; 09 R258; 12 R303, R307, R308).
-/

namespace Sys2Proof.Machine

/-! ## A write reaches its L2 slice (R246, R247, R258) -/

theorem gate_open {s : State} {c va : Nat} {l : Leaf} (flows : s.snap.cut ≠ 2) (free : stalls s c [(va, l)] = false) : gate s c l va = s := by
  unfold gate
  rw [if_neg flows, free]
  rfl

/-- A write that does not stall leaves in the snapshot's bookkeeping alone what it copies and marks. -/
theorem copies_free {s : State} {c va : Nat} {l : Leaf} (free : stalls s c [(va, l)] = false) : ∃ sn,
    markChunk (copyBlock s c l va) c l va = { s with snap := sn } ∧ sn.cut = s.snap.cut ∧ sn.st = s.snap.st := by
  have copied : ∃ sn, copyBlock s c l va = { s with snap := sn } ∧ sn.cut = s.snap.cut ∧ sn.st = s.snap.st := by
    unfold copyBlock
    by_cases needs : needsCopy s c l va = true
    · have space : ¬ stockFull s = true := fun full => by simp [stalls, full, needs] at free
      rw [if_pos needs, if_neg space]
      exact ⟨_, rfl, rfl, rfl⟩
    · rw [if_neg needs]
      exact ⟨_, rfl, rfl, rfl⟩
  obtain ⟨sn, e, cut, st⟩ := copied
  rw [e]
  unfold markChunk
  split
  · exact ⟨_, rfl, cut, st⟩
  · exact ⟨_, rfl, cut, st⟩

/-- A held line that has a data way, or can have one, stays where it is. -/
theorem dataWay_ready {k : Arrival} {s : State} {c va n : Nat} {l : Leaf} {ws : List (Nat × Byte)} {y : Line}
    (held : heldL2 s c l va = some y) (ready : y.form = 0 ∨ l2Room s n = true) : dataWay k s c l va ws n = s := by
  unfold dataWay
  rw [held]
  rcases ready with stored | room
  · simp [stored]
  · simp [makeRoomL2_room room, room]

/-- What a write finds in its L2 slice: a line with a data way, or room for it. -/
def State.readyFor (s : State) (c va : Nat) : Prop := s.roomFor c va ∨ ∃ x, s.l2Line? (s.asid c) va = some x ∧ x.form = 0

theorem readyFor_brings {s : State} {c va : Nat} (ready : s.readyFor c va) :
    (s.l2Line? (s.asid c) va).isSome = true ∨ s.roomFor c va := by
  rcases ready with room | ⟨x, held, -⟩
  · exact .inr room
  · exact .inl (by rw [held]; rfl)

/-- What a write leaves of the lines in L2: the one it names, as it was at its home, with the write in it, and every other. -/
structure Landed (k : Arrival) (s t : State) (c : Nat) (l : Leaf) (va : Nat) (ws : List (Nat × Byte)) (y : Line) : Prop where
  only : L2Only s t
  line : (y.bytes, y.poison) = homeLine s c l va
  kept : ∀ x, s.l2Line? (s.asid c) va = some x → y = { x with mark := markBy x.mark k.hint }
  found : ∀ a v, t.l2Line? a v = if a = s.asid c ∧ v = va then some (l2Write y ws k) else s.l2Line? a v

/-- A line that is held with a data way, or can have one, takes a write. -/
theorem held_write {k : Arrival} {t : State} {c va : Nat} {ws : List (Nat × Byte)} {y : Line} (mine : t.l2Line? (t.asid c) va = some y)
    (a v : Nat) : (t.mem.l2.map fun x => if x.asid == (t.ctx c).asid && x.va == va then l2Write x ws k else x).find? (isLine a v) =
      if a = t.asid c ∧ v = va then some (l2Write y ws k) else t.l2Line? a v := by
  refine (find_map (fun x => ?_) _ a v).trans ?_
  · split <;> exact ⟨rfl, rfl⟩
  · change (t.l2Line? a v).map _ = _
    by_cases same : a = t.asid c ∧ v = va
    · obtain ⟨rfl, rfl⟩ := same
      obtain ⟨asid, at_, -⟩ := find_line mine
      rw [mine, if_pos ⟨rfl, rfl⟩]
      exact congrArg some (if_pos (isLine_iff.2 ⟨asid, at_⟩))
    · rw [if_neg same]
      cases e : t.l2Line? a v with
      | none => rfl
      | some x =>
        obtain ⟨asid, at_, -⟩ := find_line e
        have other : ¬ isLine (t.asid c) va x = true := fun both =>
          same ⟨asid.symm.trans (isLine_iff.1 both).1, at_.symm.trans (isLine_iff.1 both).2⟩
        exact congrArg some (if_neg other)

theorem homeWriteBy_lands {k : Arrival} {s : State} {c va : Nat} {l : Leaf} {ws : List (Nat × Byte)} (home : homeInL2 s c l va = true)
    (free : stalls s c [(va, l)] = false) (ready : s.readyFor c va) : ∃ y, Landed k s (homeWriteBy k s c l va ws) c l va ws y := by
  obtain ⟨plain, n, at_, open_⟩ := (homeInL2_iff ..).1 home
  obtain ⟨sn, copied, cut, st⟩ := copies_free free
  have begun : L2Only s { s with snap := sn } := ⟨⟨_, sn, rfl⟩, cut, st⟩
  obtain ⟨y, touched, -, -, line, kept, found⟩ := touchL2By_brings (s := { s with snap := sn }) (h := k.hint) home (readyFor_brings ready)
  have ready2 := touchL2By_ready (s := { s with snap := sn }) (h := k.hint) home ready
  have place : ctlOf ((s.ctx c).placement va) va = n := by rw [ctlOf, at_]
  generalize ht : touchL2By { s with snap := sn } c l va k.hint = t at touched found ready2
  have only : L2Only s t := begun.trans touched
  change ∀ a v, t.l2Line? a v = if a = s.asid c ∧ v = va then some y else s.l2Line? a v at found
  change (∃ z, t.l2Line? (s.asid c) va = some z ∧ z.form = 0) ∨ t.roomFor c va at ready2
  have mine : t.l2Line? (t.asid c) va = some y := by rw [found, only.asid, if_pos ⟨rfl, rfl⟩]
  have held : heldL2 t c l va = some y := by rw [heldL2_home (by rw [only.homeInL2]; exact home), mine]
  have stays : dataWay k t c l va ws n = t := by
    refine dataWay_ready held ?_
    rcases ready2 with ⟨z, hz, form⟩ | room
    · rw [← only.asid, mine] at hz
      cases hz
      exact .inl form
    · unfold State.roomFor at room
      rw [only.ctx, place] at room
      exact .inr room
  have runs : homeWriteBy k s c l va ws = { t with mem := { t.mem with
      l2 := t.mem.l2.map fun x => if x.asid == (t.ctx c).asid && x.va == va then l2Write x ws k else x } } := by
    unfold homeWriteBy
    simp only [at_, open_, copied, ht, stays, held, Bool.false_eq_true, if_false, Option.isSome_some, if_true, only.ctx]
  refine ⟨y, runs ▸ only.trans (.l2 ..), line, kept, fun a v => ?_⟩
  rw [runs]
  refine (held_write mine a v).trans ?_
  rw [only.asid, found]
  split
  · rfl
  · rfl

/-- A write that leaves an L1, with no cut and no full Stockpot in its way, lands in its L2 slice. -/
theorem agentWriteBy_lands {k : Arrival} {s : State} {c va : Nat} {l : Leaf} {ws : List (Nat × Byte)} (home : homeInL2 s c l va = true)
    (flows : s.snap.cut ≠ 2) (free : stalls s c [(va, l)] = false) (ready : s.readyFor c va) :
    ∃ y, Landed k s (agentWriteBy k s c l va ws) c l va ws y := by
  unfold agentWriteBy
  rw [gate_open flows free]
  exact homeWriteBy_lands home free ready

/-- What stalls a write, that only a snapshot and a context's flags decide. -/
theorem stalls_congr {s t : State} (snap : t.snap = s.snap) (only : HomeOnly s t) (c : Nat) (ls : List (Nat × Leaf)) :
    stalls t c ls = stalls s c ls := by
  obtain ⟨w, r, ctx⟩ := only.ctx c
  unfold stalls stockFull needsCopy preserved
  simp only [snap, ctx]

theorem touchL2By_snap (s : State) (c : Nat) (l : Leaf) (va h : Nat) : (touchL2By s c l va h).snap = s.snap := by
  unfold touchL2By
  split
  · rfl
  · split
    · rfl
    · dsimp only
      split
      · exact makeRoomL2_snap ..
      · exact makeRoomL2_snap ..

/-- No write stalls while no drain runs (R247). -/
theorem stalls_idle {s : State} (idle : s.snap.st ≠ 2) (c : Nat) (ls : List (Nat × Leaf)) : stalls s c ls = false := by
  unfold stalls needsCopy
  simp [idle]

/-- A byte at its home after a write to its line there. -/
theorem Landed.homeByte {k : Arrival} {s t : State} {c va : Nat} {l : Leaf} {ws : List (Nat × Byte)} {y : Line}
    (h : Landed k s t c l va ws y) (len : y.bytes.length = 128) (cy : Nat) (lf : Leaf) (a : Nat) : Machine.homeByte t cy lf a =
    if (s.asid cy = s.asid c ∧ lf.sysa = false ∧ fencedHome s cy (lineOf a) = false) ∧ lineOf a = va
      then lastAt ws (a % 128) (y.bytes.getD (a % 128) 0#8) else Machine.homeByte s cy lf a := by
  have same : heldL2 t cy lf (lineOf a) = if lf.sysa = false ∧ fencedHome s cy (lineOf a) = false then
      (if s.asid cy = s.asid c ∧ lineOf a = va then some (l2Write y ws k) else s.l2Line? (s.asid cy) (lineOf a)) else none := by
    rw [heldL2_eq, h.only.fencedHome, h.only.asid, h.found]
  unfold Machine.homeByte
  rw [same, heldL2_eq, h.only.byteBelow]
  by_cases mine : lf.sysa = false ∧ fencedHome s cy (lineOf a) = false
  · rw [if_pos mine, if_pos mine]
    by_cases named : s.asid cy = s.asid c ∧ lineOf a = va
    · rw [if_pos named, if_pos ⟨⟨named.1, mine⟩, named.2⟩]
      exact putBytes_getD ws _ (by rw [len]; exact Nat.mod_lt _ (by decide))
    · rw [if_neg named, if_neg fun both => named ⟨both.1.1, both.2⟩]
  · rw [if_neg mine, if_neg mine, if_neg fun both => mine both.1.2]

/-! ## A line of the L1 (R173, R303) -/

/-- `t` is `s` but for the clusters. -/
def ClustersOnly (s t : State) : Prop := ∃ cl, t = { s with clusters := cl }

theorem l1Put_clusters (s : State) (k : Nat) (x : Line) : ClustersOnly s (l1Put s k x) := ⟨_, rfl⟩

namespace ClustersOnly
variable {s t u : State}

theorem refl (s : State) : ClustersOnly s s := ⟨_, rfl⟩

theorem trans (h : ClustersOnly s t) (k : ClustersOnly t u) : ClustersOnly s u := by
  obtain ⟨_, rfl⟩ := h
  obtain ⟨_, rfl⟩ := k
  exact ⟨_, rfl⟩

theorem mem (h : ClustersOnly s t) : t.mem = s.mem := by
  obtain ⟨_, rfl⟩ := h
  rfl

theorem asid (h : ClustersOnly s t) (c : Nat) : t.asid c = s.asid c := by
  obtain ⟨_, rfl⟩ := h
  rfl

theorem homeByte (h : ClustersOnly s t) (c : Nat) (l : Leaf) (va : Nat) : Machine.homeByte t c l va = Machine.homeByte s c l va := by
  obtain ⟨_, rfl⟩ := h
  rfl

end ClustersOnly

theorem seenByte_hit {s : State} {j c va : Nat} {x : Line} (h : s.l1At j (s.asid c) (lineOf va) = some x) (l : Leaf) :
    seenByte s j c l va = x.bytes.getD (va % 128) 0#8 := by
  unfold seenByte
  rw [l1Line?_eq, h]

theorem seenByte_miss {s : State} {j c va : Nat} (h : s.l1At j (s.asid c) (lineOf va) = none) (l : Leaf) :
    seenByte s j c l va = homeByte s c l va := by
  unfold seenByte
  rw [l1Line?_eq, h]

/-- A byte seen after one line of a cluster's L1 takes writes. -/
theorem seenByte_after {s t : State} {k c va : Nat} {x y : Line} {ws : List (Nat × Byte)} (only : ClustersOnly s t)
    (found : ∀ j a v, t.l1At j a v = if j = k ∧ a = s.asid c ∧ v = va then some y else s.l1At j a v)
    (held : l1Line? s k c va = some x) (len : x.bytes.length = 128) (bytes : y.bytes = putBytes x.bytes ws) (j cy : Nat) (lf : Leaf) (a : Nat) :
    seenByte t j cy lf a = if (j = k ∧ s.asid cy = s.asid c) ∧ lineOf a = va then lastAt ws (a % 128) (seenByte s j cy lf a)
      else seenByte s j cy lf a := by
  by_cases named : (j = k ∧ s.asid cy = s.asid c) ∧ lineOf a = va
  · obtain ⟨⟨rfl, same⟩, rfl⟩ := named
    have mine : s.l1At j (s.asid cy) (lineOf a) = some x := by rw [same]; exact held
    rw [if_pos ⟨⟨rfl, same⟩, rfl⟩, seenByte_hit mine, seenByte_hit (x := y) (by rw [only.asid, found, if_pos ⟨rfl, same, rfl⟩]), bytes,
      putBytes_getD _ _ (by rw [len]; exact Nat.mod_lt _ (by decide))]
  · have theirs : t.l1At j (t.asid cy) (lineOf a) = s.l1At j (s.asid cy) (lineOf a) := by
      rw [only.asid, found, if_neg fun both => named ⟨⟨both.1, both.2.1⟩, both.2.2⟩]
    rw [if_neg named]
    cases e : s.l1At j (s.asid cy) (lineOf a) with
    | some z => rw [seenByte_hit e, seenByte_hit (theirs.trans e)]
    | none => rw [seenByte_miss e, seenByte_miss (theirs.trans e), only.homeByte]

theorem setLines_home {s t : State} (only : HomeOnly s t) (k va : Nat) : setLines t k va = setLines s k va := by
  unfold setLines
  rw [only.cluster]

/-- A line after an access with hint `h`. -/
def markedLine (x : Line) (h : Nat) : Line := { x with mark := markBy x.mark h }

section
variable {s : State} {k c va h : Nat} {l : Leaf}

theorem l1Get_hit {x : Line} (held : l1Line? s k c va = some x) : l1Get s k c l va h =
    (l1Put s k (markedLine x h), some (markedLine x h)) := by
  unfold l1Get
  rw [held]
  rfl

variable (absent : l1Line? s k c va = none)
include absent

theorem l1Get_passes (through : hintAt s k h = 3) : l1Get s k c l va h = (touchL2By s c l va 3, none) := by
  unfold l1Get
  rw [absent]
  exact if_pos through

variable (cached : hintAt s k h ≠ 3)
include cached

theorem l1Get_miss : l1Get s k c l va h =
    let u := touchL2By (makeRoom s k va h) c l va h
    if (setLines u k va).length < l1Ways (u.cluster k) then
      (l1Put u k { freshLine u c l va with mark := markBy 0 h }, some { freshLine u c l va with mark := markBy 0 h })
    else (u, none) := by
  unfold l1Get
  rw [absent]
  exact if_neg cached

theorem l1Get_fills (room : (setLines s k va).length < l1Ways (s.cluster k)) : l1Get s k c l va h =
    (l1Put (touchL2By s c l va h) k { freshLine (touchL2By s c l va h) c l va with mark := markBy 0 h },
      some { freshLine (touchL2By s c l va h) c l va with mark := markBy 0 h }) := by
  have home := touchL2By_home s c l va h
  have stays : makeRoom s k va h = s := if_pos room
  rw [l1Get_miss absent cached, stays]
  exact if_pos (by rw [setLines_home home, home.cluster]; exact room)

/-- A full set whose lines must all stay. -/
theorem l1Get_crowded (full : ¬ (setLines s k va).length < l1Ways (s.cluster k))
    (stay : victimOf s.clk.tick h (replaceable s (setLines s k va)) = none) : l1Get s k c l va h = (touchL2By s c l va h, none) := by
  have home := touchL2By_home s c l va h
  have stays : makeRoom s k va h = s := by
    unfold makeRoom
    rw [if_neg full, stay]
  rw [l1Get_miss absent cached, stays]
  exact if_neg (by rw [setLines_home home, home.cluster]; exact full)

end

theorem makeRoom_evicts {s : State} {k va h : Nat} {y : Line} (full : ¬ (setLines s k va).length < l1Ways (s.cluster k))
    (leaves : victimOf s.clk.tick h (replaceable s (setLines s k va)) = some y) : makeRoom s k va h = evictL1 s k y := by
  unfold makeRoom
  rw [if_neg full, leaves]

/-- The victim of a fill is one of the lines it is chosen from. -/
theorem victimOf_mem {tick h : Nat} {ls : List Line} {y : Line} (e : victimOf tick h ls = some y) : y ∈ ls := by
  unfold victimOf at e
  dsimp only at e
  split at e
  · split at e
    · cases e
    · exact List.mem_of_getLast? e
  · split at e
    · exact List.mem_of_mem_filter (List.mem_of_getElem? e)
    · exact List.mem_of_mem_filter (List.mem_of_mem_filter (List.mem_of_getElem? e))

theorem replaceable_mem {s : State} {ls : List Line} {y : Line} (m : y ∈ replaceable s ls) : y ∈ ls := by
  unfold replaceable at m
  dsimp only at m
  split at m
  · exact List.mem_of_mem_filter m
  · cases m

theorem hintAt_three (s : State) (k h : Nat) : hintAt s k h = 3 ↔ h = 3 ∨ l1Ways (s.cluster k) = 0 := by
  unfold hintAt
  split
  · simp [*]
  · simp [*]

/-! ## Loads and stores of one line (R169) -/

section
variable {s : State} {k c va h : Nat} {l : Leaf}

theorem loadLine_hit {x : Line} (held : l1Line? s k c va = some x) :
    loadLine s k c l va h = (l1Put s k (markedLine x h), x.bytes, x.poison) := by
  unfold loadLine
  rw [l1Get_hit held]
  rfl

/-- The line that a store leaves of a line of the L1. -/
def storedLine (x : Line) (h : Nat) (ws : List (Nat × Byte)) : Line :=
  { x with mark := markBy x.mark h, bytes := putBytes x.bytes ws, poison := putPoison x.poison ws []
           dirty := ws.foldl (fun d w => d.set w.1 true) x.dirty }

theorem storeLine_hit {x : Line} (held : l1Line? s k c va = some x) (ws : List (Nat × Byte)) :
    storeLine s k c l va h ws = l1Put (l1Put s k (markedLine x h)) k (storedLine x h ws) := by
  unfold storeLine
  rw [l1Get_hit held]
  rfl

theorem loadLine_passes (absent : l1Line? s k c va = none) (through : hintAt s k h = 3) :
    loadLine s k c l va h = (touchL2By s c l va 3, homeLine (touchL2By s c l va 3) c l va) := by
  unfold loadLine
  rw [l1Get_passes absent through]

theorem storeLine_passes (absent : l1Line? s k c va = none) (through : hintAt s k h = 3) (ws : List (Nat × Byte)) :
    storeLine s k c l va h ws = agentWriteBy { compact := false, hint := 3 } (touchL2By s c l va 3) c l va ws := by
  have home := touchL2By_home s c l va 3
  unfold storeLine
  rw [l1Get_passes absent through]
  dsimp only
  rw [hintAt, home.cluster]
  exact congrArg (fun n => agentWriteBy { compact := false, hint := n } (touchL2By s c l va 3) c l va ws) through

/-- The line that a load or store with hint `h` fills the L1 with. -/
def filledLine (s : State) (c : Nat) (l : Leaf) (va h : Nat) : Line := { freshLine s c l va with mark := markBy 0 h }

theorem loadLine_fills (absent : l1Line? s k c va = none) (cached : hintAt s k h ≠ 3)
    (room : (setLines s k va).length < l1Ways (s.cluster k)) : loadLine s k c l va h =
      (l1Put (touchL2By s c l va h) k (filledLine (touchL2By s c l va h) c l va h), homeLine (touchL2By s c l va h) c l va) := by
  unfold loadLine
  rw [l1Get_fills absent cached room]
  rfl

theorem storeLine_fills (absent : l1Line? s k c va = none) (cached : hintAt s k h ≠ 3)
    (room : (setLines s k va).length < l1Ways (s.cluster k)) (ws : List (Nat × Byte)) : storeLine s k c l va h ws =
      let x := filledLine (touchL2By s c l va h) c l va h
      l1Put (l1Put (touchL2By s c l va h) k x) k { x with bytes := putBytes x.bytes ws, poison := putPoison x.poison ws []
                                                          dirty := ws.foldl (fun d w => d.set w.1 true) x.dirty } := by
  unfold storeLine
  rw [l1Get_fills absent cached room]
  rfl

end

/-- A line of the L1 that is put back changed, once or twice, is found, and every other as before. -/
theorem l1Put_found {s : State} {k c va : Nat} {x y : Line} (held : l1Line? s k c va = some x) (asid : y.asid = x.asid) (at_ : y.va = x.va)
    (j a v : Nat) : (l1Put s k y).l1At j a v = if j = k ∧ a = s.asid c ∧ v = va then some y else s.l1At j a v := by
  obtain ⟨h1, h2, -⟩ := find_line held
  rw [l1At_l1Put (l1At_inside held), asid, at_, h1, h2]

section
variable {s : State} {k c va h : Nat} {l : Leaf} {x : Line} (held : l1Line? s k c va = some x)
include held

theorem loadLine_hit_found (j a v : Nat) : (loadLine s k c l va h).1.l1At j a v =
    if j = k ∧ a = s.asid c ∧ v = va then some (markedLine x h) else s.l1At j a v := by
  rw [loadLine_hit held]
  exact l1Put_found (y := markedLine x h) held rfl rfl j a v

theorem storeLine_hit_only (ws : List (Nat × Byte)) : ClustersOnly s (storeLine s k c l va h ws) := by
  rw [storeLine_hit held]
  exact (l1Put_clusters ..).trans (l1Put_clusters ..)

theorem storeLine_hit_found (ws : List (Nat × Byte)) (j a v : Nat) : (storeLine s k c l va h ws).l1At j a v =
    if j = k ∧ a = s.asid c ∧ v = va then some (storedLine x h ws) else s.l1At j a v := by
  have first : l1Line? (l1Put s k (markedLine x h)) k c va = some (markedLine x h) := by
    rw [l1Line?_eq, (l1Put_clusters ..).asid, l1Put_found (y := markedLine x h) held rfl rfl, if_pos ⟨rfl, rfl, rfl⟩]
  rw [storeLine_hit held, l1Put_found (y := storedLine x h ws) first rfl rfl, l1Put_found (y := markedLine x h) held rfl rfl,
    (l1Put_clusters ..).asid]
  split
  · rfl
  · rfl

variable (len : x.bytes.length = 128)
include len

/-- A load of a line that the L1 holds changes no byte that anyone sees. -/
theorem loadLine_hit_seen (j cy : Nat) (lf : Leaf) (a : Nat) :
    seenByte (loadLine s k c l va h).1 j cy lf a = seenByte s j cy lf a := by
  have only : ClustersOnly s (loadLine s k c l va h).1 := by
    rw [loadLine_hit held]
    exact l1Put_clusters ..
  rw [seenByte_after (ws := []) only (loadLine_hit_found held) held len rfl]
  exact ite_self _

theorem storeLine_hit_seen (ws : List (Nat × Byte)) (j cy : Nat) (lf : Leaf) (a : Nat) : seenByte (storeLine s k c l va h ws) j cy lf a =
    if (j = k ∧ s.asid cy = s.asid c) ∧ lineOf a = va then lastAt ws (a % 128) (seenByte s j cy lf a) else seenByte s j cy lf a :=
  seenByte_after (storeLine_hit_only held ws) (storeLine_hit_found held ws) held len rfl j cy lf a

end

/-! ## A line that passes the L1, or fills it (R173) -/

/-- An access leaves the memories alone when its L2 slice has the line, or room for it. -/
def State.fits (s : State) (c : Nat) (l : Leaf) (va : Nat) : Prop :=
  homeInL2 s c l va = true → (s.l2Line? (s.asid c) va).isSome = true ∨ s.roomFor c va

section
variable {s : State} {c va : Nat} {l : Leaf} (fits : s.fits c l va)
include fits

theorem touchL2By_only_l2 (h : Nat) : L2Only s (touchL2By s c l va h) := by
  by_cases home : homeInL2 s c l va = true
  · obtain ⟨_, only, -⟩ := touchL2By_brings (h := h) home (fits home)
    exact only
  · rw [touchL2By_skips (Bool.eq_false_iff.2 home)]
    exact .refl s

/-- The home holds the line that an access brings into L2 as it held it before. -/
theorem touchL2By_homeLine (h : Nat) : homeLine (touchL2By s c l va h) c l va = homeLine s c l va := by
  by_cases home : homeInL2 s c l va = true
  · obtain ⟨y, only, -, -, line, -, found⟩ := touchL2By_brings (h := h) home (fits home)
    have mine : heldL2 (touchL2By s c l va h) c l va = some y := by
      rw [heldL2_home (by rw [only.homeInL2]; exact home), found, only.asid, if_pos ⟨rfl, rfl⟩]
    rw [homeLine_held mine, line]
  · rw [touchL2By_skips (Bool.eq_false_iff.2 home)]

end

end Sys2Proof.Machine
end

section
/-!
What a load and a store of one line do, and the CACHE instructions (O17; spec 06 R169, R173, R174; 09 R258; 12 R303, R308).
-/

namespace Sys2Proof.Machine

theorem lineOf_add {va o : Nat} (line : lineOf va = va) (ho : o < 128) : lineOf (va + o) = va ∧ (va + o) % 128 = o := by
  unfold lineOf at line ⊢
  omega

/-! ## A line of the L1 (R169) -/

section
variable {s : State} {k c va h : Nat} {l : Leaf} {x : Line} (held : l1Line? s k c va = some x)
include held

theorem storeLine_hit_byte (line : lineOf va = va) (len : x.bytes.length = 128) (ws : List (Nat × Byte)) {o : Nat} (ho : o < 128) :
    seenByte (storeLine s k c l va h ws) k c l (va + o) = lastAt ws o (x.bytes.getD o 0#8) := by
  obtain ⟨at_, off⟩ := lineOf_add line ho
  have mine : s.l1At k (s.asid c) (lineOf (va + o)) = some x := by rw [at_]; exact held
  rw [storeLine_hit_seen held len, if_pos ⟨⟨rfl, rfl⟩, at_⟩, seenByte_hit mine, off]

end

/-! ## A line that passes the L1 (R173, R303) -/

section
variable {s : State} {k c va h : Nat} {l : Leaf} (absent : l1Line? s k c va = none)
include absent

theorem loadLine_home (fits : s.fits c l va) (cond : h = 3 ∨ l1Ways (s.cluster k) = 0 ∨ (setLines s k va).length < l1Ways (s.cluster k)) :
    (loadLine s k c l va h).2.1 = (homeLine s c l va).1 ∧ (loadLine s k c l va h).1.mem.home = s.mem.home ∧
      (loadLine s k c l va h).1.mem.host = s.mem.host := by
  by_cases through : hintAt s k h = 3
  · have only := touchL2By_only_l2 fits 3
    rw [loadLine_passes absent through]
    exact ⟨congrArg Prod.fst (touchL2By_homeLine fits 3), only.home, only.host⟩
  · have room : (setLines s k va).length < l1Ways (s.cluster k) := by
      rcases cond with c1 | c2 | room
      · exact absurd ((hintAt_three ..).2 (.inl c1)) through
      · exact absurd ((hintAt_three ..).2 (.inr c2)) through
      · exact room
    have only := touchL2By_only_l2 fits h
    rw [loadLine_fills absent through room]
    exact ⟨congrArg Prod.fst (touchL2By_homeLine fits h), only.home, only.host⟩

theorem loadLine_passes_clusters (through : hintAt s k h = 3) : (loadLine s k c l va h).1.clusters = s.clusters := by
  rw [loadLine_passes absent through]
  exact (touchL2By_home ..).clusters

/-- A store that passes the L1 lands in the L2 slice. -/
theorem storeLine_lands (through : hintAt s k h = 3) (home : homeInL2 s c l va = true) (ready : s.readyFor c va) (flows : s.snap.cut ≠ 2)
    (free : stalls s c [(va, l)] = false) (ws : List (Nat × Byte)) : ∃ y, Landed { compact := false, hint := 3 } (touchL2By s c l va 3)
      (storeLine s k c l va h ws) c l va ws y := by
  have only := touchL2By_only_l2 (fun _ => readyFor_brings ready) 3 (l := l)
  rw [storeLine_passes absent through]
  refine agentWriteBy_lands (by rw [only.homeInL2]; exact home) (by rw [touchL2By_snap]; exact flows)
    (by rw [stalls_congr (touchL2By_snap ..) (touchL2By_home ..)]; exact free) ?_
  rcases touchL2By_ready (h := 3) home ready with ⟨y, held, form⟩ | room
  · exact .inr ⟨y, by rw [only.asid]; exact held, form⟩
  · exact .inl room

theorem storeLine_lands_byte (through : hintAt s k h = 3) (home : homeInL2 s c l va = true) (ready : s.readyFor c va)
    (flows : s.snap.cut ≠ 2) (free : stalls s c [(va, l)] = false) (line : lineOf va = va)
    (len : ∀ x, s.l2Line? (s.asid c) va = some x → x.bytes.length = 128) (ws : List (Nat × Byte)) :
    (storeLine s k c l va h ws).clusters = s.clusters ∧ ∀ o, o < 128 →
      homeByte (storeLine s k c l va h ws) c l (va + o) = lastAt ws o (homeByte s c l (va + o)) := by
  obtain ⟨y, landed⟩ := storeLine_lands absent through home ready flows free ws
  have fits : s.fits c l va := fun _ => readyFor_brings ready
  have only := touchL2By_only_l2 fits 3
  have bytes : y.bytes = (homeLine s c l va).1 := (congrArg Prod.fst landed.line).trans (congrArg Prod.fst (touchL2By_homeLine fits 3))
  obtain ⟨plain, n, at_, open_⟩ := (homeInL2_iff ..).1 home
  refine ⟨landed.only.clusters.trans only.clusters, fun o ho => ?_⟩
  obtain ⟨here, off⟩ := lineOf_add line ho
  have reached : fencedHome (touchL2By s c l va 3) c (lineOf (va + o)) = false := by
    rw [here, only.fencedHome, fencedHome_stack at_, open_]
  rw [landed.homeByte (by rw [bytes, homeLine_length len]), if_pos ⟨⟨rfl, plain, reached⟩, here⟩, off, bytes, homeByte_line s c l line ho]

/-! ## A line that fills the L1 (R173, R308) -/

variable (cached : hintAt s k h ≠ 3) (inside : k < s.clusters.length)
include cached inside

section
variable (room : (setLines s k va).length < l1Ways (s.cluster k)) (fits : s.fits c l va)
include room

theorem loadLine_fills_others {v : Nat} (other : v ≠ va) : l1Line? (loadLine s k c l va h).1 k c v = l1Line? s k c v := by
  have home := touchL2By_home s c l va h
  rw [loadLine_fills absent cached room, l1Line?_eq, l1At_l1Put (by rw [home.clusters]; exact inside)]
  refine (if_neg fun both => other both.2.2).trans ?_
  rw [(l1Put_clusters ..).asid, home.asid, home.l1At]
  rfl

include fits

theorem loadLine_fills_line : ∃ x, l1Line? (loadLine s k c l va h).1 k c va = some x ∧ (x.bytes, x.poison) = homeLine s c l va ∧
    x.dirty = List.replicate 128 false ∧ x.mark = if h = 1 ∨ h = 2 then h else 0 := by
  have home := touchL2By_home s c l va h
  refine ⟨filledLine (touchL2By s c l va h) c l va h, ?_, touchL2By_homeLine fits h, rfl, ?_⟩
  · rw [loadLine_fills absent cached room, l1Line?_eq, l1At_l1Put (by rw [home.clusters]; exact inside)]
    exact if_pos ⟨rfl, (l1Put_clusters ..).asid c, rfl⟩
  · show markBy 0 h = _
    unfold markBy
    rw [if_neg (by decide)]
    by_cases one : h = 1
    · simp [one]
    · by_cases two : h = 2
      · simp [two]
      · simp [one, two]

/-- A store that fills a line is seen with the home's other bytes. -/
theorem storeLine_fills_byte (line : lineOf va = va) (len : ∀ x, s.l2Line? (s.asid c) va = some x → x.bytes.length = 128)
    (ws : List (Nat × Byte)) : (storeLine s k c l va h ws).mem.home = s.mem.home ∧ ∀ o, o < 128 →
      seenByte (storeLine s k c l va h ws) k c l (va + o) = lastAt ws o (homeByte s c l (va + o)) := by
  have only := touchL2By_only_l2 fits h
  have bytes : (homeLine (touchL2By s c l va h) c l va).1 = (homeLine s c l va).1 := congrArg Prod.fst (touchL2By_homeLine fits h)
  rw [storeLine_fills absent cached room]
  refine ⟨only.home, fun o ho => ?_⟩
  obtain ⟨here, off⟩ := lineOf_add line ho
  have within : k < (l1Put (touchL2By s c l va h) k (filledLine (touchL2By s c l va h) c l va h)).clusters.length := by
    show k < (updAt _ _ _).length
    rw [updAt_length, only.clusters]
    exact inside
  rw [seenByte_hit (by rw [here, l1At_l1Put within]; exact if_pos ⟨rfl, rfl, rfl⟩), off, putBytes_getD]
  · show lastAt ws o ((homeLine (touchL2By s c l va h) c l va).1.getD o 0#8) = _
    rw [bytes, homeByte_line s c l line ho]
  · show o < (homeLine (touchL2By s c l va h) c l va).1.length
    rw [bytes, homeLine_length len]
    exact ho

end

end

/-! ## Full sets (R308) -/

theorem evictL1_ways (s : State) (k : Nat) (x : Line) (j : Nat) : l1Ways ((evictL1 s k x).cluster j) = l1Ways (s.cluster j) := by
  rw [evictL1_cluster]
  exact cluster_mapCluster_keeps s k j l1Ways fun _ => rfl

theorem setLines_evictL1 {s : State} {k : Nat} (inside : k < s.clusters.length) (x : Line) (va : Nat) :
    setLines (evictL1 s k x) k va = (setLines s k va).filter fun y => !isLine x.asid x.va y := by
  unfold setLines
  rw [evictL1_cluster, l1Drop, State.mapL1, cluster_mapCluster_same _ inside, List.filter_comm]

theorem setLines_inside {s : State} {k va : Nat} {x : Line} (m : x ∈ setLines s k va) : k < s.clusters.length := by
  by_contra outside
  unfold setLines at m
  rw [cluster_outside (Nat.le_of_not_lt outside)] at m
  exact absurd (List.mem_filter.1 m).1 List.not_mem_nil

theorem setLines_evictL1_lt {s : State} {k va : Nat} {x : Line} (m : x ∈ setLines s k va) :
    (setLines (evictL1 s k x) k va).length < (setLines s k va).length := by
  rw [setLines_evictL1 (setLines_inside m)]
  exact List.length_filter_lt_length_iff_exists.2 ⟨x, m, by simp [isLine]⟩

theorem setLines_makeRoom (s : State) (k va h : Nat) : (setLines (makeRoom s k va h) k va).length ≤ (setLines s k va).length := by
  unfold makeRoom
  split
  · exact Nat.le_refl _
  · split
    · exact Nat.le_refl _
    · rename_i y leaves
      exact Nat.le_of_lt (setLines_evictL1_lt (replaceable_mem (victimOf_mem leaves)))

theorem loadLine_state (s : State) (k c : Nat) (l : Leaf) (va h : Nat) : (loadLine s k c l va h).1 = (l1Get s k c l va h).1 := by
  unfold loadLine
  rcases l1Get s k c l va h with ⟨t, _ | x⟩ <;> rfl

/-- A load of a line with a full set: it evicts a line of the set first, or passes the L1. -/
theorem loadLine_full {s : State} {k c va h : Nat} {l : Leaf} (absent : l1Line? s k c va = none) (cached : hintAt s k h ≠ 3)
    (full : (setLines s k va).length = l1Ways (s.cluster k)) :
    (∃ y ∈ setLines s k va, loadLine s k c l va h = loadLine (evictL1 s k y) k c l va h) ∨
      (loadLine s k c l va h).1.clusters = s.clusters := by
  have crowded : ¬ (setLines s k va).length < l1Ways (s.cluster k) := by omega
  cases leaves : victimOf s.clk.tick h (replaceable s (setLines s k va)) with
  | none =>
    right
    rw [loadLine_state, l1Get_crowded absent cached crowded leaves]
    exact (touchL2By_home ..).clusters
  | some y =>
    have mine := replaceable_mem (victimOf_mem leaves)
    have still : l1Line? (evictL1 s k y) k c va = none := by
      rw [l1Line?_eq, evictL1_l1At, evictL1_asid]
      split
      · rfl
      · exact absent
    have cached2 : hintAt (evictL1 s k y) k h ≠ 3 := by
      unfold hintAt at cached ⊢
      rwa [evictL1_ways]
    have room : makeRoom (evictL1 s k y) k va h = evictL1 s k y :=
      if_pos (by rw [evictL1_ways, ← full]; exact setLines_evictL1_lt mine)
    refine .inl ⟨y, mine, ?_⟩
    unfold loadLine
    rw [l1Get_miss absent cached, l1Get_miss still cached2, makeRoom_evicts crowded leaves, room]

/-- A line put into the L1 adds at most itself to its set, and nothing where it was there before. -/
theorem setLines_l1Put {s : State} {k : Nat} (inside : k < s.clusters.length) (x : Line) (va : Nat) :
    (setLines (l1Put s k x) k va).length ≤ (setLines s k va).length + 1 := by
  unfold setLines
  rw [l1Put, State.mapL1, cluster_mapCluster_same _ inside]
  have fewer := ((List.filter_sublist (l := (s.cluster k).l1) (p := fun y => !isLine x.asid x.va y)).filter
    fun y => setOf y.va == setOf va).length_le
  rw [List.filter_cons]
  split
  · exact Nat.succ_le_succ fewer
  · exact Nat.le_succ_of_le fewer

theorem setLines_l1Put_held {s : State} {k c v : Nat} {x y : Line} (held : l1Line? s k c v = some x) (asid : y.asid = x.asid)
    (at_ : y.va = x.va) (va : Nat) : (setLines (l1Put s k y) k va).length ≤ (setLines s k va).length := by
  obtain ⟨h1, h2, there⟩ := find_line held
  unfold setLines
  rw [l1Put, State.mapL1, cluster_mapCluster_same _ (l1At_inside held)]
  refine count_front_le there (isLine_iff.2 ⟨asid.symm, at_.symm⟩) fun counted => ?_
  rwa [← at_]

/-- A set never grows over the ways (R303). -/
theorem loadLine_setLines {s : State} {k : Nat} (inside : k < s.clusters.length) (c va h : Nat) (l : Leaf) :
    (setLines (loadLine s k c l va h).1 k va).length ≤ max (setLines s k va).length (l1Ways (s.cluster k)) := by
  rw [loadLine_state]
  cases held : l1Line? s k c va with
  | some x =>
    rw [l1Get_hit held]
    exact (setLines_l1Put_held (y := markedLine x h) held rfl rfl va).trans (Nat.le_max_left ..)
  | none =>
    by_cases through : hintAt s k h = 3
    · rw [l1Get_passes held through, setLines_home (touchL2By_home ..)]
      exact Nat.le_max_left ..
    · have home := touchL2By_home (makeRoom s k va h) c l va h
      have fewer := setLines_makeRoom s k va h
      have ways : l1Ways ((makeRoom s k va h).cluster k) = l1Ways (s.cluster k) := by
        unfold makeRoom
        split
        · rfl
        · split
          · rfl
          · exact evictL1_ways ..
      have within : k < (touchL2By (makeRoom s k va h) c l va h).clusters.length := by
        rw [home.clusters]
        unfold makeRoom
        split
        · exact inside
        · split
          · exact inside
          · obtain ⟨u, only, e⟩ := evictL1_drops s k ‹Line›
            rw [e]
            show k < (updAt _ _ _).length
            rw [updAt_length, only.clusters]
            exact inside
      rw [l1Get_miss held through]
      dsimp only
      split
      · rename_i below
        rw [home.cluster, ways] at below
        exact (setLines_l1Put within ..).trans (by omega)
      · rw [setLines_home home]
        omega

end Sys2Proof.Machine
end

section
/-!
The CACHE instructions, and with them the statement on lines (O17; spec 06 R174; 09 R258, R372).
-/

namespace Sys2Proof.Machine

/-! ## What the instructions do to each line (R174) -/

/-- A CACHE instruction acts on the lines its lanes name, one after another, and on no register. -/
theorem cacheOp_each {s : State} {c : Iss} {a : Nat} {b : Src} {f : Iss → State → Nat → State} {g : State → Nat → State}
    (h : Issues s c { a := pair6 a, b := srcOp b, ext := .bits 21 }) (only : ∀ u va, MemoryOnly u (g u va))
    (same : ∀ u va, MemoryOnly s u → f c u va = g u va) :
    cacheOp s a b f = finishesIn s ((c.namedLines a b).foldl g s) c c.warp := by
  have folds : ∀ (vas : List Nat) (u : State), MemoryOnly s u → vas.foldl (f c) u = vas.foldl g u := by
    intro vas
    induction vas with
    | nil => exact fun _ _ => rfl
    | cons va vas ih =>
      intro u mine
      rw [List.foldl_cons, List.foldl_cons, same u va mine]
      exact ih _ (mine.trans (only u va))
  have all : MemoryOnly s ((c.namedLines a b).foldl g s) := MemoryOnly.foldl (p := id) only _ s
  refine execute_completeIn h all.warps all.clk ?_
  rw [folds _ s (.refl s)]

theorem prefetch_only (c : Iss) (h : Nat) (s : State) (va : Nat) : MemoryOnly s (c.prefetch h s va) := by
  unfold Iss.prefetch
  dsimp only
  split
  · exact .ite (touchL2By_only ..) (l1Get_only ..)
  · exact .refl s

theorem unmark_only (c : Iss) (s : State) (va : Nat) : MemoryOnly s (c.unmark s va) :=
  (mapL1_only s c.cluster _).trans (.mem fun h => h)

/-- The lines of the cluster's L1 that an instruction names are given to `f`. -/
def onHeld (f : State → Nat → Line → State) (k cx : Nat) (u : State) (va : Nat) : State :=
  match l1Line? u k cx va with
  | some x => f u k x
  | none => u

theorem onHeld_only {f : State → Nat → Line → State} (only : ∀ u k x, MemoryOnly u (f u k x)) (k cx : Nat) (u : State) (va : Nat) :
    MemoryOnly u (onHeld f k cx u va) := by
  unfold onHeld
  split
  · exact only ..
  · exact .refl u

/-- The context of a warp, that operations on memory leave as it is. -/
theorem ctxOf_only {s u : State} (only : MemoryOnly s u) (x : Warp) : u.ctxOf x = s.ctxOf x := by
  unfold State.ctxOf State.launchOf State.launch State.team
  rw [only.teams, only.launches]

theorem cacheOp_held {s : State} {c : Iss} {a : Nat} {b : Src} {f : State → Nat → Line → State}
    (h : Issues s c { a := pair6 a, b := srcOp b, ext := .bits 21 }) (only : ∀ u k x, MemoryOnly u (f u k x)) :
    cacheOp s a b (fun c s va => c.onLine f s va) = finishesIn s ((c.namedLines a b).foldl (onHeld f c.cluster (s.ctxOf c.warp)) s) c c.warp := by
  refine cacheOp_each h (onHeld_only only _ _) fun u va mine => ?_
  unfold Iss.onLine
  rw [ctxOf_only mine]
  rfl

/-! ## PREF and DEMOTE -/

section
variable {s : State} {c : Iss} {h va : Nat}

theorem prefetch_dropped (fails : leafCheck s (s.ctxOf c.warp) c.warp.pkr .read va (accessLeaf s c.cluster (s.ctxOf c.warp) va) ≠ none ∨
    remoteWait s c.cluster (s.ctxOf c.warp) va ≠ none) : c.prefetch h s va = s := by
  unfold Iss.prefetch
  dsimp only
  split
  · rename_i e1 e2
    exact absurd fails (by simp [e1, e2])
  · rfl

variable (pass : leafCheck s (s.ctxOf c.warp) c.warp.pkr .read va (accessLeaf s c.cluster (s.ctxOf c.warp) va) = none)
  (free : remoteWait s c.cluster (s.ctxOf c.warp) va = none)
include pass free

theorem prefetch_loads (cached : h ≠ 3) : c.prefetch h s va =
    (loadLine s c.cluster (s.ctxOf c.warp) (grantedLeaf s c.cluster (s.ctxOf c.warp) va) va h).1 := by
  rw [loadLine_state]
  unfold Iss.prefetch
  simp only [pass, free, if_neg cached]

theorem prefetch_l2 (through : h = 3) : (c.prefetch h s va).clusters = s.clusters := by
  unfold Iss.prefetch
  simp only [pass, free, if_pos through]
  exact (touchL2By_home ..).clusters

end

theorem unmark_eq (c : Iss) (s : State) (va : Nat) :
    let f : Line → Line := fun x => if x.asid = (s.ctx (s.ctxOf c.warp)).asid ∧ x.va = va ∧ x.mark = 2 then { x with mark := 0 } else x
    c.unmark s va = { s.mapCluster c.cluster fun y => { y with l1 := y.l1.map f } with mem := { s.mem with l2 := s.mem.l2.map f } } := by
  have same : (fun x : Line => if isLine (s.asid (s.ctxOf c.warp)) va x && x.mark == 2 then { x with mark := 0 } else x) =
      fun x => if x.asid = (s.ctx (s.ctxOf c.warp)).asid ∧ x.va = va ∧ x.mark = 2 then { x with mark := 0 } else x := by
    funext x
    refine if_congr ?_ rfl rfl
    rw [Bool.and_eq_true, isLine_iff, beq_iff_eq, and_assoc]
    rfl
  unfold Iss.unmark
  dsimp only
  rw [same]
  rfl

/-! ## CLEANL and INVL: what a write-back leaves at the home (R258) -/

/-- Of the writes at some offsets, each at most once, the one at an offset. -/
theorem lastAt_filterMap (p : Nat → Bool) (b : Nat → Byte) (n o : Nat) (old : Byte) :
    lastAt ((List.range n).filterMap fun i => if p i then some (i, b i) else none) o old = if o < n ∧ p o = true then b o else old := by
  induction n with
  | zero => rw [if_neg (by omega)]; rfl
  | succ n ih =>
    have last : [n].filterMap (fun i => if p i then some (i, b i) else none) = if p n then [(n, b n)] else [] := by
      cases e : p n <;> simp [e]
    rw [List.range_succ, List.filterMap_append, lastAt_append, ih, last]
    by_cases here : o = n
    · subst here
      cases e : p o <;> simp [lastAt_cons]
    · have below : o < n + 1 ∧ p o = true ↔ o < n ∧ p o = true := and_congr_left fun _ => by omega
      rw [if_congr below rfl rfl]
      cases p n
      · rfl
      · exact (lastAt_cons ..).trans (if_neg (Ne.symm here))

/-- Of the bytes that a cluster has written in a line, the one at an offset. -/
theorem lastAt_writes (x : Line) {o : Nat} (ho : o < 128) (old : Byte) :
    lastAt x.writes o old = if x.dirty.getD o false then x.bytes.getD o 0#8 else old := by
  rw [Line.writes, lastAt_filterMap]
  exact if_congr (and_iff_right ho) rfl rfl

section
variable {s : State} {k : Nat} {x : Line} (accepted : refusedNow s x = false)
include accepted

theorem offer_accepted : (offer s k x).2 = false := by
  unfold offer
  rw [accepted]
  split <;> rfl

/-- The state at the homes after the write-back of an accepted line. -/
theorem offer_lands {va : Nat} (at_ : x.va = va) (home : homeInL2 s x.ctx (wbLeaf s x) va = true) (flows : s.snap.cut ≠ 2)
    (free : stalls s x.ctx [(va, wbLeaf s x)] = false) (line : lineOf va = va)
    (len : ∀ y, s.l2Line? (s.asid x.ctx) va = some y → y.bytes.length = 128) (ready : s.readyFor x.ctx va) {o : Nat} (ho : o < 128) :
    homeByte (offer s k x).1 x.ctx (wbLeaf s x) (va + o) =
      if x.dirty.getD o false then x.bytes.getD o 0#8 else homeByte s x.ctx (wbLeaf s x) (va + o) := by
  subst at_
  obtain ⟨plain, n, stack, open_⟩ := (homeInL2_iff ..).1 home
  by_cases dirty : x.isDirty = true
  · obtain ⟨y, landed⟩ := agentWriteBy_lands (k := { carried := x.poison }) (ws := x.writes) home flows free ready
    have runs : (offer s k x).1 = agentWriteBy { carried := x.poison } s x.ctx (wbLeaf s x) x.va x.writes := by
      have stays : ∀ u : State, u.ctx x.ctx = s.ctx x.ctx → awaitPeer u k x = u := fun u same => by
        unfold awaitPeer
        rw [same, stack]
      unfold offer
      simp only [dirty, accepted, Bool.not_true, Bool.false_eq_true, if_false]
      exact stays _ (landed.only.ctx _)
    have bytes : y.bytes = (homeLine s x.ctx (wbLeaf s x) x.va).1 := congrArg Prod.fst landed.line
    obtain ⟨here, off⟩ := lineOf_add line ho
    have reached : fencedHome s x.ctx (lineOf (x.va + o)) = false := by rw [here, fencedHome_stack stack, open_]
    rw [runs, landed.homeByte (by rw [bytes, homeLine_length len]), if_pos ⟨⟨rfl, plain, reached⟩, here⟩, off, lastAt_writes x ho, bytes,
      homeByte_line s x.ctx _ line ho]
  · have clean : x.dirty.getD o false = false := by
      rw [Line.isDirty, Bool.not_eq_true, List.any_eq_false] at dirty
      rw [List.getD_eq_getElem?_getD]
      cases e : x.dirty[o]? with
      | none => rfl
      | some d => simpa using dirty d (List.mem_of_getElem? e)
    have runs : (offer s k x).1 = s := by
      unfold offer
      simp [dirty]
    rw [runs, clean]
    rfl

/-- An accepted line after CLEANL: the homes with the write-back, and the line clean. -/
theorem cleanL1_accepted : cleanL1 s k x = (offer s k x).1.mapL1 k fun ls =>
    ls.map fun y => if isLine x.asid x.va y then { y with dirty := List.replicate 128 false } else y := by
  unfold cleanL1
  dsimp only
  rw [offer_accepted accepted]
  rfl

theorem evictL1_accepted : evictL1 s k x = l1Drop (offer s k x).1 k x.asid x.va := by
  unfold evictL1
  dsimp only
  rw [offer_accepted accepted]
  rfl

theorem cleanL1_line {c va : Nat} (held : l1Line? s k c va = some x) :
    l1Line? (cleanL1 s k x) k c va = some { x with dirty := List.replicate 128 false } := by
  have home := offer_home s k x
  have inside : k < (offer s k x).1.clusters.length := by
    rw [home.clusters]
    exact l1At_inside held
  obtain ⟨asid, at_, -⟩ := find_line held
  have same : ((offer s k x).1.mapL1 k fun ls => ls.map fun y =>
      if isLine x.asid x.va y then { y with dirty := List.replicate 128 false } else y).asid c = s.asid c := home.asid c
  rw [cleanL1_accepted accepted, l1Line?_eq, same, l1At_mapL1 inside, if_pos rfl]
  refine (find_map (fun y => ?_) _ _ _).trans ?_
  · split <;> exact ⟨rfl, rfl⟩
  · have mine : (offer s k x).1.l1At k (s.asid c) va = some x := (home.l1At ..).trans held
    unfold State.l1At at mine
    rw [mine]
    exact congrArg some (if_pos (isLine_iff.2 ⟨rfl, rfl⟩))

/-- What both leave at the home. -/
theorem writtenBack_home {u : State} (done : u = cleanL1 s k x ∨ u = evictL1 s k x) (l : Leaf) (a : Nat) :
    homeByte u x.ctx l a = homeByte (offer s k x).1 x.ctx l a := by
  rcases done with rfl | rfl
  · rw [cleanL1_accepted accepted]
    exact ClustersOnly.homeByte ⟨_, rfl⟩ ..
  · rw [evictL1_accepted accepted]
    exact ClustersOnly.homeByte ⟨_, rfl⟩ ..

end

/-- Settles O17: a line of the L1, one that passes it or fills it, and a full set; then the CACHE words line by line. -/
theorem cacheLines : Obligations.CacheLines := by
  unfold Obligations.CacheLines
  refine ⟨fun s k cx l va h ws line inside _ len => ?_, fun s c a b h issues => ?_⟩
  · have stored : ∀ x, s.l2Line? (s.asid cx) va = some x → x.bytes.length = 128 := fun x e => len x (find_line e).2.2
    refine ⟨fun x held full => ⟨?_, ?_, (storeLine_hit_only held ws).mem, fun o ho => storeLine_hit_byte held line full ws ho⟩,
      fun absent fits => ⟨loadLine_home absent fits, fun through => ?_, fun cached room => ?_⟩, fun absent cached ways full => ?_,
      loadLine_setLines inside cx va h l⟩
    · exact congrArg (fun r : State × List Byte × List Bool => r.2.1) (loadLine_hit held)
    · exact congrArg (fun r : State × List Byte × List Bool => r.1.mem) (loadLine_hit held)
    · have through3 := (hintAt_three s k h).2 through
      exact ⟨loadLine_passes_clusters absent through3, fun home ready flows free =>
        storeLine_lands_byte absent through3 home ready flows free line stored ws⟩
    · have cached3 : hintAt s k h ≠ 3 := fun e => ((hintAt_three s k h).1 e).elim cached fun zero => by omega
      obtain ⟨kept, bytes⟩ := storeLine_fills_byte absent cached3 inside room fits line stored ws
      exact ⟨loadLine_fills_line absent cached3 inside room fits, fun v => loadLine_fills_others absent cached3 inside room, kept, bytes⟩
    · have cached3 : hintAt s k h ≠ 3 := fun e => ((hintAt_three s k h).1 e).elim cached ways
      exact loadLine_full absent cached3 full
  · refine ⟨cacheOp_each issues (prefetch_only c h) fun _ _ _ => rfl, cacheOp_each issues (unmark_only c) fun _ _ _ => rfl,
      cacheOp_held issues cleanL1_only, cacheOp_held issues evictL1_only, fun va line => ⟨⟨prefetch_dropped, fun pass free =>
        ⟨prefetch_loads pass free, prefetch_l2 pass free⟩⟩, unmark_eq c s va, fun x held _ full => ⟨evictL1_gone held, fun accepted =>
        ⟨⟨_, cleanL1_line accepted held, rfl, fun _ => rfl⟩, ?_⟩⟩⟩⟩
    intro l place home _ flows free len ready u done o ho
    have stored : ∀ y, s.l2Line? (s.asid x.ctx) va = some y → y.bytes.length = 128 := fun y e => len y (find_line e).2.2
    rw [writtenBack_home accepted done, offer_lands accepted (find_line held).2.1 home flows free line stored ready ho]

end Sys2Proof.Machine
end

section
/-!
Loads (O15; spec 06 R167 to R171; 22 R403).
-/

namespace Sys2Proof.Machine

/-! ## What the bytes of a load make of a register (R168) -/

theorem leNat_testBit : ∀ (bs : List Byte) (i : Nat), (leNat bs).testBit i = (bs.getD (i / 8) 0#8).getLsbD (i % 8)
  | [], i => by simp [leNat]
  | b :: bs, i => by
    have step : leNat (b :: bs) = 2 ^ 8 * leNat bs + b.toNat := by
      show b.toNat + 256 * leNat bs = _
      omega
    rw [step, Nat.testBit_two_pow_mul_add _ b.isLt]
    by_cases low : i < 8
    · rw [if_pos low, Nat.div_eq_of_lt low, Nat.mod_eq_of_lt low]
      rfl
    · have up : i / 8 = (i - 8) / 8 + 1 := by omega
      have same : i % 8 = (i - 8) % 8 := by omega
      rw [if_neg low, leNat_testBit bs (i - 8), up, same, List.getD_cons_succ]

/-- Bit `k` of the bytes of a load. -/
def byteBit (bs : List Byte) (k : Nat) : Bool := (bs.getD (k / 8) 0#8).getLsbD (k % 8)

theorem leNat_bit (bs : List Byte) {n i : Nat} (hi : i < n) : (BitVec.ofNat n (leNat bs)).getLsbD i = byteBit bs i := by
  rw [BitVec.getLsbD_ofNat, leNat_testBit, decide_eq_true hi, Bool.true_and]
  rfl

theorem byteBit_outside {bs : List Byte} {n k : Nat} (len : bs.length = n) (h : 8 * n ≤ k) : byteBit bs k = false := by
  have outside : bs.length ≤ k / 8 := by omega
  rw [byteBit, List.getD_eq_getElem?_getD, List.getElem?_eq_none outside]
  simp

theorem signed_bit (bs : List Byte) {n i : Nat} (hn : 0 < n) (hi : i < 32) :
    (BitVec.ofInt 32 (sextN (leNat bs) n)).getLsbD i = byteBit bs (min i (n - 1)) := by
  have extended : BitVec.ofInt 32 (sextN (leNat bs) n) = (BitVec.ofNat n (leNat bs)).signExtend 32 := by
    rw [sextN_toInt]
    rfl
  rw [extended, BitVec.getLsbD_signExtend, decide_eq_true hi, Bool.true_and]
  split
  · rename_i below
    rw [leNat_bit bs below, Nat.min_eq_left (by omega)]
  · rename_i above
    rw [BitVec.msb_eq_getLsbD_last, leNat_bit bs (by omega), Nat.min_eq_right (by omega)]

theorem loadWord_bits (w : MemWidth) (bs : List Byte) (len : bs.length = widthBytes w) {i : Nat} (hi : i < 32) :
    (w = .n8 ∨ w = .n16 ∨ w = .w32 → (loadWord w bs 0).getLsbD i = (decide (i < 8 * widthBytes w) && byteBit bs i)) ∧
    (w = .s8 ∨ w = .s16 → (loadWord w bs 0).getLsbD i = byteBit bs (min i (8 * widthBytes w - 1))) ∧
    (w = .w64 ∨ w = .w128 → ∀ j, j < regsOf w → (loadWord w bs j).getLsbD i = byteBit bs (32 * j + i)) := by
  refine ⟨fun plain => ?_, fun signed => ?_, fun wide j _ => ?_⟩
  · have zero : (loadWord w bs 0).getLsbD i = byteBit bs i := by
      rcases plain with rfl | rfl | rfl <;> exact leNat_bit bs hi
    rw [zero]
    by_cases within : i < 8 * widthBytes w
    · rw [decide_eq_true within, Bool.true_and]
    · rw [byteBit_outside len (by omega), Bool.and_false]
  · rcases signed with rfl | rfl <;> exact signed_bit bs (by decide) hi
  · have part : (loadWord w bs j).getLsbD i = byteBit ((bs.drop (4 * j)).take 4) i := by
      rcases wide with rfl | rfl <;> exact leNat_bit _ hi
    have byte : ((bs.drop (4 * j)).take 4).getD (i / 8) 0#8 = bs.getD ((32 * j + i) / 8) 0#8 := by
      rw [List.getD_eq_getElem?_getD, List.getElem?_take_of_lt (by omega), List.getElem?_drop, List.getD_eq_getElem?_getD,
        show (32 * j + i) / 8 = 4 * j + i / 8 by omega]
    rw [part, byteBit, byte, byteBit, show (32 * j + i) % 8 = i % 8 by omega]

/-! ## Loads of bytes, line by line (R169) -/

theorem mem_linesOf {vas : List Nat} {v : Nat} : v ∈ linesOf vas ↔ ∃ va ∈ vas, lineOf va = v := by
  unfold linesOf
  rw [List.mem_eraseDups, List.mem_map]

/-- One line of `loadBytes`. -/
def loadStep (k c h : Nat) (as : List (Nat × Leaf)) (acc : State × List (Nat × List Byte × List Bool)) (va : Nat) :
    State × List (Nat × List Byte × List Bool) :=
  match as.find? fun a => lineOf a.1 == va with
  | none => acc
  | some a => ((loadLine acc.1 k c a.2 va h).1, (va, (loadLine acc.1 k c a.2 va h).2) :: acc.2)

/-- The byte and the mark that the loaded lines hold for an address. -/
def lineByte (ls : List (Nat × List Byte × List Bool)) (a : Nat × Leaf) : Byte × Bool :=
  match ls.find? fun x => x.1 == lineOf a.1 with
  | some x => (x.2.1.getD (a.1 % 128) 0#8, x.2.2.getD (a.1 % 128 / 32) false)
  | none => (0#8, false)

theorem loadBytes_eq (s : State) (k c h : Nat) (as : List (Nat × Leaf)) : loadBytes s k c h as =
    (((linesOf (as.map Prod.fst)).foldl (loadStep k c h as) (s, [])).1,
      as.map (lineByte ((linesOf (as.map Prod.fst)).foldl (loadStep k c h as) (s, [])).2)) := rfl

section
variable {Inv : State → Prop} {val : Nat → List Byte × List Bool} {k c h : Nat} {as : List (Nat × Leaf)}
  (step : ∀ u, Inv u → ∀ a ∈ as, (loadLine u k c a.2 (lineOf a.1) h).2 = val (lineOf a.1) ∧
    Inv (loadLine u k c a.2 (lineOf a.1) h).1)
include step

theorem loadStep_lines (vs : List Nat) (named : ∀ v ∈ vs, ∃ a ∈ as, lineOf a.1 = v) (acc : State × List (Nat × List Byte × List Bool))
    (inv : Inv acc.1) : Inv (vs.foldl (loadStep k c h as) acc).1 ∧
      (vs.foldl (loadStep k c h as) acc).2 = (vs.map fun v => (v, val v)).reverse ++ acc.2 := by
  induction vs generalizing acc with
  | nil => exact ⟨inv, rfl⟩
  | cons v vs ih =>
    obtain ⟨a, found⟩ : ∃ a, as.find? (fun a => lineOf a.1 == v) = some a := by
      obtain ⟨a, m, at_⟩ := named v (List.mem_cons_self ..)
      exact Option.isSome_iff_exists.1 (List.find?_isSome.2 ⟨a, m, by simp [at_]⟩)
    have at_ : lineOf a.1 = v := by simpa using List.find?_some found
    obtain ⟨same, next⟩ := step acc.1 inv a (List.mem_of_find?_eq_some found)
    rw [at_] at same next
    have runs : loadStep k c h as acc v = ((loadLine acc.1 k c a.2 v h).1, (v, val v) :: acc.2) := by
      unfold loadStep
      rw [found, ← same]
    rw [List.foldl_cons, runs]
    obtain ⟨done, lines⟩ := ih (fun w m => named w (List.mem_cons_of_mem _ m)) ((loadLine acc.1 k c a.2 v h).1, (v, val v) :: acc.2) next
    exact ⟨done, by rw [lines]; simp⟩

/-- Where each line gives the same whatever was loaded before, the bytes are those of the lines. -/
theorem loadBytes_of {s : State} (start : Inv s) : Inv (loadBytes s k c h as).1 ∧ (loadBytes s k c h as).2 =
    as.map fun a => ((val (lineOf a.1)).1.getD (a.1 % 128) 0#8, (val (lineOf a.1)).2.getD (a.1 % 128 / 32) false) := by
  have named : ∀ v ∈ linesOf (as.map Prod.fst), ∃ a ∈ as, lineOf a.1 = v := fun v m => by
    obtain ⟨va, hva, at_⟩ := mem_linesOf.1 m
    obtain ⟨a, ha, rfl⟩ := List.mem_map.1 hva
    exact ⟨a, ha, at_⟩
  obtain ⟨done, lines⟩ := loadStep_lines step _ named (s, []) start
  rw [loadBytes_eq]
  refine ⟨done, List.map_congr_left fun a m => ?_⟩
  have found : ((linesOf (as.map Prod.fst)).foldl (loadStep k c h as) (s, [])).2.find? (fun x => x.1 == lineOf a.1) =
      some (lineOf a.1, val (lineOf a.1)) := by
    have here : (lineOf a.1, val (lineOf a.1)) ∈ (linesOf (as.map Prod.fst)).map fun v => (v, val v) :=
      List.mem_map.2 ⟨_, mem_linesOf.2 ⟨_, List.mem_map_of_mem m, rfl⟩, rfl⟩
    rw [lines, List.append_nil]
    obtain ⟨e, he⟩ := Option.isSome_iff_exists.1 (List.find?_isSome (p := fun x : Nat × List Byte × List Bool => x.1 == lineOf a.1)
      |>.2 ⟨_, List.mem_reverse.2 here, by simp⟩)
    obtain ⟨v, -, rfl⟩ := List.mem_map.1 (List.mem_reverse.1 (List.mem_of_find?_eq_some he))
    have at_ : v = lineOf a.1 := by simpa using List.find?_some he
    rw [he, at_]
  unfold lineByte
  rw [found]

end

/-! ## Loads of lanes -/

/-- A list of equal pieces is cut into them. -/
theorem pieces_flatMap {α β : Type} {n : Nat} {F : β → List α} : ∀ {ls : List β}, (∀ l ∈ ls, (F l).length = n) →
    pieces n (ls.flatMap F) ls.length = ls.map F
  | [], _ => rfl
  | l :: ls, len => by
    have first := len l (List.mem_cons_self ..)
    have rest := pieces_flatMap (ls := ls) fun y m => len y (List.mem_cons_of_mem _ m)
    unfold pieces at rest ⊢
    rw [List.length_cons, List.range_succ_eq_map, List.map_cons, List.map_map, List.flatMap_cons, List.map_cons, ← rest]
    congr 1
    · rw [Nat.mul_zero, List.drop_zero, ← first, List.take_left]
    · refine List.map_congr_left fun i _ => ?_
      show ((F l ++ ls.flatMap F).drop (n * (i + 1))).take n = _
      rw [Nat.mul_succ, Nat.add_comm, ← List.drop_drop, ← first, List.drop_left]

theorem laneOf_map {α : Type} {ls : List Nat} {F : Nat → α} {l : Nat} (m : l ∈ ls) (d : α) : laneOf (ls.map fun l => (l, F l)) l d = F l := by
  have here : (l, F l) ∈ ls.map fun l => (l, F l) := List.mem_map.2 ⟨l, m, rfl⟩
  obtain ⟨e, he⟩ := Option.isSome_iff_exists.1 (List.find?_isSome (p := fun x : Nat × α => x.1 == l)
    |>.2 ⟨(l, F l), here, by simp⟩)
  obtain ⟨k, -, rfl⟩ := List.mem_map.1 (List.mem_of_find?_eq_some he)
  have at_ : k = l := by simpa using List.find?_some he
  unfold laneOf
  rw [he, at_]

/-- The bytes that the lanes of em load, with the leaves of their pages. -/
def Iss.laneBytes (c : Iss) (s : State) (vas : Nat → List Nat) : List (Nat × Leaf) :=
  (lanesOf c.em).flatMap fun l => (vas l).map fun va => (va, grantedLeaf s c.cluster (s.ctxOf c.warp) va)

section
variable {s : State} {c : Iss} {h n : Nat} {vas : Nat → List Nat} (len : ∀ l, l < 32 → (vas l).length = n)
include len

/-- Each lane gets the part of the bytes that it has named. -/
theorem loadLanes_lanes {g : Nat × Leaf → Byte × Bool}
    (e : (loadBytes s c.cluster (s.ctxOf c.warp) h (c.laneBytes s vas)).2 = (c.laneBytes s vas).map g) :
    (c.loadLanes s h n vas).2 = (lanesOf c.em).map fun l =>
      (l, (vas l).map fun va => g (va, grantedLeaf s c.cluster (s.ctxOf c.warp) va)) := by
  have parts : (c.laneBytes s vas).map g =
      (lanesOf c.em).flatMap fun l => (vas l).map fun va => g (va, grantedLeaf s c.cluster (s.ctxOf c.warp) va) := by
    unfold Iss.laneBytes
    rw [List.map_flatMap]
    simp only [List.map_map]
    rfl
  have cut := pieces_flatMap (n := n) (F := fun l => (vas l).map fun va => g (va, grantedLeaf s c.cluster (s.ctxOf c.warp) va))
    (ls := lanesOf c.em) fun l m => by rw [List.length_map, len l (mem_lanesOf.1 m).1]
  show (lanesOf c.em).zip (pieces n (loadBytes s c.cluster (s.ctxOf c.warp) h (c.laneBytes s vas)).2 _) = _
  rw [e, parts, cut, List.map_prod_left_eq_zip]

theorem loadLanes_some : ∃ g : Nat → Byte × Bool, (c.loadLanes s h n vas).2 = (lanesOf c.em).map fun l => (l, (vas l).map g) :=
  ⟨fun va => lineByte ((linesOf ((c.laneBytes s vas).map Prod.fst)).foldl (loadStep c.cluster (s.ctxOf c.warp) h (c.laneBytes s vas)) (s, [])).2
    (va, grantedLeaf s c.cluster (s.ctxOf c.warp) va), loadLanes_lanes len rfl⟩

theorem loadLanes_length {l : Nat} (hl : l < 32) (on : c.em.getLsbD l = true) :
    ((laneOf (c.loadLanes s h n vas).2 l []).map Prod.fst).length = n := by
  obtain ⟨g, lanes⟩ := loadLanes_some (s := s) (c := c) (h := h) len
  rw [lanes, laneOf_map (mem_lanesOf.2 ⟨hl, on⟩), List.length_map, List.length_map, len l hl]

/-- The bytes that lanes load from lines whose content does not depend on the order. -/
theorem loadLanes_of {Inv : State → Prop} {val : Nat → List Byte × List Bool} (start : Inv s)
    (step : ∀ u, Inv u → ∀ a ∈ c.laneBytes s vas, (loadLine u c.cluster (s.ctxOf c.warp) a.2 (lineOf a.1) h).2 = val (lineOf a.1) ∧
      Inv (loadLine u c.cluster (s.ctxOf c.warp) a.2 (lineOf a.1) h).1) : Inv (c.loadLanes s h n vas).1 ∧
    ∀ l i, l < 32 → c.em.getLsbD l = true → i < n → ((laneOf (c.loadLanes s h n vas).2 l []).map Prod.fst).getD i 0#8 =
      (val (lineOf ((vas l).getD i 0))).1.getD ((vas l).getD i 0 % 128) 0#8 := by
  obtain ⟨done, bytes⟩ := loadBytes_of step start
  refine ⟨done, fun l i hl on hi => ?_⟩
  have inside : i < (vas l).length := by rw [len l hl]; exact hi
  rw [loadLanes_lanes len bytes, laneOf_map (mem_lanesOf.2 ⟨hl, on⟩), List.map_map]
  simp only [List.getD_eq_getElem?_getD, List.getElem?_map, List.getElem?_eq_getElem inside, Option.map_some, Option.getD_some,
    Function.comp_def]

end

/-- A byte that a lane of em names. -/
theorem mem_laneBytes {c : Iss} {s : State} {vas : Nat → List Nat} {a : Nat × Leaf} (m : a ∈ c.laneBytes s vas) :
    (∃ l, l < 32 ∧ c.em.getLsbD l = true ∧ a.1 ∈ vas l) ∧ a.2 = grantedLeaf s c.cluster (s.ctxOf c.warp) a.1 := by
  obtain ⟨l, hl, m⟩ := List.mem_flatMap.1 m
  obtain ⟨va, hva, rfl⟩ := List.mem_map.1 m
  exact ⟨⟨l, (mem_lanesOf.1 hl).1, (mem_lanesOf.1 hl).2, hva⟩, rfl⟩

end Sys2Proof.Machine
end

section
/-!
The bytes that the lanes of a load get from the L1, and from the home where they pass it (O15; spec 06 R168, R169, R173).
-/

namespace Sys2Proof.Machine

/-- The bytes of a line and their poison. -/
def lineData (x : Line) : List Byte × List Bool := (x.bytes, x.poison)

theorem homeLine_data (s : State) (c : Nat) (l : Leaf) (va : Nat) :
    homeLine s c l va = ((heldL2 s c l va).map lineData).getD (belowL2 s c l va, poisonBelow s c l va) := by
  unfold homeLine
  cases heldL2 s c l va <;> rfl

/-! ## Lines of the L1 -/

/-- What the L1 holds of a line. -/
def l1Data (s : State) (k c v : Nat) : List Byte × List Bool := ((l1Line? s k c v).map lineData).getD ([], [])

theorem l1Data_held {s : State} {k c v : Nat} {x : Line} (held : l1Line? s k c v = some x) : l1Data s k c v = lineData x := by
  rw [l1Data, held]
  rfl

/-- Loads from lines of the L1 have made `t` of `s`: marks have changed, and no byte that anyone sees. -/
structure Remarked (s t : State) : Prop where
  only : ClustersOnly s t
  seen : ∀ j cy l va, seenByte t j cy l va = seenByte s j cy l va
  lines : ∀ j a v, (t.l1At j a v).map lineData = (s.l1At j a v).map lineData

theorem Remarked.refl (s : State) : Remarked s s := ⟨.refl s, fun _ _ _ _ => rfl, fun _ _ _ => rfl⟩

theorem Remarked.loadLine {s t : State} (r : Remarked s t) {k c va h : Nat} {l : Leaf} {x : Line} (held : l1Line? s k c va = some x)
    (len : x.bytes.length = 128) : (Machine.loadLine t k c l va h).2 = lineData x ∧ Remarked s (Machine.loadLine t k c l va h).1 := by
  obtain ⟨y, there, data⟩ : ∃ y, l1Line? t k c va = some y ∧ lineData y = lineData x := by
    have same := r.lines k (s.asid c) va
    rw [← l1Line?_eq, held] at same
    rw [l1Line?_eq, r.only.asid]
    exact Option.map_eq_some_iff.1 same
  have len2 : y.bytes.length = 128 := (congrArg List.length (congrArg Prod.fst data)).trans len
  refine ⟨by rw [loadLine_hit there]; exact data, ?_, fun j cy lf a => (loadLine_hit_seen there len2 j cy lf a).trans (r.seen j cy lf a),
    fun j a v => ?_⟩
  · rw [loadLine_hit there]
    exact r.only.trans (l1Put_clusters ..)
  · rw [loadLine_hit_found there, ← r.lines]
    split
    · rename_i named
      obtain ⟨rfl, rfl, rfl⟩ := named
      rw [← l1Line?_eq, there]
      rfl
    · rfl

/-! ## Lines that pass the L1 -/

/-- Loads that pass the L1 have made `t` of `s`: a line that L2 holds is held as before. -/
structure Passed (s t : State) : Prop where
  only : L2Only s t
  lines : ∀ a v, (t.l2Line? a v).map lineData = (s.l2Line? a v).map lineData

theorem Passed.refl (s : State) : Passed s s := ⟨.refl s, fun _ _ => rfl⟩

theorem Passed.homeLine {s t : State} (r : Passed s t) (c : Nat) (l : Leaf) (va : Nat) :
    Machine.homeLine t c l va = Machine.homeLine s c l va := by
  rw [homeLine_data, homeLine_data, heldL2_eq, heldL2_eq, r.only.belowL2, r.only.poisonBelow, r.only.fencedHome, r.only.asid]
  split
  · rw [r.lines]
  · rfl

/-- A line of L2, or one that is not kept there, comes into its slice. -/
theorem Passed.touch {s t : State} (r : Passed s t) {c va : Nat} {l : Leaf} (h : Nat)
    (held : homeInL2 s c l va = true → (s.l2Line? (s.asid c) va).isSome = true) :
    t.fits c l va ∧ Passed s (touchL2By t c l va h) := by
  by_cases home : homeInL2 t c l va = true
  · have there : (t.l2Line? (t.asid c) va).isSome = true := by
      have before := held (by rw [← r.only.homeInL2]; exact home)
      rw [r.only.asid, ← Option.isSome_map (f := lineData), r.lines, Option.isSome_map]
      exact before
    obtain ⟨y, only, -, -, -, kept, found⟩ := touchL2By_brings (h := h) home (.inl there)
    obtain ⟨x, hx⟩ := Option.isSome_iff_exists.1 there
    refine ⟨fun _ => .inl there, r.only.trans only, fun a v => ?_⟩
    rw [found, ← r.lines]
    split
    · rename_i named
      obtain ⟨rfl, rfl⟩ := named
      rw [hx, kept x hx]
      rfl
    · rfl
  · rw [touchL2By_skips (Bool.eq_false_iff.2 home)]
    exact ⟨fun yes => absurd yes home, r⟩

theorem Passed.loadLine {s t : State} (r : Passed s t) {k c va h : Nat} {l : Leaf} (through : hintAt s k h = 3)
    (absent : l1Line? s k c va = none) (held : homeInL2 s c l va = true → (s.l2Line? (s.asid c) va).isSome = true) :
    (Machine.loadLine t k c l va h).2 = Machine.homeLine s c l va ∧ Passed s (Machine.loadLine t k c l va h).1 := by
  have gone : l1Line? t k c va = none := by rw [l1Line?_eq, r.only.asid, r.only.l1At]; exact absent
  have through2 : hintAt t k h = 3 := by
    unfold hintAt State.cluster at through ⊢
    rwa [r.only.clusters]
  obtain ⟨fits, next⟩ := r.touch 3 held
  rw [loadLine_passes gone through2]
  exact ⟨(touchL2By_homeLine fits 3).trans (r.homeLine c l va), next⟩

/-! ## The lanes of a load -/

section
variable {s : State} {c : Iss} {h n : Nat} {vas : Nat → List Nat} (len : ∀ l, l < 32 → (vas l).length = n)
include len

theorem getD_mem_lane {l i : Nat} (hl : l < 32) (hi : i < n) : (vas l).getD i 0 ∈ vas l := by
  have inside : i < (vas l).length := by rw [len l hl]; exact hi
  rw [List.getD_eq_getElem _ _ inside]
  exact List.getElem_mem inside

/-- Lanes whose lines the cluster's L1 holds see its bytes, and change no byte that anyone sees. -/
theorem loadLanes_hit (f : Nat → Leaf) (held : ∀ va, (∃ l, l < 32 ∧ c.em.getLsbD l = true ∧ va ∈ vas l) →
      ∃ x, l1Line? s c.cluster (s.ctxOf c.warp) (lineOf va) = some x ∧ x.bytes.length = 128) :
    Remarked s (c.loadLanes s h n vas).1 ∧ ∀ l i, l < 32 → c.em.getLsbD l = true → i < n →
      ((laneOf (c.loadLanes s h n vas).2 l []).map Prod.fst).getD i 0#8 =
        seenByte s c.cluster (s.ctxOf c.warp) (f (lineOf ((vas l).getD i 0))) ((vas l).getD i 0) := by
  obtain ⟨done, bytes⟩ := loadLanes_of (h := h) (val := l1Data s c.cluster (s.ctxOf c.warp)) len (Remarked.refl s) fun u r a m => by
    obtain ⟨x, there, size⟩ := held a.1 (mem_laneBytes m).1
    rw [l1Data_held there]
    exact r.loadLine there size
  refine ⟨done, fun l i hl on hi => ?_⟩
  obtain ⟨x, there, -⟩ := held _ ⟨l, hl, on, getD_mem_lane len hl hi⟩
  rw [bytes l i hl on hi, seenByte_hit there, l1Data_held there]
  rfl

/-- Lanes that pass the L1 get the bytes of the home. -/
theorem loadLanes_passes {f : Nat → Leaf} (leaves : ∀ l va, l < 32 → va ∈ vas l → grantedLeaf s c.cluster (s.ctxOf c.warp) va = f (lineOf va))
    (through : hintAt s c.cluster h = 3) (absent : ∀ va, (∃ l, l < 32 ∧ c.em.getLsbD l = true ∧ va ∈ vas l) →
      l1Line? s c.cluster (s.ctxOf c.warp) (lineOf va) = none ∧ (homeInL2 s (s.ctxOf c.warp) (f (lineOf va)) (lineOf va) = true →
        (s.l2Line? (s.asid (s.ctxOf c.warp)) (lineOf va)).isSome = true)) :
    Passed s (c.loadLanes s h n vas).1 ∧ ∀ l i, l < 32 → c.em.getLsbD l = true → i < n →
      ((laneOf (c.loadLanes s h n vas).2 l []).map Prod.fst).getD i 0#8 =
        homeByte s (s.ctxOf c.warp) (f (lineOf ((vas l).getD i 0))) ((vas l).getD i 0) := by
  obtain ⟨done, bytes⟩ := loadLanes_of (h := h) (val := fun v => homeLine s (s.ctxOf c.warp) (f v) v) len (Passed.refl s) fun u r a m => by
    obtain ⟨⟨l, hl, on, mine⟩, leaf⟩ := mem_laneBytes m
    obtain ⟨gone, held⟩ := absent a.1 ⟨l, hl, on, mine⟩
    rw [leaf, leaves l a.1 hl mine]
    exact r.loadLine through gone held
  refine ⟨done, fun l i hl on hi => ?_⟩
  rw [bytes l i hl on hi, homeByte_eq]

end

end Sys2Proof.Machine
end

section
/-!
Loads complete (O15; spec 06 R167 to R171; 22 R403).
-/

namespace Sys2Proof.Machine

/-! ## The results of a load (R168, R169) -/

theorem loadReg_shape (w : MemWidth) (uniform : Bool) (vals : List (Nat × List Byte)) (j : Nat) :
    (loadReg w uniform vals j).shape = if uniform then 0 else 2 := by
  cases uniform <;> rfl

/-- A uniform load gives every lane what its lowest lane sees, another each lane what it sees itself. -/
theorem loadReg_lane {m : Mask} {l : Nat} (w : MemWidth) (uniform : Bool) (F : Nat → List Byte) (j : Nat) (hl : l < 32)
    (on : m.getLsbD l = true) : (loadReg w uniform ((lanesOf m).map fun l => (l, F l)) j).lane l =
      loadWord w (F (if uniform then lowestLane m else l)) j := by
  have mine : l ∈ lanesOf m := mem_lanesOf.2 ⟨hl, on⟩
  cases uniform with
  | true =>
    show loadWord w (((lanesOf m).map fun l => (l, F l)).headD (0, [])).2 j = loadWord w (F (lowestLane m)) j
    unfold lowestLane
    cases e : lanesOf m with
    | nil => rw [e] at mine; cases mine
    | cons x xs => rfl
  | false =>
    show (vec fun l => loadWord w (laneOf ((lanesOf m).map fun l => (l, F l)) l []) j).lane l = loadWord w (F l) j
    rw [vec_lane _ hl, laneOf_map mine]

theorem filterMap_map_some {α β γ : Type} (p : α → β) (g : α → γ) (xs : List α) :
    (xs.map fun j => (some (p j), g j)).filterMap (fun e => e.1.map fun q => (q, e.2)) = xs.map fun j => (p j, g j) := by
  rw [List.filterMap_map]
  exact congrFun (List.filterMap_eq_map (f := fun j => (p j, g j))) xs

section
variable {s u : State} {c : Iss} {form : Form} {body : Iss → Res} {nw : Bool} {w : MemWidth} {d : LdReg}

/-- A load whose data is there writes its register, or its group. -/
theorem execute_finishLoad (h : Issues s c form) (dest : form.d = ldOp d w) (warps : u.warps = s.warps) (clk : u.clk = s.clk)
    (early : u.sched.late = false) {uniform : Bool} {F bytes : Nat → List Byte}
    (same : ∀ l, l < 32 → c.em.getLsbD l = true → bytes l = F l) (active : c.em ≠ 0#32)
    (hb : body c = c.finishLoad u nw d w (loadReg w uniform ((lanesOf c.em).map fun l => (l, F l)))) :
    Loads s u c nw w d uniform bytes (execute s form body) := by
  refine ⟨loadReg w uniform ((lanesOf c.em).map fun l => (l, F l)), loadReg_shape _ _ _, fun j l hl on => ?_, ?_⟩
  · rw [loadReg_lane w uniform F j hl on]
    obtain ⟨low, lowOn, -⟩ := lowestLane_spec active
    cases uniform with
    | true => exact congrArg (loadWord w · j) (same _ low lowOn).symm
    | false => exact congrArg (loadWord w · j) (same l hl on).symm
  · unfold Iss.finishLoad at hb
    rw [early] at hb
    cases d with
    | one d => exact result_yieldsFrom h (fun no => absurd no Bool.false_ne_true) warps clk hb
    | group n =>
      refine results_yieldsAll h ?_ (fun _ _ no => absurd no Bool.false_ne_true) warps clk (hb.trans ?_)
      · have places := places_nodup h dest
        rw [List.map_map]
        exact places
      · exact congrArg (c.results u false) (filterMap_map_some (c.place .d n) _ _)

end

/-! ## Loads through translation -/

section
variable {s : State} {c : Iss} {k : Space} {nw : Bool} {w : MemWidth} {d : LdReg} {a : Nat} {b : Src} {h : Nat}

theorem widthBytes_pos (w : MemWidth) : 0 < widthBytes w := by cases w <;> decide

theorem byteAddrs_length (c : Iss) (k : Space) (n l a : Nat) : (c.byteAddrs k n l a).length = n := by simp [Iss.byteAddrs]

theorem byteAddrs_headD (c : Iss) (k : Space) {n : Nat} (l a : Nat) (pos : 0 < n) : (c.byteAddrs k n l a).headD 0 = c.placeOf k l a := by
  rw [byteAddrs_eq]
  cases n with
  | zero => cases pos
  | succ n =>
    rw [List.range_succ_eq_map]
    rfl

/-- What the lanes of a load see. -/
def Iss.loaded (c : Iss) (s : State) (k : Space) (w : MemWidth) (a : Nat) (b : Src) (h : Nat) : State × List (Nat × List (Byte × Bool)) :=
  c.loadLanes s h (widthBytes w) fun l => c.byteAddrs k (widthBytes w) l (c.address a b l)

/-- The lanes of a load that meet poison. -/
def rottenLanes (r : List (Nat × List (Byte × Bool))) : List Nat := (r.filter fun e => e.2.any Prod.snd).map Prod.fst

variable (active : c.em ≠ 0#32)
include active

/-- A load checks its lanes, waits for peers, and then sees its bytes. -/
theorem load_checked : c.load s k nw w d a b h = (do
    c.checkAccess s k .read (widthBytes w) (c.address a b)
    match c.waitRemote s (c.address a b) (fun l => c.byteAddrs k (widthBytes w) l (c.address a b l)) with
    | some t => return t
    | none =>
      c.poisonTrap (fun l => c.placeOf k l (c.address a b l)) (rottenLanes (c.loaded s k w a b h).2)
      c.finishLoad (c.loaded s k w a b h).1 nw d w
        (loadReg w (k == .global && c.uniformAddress a b) ((c.loaded s k w a b h).2.map fun e => (e.1, e.2.map Prod.fst)))) := by
  have heads : (fun l => (c.byteAddrs k (widthBytes w) l (c.address a b l)).headD 0) = fun l => c.placeOf k l (c.address a b l) :=
    funext fun l => byteAddrs_headD c k l _ (widthBytes_pos w)
  rw [← heads]
  exact (if_neg active).trans rfl

theorem load_fails {t : Trap} (fails : c.checkAccess s k .read (widthBytes w) (c.address a b) = .error t) :
    c.load s k nw w d a b h = .error t := by
  rw [load_checked active, fails]
  rfl

theorem load_waits {t : State} (passes : c.checkAccess s k .read (widthBytes w) (c.address a b) = .ok ())
    (waits : c.waitRemote s (c.address a b) (fun l => c.byteAddrs k (widthBytes w) l (c.address a b l)) = some t) :
    c.load s k nw w d a b h = .ok t := by
  rw [load_checked active, passes, waits]
  rfl

theorem load_sees (reaches : Reaches s c k .read (widthBytes w) (c.address a b)) : c.load s k nw w d a b h =
    c.poisonTrap (fun l => c.placeOf k l (c.address a b l)) (rottenLanes (c.loaded s k w a b h).2) >>= fun _ =>
      c.finishLoad (c.loaded s k w a b h).1 nw d w
        (loadReg w (k == .global && c.uniformAddress a b) ((c.loaded s k w a b h).2.map fun e => (e.1, e.2.map Prod.fst))) := by
  rw [load_checked active, reaches.1, reaches.2]
  rfl

/-- A load that meets no poison and whose data is there completes. -/
theorem execute_load {cob : Bool} (issues : Issues s c (loadForm w d a b cob))
    (reaches : Reaches s c k .read (widthBytes w) (c.address a b)) (sound : rottenLanes (c.loaded s k w a b h).2 = [])
    (early : (c.loaded s k w a b h).1.sched.late = false) :
    Loads s (c.loaded s k w a b h).1 c nw w d (k == .global && c.uniformAddress a b)
      (fun l => (laneOf (c.loaded s k w a b h).2 l []).map Prod.fst)
      (execute s (loadForm w d a b cob) fun c => c.load s k nw w d a b h) := by
  have only : MemoryOnly s (c.loaded s k w a b h).1 := loadLanes_only ..
  obtain ⟨g, lanes⟩ : ∃ g : Nat → Byte × Bool, (c.loaded s k w a b h).2 = (lanesOf c.em).map fun l =>
      (l, (c.byteAddrs k (widthBytes w) l (c.address a b l)).map g) := loadLanes_some fun l _ => byteAddrs_length ..
  refine execute_finishLoad (F := fun l => ((c.byteAddrs k (widthBytes w) l (c.address a b l)).map g).map Prod.fst) issues rfl only.warps
    only.clk early (fun l hl on => ?_) active ?_
  · show (laneOf (c.loaded s k w a b h).2 l []).map Prod.fst = _
    rw [lanes, laneOf_map (mem_lanesOf.2 ⟨hl, on⟩)]
  · rw [load_sees active reaches, poisonTrap_sound c _ sound, lanes, List.map_map]
    rfl

end

/-! ## The obligation -/

/-- Settles O15: its clauses are the bits of a load's word, its lanes line by line, and the two bodies of a load. -/
theorem loadsComplete : Obligations.LoadsComplete := by
  unfold Obligations.LoadsComplete
  refine ⟨fun w bs len i hi => loadWord_bits w bs len hi, ⟨by decide, by decide⟩, fun s c h n vas f len leaves => ?_,
    fun s c nw w d a b h => ?_⟩
  · refine ⟨fun l hl on => loadLanes_length len hl on, fun held => ?_, fun passes absent => ?_⟩
    · obtain ⟨r, bytes⟩ := loadLanes_hit (h := h) len f held
      exact ⟨r.only.mem, r.seen, bytes⟩
    · obtain ⟨r, bytes⟩ := loadLanes_passes (h := h) len leaves ((hintAt_three ..).2 passes) absent
      exact ⟨r.only.clusters, r.only.home, r.only.host, bytes⟩
  · intro addr n seen poisoned bytes halts rotten
    refine ⟨fun issues => ⟨fun idle => ⟨?_, ?_⟩, fun active t fails => ?_, fun active passes t waits => ?_, fun active reaches =>
        ⟨fun bad => ?_, fun sound early => ?_⟩, fun active t fails => ?_, fun active passes => ⟨fun bad => ?_, fun sound early => ?_⟩⟩,
      fun issues => ⟨fun idle => ?_, fun active t fails => ?_, fun active passes t waits => ?_, fun active reaches =>
        ⟨fun bad => ?_, fun sound early => ?_⟩⟩⟩
    · exact execute_complete (body := fun c => c.load s .global nw w d a b h) issues (if_pos idle)
    · exact execute_complete issues (if_pos idle)
    · exact execute_error (body := fun c => c.load s .global nw w d a b h) issues (load_fails active fails)
    · exact execute_ok (body := fun c => c.load s .global nw w d a b h) issues (load_waits active passes waits)
    · exact execute_poisoned (body := fun c => c.load s .global nw w d a b h) issues bad (load_sees active reaches)
    · exact execute_load active issues reaches sound early
    · refine execute_error issues ?_
      simp only [if_neg active, addr, n] at fails ⊢
      rw [fails]
      rfl
    · refine execute_poisoned issues bad (k := fun _ => c.finishLoad s nw d w (loadReg w (c.uniformAddress a b)
        ((lanesOf c.em).map fun l => (l, scratchBytes s (s.crewNo c.warp) (c.address a b l) (widthBytes w))))) ?_
      simp only [if_neg active, addr, n] at passes ⊢
      rw [passes]
      rfl
    · refine execute_finishLoad issues rfl rfl rfl early (fun _ _ _ => rfl) active ?_
      simp only [if_neg active, addr, n] at passes ⊢
      rw [passes]
      have clean : c.poisonTrap (c.address a b) rotten = .ok () := poisonTrap_sound c _ sound
      exact congrArg (· >>= fun _ => _) clean
    · exact execute_complete (body := fun c => c.load s .priv nw w d a b h) issues (if_pos idle)
    · exact execute_error (body := fun c => c.load s .priv nw w d a b h) issues (load_fails active fails)
    · exact execute_ok (body := fun c => c.load s .priv nw w d a b h) issues (load_waits active passes waits)
    · exact execute_poisoned (body := fun c => c.load s .priv nw w d a b h) issues bad (load_sees active reaches)
    · exact execute_load active issues reaches sound early

end Sys2Proof.Machine
end

section
/-!
Stores of bytes, line by line, at the L1 and past it (O16; spec 06 R168, R172, R173; 09 R258).
-/

namespace Sys2Proof.Machine

/-! ## Bytes written in order, line by line -/

/-- Of writes in order, those that can reach a place. -/
theorem lastAt_filter {p : Nat × Byte → Bool} {ws : List (Nat × Byte)} {a : Nat} (all : ∀ w ∈ ws, w.1 = a → p w = true) (old : Byte) :
    lastAt (ws.filter p) a old = lastAt ws a old := by
  unfold lastAt
  rw [List.filter_filter]
  have same : ws.filter (fun w => w.1 == a && p w) = ws.filter fun w => w.1 == a := List.filter_congr fun w m => by
    by_cases at_ : w.1 = a
    · simp [at_, all w m at_]
    · simp [at_]
  rw [same]

theorem linesOf_nodup (vas : List Nat) : (linesOf vas).Nodup := nodup_eraseDups _

/-- The bytes of a store that lie in a line. -/
def lineWrites (as : List (Nat × Leaf × Byte)) (v : Nat) : List (Nat × Byte) :=
  (as.filter fun a => lineOf a.1 == v).map fun a => (a.1 % 128, a.2.2)

/-- What a store leaves at a place is what its bytes in the place's line leave at the offset. -/
theorem lastAt_lineWrites (as : List (Nat × Leaf × Byte)) (a : Nat) (old : Byte) :
    lastAt (lineWrites as (lineOf a)) (a % 128) old = lastAt (as.map fun a => (a.1, a.2.2)) a old := by
  have line : lineWrites as (lineOf a) =
      ((as.map fun a => (a.1, a.2.2)).filter fun w => lineOf w.1 == lineOf a).map fun w => (w.1 % 128, w.2) := by
    rw [List.filter_map, List.map_map]
    rfl
  rw [line, lastAt_map (f := fun x => x % 128), lastAt_filter fun w _ same => by simp [same]]
  intro w m off
  have at_ : lineOf w.1 = lineOf a := by simpa using (List.mem_filter.1 m).2
  rw [← lineOf_add_mod w.1, at_, off, lineOf_add_mod]

/-- One line of `storeBytes`. -/
def storeStep (k c h : Nat) (as : List (Nat × Leaf × Byte)) (s : State) (v : Nat) : State :=
  match as.filter fun a => lineOf a.1 == v with
  | [] => s
  | a :: _ => storeLine s k c a.2.1 v h (lineWrites as v)

theorem storeBytes_eq (s : State) (k c h : Nat) (as : List (Nat × Leaf × Byte)) :
    storeBytes s k c h as = (linesOf (as.map Prod.fst)).foldl (storeStep k c h as) s := rfl

theorem storeStep_named (s : State) (k c h : Nat) {as : List (Nat × Leaf × Byte)} {v : Nat} (named : v ∈ linesOf (as.map Prod.fst)) :
    ∃ a ∈ as, lineOf a.1 = v ∧ storeStep k c h as s v = storeLine s k c a.2.1 v h (lineWrites as v) := by
  obtain ⟨va, hva, at_⟩ := mem_linesOf.1 named
  obtain ⟨a, ha, rfl⟩ := List.mem_map.1 hva
  unfold storeStep
  cases e : as.filter fun a => lineOf a.1 == v with
  | nil => exact absurd at_ (by simpa using List.filter_eq_nil_iff.1 e a ha)
  | cons b bs =>
    obtain ⟨hb, line⟩ := List.mem_filter.1 (e ▸ List.mem_cons_self .. : b ∈ as.filter fun a => lineOf a.1 == v)
    exact ⟨b, hb, by simpa using line, rfl⟩

/-- `view` of a state shows bytes at the places `place`, and writes to a line show in those of `sees` that lie in it. -/
structure Shows {ι : Type} (view : State → ι → Byte) (place : ι → Nat) (sees : ι → Prop) (s t : State) (v : Nat) (ws : List (Nat × Byte)) :
    Prop where
  there : ∀ i, sees i → lineOf (place i) = v → view t i = lastAt ws (place i % 128) (view s i)
  other : ∀ i, ¬ (sees i ∧ lineOf (place i) = v) → view t i = view s i

section
variable {ι : Type} {view : State → ι → Byte} {place : ι → Nat} {sees : ι → Prop} {Inv : State → Prop}
  {k c h : Nat} {as : List (Nat × Leaf × Byte)}
  (step : ∀ u, Inv u → ∀ a ∈ as, ∀ ws, Inv (storeLine u k c a.2.1 (lineOf a.1) h ws) ∧
    Shows view place sees u (storeLine u k c a.2.1 (lineOf a.1) h ws) (lineOf a.1) ws)
include step

theorem storeStep_shows (vs : List Nat) (nodup : vs.Nodup) (named : ∀ v ∈ vs, v ∈ linesOf (as.map Prod.fst)) (s : State) (inv : Inv s) :
    Inv (vs.foldl (storeStep k c h as) s) ∧ ∀ i,
      (sees i ∧ lineOf (place i) ∈ vs → view (vs.foldl (storeStep k c h as) s) i =
        lastAt (as.map fun a => (a.1, a.2.2)) (place i) (view s i)) ∧
      (¬ (sees i ∧ lineOf (place i) ∈ vs) → view (vs.foldl (storeStep k c h as) s) i = view s i) := by
  induction vs generalizing s with
  | nil => exact ⟨inv, fun i => ⟨fun yes => absurd yes.2 List.not_mem_nil, fun _ => rfl⟩⟩
  | cons v vs ih =>
    obtain ⟨fresh, apart⟩ := List.nodup_cons.1 nodup
    obtain ⟨a, ha, here, runs⟩ := storeStep_named s k c h (named v (List.mem_cons_self ..))
    subst here
    obtain ⟨next, shows⟩ := step s inv a ha (lineWrites as (lineOf a.1))
    rw [List.foldl_cons, runs]
    obtain ⟨done, rest⟩ := ih apart (fun w m => named w (List.mem_cons_of_mem _ m)) _ next
    refine ⟨done, fun i => ⟨fun yes => ?_, fun no => ?_⟩⟩
    · by_cases here : lineOf (place i) = lineOf a.1
      · rw [(rest i).2 fun both => fresh (here ▸ both.2), shows.there i yes.1 here, ← here, lastAt_lineWrites]
      · have later : lineOf (place i) ∈ vs := (List.mem_cons.1 yes.2).resolve_left here
        rw [(rest i).1 ⟨yes.1, later⟩, shows.other i fun both => here both.2]
    · rw [(rest i).2 fun both => no ⟨both.1, List.mem_cons_of_mem _ both.2⟩,
        shows.other i fun both => no ⟨both.1, List.mem_cons.2 (.inl both.2)⟩]

/-- Where each line takes its own writes, a store shows the last byte written at each place. -/
theorem storeBytes_shows {s : State} (inv : Inv s) : Inv (storeBytes s k c h as) ∧ ∀ i,
    (sees i → view (storeBytes s k c h as) i = lastAt (as.map fun a => (a.1, a.2.2)) (place i) (view s i)) ∧
    (¬ sees i → view (storeBytes s k c h as) i = view s i) := by
  obtain ⟨done, all⟩ := storeStep_shows step (linesOf (as.map Prod.fst)) (linesOf_nodup _) (fun _ m => m) s inv
  rw [storeBytes_eq]
  refine ⟨done, fun i => ⟨fun yes => ?_, fun no => (all i).2 fun both => no both.1⟩⟩
  by_cases named : lineOf (place i) ∈ linesOf (as.map Prod.fst)
  · exact (all i).1 ⟨yes, named⟩
  · rw [(all i).2 fun both => named both.2, lastAt_of_forall_ne]
    intro w m at_
    obtain ⟨a, ha, rfl⟩ := List.mem_map.1 m
    exact named (mem_linesOf.2 ⟨a.1, List.mem_map_of_mem ha, by rw [← at_]⟩)

end

/-! ## The L1 leaves SRAM alone -/

/-- The scratchpads are as they were. -/
def SramKept (s t : State) : Prop := ∀ j, (t.cluster j).sram = (s.cluster j).sram ∧ (t.cluster j).badSram = (s.cluster j).badSram

namespace SramKept

theorem refl (s : State) : SramKept s s := fun _ => ⟨rfl, rfl⟩

theorem trans {s t u : State} (h : SramKept s t) (k : SramKept t u) : SramKept s u := fun j =>
  ⟨(k j).1.trans (h j).1, (k j).2.trans (h j).2⟩

theorem home {s t : State} (h : HomeOnly s t) : SramKept s t := fun j => by
  rw [h.cluster]
  exact ⟨rfl, rfl⟩

theorem mapL1 (s : State) (k : Nat) (f : List Line → List Line) : SramKept s (s.mapL1 k f) := fun j =>
  ⟨cluster_mapCluster_keeps s k j Cluster.sram fun _ => rfl, cluster_mapCluster_keeps s k j Cluster.badSram fun _ => rfl⟩

theorem evictL1 (s : State) (k : Nat) (x : Line) : SramKept s (evictL1 s k x) := by
  obtain ⟨u, only, e⟩ := evictL1_drops s k x
  rw [e]
  exact (home only).trans (mapL1 _ _ _)

theorem makeRoom (s : State) (k va h : Nat) : SramKept s (makeRoom s k va h) := by
  unfold Machine.makeRoom
  split
  · exact refl s
  · split
    · exact refl s
    · exact evictL1 _ _ _

theorem l1Get (s : State) (k c : Nat) (l : Leaf) (va h : Nat) : SramKept s (l1Get s k c l va h).1 := by
  cases held : l1Line? s k c va with
  | some x =>
    rw [l1Get_hit held]
    exact mapL1 _ _ _
  | none =>
    by_cases through : hintAt s k h = 3
    · rw [l1Get_passes held through]
      exact home (touchL2By_home ..)
    · have touched := (makeRoom s k va h).trans (home (touchL2By_home (Machine.makeRoom s k va h) c l va h))
      rw [l1Get_miss held through]
      dsimp only
      split
      · exact touched.trans (mapL1 _ _ _)
      · exact touched

theorem storeLine (s : State) (k c : Nat) (l : Leaf) (va h : Nat) (ws : List (Nat × Byte)) : SramKept s (storeLine s k c l va h ws) := by
  have got := l1Get s k c l va h
  unfold Machine.storeLine
  split
  · rename_i t x e
    rw [e] at got
    exact got.trans (mapL1 _ _ _)
  · rename_i t e
    rw [e] at got
    exact got.trans (home (agentWriteBy_home ..))

theorem storeBytes (s : State) (k c h : Nat) (as : List (Nat × Leaf × Byte)) : SramKept s (storeBytes s k c h as) := by
  rw [storeBytes_eq]
  generalize linesOf (as.map Prod.fst) = vs
  induction vs generalizing s with
  | nil => exact refl s
  | cons v vs ih =>
    refine SramKept.trans ?_ (ih _)
    unfold storeStep
    split
    · exact refl s
    · exact storeLine _ _ _ _ _ _ _

end SramKept

/-! ## Stores to lines of the L1 -/

/-- A byte that a cluster sees under a leaf at an address of a context. -/
structure Sight where
  cluster : Nat
  ctx : Nat
  leaf : Leaf
  va : Nat

/-- The byte as the cluster's loads see it. -/
def Sight.seen (s : State) (i : Sight) : Byte := seenByte s i.cluster i.ctx i.leaf i.va

/-- The L1 holds a whole line at `v`. -/
def HeldL1 (s : State) (k c v : Nat) : Prop := ∃ x, l1Line? s k c v = some x ∧ x.bytes.length = 128

/-- `t` is `s` but for what lines of L1s hold: each stays, with its leaf. -/
structure L1Stays (s t : State) : Prop where
  only : ClustersOnly s t
  kept : ∀ j a v x, s.l1At j a v = some x → ∃ y, t.l1At j a v = some y ∧ y.bytes.length = x.bytes.length ∧ y.leaf = x.leaf
  ways : ∀ j, l1Ways (t.cluster j) = l1Ways (s.cluster j)

namespace L1Stays
variable {s t u : State}

theorem refl (s : State) : L1Stays s s := ⟨.refl s, fun _ _ _ x found => ⟨x, found, rfl, rfl⟩, fun _ => rfl⟩

theorem trans (h : L1Stays s t) (k : L1Stays t u) : L1Stays s u := by
  refine ⟨h.only.trans k.only, fun j a v x found => ?_, fun j => (k.ways j).trans (h.ways j)⟩
  obtain ⟨y, found2, len2, leaf2⟩ := h.kept j a v x found
  obtain ⟨z, found3, len3, leaf3⟩ := k.kept j a v y found2
  exact ⟨z, found3, len3.trans len2, leaf3.trans leaf2⟩

/-- A line takes the place of one alike. -/
theorem of_found {k c va : Nat} {x y : Line} (only : ClustersOnly s t) (held : l1Line? s k c va = some x)
    (found : ∀ j a v, t.l1At j a v = if j = k ∧ a = s.asid c ∧ v = va then some y else s.l1At j a v)
    (len : y.bytes.length = x.bytes.length) (leaf : y.leaf = x.leaf) (ways : ∀ j, l1Ways (t.cluster j) = l1Ways (s.cluster j)) :
    L1Stays s t := by
  refine ⟨only, fun j a v z there => ?_, ways⟩
  rw [found]
  split
  · rename_i named
    obtain ⟨rfl, rfl, rfl⟩ := named
    rw [← l1Line?_eq, held] at there
    cases there
    exact ⟨y, rfl, len, leaf⟩
  · exact ⟨z, there, rfl, rfl⟩

theorem heldL1 {k c v : Nat} (h : L1Stays s t) (held : HeldL1 s k c v) : HeldL1 t k c v := by
  obtain ⟨x, found, len⟩ := held
  obtain ⟨y, found2, len2, -⟩ := h.kept _ _ _ x found
  exact ⟨y, by rw [l1Line?_eq, h.only.asid]; exact found2, len2.trans len⟩

end L1Stays

theorem l1Put_ways (s : State) (k : Nat) (x : Line) (j : Nat) : l1Ways ((l1Put s k x).cluster j) = l1Ways (s.cluster j) :=
  cluster_mapCluster_keeps s k j l1Ways fun _ => rfl

section
variable {s : State} {k c va h : Nat} {l : Leaf} {x : Line} (held : l1Line? s k c va = some x)
include held

theorem loadLine_hit_stays : L1Stays s (loadLine s k c l va h).1 := by
  refine .of_found ?_ held (loadLine_hit_found held) rfl rfl fun j => ?_
  · rw [loadLine_hit held]
    exact l1Put_clusters ..
  · rw [loadLine_hit held]
    exact l1Put_ways ..

theorem storeLine_hit_stays (ws : List (Nat × Byte)) : L1Stays s (storeLine s k c l va h ws) := by
  refine .of_found (storeLine_hit_only held ws) held (storeLine_hit_found held ws) (putBytes_length ..) rfl fun j => ?_
  rw [storeLine_hit held, l1Put_ways, l1Put_ways]

end

/-- Where the L1 holds the lines, a store shows in what the cluster sees, and in nothing else. -/
theorem storeBytes_hit {s : State} {k c h : Nat} {as : List (Nat × Leaf × Byte)} (held : ∀ a ∈ as, HeldL1 s k c (lineOf a.1)) :
    L1Stays s (storeBytes s k c h as) ∧ ∀ i : Sight,
      (i.cluster = k ∧ s.asid i.ctx = s.asid c →
        i.seen (storeBytes s k c h as) = lastAt (as.map fun a => (a.1, a.2.2)) i.va (i.seen s)) ∧
      (¬ (i.cluster = k ∧ s.asid i.ctx = s.asid c) → i.seen (storeBytes s k c h as) = i.seen s) := by
  refine storeBytes_shows (view := fun u i => Sight.seen u i) (Inv := L1Stays s) (fun u stay a m ws => ?_) (.refl s)
  obtain ⟨x, there, len⟩ := stay.heldL1 (held a m)
  refine ⟨stay.trans (storeLine_hit_stays there ws), ⟨fun i sees at_ => ?_, fun i no => ?_⟩⟩
  · exact (storeLine_hit_seen there len ..).trans (if_pos ⟨⟨sees.1, by rw [stay.only.asid, stay.only.asid]; exact sees.2⟩, at_⟩)
  · exact (storeLine_hit_seen there len ..).trans
      (if_neg fun both => no ⟨⟨both.1.1, by rw [← stay.only.asid, ← stay.only.asid]; exact both.1.2⟩, both.2⟩)

end Sys2Proof.Machine
end

section
/-!
Stores that pass the L1 (O16; spec 06 R168, R173; 09 R246, R258).
-/

namespace Sys2Proof.Machine

/-! ## Lines that stay in L2 with their data ways -/

/-- `t` is `s` but for what lines in L2 hold: a line that has a data way stays, with its leaf. -/
structure LinesStay (s t : State) : Prop where
  only : L2Only s t
  kept : ∀ a v x, s.l2Line? a v = some x → x.form = 0 →
    ∃ y, t.l2Line? a v = some y ∧ y.form = 0 ∧ y.bytes.length = x.bytes.length ∧ y.leaf = x.leaf

namespace LinesStay
variable {s t u : State}

theorem refl (s : State) : LinesStay s s := ⟨.refl s, fun _ _ x found form => ⟨x, found, form, rfl, rfl⟩⟩

theorem trans (h : LinesStay s t) (k : LinesStay t u) : LinesStay s u := by
  refine ⟨h.only.trans k.only, fun a v x found form => ?_⟩
  obtain ⟨y, found2, form2, len2, leaf2⟩ := h.kept a v x found form
  obtain ⟨z, found3, form3, len3, leaf3⟩ := k.kept a v y found2 form2
  exact ⟨z, found3, form3, len3.trans len2, leaf3.trans leaf2⟩

/-- A line that L2 holds is made the first of its slice. -/
theorem touch {c va h : Nat} {l : Leaf} {x : Line} (home : homeInL2 s c l va = true) (held : s.l2Line? (s.asid c) va = some x) :
    LinesStay s (touchL2By s c l va h) := by
  obtain ⟨y, only, -, -, -, kept, found⟩ := touchL2By_brings (h := h) home (.inl (by rw [held]; rfl))
  refine ⟨only, fun a v z there form => ?_⟩
  rw [found]
  split
  · rename_i named
    obtain ⟨rfl, rfl⟩ := named
    rw [kept z there]
    exact ⟨_, rfl, form, rfl, rfl⟩
  · exact ⟨z, there, form, rfl, rfl⟩

end LinesStay

theorem l2Write_form {k : Arrival} {x : Line} (plain : k.compact = false ∨ x.leaf.cmpr = false) (ws : List (Nat × Byte)) :
    (l2Write x ws k).form = 0 := by
  unfold l2Write
  rcases plain with plain | plain
  · simp [plain]
  · simp [plain, packForm]

namespace Landed
variable {k : Arrival} {s t : State} {c va : Nat} {l : Leaf} {ws : List (Nat × Byte)} {y x : Line}
  (h : Landed k s t c l va ws y) (held : s.l2Line? (s.asid c) va = some x)
include h held

theorem stays (plain : k.compact = false ∨ x.leaf.cmpr = false) : LinesStay s t := by
  refine ⟨h.only, fun a v z there form => ?_⟩
  rw [h.found]
  split
  · rename_i named
    obtain ⟨rfl, rfl⟩ := named
    rw [held] at there
    cases there
    refine ⟨_, rfl, l2Write_form ?_ ws, ?_, ?_⟩
    · rw [h.kept x held]
      exact plain
    · rw [h.kept x held]
      exact putBytes_length ..
    · rw [h.kept x held]
      rfl
  · exact ⟨z, there, form, rfl, rfl⟩

/-- A byte at its home after a write to a line that L2 holds. -/
theorem shows (len : x.bytes.length = 128) (cy : Nat) (lf : Leaf) (a : Nat) : Machine.homeByte t cy lf a =
    if (s.asid cy = s.asid c ∧ lf.sysa = false ∧ fencedHome s cy (lineOf a) = false) ∧ lineOf a = va
      then lastAt ws (a % 128) (Machine.homeByte s cy lf a) else Machine.homeByte s cy lf a := by
  have bytes : y.bytes = x.bytes := by rw [h.kept x held]
  rw [h.homeByte (by rw [bytes, len]), bytes]
  refine ite_congr rfl (fun named => ?_) fun _ => rfl
  obtain ⟨⟨asid, reached⟩, rfl⟩ := named
  have there : heldL2 s cy lf (lineOf a) = some x := by rw [heldL2_eq, if_pos reached, asid, held]
  rw [homeByte_eq, homeLine_held there]

end Landed

theorem Passed.homeByte {s t : State} (r : Passed s t) (c : Nat) (l : Leaf) (va : Nat) :
    Machine.homeByte t c l va = Machine.homeByte s c l va := by
  rw [homeByte_eq, homeByte_eq, r.homeLine]

/-! ## Stores of bytes -/

/-- A home where a line with a data way takes writes (R246, R258). -/
structure HomeStore (s : State) (c : Nat) (l : Leaf) (v : Nat) : Prop where
  home : homeInL2 s c l v = true
  line : ∃ x, s.l2Line? (s.asid c) v = some x ∧ x.bytes.length = 128 ∧ x.form = 0

theorem HomeStore.stays {s t : State} {c v : Nat} {l : Leaf} (h : HomeStore s c l v) (same : LinesStay s t) : HomeStore t c l v := by
  obtain ⟨x, held, len, form⟩ := h.line
  obtain ⟨y, held2, form2, len2, -⟩ := same.kept _ _ x held form
  exact ⟨by rw [same.only.homeInL2]; exact h.home, y, by rw [same.only.asid]; exact held2, len2.trans len, form2⟩

section
variable {s : State} {k c va h : Nat} {l : Leaf}

/-- A store that passes the L1, to a line that L2 holds. -/
theorem storeLine_passes_shows (absent : l1Line? s k c va = none) (through : hintAt s k h = 3) (flows : s.snap.cut ≠ 2)
    (idle : s.snap.st ≠ 2) (store : HomeStore s c l va) (ws : List (Nat × Byte)) : LinesStay s (storeLine s k c l va h ws) ∧
      ∀ cy lf a, homeByte (storeLine s k c l va h ws) cy lf a =
        if (s.asid cy = s.asid c ∧ lf.sysa = false ∧ fencedHome s cy (lineOf a) = false) ∧ lineOf a = va
          then lastAt ws (a % 128) (homeByte s cy lf a) else homeByte s cy lf a := by
  obtain ⟨x, held, len, form⟩ := store.line
  obtain ⟨y, landed⟩ := storeLine_lands absent through store.home (.inr ⟨x, held, form⟩) flows (stalls_idle idle ..) ws
  have touched : LinesStay s (touchL2By s c l va 3) := .touch store.home held
  obtain ⟨-, passed⟩ := (Passed.refl s).touch (c := c) (va := va) (l := l) 3 fun _ => by rw [held]; rfl
  obtain ⟨z, held2, -, len2, -⟩ := touched.kept _ _ x held form
  rw [← touched.only.asid] at held2
  refine ⟨touched.trans (landed.stays held2 (.inl rfl)), fun cy lf a => ?_⟩
  rw [landed.shows held2 (len2.trans len), passed.homeByte, touched.only.asid, touched.only.asid, touched.only.fencedHome]

/-- Where lines pass the L1 and have data ways in L2, a store shows in what their homes hold, and in nothing else. -/
theorem storeBytes_passes {as : List (Nat × Leaf × Byte)} (through : hintAt s k h = 3) (flows : s.snap.cut ≠ 2) (idle : s.snap.st ≠ 2)
    (stores : ∀ a ∈ as, l1Line? s k c (lineOf a.1) = none ∧ HomeStore s c a.2.1 (lineOf a.1)) :
    LinesStay s (storeBytes s k c h as) ∧ ∀ i : Sight,
      (s.asid i.ctx = s.asid c ∧ i.leaf.sysa = false ∧ fencedHome s i.ctx (lineOf i.va) = false →
        homeByte (storeBytes s k c h as) i.ctx i.leaf i.va = lastAt (as.map fun a => (a.1, a.2.2)) i.va (homeByte s i.ctx i.leaf i.va)) ∧
      (¬ (s.asid i.ctx = s.asid c ∧ i.leaf.sysa = false ∧ fencedHome s i.ctx (lineOf i.va) = false) →
        homeByte (storeBytes s k c h as) i.ctx i.leaf i.va = homeByte s i.ctx i.leaf i.va) := by
  refine storeBytes_shows (view := fun u (i : Sight) => homeByte u i.ctx i.leaf i.va) (Inv := LinesStay s) (fun u stay a m ws => ?_)
    (.refl s)
  obtain ⟨absent, store⟩ := stores a m
  have gone : l1Line? u k c (lineOf a.1) = none := by rw [l1Line?_eq, stay.only.asid, stay.only.l1At]; exact absent
  have through2 : hintAt u k h = 3 := by
    unfold hintAt State.cluster at through ⊢
    rwa [stay.only.clusters]
  obtain ⟨next, shows⟩ := storeLine_passes_shows gone through2 (by rw [stay.only.cut]; exact flows) (by rw [stay.only.st]; exact idle)
    (store.stays stay) ws
  simp only [stay.only.asid, stay.only.fencedHome] at shows
  exact ⟨stay.trans next, fun i sees at_ => (shows ..).trans (if_pos ⟨sees, at_⟩), fun i no => (shows ..).trans (if_neg no)⟩

end

/-! ## The lanes of a store -/

/-- The bytes that lanes store: their leaves are those the access was granted, and the writes are those of the lanes in order. -/
def Iss.laneStores (c : Iss) (s : State) (vas : Nat → List Nat) (data : Nat → List Byte) : List (Nat × Leaf × Byte) :=
  (lanesOf c.em).flatMap fun l => ((vas l).zip (data l)).map fun e => (e.1, grantedLeaf s c.cluster (s.ctxOf c.warp) e.1, e.2)

theorem storeLanes_eq (c : Iss) (s : State) (h : Nat) (vas : Nat → List Nat) (data : Nat → List Byte) :
    c.storeLanes s h vas data = storeBytes s c.cluster (s.ctxOf c.warp) h (c.laneStores s vas data) := rfl

theorem laneStores_writes (c : Iss) (s : State) (vas : Nat → List Nat) (data : Nat → List Byte) :
    (c.laneStores s vas data).map (fun a => (a.1, a.2.2)) = (lanesOf c.em).flatMap fun l => (vas l).zip (data l) := by
  unfold Iss.laneStores
  rw [List.map_flatMap]
  simp only [List.map_map, Function.comp_def, List.map_id']

theorem mem_laneStores {c : Iss} {s : State} {vas : Nat → List Nat} {data : Nat → List Byte} {a : Nat × Leaf × Byte}
    (m : a ∈ c.laneStores s vas data) : (a.1, a.2.2) ∈ (lanesOf c.em).flatMap (fun l => (vas l).zip (data l)) ∧
      a.2.1 = grantedLeaf s c.cluster (s.ctxOf c.warp) a.1 := by
  refine ⟨laneStores_writes c s vas data ▸ List.mem_map_of_mem (f := fun a => (a.1, a.2.2)) m, ?_⟩
  obtain ⟨l, -, m⟩ := List.mem_flatMap.1 m
  obtain ⟨e, -, rfl⟩ := List.mem_map.1 m
  rfl

/-- The leaf of an access to a line that L2 holds and the L1 does not. -/
theorem grantedLeaf_l2 {s : State} {k c va : Nat} {x : Line} (absent : l1Line? s k c (lineOf va) = none)
    (held : s.l2Line? (s.asid c) (lineOf va) = some x) : grantedLeaf s k c va = x.leaf := by
  unfold grantedLeaf accessLeaf
  rw [absent, held]

end Sys2Proof.Machine
end

section
/-!
Stores complete (O16; spec 06 R167 to R172).
-/

namespace Sys2Proof.Machine

/-! ## The bytes a lane stores (R168) -/

theorem words_getD (g : Nat → Nat) (k : Nat) {i : Nat} (hi : i < 4 * k) :
    ((List.range k).flatMap fun j => leBytes (g j) 4).getD i 0#8 = BitVec.ofNat 8 (g (i / 4) / 2 ^ (8 * (i % 4))) := by
  induction k with
  | zero => omega
  | succ k ih =>
    have length : ((List.range k).flatMap fun j => leBytes (g j) 4).length = 4 * k := by simp [List.length_flatMap, Nat.mul_comm]
    rw [List.range_succ, List.flatMap_append, List.flatMap_singleton, List.getD_eq_getElem?_getD]
    by_cases before : i < 4 * k
    · rw [List.getElem?_append_left (by omega), ← List.getD_eq_getElem?_getD, ih before]
    · have last : i / 4 = k := by omega
      have off : i - 4 * k = i % 4 := by omega
      rw [List.getElem?_append_right (by omega), length, ← List.getD_eq_getElem?_getD, off, last, leBytes_getD _ _ _ (Nat.mod_lt _ (by decide))]

section
variable {s : State} {c : Iss} {k : Space} {w : MemWidth} {d : StReg} {a : Nat} {b : Src} {h : Nat}

theorem storeData_one {r : Src} {l i : Nat} (one : d = .one r) (hi : i < widthBytes w) :
    (c.storeData w d l).getD i 0#8 = BitVec.ofNat 8 (((c.read .d r).lane l).toNat / 2 ^ (8 * i)) := by
  subst one
  exact leBytes_getD _ _ _ hi

theorem storeData_group {r l i : Nat} (group : d = .group r) (wide : w = .w64 ∨ w = .w128) (hi : i < widthBytes w) :
    (c.storeData w d l).getD i 0#8 = BitVec.ofNat 8 (((c.regAt .d r (i / 4)).lane l).toNat / 2 ^ (8 * (i % 4))) := by
  subst group
  have size : widthBytes w = 4 * regsOf w := by rcases wide with rfl | rfl <;> rfl
  exact words_getD (fun j => ((c.regAt .d r j).lane l).toNat) (regsOf w) (by omega)

/-! ## Stores through translation -/

/-- What the lanes of a store leave. -/
def Iss.stored (c : Iss) (s : State) (k : Space) (w : MemWidth) (d : StReg) (a : Nat) (b : Src) (h : Nat) : State :=
  c.storeLanes s h (fun l => c.byteAddrs k (widthBytes w) l (c.address a b l)) (c.storeData w d)

section
variable (active : c.em ≠ 0#32)
include active

theorem store_fails {t : Trap} (fails : c.checkAccess s k .write (widthBytes w) (c.address a b) = .error t) :
    c.store s k w d a b h = .error t := by
  unfold Iss.store
  simp only [if_neg active, fails]
  rfl

theorem store_waits {t : State} (passes : c.checkAccess s k .write (widthBytes w) (c.address a b) = .ok ())
    (waits : c.waitRemote s (c.address a b) (fun l => c.byteAddrs k (widthBytes w) l (c.address a b l)) = some t) :
    c.store s k w d a b h = .ok t := by
  unfold Iss.store
  simp only [if_neg active, passes, waits]
  rfl

theorem store_lands (reaches : Reaches s c k .write (widthBytes w) (c.address a b)) : c.store s k w d a b h =
    .ok (c.complete (if k = .global then c.external (c.stored s k w d a b h) else c.stored s k w d a b h) c.warp) := by
  unfold Iss.store
  simp only [if_neg active, reaches.1, reaches.2]
  rfl

end

/-- A lane's stored bytes in order, at their places. -/
def Iss.storedAt (c : Iss) (k : Space) (w : MemWidth) (d : StReg) (a : Nat) (b : Src) : List (Nat × Byte) :=
  (lanesOf c.em).flatMap fun l => (c.byteAddrs k (widthBytes w) l (c.address a b l)).zip (c.storeData w d l)

/-- The bytes that a store's lanes store, with their leaves. -/
def Iss.lanesStored (c : Iss) (s : State) (k : Space) (w : MemWidth) (d : StReg) (a : Nat) (b : Src) : List (Nat × Leaf × Byte) :=
  c.laneStores s (fun l => c.byteAddrs k (widthBytes w) l (c.address a b l)) (c.storeData w d)

theorem lanesStored_writes : (c.lanesStored s k w d a b).map (fun a => (a.1, a.2.2)) = c.storedAt k w d a b := laneStores_writes ..

theorem mem_lanesStored {e : Nat × Leaf × Byte} (m : e ∈ c.lanesStored s k w d a b) :
    (e.1, e.2.2) ∈ c.storedAt k w d a b ∧ e.2.1 = grantedLeaf s c.cluster (s.ctxOf c.warp) e.1 := mem_laneStores m

theorem stored_eq : c.stored s k w d a b h = storeBytes s c.cluster (s.ctxOf c.warp) h (c.lanesStored s k w d a b) := storeLanes_eq ..

theorem stored_seen (held : ∀ e ∈ c.storedAt k w d a b, HeldL1 s c.cluster (s.ctxOf c.warp) (lineOf e.1)) :
    (c.stored s k w d a b h).mem = s.mem ∧ ∀ j cy l va, seenByte (c.stored s k w d a b h) j cy l va =
      if j = c.cluster ∧ s.asid cy = s.asid (s.ctxOf c.warp) then lastAt (c.storedAt k w d a b) va (seenByte s j cy l va)
      else seenByte s j cy l va := by
  obtain ⟨stay, bytes⟩ := storeBytes_hit (s := s) (k := c.cluster) (h := h) (c := s.ctxOf c.warp)
    (as := c.lanesStored s k w d a b) fun e m => held (e.1, e.2.2) (mem_lanesStored m).1
  rw [lanesStored_writes] at bytes
  rw [stored_eq]
  refine ⟨stay.only.mem, fun j cy l va => ?_⟩
  obtain ⟨shown, same⟩ := bytes ⟨j, cy, l, va⟩
  split
  · exact shown ‹_›
  · exact same ‹_›

theorem stored_home (through : h = 3 ∨ l1Ways (s.cluster c.cluster) = 0) (flows : s.snap.cut ≠ 2) (idle : s.snap.st ≠ 2)
    (stores : ∀ e ∈ c.storedAt k w d a b, l1Line? s c.cluster (s.ctxOf c.warp) (lineOf e.1) = none ∧
      ∃ x, s.l2Line? (s.asid (s.ctxOf c.warp)) (lineOf e.1) = some x ∧ x.bytes.length = 128 ∧ x.form = 0 ∧
        homeInL2 s (s.ctxOf c.warp) x.leaf (lineOf e.1) = true) :
    L2Only s (c.stored s k w d a b h) ∧ ∀ cy l va, homeByte (c.stored s k w d a b h) cy l va =
      if s.asid cy = s.asid (s.ctxOf c.warp) ∧ l.sysa = false ∧ fencedHome s cy (lineOf va) = false
        then lastAt (c.storedAt k w d a b) va (homeByte s cy l va) else homeByte s cy l va := by
  obtain ⟨stay, bytes⟩ := storeBytes_passes ((hintAt_three ..).2 through) flows idle (c := s.ctxOf c.warp)
    (as := c.lanesStored s k w d a b) fun e m => by
      obtain ⟨named, leaf⟩ := mem_lanesStored m
      obtain ⟨absent, x, held, len, form, home⟩ := stores (e.1, e.2.2) named
      rw [leaf, grantedLeaf_l2 absent held]
      exact ⟨absent, home, x, held, len, form⟩
  rw [lanesStored_writes] at bytes
  rw [stored_eq]
  refine ⟨stay.only, fun cy l va => ?_⟩
  obtain ⟨shown, same⟩ := bytes ⟨c.cluster, cy, l, va⟩
  split
  · exact shown ‹_›
  · exact same ‹_›

end

/-! ## The obligation -/

/-- Settles O16: the three bodies of a store, and what the bytes of its lanes change line by line. -/
theorem storesComplete : Obligations.StoresComplete := by
  unfold Obligations.StoresComplete
  intro s c w d a b h issues addr n crew k cx stored put named after
  refine ⟨fun idle => ⟨?_, ?_, ?_⟩, fun active => ⟨fun t fails => ?_, fun t fails => ?_, fun passes t waits => ?_, fun passes t waits => ?_,
    fun t fails => ?_, fun reaches => ?_, fun reaches => ?_, fun passes => ?_⟩, fun l i _ => ⟨fun r one hi _ _ => storeData_one one hi,
    fun r group wide hi => storeData_group group wide hi⟩, fun inv k x away => scratchPut_frame inv away, fun p => ?_⟩
  · exact execute_complete (body := fun c => c.store s .global w d a b h) issues (if_pos idle)
  · exact execute_complete (body := fun c => c.store s .priv w d a b h) issues (if_pos idle)
  · exact execute_complete issues (if_pos idle)
  · exact execute_error (body := fun c => c.store s .global w d a b h) issues (store_fails active fails)
  · exact execute_error (body := fun c => c.store s .priv w d a b h) issues (store_fails active fails)
  · exact execute_ok (body := fun c => c.store s .global w d a b h) issues (store_waits active passes waits)
  · exact execute_ok (body := fun c => c.store s .priv w d a b h) issues (store_waits active passes waits)
  · refine execute_error issues ?_
    simp only [if_neg active, addr, n] at fails ⊢
    rw [fails]
    rfl
  · have only : MemoryOnly s (c.stored s .global w d a b h) := storeLanes_only ..
    exact execute_completeIn (body := fun c => c.store s .global w d a b h) issues only.warps only.clk (store_lands active reaches)
  · have only : MemoryOnly s (c.stored s .priv w d a b h) := storeLanes_only ..
    exact execute_completeIn (body := fun c => c.store s .priv w d a b h) issues only.warps only.clk (store_lands active reaches)
  · have only := scratchPut_only s crew put
    refine execute_completeIn (u := c.external (scratchPut s crew put)) issues only.warps only.clk ?_
    simp only [if_neg active, addr, n] at passes ⊢
    rw [passes]
    rfl
  · have only : MemoryOnly s (c.stored s p w d a b h) := storeLanes_only ..
    have places : named p = c.storedAt p w d a b := by cases p <;> rfl
    refine ⟨⟨only.warps, only.teams, only.crews, only.cores, only.launches, SramKept.storeBytes _ _ _ _ _⟩, fun held => ?_,
      fun through flows idle stores => ?_⟩
    · obtain ⟨mem, seen⟩ := stored_seen (h := h) fun e m => held e (places ▸ m)
      rw [← places] at seen
      exact ⟨mem, seen⟩
    · obtain ⟨only, bytes⟩ := stored_home through flows idle fun e m => by
        obtain ⟨absent, -, line⟩ := stores e (places ▸ m)
        exact ⟨absent, line⟩
      rw [← places] at bytes
      exact ⟨only.clusters, only.home, only.host, bytes⟩

end Sys2Proof.Machine
end

section
/-!
Lanes that act on words one after another (O19; spec 06 R172, R177).
-/

namespace Sys2Proof.Machine

/-! ## Words of bytes -/

/-- The word that bytes hold at an address. -/
def wordAt (byte : Nat → Byte) (a : Nat) : Word := BitVec.ofNat 32 (leNat ((List.range 4).map fun i => byte (a + i)))

/-- The writes of a word's bytes. -/
def wordWrites (a : Nat) (v : Word) : List (Nat × Byte) := (List.range 4).map fun i => (a + i, BitVec.ofNat 8 (v.toNat / 2 ^ (8 * i)))

theorem wordAt_congr {f g : Nat → Byte} {a : Nat} (same : ∀ i, i < 4 → f (a + i) = g (a + i)) : wordAt f a = wordAt g a := by
  unfold wordAt
  rw [List.map_congr_left fun i m => same i (List.mem_range.1 m)]

theorem lastAt_wordWrites (b a : Nat) (v : Word) (old : Byte) : lastAt (wordWrites b v) a old =
    if b ≤ a ∧ a < b + 4 then BitVec.ofNat 8 (v.toNat / 2 ^ (8 * (a - b))) else old :=
  lastAt_run b (fun i => BitVec.ofNat 8 (v.toNat / 2 ^ (8 * i))) 4 a old

theorem wordAt_wordWrites (a : Nat) (v : Word) (m : Nat → Byte) : wordAt (fun x => lastAt (wordWrites a v) x (m x)) a = v := by
  have bytes := leNat_word (byte := fun x => lastAt (wordWrites a v) x (m x)) (v := v) (x := a) fun i hi => by
    rw [lastAt_wordWrites, if_pos (by omega), Nat.add_sub_cancel_left]
  rw [wordAt, bytes, ofNat_toNat_self]

/-! ## Lane results by lane -/

/-- Results listed by lane are those of their lanes. -/
theorem eq_map_laneOf {α : Type} {xs : List (Nat × α)} {ls : List Nat} (lanes : xs.map Prod.fst = ls) (nodup : ls.Nodup) (d : α) :
    xs = ls.map fun l => (l, laneOf xs l d) := by
  subst lanes
  rw [List.map_map]
  refine (List.map_congr_left fun e m => ?_).trans (List.map_id _) |>.symm
  obtain ⟨x, found⟩ := Option.isSome_iff_exists.1 (List.find?_isSome (p := fun x : Nat × α => x.1 == e.1) |>.2 ⟨e, m, by simp⟩)
  have same : x = e := List.inj_on_of_nodup_map nodup (List.mem_of_find?_eq_some found) m (by simpa using List.find?_some found)
  show (e.1, laneOf xs e.1 d) = e
  unfold laneOf
  rw [found, same]

theorem lanesOf_nodup (m : Mask) : (lanesOf m).Nodup := (lanesOf_sorted m).imp fun h => Nat.ne_of_lt h

/-- The lanes before a lane. -/
theorem lanesOf_before {m : Mask} {pre post : List Nat} {l : Nat} (split : lanesOf m = pre ++ l :: post) (j : Nat) :
    j ∈ pre ↔ (j < 32 ∧ m.getLsbD j = true) ∧ j < l := by
  obtain ⟨-, later, before⟩ := List.pairwise_append.1 (split ▸ lanesOf_sorted m)
  rw [← mem_lanesOf, split]
  refine ⟨fun h => ⟨List.mem_append_left _ h, before j h l (List.mem_cons_self ..)⟩, fun ⟨h, lt⟩ => ?_⟩
  rcases List.mem_append.1 h with h | h
  · exact h
  · rcases List.mem_cons.1 h with rfl | h
    · omega
    · have := (List.pairwise_cons.1 later).1 j h
      omega

/-! ## Lanes in order (R177) -/

section
variable (addr : Nat → Nat) (f : Nat → Word → Word)

/-- What lanes write that have read the words of `done`. -/
def laneWrites (done : List (Nat × Word)) : List (Nat × Byte) := done.flatMap fun e => wordWrites (addr e.1) (f e.1 e.2)

/-- Each lane has read what the lanes before it left, over bytes that lane `l` sees as `m l`. -/
def Chained (m : Nat → Nat → Byte) (done : List (Nat × Word)) : Prop := ∀ pre e post, done = pre ++ e :: post →
  e.2 = wordAt (fun a => lastAt (laneWrites addr f pre) a (m e.1 a)) (addr e.1)

variable {addr f}

theorem laneWrites_append (xs ys : List (Nat × Word)) : laneWrites addr f (xs ++ ys) = laneWrites addr f xs ++ laneWrites addr f ys :=
  List.flatMap_append

theorem laneWrites_one (l : Nat) (v : Word) : laneWrites addr f [(l, v)] = wordWrites (addr l) (f l v) := List.flatMap_singleton ..

/-- Lanes that name other words leave a word alone. -/
theorem laneWrites_away {done : List (Nat × Word)} {l : Nat} (aligned : addr l % 4 = 0)
    (others : ∀ e ∈ done, addr e.1 % 4 = 0 ∧ addr e.1 ≠ addr l) {i : Nat} (hi : i < 4) (old : Byte) :
    lastAt (laneWrites addr f done) (addr l + i) old = old := by
  refine lastAt_of_forall_ne (fun w m => ?_) old
  obtain ⟨e, he, m⟩ := List.mem_flatMap.1 m
  obtain ⟨j, hj, rfl⟩ := List.mem_map.1 m
  obtain ⟨word, other⟩ := others e he
  have := List.mem_range.1 hj
  show addr e.1 + j ≠ addr l + i
  omega

theorem Chained.nil (m : Nat → Nat → Byte) : Chained addr f m [] := fun pre e post none => by simp at none

theorem Chained.snoc {m : Nat → Nat → Byte} {done : List (Nat × Word)} (h : Chained addr f m done) {l : Nat} {old : Word}
    (read : old = wordAt (fun a => lastAt (laneWrites addr f done) a (m l a)) (addr l)) : Chained addr f m (done ++ [(l, old)]) := by
  intro pre e post split
  rcases List.eq_nil_or_concat post with rfl | ⟨init, last, rfl⟩
  · obtain ⟨rfl, same⟩ := List.append_inj' split rfl
    obtain rfl : (l, old) = e := by simpa using same
    exact read
  · have whole : done ++ [(l, old)] = (pre ++ e :: init) ++ [last] := by rw [split]; simp
    exact h pre e init (List.append_inj' whole rfl).1

section
variable {m : Nat → Nat → Byte} {em : Mask} {O : Nat → Word} (chained : Chained addr f m ((lanesOf em).map fun l => (l, O l)))
include chained

/-- A lane reads what the lanes before it left. -/
theorem Chained.split {l : Nat} (on : l < 32 ∧ em.getLsbD l = true) : ∃ pre : List Nat,
    (∀ j, j ∈ pre ↔ (j < 32 ∧ em.getLsbD j = true) ∧ j < l) ∧ pre.Pairwise (· < ·) ∧
    O l = wordAt (fun a => lastAt (laneWrites addr f (pre.map fun l => (l, O l))) a (m l a)) (addr l) := by
  obtain ⟨pre, post, split⟩ := List.append_of_mem (mem_lanesOf.2 on)
  refine ⟨pre, lanesOf_before split, (List.pairwise_append.1 (split ▸ lanesOf_sorted em)).1, ?_⟩
  exact chained (pre.map fun l => (l, O l)) (l, O l) (post.map fun l => (l, O l)) (by rw [split]; simp)

variable (aligned : ∀ l, l < 32 ∧ em.getLsbD l = true → addr l % 4 = 0)
include aligned

/-- The first lane that names a word reads it as it was. -/
theorem Chained.first {l : Nat} (on : l < 32 ∧ em.getLsbD l = true)
    (alone : ∀ j, j < 32 ∧ em.getLsbD j = true → j < l → addr j ≠ addr l) : O l = wordAt (m l) (addr l) := by
  obtain ⟨pre, before, -, read⟩ := chained.split on
  rw [read]
  refine wordAt_congr fun i hi => laneWrites_away (aligned l on) (fun e he => ?_) hi _
  obtain ⟨j, hj, rfl⟩ := List.mem_map.1 he
  obtain ⟨jon, lt⟩ := (before j).1 hj
  exact ⟨aligned j jon, alone j jon lt⟩

/-- Another lane reads what the last one before it that names its word left. -/
theorem Chained.next {j l : Nat} (on : l < 32 ∧ em.getLsbD l = true) (jon : j < 32 ∧ em.getLsbD j = true) (lt : j < l)
    (same : addr j = addr l) (last : ∀ i, i < 32 ∧ em.getLsbD i = true → j < i → i < l → addr i ≠ addr l) : O l = f j (O j) := by
  obtain ⟨pre, before, sorted, read⟩ := chained.split on
  obtain ⟨pre1, pre2, rfl⟩ := List.append_of_mem ((before j).2 ⟨jon, lt⟩)
  rw [read, ← wordAt_wordWrites (addr l) (f j (O j)) fun a => lastAt (laneWrites addr f (pre1.map fun l => (l, O l))) a (m l a)]
  refine wordAt_congr fun i hi => ?_
  have parts : (pre1 ++ j :: pre2).map (fun l => (l, O l)) =
      pre1.map (fun l => (l, O l)) ++ ([(j, O j)] ++ pre2.map fun l => (l, O l)) := by simp
  rw [parts, laneWrites_append, lastAt_append, laneWrites_append, lastAt_append, laneWrites_one, same]
  refine laneWrites_away (aligned l on) (fun e he => ?_) hi _
  obtain ⟨k, hk, rfl⟩ := List.mem_map.1 he
  obtain ⟨kon, klt⟩ := (before k).1 (List.mem_append_right _ (List.mem_cons_of_mem _ hk))
  have jk : j < k := (List.pairwise_cons.1 (List.pairwise_append.1 sorted).2.1).1 k hk
  exact ⟨aligned k kon, last k kon jk klt⟩

end

/-- What a byte holds after lanes have acted: the last of them that names its word. -/
theorem lastAt_laneWrites (ls : List Nat) (O : Nat → Word) (a : Nat) (b : Byte) :
    lastAt (laneWrites addr f (ls.map fun l => (l, O l))) a b =
      ((ls.filter fun l => decide (addr l ≤ a) && decide (a < addr l + 4)).getLast?.map fun l =>
        BitVec.ofNat 8 ((f l (O l)).toNat / 2 ^ (8 * (a - addr l)))).getD b := by
  induction ls using List.reverseRecOn with
  | nil => rfl
  | append_singleton ls l ih =>
    rw [List.map_append, laneWrites_append, lastAt_append, ih, List.map_singleton, laneWrites_one, lastAt_wordWrites, List.filter_append]
    by_cases named : addr l ≤ a ∧ a < addr l + 4
    · rw [if_pos named, List.filter_cons_of_pos (by simpa using named)]
      simp
    · rw [if_neg named, List.filter_cons_of_neg (by simpa using named)]
      simp

end

/-! ## A run of lanes over a state -/

/-- How bytes of a state are seen: each at its place, those of `sees` in the memory that the lanes act on, and byte `a` of lane `l`. -/
structure LaneView (ι : Type) where
  view : State → ι → Byte
  place : ι → Nat
  sees : ι → Prop
  eye : Nat → Nat → ι

section
variable {β ι : Type} (V : LaneView ι) (addr : Nat → Nat) (f : Nat → Word → Word) (p : β → State) (q : β → List (Nat × Word))

/-- One lane reads its word and writes the function of it. -/
structure LaneActs (b b' : β) (l : Nat) (old : Word) : Prop where
  adds : q b' = q b ++ [(l, old)]
  reads : old = wordAt (fun a => V.view (p b) (V.eye l a)) (addr l)
  writes : ∀ i, V.sees i → V.view (p b') i = lastAt (wordWrites (addr l) (f l old)) (V.place i) (V.view (p b) i)
  other : ∀ i, ¬ V.sees i → V.view (p b') i = V.view (p b) i

/-- The lanes of `q b` have acted on `s`. -/
structure LanesActed (s : State) (b : β) : Prop where
  chained : Chained addr f (fun l a => V.view s (V.eye l a)) (q b)
  shown : ∀ i, V.sees i → V.view (p b) i = lastAt (laneWrites addr f (q b)) (V.place i) (V.view s i)
  other : ∀ i, ¬ V.sees i → V.view (p b) i = V.view s i

variable {V addr f p q}

theorem LanesActed.start {b : β} (none : q b = []) : LanesActed V addr f p q (p b) b :=
  ⟨none ▸ .nil _, fun _ _ => by rw [none]; rfl, fun _ _ => rfl⟩

/-- One more lane acts, whose word lies in what it sees. -/
theorem LanesActed.step {s : State} {b b' : β} {l : Nat} {old : Word} (h : LanesActed V addr f p q s b)
    (mine : ∀ i, i < 4 → V.sees (V.eye l (addr l + i)) ∧ V.place (V.eye l (addr l + i)) = addr l + i)
    (acts : LaneActs V addr f p q b b' l old) : LanesActed V addr f p q s b' := by
  refine ⟨?_, fun i yes => ?_, fun i no => (acts.other i no).trans (h.other i no)⟩
  · rw [acts.adds]
    refine h.chained.snoc (acts.reads.trans (wordAt_congr fun i hi => ?_))
    obtain ⟨yes, place⟩ := mine i hi
    rw [h.shown _ yes, place]
  · rw [acts.writes i yes, h.shown i yes, acts.adds, laneWrites_append, lastAt_append, laneWrites_one]

/-- Lanes act in order. -/
theorem LanesActed.foldl {s : State} {g : β → Nat → β} {Good : β → Prop} (ls : List Nat)
    (step : ∀ b, Good b → ∀ l ∈ ls, Good (g b l) ∧ ∃ old, LaneActs V addr f p q b (g b l) l old)
    (mine : ∀ l ∈ ls, ∀ i, i < 4 → V.sees (V.eye l (addr l + i)) ∧ V.place (V.eye l (addr l + i)) = addr l + i) (b : β) (good : Good b)
    (h : LanesActed V addr f p q s b) : Good (ls.foldl g b) ∧ LanesActed V addr f p q s (ls.foldl g b) := by
  induction ls generalizing b with
  | nil => exact ⟨good, h⟩
  | cons l ls ih =>
    obtain ⟨next, old, acts⟩ := step b good l (List.mem_cons_self ..)
    exact ih (fun b good k m => step b good k (List.mem_cons_of_mem _ m)) (fun k m => mine k (List.mem_cons_of_mem _ m)) _ next
      (h.step (mine l (List.mem_cons_self ..)) acts)

/-- Each lane adds its result. -/
theorem foldl_lanes {α β : Type} {q : β → List (Nat × α)} {g : β → Nat → β} (adds : ∀ b l, ∃ v, q (g b l) = q b ++ [(l, v)]) (ls : List Nat)
    (b : β) : (q (ls.foldl g b)).map Prod.fst = (q b).map Prod.fst ++ ls := by
  induction ls generalizing b with
  | nil => simp
  | cons l ls ih =>
    obtain ⟨v, e⟩ := adds b l
    rw [List.foldl_cons, ih, e]
    simp

end

end Sys2Proof.Machine
end

section
/-!
Atomics at the L1 and at the home L2 (O19; spec 06 R177, R178; 12 R303).
-/

namespace Sys2Proof.Machine

/-! ## An aligned word of a line -/

/-- The bytes of an aligned word lie in one line. -/
theorem lineOf_word {a i : Nat} (aligned : a % 4 = 0) (hi : i < 4) : lineOf (a + i) = lineOf a ∧ (a + i) % 128 = a % 128 + i := by
  unfold lineOf
  omega

/-- A word's writes at the offsets of its line are its writes at its addresses. -/
theorem lastAt_lineWord {a b : Nat} (aligned : a % 4 = 0) (line : lineOf b = lineOf a) (v : Word) (old : Byte) :
    lastAt (wordWrites (a % 128) v) (b % 128) old = lastAt (wordWrites a v) b old := by
  rw [lastAt_wordWrites, lastAt_wordWrites]
  unfold lineOf at line
  have off : b % 128 - a % 128 = b - a := by omega
  rw [off]
  exact if_congr (by omega) rfl rfl

theorem lastAt_otherLine {a b : Nat} (aligned : a % 4 = 0) (line : lineOf b ≠ lineOf a) (v : Word) (old : Byte) :
    lastAt (wordWrites a v) b old = old := by
  rw [lastAt_wordWrites, if_neg]
  unfold lineOf at line
  omega

theorem leBytes_writes (a : Nat) (v : Word) : ((List.range 4).map fun i => (a + i, (leBytes v.toNat 4).getD i 0#8)) = wordWrites a v :=
  List.map_congr_left fun i m => by rw [leBytes_getD _ _ _ (List.mem_range.1 m)]

/-- The word of a line at its home. -/
theorem homeLine_word {s : State} {c a : Nat} {l : Leaf} (aligned : a % 4 = 0) (len : (homeLine s c l (lineOf a)).1.length = 128) :
    BitVec.ofNat 32 (leNat (((homeLine s c l (lineOf a)).1.drop (a % 128)).take 4)) = wordAt (homeByte s c l) a := by
  have bytes : ((homeLine s c l (lineOf a)).1.drop (a % 128)).take 4 = (List.range 4).map fun i => homeByte s c l (a + i) := by
    refine List.ext_getElem (by simp [len]; omega) fun i hi _ => ?_
    have small : i < 4 := by simp at hi; omega
    obtain ⟨line, off⟩ := lineOf_word aligned small
    rw [List.getElem_take, List.getElem_drop, List.getElem_map, List.getElem_range, homeByte_eq, line, off, List.getD_eq_getElem]
  rw [bytes]
  rfl

/-! ## The lanes of an atomic -/

section
variable (c : Iss) (s : State) (only : Bool) (addr : Nat → Nat) (f : Nat → Word → Word)

/-- One lane of `Iss.atomLanes`. -/
def Iss.atomStep (acc : State × List (Nat × Word) × List Nat × List (Nat × Word)) (l : Nat) :
    State × List (Nat × Word) × List Nat × List (Nat × Word) :=
  let r := atomAt acc.1 c.cluster (s.ctxOf c.warp) only (addr l) (f l) ((acc.2.2.2.find? fun e => e.1 == addr l).map Prod.snd)
  (r.1, acc.2.1 ++ [(l, r.2.1)], if r.2.2 then l :: acc.2.2.1 else acc.2.2.1,
    peerWords s (s.ctxOf c.warp) (addr l) (f l r.2.1) acc.2.2.2)

/-- What the lanes have come to. -/
def Iss.atomRun : State × List (Nat × Word) × List Nat × List (Nat × Word) := (lanesOf c.em).foldl (c.atomStep s only addr f) (s, [], [], [])

theorem atomLanes_run : c.atomLanes s only addr f =
    ((c.atomRun s only addr f).1, (c.atomRun s only addr f).2.1, (c.atomRun s only addr f).2.2.1) := rfl

theorem atomLanes_lanes : (c.atomLanes s only addr f).2.1.map Prod.fst = lanesOf c.em := by
  rw [atomLanes_run]
  exact foldl_lanes (q := fun b : State × List (Nat × Word) × List Nat × List (Nat × Word) => b.2.1) (g := c.atomStep s only addr f)
    (fun b l => ⟨_, rfl⟩) (lanesOf c.em) (s, [], [], [])

end

/-! ## At the L1 (R178, R303) -/

theorem grantedLeaf_l1 {s : State} {k c va : Nat} {x : Line} (held : l1Line? s k c (lineOf va) = some x) : grantedLeaf s k c va = x.leaf := by
  unfold grantedLeaf accessLeaf
  rw [held]

/-- An atomic on a line of the L1. -/
theorem atomL1_hit {s : State} {k c a : Nat} (l lf : Leaf) {g : Word → Word} (aligned : a % 4 = 0) (held : HeldL1 s k c (lineOf a)) :
    (atomL1 s k c l a g).2.1 = wordAt (seenByte s k c lf) a ∧ L1Stays s (atomL1 s k c l a g).1 ∧ ∀ i : Sight,
      (i.cluster = k ∧ s.asid i.ctx = s.asid c →
        i.seen (atomL1 s k c l a g).1 = lastAt (wordWrites a (g (atomL1 s k c l a g).2.1)) i.va (i.seen s)) ∧
      (¬ (i.cluster = k ∧ s.asid i.ctx = s.asid c) → i.seen (atomL1 s k c l a g).1 = i.seen s) := by
  obtain ⟨x, there, len⟩ := held
  have mine : ∀ e ∈ (List.range 4).map fun i => (a + i, l), lineOf e.1 = lineOf a := fun e m => by
    obtain ⟨i, hi, rfl⟩ := List.mem_map.1 m
    exact (lineOf_word aligned (List.mem_range.1 hi)).1
  obtain ⟨⟨remarked, stay⟩, bytes⟩ := loadBytes_of (s := s) (k := k) (c := c) (h := 0) (as := (List.range 4).map fun i => (a + i, l))
    (Inv := fun u => Remarked s u ∧ L1Stays s u) (val := fun _ => lineData x) (fun u inv e m => by
      obtain ⟨y, hit, -⟩ := inv.2.heldL1 ⟨x, there, len⟩
      rw [mine e m]
      obtain ⟨same, next⟩ := inv.1.loadLine (h := 0) (l := e.2) there len
      exact ⟨same, next, inv.2.trans (loadLine_hit_stays hit)⟩) ⟨.refl s, .refl s⟩
  have old : (atomL1 s k c l a g).2.1 = wordAt (seenByte s k c lf) a := by
    unfold atomL1 wordAt
    dsimp only
    rw [bytes, List.map_map, List.map_map]
    refine congrArg (fun bs => BitVec.ofNat 32 (leNat bs)) (List.map_congr_left fun i m => ?_)
    exact (seenByte_hit (by rw [(lineOf_word aligned (List.mem_range.1 m)).1]; exact there) lf).symm
  have writes : (((List.range 4).map fun i => (a + i, l, (leBytes (g (atomL1 s k c l a g).2.1).toNat 4).getD i 0#8)).map
      fun e : Nat × Leaf × Byte => (e.1, e.2.2)) = wordWrites a (g (atomL1 s k c l a g).2.1) := by
    rw [List.map_map]
    exact leBytes_writes a _
  obtain ⟨stored, shown⟩ := storeBytes_hit (h := 0) (s := (loadBytes s k c 0 ((List.range 4).map fun i => (a + i, l))).1) (k := k) (c := c)
    (as := (List.range 4).map fun i => (a + i, l, (leBytes (g (atomL1 s k c l a g).2.1).toNat 4).getD i 0#8)) fun e m => by
      obtain ⟨i, hi, rfl⟩ := List.mem_map.1 m
      rw [(lineOf_word aligned (List.mem_range.1 hi)).1]
      exact stay.heldL1 ⟨x, there, len⟩
  rw [writes] at shown
  refine ⟨old, stay.trans stored, fun i => ?_⟩
  have before : i.seen (loadBytes s k c 0 ((List.range 4).map fun i => (a + i, l))).1 = i.seen s := remarked.seen ..
  have shown := shown i
  rw [before, stay.only.asid, stay.only.asid] at shown
  exact shown

/-- How a cluster's loads see the bytes of a context. -/
def l1View (s : State) (k c : Nat) (leaf : Nat → Leaf) : LaneView Sight where
  view u i := i.seen u
  place i := i.va
  sees i := i.cluster = k ∧ s.asid i.ctx = s.asid c
  eye l a := ⟨k, c, leaf l, a⟩

section
variable {s : State} {c : Iss} {addr : Nat → Nat} {f : Nat → Word → Word}
  (aligned : ∀ l, l < 32 ∧ c.em.getLsbD l = true → addr l % 4 = 0)
include aligned

theorem atomRun_l1 (banks : l1Ways (s.cluster c.cluster) ≠ 0)
    (plain : ∀ l, l < 32 ∧ c.em.getLsbD l = true → (grantedLeaf s c.cluster (s.ctxOf c.warp) (addr l)).sysa = false)
    (held : ∀ l, l < 32 ∧ c.em.getLsbD l = true → HeldL1 s c.cluster (s.ctxOf c.warp) (lineOf (addr l))) :
    L1Stays s (c.atomRun s true addr f).1 ∧
      LanesActed (l1View s c.cluster (s.ctxOf c.warp) fun l => grantedLeaf s c.cluster (s.ctxOf c.warp) (addr l)) addr f
        Prod.fst (fun b => b.2.1) s (c.atomRun s true addr f) := by
  refine LanesActed.foldl (V := l1View s c.cluster (s.ctxOf c.warp) fun l => grantedLeaf s c.cluster (s.ctxOf c.warp) (addr l))
    (g := c.atomStep s true addr f) (Good := fun b => L1Stays s b.1) (lanesOf c.em) (fun b stay l m => ?_)
    (fun _ _ _ _ => ⟨⟨rfl, rfl⟩, rfl⟩) (s, [], [], []) (.refl s) (.start (p := Prod.fst) (b := (s, [], [], [])) rfl)
  have on := mem_lanesOf.1 m
  obtain ⟨x, there, len⟩ := held l on
  obtain ⟨y, hit, len2, leaf⟩ := stay.kept _ _ _ x there
  have hit2 : l1Line? b.1 c.cluster (s.ctxOf c.warp) (lineOf (addr l)) = some y := by rw [l1Line?_eq, stay.only.asid]; exact hit
  have runs : ∀ seen, atomAt b.1 c.cluster (s.ctxOf c.warp) true (addr l) (f l) seen =
      atomL1 b.1 c.cluster (s.ctxOf c.warp) y.leaf (addr l) (f l) := fun seen => by
    have ordinary : y.leaf.sysa = false := by rw [leaf, ← grantedLeaf_l1 there]; exact plain l on
    unfold atomAt
    simp only [grantedLeaf_l1 hit2, ordinary, stay.ways]
    exact if_pos (by simpa using banks)
  obtain ⟨old, next, shown⟩ := atomL1_hit (g := f l) y.leaf (grantedLeaf s c.cluster (s.ctxOf c.warp) (addr l)) (aligned l on)
    ⟨y, hit2, len2.trans len⟩
  rw [stay.only.asid] at shown
  have first : (c.atomStep s true addr f b l).1 = (atomL1 b.1 c.cluster (s.ctxOf c.warp) y.leaf (addr l) (f l)).1 :=
    congrArg Prod.fst (runs _)
  refine ⟨first ▸ stay.trans next, (atomL1 b.1 c.cluster (s.ctxOf c.warp) y.leaf (addr l) (f l)).2.1, ?_, old, fun i sees => ?_,
    fun i no => ?_⟩
  · exact congrArg (fun r : State × Word × Bool => b.2.1 ++ [(l, r.2.1)]) (runs _)
  · show i.seen (c.atomStep s true addr f b l).1 = _
    rw [first]
    exact (shown i).1 ⟨sees.1, by rw [stay.only.asid]; exact sees.2⟩
  · show i.seen (c.atomStep s true addr f b l).1 = _
    rw [first]
    exact (shown i).2 fun both => no ⟨both.1, by rw [← stay.only.asid]; exact both.2⟩

end

/-! ## At the home L2 (R178) -/

/-- An atomic at the home of a line that the cluster's L1 does not hold. -/
theorem atomHome_writes {s : State} {k c a : Nat} {l : Leaf} {g : Word → Word} (aligned : a % 4 = 0)
    (absent : l1Line? s k c (lineOf a) = none) (whole : (homeLine s c l (lineOf a)).1.length = 128) :
    (atomHome s k c l a g none).2.1 = wordAt (homeByte s c l) a ∧ (atomHome s k c l a g none).1 =
      agentWriteBy {} s c l (lineOf a) (wordWrites (a % 128) (g (atomHome s k c l a g none).2.1)) := by
  have stays : flushLine s k c a = s := by
    unfold flushLine
    rw [absent]
  constructor
  · rw [← homeLine_word aligned whole]
    unfold atomHome
    rw [stays]
    rfl
  · rw [← leBytes_writes]
    unfold atomHome
    rw [stays]
    rfl

/-- An atomic on a line that L2 holds and the cluster's L1 does not. -/
theorem atomHome_lands {s : State} {k c a : Nat} {x : Line} {g : Word → Word} (aligned : a % 4 = 0)
    (absent : l1Line? s k c (lineOf a) = none) (flows : s.snap.cut ≠ 2) (idle : s.snap.st ≠ 2)
    (held : s.l2Line? (s.asid c) (lineOf a) = some x) (len : x.bytes.length = 128) (form : x.form = 0) (plain : x.leaf.cmpr = false)
    (home : homeInL2 s c x.leaf (lineOf a) = true) :
    (atomHome s k c x.leaf a g none).2.1 = wordAt (homeByte s c x.leaf) a ∧ LinesStay s (atomHome s k c x.leaf a g none).1 ∧
      ∀ i : Sight,
      (s.asid i.ctx = s.asid c ∧ i.leaf.sysa = false ∧ fencedHome s i.ctx (lineOf i.va) = false →
        homeByte (atomHome s k c x.leaf a g none).1 i.ctx i.leaf i.va =
          lastAt (wordWrites a (g (atomHome s k c x.leaf a g none).2.1)) i.va (homeByte s i.ctx i.leaf i.va)) ∧
      (¬ (s.asid i.ctx = s.asid c ∧ i.leaf.sysa = false ∧ fencedHome s i.ctx (lineOf i.va) = false) →
        homeByte (atomHome s k c x.leaf a g none).1 i.ctx i.leaf i.va = homeByte s i.ctx i.leaf i.va) := by
  have whole : (homeLine s c x.leaf (lineOf a)).1.length = 128 := by
    rw [homeLine_held ((heldL2_home home).trans held)]
    exact len
  obtain ⟨old, runs⟩ := atomHome_writes (g := g) aligned absent whole
  generalize (atomHome s k c x.leaf a g none).2.1 = v at old runs
  obtain ⟨y, landed⟩ := agentWriteBy_lands (k := {}) (ws := wordWrites (a % 128) (g v)) home flows (stalls_idle idle c [(lineOf a, x.leaf)])
    (.inr ⟨x, held, form⟩)
  rw [← runs] at landed
  refine ⟨old, landed.stays held (.inr plain), fun i => ⟨fun sees => ?_, fun no => ?_⟩⟩
  · rw [landed.shows held len]
    by_cases line : lineOf i.va = lineOf a
    · rw [if_pos ⟨sees, line⟩, lastAt_lineWord aligned line]
    · rw [if_neg fun both => line both.2, lastAt_otherLine aligned line]
  · rw [landed.shows held len, if_neg fun both => no both.1]

/-- The bytes of a context as their homes hold them. -/
def homeView (s : State) (k c : Nat) (leaf : Nat → Leaf) : LaneView Sight where
  view u i := homeByte u i.ctx i.leaf i.va
  place i := i.va
  sees i := s.asid i.ctx = s.asid c ∧ i.leaf.sysa = false ∧ fencedHome s i.ctx (lineOf i.va) = false
  eye l a := ⟨k, c, leaf l, a⟩

/-- The home of an address is that of its line (R354). -/
theorem homeOf_line (x : Context) (a : Nat) : homeOf (x.placement (lineOf a)) (lineOf a) = homeOf (x.placement a) a := by
  have granule : bitsN (lineOf a) 12 44 = bitsN a 12 44 := by
    unfold bitsN lineOf
    omega
  have region : bitsN (lineOf a) 50 6 = bitsN a 50 6 := by
    unfold bitsN lineOf
    omega
  unfold homeOf Context.placement
  rw [granule, region]

theorem peerWords_stack {s : State} {c a : Nat} {l : Leaf} (home : homeInL2 s c l (lineOf a) = true) (v : Word) (ws : List (Nat × Word)) :
    peerWords s c a v ws = ws := by
  obtain ⟨-, n, at_, -⟩ := (homeInL2_iff ..).1 home
  rw [homeOf_line] at at_
  unfold peerWords
  rw [at_]

section
variable {s : State} {c : Iss} {only : Bool} {addr : Nat → Nat} {f : Nat → Word → Word}
  (aligned : ∀ l, l < 32 ∧ c.em.getLsbD l = true → addr l % 4 = 0)
include aligned

theorem atomRun_home (away : only = false ∨ l1Ways (s.cluster c.cluster) = 0) (flows : s.snap.cut ≠ 2) (idle : s.snap.st ≠ 2)
    (lines : ∀ l, l < 32 ∧ c.em.getLsbD l = true → l1Line? s c.cluster (s.ctxOf c.warp) (lineOf (addr l)) = none ∧
      ∃ x, s.l2Line? (s.asid (s.ctxOf c.warp)) (lineOf (addr l)) = some x ∧ x.bytes.length = 128 ∧ x.form = 0 ∧ x.leaf.cmpr = false ∧
        homeInL2 s (s.ctxOf c.warp) x.leaf (lineOf (addr l)) = true) :
    (LinesStay s (c.atomRun s only addr f).1 ∧ (c.atomRun s only addr f).2.2.2 = []) ∧
      LanesActed (homeView s c.cluster (s.ctxOf c.warp) fun l => grantedLeaf s c.cluster (s.ctxOf c.warp) (addr l)) addr f
        Prod.fst (fun b => b.2.1) s (c.atomRun s only addr f) := by
  refine LanesActed.foldl (g := c.atomStep s only addr f) (Good := fun b => LinesStay s b.1 ∧ b.2.2.2 = []) (lanesOf c.em)
    (fun b good l m => ?_) (fun l m i hi => ?_) (s, [], [], []) ⟨.refl s, rfl⟩ (.start (p := Prod.fst) (b := (s, [], [], [])) rfl)
  · have on := mem_lanesOf.1 m
    obtain ⟨stay, none⟩ := good
    obtain ⟨absent, x, held, len, form, plain, home⟩ := lines l on
    obtain ⟨y, held2, form2, len2, leaf⟩ := stay.kept _ _ x held form
    rw [← stay.only.asid] at held2
    have absent2 : l1Line? b.1 c.cluster (s.ctxOf c.warp) (lineOf (addr l)) = Option.none := by
      rw [l1Line?_eq, stay.only.asid, stay.only.l1At]
      exact absent
    have runs : atomAt b.1 c.cluster (s.ctxOf c.warp) only (addr l) (f l) ((b.2.2.2.find? fun e => e.1 == addr l).map Prod.snd) =
        atomHome b.1 c.cluster (s.ctxOf c.warp) y.leaf (addr l) (f l) Option.none := by
      have elsewhere : (only && !y.leaf.sysa && l1Ways (b.1.cluster c.cluster) != 0) = false := by
        have same : b.1.cluster c.cluster = s.cluster c.cluster := by
          unfold State.cluster
          rw [stay.only.clusters]
        rw [same]
        rcases away with no | no <;> simp [no]
      unfold atomAt
      simp only [grantedLeaf_l2 absent2 held2, elsewhere, none]
      rfl
    have granted : y.leaf = grantedLeaf s c.cluster (s.ctxOf c.warp) (addr l) := leaf.trans (grantedLeaf_l2 absent held).symm
    obtain ⟨old, next, shown⟩ := atomHome_lands (g := f l) (aligned l on) absent2 (by rw [stay.only.cut]; exact flows)
      (by rw [stay.only.st]; exact idle) held2 (len2.trans len) form2 (by rw [leaf]; exact plain)
      (by rw [stay.only.homeInL2, leaf]; exact home)
    simp only [stay.only.asid, stay.only.fencedHome] at shown
    have first : (c.atomStep s only addr f b l).1 = (atomHome b.1 c.cluster (s.ctxOf c.warp) y.leaf (addr l) (f l) Option.none).1 :=
      congrArg Prod.fst runs
    refine ⟨⟨first ▸ stay.trans next, (peerWords_stack home ..).trans none⟩,
      (atomHome b.1 c.cluster (s.ctxOf c.warp) y.leaf (addr l) (f l) Option.none).2.1, ?_, ?_, fun i sees => ?_, fun i no => ?_⟩
    · exact congrArg (fun r : State × Word × Bool => b.2.1 ++ [(l, r.2.1)]) runs
    · rw [old, granted]
      rfl
    · show homeByte (c.atomStep s only addr f b l).1 i.ctx i.leaf i.va = _
      rw [first]
      exact (shown i).1 sees
    · show homeByte (c.atomStep s only addr f b l).1 i.ctx i.leaf i.va = _
      rw [first]
      exact (shown i).2 no
  · have on := mem_lanesOf.1 m
    obtain ⟨absent, x, held, -, -, -, home⟩ := lines l on
    obtain ⟨ordinary, n, at_, open_⟩ := (homeInL2_iff ..).1 home
    refine ⟨⟨rfl, ?_, ?_⟩, rfl⟩
    · show (grantedLeaf s c.cluster (s.ctxOf c.warp) (addr l)).sysa = false
      rw [grantedLeaf_l2 absent held, ordinary]
    · show fencedHome s (s.ctxOf c.warp) (lineOf (addr l + i)) = false
      rw [(lineOf_word (aligned l on) hi).1, fencedHome_stack at_, open_]

end

end Sys2Proof.Machine
end

section
/-!
The memory effect of atomics (O19; spec 06 R172, R177, R178; 12 R303, R362).
-/

namespace Sys2Proof.Machine

/-! ## One lane's atomic at a controller or in host memory (R178, R362) -/

section
variable {s : State} {k c a : Nat} {l : Leaf} {g : Word → Word}

theorem atomAt_home {only : Bool} {seen : Option Word}
    (home : ¬ (only = true ∧ (grantedLeaf s k c a).sysa = false ∧ l1Ways (s.cluster k) ≠ 0)) :
    atomAt s k c only a g seen = atomHome s k c (grantedLeaf s k c a) a g seen := by
  unfold atomAt
  exact if_neg (by simpa using home)

/-- The cluster's copy of the line goes first. -/
theorem atomHome_flushes {x : Line} (held : l1Line? s k c (lineOf a) = some x) (seen : Option Word) :
    atomHome s k c l a g seen = atomHome (evictL1 s k x) k c l a g seen := by
  have first : flushLine s k c a = evictL1 s k x := by
    unfold flushLine
    rw [held]
  have again : flushLine (evictL1 s k x) k c a = evictL1 s k x := by
    unfold flushLine
    rw [evictL1_gone held]
  unfold atomHome
  rw [first, again]

theorem homeLine_away {va : Nat} (away : heldL2 s c l va = none) : (homeLine s c l va).1.length = 128 := by
  rw [homeLine_below away]
  simp [belowL2]

variable (flows : s.snap.cut ≠ 2) (idle : s.snap.st ≠ 2)
include flows idle

/-- A write to a page for system-wide atomics is served by the controller of its stack. -/
theorem agentWrite_controller {n va : Nat} (sysa : l.sysa = true) (at_ : homeOf ((s.ctx c).placement va) va = .stack n)
    (open_ : fencedStack s n = false) (ws : List (Nat × Byte)) : ∃ sn p b, agentWriteBy {} s c l va ws = { s with
      snap := sn
      mem := { s.mem with
        home := memPut s.mem.home (ws.map fun w => (physAddr ((s.ctx c).placement va) l va + w.1, w.2)), poison := p, blocks := b } } := by
  have free := stalls_idle idle c [(va, l)]
  obtain ⟨sn, copied, -, -⟩ := copies_free free
  have away : ∀ sn, homeInL2 { s with snap := sn } c l va = false := fun sn => by
    refine Bool.eq_false_iff.2 fun yes => ?_
    rw [((homeInL2_iff ..).1 yes).1] at sysa
    cases sysa
  have none : ∀ sn, heldL2 { s with snap := sn } c l va = none := fun sn => by
    rw [heldL2_eq, if_neg fun both => Bool.false_ne_true (both.1.symm.trans sysa)]
  have stays : ∀ sn, dataWay {} { s with snap := sn } c l va ws n = { s with snap := sn } := fun sn => by
    unfold dataWay
    rw [none]
  unfold agentWriteBy homeWriteBy
  simp only [gate_open flows free, at_, open_, copied, touchL2By_skips (away sn), stays, none, Bool.false_eq_true, if_false, Option.isSome_none]
  exact ⟨_, _, _, rfl⟩

theorem agentWrite_hub {va : Nat} (at_ : homeOf ((s.ctx c).placement va) va = .hub) (ws : List (Nat × Byte)) :
    agentWriteBy {} s c l va ws =
      { s with mem := { s.mem with host := memPut s.mem.host (ws.map fun w => (hostAddr l va + w.1, w.2)) } } := by
  unfold agentWriteBy homeWriteBy
  simp only [gate_open flows (stalls_idle idle c [(va, l)]), at_]

variable (aligned : a % 4 = 0) (absent : l1Line? s k c (lineOf a) = none)
include aligned absent

/-- An atomic whose page is for system-wide atomics acts on the stack's memory. -/
theorem atomHome_controller {n : Nat} (sysa : l.sysa = true) (at_ : homeOf ((s.ctx c).placement (lineOf a)) (lineOf a) = .stack n)
    (open_ : fencedStack s n = false) : let r := atomHome s k c l a g none
    r.2.1 = wordAt (homeByte s c l) a ∧ r.1.mem.home = memPut s.mem.home ((wordWrites (a % 128) (g r.2.1)).map fun w =>
      (physAddr ((s.ctx c).placement (lineOf a)) l (lineOf a) + w.1, w.2)) ∧
    r.1.clusters = s.clusters ∧ r.1.mem.l2 = s.mem.l2 ∧ r.1.mem.host = s.mem.host := by
  have none : heldL2 s c l (lineOf a) = none := by rw [heldL2_eq, if_neg fun both => Bool.false_ne_true (both.1.symm.trans sysa)]
  obtain ⟨old, runs⟩ := atomHome_writes (g := g) aligned absent (homeLine_away none)
  obtain ⟨sn, p, b, wrote⟩ := agentWrite_controller flows idle sysa at_ open_ (wordWrites (a % 128) (g (atomHome s k c l a g Option.none).2.1))
  rw [wrote] at runs
  intro r
  refine ⟨old, ?_, ?_, ?_, ?_⟩
  · exact (congrArg (fun t : State => t.mem.home) runs).trans rfl
  · exact (congrArg (fun t : State => t.clusters) runs).trans rfl
  · exact (congrArg (fun t : State => t.mem.l2) runs).trans rfl
  · exact (congrArg (fun t : State => t.mem.host) runs).trans rfl

/-- An atomic whose page lies in host memory acts there. -/
theorem atomHome_host (at_ : homeOf ((s.ctx c).placement (lineOf a)) (lineOf a) = .hub)
    (uncached : l.sysa = true ∨ s.l2Line? (s.asid c) (lineOf a) = none) : let r := atomHome s k c l a g none
    r.2.1 = wordAt (homeByte s c l) a ∧ r.1.mem.host = memPut s.mem.host ((wordWrites (a % 128) (g r.2.1)).map fun w =>
      (hostAddr l (lineOf a) + w.1, w.2)) ∧
    r.1.clusters = s.clusters ∧ r.1.mem.l2 = s.mem.l2 ∧ r.1.mem.home = s.mem.home := by
  have none : heldL2 s c l (lineOf a) = none := by
    rw [heldL2_eq]
    rcases uncached with sysa | gone
    · rw [if_neg fun both => Bool.false_ne_true (both.1.symm.trans sysa)]
    · rw [gone, ite_self]
  obtain ⟨old, runs⟩ := atomHome_writes (g := g) aligned absent (homeLine_away none)
  rw [agentWrite_hub flows idle at_] at runs
  intro r
  refine ⟨old, ?_, ?_, ?_, ?_⟩
  · exact (congrArg (fun t : State => t.mem.host) runs).trans rfl
  · exact (congrArg (fun t : State => t.clusters) runs).trans rfl
  · exact (congrArg (fun t : State => t.mem.l2) runs).trans rfl
  · exact (congrArg (fun t : State => t.mem.home) runs).trans rfl

end

/-! ## The scratchpad (R179, R304) -/

/-- `t` is `s` but for what scratchpads hold. -/
structure ScratchKept (s t : State) : Prop where
  mem : t.mem = s.mem
  count : t.clusters.length = s.clusters.length
  crew : ∀ n, t.crew n = s.crew n
  place : ∀ n o, scratchAddr t n o = scratchAddr s n o
  inv : MemInv s → MemInv t

theorem ScratchKept.refl (s : State) : ScratchKept s s := ⟨rfl, rfl, fun _ => rfl, fun _ _ => rfl, id⟩

theorem ScratchKept.put {s t : State} (h : ScratchKept s t) (crew : Nat) (ws : List (Nat × Byte)) : ScratchKept s (scratchPut t crew ws) :=
  ⟨h.mem, (updAt_length ..).trans h.count, h.crew, fun n o => (scratchPut_scratchAddr ..).trans (h.place n o),
    fun inv => (scratchPut_only t crew ws).inv (h.inv inv)⟩

/-- The bytes of a crew's scratchpad. -/
def scratchView (s : State) (crew : Nat) : LaneView Nat where
  view u a := if a < crewScratch s crew then scratchByte u crew a else 0#8
  place a := a
  sees a := a < crewScratch s crew
  eye _ a := a

section
variable {s : State} {c : Iss} {addr : Nat → Nat} {f : Nat → Word → Word}

/-- One lane of `Iss.atomsLanes`. -/
def Iss.atomsStep (c : Iss) (s : State) (addr : Nat → Nat) (f : Nat → Word → Word) (acc : State × List (Nat × Word)) (l : Nat) :
    State × List (Nat × Word) :=
  (scratchPutNat acc.1 (s.crewNo c.warp) (addr l)
      (f l (BitVec.ofNat 32 (scratchNat acc.1 (s.crewNo c.warp) (addr l) 4))).toNat 4,
    acc.2 ++ [(l, BitVec.ofNat 32 (scratchNat acc.1 (s.crewNo c.warp) (addr l) 4))])

theorem atomsLanes_run (c : Iss) (s : State) (addr : Nat → Nat) (f : Nat → Word → Word) :
    c.atomsLanes s addr f = (lanesOf c.em).foldl (c.atomsStep s addr f) (s, []) := rfl

theorem atomsLanes_lanes (c : Iss) (s : State) (addr : Nat → Nat) (f : Nat → Word → Word) :
    (c.atomsLanes s addr f).2.map Prod.fst = lanesOf c.em := by
  rw [atomsLanes_run]
  exact foldl_lanes (q := Prod.snd) (g := c.atomsStep s addr f) (fun b l => ⟨_, rfl⟩) (lanesOf c.em) (s, [])

theorem scratchView_word {u : State} {crew a : Nat} (inside : a + 4 ≤ crewScratch s crew) :
    wordAt (fun x => (scratchView s crew).view u x) a = wordAt (scratchByte u crew) a :=
  wordAt_congr fun i hi => if_pos (by omega)

/-- The bytes that the lanes' words do not hold keep their places. -/
def ScratchFrame (s : State) (c : Iss) (addr : Nat → Nat) (t : State) : Prop :=
  ∀ j p, (j ≠ (s.crew (s.crewNo c.warp)).cluster ∨
      ∀ l i, (l < 32 ∧ c.em.getLsbD l = true) → i < 4 → scratchAddr s (s.crewNo c.warp) (addr l + i) ≠ p) →
    memGet (t.cluster j).sram p = memGet (s.cluster j).sram p

variable (inside : ∀ l, l < 32 ∧ c.em.getLsbD l = true → addr l + 4 ≤ crewScratch s (s.crewNo c.warp))
  (present : (s.crew (s.crewNo c.warp)).cluster < s.clusters.length) (inv : MemInv s)
  (apart : ∀ a b, a < crewScratch s (s.crewNo c.warp) → b < crewScratch s (s.crewNo c.warp) →
    scratchAddr s (s.crewNo c.warp) a = scratchAddr s (s.crewNo c.warp) b → a = b)
include inside present inv apart

theorem atomsRun_scratch : (ScratchKept s (c.atomsLanes s addr f).1 ∧ ScratchFrame s c addr (c.atomsLanes s addr f).1) ∧
    LanesActed (scratchView s (s.crewNo c.warp)) addr f Prod.fst Prod.snd s (c.atomsLanes s addr f) := by
  rw [atomsLanes_run]
  refine LanesActed.foldl (V := scratchView s (s.crewNo c.warp)) (g := c.atomsStep s addr f)
    (Good := fun b => ScratchKept s b.1 ∧ ScratchFrame s c addr b.1) (lanesOf c.em) (fun b good l m => ?_) (fun l m i hi => ⟨?_, rfl⟩) (s, [])
    ⟨.refl s, fun _ _ _ => rfl⟩ (.start (p := Prod.fst) (b := (s, [])) rfl)
  · have on := mem_lanesOf.1 m
    obtain ⟨kept, frame⟩ := good
    have wf := kept.inv inv
    have word : (c.atomsStep s addr f b l).1 = scratchPut b.1 (s.crewNo c.warp)
        (wordWrites (addr l) (f l (BitVec.ofNat 32 (scratchNat b.1 (s.crewNo c.warp) (addr l) 4)))) := scratchPutNat_word ..
    have places : ∀ v, ∀ e ∈ wordWrites (addr l) v, ∃ i, i < 4 ∧ e.1 = addr l + i := fun v e he => by
      obtain ⟨i, hi, rfl⟩ := List.mem_map.1 he
      exact ⟨i, List.mem_range.1 hi, rfl⟩
    refine ⟨⟨word ▸ kept.put .., fun j p away => ?_⟩, BitVec.ofNat 32 (scratchNat b.1 (s.crewNo c.warp) (addr l) 4), rfl, ?_, fun a yes => ?_,
      fun a no => ?_⟩
    · rw [word, scratchPut_frame wf, frame j p away]
      rw [kept.crew]
      refine away.imp id fun all e he => ?_
      obtain ⟨i, hi, at_⟩ := places _ e he
      rw [at_, kept.place]
      exact all l i on hi
    · exact (scratchView_word (inside l on)).symm
    · change a < crewScratch s (s.crewNo c.warp) at yes
      show (if a < crewScratch s (s.crewNo c.warp) then scratchByte (c.atomsStep s addr f b l).1 (s.crewNo c.warp) a else 0#8) = _
      rw [if_pos yes, word, scratchPut_scratchByte wf (by rw [kept.crew, kept.count]; exact present)]
      · exact congrArg (lastAt _ a) (if_pos yes).symm
      · intro e he same
        obtain ⟨i, hi, at_⟩ := places _ e he
        rw [kept.place, kept.place] at same
        have := inside l on
        exact apart _ _ (by omega) yes same
    · exact (if_neg no).trans (if_neg no).symm
  · have := inside l (mem_lanesOf.1 m)
    show addr l + i < crewScratch s (s.crewNo c.warp)
    omega

end

/-! ## The obligation -/

/-- What lanes that have acted leave at a place, from what it held before. -/
theorem LanesActed.byte {β ι : Type} {V : LaneView ι} {addr : Nat → Nat} {f : Nat → Word → Word} {p : β → State}
    {q : β → List (Nat × Word)} {s : State} {b : β} {em : Mask} (h : LanesActed V addr f p q s b) (lanes : (q b).map Prod.fst = lanesOf em)
    {i : ι} (sees : V.sees i) : V.view (p b) i =
      (((lanesOf em).filter fun l => decide (addr l ≤ V.place i) && decide (V.place i < addr l + 4)).getLast?.map fun l =>
        BitVec.ofNat 8 ((f l (laneOf (q b) l 0#32)).toNat / 2 ^ (8 * (V.place i - addr l)))).getD (V.view s i) := by
  have results := eq_map_laneOf lanes (lanesOf_nodup em) 0#32
  rw [h.shown i sees, results, lastAt_laneWrites, ← results]

/-- The lanes' old values, in order. -/
theorem LanesActed.olds {β ι : Type} {V : LaneView ι} {addr : Nat → Nat} {f : Nat → Word → Word} {p : β → State}
    {q : β → List (Nat × Word)} {s : State} {b : β} {em : Mask} (h : LanesActed V addr f p q s b) (lanes : (q b).map Prod.fst = lanesOf em) :
    Chained addr f (fun l a => V.view s (V.eye l a)) ((lanesOf em).map fun l => (l, laneOf (q b) l 0#32)) :=
  eq_map_laneOf lanes (lanesOf_nodup em) 0#32 ▸ h.chained

/-- Settles O19: lanes act in order on the L1's lines, on the homes and on the scratchpad, each by the step of one lane. -/
theorem atomicEffects : Obligations.AtomicEffects := by
  unfold Obligations.AtomicEffects
  intro s c addr f k cx crew on leaf Chain after wordOf aligned core
  have core_of : ∀ {t : State}, MemoryOnly s t → core t := fun only => ⟨only.warps, only.teams, only.crews, only.cores, only.launches⟩
  have after_of : ∀ (old : Nat → Word) (a : Nat) (b : Byte), after old a b =
      (((lanesOf c.em).filter fun l => decide (addr l ≤ a) && decide (a < addr l + 4)).getLast?.map fun l =>
        BitVec.ofNat 8 ((f l (old l)).toNat / 2 ^ (8 * (a - addr l)))).getD b := fun old a b => by
    dsimp only [after]
    split
    · rename_i e
      rw [e]
      rfl
    · rename_i e
      rw [e]
      rfl
  have chain_of : ∀ {m : Nat → Nat → Byte} {old : Nat → Word}, aligned → Chained addr f m ((lanesOf c.em).map fun l => (l, old l)) →
      Chain (fun l => wordOf (m l)) old := fun words chained l lon =>
    ⟨chained.first words lon, fun j jon lt same last => chained.next words lon jon lt same last⟩
  refine ⟨fun only => ⟨atomLanes_lanes c s only addr f, fun words only_ banks plain held => ?_, fun words away flows idle lines => ?_⟩,
    fun only l seen => ⟨atomAt_home, fun x held home => ⟨(atomAt_home home).trans (atomHome_flushes held seen), evictL1_gone held⟩,
      fun home word absent flows idle fresh => ⟨fun n sysa at_ open_ => ?_, fun at_ uncached => ?_⟩⟩,
    atomsLanes_lanes c s addr f, fun words inside present inv apart => ?_⟩
  · subst only_
    obtain ⟨stay, acted⟩ := atomRun_l1 (f := f) words banks plain held
    have lanes := atomLanes_lanes c s true addr f
    refine ⟨core_of (atomLanes_only ..), stay.only.mem, chain_of words (acted.olds lanes), fun j cy lf a => ?_⟩
    by_cases sees : j = k ∧ s.asid cy = s.asid cx
    · rw [if_pos sees, after_of]
      exact acted.byte lanes (i := ⟨j, cy, lf, a⟩) sees
    · rw [if_neg sees]
      exact acted.other ⟨j, cy, lf, a⟩ sees
  · obtain ⟨⟨stay, -⟩, acted⟩ := atomRun_home (f := f) words away flows idle fun l lon => by
      obtain ⟨absent, -, line⟩ := lines l lon
      exact ⟨absent, line⟩
    have lanes := atomLanes_lanes c s only addr f
    refine ⟨core_of (atomLanes_only ..), stay.only.clusters, stay.only.home, stay.only.host, chain_of words (acted.olds lanes),
      fun cy lf a => ?_⟩
    by_cases sees : s.asid cy = s.asid cx ∧ lf.sysa = false ∧ fencedHome s cy (lineOf a) = false
    · rw [if_pos sees, after_of]
      exact acted.byte lanes (i := ⟨k, cy, lf, a⟩) sees
    · rw [if_neg sees]
      exact acted.other ⟨k, cy, lf, a⟩ sees
  · rw [fresh, atomAt_home home]
    obtain ⟨old, wrote, rest⟩ := atomHome_controller (g := f l) flows idle word absent sysa at_ open_
    exact ⟨old, wrote, rest⟩
  · rw [fresh, atomAt_home home]
    obtain ⟨old, wrote, rest⟩ := atomHome_host (g := f l) flows idle word absent at_ uncached
    exact ⟨old, wrote, rest⟩
  · obtain ⟨⟨kept, frame⟩, acted⟩ := atomsRun_scratch (f := f) inside present inv apart
    have lanes := atomsLanes_lanes c s addr f
    refine ⟨core_of (atomsLanes_only ..), kept.mem, fun l lon => ?_, fun a within => ?_, frame⟩
    · obtain ⟨first, next⟩ := chain_of words (acted.olds lanes) l lon
      exact ⟨fun alone => (first alone).trans (scratchView_word (inside l lon)), next⟩
    · rw [after_of]
      have byte := acted.byte lanes (i := a) within
      dsimp only [scratchView] at byte
      rw [if_pos within, if_pos within] at byte
      exact byte

end Sys2Proof.Machine
end
